-- ==== Sys2Proof/Word.lean ====
section
/-! DEFINITION. The word types of the OVK4-768 and their plainest arithmetic (spec/00_scope.md R8). -/

namespace Sys2Proof

/-- One byte of memory (R8). -/
abbrev Byte := BitVec 8

/-- One 64-bit scalar value (R17). -/
abbrev Word := BitVec 64

/-- Bits `lo + len - 1` down to `lo` of `n` (R8). -/
def bitsAt (n lo len : Nat) : Nat := n / 2 ^ lo % 2 ^ len

/-- Bit `k` of `n` (R8). -/
def bitAt (n k : Nat) : Bool := n / 2 ^ k % 2 == 1

/-- `n`, a value of `w` bits, read as two's complement. -/
def signedOf (w n : Nat) : Int :=
  if n % 2 ^ w < 2 ^ (w - 1) then (n % 2 ^ w : Nat) else (n % 2 ^ w : Nat) - (2 ^ w : Nat)

/-- An exact integer taken modulo `2^w`. -/
def wrap (w : Nat) (z : Int) : Nat := (z % (2 ^ w : Nat)).toNat

/-- `1` for `true` and `0` for `false`. -/
def bit (b : Bool) : Nat := if b then 1 else 0

theorem wrap_lt (w : Nat) (z : Int) : wrap w z < 2 ^ w := by
  have hp : (0 : Int) < ((2 ^ w : Nat) : Int) := by exact_mod_cast Nat.two_pow_pos w
  have h1 := Int.emod_nonneg z (ne_of_gt hp)
  have h2 := Int.emod_lt_of_pos z hp
  unfold wrap
  omega

end Sys2Proof
end

