-- ==== Sys2Proof/Config.lean ====
section
/-! DEFINITION. The free values: what the spec leaves open and no proof may look into. Each is a constant without a
body; the log entries name them. -/

namespace Sys2Proof.Config

/-- The `n`-th free number; a meaning draws one with the counter `State.fresh` (DESIGN CHOICE, log entry 3). -/
opaque freeNat : Nat → Nat

/-- The F32 bits of special function `fn` (`acc` the accurate grade) of an input of `w` bits with significand
precision `p`, under a rounding mode and FTZ (R138; DESIGN CHOICE, log entry 3). -/
opaque special (fn : Nat) (acc : Bool) (p w bits rm : Nat) (ftz : Bool) : Nat

/-- What the current routes choose of the spanning tree over some devices (R337; DESIGN CHOICE, log entry 26). -/
opaque routeTree (routes : Nat) (devs : List Nat) : Nat

/-- The 68 bytes of the public key that the ROM holds in an image key slot (R355; PRESUMED, log entry 10). -/
opaque imageKey (slot : Nat) : List Byte

/-- The secret start of chain `chain` of a leaf of the device's identity key (R358; PRESUMED, log entry 10). -/
opaque xmssSecret (leaf chain : Nat) : BitVec 256

/-- The randomizer with which a leaf of the identity key signs (R358; PRESUMED, log entry 10). -/
opaque xmssRandom (leaf : Nat) : BitVec 256

/-- The public seed of the device's identity key (R358; PRESUMED, log entry 10). -/
opaque xmssSeed : BitVec 256

/-- The fixed digest of the boot ROM (R352; PRESUMED, log entry 10). -/
opaque romDigest : BitVec 512

/-- The banks of the reserved areas other than the dump's (R268, R279, R284; DESIGN CHOICE, log entry 24). -/
opaque otherBanks : List Nat

/-- The first bank of the dump area within HBM4E stack 0 or 7 (R368; DESIGN CHOICE, log entry 24). -/
opaque dumpBank (stack : Nat) : Nat

/-- The doubleword of another device's memory that the memory port reads as part of a table (R370; DESIGN CHOICE, log
entry 85). -/
opaque deviceDw (dev addr n : Nat) : Nat

end Sys2Proof.Config
end

