-- ==== Sys2Proof/Syntax.lean ====
section
/-! DEFINITION. The instruction terms of Utrath: one constructor of `Instr` for every row of spec/opcode_table.json
(spec/03_encoding.md R61-R67), with the operands of the device's own steps. -/

namespace Sys2Proof

/-- The `ord` field (R60). -/
inductive Ord where
  | pl | acq | rel | ar
  deriving DecidableEq, Repr

/-- The `scope` field (R60, R227). -/
inductive Scope where
  | hart | core | stack | pkg | sys | fab
  deriving DecidableEq, Repr

/-- The type tags of R35. `q n` is Q(n+1) and `qu n` is QU(n+1). -/
inductive Tag where
  | none
  | s8 | s16 | s32 | s64
  | u8 | u16 | u32 | u64
  | hb
  | f16 | bf16 | f32
  | q (n : BitVec 4)
  | qu (n : BitVec 4)
  deriving DecidableEq, Repr

/-- A context: its partition and its CTXID (R34). -/
structure CtxKey where
  part : Nat
  ctx : BitVec 32
  deriving DecidableEq, Repr

/-- Where an uncorrectable register error arises (R322). -/
inductive PoisonSite where
  | vreg (r : BitVec 6) (word : BitVec 8)
  | mask (m : BitVec 3) (word : BitVec 8)
  | scalar (r : BitVec 5)
  | tile (t : BitVec 3) (entry : BitVec 14)
  deriving DecidableEq, Repr

/-- A received Blufold-X packet (R333): the port, the partition it is for, header and payload. -/
structure Packet where
  port : Nat
  part : Nat
  header : BitVec 128
  payload : List Byte
  deriving DecidableEq, Repr

/-- Where the host accesses a function (R341): `n` bytes at offset `off` of its BAR0 or its BAR2. -/
structure HostPlace where
  bar0 : Bool
  off : Nat
  n : Nat
  deriving DecidableEq, Repr

/-- A replay that a receiver asks for (R332): from link sequence number `seq`; it arrives whole when `ok`. -/
structure Replay where
  seq : Nat
  ok : Bool
  deriving DecidableEq, Repr

/-- A port that comes up (R332, R335): the device it is joined to, and its compressor's thresholds. -/
structure PortSetup where
  port : Nat
  peer : BitVec 16
  onAt : Nat
  offAt : Nat
  deriving DecidableEq, Repr

/-- What a contribution to a collective says beside its group, sequence and member (R222, R224). Units are
elements, or whole 32-element blocks for a block type. -/
structure Contribution where
  fn : Nat
  op : Nat
  root : Nat
  tag : Tag
  vl : Nat
  span : Nat
  units : List Nat
  deriving DecidableEq, Repr

/-- One step of the device: a Utrath instruction, or a step of one of its other agents. The instructions stand
first: the compiler builds no constructor with fields past the 245th, so what builds an `Instr` of any kind (the
decoder) is marked noncomputable; the kernel evaluates it. -/
inductive Instr where
  /-- ADD (R80) -/
  | add (rd : BitVec 5) (ra : BitVec 5) (rb : BitVec 5)
  /-- SUB (R80) -/
  | sub (rd : BitVec 5) (ra : BitVec 5) (rb : BitVec 5)
  /-- AND (R80) -/
  | and (rd : BitVec 5) (ra : BitVec 5) (rb : BitVec 5)
  /-- OR (R80) -/
  | or (rd : BitVec 5) (ra : BitVec 5) (rb : BitVec 5)
  /-- XOR (R80) -/
  | xor (rd : BitVec 5) (ra : BitVec 5) (rb : BitVec 5)
  /-- ANDN (R80) -/
  | andn (rd : BitVec 5) (ra : BitVec 5) (rb : BitVec 5)
  /-- SLL (R80) -/
  | sll (rd : BitVec 5) (ra : BitVec 5) (rb : BitVec 5)
  /-- SRL (R80) -/
  | srl (rd : BitVec 5) (ra : BitVec 5) (rb : BitVec 5)
  /-- SRA (R80) -/
  | sra (rd : BitVec 5) (ra : BitVec 5) (rb : BitVec 5)
  /-- SLT (R80) -/
  | slt (rd : BitVec 5) (ra : BitVec 5) (rb : BitVec 5)
  /-- SLTU (R80) -/
  | sltu (rd : BitVec 5) (ra : BitVec 5) (rb : BitVec 5)
  /-- MIN (R80) -/
  | min (rd : BitVec 5) (ra : BitVec 5) (rb : BitVec 5)
  /-- MAX (R80) -/
  | max (rd : BitVec 5) (ra : BitVec 5) (rb : BitVec 5)
  /-- MINU (R80) -/
  | minu (rd : BitVec 5) (ra : BitVec 5) (rb : BitVec 5)
  /-- MAXU (R80) -/
  | maxu (rd : BitVec 5) (ra : BitVec 5) (rb : BitVec 5)
  /-- MUL (R80) -/
  | mul (rd : BitVec 5) (ra : BitVec 5) (rb : BitVec 5)
  /-- MULH (R80) -/
  | mulh (rd : BitVec 5) (ra : BitVec 5) (rb : BitVec 5)
  /-- MULHU (R80) -/
  | mulhu (rd : BitVec 5) (ra : BitVec 5) (rb : BitVec 5)
  /-- DIV (R81) -/
  | div (rd : BitVec 5) (ra : BitVec 5) (rb : BitVec 5)
  /-- DIVU (R81) -/
  | divu (rd : BitVec 5) (ra : BitVec 5) (rb : BitVec 5)
  /-- REM (R81) -/
  | rem (rd : BitVec 5) (ra : BitVec 5) (rb : BitVec 5)
  /-- REMU (R81) -/
  | remu (rd : BitVec 5) (ra : BitVec 5) (rb : BitVec 5)
  /-- CLZ (R80) -/
  | clz (rd : BitVec 5) (ra : BitVec 5)
  /-- CTZ (R80) -/
  | ctz (rd : BitVec 5) (ra : BitVec 5)
  /-- POPC (R80) -/
  | popc (rd : BitVec 5) (ra : BitVec 5)
  /-- ADDI (R82) -/
  | addi (rd : BitVec 5) (ra : BitVec 5) (imm : BitVec 14)
  /-- ANDI (R82) -/
  | andi (rd : BitVec 5) (ra : BitVec 5) (imm : BitVec 14)
  /-- ORI (R82) -/
  | ori (rd : BitVec 5) (ra : BitVec 5) (imm : BitVec 14)
  /-- XORI (R82) -/
  | xori (rd : BitVec 5) (ra : BitVec 5) (imm : BitVec 14)
  /-- SLTI (R82) -/
  | slti (rd : BitVec 5) (ra : BitVec 5) (imm : BitVec 14)
  /-- SLTIU (R82) -/
  | sltiu (rd : BitVec 5) (ra : BitVec 5) (imm : BitVec 14)
  /-- SLLI (R83) -/
  | slli (rd : BitVec 5) (ra : BitVec 5) (sh : BitVec 6)
  /-- SRLI (R83) -/
  | srli (rd : BitVec 5) (ra : BitVec 5) (sh : BitVec 6)
  /-- SRAI (R83) -/
  | srai (rd : BitVec 5) (ra : BitVec 5) (sh : BitVec 6)
  /-- LUI (R84) -/
  | lui (rd : BitVec 5) (imm : BitVec 19)
  /-- LDPC (R84) -/
  | ldpc (rd : BitVec 5) (imm : BitVec 19)
  /-- LD_B (R85) -/
  | ldB (rd : BitVec 5) (rb : BitVec 5) (ord : Ord) (scope : Scope) (evict : BitVec 3) (imm : BitVec 3)
  /-- LD_BU (R85) -/
  | ldBu (rd : BitVec 5) (rb : BitVec 5) (ord : Ord) (scope : Scope) (evict : BitVec 3) (imm : BitVec 3)
  /-- LD_H (R85) -/
  | ldH (rd : BitVec 5) (rb : BitVec 5) (ord : Ord) (scope : Scope) (evict : BitVec 3) (imm : BitVec 3)
  /-- LD_HU (R85) -/
  | ldHu (rd : BitVec 5) (rb : BitVec 5) (ord : Ord) (scope : Scope) (evict : BitVec 3) (imm : BitVec 3)
  /-- LD_W (R85) -/
  | ldW (rd : BitVec 5) (rb : BitVec 5) (ord : Ord) (scope : Scope) (evict : BitVec 3) (imm : BitVec 3)
  /-- LD_WU (R85) -/
  | ldWu (rd : BitVec 5) (rb : BitVec 5) (ord : Ord) (scope : Scope) (evict : BitVec 3) (imm : BitVec 3)
  /-- LD_D (R85) -/
  | ldD (rd : BitVec 5) (rb : BitVec 5) (ord : Ord) (scope : Scope) (evict : BitVec 3) (imm : BitVec 3)
  /-- ST_B (R85) -/
  | stB (rs : BitVec 5) (rb : BitVec 5) (ord : Ord) (scope : Scope) (evict : BitVec 3) (imm : BitVec 3)
  /-- ST_H (R85) -/
  | stH (rs : BitVec 5) (rb : BitVec 5) (ord : Ord) (scope : Scope) (evict : BitVec 3) (imm : BitVec 3)
  /-- ST_W (R85) -/
  | stW (rs : BitVec 5) (rb : BitVec 5) (ord : Ord) (scope : Scope) (evict : BitVec 3) (imm : BitVec 3)
  /-- ST_D (R85) -/
  | stD (rs : BitVec 5) (rb : BitVec 5) (ord : Ord) (scope : Scope) (evict : BitVec 3) (imm : BitVec 3)
  /-- BEQ (R89) -/
  | beq (ra : BitVec 5) (rb : BitVec 5) (off : BitVec 11)
  /-- BNE (R89) -/
  | bne (ra : BitVec 5) (rb : BitVec 5) (off : BitVec 11)
  /-- BLT (R89) -/
  | blt (ra : BitVec 5) (rb : BitVec 5) (off : BitVec 11)
  /-- BGE (R89) -/
  | bge (ra : BitVec 5) (rb : BitVec 5) (off : BitVec 11)
  /-- BLTU (R89) -/
  | bltu (ra : BitVec 5) (rb : BitVec 5) (off : BitVec 11)
  /-- BGEU (R89) -/
  | bgeu (ra : BitVec 5) (rb : BitVec 5) (off : BitVec 11)
  /-- JAL (R90) -/
  | jal (rd : BitVec 5) (off : BitVec 19)
  /-- JALR (R90) -/
  | jalr (rd : BitVec 5) (ra : BitVec 5) (imm : BitVec 14)
  /-- LOOP_SET (R91) -/
  | loopSet (ra : BitVec 5) (tag : Tag) (grp : BitVec 2) (tp : BitVec 1) (mp : BitVec 1)
  /-- LOOP_NEXT (R92) -/
  | loopNext (off : BitVec 14)
  /-- FARM_SET (R93) -/
  | farmSet (ra : BitVec 5) (tag : Tag) (grp : BitVec 2) (tp : BitVec 1) (mp : BitVec 1)
  /-- CSRR (R95) -/
  | csrr (rd : BitVec 5) (csr : BitVec 10)
  /-- CSRW (R95) -/
  | csrw (rd : BitVec 5) (csr : BitVec 10) (ra : BitVec 5)
  /-- CSRS (R95) -/
  | csrs (rd : BitVec 5) (csr : BitVec 10) (ra : BitVec 5)
  /-- CSRC (R95) -/
  | csrc (rd : BitVec 5) (csr : BitVec 10) (ra : BitVec 5)
  /-- SVC (R96) -/
  | svc (imm : BitVec 10)
  /-- BRK (R96) -/
  | brk (imm : BitVec 10)
  /-- EXIT (R97) -/
  | exit (ra : BitVec 5)
  /-- CACHECTL_SYNCI (R98) -/
  | cachectlSynci (ra : BitVec 5)
  /-- CACHECTL_WB (R98) -/
  | cachectlWb (ra : BitVec 5)
  /-- CACHECTL_WBINV (R98) -/
  | cachectlWbinv (ra : BitVec 5)
  /-- CACHECTL_PF1 (R98) -/
  | cachectlPf1 (ra : BitVec 5)
  /-- CACHECTL_PF2 (R98) -/
  | cachectlPf2 (ra : BitVec 5)
  /-- CACHECTL_ZERO (R98) -/
  | cachectlZero (ra : BitVec 5)
  /-- ERET (R99) -/
  | eret
  /-- TLBINV (R100) -/
  | tlbinv (kind : BitVec 2) (ra : BitVec 5)
  /-- CTX_RESUME_RETRY (R101) -/
  | ctxResumeRetry (ra : BitVec 5)
  /-- CTX_RESUME_SKIP (R101) -/
  | ctxResumeSkip (ra : BitVec 5)
  /-- CTX_SAVE (R102) -/
  | ctxSave (ra : BitVec 5)
  /-- FENCE (R203) -/
  | fence (pred : BitVec 8) (succ : BitVec 8) (scope : Scope)
  /-- AMO_ADD (R200) -/
  | amoAdd (rd : BitVec 5) (ra : BitVec 5) (rb : BitVec 5) (ord : Ord) (scope : Scope)
  /-- AMO_AND (R200) -/
  | amoAnd (rd : BitVec 5) (ra : BitVec 5) (rb : BitVec 5) (ord : Ord) (scope : Scope)
  /-- AMO_OR (R200) -/
  | amoOr (rd : BitVec 5) (ra : BitVec 5) (rb : BitVec 5) (ord : Ord) (scope : Scope)
  /-- AMO_XOR (R200) -/
  | amoXor (rd : BitVec 5) (ra : BitVec 5) (rb : BitVec 5) (ord : Ord) (scope : Scope)
  /-- AMO_MIN (R200) -/
  | amoMin (rd : BitVec 5) (ra : BitVec 5) (rb : BitVec 5) (ord : Ord) (scope : Scope)
  /-- AMO_MAX (R200) -/
  | amoMax (rd : BitVec 5) (ra : BitVec 5) (rb : BitVec 5) (ord : Ord) (scope : Scope)
  /-- AMO_MINU (R200) -/
  | amoMinu (rd : BitVec 5) (ra : BitVec 5) (rb : BitVec 5) (ord : Ord) (scope : Scope)
  /-- AMO_MAXU (R200) -/
  | amoMaxu (rd : BitVec 5) (ra : BitVec 5) (rb : BitVec 5) (ord : Ord) (scope : Scope)
  /-- AMO_SWAP (R200) -/
  | amoSwap (rd : BitVec 5) (ra : BitVec 5) (rb : BitVec 5) (ord : Ord) (scope : Scope)
  /-- AMO_CAS (R200) -/
  | amoCas (rd : BitVec 5) (ra : BitVec 5) (rb : BitVec 5) (ord : Ord) (scope : Scope)
  /-- BAR_INIT (R207) -/
  | barInit (rb : BitVec 5) (ra : BitVec 5) (scope : Scope)
  /-- BAR_ARV (R207) -/
  | barArv (rd : BitVec 5) (rb : BitVec 5) (scope : Scope)
  /-- BAR_WAIT (R207) -/
  | barWait (rb : BitVec 5) (ra : BitVec 5) (scope : Scope)
  /-- BAR_ARVWAIT (R207) -/
  | barArvwait (rd : BitVec 5) (rb : BitVec 5) (scope : Scope)
  /-- TKWAIT (R211) -/
  | tkwait
  /-- TKTRIG (R211) -/
  | tktrig
  /-- TASK_SPAWN (R212) -/
  | taskSpawn (rd : BitVec 5) (ra : BitVec 5)
  /-- VCFG (R103) -/
  | vcfg (vd : BitVec 6) (tag : Tag) (dom : BitVec 3) (grp : BitVec 2)
  /-- VLREQ (R104) -/
  | vlreq (rd : BitVec 5) (ra : BitVec 5) (tag : Tag) (grp : BitVec 2) (tp : BitVec 1) (mp : BitVec 1)
  /-- VTAGR (R106) -/
  | vtagr (rd : BitVec 5) (va : BitVec 6)
  /-- VDIM (R107) -/
  | vdim (dk : BitVec 3) (ra : BitVec 5) (rb : BitVec 5)
  /-- SHP_LD (R108) -/
  | shpLd (entry : BitVec 4) (ra : BitVec 5)
  /-- VLD (R113) -/
  | vld (vd : BitVec 6) (xb : BitVec 5) (mode : BitVec 3) (mask : BitVec 2) (ord : Ord) (scope : Scope) (evict : BitVec 3)
  /-- VST (R114) -/
  | vst (vs : BitVec 6) (xb : BitVec 5) (mode : BitVec 3) (mask : BitVec 2) (ord : Ord) (scope : Scope) (evict : BitVec 3)
  /-- VLDC (R118) -/
  | vldc (vd : BitVec 6) (xb : BitVec 5) (mode : BitVec 3) (cm : BitVec 2) (ord : Ord) (scope : Scope) (evict : BitVec 3)
  /-- VSPILL (R119) -/
  | vspill (vd : BitVec 6) (xb : BitVec 5) (imm : BitVec 12)
  /-- VFILL (R119) -/
  | vfill (vd : BitVec 6) (xb : BitVec 5) (imm : BitVec 12)
  /-- VLDX (R122) -/
  | vldx (vd : BitVec 6) (vi : BitVec 6) (xb : BitVec 5) (scale : BitVec 2) (mask : BitVec 2) (ord : Ord) (scope : Scope) (evict : BitVec 3)
  /-- VSTX (R122) -/
  | vstx (vs : BitVec 6) (vi : BitVec 6) (xb : BitVec 5) (scale : BitVec 2) (mask : BitVec 2) (ord : Ord) (scope : Scope) (evict : BitVec 3)
  /-- VAMOADD (R123) -/
  | vamoadd (vs : BitVec 6) (vi : BitVec 6) (xb : BitVec 5) (scale : BitVec 2) (mask : BitVec 2) (ord : Ord) (scope : Scope) (evict : BitVec 3)
  /-- VADD (R128) -/
  | vadd (vd : BitVec 6) (va : BitVec 6) (vb : BitVec 6) (mask : BitVec 2)
  /-- VSUB (R128) -/
  | vsub (vd : BitVec 6) (va : BitVec 6) (vb : BitVec 6) (mask : BitVec 2)
  /-- VMUL (R128) -/
  | vmul (vd : BitVec 6) (va : BitVec 6) (vb : BitVec 6) (mask : BitVec 2)
  /-- VMIN (R130) -/
  | vmin (vd : BitVec 6) (va : BitVec 6) (vb : BitVec 6) (mask : BitVec 2)
  /-- VMAX (R130) -/
  | vmax (vd : BitVec 6) (va : BitVec 6) (vb : BitVec 6) (mask : BitVec 2)
  /-- VABS (R128) -/
  | vabs (vd : BitVec 6) (va : BitVec 6) (mask : BitVec 2)
  /-- VNEG (R128) -/
  | vneg (vd : BitVec 6) (va : BitVec 6) (mask : BitVec 2)
  /-- VFMA (R128) -/
  | vfma (vd : BitVec 6) (va : BitVec 6) (vb : BitVec 6) (mask : BitVec 2)
  /-- VFMS (R128) -/
  | vfms (vd : BitVec 6) (va : BitVec 6) (vb : BitVec 6) (mask : BitVec 2)
  /-- VFNMA (R128) -/
  | vfnma (vd : BitVec 6) (va : BitVec 6) (vb : BitVec 6) (mask : BitVec 2)
  /-- VDIV (R128) -/
  | vdiv (vd : BitVec 6) (va : BitVec 6) (vb : BitVec 6) (mask : BitVec 2)
  /-- VSQRT (R128) -/
  | vsqrt (vd : BitVec 6) (va : BitVec 6) (mask : BitVec 2)
  /-- VAND (R128) -/
  | vand (vd : BitVec 6) (va : BitVec 6) (vb : BitVec 6) (mask : BitVec 2)
  /-- VOR (R128) -/
  | vor (vd : BitVec 6) (va : BitVec 6) (vb : BitVec 6) (mask : BitVec 2)
  /-- VXOR (R128) -/
  | vxor (vd : BitVec 6) (va : BitVec 6) (vb : BitVec 6) (mask : BitVec 2)
  /-- VNOT (R128) -/
  | vnot (vd : BitVec 6) (va : BitVec 6) (mask : BitVec 2)
  /-- VSLL (R131) -/
  | vsll (vd : BitVec 6) (va : BitVec 6) (vb : BitVec 6) (mask : BitVec 2)
  /-- VSRL (R131) -/
  | vsrl (vd : BitVec 6) (va : BitVec 6) (vb : BitVec 6) (mask : BitVec 2)
  /-- VSRA (R131) -/
  | vsra (vd : BitVec 6) (va : BitVec 6) (vb : BitVec 6) (mask : BitVec 2)
  /-- VMULH (R131) -/
  | vmulh (vd : BitVec 6) (va : BitVec 6) (vb : BitVec 6) (mask : BitVec 2)
  /-- VMULR (R132) -/
  | vmulr (vd : BitVec 6) (va : BitVec 6) (vb : BitVec 6) (mask : BitVec 2)
  /-- VADDR (R132) -/
  | vaddr (vd : BitVec 6) (va : BitVec 6) (vb : BitVec 6) (mask : BitVec 2)
  /-- VRCPS (R133) -/
  | vrcps (vd : BitVec 6) (va : BitVec 6) (vb : BitVec 6) (mask : BitVec 2)
  /-- VRSQS (R133) -/
  | vrsqs (vd : BitVec 6) (va : BitVec 6) (vb : BitVec 6) (mask : BitVec 2)
  /-- VCMP_EQ (R134) -/
  | vcmpEq (md : BitVec 3) (va : BitVec 6) (vb : BitVec 6) (mask : BitVec 2)
  /-- VCMP_LT (R134) -/
  | vcmpLt (md : BitVec 3) (va : BitVec 6) (vb : BitVec 6) (mask : BitVec 2)
  /-- VCMP_LE (R134) -/
  | vcmpLe (md : BitVec 3) (va : BitVec 6) (vb : BitVec 6) (mask : BitVec 2)
  /-- VCVT (R135) -/
  | vcvt (vd : BitVec 6) (va : BitVec 6) (tag : Tag) (mask : BitVec 2)
  /-- VWIDEN (R131) -/
  | vwiden (vd : BitVec 6) (va : BitVec 6) (tag : Tag) (mask : BitVec 2)
  /-- VNARROW (R131) -/
  | vnarrow (vd : BitVec 6) (va : BitVec 6) (tag : Tag) (mask : BitVec 2)
  /-- VADD_X (R136) -/
  | vaddX (vd : BitVec 6) (va : BitVec 6) (xb : BitVec 5) (mask : BitVec 2)
  /-- VSUB_X (R136) -/
  | vsubX (vd : BitVec 6) (va : BitVec 6) (xb : BitVec 5) (mask : BitVec 2)
  /-- VSUB_X_REV (R136) -/
  | vsubXRev (vd : BitVec 6) (va : BitVec 6) (xb : BitVec 5) (mask : BitVec 2)
  /-- VMUL_X (R136) -/
  | vmulX (vd : BitVec 6) (va : BitVec 6) (xb : BitVec 5) (mask : BitVec 2)
  /-- VFMA_X (R136) -/
  | vfmaX (vd : BitVec 6) (va : BitVec 6) (xb : BitVec 5) (mask : BitVec 2)
  /-- VMIN_X (R136) -/
  | vminX (vd : BitVec 6) (va : BitVec 6) (xb : BitVec 5) (mask : BitVec 2)
  /-- VMAX_X (R136) -/
  | vmaxX (vd : BitVec 6) (va : BitVec 6) (xb : BitVec 5) (mask : BitVec 2)
  /-- VBCAST (R136) -/
  | vbcast (vd : BitVec 6) (xb : BitVec 5) (mask : BitVec 2)
  /-- VSLL_X (R136) -/
  | vsllX (vd : BitVec 6) (va : BitVec 6) (xb : BitVec 5) (mask : BitVec 2)
  /-- VSRL_X (R136) -/
  | vsrlX (vd : BitVec 6) (va : BitVec 6) (xb : BitVec 5) (mask : BitVec 2)
  /-- VSRA_X (R136) -/
  | vsraX (vd : BitVec 6) (va : BitVec 6) (xb : BitVec 5) (mask : BitVec 2)
  /-- VCMP_EQX (R136) -/
  | vcmpEqx (md : BitVec 3) (va : BitVec 6) (xb : BitVec 5) (mask : BitVec 2)
  /-- VCMP_LTX (R136) -/
  | vcmpLtx (md : BitVec 3) (va : BitVec 6) (xb : BitVec 5) (mask : BitVec 2)
  /-- VCMP_LTX_REV (R136) -/
  | vcmpLtxRev (md : BitVec 3) (va : BitVec 6) (xb : BitVec 5) (mask : BitVec 2)
  /-- VCMP_LEX (R136) -/
  | vcmpLex (md : BitVec 3) (va : BitVec 6) (xb : BitVec 5) (mask : BitVec 2)
  /-- VCMP_LEX_REV (R136) -/
  | vcmpLexRev (md : BitVec 3) (va : BitVec 6) (xb : BitVec 5) (mask : BitVec 2)
  /-- VMV_XV (R137) -/
  | vmvXv (xd : BitVec 5) (va : BitVec 6) (xb : BitVec 5)
  /-- VMV_VX (R137) -/
  | vmvVx (vd : BitVec 6) (xa : BitVec 5) (xb : BitVec 5)
  /-- VEXP_FAST (R139) -/
  | vexpFast (vd : BitVec 6) (va : BitVec 6) (mask : BitVec 2)
  /-- VLOG_FAST (R139) -/
  | vlogFast (vd : BitVec 6) (va : BitVec 6) (mask : BitVec 2)
  /-- VRCP_FAST (R139) -/
  | vrcpFast (vd : BitVec 6) (va : BitVec 6) (mask : BitVec 2)
  /-- VRSQRT_FAST (R139) -/
  | vrsqrtFast (vd : BitVec 6) (va : BitVec 6) (mask : BitVec 2)
  /-- VTANH_FAST (R139) -/
  | vtanhFast (vd : BitVec 6) (va : BitVec 6) (mask : BitVec 2)
  /-- VSIGM_FAST (R139) -/
  | vsigmFast (vd : BitVec 6) (va : BitVec 6) (mask : BitVec 2)
  /-- VGELU_FAST (R139) -/
  | vgeluFast (vd : BitVec 6) (va : BitVec 6) (mask : BitVec 2)
  /-- VSILU_FAST (R139) -/
  | vsiluFast (vd : BitVec 6) (va : BitVec 6) (mask : BitVec 2)
  /-- VEXP_ACC (R139) -/
  | vexpAcc (vd : BitVec 6) (va : BitVec 6) (mask : BitVec 2)
  /-- VLOG_ACC (R139) -/
  | vlogAcc (vd : BitVec 6) (va : BitVec 6) (mask : BitVec 2)
  /-- VRCP_ACC (R139) -/
  | vrcpAcc (vd : BitVec 6) (va : BitVec 6) (mask : BitVec 2)
  /-- VRSQRT_ACC (R139) -/
  | vrsqrtAcc (vd : BitVec 6) (va : BitVec 6) (mask : BitVec 2)
  /-- VTANH_ACC (R139) -/
  | vtanhAcc (vd : BitVec 6) (va : BitVec 6) (mask : BitVec 2)
  /-- VSIGM_ACC (R139) -/
  | vsigmAcc (vd : BitVec 6) (va : BitVec 6) (mask : BitVec 2)
  /-- VGELU_ACC (R139) -/
  | vgeluAcc (vd : BitVec 6) (va : BitVec 6) (mask : BitVec 2)
  /-- VSILU_ACC (R139) -/
  | vsiluAcc (vd : BitVec 6) (va : BitVec 6) (mask : BitVec 2)
  /-- VREDSUM_ORD (R143) -/
  | vredsumOrd (vd : BitVec 6) (va : BitVec 6) (vb : BitVec 6) (mask : BitVec 2)
  /-- VREDSUM_TREE (R143) -/
  | vredsumTree (vd : BitVec 6) (va : BitVec 6) (vb : BitVec 6) (mask : BitVec 2)
  /-- VREDMAX (R143) -/
  | vredmax (vd : BitVec 6) (va : BitVec 6) (vb : BitVec 6) (mask : BitVec 2)
  /-- VREDMIN (R143) -/
  | vredmin (vd : BitVec 6) (va : BitVec 6) (vb : BitVec 6) (mask : BitVec 2)
  /-- VREDSUMW (R143) -/
  | vredsumw (vd : BitVec 6) (va : BitVec 6) (vb : BitVec 6) (mask : BitVec 2)
  /-- VREDAND (R143) -/
  | vredand (vd : BitVec 6) (va : BitVec 6) (vb : BitVec 6) (mask : BitVec 2)
  /-- VREDOR (R143) -/
  | vredor (vd : BitVec 6) (va : BitVec 6) (vb : BitVec 6) (mask : BitVec 2)
  /-- VREDXOR (R143) -/
  | vredxor (vd : BitVec 6) (va : BitVec 6) (vb : BitVec 6) (mask : BitVec 2)
  /-- VPOPC (R144) -/
  | vpopc (xd : BitVec 5) (ma : BitVec 3) (mask : BitVec 2)
  /-- VFIRST (R144) -/
  | vfirst (xd : BitVec 5) (ma : BitVec 3) (mask : BitVec 2)
  /-- MAND (R144) -/
  | mand (md : BitVec 3) (ma : BitVec 3) (mb : BitVec 3)
  /-- MOR (R144) -/
  | mor (md : BitVec 3) (ma : BitVec 3) (mb : BitVec 3)
  /-- MXOR (R144) -/
  | mxor (md : BitVec 3) (ma : BitVec 3) (mb : BitVec 3)
  /-- MNOT (R144) -/
  | mnot (md : BitVec 3) (ma : BitVec 3)
  /-- MANDN (R144) -/
  | mandn (md : BitVec 3) (ma : BitVec 3) (mb : BitVec 3)
  /-- MSET (R144) -/
  | mset (md : BitVec 3)
  /-- VSLIDEUP (R146) -/
  | vslideup (vd : BitVec 6) (va : BitVec 6) (xb : BitVec 5) (mask : BitVec 2)
  /-- VSLIDEDN (R146) -/
  | vslidedn (vd : BitVec 6) (va : BitVec 6) (xb : BitVec 5) (mask : BitVec 2)
  /-- VROT (R146) -/
  | vrot (vd : BitVec 6) (va : BitVec 6) (xb : BitVec 5) (mask : BitVec 2)
  /-- VPERM (R146) -/
  | vperm (vd : BitVec 6) (va : BitVec 6) (vb : BitVec 6) (mask : BitVec 2)
  /-- VCOMPRESS (R146) -/
  | vcompress (vd : BitVec 6) (va : BitVec 6) (mask : BitVec 2)
  /-- VEXPAND (R146) -/
  | vexpand (vd : BitVec 6) (va : BitVec 6) (mask : BitVec 2)
  /-- VZIP (R146) -/
  | vzip (vd : BitVec 6) (va : BitVec 6) (vb : BitVec 6) (mask : BitVec 2)
  /-- VUNZIP (R146) -/
  | vunzip (vd : BitVec 6) (va : BitVec 6) (vb : BitVec 6) (mask : BitVec 2)
  /-- VTRANS (R146) -/
  | vtrans (vd : BitVec 6) (va : BitVec 6) (mask : BitVec 2)
  /-- VMERGE (R146) -/
  | vmerge (vd : BitVec 6) (va : BitVec 6) (vb : BitVec 6) (mask : BitVec 2)
  /-- VMV (R146) -/
  | vmv (vd : BitVec 6) (va : BitVec 6) (mask : BitVec 2)
  /-- VTIDX (R148) -/
  | vtidx (vd : BitVec 6) (va : BitVec 6) (entry : BitVec 4)
  /-- VID (R146) -/
  | vid (vd : BitVec 6)
  /-- VQUANT (R146) -/
  | vquant (vd : BitVec 6) (va : BitVec 6) (tag : Tag) (mask : BitVec 2)
  /-- VDEQ (R146) -/
  | vdeq (vd : BitVec 6) (va : BitVec 6) (tag : Tag) (mask : BitVec 2)
  /-- VHAAR (R159) -/
  | vhaar (vd : BitVec 6) (va : BitVec 6) (lev : BitVec 3) (mask : BitVec 2)
  /-- VIHAAR (R160) -/
  | vihaar (vd : BitVec 6) (va : BitVec 6) (mask : BitVec 2)
  /-- VTHR (R161) -/
  | vthr (vd : BitVec 6) (va : BitVec 6) (mask : BitVec 2)
  /-- VSIG (R162) -/
  | vsig (md : BitVec 3) (va : BitVec 6) (mask : BitVec 2)
  /-- VDOM (R163) -/
  | vdom (xd : BitVec 5) (va : BitVec 6)
  /-- VSTW (R165) -/
  | vstw (vs : BitVec 6) (xb : BitVec 5) (lev : BitVec 3) (thr : BitVec 1) (mask : BitVec 2) (ord : Ord) (scope : Scope) (evict : BitVec 3)
  /-- TCLR (R172) -/
  | tclr (tile : BitVec 3) (exp : BitVec 10) (slot : BitVec 4) (set : BitVec 1) (wait : BitVec 16)
  /-- BPACC (R174) -/
  | bpacc (tile : BitVec 3) (va : BitVec 6) (vb : BitVec 6) (am : BitVec 2) (bm : BitVec 2) (slot : BitVec 4) (set : BitVec 1) (wait : BitVec 16)
  /-- BPSUB (R174) -/
  | bpsub (tile : BitVec 3) (va : BitVec 6) (vb : BitVec 6) (am : BitVec 2) (bm : BitVec 2) (slot : BitVec 4) (set : BitVec 1) (wait : BitVec 16)
  /-- MRD (R177) -/
  | mrd (vd : BitVec 6) (tile : BitVec 3) (xb : BitVec 5) (slot : BitVec 4) (set : BitVec 1) (wait : BitVec 16)
  /-- MCOL (R177) -/
  | mcol (vd : BitVec 6) (tile : BitVec 3) (xb : BitVec 5) (slot : BitVec 4) (set : BitVec 1) (wait : BitVec 16)
  /-- MWR (R178) -/
  | mwr (tile : BitVec 3) (va : BitVec 6) (xb : BitVec 5) (slot : BitVec 4) (set : BitVec 1) (wait : BitVec 16)
  /-- MLD (R179) -/
  | mld (tile : BitVec 3) (xa : BitVec 5) (xb : BitVec 5) (slot : BitVec 4) (set : BitVec 1) (wait : BitVec 16)
  /-- MST (R179) -/
  | mst (tile : BitVec 3) (xa : BitVec 5) (xb : BitVec 5) (slot : BitVec 4) (set : BitVec 1) (wait : BitVec 16)
  /-- MWAIT (R168) -/
  | mwait (slot : BitVec 4) (wait : BitVec 16)
  /-- HBIND (R183) -/
  | hbind (vd : BitVec 6) (va : BitVec 6) (vb : BitVec 6) (mask : BitVec 2)
  /-- HBUNDLE (R185) -/
  | hbundle (vd : BitVec 6) (va : BitVec 6) (mask : BitVec 2)
  /-- HMAJ (R186) -/
  | hmaj (vd : BitVec 6) (va : BitVec 6) (vb : BitVec 6) (mask : BitVec 2)
  /-- HPERM (R184) -/
  | hperm (vd : BitVec 6) (va : BitVec 6) (xb : BitVec 5) (mask : BitVec 2)
  /-- HSIM (R187) -/
  | hsim (xd : BitVec 5) (va : BitVec 6) (vb : BitVec 6) (mask : BitVec 2)
  /-- HRAND (R188) -/
  | hrand (vd : BitVec 6) (xb : BitVec 5) (mask : BitVec 2)
  /-- HCLEAN (R190) -/
  | hclean (xd : BitVec 5) (va : BitVec 6) (xb : BitVec 5) (xn : BitVec 5)
  /-- HFACT (R194) -/
  | hfact (xd : BitVec 5) (va : BitVec 6) (xb : BitVec 5) (xn : BitVec 5)
  /-- CPY (R216) -/
  | cpy (xd : BitVec 5) (xs : BitVec 5) (xn : BitVec 5) (chunk : BitVec 3) (chan : BitVec 2) (cm : BitVec 2) (bar : BitVec 1) (xbar : BitVec 5) (ord : Ord) (scope : Scope) (evict : BitVec 3)
  /-- CPYZ (R216) -/
  | cpyz (xd : BitVec 5) (xn : BitVec 5) (chunk : BitVec 3) (chan : BitVec 2) (cm : BitVec 2) (bar : BitVec 1) (xbar : BitVec 5) (ord : Ord) (scope : Scope) (evict : BitVec 3)
  /-- CMASK (R218) -/
  | cmask (cm : BitVec 2)
  /-- COLL_RED (R222) -/
  | collRed (vd : BitVec 6) (va : BitVec 6) (gk : BitVec 3) (op : BitVec 4) (mask : BitVec 2)
  /-- COLL_GAT (R222) -/
  | collGat (vd : BitVec 6) (va : BitVec 6) (gk : BitVec 3) (mask : BitVec 2)
  /-- COLL_SCT (R222) -/
  | collSct (vd : BitVec 6) (va : BitVec 6) (gk : BitVec 3) (xroot : BitVec 5) (mask : BitVec 2)
  /-- COLL_BC (R222) -/
  | collBc (vd : BitVec 6) (va : BitVec 6) (gk : BitVec 3) (xroot : BitVec 5) (mask : BitVec 2)
  /-- COLL_A2A (R222) -/
  | collA2a (vd : BitVec 6) (va : BitVec 6) (gk : BitVec 3) (mask : BitVec 2)
  /-- GSET (R220) -/
  | gset (gk : BitVec 3) (xa : BitVec 5)
  /-- LI (R66) -/
  | li (rd : BitVec 5) (imm : BitVec 50)
  /-- LI_HI (R66) -/
  | liHi (rd : BitVec 5) (imm : BitVec 50)
  /-- H_ADDI (R67) -/
  | hAddi (rd : BitVec 5) (imm : BitVec 6)
  /-- H_LI (R67) -/
  | hLi (rd : BitVec 5) (imm : BitVec 6)
  /-- H_MV (R67) -/
  | hMv (rd : BitVec 5) (ra : BitVec 5)
  /-- H_ADD (R67) -/
  | hAdd (rd : BitVec 5) (ra : BitVec 5)
  /-- H_SUB (R67) -/
  | hSub (rd : BitVec 5) (ra : BitVec 5)
  /-- H_LD_D (R67) -/
  | hLdD (rd : BitVec 5) (rb : BitVec 5) (imm : BitVec 1)
  /-- H_ST_D (R67) -/
  | hStD (rs : BitVec 5) (rb : BitVec 5) (imm : BitVec 1)
  /-- H_LD_W (R67) -/
  | hLdW (rd : BitVec 5) (rb : BitVec 5) (imm : BitVec 1)
  /-- H_ST_W (R67) -/
  | hStW (rs : BitVec 5) (rb : BitVec 5) (imm : BitVec 1)
  /-- H_BEQZ (R67) -/
  | hBeqz (ra : BitVec 5) (off : BitVec 6)
  /-- H_BNEZ (R67) -/
  | hBnez (ra : BitVec 5) (off : BitVec 6)
  /-- H_J (R67) -/
  | hJ (off : BitVec 11)
  /-- H_LOOPNEXT (R67) -/
  | hLoopnext (off : BitVec 11)
  /-- H_VADD (R67) -/
  | hVadd (vd : BitVec 5) (va : BitVec 5)
  /-- H_NOP (R67) -/
  | hNop
  /-- H_BRK (R67) -/
  | hBrk (imm : BitVec 10)
  /-- BWPHASE_WRITE: the write of `v` to BWPHASE by context `k` (R265). -/
  | bwphaseWrite (k : CtxKey) (v : Word)
  /-- HART_EXIT_COMPLETE: the exit of context `k` ends its drain (R97). -/
  | hartExitComplete (k : CtxKey)
  /-- BAR_WAIT_COMPLETE: a waiting bar.wait or bar.arvwait of context `k` looks at its word (R207). -/
  | barWaitComplete (k : CtxKey)
  /-- TKWAIT_COMPLETE: a waiting tkwait of context `k` looks at its producers (R211). -/
  | tkwaitComplete (k : CtxKey)
  /-- MATRIX_COMPLETE: the `n`-th pending matrix instruction of context `k` completes (R168, R169). -/
  | matrixComplete (k : CtxKey) (n : Nat)
  /-- COPY_CHUNK: a channel moves one chunk of a transfer of context `k` (R216). -/
  | copyChunk (k : CtxKey) (xfer chunk : Nat)
  /-- COPY_TRANSFER_FINISH: a transfer of context `k` with every chunk done arrives at its barrier (R216). -/
  | copyTransferFinish (k : CtxKey) (xfer : Nat)
  /-- COLLECTIVE_COMPLETE: a waiting collective of context `k` looks at its contributions (R224). -/
  | collectiveComplete (k : CtxKey)
  /-- TAKE_TRAP: context `k`, stopped on a failed check, drains its older work (R315). -/
  | takeTrap (k : CtxKey)
  /-- FAULT_RECORD_WRITE: the oldest fault record of the partition is written (R318). -/
  | faultRecordWrite (part : Nat)
  /-- FAULT_QUEUE_HEAD_WRITE: HEAD of the fault queue is written (R319). -/
  | faultQueueHeadWrite (part : Nat) (v : Word)
  /-- REGISTER_POISON: an uncorrectable error in a register word or tile entry (R322). -/
  | registerPoison (k : CtxKey) (site : PoisonSite)
  /-- CONTEXT_KILL: context `k` consumes poisoned memory data at `pa` (R323). -/
  | contextKill (k : CtxKey) (pa sub : Nat)
  /-- DISPATCH_DECISION: one decision of the dispatcher (R303). -/
  | dispatchDecision (part : Nat)
  /-- PREEMPT: the dispatcher chooses a victim (R304). -/
  | preempt (part : Nat)
  /-- CONTEXT_SAVE_END: the save of context `k` ends (R325, R328). -/
  | contextSaveEnd (k : CtxKey)
  /-- HOST_LAUNCH: the host writes a task record to LAUNCH (R343). -/
  | hostLaunch (part : Nat) (rec : List Byte)
  /-- TASK_END: every hart of the task has exited or been killed (R308). -/
  | taskEnd (part : Nat) (task : Word)
  /-- COMPLETION_RECORD_WRITE: the oldest waiting completion record is written (R310). -/
  | completionRecordWrite (part : Nat)
  /-- CQHEAD_WRITE: the host writes CQHEAD (R310). -/
  | cqheadWrite (part : Nat) (v : Word)
  /-- HOST_KILL: the host writes KILL (R320, R344). -/
  | hostKill (part : Nat) (v : Word)
  /-- HOST_SHOOTDOWN: the host writes SHOOT (R289, R344). -/
  | hostShootdown (part : Nat) (v : Word)
  /-- RESPONDER_SHOOTDOWN: a core acknowledges its oldest shoot-down (R289). -/
  | responderShootdown (core : Nat)
  /-- SHOOTDOWN_COMPLETE: the oldest shoot-down of the partition with every acknowledgement completes (R290). -/
  | shootdownComplete (part : Nat)
  /-- PTE_INSERT: doubleword 0 of entry `f` of table `t` is written with VAL 1 (R286). -/
  | pteInsert (part t f : Nat) (v : Word)
  /-- PTE_REMOVE: doubleword 0 of entry `f` of table `t` is written with VAL 0 (R286). -/
  | pteRemove (part t f : Nat) (v : Word)
  /-- MIGRATION_START: doubleword 2 of entry `f` of table `t` is written (R292). -/
  | migrationStart (part t f : Nat) (v : Word)
  /-- MIGRATION_LINE_COPY: the engine copies one line of the migrating frame (R293). -/
  | migrationLineCopy (t f : Nat)
  /-- MIGRATION_SWITCH: the migration switches frames (R292). -/
  | migrationSwitch (t f : Nat)
  /-- MIGRATION_END: the second shoot-down of the migration completes (R292). -/
  | migrationEnd (t f : Nat)
  /-- LINE_PREFETCH: the sequencer prefetches a line for context `k` (R295). -/
  | linePrefetch (k : CtxKey) (addr : Word)
  /-- LINE_WRITEBACK: the bytes of a line at its home reach the banks (R281). -/
  | lineWriteback (line : Nat)
  /-- BANK_IDLE_STANDBY: an idle threshold expires (R264). -/
  | bankIdleStandby (bank : Nat)
  /-- BANK_IDLE_RETENTION: a longer idle threshold expires (R264). -/
  | bankIdleRetention (bank : Nat)
  /-- BANK_WAKE: an access wakes the bank (R264). -/
  | bankWake (bank : Nat)
  /-- BANK_POWER_OFF: system software puts the bank into OFF (R264). -/
  | bankPowerOff (bank : Nat)
  /-- BANK_WAKE_FOR_ALLOCATION: system software wakes the bank (R264). -/
  | bankWakeForAllocation (bank : Nat)
  /-- PHASE_ACKNOWLEDGE: the raise that context `k` declared is acknowledged (R265). -/
  | phaseAcknowledge (k : CtxKey)
  /-- PHASE_WITHDRAW: the controller withdraws the acknowledgements that pin the bank (R266). -/
  | phaseWithdraw (bank : Nat)
  /-- THERMAL_EMERGENCY: every acknowledgement that pins a bank is withdrawn (R266). -/
  | thermalEmergency
  /-- BANK_RETIRE_REQUEST: retirement of the bank is requested (R267). -/
  | bankRetireRequest (bank : Nat)
  /-- REMAPPING_STEP: the remapping step of the bank (R267). -/
  | remappingStep (bank : Nat)
  /-- SEGMODE_WRITE: SEGMODE0 or SEGMODE1 is written (R262). -/
  | segmodeWrite (part : Nat) (hi : Bool) (v : Word)
  /-- SEGMENT_MODE_CHANGE_COMPLETE: the mode change of a segment completes (R262). -/
  | segmentModeChangeComplete (part seg : Nat)
  /-- PARTITION_ENABLE: the physical function sets EN; firmware places the initial table in `frames`, each (channel page, table, frame) (R348, R370). -/
  | partitionEnable (part : Nat) (frames : List (Nat × Nat × Nat))
  /-- COLUMN_REMOVE: COLMAP is written without some columns (R350). -/
  | columnRemove (part : Nat) (map : BitVec 32)
  /-- COLUMN_ADD: COLMAP is written with further columns (R350). -/
  | columnAdd (part : Nat) (map : BitVec 32)
  /-- COLUMN_DRAIN_COMPLETE: a draining column is empty (R350). -/
  | columnDrainComplete (part col : Nat)
  /-- CHANNEL_DROP: CHMAP is written without some channels (R351). -/
  | channelDrop (part : Nat) (map : BitVec 448)
  /-- CHANNEL_ADD: CHMAP is written with further channels (R351). -/
  | channelAdd (part : Nat) (map : BitVec 448)
  /-- SHARE_WRITE: BWD, or BWX when `x`, is written (R349). -/
  | shareWrite (part : Nat) (x : Bool) (v : Word)
  /-- CONFIG_REGISTER_WRITE: a configuration register is written through a virtual function, or through the ownership block when `phys` (R344). -/
  | configRegisterWrite (part : Nat) (phys : Bool) (off : Nat) (v : Word)
  /-- HOST_BAR2_ACCESS: a host read of `p.n` bytes, or a write of the low `p.n` bytes of `w`, through BAR2 of a virtual
  function, or of the physical one for part 32; or through its BAR0 when `p.bar0` (R341). -/
  | hostBar2Access (part : Nat) (p : HostPlace) (w : Option Word)
  /-- TOKEN_BUCKET_REFILL: an injection bucket refills by `n` flits (R349). -/
  | tokenBucketRefill (bucket n : Nat)
  /-- POWER_THROTTLE: the power manager enters a throttling stage, 0 to 2 (R6). -/
  | powerThrottle (stage : Nat)
  /-- BLUFOLD_D_LINK_FAILURE: a Blufold-D link fails (R331). -/
  | blufoldDLinkFailure (link : Nat)
  /-- FLIT_REPLAY_REQUEST: a receiver asks for a replay (R332). -/
  | flitReplayRequest (port : Nat) (r : Replay)
  /-- PORT_DOWN: a port whose replays failed goes down (R332). -/
  | portDown (port : Nat)
  /-- PORT_UP: a port joined to device `peer` comes up, with its compressor's thresholds (R332, R335). -/
  | portUp (p : PortSetup)
  /-- READ_REQUEST: a received read request (R333). -/
  | readRequest (p : Packet)
  /-- READ_RESPONSE: a received read response (R333). -/
  | readResponse (p : Packet)
  /-- WRITE: a received write (R333). -/
  | write (p : Packet)
  /-- WRITE_ACKNOWLEDGEMENT: a received write acknowledgement (R333). -/
  | writeAcknowledgement (p : Packet)
  /-- ATOMIC: a received atomic (R333). -/
  | atomic (p : Packet)
  /-- ATOMIC_RESPONSE: a received atomic response (R333). -/
  | atomicResponse (p : Packet)
  /-- COLLECTIVE_CONTRIBUTION: a received contribution (R333, R339). -/
  | collectiveContribution (p : Packet) (c : Contribution)
  /-- COLLECTIVE_RESULT: a received collective result (R333). -/
  | collectiveResult (p : Packet)
  /-- LINK_CONTROL: a received link-control packet (R333). -/
  | linkControl (p : Packet)
  /-- REQUEST_RESEND: an unanswered request is sent again (R334). -/
  | requestResend (tag : Nat)
  /-- COMPRESSOR_ON: a queue exceeds its on threshold (R335). -/
  | compressorOn (port : Nat)
  /-- COMPRESSOR_OFF: a queue falls below its off threshold (R335). -/
  | compressorOff (port : Nat)
  /-- REFRESH: a refresh covers the bank (R361). -/
  | refresh (bank : Nat)
  /-- REFRESH_MANAGEMENT: the controller issues RFM to the bank (R361). -/
  | refreshManagement (bank : Nat)
  /-- EMBER_QUIESCE: Ember quiesces an idle bus (R363). -/
  | emberQuiesce (bus : Nat)
  /-- EMBER_DEMAND_PREEMPT: a demand ends the pass (R364). -/
  | emberDemandPreempt (bus : Nat)
  /-- EMBER_LANE_FAILURE: Ember reports a failing lane (R365). -/
  | emberLaneFailure (bus group lane : Nat)
  /-- SPARE_LANE_REMAP: firmware maps the spare lane (R365). -/
  | spareLaneRemap (bus group : Nat)
  /-- DEVICE_RESET: a device reset (R352). -/
  | deviceReset
  /-- IMAGE_VERIFY: a fetched image is verified (R355). -/
  | imageVerify (stage source : Nat) (img : List Byte)
  /-- RECOVERY_WINDOW_WRITE: the host writes the recovery window (R341, R353). -/
  | recoveryWindowWrite (off : Nat) (bytes : List Byte)
  /-- RECGO: the host writes RECGO (R353). -/
  | recgo (len : Word)
  /-- QGO: the host writes QGO (R359). -/
  | qgo (v : Word)
  /-- QUOTE_REQUEST: a request on the management port (R359). -/
  | quoteRequest (nonce : BitVec 256)
  /-- QUOTE_SIGN: the security block serves the oldest request (R360). -/
  | quoteSign
  /-- STEWARD_WATCHDOG_EXPIRY: the steward watchdog expires (R366). -/
  | stewardWatchdogExpiry (core : Nat)
  /-- DEVICE_FATAL_ERROR: a device-fatal error (R366, R367). -/
  | deviceFatalError (cause ukind unit : Nat)
  /-- DUMP_COMPLETE: the dump ends, stopped by a further error when `part` (R367). -/
  | dumpComplete (part : Bool)
  /-- DUMP_RELEASE: the host writes DUMPST (R369). -/
  | dumpRelease (v : Word)
  /-- HOT_RESET: a hot reset or a function-level reset (R367). -/
  | hotReset
  /-- UNCORRECTABLE_MEMORY_ERROR: an uncorrectable error in a granule, or in a line tag nibble (R283). -/
  | uncorrectableMemoryError (tagNibble : Bool) (pa : Nat)
  /-- POWER_FAILURE: the supply is lost (R360). -/
  | powerFailure
  /-- CORE_CLOCK_CYCLE: a cycle of a core passes (R4). -/
  | coreClockCycle (core : Nat)
  /-- DIRTY_SECTOR_WRITEBACK: a dirty sector of a core goes to its home L2 (R273). -/
  | dirtySectorWriteback (core sector : Nat)
  /-- BLUFOLD_D_FLIT_RETRY: a flit is retried (R331). -/
  | blufoldDFlitRetry (link : Nat)
  /-- IMAGE_FETCH_FAILURE: the boot source being tried supplies no image (R353). -/
  | imageFetchFailure
  deriving DecidableEq, Repr

end Sys2Proof
end

