-- ==== Sys2Proof/WellFormed.lean ====
section
/-! DEFINITION. Which instructions are well formed (spec/03_encoding.md R58, R60-R67): the field values that an
instruction's own layout admits but a rule marks as reserved. -/

namespace Sys2Proof

/-- Why a bit pattern is no instruction (R58). Every one of these traps ILL at fetch. -/
inductive DecodeError where
  /-- fewer bytes than the length asks for -/
  | shortInput
  /-- parcel 0 bits 2:0 are 111 (R56) -/
  | reservedLength
  /-- an unlisted 32-bit major (R62) -/
  | reservedMajor
  /-- an unlisted 64-bit class (R66) -/
  | reservedClass
  /-- an unlisted function code (R62-R66) -/
  | reservedFunction
  /-- a bit that is not 0 in a field marked 0 (R58) -/
  | nonzeroField
  /-- a reserved tag (R36) -/
  | reservedTag
  /-- scope 110 or 111 (R60) -/
  | reservedScope
  /-- an `ord` that the instruction does not admit (R60, R66) -/
  | reservedOrd
  /-- a CSR number that R30 does not list -/
  | unlistedCsr
  /-- a mask destination of `m0` (R24) -/
  | maskZero
  /-- Haar levels 0 (R65, R66) -/
  | levelsZero
  /-- `vldc` in mode 7 (R64) -/
  | vldcWhole
  /-- `xbar` without `bar` (R66) -/
  | barrierField
  /-- an unlisted `op` of `coll.red` (R66) -/
  | reservedOp
  /-- the parcel 0x0000 (R67) -/
  | reservedParcel
  deriving DecidableEq, Repr

/-- The numbers of the listed CSRs (R30). -/
def csrNumbers : List Nat :=
  [0x000, 0x001, 0x002, 0x003, 0x004, 0x005, 0x010, 0x011, 0x012, 0x013, 0x020, 0x021] ++
  [0x030, 0x031, 0x032, 0x033, 0x034, 0x035, 0x036, 0x037, 0x038] ++
  [0x040, 0x041, 0x042, 0x043, 0x044, 0x050, 0x060, 0x061, 0x062, 0x063, 0x064] ++
  [0x100, 0x101, 0x102, 0x103, 0x104, 0x105, 0x110, 0x111, 0x112]

/-- `e` when the condition fails. -/
def require (ok : Bool) (e : DecodeError) : Option DecodeError := if ok then none else some e

/-- An `ord` on anything but an atomic (R60). -/
def ordPlain (o : Ord) : Option DecodeError := require (o != .ar) .reservedOrd

/-- An `ord` on a copy (R66). -/
def ordCopy (o : Ord) : Option DecodeError := require (o == .pl || o == .rel) .reservedOrd

/-- A mask named as a destination (R24). -/
def maskDest (md : BitVec 3) : Option DecodeError := require (md != 0) .maskZero

/-- The first of two failures. -/
def andThen : Option DecodeError → Option DecodeError → Option DecodeError
  | some e, _ => some e
  | none, r => r

/-- The first field rule that `i` breaks, if any. -/
def Instr.illFormed : Instr → Option DecodeError
  | .add _ _ _ => none
  | .sub _ _ _ => none
  | .and _ _ _ => none
  | .or _ _ _ => none
  | .xor _ _ _ => none
  | .andn _ _ _ => none
  | .sll _ _ _ => none
  | .srl _ _ _ => none
  | .sra _ _ _ => none
  | .slt _ _ _ => none
  | .sltu _ _ _ => none
  | .min _ _ _ => none
  | .max _ _ _ => none
  | .minu _ _ _ => none
  | .maxu _ _ _ => none
  | .mul _ _ _ => none
  | .mulh _ _ _ => none
  | .mulhu _ _ _ => none
  | .div _ _ _ => none
  | .divu _ _ _ => none
  | .rem _ _ _ => none
  | .remu _ _ _ => none
  | .clz _ _ => none
  | .ctz _ _ => none
  | .popc _ _ => none
  | .addi _ _ _ => none
  | .andi _ _ _ => none
  | .ori _ _ _ => none
  | .xori _ _ _ => none
  | .slti _ _ _ => none
  | .sltiu _ _ _ => none
  | .slli _ _ _ => none
  | .srli _ _ _ => none
  | .srai _ _ _ => none
  | .lui _ _ => none
  | .ldpc _ _ => none
  | .ldB _ _ ord _ _ _ => ordPlain ord
  | .ldBu _ _ ord _ _ _ => ordPlain ord
  | .ldH _ _ ord _ _ _ => ordPlain ord
  | .ldHu _ _ ord _ _ _ => ordPlain ord
  | .ldW _ _ ord _ _ _ => ordPlain ord
  | .ldWu _ _ ord _ _ _ => ordPlain ord
  | .ldD _ _ ord _ _ _ => ordPlain ord
  | .stB _ _ ord _ _ _ => ordPlain ord
  | .stH _ _ ord _ _ _ => ordPlain ord
  | .stW _ _ ord _ _ _ => ordPlain ord
  | .stD _ _ ord _ _ _ => ordPlain ord
  | .beq _ _ _ => none
  | .bne _ _ _ => none
  | .blt _ _ _ => none
  | .bge _ _ _ => none
  | .bltu _ _ _ => none
  | .bgeu _ _ _ => none
  | .jal _ _ => none
  | .jalr _ _ _ => none
  | .loopSet _ _ _ _ _ => none
  | .loopNext _ => none
  | .farmSet _ _ _ _ _ => none
  | .csrr _ csr => require (csrNumbers.contains csr.toNat) .unlistedCsr
  | .csrw _ csr _ => require (csrNumbers.contains csr.toNat) .unlistedCsr
  | .csrs _ csr _ => require (csrNumbers.contains csr.toNat) .unlistedCsr
  | .csrc _ csr _ => require (csrNumbers.contains csr.toNat) .unlistedCsr
  | .svc _ => none
  | .brk _ => none
  | .exit _ => none
  | .cachectlSynci _ => none
  | .cachectlWb _ => none
  | .cachectlWbinv _ => none
  | .cachectlPf1 _ => none
  | .cachectlPf2 _ => none
  | .cachectlZero _ => none
  | .eret => none
  | .tlbinv _ _ => none
  | .ctxResumeRetry _ => none
  | .ctxResumeSkip _ => none
  | .ctxSave _ => none
  | .fence _ _ _ => none
  | .amoAdd _ _ _ _ _ => none
  | .amoAnd _ _ _ _ _ => none
  | .amoOr _ _ _ _ _ => none
  | .amoXor _ _ _ _ _ => none
  | .amoMin _ _ _ _ _ => none
  | .amoMax _ _ _ _ _ => none
  | .amoMinu _ _ _ _ _ => none
  | .amoMaxu _ _ _ _ _ => none
  | .amoSwap _ _ _ _ _ => none
  | .amoCas _ _ _ _ _ => none
  | .barInit _ _ _ => none
  | .barArv _ _ _ => none
  | .barWait _ _ _ => none
  | .barArvwait _ _ _ => none
  | .tkwait => none
  | .tktrig => none
  | .taskSpawn _ _ => none
  | .vcfg _ _ _ _ => none
  | .vlreq _ _ _ _ _ _ => none
  | .vtagr _ _ => none
  | .vdim _ _ _ => none
  | .shpLd _ _ => none
  | .vld _ _ _ _ ord _ _ => ordPlain ord
  | .vst _ _ _ _ ord _ _ => ordPlain ord
  | .vldc _ _ mode _ ord _ _ => andThen (ordPlain ord) (require (mode != 7) .vldcWhole)
  | .vspill _ _ _ => none
  | .vfill _ _ _ => none
  | .vldx _ _ _ _ _ ord _ _ => ordPlain ord
  | .vstx _ _ _ _ _ ord _ _ => ordPlain ord
  | .vamoadd _ _ _ _ _ _ _ _ => none
  | .vadd _ _ _ _ => none
  | .vsub _ _ _ _ => none
  | .vmul _ _ _ _ => none
  | .vmin _ _ _ _ => none
  | .vmax _ _ _ _ => none
  | .vabs _ _ _ => none
  | .vneg _ _ _ => none
  | .vfma _ _ _ _ => none
  | .vfms _ _ _ _ => none
  | .vfnma _ _ _ _ => none
  | .vdiv _ _ _ _ => none
  | .vsqrt _ _ _ => none
  | .vand _ _ _ _ => none
  | .vor _ _ _ _ => none
  | .vxor _ _ _ _ => none
  | .vnot _ _ _ => none
  | .vsll _ _ _ _ => none
  | .vsrl _ _ _ _ => none
  | .vsra _ _ _ _ => none
  | .vmulh _ _ _ _ => none
  | .vmulr _ _ _ _ => none
  | .vaddr _ _ _ _ => none
  | .vrcps _ _ _ _ => none
  | .vrsqs _ _ _ _ => none
  | .vcmpEq md _ _ _ => maskDest md
  | .vcmpLt md _ _ _ => maskDest md
  | .vcmpLe md _ _ _ => maskDest md
  | .vcvt _ _ _ _ => none
  | .vwiden _ _ _ _ => none
  | .vnarrow _ _ _ _ => none
  | .vaddX _ _ _ _ => none
  | .vsubX _ _ _ _ => none
  | .vsubXRev _ _ _ _ => none
  | .vmulX _ _ _ _ => none
  | .vfmaX _ _ _ _ => none
  | .vminX _ _ _ _ => none
  | .vmaxX _ _ _ _ => none
  | .vbcast _ _ _ => none
  | .vsllX _ _ _ _ => none
  | .vsrlX _ _ _ _ => none
  | .vsraX _ _ _ _ => none
  | .vcmpEqx md _ _ _ => maskDest md
  | .vcmpLtx md _ _ _ => maskDest md
  | .vcmpLtxRev md _ _ _ => maskDest md
  | .vcmpLex md _ _ _ => maskDest md
  | .vcmpLexRev md _ _ _ => maskDest md
  | .vmvXv _ _ _ => none
  | .vmvVx _ _ _ => none
  | .vexpFast _ _ _ => none
  | .vlogFast _ _ _ => none
  | .vrcpFast _ _ _ => none
  | .vrsqrtFast _ _ _ => none
  | .vtanhFast _ _ _ => none
  | .vsigmFast _ _ _ => none
  | .vgeluFast _ _ _ => none
  | .vsiluFast _ _ _ => none
  | .vexpAcc _ _ _ => none
  | .vlogAcc _ _ _ => none
  | .vrcpAcc _ _ _ => none
  | .vrsqrtAcc _ _ _ => none
  | .vtanhAcc _ _ _ => none
  | .vsigmAcc _ _ _ => none
  | .vgeluAcc _ _ _ => none
  | .vsiluAcc _ _ _ => none
  | .vredsumOrd _ _ _ _ => none
  | .vredsumTree _ _ _ _ => none
  | .vredmax _ _ _ _ => none
  | .vredmin _ _ _ _ => none
  | .vredsumw _ _ _ _ => none
  | .vredand _ _ _ _ => none
  | .vredor _ _ _ _ => none
  | .vredxor _ _ _ _ => none
  | .vpopc _ _ _ => none
  | .vfirst _ _ _ => none
  | .mand md _ _ => maskDest md
  | .mor md _ _ => maskDest md
  | .mxor md _ _ => maskDest md
  | .mnot md _ => maskDest md
  | .mandn md _ _ => maskDest md
  | .mset md => maskDest md
  | .vslideup _ _ _ _ => none
  | .vslidedn _ _ _ _ => none
  | .vrot _ _ _ _ => none
  | .vperm _ _ _ _ => none
  | .vcompress _ _ _ => none
  | .vexpand _ _ _ => none
  | .vzip _ _ _ _ => none
  | .vunzip _ _ _ _ => none
  | .vtrans _ _ _ => none
  | .vmerge _ _ _ _ => none
  | .vmv _ _ _ => none
  | .vtidx _ _ _ => none
  | .vid _ => none
  | .vquant _ _ _ _ => none
  | .vdeq _ _ _ _ => none
  | .vhaar _ _ lev _ => require (lev != 0) .levelsZero
  | .vihaar _ _ _ => none
  | .vthr _ _ _ => none
  | .vsig md _ _ => maskDest md
  | .vdom _ _ => none
  | .vstw _ _ lev _ _ ord _ _ => andThen (ordPlain ord) (require (lev != 0) .levelsZero)
  | .tclr _ _ _ _ _ => none
  | .bpacc _ _ _ _ _ _ _ _ => none
  | .bpsub _ _ _ _ _ _ _ _ => none
  | .mrd _ _ _ _ _ _ => none
  | .mcol _ _ _ _ _ _ => none
  | .mwr _ _ _ _ _ _ => none
  | .mld _ _ _ _ _ _ => none
  | .mst _ _ _ _ _ _ => none
  | .mwait _ _ => none
  | .hbind _ _ _ _ => none
  | .hbundle _ _ _ => none
  | .hmaj _ _ _ _ => none
  | .hperm _ _ _ _ => none
  | .hsim _ _ _ _ => none
  | .hrand _ _ _ => none
  | .hclean _ _ _ _ => none
  | .hfact _ _ _ _ => none
  | .cpy _ _ _ _ _ _ bar xbar ord _ _ => andThen (ordCopy ord) (require (bar != 0 || xbar == 0) .barrierField)
  | .cpyz _ _ _ _ _ bar xbar ord _ _ => andThen (ordCopy ord) (require (bar != 0 || xbar == 0) .barrierField)
  | .cmask _ => none
  | .collRed _ _ _ op _ => require (op.toNat ≤ 5) .reservedOp
  | .collGat _ _ _ _ => none
  | .collSct _ _ _ _ _ => none
  | .collBc _ _ _ _ _ => none
  | .collA2a _ _ _ _ => none
  | .gset _ _ => none
  | .li _ _ => none
  | .liHi _ _ => none
  | .hAddi rd imm => require (rd != 0 || imm != 0) .reservedParcel
  | .hLi _ _ => none
  | .hMv _ _ => none
  | .hAdd _ _ => none
  | .hSub _ _ => none
  | .hLdD _ _ _ => none
  | .hStD _ _ _ => none
  | .hLdW _ _ _ => none
  | .hStW _ _ _ => none
  | .hBeqz _ _ => none
  | .hBnez _ _ => none
  | .hJ _ => none
  | .hLoopnext _ => none
  | .hVadd _ _ => none
  | .hNop => none
  | .hBrk _ => none
  | .bwphaseWrite _ _ => none
  | .hartExitComplete _ => none
  | .barWaitComplete _ => none
  | .tkwaitComplete _ => none
  | .matrixComplete _ _ => none
  | .copyChunk _ _ _ => none
  | .copyTransferFinish _ _ => none
  | .collectiveComplete _ => none
  | .takeTrap _ => none
  | .faultRecordWrite _ => none
  | .faultQueueHeadWrite _ _ => none
  | .registerPoison _ _ => none
  | .contextKill _ _ _ => none
  | .dispatchDecision _ => none
  | .preempt _ => none
  | .contextSaveEnd _ => none
  | .hostLaunch _ _ => none
  | .taskEnd _ _ => none
  | .completionRecordWrite _ => none
  | .cqheadWrite _ _ => none
  | .hostKill _ _ => none
  | .hostShootdown _ _ => none
  | .responderShootdown _ => none
  | .shootdownComplete _ => none
  | .pteInsert _ _ _ _ => none
  | .pteRemove _ _ _ _ => none
  | .migrationStart _ _ _ _ => none
  | .migrationLineCopy _ _ => none
  | .migrationSwitch _ _ => none
  | .migrationEnd _ _ => none
  | .linePrefetch _ _ => none
  | .lineWriteback _ => none
  | .bankIdleStandby _ => none
  | .bankIdleRetention _ => none
  | .bankWake _ => none
  | .bankPowerOff _ => none
  | .bankWakeForAllocation _ => none
  | .phaseAcknowledge _ => none
  | .phaseWithdraw _ => none
  | .thermalEmergency => none
  | .bankRetireRequest _ => none
  | .remappingStep _ => none
  | .segmodeWrite _ _ _ => none
  | .segmentModeChangeComplete _ _ => none
  | .partitionEnable _ _ => none
  | .columnRemove _ _ => none
  | .columnAdd _ _ => none
  | .columnDrainComplete _ _ => none
  | .channelDrop _ _ => none
  | .channelAdd _ _ => none
  | .shareWrite _ _ _ => none
  | .configRegisterWrite _ _ _ _ => none
  | .hostBar2Access _ _ _ => none
  | .tokenBucketRefill _ _ => none
  | .powerThrottle _ => none
  | .blufoldDLinkFailure _ => none
  | .flitReplayRequest _ _ => none
  | .portDown _ => none
  | .portUp _ => none
  | .readRequest _ => none
  | .readResponse _ => none
  | .write _ => none
  | .writeAcknowledgement _ => none
  | .atomic _ => none
  | .atomicResponse _ => none
  | .collectiveContribution _ _ => none
  | .collectiveResult _ => none
  | .linkControl _ => none
  | .requestResend _ => none
  | .compressorOn _ => none
  | .compressorOff _ => none
  | .refresh _ => none
  | .refreshManagement _ => none
  | .emberQuiesce _ => none
  | .emberDemandPreempt _ => none
  | .emberLaneFailure _ _ _ => none
  | .spareLaneRemap _ _ => none
  | .deviceReset => none
  | .imageVerify _ _ _ => none
  | .recoveryWindowWrite _ _ => none
  | .recgo _ => none
  | .qgo _ => none
  | .quoteRequest _ => none
  | .quoteSign => none
  | .stewardWatchdogExpiry _ => none
  | .deviceFatalError _ _ _ => none
  | .dumpComplete _ => none
  | .dumpRelease _ => none
  | .hotReset => none
  | .uncorrectableMemoryError _ _ => none
  | .powerFailure => none
  | .coreClockCycle _ => none
  | .dirtySectorWriteback _ _ => none
  | .blufoldDFlitRetry _ => none
  | .imageFetchFailure => none

/-- `i` breaks no field rule. -/
def WellFormed (i : Instr) : Prop := i.illFormed = none

/-- A step of another agent, not an instruction that a hart fetches. -/
def Instr.isEvent : Instr → Bool
  | .add _ _ _ => false
  | .sub _ _ _ => false
  | .and _ _ _ => false
  | .or _ _ _ => false
  | .xor _ _ _ => false
  | .andn _ _ _ => false
  | .sll _ _ _ => false
  | .srl _ _ _ => false
  | .sra _ _ _ => false
  | .slt _ _ _ => false
  | .sltu _ _ _ => false
  | .min _ _ _ => false
  | .max _ _ _ => false
  | .minu _ _ _ => false
  | .maxu _ _ _ => false
  | .mul _ _ _ => false
  | .mulh _ _ _ => false
  | .mulhu _ _ _ => false
  | .div _ _ _ => false
  | .divu _ _ _ => false
  | .rem _ _ _ => false
  | .remu _ _ _ => false
  | .clz _ _ => false
  | .ctz _ _ => false
  | .popc _ _ => false
  | .addi _ _ _ => false
  | .andi _ _ _ => false
  | .ori _ _ _ => false
  | .xori _ _ _ => false
  | .slti _ _ _ => false
  | .sltiu _ _ _ => false
  | .slli _ _ _ => false
  | .srli _ _ _ => false
  | .srai _ _ _ => false
  | .lui _ _ => false
  | .ldpc _ _ => false
  | .ldB _ _ _ _ _ _ => false
  | .ldBu _ _ _ _ _ _ => false
  | .ldH _ _ _ _ _ _ => false
  | .ldHu _ _ _ _ _ _ => false
  | .ldW _ _ _ _ _ _ => false
  | .ldWu _ _ _ _ _ _ => false
  | .ldD _ _ _ _ _ _ => false
  | .stB _ _ _ _ _ _ => false
  | .stH _ _ _ _ _ _ => false
  | .stW _ _ _ _ _ _ => false
  | .stD _ _ _ _ _ _ => false
  | .beq _ _ _ => false
  | .bne _ _ _ => false
  | .blt _ _ _ => false
  | .bge _ _ _ => false
  | .bltu _ _ _ => false
  | .bgeu _ _ _ => false
  | .jal _ _ => false
  | .jalr _ _ _ => false
  | .loopSet _ _ _ _ _ => false
  | .loopNext _ => false
  | .farmSet _ _ _ _ _ => false
  | .csrr _ _ => false
  | .csrw _ _ _ => false
  | .csrs _ _ _ => false
  | .csrc _ _ _ => false
  | .svc _ => false
  | .brk _ => false
  | .exit _ => false
  | .cachectlSynci _ => false
  | .cachectlWb _ => false
  | .cachectlWbinv _ => false
  | .cachectlPf1 _ => false
  | .cachectlPf2 _ => false
  | .cachectlZero _ => false
  | .eret => false
  | .tlbinv _ _ => false
  | .ctxResumeRetry _ => false
  | .ctxResumeSkip _ => false
  | .ctxSave _ => false
  | .fence _ _ _ => false
  | .amoAdd _ _ _ _ _ => false
  | .amoAnd _ _ _ _ _ => false
  | .amoOr _ _ _ _ _ => false
  | .amoXor _ _ _ _ _ => false
  | .amoMin _ _ _ _ _ => false
  | .amoMax _ _ _ _ _ => false
  | .amoMinu _ _ _ _ _ => false
  | .amoMaxu _ _ _ _ _ => false
  | .amoSwap _ _ _ _ _ => false
  | .amoCas _ _ _ _ _ => false
  | .barInit _ _ _ => false
  | .barArv _ _ _ => false
  | .barWait _ _ _ => false
  | .barArvwait _ _ _ => false
  | .tkwait => false
  | .tktrig => false
  | .taskSpawn _ _ => false
  | .vcfg _ _ _ _ => false
  | .vlreq _ _ _ _ _ _ => false
  | .vtagr _ _ => false
  | .vdim _ _ _ => false
  | .shpLd _ _ => false
  | .vld _ _ _ _ _ _ _ => false
  | .vst _ _ _ _ _ _ _ => false
  | .vldc _ _ _ _ _ _ _ => false
  | .vspill _ _ _ => false
  | .vfill _ _ _ => false
  | .vldx _ _ _ _ _ _ _ _ => false
  | .vstx _ _ _ _ _ _ _ _ => false
  | .vamoadd _ _ _ _ _ _ _ _ => false
  | .vadd _ _ _ _ => false
  | .vsub _ _ _ _ => false
  | .vmul _ _ _ _ => false
  | .vmin _ _ _ _ => false
  | .vmax _ _ _ _ => false
  | .vabs _ _ _ => false
  | .vneg _ _ _ => false
  | .vfma _ _ _ _ => false
  | .vfms _ _ _ _ => false
  | .vfnma _ _ _ _ => false
  | .vdiv _ _ _ _ => false
  | .vsqrt _ _ _ => false
  | .vand _ _ _ _ => false
  | .vor _ _ _ _ => false
  | .vxor _ _ _ _ => false
  | .vnot _ _ _ => false
  | .vsll _ _ _ _ => false
  | .vsrl _ _ _ _ => false
  | .vsra _ _ _ _ => false
  | .vmulh _ _ _ _ => false
  | .vmulr _ _ _ _ => false
  | .vaddr _ _ _ _ => false
  | .vrcps _ _ _ _ => false
  | .vrsqs _ _ _ _ => false
  | .vcmpEq _ _ _ _ => false
  | .vcmpLt _ _ _ _ => false
  | .vcmpLe _ _ _ _ => false
  | .vcvt _ _ _ _ => false
  | .vwiden _ _ _ _ => false
  | .vnarrow _ _ _ _ => false
  | .vaddX _ _ _ _ => false
  | .vsubX _ _ _ _ => false
  | .vsubXRev _ _ _ _ => false
  | .vmulX _ _ _ _ => false
  | .vfmaX _ _ _ _ => false
  | .vminX _ _ _ _ => false
  | .vmaxX _ _ _ _ => false
  | .vbcast _ _ _ => false
  | .vsllX _ _ _ _ => false
  | .vsrlX _ _ _ _ => false
  | .vsraX _ _ _ _ => false
  | .vcmpEqx _ _ _ _ => false
  | .vcmpLtx _ _ _ _ => false
  | .vcmpLtxRev _ _ _ _ => false
  | .vcmpLex _ _ _ _ => false
  | .vcmpLexRev _ _ _ _ => false
  | .vmvXv _ _ _ => false
  | .vmvVx _ _ _ => false
  | .vexpFast _ _ _ => false
  | .vlogFast _ _ _ => false
  | .vrcpFast _ _ _ => false
  | .vrsqrtFast _ _ _ => false
  | .vtanhFast _ _ _ => false
  | .vsigmFast _ _ _ => false
  | .vgeluFast _ _ _ => false
  | .vsiluFast _ _ _ => false
  | .vexpAcc _ _ _ => false
  | .vlogAcc _ _ _ => false
  | .vrcpAcc _ _ _ => false
  | .vrsqrtAcc _ _ _ => false
  | .vtanhAcc _ _ _ => false
  | .vsigmAcc _ _ _ => false
  | .vgeluAcc _ _ _ => false
  | .vsiluAcc _ _ _ => false
  | .vredsumOrd _ _ _ _ => false
  | .vredsumTree _ _ _ _ => false
  | .vredmax _ _ _ _ => false
  | .vredmin _ _ _ _ => false
  | .vredsumw _ _ _ _ => false
  | .vredand _ _ _ _ => false
  | .vredor _ _ _ _ => false
  | .vredxor _ _ _ _ => false
  | .vpopc _ _ _ => false
  | .vfirst _ _ _ => false
  | .mand _ _ _ => false
  | .mor _ _ _ => false
  | .mxor _ _ _ => false
  | .mnot _ _ => false
  | .mandn _ _ _ => false
  | .mset _ => false
  | .vslideup _ _ _ _ => false
  | .vslidedn _ _ _ _ => false
  | .vrot _ _ _ _ => false
  | .vperm _ _ _ _ => false
  | .vcompress _ _ _ => false
  | .vexpand _ _ _ => false
  | .vzip _ _ _ _ => false
  | .vunzip _ _ _ _ => false
  | .vtrans _ _ _ => false
  | .vmerge _ _ _ _ => false
  | .vmv _ _ _ => false
  | .vtidx _ _ _ => false
  | .vid _ => false
  | .vquant _ _ _ _ => false
  | .vdeq _ _ _ _ => false
  | .vhaar _ _ _ _ => false
  | .vihaar _ _ _ => false
  | .vthr _ _ _ => false
  | .vsig _ _ _ => false
  | .vdom _ _ => false
  | .vstw _ _ _ _ _ _ _ _ => false
  | .tclr _ _ _ _ _ => false
  | .bpacc _ _ _ _ _ _ _ _ => false
  | .bpsub _ _ _ _ _ _ _ _ => false
  | .mrd _ _ _ _ _ _ => false
  | .mcol _ _ _ _ _ _ => false
  | .mwr _ _ _ _ _ _ => false
  | .mld _ _ _ _ _ _ => false
  | .mst _ _ _ _ _ _ => false
  | .mwait _ _ => false
  | .hbind _ _ _ _ => false
  | .hbundle _ _ _ => false
  | .hmaj _ _ _ _ => false
  | .hperm _ _ _ _ => false
  | .hsim _ _ _ _ => false
  | .hrand _ _ _ => false
  | .hclean _ _ _ _ => false
  | .hfact _ _ _ _ => false
  | .cpy _ _ _ _ _ _ _ _ _ _ _ => false
  | .cpyz _ _ _ _ _ _ _ _ _ _ => false
  | .cmask _ => false
  | .collRed _ _ _ _ _ => false
  | .collGat _ _ _ _ => false
  | .collSct _ _ _ _ _ => false
  | .collBc _ _ _ _ _ => false
  | .collA2a _ _ _ _ => false
  | .gset _ _ => false
  | .li _ _ => false
  | .liHi _ _ => false
  | .hAddi _ _ => false
  | .hLi _ _ => false
  | .hMv _ _ => false
  | .hAdd _ _ => false
  | .hSub _ _ => false
  | .hLdD _ _ _ => false
  | .hStD _ _ _ => false
  | .hLdW _ _ _ => false
  | .hStW _ _ _ => false
  | .hBeqz _ _ => false
  | .hBnez _ _ => false
  | .hJ _ => false
  | .hLoopnext _ => false
  | .hVadd _ _ => false
  | .hNop => false
  | .hBrk _ => false
  | .bwphaseWrite _ _ => true
  | .hartExitComplete _ => true
  | .barWaitComplete _ => true
  | .tkwaitComplete _ => true
  | .matrixComplete _ _ => true
  | .copyChunk _ _ _ => true
  | .copyTransferFinish _ _ => true
  | .collectiveComplete _ => true
  | .takeTrap _ => true
  | .faultRecordWrite _ => true
  | .faultQueueHeadWrite _ _ => true
  | .registerPoison _ _ => true
  | .contextKill _ _ _ => true
  | .dispatchDecision _ => true
  | .preempt _ => true
  | .contextSaveEnd _ => true
  | .hostLaunch _ _ => true
  | .taskEnd _ _ => true
  | .completionRecordWrite _ => true
  | .cqheadWrite _ _ => true
  | .hostKill _ _ => true
  | .hostShootdown _ _ => true
  | .responderShootdown _ => true
  | .shootdownComplete _ => true
  | .pteInsert _ _ _ _ => true
  | .pteRemove _ _ _ _ => true
  | .migrationStart _ _ _ _ => true
  | .migrationLineCopy _ _ => true
  | .migrationSwitch _ _ => true
  | .migrationEnd _ _ => true
  | .linePrefetch _ _ => true
  | .lineWriteback _ => true
  | .bankIdleStandby _ => true
  | .bankIdleRetention _ => true
  | .bankWake _ => true
  | .bankPowerOff _ => true
  | .bankWakeForAllocation _ => true
  | .phaseAcknowledge _ => true
  | .phaseWithdraw _ => true
  | .thermalEmergency => true
  | .bankRetireRequest _ => true
  | .remappingStep _ => true
  | .segmodeWrite _ _ _ => true
  | .segmentModeChangeComplete _ _ => true
  | .partitionEnable _ _ => true
  | .columnRemove _ _ => true
  | .columnAdd _ _ => true
  | .columnDrainComplete _ _ => true
  | .channelDrop _ _ => true
  | .channelAdd _ _ => true
  | .shareWrite _ _ _ => true
  | .configRegisterWrite _ _ _ _ => true
  | .hostBar2Access _ _ _ => true
  | .tokenBucketRefill _ _ => true
  | .powerThrottle _ => true
  | .blufoldDLinkFailure _ => true
  | .flitReplayRequest _ _ => true
  | .portDown _ => true
  | .portUp _ => true
  | .readRequest _ => true
  | .readResponse _ => true
  | .write _ => true
  | .writeAcknowledgement _ => true
  | .atomic _ => true
  | .atomicResponse _ => true
  | .collectiveContribution _ _ => true
  | .collectiveResult _ => true
  | .linkControl _ => true
  | .requestResend _ => true
  | .compressorOn _ => true
  | .compressorOff _ => true
  | .refresh _ => true
  | .refreshManagement _ => true
  | .emberQuiesce _ => true
  | .emberDemandPreempt _ => true
  | .emberLaneFailure _ _ _ => true
  | .spareLaneRemap _ _ => true
  | .deviceReset => true
  | .imageVerify _ _ _ => true
  | .recoveryWindowWrite _ _ => true
  | .recgo _ => true
  | .qgo _ => true
  | .quoteRequest _ => true
  | .quoteSign => true
  | .stewardWatchdogExpiry _ => true
  | .deviceFatalError _ _ _ => true
  | .dumpComplete _ => true
  | .dumpRelease _ => true
  | .hotReset => true
  | .uncorrectableMemoryError _ _ => true
  | .powerFailure => true
  | .coreClockCycle _ => true
  | .dirtySectorWriteback _ _ => true
  | .blufoldDFlitRetry _ => true
  | .imageFetchFailure => true

end Sys2Proof
end

