-- ==== Sys2Proof/Machine/State.lean ====
section
/-! DEFINITION. The state of one OVK4-768 module (spec/01_machine_state.md R12-R34 and the state that the other
files name; INVENTORY.md lists every piece with its rule). Plain data only. -/

namespace Sys2Proof.Machine

/-! ## Vector, mask and tile state -/

/-- The descriptor of a vector register (R18). -/
structure Desc where
  tag : Tag
  dom : BitVec 3
  grp : BitVec 2
  valen : BitVec 15
  dirty : Bool
  deriving DecidableEq, Repr

/-- A vector register: 512 words of 32 bits, word 0 in the lowest bits (R22), with the ECC poison marks of its 256
64-bit words (R322). -/
structure VReg where
  bits : BitVec 16384
  desc : Desc
  poison : BitVec 256
  deriving DecidableEq, Repr

/-- A mask register (R24) with its poison marks (R322). -/
structure MReg where
  bits : BitVec 16384
  poison : BitVec 256
  deriving DecidableEq, Repr

/-- A dimension register (R25). -/
structure Dim where
  stride : BitVec 32
  len : BitVec 32
  deriving DecidableEq, Repr

/-- One valid extent of a shape entry with its reciprocal constants (R26). -/
structure Extent where
  e : BitVec 32
  l : Nat
  c : Nat
  deriving DecidableEq, Repr

/-- A group register (R27). -/
structure Group where
  gid : BitVec 16
  sizem1 : BitVec 12
  rank : BitVec 12
  seq : BitVec 16
  val : Bool
  deriving DecidableEq, Repr

/-- An accumulator tile (R28): the entries that are not 0, by 128·row + column, in rising order; E_T; OVF; the
poisoned entries (R177). -/
structure Tile where
  acc : List (Nat × BitVec 48)
  eT : BitVec 10
  ovf : Bool
  poison : List Nat
  deriving DecidableEq, Repr

/-- Where eight bytes of a pending `mld` or `mst` lie: in package memory, in the scratchpad, in host memory, or on
another device, where the access is over (R240, R346). -/
inductive MatSite where
  | pkg (pa : Nat)
  | scratch (o : Nat)
  | host (a : Nat)
  | done
  deriving DecidableEq, Repr

/-- What an issued matrix instruction that has not completed still has to do (R168, R169, R240). -/
inductive TileWrite where
  /-- `tclr` (R172) -/
  | clear (eT : BitVec 10)
  /-- `bpacc` or `bpsub`: the terms that are not 0, by entry (R174) -/
  | add (terms : List (Nat × Int))
  /-- `mwr`, or an `mld` whose reads have performed: new entries, and whether a value was out of range (R178, R179) -/
  | put (entries : List (Nat × BitVec 48)) (ovf : Bool)
  /-- `mld`: for each entry the doubleword at its issue, and where it lies: the read performs until completion (R240) -/
  | load (entries : List (Nat × Word × MatSite))
  /-- `mst`: the doublewords that its writes still bring to memory (R240); no tile write -/
  | store (words : List (MatSite × Word))
  deriving DecidableEq, Repr

/-- A pending matrix instruction: its tile, what it has to do, and its set slot (R29). -/
structure MatOp where
  tile : BitVec 3
  write : TileWrite
  slot : Option (BitVec 4)
  deriving DecidableEq, Repr

/-! ## Copies -/

/-- The transfer bound to a completion mask (R118). -/
structure Binding where
  dst : Word
  chunk : Nat
  n : Word
  deriving DecidableEq, Repr

/-- A fault that a transfer holds (R217): the lowest faulting chunk, the code of the failing check, whether the
destination failed, and EREC1. -/
structure XferFault where
  chunk : Nat
  sub : Nat
  wr : Bool
  addr : Word
  deriving DecidableEq, Repr

/-- An accepted copy transfer (R214-R217), numbered within its context. `finished` has a bit for every finished
chunk, `started` for every chunk whose requests to another device are out (R216). -/
structure Xfer where
  id : Nat
  dst : Word
  src : Word
  n : Word
  chunk : BitVec 3
  chan : BitVec 2
  scope : Scope
  ord : Ord
  evict : BitVec 3
  bar : Bool
  xbar : Word
  cm : BitVec 2
  zero : Bool
  ipc : BitVec 40
  finished : BitVec 16384
  started : BitVec 16384
  stopped : Option XferFault
  deriving DecidableEq, Repr

/-- A write of a moved chunk that has not performed (R216, R226, R238): its transfer, bytes of package memory, or with
`host` of host memory, the line tag copies that change together with them (R150), and whether they go through to the
banks (R274). -/
structure Flight where
  xfer : Nat
  host : Bool
  thru : Bool
  cells : List Host.Cell
  tags : List (Nat × Nat)
  deriving DecidableEq, Repr

/-! ## Control and status registers of a hart -/

/-- The per-hart CSRs of R30 (their fields by R31). THR1 is element 0 of `thr`. -/
structure Csrs where
  vl : BitVec 15
  tp : Bool
  mp : Bool
  fcsr : BitVec 8
  lctr : BitVec 48
  lrem : BitVec 48
  bwphase : BitVec 2
  phack : BitVec 2
  thr : Vector (BitVec 32) 7
  zcnt : Word
  rcnt : Word
  hcdist : BitVec 15
  hcidx2 : BitVec 15
  hcdist2 : BitVec 15
  hcflags : BitVec 2
  hcthr : BitVec 15
  epact : Word
  reqloc : Word
  reqrem : Word
  wakes : Word
  rmwc : Word
  epc : Word
  ecause : Word
  erec0 : Word
  erec1 : Word
  erec2 : Word
  erec3 : Word
  btbase : Word
  deriving DecidableEq, Repr

/-! ## Translation copies -/

/-- A cached translation (R288): key, frame, and the A and D bits as cached. -/
structure TlbEntry where
  part : Nat
  owner : BitVec 32
  buf : Nat
  ch : Nat
  cp : Nat
  t : Nat
  f : Nat
  a : Bool
  d : Bool
  deriving DecidableEq, Repr

/-- A cached buffer table entry, with the table it came from and the channel set it names (R253, R255, R256). -/
structure BufEntry where
  part : Nat
  base : Word
  idx : Nat
  dw0 : Word
  dw1 : Word
  cset : BitVec 448
  deriving DecidableEq, Repr

/-! ## Harts -/

/-- Why a context is saved (R327 `REASON`). -/
inductive Reason where
  | preempt | trap | ctxSave
  deriving DecidableEq, Repr

/-- What a waiting hart waits for. -/
inductive Wait where
  /-- `bar.wait` and `bar.arvwait`: word, parity, destination, scope, and whether it has arrived (R207) -/
  | barrier (addr : Word) (q : Bool) (rd : Option (BitVec 5)) (scope : Scope)
  /-- `tkwait` (R211) -/
  | task
  /-- a collective on group register `g`, with its destination, mask and contribution (R222, R224) -/
  | coll (g : BitVec 3) (vd : BitVec 6) (mask : BitVec 2) (c : Contribution)
  /-- `exit` draining (R97) -/
  | exit
  /-- `ctx.save` of a context of the partition (R102) -/
  | ctxSave (ctx : BitVec 32)
  /-- a restored context whose saved phase is not acknowledged yet (R266) -/
  | phase
  /-- an access to another device whose response has not come (R333, R346) -/
  | remote
  /-- the acknowledgements of an instruction's writes on other devices: it has had its effect (R346; DESIGN CHOICE, log
  entry 25) -/
  | acks
  deriving DecidableEq, Repr

/-- Where a context stands (R298, R305, R315, R319, R325). -/
inductive Status where
  /-- no context: an empty slot -/
  | vacant
  /-- placed and issuing -/
  | running
  /-- placed and waiting in an instruction -/
  | waiting (w : Wait)
  /-- stopped at a boundary, its older work draining (R315 step 2, R325) -/
  | stopping (r : Reason)
  /-- drained, its image being written (R328) -/
  | saving (r : Reason)
  /-- saved as trapped, its record waiting to be written (R319) -/
  | recording
  /-- suspended by a trap (R315) -/
  | suspended
  /-- suspended by `ctx.save` (R102) -/
  | held
  /-- saved, on a resume list (R305) -/
  | queued
  /-- killed, its record waiting to be written (R319, R324) -/
  | killed
  deriving DecidableEq, Repr

/-- The response to request number `slot` of the instruction that waits for another device (R333): its data, or the
fault that comes back with the byte of the request that failed (R346). -/
structure Answer where
  slot : Nat
  data : List Byte
  fault : Option Nat
  deriving DecidableEq, Repr

/-- One context (R12). While it is saved, its registers live in its save image (R326) and the fields here hold
their reset values. -/
structure Hart where
  status : Status
  part : Nat
  ctxid : BitVec 32
  core : BitVec 8
  slot : BitVec 5
  cluster : Option (BitVec 2)
  wide : Bool
  supv : Bool
  ntiles : Nat
  spadUnits : Nat
  task : Word
  member : Nat
  harts : Nat
  prio : Nat
  stamp : Nat
  saveSlot : Nat
  code : BitVec 24
  pc : Word
  x : Vector Word 32
  xPoison : BitVec 32
  v : Vector VReg 64
  m : Vector MReg 8
  d : Vector Dim 8
  shapes : Vector (List Extent) 16
  g : Vector Group 8
  tiles : Vector Tile 8
  matq : List MatOp
  csr : Csrs
  raise : Option (BitVec 2)
  farm : Option Nat
  farmSets : Nat
  binds : Vector (Option Binding) 4
  xfers : List Xfer
  spad : List Host.Cell
  spadPages : BitVec 512
  /-- what the save image holds: registers and scratchpad pages (`VPRES`, `SPPRES`, R327) -/
  vpres : BitVec 64
  sppres : BitVec 512
  utlb : List TlbEntry
  ifetch : List Host.Cell
  wstate : Option Bool
  exitVal : Word
  triggered : Bool
  request : Option Reason
  /-- what `ctx.resume` chose, and what a skip steps over: the length of the stopped instruction (R320) and, for a
  consuming `exit`, its operand register (R97) -/
  skip : Bool
  skipLen : Nat
  skipExit : Option (BitVec 5)
  /-- the responses of other devices to the waiting instruction (DESIGN CHOICE, log entry 25) -/
  answers : List Answer
  /-- the tile entries that a waiting `mst` has taken, and whether one came with `OVF` (R177, R179) -/
  held : Option (List (BitVec 48) × Bool)
  /-- writes of moved chunks that have not performed (R238, R249) -/
  flights : List Flight
  /-- the dispatcher has chosen the context as its victim, and its save has not ended (R304) -/
  victim : Bool
  /-- banks that the waiting instruction has found in `RET` (R264) -/
  woken : List Nat
  deriving DecidableEq, Repr

/-! ## Cores -/

/-- What a core holds beside its harts (R30, R272, R288). -/
structure CoreState where
  cycle : Word
  instret : Word
  pfdrop : Word
  l1 : List Host.Cell
  gtlb : List TlbEntry
  bufs : List BufEntry
  deriving DecidableEq, Repr

/-! ## Partitions -/

/-- A strip farm (R15, R93). -/
structure Farm where
  n : Nat
  tag : Tag
  grp : BitVec 2
  width : Nat
  ctr : Nat
  deriving DecidableEq, Repr

/-- A task (R211-R213, R308). -/
structure Task where
  entry : Word
  arg : Word
  harts : Nat
  tiles : Nat
  spad : Nat
  wide : Bool
  supv : Bool
  queue : Nat
  producers : List Word
  placed : Bool
  refused : Nat
  trig : List Nat
  exited : List Nat
  killed : List Nat
  /-- a hart was killed before the task had triggered: it never will (R211) -/
  dead : Bool
  exit0 : Word
  exitor : Word
  ended : Bool
  farms : List (Nat × Farm)
  deriving DecidableEq, Repr

/-- A piece of a member's contribution (R333, R339). -/
structure Piece where
  member : Nat
  chunk : Nat
  c : Contribution
  deriving DecidableEq, Repr

/-- A tree of additions over members (R337). -/
inductive SumTree where
  | leaf (m : Nat)
  | node (a b : SumTree)
  deriving DecidableEq, Repr

/-- How a collective ends at the root of its tree (R223, R224): it fails, or the fabric holds its result, a float sum
along one tree for every member. -/
inductive CollEnd where
  | fails
  | holds (tree : Option SumTree)
  deriving DecidableEq, Repr

/-- An open collective of a partition (R224, R339). `results` holds what the root of its tree, on another device, has
sent for a member: by member and chunk; `ends` how it ended, at the root. -/
structure Coll where
  gid : BitVec 16
  seq : BitVec 16
  size : Nat
  pieces : List Piece
  results : List (Nat × Nat × List Byte)
  bad : Bool
  ends : Option CollEnd
  served : List Nat
  deriving DecidableEq, Repr

/-- One partition: the configuration registers of R344 and the dispatcher's state (R296-R310). `resume` holds the
contexts of each resume list; `faults` the contexts whose records wait (R319); `done` the tasks whose completion
records wait (R310). -/
structure Partition where
  en : Bool
  rszBusy : Bool
  rszErr : Bool
  segErr : Bool
  colmap : BitVec 32
  draining : BitVec 32
  chmap : BitVec 448
  bwd : BitVec 9
  bwx : BitVec 9
  qprio : BitVec 32
  dthr : Nat
  fqbase : Word
  fqlog : Nat
  cqbase : Word
  cqlog : Nat
  cqhead : BitVec 32
  cqtail : BitVec 32
  svbase : Word
  svslots : Nat
  mdsize : Word
  gtbase : Word
  gtcount : Nat
  rwtbase : Word
  rwtcount : Nat
  btcount : Nat
  shootBusy : Bool
  shootKind : BitVec 2
  shootv : Word
  cstbase : Word
  segs : BitVec 128
  segPending : BitVec 128
  head : BitVec 32
  tail : BitVec 32
  table : List (Nat × Nat × Nat)
  queues : Vector (List Word) 16
  passed : Vector Nat 16
  rr : Vector Nat 4
  resume : Vector (List (BitVec 32)) 4
  tasks : List (Nat × Task)
  nextTask : Nat
  nextCtx : BitVec 32
  done : List Word
  faults : List (BitVec 32)
  colls : List Coll
  /-- members on other devices that were killed, by group and rank (R224; DESIGN CHOICE, log entry 25) -/
  lost : List (BitVec 16 × Nat)
  /-- what the ownership block has written into `PART`; none reads the partition's own number -/
  number : Option (BitVec 5)
  deriving DecidableEq, Repr

/-! ## Memory controllers -/

/-- Power state of a bank (R264). -/
inductive Power where
  | act | stby | ret | off
  deriving DecidableEq, Repr

/-- An Almanac entry (R263). -/
structure Bank where
  retired : Bool
  pending : Bool
  frames : Nat
  power : Power
  pins : List CtxKey
  deriving DecidableEq, Repr

/-- The three doublewords of a page table entry (R285). -/
structure Pte where
  dw0 : Word
  dw1 : Word
  dw2 : Word
  deriving DecidableEq, Repr

/-- The metadata record of a frame: 512 granule codes and 256 line tag copies, 4 bits each (R279); and whether the
frame is mapped for a buffer with `LC` = 1, whose granules the controller compresses (R278). -/
structure FrameMeta where
  codes : BitVec 2048
  tags : BitVec 1024
  lc : Bool
  deriving DecidableEq, Repr

/-- A shoot-down that some responder has not acknowledged, or that has not completed (R289, R290). -/
structure Shootdown where
  part : Nat
  kind : BitVec 2
  operand : Word
  /-- the channel pages of a `page` shoot-down -/
  pages : List (Nat × Nat)
  cores : List Nat
  /-- whether the host started it (R344 `SHOOT`) -/
  host : Bool
  deriving DecidableEq, Repr

/-- A running migration (R292): table, source and destination frame, partition, channel page, and whether it has
switched. -/
structure Migration where
  t : Nat
  src : Nat
  dst : Nat
  part : Nat
  ch : Nat
  cp : Nat
  switched : Bool
  deriving DecidableEq, Repr

/-- A vertical bus under Ember (R363-R365): the failing lanes, by group and lane, that the present quiesce has found and
those of earlier ones, and the groups whose spare is in use. -/
structure Bus where
  quiesced : Bool
  found : List (Nat × Nat)
  failed : List (Nat × Nat)
  spared : List Nat
  deriving DecidableEq, Repr

/-! ## Fabric -/

/-- A Blufold-D link (R331). -/
structure Link where
  down : Bool
  retries : Nat
  deriving DecidableEq, Repr

/-- A Blufold-X port (R332, R335): the device at its other end, the link sequence number of its next flit, the last
flits that it has sent, the replays that failed in a row, and the packets that wait in its transmit queue. -/
structure Port where
  up : Bool
  peer : BitVec 16
  seq : BitVec 12
  store : List (BitVec 512)
  replays : Nat
  errors : Nat
  comp : Bool
  onAt : Nat
  offAt : Nat
  queue : List Packet
  deriving DecidableEq, Repr

/-- A request that this device has sent and that is unanswered (R334). `who` is the waiting context and `slot` the
number of the request within its instruction. -/
structure Sent where
  tag : Nat
  who : CtxKey
  slot : Nat
  packet : Packet
  sends : Nat
  /-- its route has changed since it was sent -/
  stale : Bool
  deriving DecidableEq, Repr

/-- A request that this device has completed for a sender, with what it answers (R334). -/
structure Completed where
  src : BitVec 16
  tag : BitVec 16
  request : Packet
  response : List Packet
  deriving DecidableEq, Repr

/-- An access table entry (R347). -/
structure Access where
  part : Nat
  rd : Bool
  wr : Bool
  atom : Bool
  deriving DecidableEq, Repr

/-- An interrupt signal (R342, R357): a virtual function's, or the physical function's. -/
inductive Signal where
  | vf (part vector : Nat)
  | pf (vector : Nat)
  deriving DecidableEq, Repr

/-! ## Boot, identity, dump -/

/-- The steward cores' boot state (R352-R356). -/
structure Boot where
  stage : BitVec 4
  ready : Bool
  waitrec : Bool
  err : BitVec 8
  source : BitVec 8
  trying : Nat
  fuseSvn : Vector (BitVec 16) 3
  keyRev : BitVec 4
  devSer : Word
  devCert : List Host.Cell
  mr : Vector (BitVec 512) 4
  window : List Host.Cell
  /-- the images that the module has booted with, by stage (R353) -/
  images : List (Nat × List Byte)
  boots : Word
  deriving DecidableEq, Repr

/-- A quote request (R359, R360): its nonce, and for a host request the address. -/
structure QuoteReq where
  nonce : BitVec 256
  addr : Option Word
  deriving DecidableEq, Repr

/-- The security block (R356, R359, R360). -/
structure Security where
  nonce : BitVec 256
  qaddr : Word
  busy : Bool
  result : BitVec 8
  requests : List QuoteReq
  answers : List (List Byte)
  idxA : Nat
  idxB : Nat
  okA : Bool
  okB : Bool
  deriving DecidableEq, Repr

/-- A device-fatal error (R366, R367): cause, unit, the further errors met, and the partitions then enabled. -/
structure Fatal where
  cause : Nat
  ukind : Nat
  unit : Nat
  second : Nat
  parts : BitVec 32
  deriving DecidableEq, Repr

/-- The dump (R356, R368, R369): the HBM4E stack that holds its area, and the area's bytes by their physical addresses. -/
structure Dump where
  finished : Bool
  incomplete : Bool
  fatal : Option Fatal
  stack : Nat
  area : List Host.Cell
  deriving DecidableEq, Repr

/-- A line of the steward log (R6, R365). -/
inductive LogLine where
  | throttle (stage : Nat)
  | lane (bus group lane : Nat)
  | link (n : Nat)
  | port (n : Nat) (up : Bool)
  | refusal (master : Nat)
  deriving DecidableEq, Repr

/-- Which agent moves next: another agent's step, or a context's instruction (DESIGN CHOICE, log entry 1). -/
inductive Turn where
  | event (i : Instr)
  | hart (k : CtxKey)
  deriving DecidableEq, Repr

/-! ## The module -/

/-- The state of the module. `cur` is the context whose instruction a step executes; `rest` holds every other
context. Tables are lists by key in rising order that list no default entry. -/
structure State where
  cur : Hart
  rest : List Hart
  cores : List (Nat × CoreState)
  parts : List (Nat × Partition)
  mem : List Host.Cell
  home : List Host.Cell
  host : List Host.Cell
  frames : List (Nat × FrameMeta)
  poison : List Nat
  ptes : List (Nat × Pte)
  banks : List (Nat × Bank)
  reserved : List Nat
  /-- the segments in `CACHE` mode that no partition owns (R262) -/
  freeSegs : BitVec 128
  generation : Word
  shoots : List Shootdown
  migrations : List Migration
  raa : List (Nat × Nat)
  raaimt : Vector Nat 16
  raammt : Vector Nat 16
  buses : List (Nat × Bus)
  links : List (Nat × Link)
  ports : List (Nat × Port)
  routes : Nat
  sent : List Sent
  completed : List Completed
  /-- injection tokens in 1/256 of a flit, and the packets that wait for one (R349) -/
  buckets : List (Nat × Int)
  stalled : List (Nat × Packet)
  throttle : Nat
  access : List (Nat × Access)
  signals : List Signal
  hostRead : List Byte
  devid : BitVec 16
  boot : Boot
  sec : Security
  dump : Dump
  log : List LogLine
  agenda : List Turn
  devTurn : Bool
  /-- the place, in the order in which the module looks for its own steps, of the last that it took (R228, R273) -/
  sweep : Nat
  fresh : Nat
  clock : Nat
  deriving DecidableEq, Repr

/-- What stops a step. -/
inductive Fault where
  /-- the agenda names an instruction of a hart where a step of another agent has to stand; raised by the step
  function; safe: no hardware behaviour is claimed for it -/
  | notAnEvent
  /-- a step of another agent names a unit that R1, R3, R256 or R344 does not give the module; raised by the
  meanings of the device's own steps; safe: the module has no such unit -/
  | noSuchUnit
  deriving DecidableEq, Repr

/-- Why a step has no meaning. -/
inductive Refusal where
  /-- the instruction has no meaning in this model; raised by `exec`'s refused arms only; safe -/
  | notModelled (mnemonic : String)
  deriving DecidableEq, Repr

/-! ## Reset -/

/-- A descriptor at reset (R18). -/
def Desc.reset : Desc := ⟨.none, 0, 0, 0, false⟩
/-- A vector register at reset (R34). -/
def VReg.reset : VReg := ⟨0, .reset, 0⟩
/-- A mask register at reset (R34). -/
def MReg.reset : MReg := ⟨0, 0⟩
/-- A dimension register at reset (R25). -/
def Dim.reset : Dim := ⟨0, 0⟩
/-- A group register at reset (R27). -/
def Group.reset : Group := ⟨0, 0, 0, 0, false⟩
/-- A tile at launch (R28). -/
def Tile.reset : Tile := ⟨[], 0, false, []⟩

/-- The per-hart CSRs at launch (R30, R31, R370). -/
def Csrs.reset : Csrs where
  vl := 0
  tp := false
  mp := false
  fcsr := 0
  lctr := 0
  lrem := 0
  bwphase := 0
  phack := 0
  thr := Vector.replicate 7 0
  zcnt := 0
  rcnt := 0
  hcdist := 0
  hcidx2 := 0
  hcdist2 := 0
  hcflags := 0
  hcthr := 0x4000
  epact := 0
  reqloc := 0
  reqrem := 0
  wakes := 0
  rmwc := 0
  epc := 0
  ecause := 0
  erec0 := 0
  erec1 := 0
  erec2 := 0
  erec3 := 0
  btbase := 0x0000_0400_0000_0000

/-- An empty slot, every register at its reset value (DESIGN CHOICE, log entry 5). -/
def Hart.reset : Hart where
  status := .vacant
  part := 0
  ctxid := 0
  core := 0
  slot := 0
  cluster := none
  wide := false
  supv := false
  ntiles := 0
  spadUnits := 0
  task := 0
  member := 0
  harts := 0
  prio := 0
  stamp := 0
  saveSlot := 0
  code := 0
  pc := 0
  x := Vector.replicate 32 0
  xPoison := 0
  v := Vector.replicate 64 .reset
  m := Vector.replicate 8 .reset
  d := Vector.replicate 8 .reset
  shapes := Vector.replicate 16 []
  g := Vector.replicate 8 .reset
  tiles := Vector.replicate 8 .reset
  matq := []
  csr := .reset
  raise := none
  farm := none
  farmSets := 0
  binds := Vector.replicate 4 none
  xfers := []
  spad := []
  spadPages := 0
  vpres := 0
  sppres := 0
  utlb := []
  ifetch := []
  wstate := none
  exitVal := 0
  triggered := false
  request := none
  skip := false
  skipLen := 0
  skipExit := none
  answers := []
  held := none
  flights := []
  victim := false
  woken := []

/-- A core at device reset (R30). -/
def CoreState.reset : CoreState := ⟨0, 0, 0, [], [], []⟩

/-- A task that has not been issued. -/
def Task.reset : Task :=
  ⟨0, 0, 0, 0, 0, false, false, 0, [], false, 0, [], [], [], false, 0, 0, false, []⟩

/-- A partition at device reset (R303, R344). -/
def Partition.reset : Partition where
  en := false
  rszBusy := false
  rszErr := false
  segErr := false
  colmap := 0
  draining := 0
  chmap := 0
  bwd := 0
  bwx := 0
  qprio := 0xFFAA_5500
  dthr := 224
  fqbase := 0
  fqlog := 4
  cqbase := 0
  cqlog := 4
  cqhead := 0
  cqtail := 0
  svbase := 0
  svslots := 0
  mdsize := 0
  gtbase := 0
  gtcount := 0
  rwtbase := 0
  rwtcount := 0
  btcount := 4
  shootBusy := false
  shootKind := 0
  shootv := 0
  cstbase := 0
  segs := 0
  segPending := 0
  head := 0
  tail := 0
  table := []
  queues := Vector.replicate 16 []
  passed := Vector.replicate 16 0
  rr := Vector.replicate 4 15
  resume := Vector.replicate 4 []
  tasks := []
  nextTask := 1
  nextCtx := 1
  done := []
  faults := []
  colls := []
  lost := []
  number := none

/-- A bank at device reset (R263, R268). -/
def Bank.reset : Bank := ⟨false, false, 0, .off, []⟩
/-- A page table entry at device reset (R285). -/
def Pte.reset : Pte := ⟨0, 0, 0⟩
/-- A metadata record at device reset: every granule RAW, every tag 0 (DESIGN CHOICE, log entry 7). -/
def FrameMeta.reset : FrameMeta := ⟨0, 0, false⟩
/-- A vertical bus at device reset (DESIGN CHOICE, log entry 24). -/
def Bus.reset : Bus := ⟨false, [], [], []⟩
/-- A Blufold-D link at device reset (DESIGN CHOICE, log entry 24). -/
def Link.reset : Link := ⟨false, 0⟩
/-- A Blufold-X port at device reset (DESIGN CHOICE, log entry 24). -/
def Port.reset : Port := ⟨false, 0, 0, [], 0, 0, false, 2, 1, []⟩
/-- An access table entry that admits nothing (DESIGN CHOICE, log entry 21). -/
def Access.reset : Access := ⟨32, false, false, false⟩

/-- The steward cores at device reset (R352, R356; fuses by DESIGN CHOICE, log entry 6). -/
def Boot.reset : Boot where
  stage := 0
  ready := false
  waitrec := false
  err := 0
  source := 0
  trying := 0
  fuseSvn := Vector.replicate 3 0
  keyRev := 0
  devSer := 0
  devCert := []
  mr := Vector.replicate 4 0
  window := []
  images := []
  boots := 0

/-- The security block at device reset (R356; the leaf index by DESIGN CHOICE, log entry 6). -/
def Security.reset : Security := ⟨0, 0, false, 0, [], [], 0, 0, true, true⟩

/-- No dump (R356). -/
def Dump.reset : Dump := ⟨false, false, none, 0, []⟩

/-- The module right after device reset (R352): stage 0, no partition enabled, no context. -/
def State.reset : State where
  cur := .reset
  rest := []
  cores := []
  parts := []
  mem := []
  home := []
  host := []
  frames := []
  poison := []
  ptes := []
  banks := []
  reserved := []
  freeSegs := 0
  generation := 0
  shoots := []
  migrations := []
  raa := []
  raaimt := Vector.replicate 16 16
  raammt := Vector.replicate 16 32
  buses := []
  links := []
  ports := []
  routes := 0
  sent := []
  completed := []
  buckets := []
  stalled := []
  throttle := 0
  access := []
  signals := []
  hostRead := []
  devid := 0
  boot := .reset
  sec := .reset
  dump := .reset
  log := []
  agenda := []
  devTurn := false
  sweep := 0
  fresh := 0
  clock := 0

end Sys2Proof.Machine
end

