-- ==== Sys2Proof/Machine/Table.lean ====
section
/-! DEFINITION. Tables by key in canonical form: keys strictly rising, no default entry. Memory is one of them, a
list of Host.Cell (address, byte); an unlisted byte reads as 0 (DESIGN CHOICE, log entry 7). -/

namespace Sys2Proof.Machine

/-- The entry at key `k`, `d` when the table lists none. -/
def tget {α : Type} (d : α) : List (Nat × α) → Nat → α
  | [], _ => d
  | (j, v) :: t, k => if j = k then v else tget d t k

/-- The table with entry `v` listed at key `k`. -/
def tput {α : Type} : List (Nat × α) → Nat → α → List (Nat × α)
  | [], k, v => [(k, v)]
  | (j, u) :: t, k, v =>
    if k < j then (k, v) :: (j, u) :: t else if j = k then (k, v) :: t else (j, u) :: tput t k v

/-- The table with entry `v` at key `k`; a default entry is not listed. -/
def tset {α : Type} [DecidableEq α] (d : α) (t : List (Nat × α)) (k : Nat) (v : α) : List (Nat × α) :=
  if v = d then t.filter fun c => c.1 ≠ k else tput t k v

/-- The canonical form of a table: keys above `lo` and strictly rising, no default entry. -/
def twfFrom {α : Type} [DecidableEq α] (d : α) : Option Nat → List (Nat × α) → Bool
  | _, [] => true
  | lo, (j, u) :: t => lo.all (· < j) && decide (u ≠ d) && twfFrom d (some j) t

/-- The canonical form of a table. -/
def twf {α : Type} [DecidableEq α] (d : α) (t : List (Nat × α)) : Bool := twfFrom d none t

/-- What an unlisted byte of memory reads as (DESIGN CHOICE, log entry 7). -/
def Memory.blank : Byte := 0

/-- The canonical form of a memory. -/
def Memory.wf (m : List Host.Cell) : Bool := twf Memory.blank m

/-- One byte of a memory. -/
def Memory.get (m : List Host.Cell) (a : Nat) : Byte := tget Memory.blank m a

/-- A memory with one byte written. -/
def Memory.set (m : List Host.Cell) (a : Nat) (b : Byte) : List Host.Cell := tset Memory.blank m a b

/-- The `n` bytes of a memory from `a` up. -/
def Memory.read (m : List Host.Cell) (a : Nat) : Nat → List Byte
  | 0 => []
  | n + 1 => Memory.get m a :: Memory.read m (a + 1) n

/-- A memory with bytes written from `a` up. -/
def Memory.write (m : List Host.Cell) (a : Nat) : List Byte → List Host.Cell
  | [] => m
  | b :: bs => Memory.write (Memory.set m a b) (a + 1) bs

/-- A sparse set of bytes, as the write mask of R272 keeps them: the byte at `a`, if there is one. -/
def overlayGet : List Host.Cell → Nat → Option Byte
  | [], _ => none
  | (j, v) :: t, a => if j = a then some v else overlayGet t a

/-- The sparse set with the byte at `a` replaced. -/
def overlaySet (o : List Host.Cell) (a : Nat) (b : Byte) : List Host.Cell := tput o a b

/-- The sparse set without the addresses of `[lo, hi)`. -/
def overlayDrop (o : List Host.Cell) (lo hi : Nat) : List Host.Cell :=
  o.filter fun c => !(lo ≤ c.1 && c.1 < hi)

/-- The canonical form of a sparse set: addresses above `lo` and strictly rising. -/
def overlayWfFrom : Option Nat → List Host.Cell → Bool
  | _, [] => true
  | lo, (j, _) :: t => lo.all (· < j) && overlayWfFrom (some j) t

/-- The canonical form of a sparse set. -/
def overlayWf (o : List Host.Cell) : Bool := overlayWfFrom none o

/-- A list of numbers with `k` in it, in rising order. -/
def insertNat : List Nat → Nat → List Nat
  | [], k => [k]
  | j :: t, k => if k < j then k :: j :: t else if j = k then j :: t else j :: insertNat t k

/-- The core `c` (R30). -/
def State.core (s : State) (c : Nat) : CoreState := tget .reset s.cores c
/-- The state with core `c` replaced. -/
def State.setCore (s : State) (c : Nat) (v : CoreState) : State := { s with cores := tset .reset s.cores c v }
/-- Partition `p` (R344). -/
def State.part (s : State) (p : Nat) : Partition := tget .reset s.parts p
/-- The state with partition `p` replaced. -/
def State.setPart (s : State) (p : Nat) (v : Partition) : State := { s with parts := tset .reset s.parts p v }
/-- Bank `b` in the order of the Almanac view (R263, R268). -/
def State.bank (s : State) (b : Nat) : Bank := tget .reset s.banks b
/-- The state with bank `b` replaced. -/
def State.setBank (s : State) (b : Nat) (v : Bank) : State := { s with banks := tset .reset s.banks b v }
/-- The key of frame `f` of page table `t` (R284). -/
def frameKey (t f : Nat) : Nat := t * 2 ^ 21 + f
/-- Entry `f` of page table `t` (R285). -/
def State.pte (s : State) (t f : Nat) : Pte := tget .reset s.ptes (frameKey t f)
/-- The state with entry `f` of page table `t` replaced. -/
def State.setPte (s : State) (t f : Nat) (v : Pte) : State :=
  { s with ptes := tset .reset s.ptes (frameKey t f) v }
/-- The metadata record of frame `f` of table `t` (R279). -/
def State.frame (s : State) (t f : Nat) : FrameMeta := tget .reset s.frames (frameKey t f)
/-- The state with a metadata record replaced. -/
def State.setFrame (s : State) (t f : Nat) (v : FrameMeta) : State :=
  { s with frames := tset .reset s.frames (frameKey t f) v }
/-- Task `id` of a partition (R213). -/
def Partition.task (p : Partition) (id : Nat) : Task := tget .reset p.tasks id
/-- The partition with task `id` replaced. -/
def Partition.setTask (p : Partition) (id : Nat) (v : Task) : Partition :=
  { p with tasks := tset .reset p.tasks id v }

/-- The state with a free number drawn (DESIGN CHOICE, log entry 3). -/
def State.draw (s : State) : Nat × State := (Config.freeNat s.fresh, { s with fresh := s.fresh + 1 })

end Sys2Proof.Machine
end

