-- ==== Sys2Proof/Machine/Flags.lean ====
section
/-! DEFINITION. The flags of FCSR and the roundings that raise them (R31, R38-R40). -/

namespace Sys2Proof.Machine

/-- A set of the five sticky flags, in the places of FCSR<4:0> (R31). -/
abbrev Flags := BitVec 5

/-- `NX` (R31). -/
def fNX : Flags := 0b00001#5
/-- `UF` (R31). -/
def fUF : Flags := 0b00010#5
/-- `OF` (R31). -/
def fOF : Flags := 0b00100#5
/-- `DZ` (R31). -/
def fDZ : Flags := 0b01000#5
/-- `NV` (R31). -/
def fNV : Flags := 0b10000#5

/-- The flags `f` when `c` holds. -/
def flagIf (c : Bool) (f : Flags) : Flags := if c then f else 0#5

/-- A rounding mode (R31 `RM`). -/
inductive Round where
  | rne | rtz | rdn | rup
  deriving DecidableEq, Repr

/-- The mode that FCSR.RM names (R31). -/
def Round.ofBits (n : Nat) : Round :=
  if n % 4 = 0 then .rne else if n % 4 = 1 then .rtz else if n % 4 = 2 then .rdn else .rup

/-- How an operation rounds: FCSR.RM and FCSR.FTZ (R39). -/
structure FpMode where
  rm : Round
  ftz : Bool
  deriving DecidableEq, Repr

/-- The mode that FCSR holds (R31). -/
def FpMode.ofFcsr (fcsr : BitVec 8) : FpMode :=
  ⟨.ofBits (bitsAt fcsr.toNat 5 2), bitAt fcsr.toNat 7⟩

/-- FCSR with flags ORed in (R40). -/
def orFlags (fcsr : BitVec 8) (f : Flags) : BitVec 8 := fcsr ||| f.setWidth 8

/-- `m / 2^k` rounded to a whole number in mode `rm`, for a value of sign `neg`; and whether it is inexact (R39). -/
def roundShift (rm : Round) (neg : Bool) (m k : Nat) : Nat × Bool :=
  let q := m / 2 ^ k
  let r := m % 2 ^ k
  if r = 0 then (q, false)
  else
    let up : Bool := match rm with
      | .rne => decide (2 ^ k < 2 * r) || (decide (2 * r = 2 ^ k) && decide (q % 2 = 1))
      | .rtz => false
      | .rdn => neg
      | .rup => !neg
    (if up then q + 1 else q, true)

end Sys2Proof.Machine
end

