-- ==== Sys2Proof/Machine/Number.lean ====
section
/-! DEFINITION. Exact values and the arithmetic on them: every operation is exact, and one rounding follows it
(R38-R40, R45, R46, R48). -/

namespace Sys2Proof.Machine

/-- An exact value: a NaN (signalling or not), an infinity, or `m * 2^e` with a sign. -/
inductive Val where
  | nan (sig : Bool)
  | inf (neg : Bool)
  | num (neg : Bool) (m : Nat) (e : Int)
  deriving DecidableEq, Repr

/-- A whole number as a value. -/
def Val.ofInt (z : Int) : Val := .num (decide (z < 0)) z.natAbs 0

/-- The signed mantissa of `m * 2^e` at the scale `2^e0`, for `e0 ≤ e`. -/
def signedAt (neg : Bool) (m : Nat) (e e0 : Int) : Int :=
  let z : Int := m * 2 ^ (e - e0).toNat
  if neg then -z else z

/-- The value `z * 2^e`; a zero has the sign `zneg`. -/
def Val.ofScaled (z : Int) (e : Int) (zneg : Bool) : Val :=
  if z = 0 then .num zneg 0 0 else .num (decide (z < 0)) z.natAbs e

/-- Whether a value is a signalling NaN (R38). -/
def Val.isSnan : Val → Bool
  | .nan s => s
  | _ => false

/-- Whether a value is a NaN. -/
def Val.isNan : Val → Bool
  | .nan _ => true
  | _ => false

/-- The sign of a value. -/
def Val.neg? : Val → Bool
  | .nan _ => false
  | .inf n => n
  | .num n _ _ => n

/-- The value with the other sign. -/
def Val.negate : Val → Val
  | .nan s => .nan s
  | .inf n => .inf !n
  | .num n m e => .num (!n) m e

/-- The comparison of two values as reals and infinities; none for a NaN. -/
def Val.cmp? : Val → Val → Option Ordering
  | .nan _, _ => none
  | _, .nan _ => none
  | .inf a, .inf b => some (if a = b then .eq else if a then .lt else .gt)
  | .inf a, _ => some (if a then .lt else .gt)
  | _, .inf b => some (if b then .gt else .lt)
  | .num n m e, .num n' m' e' =>
    let e0 := min e e'
    some (compare (signedAt n m e e0) (signedAt n' m' e' e0))

/-- Whether `a < b` as reals and infinities. -/
def Val.lt (a b : Val) : Bool := a.cmp? b == some .lt

/-- The exact sum; `Inf - Inf` is invalid, and an exact zero sum is +0, or −0 towards −Inf (R39). -/
def Val.add (rm : Round) : Val → Val → Val × Flags
  | .nan s, b => (.nan false, flagIf (s || b.isSnan) fNV)
  | a, .nan s => (.nan false, flagIf (a.isSnan || s) fNV)
  | .inf a, .inf b => if a = b then (.inf a, 0) else (.nan false, fNV)
  | .inf a, .num _ _ _ => (.inf a, 0)
  | .num _ _ _, .inf b => (.inf b, 0)
  | .num n m e, .num n' m' e' =>
    if m = 0 ∧ m' = 0 then
      (.num (if n = n' then n else decide (rm = .rdn)) 0 0, 0)
    else
      let e0 := min e e'
      (.ofScaled (signedAt n m e e0 + signedAt n' m' e' e0) e0 (decide (rm = .rdn)), 0)

/-- The exact difference (R39). -/
def Val.sub (rm : Round) (a b : Val) : Val × Flags := a.add rm b.negate

/-- The exact product; `0 * Inf` is invalid (R39). -/
def Val.mul : Val → Val → Val × Flags
  | .nan s, b => (.nan false, flagIf (s || b.isSnan) fNV)
  | a, .nan s => (.nan false, flagIf (a.isSnan || s) fNV)
  | .inf a, .inf b => (.inf (a != b), 0)
  | .inf a, .num n m _ => if m = 0 then (.nan false, fNV) else (.inf (a != n), 0)
  | .num n m _, .inf b => if m = 0 then (.nan false, fNV) else (.inf (n != b), 0)
  | .num n m e, .num n' m' e' => (.num (n != n') (m * m') (e + e'), 0)

/-- The exact `±(a * b) ± c` (R39, R130). -/
def Val.fma (rm : Round) (negP negC : Bool) (a b c : Val) : Val × Flags :=
  let (p, f) := a.mul b
  let (r, g) := (if negP then p.negate else p).add rm (if negC then c.negate else c)
  (r, f ||| g ||| flagIf c.isSnan fNV)

/-- A quotient of positive numbers `a / b`, with the scale: at least 95 leading bits, and a last bit that is 1 when
a remainder is left, so that one rounding of it is the rounding of the exact quotient. -/
def quotient (a b : Nat) : Nat × Int :=
  let k := 96 + b.log2 - a.log2
  let n := a * 2 ^ k
  (2 * (n / b) + (if n % b = 0 then 0 else 1), -((k : Int) + 1))

/-- The quotient `a / b` (R39): exact, or with the last bit of `quotient` for the remainder. -/
def Val.div : Val → Val → Val × Flags
  | .nan s, b => (.nan false, flagIf (s || b.isSnan) fNV)
  | a, .nan s => (.nan false, flagIf (a.isSnan || s) fNV)
  | .inf _, .inf _ => (.nan false, fNV)
  | .inf a, .num n _ _ => (.inf (a != n), 0)
  | .num n _ _, .inf b => (.num (n != b) 0 0, 0)
  | .num n m e, .num n' m' e' =>
    if m' = 0 then (if m = 0 then (.nan false, fNV) else (.inf (n != n'), fDZ))
    else if m = 0 then (.num (n != n') 0 0, 0)
    else
      let (q, k) := quotient m m'
      (.num (n != n') q (k + e - e'), 0)

/-- The integer square root of `n`, found bit by bit from bit `k - 1` down. -/
def isqrtFrom (n : Nat) : Nat → Nat → Nat
  | 0, r => r
  | k + 1, r =>
    let t := r + 2 ^ k
    isqrtFrom n k (if t * t ≤ n then t else r)

/-- The integer square root. -/
def isqrt (n : Nat) : Nat := isqrtFrom n (n.log2 / 2 + 1) 0

/-- The square root of a positive `m * 2^e`, with the last bit for a remainder as in `quotient`. -/
def rootOf (m : Nat) (e : Int) : Nat × Int :=
  let k : Nat := 192 + (e % 2).toNat
  let n := m * 2 ^ k
  let r := isqrt n
  (2 * r + (if r * r = n then 0 else 1), (e - (k : Int)) / 2 - 1)

/-- The square root (R39, R130). -/
def Val.sqrt : Val → Val × Flags
  | .nan s => (.nan false, flagIf s fNV)
  | .inf n => if n then (.nan false, fNV) else (.inf false, 0)
  | .num n m e =>
    if m = 0 then (.num n 0 0, 0)
    else if n then (.nan false, fNV)
    else
      let (r, k) := rootOf m e
      (.num false r k, 0)

/-- The lesser (`mx = false`) or greater of two values: −0 below +0, a number before a NaN (R130). -/
def Val.minmax (mx : Bool) (a b : Val) : Val × Flags :=
  let f := flagIf (a.isSnan || b.isSnan) fNV
  match a, b with
  | .nan _, .nan _ => (.nan false, f)
  | .nan _, b => (b, f)
  | a, .nan _ => (a, f)
  | a, b =>
    match a.cmp? b with
    | some .lt => (if mx then b else a, f)
    | some .gt => (if mx then a else b, f)
    | _ => (if a.neg? then (if mx then b else a) else (if mx then a else b), f)

/-! ## Float formats -/

/-- A float format: the precision with the hidden bit, and the width of the exponent (R37). -/
structure FloatFmt where
  prec : Nat
  ebits : Nat
  deriving DecidableEq, Repr

/-- `F16` (R37). -/
def fmtF16 : FloatFmt := ⟨11, 5⟩
/-- `BF16` (R37). -/
def fmtBF16 : FloatFmt := ⟨8, 8⟩
/-- `F32` (R37). -/
def fmtF32 : FloatFmt := ⟨24, 8⟩

/-- The exponent bias, which is the largest exponent (R37). -/
def FloatFmt.bias (f : FloatFmt) : Nat := 2 ^ (f.ebits - 1) - 1
/-- The least exponent of a normal number: −14 or −126 (R39). -/
def FloatFmt.emin (f : FloatFmt) : Int := 1 - (f.bias : Int)
/-- The sign bit's weight. -/
def FloatFmt.signBit (f : FloatFmt) : Nat := 2 ^ (f.ebits + f.prec - 1)
/-- The canonical quiet NaN (R38). -/
def FloatFmt.qnan (f : FloatFmt) : Nat := (2 ^ f.ebits - 1) * 2 ^ (f.prec - 1) + 2 ^ (f.prec - 2)
/-- A bit pattern from sign and magnitude bits. -/
def FloatFmt.signed (f : FloatFmt) (neg : Bool) (mag : Nat) : Nat := (if neg then f.signBit else 0) + mag
/-- The magnitude bits of an infinity. -/
def FloatFmt.infMag (f : FloatFmt) : Nat := (2 ^ f.ebits - 1) * 2 ^ (f.prec - 1)

/-- The value of a bit pattern (R37); under FTZ a subnormal reads as a zero of its sign (R39). -/
def FloatFmt.decode (f : FloatFmt) (ftz : Bool) (n : Nat) : Val :=
  let frac := n % 2 ^ (f.prec - 1)
  let ex := bitsAt n (f.prec - 1) f.ebits
  let neg := bitAt n (f.ebits + f.prec - 1)
  if ex = 2 ^ f.ebits - 1 then
    if frac = 0 then .inf neg else .nan (!bitAt frac (f.prec - 2))
  else if ex = 0 then
    if ftz then .num neg 0 0 else .num neg frac (f.emin - (f.prec - 1 : Nat))
  else .num neg (frac + 2 ^ (f.prec - 1)) ((ex : Int) - f.bias - (f.prec - 1 : Nat))

/-- What an overflow gives: infinity to nearest, else by direction (R39). -/
def FloatFmt.overflow (f : FloatFmt) (rm : Round) (neg : Bool) : Nat :=
  let toInf : Bool := match rm with
    | .rne => true
    | .rtz => false
    | .rdn => neg
    | .rup => !neg
  f.signed neg (if toInf then f.infMag else f.infMag - 1)

/-- A value rounded once to a format, and the flags of the rounding (R39). Tininess and overflow are judged on the
value rounded as if the exponent range were unbounded. -/
def FloatFmt.round (f : FloatFmt) (md : FpMode) : Val → Nat × Flags
  | .nan s => (f.qnan, flagIf s fNV)
  | .inf n => (f.signed n f.infMag, 0)
  | .num n m e =>
    if m = 0 then (f.signed n 0, 0)
    else
      let top : Int := e + m.log2
      -- the unbounded rounding to `prec` bits
      let k := m.log2 + 1 - f.prec
      let u := (roundShift md.rm n m k).1
      let utop : Int := (e + k) + u.log2
      if (f.bias : Int) < utop then (f.overflow md.rm n, fOF ||| fNX)
      else
        -- the quantum of the result, and the result in quanta
        let qe : Int := max top f.emin - (f.prec - 1 : Nat)
        let (q, inx) := if qe ≤ e then (m * 2 ^ (e - qe).toNat, false) else roundShift md.rm n m (qe - e).toNat
        let tiny := decide (utop < f.emin)
        if md.ftz && decide (0 < q) && decide (q < 2 ^ (f.prec - 1)) then (f.signed n 0, fUF ||| fNX)
        else
          -- quanta above the subnormal range carry the exponent field with them
          let mag := q + (max top f.emin - f.emin).toNat * 2 ^ (f.prec - 1)
          (f.signed n mag, flagIf inx fNX ||| flagIf (inx && tiny) fUF)

/-- A value rounded to a whole number in a mode; the value has to be finite. -/
def roundInt (rm : Round) (neg : Bool) (m : Nat) (e : Int) : Int × Bool :=
  if 0 ≤ e then (if neg then -((m * 2 ^ e.toNat : Nat) : Int) else ((m * 2 ^ e.toNat : Nat) : Int), false)
  else
    let (q, inx) := roundShift rm neg m (-e).toNat
    (if neg then -(q : Int) else q, inx)

/-- A value converted to an integer in `[lo, hi]` (R46, R48): rounded, saturated; a NaN gives 0. -/
def toIntSat (rm : Round) (lo hi : Int) : Val → Int × Flags
  | .nan _ => (0, fNV)
  | .inf n => (if n then lo else hi, fNV)
  | .num n m e =>
    let (z, inx) := roundInt rm n m e
    if z < lo then (lo, fNV) else if hi < z then (hi, fNV) else (z, flagIf inx fNX)

/-! ## Blocks -/

/-- A block: scale, `INV`, and the 32 mantissas (R42, R43). -/
structure Block where
  e : Int
  inv : Bool
  ms : List Int
  deriving DecidableEq, Repr

/-- The block that reads as zeros (R21). -/
def Block.zero : Block := ⟨-512, false, List.replicate 32 0⟩

/-- The 32 exact values of a block (R46, R47). -/
def Block.vals (b : Block) : List Val :=
  b.ms.map fun m => if b.inv then .nan false else .num (decide (m < 0)) m.natAbs b.e

/-- Least and greatest mantissa of a block type (R42). -/
def mantRange (signed : Bool) (w : Nat) : Int × Int :=
  if signed then (-(2 ^ (w - 1) : Nat), (2 ^ (w - 1) : Nat) - 1) else (0, (2 ^ w : Nat) - 1)

/-- What enters the search of R45: a finite value and the flags of replacing it. -/
def quantSource (signed : Bool) : Val → (Bool × Nat × Int) × Flags × Bool
  | .nan _ => ((false, 0, 0), fNV, true)
  | .inf _ => ((false, 0, 0), fNV, true)
  | .num n m e => if !signed && n && decide (m ≠ 0) then ((false, 0, 0), fNX, false) else ((n, m, e), 0, false)

/-- A finite value in steps of `2^e`, rounded to nearest even (R45). -/
def stepsOf (x : Bool × Nat × Int) (e : Int) : Int × Bool := roundInt .rne x.1 x.2.1 (x.2.2 - e)

/-- Whether every value of the block fits the mantissas at scale `e` (R45). -/
def allFit (lo hi : Int) (e : Int) (xs : List (Bool × Nat × Int)) : Bool :=
  xs.all fun x => let z := (stepsOf x e).1; decide (lo ≤ z) && decide (z ≤ hi)

/-- The least scale from `e` up at which every value fits, 511 at most (R45). -/
def findScale (lo hi : Int) (xs : List (Bool × Nat × Int)) : Nat → Int → Int
  | 0, e => e
  | k + 1, e => if e < 511 && !allFit lo hi e xs then findScale lo hi xs k (e + 1) else e

/-- A scale below which no value of the block fits `w` bits: where the greatest magnitude has `w + 2` bits. The
search of R45 may start there. -/
def scaleFloor (w : Nat) (xs : List (Bool × Nat × Int)) : Int :=
  xs.foldl (fun a x => if x.2.1 = 0 then a else max a (min 511 (x.2.2 + x.2.1.log2 - w - 1))) (-512)

/-- R45 for 32 values, each with whether it raises flags (an active element) or is kept or zeroed. -/
def quantiseBlock (signed : Bool) (w : Nat) (xs : List (Val × Bool)) : Block × Flags :=
  let (lo, hi) := mantRange signed w
  let src := xs.map fun x => (quantSource signed x.1, x.2)
  let fin := src.map fun s => s.1.1
  let e := findScale lo hi fin 1024 (scaleFloor w fin)
  let out := src.map fun s =>
    let (z, inx) := stepsOf s.1.1 e
    let c := if hi < z then hi else if z < lo then lo else z
    let f := s.1.2.1 ||| flagIf (decide (c ≠ z)) (fOF ||| fNX) ||| flagIf inx fNX
    (c, if s.2 then f else 0)
  (⟨e, src.any fun s => s.1.2.2, out.map Prod.fst⟩, out.foldl (fun f o => f ||| o.2) 0)

end Sys2Proof.Machine
end

