-- ==== Sys2Proof/Machine/Formats.lean ====
section
/-! DEFINITION. Element types in a register: widths and capacities (R20, R35), the places of elements and blocks
(R22, R43), packed blocks (R44), conversions (R46, R48) and the result type of unlike operands (R49). -/

namespace Sys2Proof.Machine

/-- The families of R35. -/
inductive Family where
  | none | int | float | hb | block
  deriving DecidableEq, Repr

/-- The family of a tag (R35). -/
def tagFamily : Tag → Family
  | .none => .none
  | .s8 | .s16 | .s32 | .s64 | .u8 | .u16 | .u32 | .u64 => .int
  | .hb => .hb
  | .f16 | .bf16 | .f32 => .float
  | .q _ | .qu _ => .block

/-- The width `w` of a tag (R35). -/
def tagWidth : Tag → Nat
  | .none => 0
  | .s8 | .u8 => 8
  | .s16 | .u16 | .f16 | .bf16 => 16
  | .s32 | .u32 | .f32 => 32
  | .s64 | .u64 => 64
  | .hb => 1
  | .q n | .qu n => n.toNat + 1

/-- Whether the tag is of a signed integer or of a signed block type (R35). -/
def tagSigned : Tag → Bool
  | .s8 | .s16 | .s32 | .s64 | .q _ => true
  | _ => false

/-- Whether the tag is of a block type. -/
def tagBlock (t : Tag) : Bool := tagFamily t == .block

/-- The float format of a float tag (R37). -/
def tagFmt : Tag → FloatFmt
  | .f16 => fmtF16
  | .bf16 => fmtBF16
  | _ => fmtF32

/-- The signed integer tag of width `w`. -/
def signedTag (w : Nat) : Tag := if w ≤ 8 then .s8 else if w ≤ 16 then .s16 else if w ≤ 32 then .s32 else .s64
/-- The unsigned integer tag of width `w`. -/
def unsignedTag (w : Nat) : Tag := if w ≤ 8 then .u8 else if w ≤ 16 then .u16 else if w ≤ 32 then .u32 else .u64

/-- The capacity `E` of one register (R20). -/
def tagCap (t : Tag) : Nat :=
  match tagFamily t with
  | .none => 0
  | .block => 32 * (512 / (tagWidth t + 1))
  | _ => 16384 / tagWidth t

/-- The bits of one unit that moves as a whole: an element, or a block with its scale word (R43, R147). -/
def unitBits (t : Tag) : Nat := if tagBlock t then 32 * (tagWidth t + 1) else tagWidth t

/-- Elements in one unit. -/
def unitLen (t : Tag) : Nat := if tagBlock t then 32 else 1

/-! ## Places in a register -/

/-- The lowest bit of slot `s` of width `w` (R22); for `w = 64`, of its low half. -/
def slotPos (w s : Nat) : Nat :=
  if w = 1 then s
  else if w = 64 then 2048 * (s / 32) + 32 * (s % 32)
  else
    let n := 32 / w
    1024 * (s / (32 * n)) + 32 * (s % 32) + w * (s % (32 * n) / 32)

/-- `n` with `len` bits from `lo` up replaced by `v`. -/
def setBits (n lo len v : Nat) : Nat := n - bitsAt n lo len * 2 ^ lo + v % 2 ^ len * 2 ^ lo

/-- Unit `k` of a register's contents: an element (R22), or a block (R43). -/
def getUnit (t : Tag) (bits k : Nat) : Nat :=
  if tagBlock t then bitsAt bits (k * unitBits t) (unitBits t)
  else if tagWidth t = 64 then
    bitsAt bits (slotPos 64 k) 32 + bitsAt bits (slotPos 64 k + 1024) 32 * 2 ^ 32
  else bitsAt bits (slotPos (tagWidth t) k) (tagWidth t)

/-- The contents with unit `k` replaced. -/
def putUnit (t : Tag) (bits k v : Nat) : Nat :=
  if tagBlock t then setBits bits (k * unitBits t) (unitBits t) v
  else if tagWidth t = 64 then
    setBits (setBits bits (slotPos 64 k) 32 v) (slotPos 64 k + 1024) 32 (v / 2 ^ 32)
  else setBits bits (slotPos (tagWidth t) k) (tagWidth t) v

/-- The 64-bit words that hold unit `k`, the lowest first (R22, R43, R322). -/
def unitWords (t : Tag) (k : Nat) : List Nat :=
  if tagBlock t then
    let lo := k * unitBits t / 64
    (List.range ((k * unitBits t + unitBits t - 1) / 64 - lo + 1)).map (lo + ·)
  else if tagWidth t = 64 then [slotPos 64 k / 64, (slotPos 64 k + 1024) / 64]
  else [slotPos (tagWidth t) k / 64]

/-! ## Blocks -/

/-- Bit `j` of every plane of a block, plane 0 lowest (R43). -/
def mantBits (w raw j : Nat) : Nat :=
  (List.range w).foldl (fun n p => n + bitsAt raw (32 * (p + 1) + j) 1 * 2 ^ p) 0

/-- The mantissa that `n` of `w` bits stands for (R42). -/
def mantOf (signed : Bool) (w n : Nat) : Int := if signed then signedOf w n else (n % 2 ^ w : Nat)

/-- A register block read (R43). -/
def blockOf (t : Tag) (raw : Nat) : Block where
  e := signedOf 10 raw
  inv := bitAt raw 10
  ms := (List.range 32).map fun j => mantOf (tagSigned t) (tagWidth t) (mantBits (tagWidth t) raw j)

/-- The register image of a block (R43). -/
def rawOfBlock (t : Tag) (b : Block) : Nat :=
  let w := tagWidth t
  wrap 10 b.e + bit b.inv * 2 ^ 10 +
    (b.ms.zipIdx).foldl (fun n x =>
      (List.range w).foldl (fun n p => n + bitsAt (wrap w x.1) p 1 * 2 ^ (32 * (p + 1) + x.2)) n) 0

/-- The zero that an absent unit reads as (R21). -/
def zeroUnit (t : Tag) : Nat := if tagBlock t then wrap 10 (-512) else 0

/-- A block with its mantissas from `n` up read as 0 (R21). -/
def clipBlock (t : Tag) (raw n : Nat) : Nat :=
  if 32 ≤ n then raw
  else if n = 0 then zeroUnit t
  else
    (List.range (tagWidth t)).foldl
      (fun r p => setBits r (32 * (p + 1)) 32 (bitsAt raw (32 * (p + 1)) n)) raw

/-- The packed size of a block in bytes (R44). -/
def packedSize (w : Nat) : Nat := 2 + 4 * w

/-- The packed form of a register block, as one little-endian number (R44). -/
def packBlock (w raw : Nat) : Nat :=
  raw % 2 ^ 11 +
    (List.range 32).foldl (fun n j => n + mantBits w raw j * 2 ^ (16 + j * w)) 0

/-- The register block of a packed block (R113). -/
def unpackBlock (w p : Nat) : Nat :=
  p % 2 ^ 11 +
    (List.range 32).foldl (fun n j =>
      (List.range w).foldl (fun n q => n + bitsAt p (16 + j * w + q) 1 * 2 ^ (32 * (q + 1) + j)) n) 0

/-! ## Elements -/

/-- An element on its way through an operation: the bits of a fixed-width or HB element, or the exact value of an
element of a block type (R47). -/
inductive Elem where
  | raw (n : Nat)
  | exact (v : Val)
  deriving DecidableEq, Repr

/-- The bits of an element that is not of a block type. -/
def Elem.bits : Elem → Nat
  | .raw n => n
  | .exact _ => 0

/-- The integer that `n` stands for under an integer tag (R37). -/
def intOf (t : Tag) (n : Nat) : Int :=
  if tagSigned t then signedOf (tagWidth t) n else (n % 2 ^ tagWidth t : Nat)

/-- The exact value of an element of tag `t` (R37, R41, R48); FTZ flushes a subnormal (R39). -/
def Elem.val (t : Tag) (ftz : Bool) : Elem → Val
  | .exact v => v
  | .raw n =>
    match tagFamily t with
    | .float => (tagFmt t).decode ftz n
    | .hb => .num (n % 2 == 1) 1 0
    | _ => .ofInt (intOf t n)

/-- The integer of an integer element. -/
def Elem.int (t : Tag) (x : Elem) : Int := intOf t x.bits

/-- A value written in tag `t`: rounded for a float (R39), kept exact for a block type (R47), rounded and saturated
for an integer (R46, R48); below zero for HB (R48). -/
def storeVal (t : Tag) (md : FpMode) (v : Val) : Elem × Flags :=
  match tagFamily t with
  | .float => let (n, f) := (tagFmt t).round md v; (.raw n, f)
  | .block => (.exact v, 0)
  | .hb =>
    match v with
    | .nan _ => (.raw 0, fNV)
    | .inf n => (.raw (bit n), 0)
    | .num n m _ => (.raw (bit (n && decide (m ≠ 0))), 0)
  | _ =>
    let w := tagWidth t
    let (lo, hi) : Int × Int :=
      if tagSigned t then (-(2 ^ (w - 1) : Nat), (2 ^ (w - 1) : Nat) - 1) else (0, (2 ^ w : Nat) - 1)
    let (z, f) := toIntSat md.rm lo hi v
    (.raw (wrap w z), f)

/-- The conversion of one element from tag `a` to tag `b` (R48). An integer narrowed to an integer sets no flag; a signed
integer is saturated to an unsigned type also when that is wider (DEDUCED, log entry 82); HB gives 1 and 0 to an unsigned
integer. -/
def convertElem (a b : Tag) (md : FpMode) (x : Elem) : Elem × Flags :=
  if a = b then (x, 0)
  else
    match tagFamily a, tagFamily b with
    | .int, .int => ((storeVal b md (x.val a md.ftz)).1, 0)
    | .hb, .int =>
      if tagSigned b then ((storeVal b md (x.val a md.ftz)).1, 0) else (.raw (1 - x.bits % 2), 0)
    | .hb, .hb => (x, 0)
    | _, _ => storeVal b md (x.val a md.ftz)

/-- The result type of two operands (R49); none where it traps `TAG`. -/
def promote (a b : Tag) : Option Tag :=
  let wa := tagWidth a
  let wb := tagWidth b
  match tagFamily a, tagFamily b with
  | .int, .int =>
    if tagSigned a = tagSigned b then
      some (if tagSigned a then signedTag (max wa wb) else unsignedTag (max wa wb))
    else if tagSigned a then some (signedTag (min 64 (max wa (2 * wb))))
    else some (signedTag (min 64 (max wb (2 * wa))))
  | .int, .float => if wa = 8 then some b else some .f32
  | .float, .int => if wb = 8 then some a else some .f32
  | .float, .float => if a = b then some a else some .f32
  | .block, .block =>
    if tagSigned a = tagSigned b then
      some (if tagSigned a then .q (max wa wb - 1 : Nat) else .qu (max wa wb - 1 : Nat))
    else if tagSigned a then some (.q (min 16 (max wa (wb + 1)) - 1 : Nat))
    else some (.q (min 16 (max wb (wa + 1)) - 1 : Nat))
  | .hb, .hb => some .hb
  | _, _ => none

/-- The code of the smallest group that holds `n` elements of tag `t` (R50); none if no group does. -/
def groupFor (t : Tag) (n : Nat) : Option Nat :=
  let e := tagCap t
  if n ≤ e then some 0 else if n ≤ 2 * e then some 1 else if n ≤ 4 * e then some 2
  else if n ≤ 8 * e then some 3 else none

end Sys2Proof.Machine
end

