-- ==== Sys2Proof/Machine/Compress.lean ====
section
/-! DEFINITION. Granule codes and beats (R280, R281) and compressed packet payloads (R335). -/

namespace Sys2Proof.Machine

/-- Little-endian numbers of `n` bytes, `k` of them. -/
def wordsOf (n : Nat) : Nat → List Byte → List Nat
  | 0, _ => []
  | k + 1, bs => (bs.take n).foldr (fun b a => b.toNat + 256 * a) 0 :: wordsOf n k (bs.drop n)

/-- A number as `n` little-endian bytes. -/
def bytesOf (n v : Nat) : List Byte := (List.range n).map fun j => BitVec.ofNat 8 (bitsAt v (8 * j) 8)

/-- The deltas of words of `w` bits from word 0, modulo `2^w` (R280). -/
def deltas (w : Nat) (ws : List Nat) : List Nat := ws.map fun (x : Nat) => wrap w ((x : Int) - (ws.headD 0 : Nat))

/-- Whether every delta fits `k` bits (R280). -/
def deltasFit (w k : Nat) (ws : List Nat) : Bool :=
  (deltas w ws).all fun d => decide (-(2 ^ (k - 1) : Int) ≤ signedOf w d) && decide (signedOf w d < 2 ^ (k - 1))

/-- The code of a granule (R281): the fewest beats, then the lowest code. -/
def granuleCode (g : List Byte) : Nat :=
  let w4 := wordsOf 4 32 g
  let w8 := wordsOf 8 16 g
  if g.all (· == 0) then 1
  else if w4.all (· == w4.headD 0) then 2
  else if deltasFit 64 8 w8 then 5
  else if deltasFit 32 8 w4 then 3
  else if deltasFit 64 16 w8 then 6
  else if deltasFit 32 16 w4 then 4
  else if deltasFit 64 32 w8 then 7
  else 0

/-- The beats of a code (R280). -/
def codeBeats (code : Nat) : Nat :=
  match code with
  | 0 => 4
  | 1 => 0
  | 2 | 5 => 1
  | 3 | 6 => 2
  | _ => 3

/-- Word size and delta size, in bytes, of a delta code (R280). -/
def codeSizes (code : Nat) : Nat × Nat :=
  match code with
  | 3 => (4, 1)
  | 4 => (4, 2)
  | 5 => (8, 1)
  | 6 => (8, 2)
  | _ => (8, 4)

/-- Bytes padded with zeros to a length. -/
def padTo (n : Nat) (bs : List Byte) : List Byte := bs ++ List.replicate (n - bs.length) 0

/-- The beats of a granule under a code (R280). -/
def beatsOf (code : Nat) (g : List Byte) : List Byte :=
  if code = 0 then padTo 128 g
  else if code = 1 then []
  else if code = 2 then padTo 32 (g.take 4)
  else
    let (w, d) := codeSizes code
    let ws := wordsOf w (128 / w) g
    padTo (32 * codeBeats code) (bytesOf w (ws.headD 0) ++ (deltas (8 * w) ws).flatMap (bytesOf d))

/-- The granule of beats under a code (R280). -/
def expandBeats (code : Nat) (bs : List Byte) : List Byte :=
  if code = 0 then padTo 128 (bs.take 128)
  else if code = 1 then List.replicate 128 0
  else if code = 2 then (List.replicate 32 (padTo 4 (bs.take 4))).flatten
  else
    let (w, d) := codeSizes code
    let base := (wordsOf w 1 bs).headD 0
    (wordsOf d (128 / w) (bs.drop w)).flatMap fun x => bytesOf w (wrap (8 * w) (base + signedOf (8 * d) x))

/-- A payload cut into granules; an odd number of flits leaves half a granule at the end. -/
def granulesOf : Nat → List Byte → List (List Byte)
  | 0, _ => []
  | n + 1, bs => if bs.isEmpty then [] else bs.take 128 :: granulesOf n (bs.drop 128)

/-- The code of a granule of a payload (R335); half a granule has `RAW` (DESIGN CHOICE, log entry 95). -/
def payloadCode (g : List Byte) : Nat := if g.length = 128 then granuleCode g else 0

/-- The beats of a granule of a payload (R335): half a granule goes as its own bytes, without padding (DESIGN CHOICE, log
entry 95). -/
def payloadBeats (g : List Byte) : List Byte := if g.length = 128 then beatsOf (granuleCode g) g else g

/-- A compressed payload (R335). -/
def compressPayload (bs : List Byte) : List Byte :=
  let gs := granulesOf 32 bs
  let codes := gs.map payloadCode
  let head := (List.range 16).map fun j => BitVec.ofNat 8 (codes.getD (2 * j) 0 + 16 * codes.getD (2 * j + 1) 0)
  let body := head ++ gs.flatMap payloadBeats
  padTo ((body.length + 63) / 64 * 64) body

/-- Granules rebuilt from their codes; one whose beats are not all there ends the payload: as half a granule under `RAW`
when a flit of it is there. -/
def expandAll : List Nat → List Byte → List Byte
  | [], _ => []
  | c :: cs, bs =>
    if 32 * codeBeats c ≤ bs.length then expandBeats c bs ++ expandAll cs (bs.drop (32 * codeBeats c))
    else if c = 0 && decide (64 ≤ bs.length) then bs.take 64
    else []

/-- The plain payload of a compressed one (R335). -/
def expandPayload (bs : List Byte) : List Byte :=
  expandAll ((bs.take 16).flatMap fun b => [b.toNat % 16, b.toNat / 16]) (bs.drop 16)

end Sys2Proof.Machine
end

