-- ==== Sys2Proof/Decode.lean ====
section
/-! DEFINITION. Decoding and encoding of Utrath instructions (spec/03_encoding.md R56-R67). Formats are lists of
field widths from bit 0 up; a field that holds several parts is unpacked again. -/

namespace Sys2Proof

/-- The fields of `n`, of the given widths, from bit 0 up. -/
def unpack : List Nat → Nat → List Nat
  | [], _ => []
  | w :: ws, n => n % 2 ^ w :: unpack ws (n / 2 ^ w)

/-- The number whose fields, of the given widths from bit 0 up, are `vs`. -/
def pack : List Nat → List Nat → Nat
  | w :: ws, v :: vs => v % 2 ^ w + 2 ^ w * pack ws vs
  | _, _ => 0

/-- The 6-bit value of a tag (R35). -/
def Tag.code : Tag → Nat
  | .none => 0x00
  | .s8 => 0x01 | .s16 => 0x02 | .s32 => 0x03 | .s64 => 0x04
  | .u8 => 0x05 | .u16 => 0x06 | .u32 => 0x07 | .u64 => 0x08
  | .hb => 0x09
  | .f16 => 0x10 | .bf16 => 0x11 | .f32 => 0x12
  | .q n => 0x20 + n.toNat
  | .qu n => 0x30 + n.toNat

/-- The tag of a 6-bit value, if it is listed (R35). -/
def Tag.ofCode? (c : Nat) : Option Tag :=
  if 0x20 ≤ c then
    if c < 0x30 then some (.q (.ofNat 4 (c - 0x20)))
    else if c < 0x40 then some (.qu (.ofNat 4 (c - 0x30))) else Option.none
  else match c with
  | 0x00 => some Tag.none
  | 0x01 => some .s8 | 0x02 => some .s16 | 0x03 => some .s32 | 0x04 => some .s64
  | 0x05 => some .u8 | 0x06 => some .u16 | 0x07 => some .u32 | 0x08 => some .u64
  | 0x09 => some .hb
  | 0x10 => some .f16 | 0x11 => some .bf16 | 0x12 => some .f32
  | _ => Option.none

/-- The 2-bit value of an `ord` (R60). -/
def Ord.code : Ord → Nat
  | .pl => 0 | .acq => 1 | .rel => 2 | .ar => 3

/-- The `ord` of a 2-bit value (R60). -/
def Ord.ofCode (c : Nat) : Ord :=
  match c with
  | 0 => .pl | 1 => .acq | 2 => .rel | _ => .ar

/-- The 3-bit value of a scope (R60). -/
def Scope.code : Scope → Nat
  | .hart => 0 | .core => 1 | .stack => 2 | .pkg => 3 | .sys => 4 | .fab => 5

/-- The scope of a 3-bit value, if it is listed (R60). -/
def Scope.ofCode? (c : Nat) : Option Scope :=
  match c with
  | 0 => some .hart | 1 => some .core | 2 => some .stack | 3 => some .pkg | 4 => some .sys | 5 => some .fab
  | _ => none

/-- What reading a bit pattern answers. -/
abbrev Raw := Except DecodeError Instr

/-- Goes on with a listed tag. -/
def withTag (c : Nat) (k : Tag → Raw) : Raw :=
  match Tag.ofCode? c with
  | some t => k t
  | none => .error .reservedTag

/-- Goes on with a listed scope. -/
def withScope (c : Nat) (k : Scope → Raw) : Raw :=
  match Scope.ofCode? c with
  | some t => k t
  | none => .error .reservedScope

/-- Goes on when every field marked 0, and every fixed field, holds its value. -/
def fixed (ok : Bool) (k : Raw) : Raw := if ok then k else .error .nonzeroField

/-- Major 0x00: ADD, SUB, AND, OR, XOR, ANDN, SLL, SRL, SRA, SLT, SLTU, MIN, MAX, MINU, MAXU, MUL, MULH, MULHU, DIV, DIVU, REM, REMU, CLZ, CTZ, POPC (R62). -/
def decMajor00 (n : Nat) : Raw :=
  match unpack [2, 6, 5, 5, 5, 9] n with
  | [_, _, f_rd, f_ra, f_rb, f_fn] =>
    match f_fn with
    | 0 => .ok (.add (.ofNat 5 f_rd) (.ofNat 5 f_ra) (.ofNat 5 f_rb))
    | 1 => .ok (.sub (.ofNat 5 f_rd) (.ofNat 5 f_ra) (.ofNat 5 f_rb))
    | 2 => .ok (.and (.ofNat 5 f_rd) (.ofNat 5 f_ra) (.ofNat 5 f_rb))
    | 3 => .ok (.or (.ofNat 5 f_rd) (.ofNat 5 f_ra) (.ofNat 5 f_rb))
    | 4 => .ok (.xor (.ofNat 5 f_rd) (.ofNat 5 f_ra) (.ofNat 5 f_rb))
    | 5 => .ok (.andn (.ofNat 5 f_rd) (.ofNat 5 f_ra) (.ofNat 5 f_rb))
    | 6 => .ok (.sll (.ofNat 5 f_rd) (.ofNat 5 f_ra) (.ofNat 5 f_rb))
    | 7 => .ok (.srl (.ofNat 5 f_rd) (.ofNat 5 f_ra) (.ofNat 5 f_rb))
    | 8 => .ok (.sra (.ofNat 5 f_rd) (.ofNat 5 f_ra) (.ofNat 5 f_rb))
    | 9 => .ok (.slt (.ofNat 5 f_rd) (.ofNat 5 f_ra) (.ofNat 5 f_rb))
    | 10 => .ok (.sltu (.ofNat 5 f_rd) (.ofNat 5 f_ra) (.ofNat 5 f_rb))
    | 11 => .ok (.min (.ofNat 5 f_rd) (.ofNat 5 f_ra) (.ofNat 5 f_rb))
    | 12 => .ok (.max (.ofNat 5 f_rd) (.ofNat 5 f_ra) (.ofNat 5 f_rb))
    | 13 => .ok (.minu (.ofNat 5 f_rd) (.ofNat 5 f_ra) (.ofNat 5 f_rb))
    | 14 => .ok (.maxu (.ofNat 5 f_rd) (.ofNat 5 f_ra) (.ofNat 5 f_rb))
    | 15 => .ok (.mul (.ofNat 5 f_rd) (.ofNat 5 f_ra) (.ofNat 5 f_rb))
    | 16 => .ok (.mulh (.ofNat 5 f_rd) (.ofNat 5 f_ra) (.ofNat 5 f_rb))
    | 17 => .ok (.mulhu (.ofNat 5 f_rd) (.ofNat 5 f_ra) (.ofNat 5 f_rb))
    | 18 => .ok (.div (.ofNat 5 f_rd) (.ofNat 5 f_ra) (.ofNat 5 f_rb))
    | 19 => .ok (.divu (.ofNat 5 f_rd) (.ofNat 5 f_ra) (.ofNat 5 f_rb))
    | 20 => .ok (.rem (.ofNat 5 f_rd) (.ofNat 5 f_ra) (.ofNat 5 f_rb))
    | 21 => .ok (.remu (.ofNat 5 f_rd) (.ofNat 5 f_ra) (.ofNat 5 f_rb))
    | 22 => fixed (f_rb == 0) <| .ok (.clz (.ofNat 5 f_rd) (.ofNat 5 f_ra))
    | 23 => fixed (f_rb == 0) <| .ok (.ctz (.ofNat 5 f_rd) (.ofNat 5 f_ra))
    | 24 => fixed (f_rb == 0) <| .ok (.popc (.ofNat 5 f_rd) (.ofNat 5 f_ra))
    | _ => .error .reservedFunction
  | _ => .error .nonzeroField

/-- Major 0x01: ADDI (R62). -/
def decMajor01 (n : Nat) : Raw :=
  match unpack [2, 6, 5, 5, 14] n with
  | [_, _, f_rd, f_ra, f_imm] => .ok (.addi (.ofNat 5 f_rd) (.ofNat 5 f_ra) (.ofNat 14 f_imm))
  | _ => .error .nonzeroField

/-- Major 0x02: ANDI (R62). -/
def decMajor02 (n : Nat) : Raw :=
  match unpack [2, 6, 5, 5, 14] n with
  | [_, _, f_rd, f_ra, f_imm] => .ok (.andi (.ofNat 5 f_rd) (.ofNat 5 f_ra) (.ofNat 14 f_imm))
  | _ => .error .nonzeroField

/-- Major 0x03: ORI (R62). -/
def decMajor03 (n : Nat) : Raw :=
  match unpack [2, 6, 5, 5, 14] n with
  | [_, _, f_rd, f_ra, f_imm] => .ok (.ori (.ofNat 5 f_rd) (.ofNat 5 f_ra) (.ofNat 14 f_imm))
  | _ => .error .nonzeroField

/-- Major 0x04: XORI (R62). -/
def decMajor04 (n : Nat) : Raw :=
  match unpack [2, 6, 5, 5, 14] n with
  | [_, _, f_rd, f_ra, f_imm] => .ok (.xori (.ofNat 5 f_rd) (.ofNat 5 f_ra) (.ofNat 14 f_imm))
  | _ => .error .nonzeroField

/-- Major 0x05: SLTI (R62). -/
def decMajor05 (n : Nat) : Raw :=
  match unpack [2, 6, 5, 5, 14] n with
  | [_, _, f_rd, f_ra, f_imm] => .ok (.slti (.ofNat 5 f_rd) (.ofNat 5 f_ra) (.ofNat 14 f_imm))
  | _ => .error .nonzeroField

/-- Major 0x06: SLTIU (R62). -/
def decMajor06 (n : Nat) : Raw :=
  match unpack [2, 6, 5, 5, 14] n with
  | [_, _, f_rd, f_ra, f_imm] => .ok (.sltiu (.ofNat 5 f_rd) (.ofNat 5 f_ra) (.ofNat 14 f_imm))
  | _ => .error .nonzeroField

/-- Major 0x07: SLLI, SRLI, SRAI (R62). -/
def decMajor07 (n : Nat) : Raw :=
  match unpack [2, 6, 5, 5, 6, 2, 6] n with
  | [_, _, f_rd, f_ra, f_sh, f_fn, f_z] =>
    match f_fn with
    | 0 => fixed (f_z == 0) <| .ok (.slli (.ofNat 5 f_rd) (.ofNat 5 f_ra) (.ofNat 6 f_sh))
    | 1 => fixed (f_z == 0) <| .ok (.srli (.ofNat 5 f_rd) (.ofNat 5 f_ra) (.ofNat 6 f_sh))
    | 2 => fixed (f_z == 0) <| .ok (.srai (.ofNat 5 f_rd) (.ofNat 5 f_ra) (.ofNat 6 f_sh))
    | _ => .error .reservedFunction
  | _ => .error .nonzeroField

/-- Major 0x08: LUI (R62). -/
def decMajor08 (n : Nat) : Raw :=
  match unpack [2, 6, 5, 19] n with
  | [_, _, f_rd, f_imm] => .ok (.lui (.ofNat 5 f_rd) (.ofNat 19 f_imm))
  | _ => .error .nonzeroField

/-- Major 0x09: LDPC (R62). -/
def decMajor09 (n : Nat) : Raw :=
  match unpack [2, 6, 5, 19] n with
  | [_, _, f_rd, f_imm] => .ok (.ldpc (.ofNat 5 f_rd) (.ofNat 19 f_imm))
  | _ => .error .nonzeroField

/-- Major 0x0A: LD_B, LD_BU, LD_H, LD_HU, LD_W, LD_WU, LD_D (R62). -/
def decMajor0A (n : Nat) : Raw :=
  match unpack [2, 6, 5, 5, 2, 1, 2, 3, 3, 3] n with
  | [_, _, f_rd, f_rb, f_fn, f_un, f_ord, f_scope, f_evict, f_imm] =>
    match f_fn with
    | 0 =>
      if f_un == 0 then withScope f_scope fun s_scope => .ok (.ldB (.ofNat 5 f_rd) (.ofNat 5 f_rb) (.ofCode f_ord) s_scope (.ofNat 3 f_evict) (.ofNat 3 f_imm)) else
      if f_un == 1 then withScope f_scope fun s_scope => .ok (.ldBu (.ofNat 5 f_rd) (.ofNat 5 f_rb) (.ofCode f_ord) s_scope (.ofNat 3 f_evict) (.ofNat 3 f_imm)) else
      .error .reservedFunction
    | 1 =>
      if f_un == 0 then withScope f_scope fun s_scope => .ok (.ldH (.ofNat 5 f_rd) (.ofNat 5 f_rb) (.ofCode f_ord) s_scope (.ofNat 3 f_evict) (.ofNat 3 f_imm)) else
      if f_un == 1 then withScope f_scope fun s_scope => .ok (.ldHu (.ofNat 5 f_rd) (.ofNat 5 f_rb) (.ofCode f_ord) s_scope (.ofNat 3 f_evict) (.ofNat 3 f_imm)) else
      .error .reservedFunction
    | 2 =>
      if f_un == 0 then withScope f_scope fun s_scope => .ok (.ldW (.ofNat 5 f_rd) (.ofNat 5 f_rb) (.ofCode f_ord) s_scope (.ofNat 3 f_evict) (.ofNat 3 f_imm)) else
      if f_un == 1 then withScope f_scope fun s_scope => .ok (.ldWu (.ofNat 5 f_rd) (.ofNat 5 f_rb) (.ofCode f_ord) s_scope (.ofNat 3 f_evict) (.ofNat 3 f_imm)) else
      .error .reservedFunction
    | 3 =>
      if f_un == 0 then withScope f_scope fun s_scope => .ok (.ldD (.ofNat 5 f_rd) (.ofNat 5 f_rb) (.ofCode f_ord) s_scope (.ofNat 3 f_evict) (.ofNat 3 f_imm)) else
      .error .reservedFunction
    | _ => .error .reservedFunction
  | _ => .error .nonzeroField

/-- Major 0x0B: ST_B, ST_H, ST_W, ST_D (R62). -/
def decMajor0B (n : Nat) : Raw :=
  match unpack [2, 6, 5, 5, 2, 1, 2, 3, 3, 3] n with
  | [_, _, f_rd, f_rb, f_fn, f_un, f_ord, f_scope, f_evict, f_imm] =>
    match f_fn with
    | 0 => fixed (f_un == 0) <| withScope f_scope fun s_scope => .ok (.stB (.ofNat 5 f_rd) (.ofNat 5 f_rb) (.ofCode f_ord) s_scope (.ofNat 3 f_evict) (.ofNat 3 f_imm))
    | 1 => fixed (f_un == 0) <| withScope f_scope fun s_scope => .ok (.stH (.ofNat 5 f_rd) (.ofNat 5 f_rb) (.ofCode f_ord) s_scope (.ofNat 3 f_evict) (.ofNat 3 f_imm))
    | 2 => fixed (f_un == 0) <| withScope f_scope fun s_scope => .ok (.stW (.ofNat 5 f_rd) (.ofNat 5 f_rb) (.ofCode f_ord) s_scope (.ofNat 3 f_evict) (.ofNat 3 f_imm))
    | 3 => fixed (f_un == 0) <| withScope f_scope fun s_scope => .ok (.stD (.ofNat 5 f_rd) (.ofNat 5 f_rb) (.ofCode f_ord) s_scope (.ofNat 3 f_evict) (.ofNat 3 f_imm))
    | _ => .error .reservedFunction
  | _ => .error .nonzeroField

/-- Major 0x0C: BEQ, BNE, BLT, BGE, BLTU, BGEU (R62). -/
def decMajor0C (n : Nat) : Raw :=
  match unpack [2, 6, 5, 5, 3, 11] n with
  | [_, _, f_ra, f_rb, f_fn, f_off] =>
    match f_fn with
    | 0 => .ok (.beq (.ofNat 5 f_ra) (.ofNat 5 f_rb) (.ofNat 11 f_off))
    | 1 => .ok (.bne (.ofNat 5 f_ra) (.ofNat 5 f_rb) (.ofNat 11 f_off))
    | 2 => .ok (.blt (.ofNat 5 f_ra) (.ofNat 5 f_rb) (.ofNat 11 f_off))
    | 3 => .ok (.bge (.ofNat 5 f_ra) (.ofNat 5 f_rb) (.ofNat 11 f_off))
    | 4 => .ok (.bltu (.ofNat 5 f_ra) (.ofNat 5 f_rb) (.ofNat 11 f_off))
    | 5 => .ok (.bgeu (.ofNat 5 f_ra) (.ofNat 5 f_rb) (.ofNat 11 f_off))
    | _ => .error .reservedFunction
  | _ => .error .nonzeroField

/-- Major 0x0D: JAL (R62). -/
def decMajor0D (n : Nat) : Raw :=
  match unpack [2, 6, 5, 19] n with
  | [_, _, f_rd, f_imm] => .ok (.jal (.ofNat 5 f_rd) (.ofNat 19 f_imm))
  | _ => .error .nonzeroField

/-- Major 0x0E: JALR (R62). -/
def decMajor0E (n : Nat) : Raw :=
  match unpack [2, 6, 5, 5, 14] n with
  | [_, _, f_rd, f_ra, f_imm] => .ok (.jalr (.ofNat 5 f_rd) (.ofNat 5 f_ra) (.ofNat 14 f_imm))
  | _ => .error .nonzeroField

/-- Major 0x0F: LOOP_SET, LOOP_NEXT, FARM_SET (R62). -/
def decMajor0F (n : Nat) : Raw :=
  match unpack [2, 6, 2, 3, 5, 14] n with
  | [_, _, f_fn, f_z, f_ra, f_rest] =>
    match f_fn with
    | 0 => (match unpack [6, 2, 1, 1, 4] f_rest with | [f_rest_0, f_rest_1, f_rest_2, f_rest_3, f_rest_4] => fixed (f_z == 0 && f_rest_4 == 0) <| withTag f_rest_0 fun t_tag => .ok (.loopSet (.ofNat 5 f_ra) t_tag (.ofNat 2 f_rest_1) (.ofNat 1 f_rest_2) (.ofNat 1 f_rest_3)) | _ => .error .nonzeroField)
    | 1 => fixed (f_z == 0 && f_ra == 0) <| .ok (.loopNext (.ofNat 14 f_rest))
    | 2 => (match unpack [6, 2, 1, 1, 4] f_rest with | [f_rest_0, f_rest_1, f_rest_2, f_rest_3, f_rest_4] => fixed (f_z == 0 && f_rest_4 == 0) <| withTag f_rest_0 fun t_tag => .ok (.farmSet (.ofNat 5 f_ra) t_tag (.ofNat 2 f_rest_1) (.ofNat 1 f_rest_2) (.ofNat 1 f_rest_3)) | _ => .error .nonzeroField)
    | _ => .error .reservedFunction
  | _ => .error .nonzeroField

/-- Major 0x10: CSRR, CSRW, CSRS, CSRC, SVC, BRK, EXIT, CACHECTL_SYNCI, CACHECTL_WB, CACHECTL_WBINV, CACHECTL_PF1, CACHECTL_PF2, CACHECTL_ZERO, ERET, TLBINV, CTX_RESUME_RETRY, CTX_RESUME_SKIP, CTX_SAVE (R62). -/
def decMajor10 (n : Nat) : Raw :=
  match unpack [2, 6, 5, 5, 4, 10] n with
  | [_, _, f_rd, f_ra, f_fn, f_imm] =>
    match f_fn with
    | 0 => fixed (f_ra == 0) <| .ok (.csrr (.ofNat 5 f_rd) (.ofNat 10 f_imm))
    | 1 => .ok (.csrw (.ofNat 5 f_rd) (.ofNat 10 f_imm) (.ofNat 5 f_ra))
    | 2 => .ok (.csrs (.ofNat 5 f_rd) (.ofNat 10 f_imm) (.ofNat 5 f_ra))
    | 3 => .ok (.csrc (.ofNat 5 f_rd) (.ofNat 10 f_imm) (.ofNat 5 f_ra))
    | 4 => fixed (f_rd == 0 && f_ra == 0) <| .ok (.svc (.ofNat 10 f_imm))
    | 5 => fixed (f_rd == 0 && f_ra == 0) <| .ok (.brk (.ofNat 10 f_imm))
    | 6 => fixed (f_rd == 0 && f_imm == 0) <| .ok (.exit (.ofNat 5 f_ra))
    | 7 =>
      if f_imm == 0 then fixed (f_rd == 0) <| .ok (.cachectlSynci (.ofNat 5 f_ra)) else
      if f_imm == 1 then fixed (f_rd == 0) <| .ok (.cachectlWb (.ofNat 5 f_ra)) else
      if f_imm == 2 then fixed (f_rd == 0) <| .ok (.cachectlWbinv (.ofNat 5 f_ra)) else
      if f_imm == 3 then fixed (f_rd == 0) <| .ok (.cachectlPf1 (.ofNat 5 f_ra)) else
      if f_imm == 4 then fixed (f_rd == 0) <| .ok (.cachectlPf2 (.ofNat 5 f_ra)) else
      if f_imm == 5 then fixed (f_rd == 0) <| .ok (.cachectlZero (.ofNat 5 f_ra)) else
      .error .reservedFunction
    | 8 => fixed (f_rd == 0 && f_ra == 0 && f_imm == 0) <| .ok (.eret)
    | 9 => (match unpack [2, 8] f_imm with | [f_imm_0, f_imm_1] => fixed (f_rd == 0 && f_imm_1 == 0) <| .ok (.tlbinv (.ofNat 2 f_imm_0) (.ofNat 5 f_ra)) | _ => .error .nonzeroField)
    | 10 =>
      if f_imm == 0 then fixed (f_rd == 0) <| .ok (.ctxResumeRetry (.ofNat 5 f_ra)) else
      if f_imm == 1 then fixed (f_rd == 0) <| .ok (.ctxResumeSkip (.ofNat 5 f_ra)) else
      .error .reservedFunction
    | 11 => fixed (f_rd == 0 && f_imm == 0) <| .ok (.ctxSave (.ofNat 5 f_ra))
    | _ => .error .reservedFunction
  | _ => .error .nonzeroField

/-- Major 0x11: FENCE (R62). -/
def decMajor11 (n : Nat) : Raw :=
  match unpack [2, 6, 8, 8, 3, 5] n with
  | [_, _, f_pred, f_succ, f_scope, f_z] => fixed (f_z == 0) <| withScope f_scope fun s_scope => .ok (.fence (.ofNat 8 f_pred) (.ofNat 8 f_succ) s_scope)
  | _ => .error .nonzeroField

/-- Major 0x12: AMO_ADD, AMO_AND, AMO_OR, AMO_XOR, AMO_MIN, AMO_MAX, AMO_MINU, AMO_MAXU, AMO_SWAP, AMO_CAS (R62). -/
def decMajor12 (n : Nat) : Raw :=
  match unpack [2, 6, 5, 5, 5, 4, 2, 3] n with
  | [_, _, f_rd, f_rb, f_ra, f_fn, f_ord, f_scope] =>
    match f_fn with
    | 0 => withScope f_scope fun s_scope => .ok (.amoAdd (.ofNat 5 f_rd) (.ofNat 5 f_ra) (.ofNat 5 f_rb) (.ofCode f_ord) s_scope)
    | 1 => withScope f_scope fun s_scope => .ok (.amoAnd (.ofNat 5 f_rd) (.ofNat 5 f_ra) (.ofNat 5 f_rb) (.ofCode f_ord) s_scope)
    | 2 => withScope f_scope fun s_scope => .ok (.amoOr (.ofNat 5 f_rd) (.ofNat 5 f_ra) (.ofNat 5 f_rb) (.ofCode f_ord) s_scope)
    | 3 => withScope f_scope fun s_scope => .ok (.amoXor (.ofNat 5 f_rd) (.ofNat 5 f_ra) (.ofNat 5 f_rb) (.ofCode f_ord) s_scope)
    | 4 => withScope f_scope fun s_scope => .ok (.amoMin (.ofNat 5 f_rd) (.ofNat 5 f_ra) (.ofNat 5 f_rb) (.ofCode f_ord) s_scope)
    | 5 => withScope f_scope fun s_scope => .ok (.amoMax (.ofNat 5 f_rd) (.ofNat 5 f_ra) (.ofNat 5 f_rb) (.ofCode f_ord) s_scope)
    | 6 => withScope f_scope fun s_scope => .ok (.amoMinu (.ofNat 5 f_rd) (.ofNat 5 f_ra) (.ofNat 5 f_rb) (.ofCode f_ord) s_scope)
    | 7 => withScope f_scope fun s_scope => .ok (.amoMaxu (.ofNat 5 f_rd) (.ofNat 5 f_ra) (.ofNat 5 f_rb) (.ofCode f_ord) s_scope)
    | 8 => withScope f_scope fun s_scope => .ok (.amoSwap (.ofNat 5 f_rd) (.ofNat 5 f_ra) (.ofNat 5 f_rb) (.ofCode f_ord) s_scope)
    | 9 => withScope f_scope fun s_scope => .ok (.amoCas (.ofNat 5 f_rd) (.ofNat 5 f_ra) (.ofNat 5 f_rb) (.ofCode f_ord) s_scope)
    | _ => .error .reservedFunction
  | _ => .error .nonzeroField

/-- Major 0x13: BAR_INIT, BAR_ARV, BAR_WAIT, BAR_ARVWAIT (R62). -/
def decMajor13 (n : Nat) : Raw :=
  match unpack [2, 6, 5, 5, 5, 2, 3, 4] n with
  | [_, _, f_rd, f_rb, f_ra, f_fn, f_scope, f_z] =>
    match f_fn with
    | 0 => fixed (f_rd == 0 && f_z == 0) <| withScope f_scope fun s_scope => .ok (.barInit (.ofNat 5 f_rb) (.ofNat 5 f_ra) s_scope)
    | 1 => fixed (f_ra == 0 && f_z == 0) <| withScope f_scope fun s_scope => .ok (.barArv (.ofNat 5 f_rd) (.ofNat 5 f_rb) s_scope)
    | 2 => fixed (f_rd == 0 && f_z == 0) <| withScope f_scope fun s_scope => .ok (.barWait (.ofNat 5 f_rb) (.ofNat 5 f_ra) s_scope)
    | 3 => fixed (f_ra == 0 && f_z == 0) <| withScope f_scope fun s_scope => .ok (.barArvwait (.ofNat 5 f_rd) (.ofNat 5 f_rb) s_scope)
    | _ => .error .reservedFunction
  | _ => .error .nonzeroField

/-- Major 0x14: TKWAIT, TKTRIG, TASK_SPAWN (R62). -/
def decMajor14 (n : Nat) : Raw :=
  match unpack [2, 6, 5, 5, 5, 9] n with
  | [_, _, f_rd, f_ra, f_rb, f_fn] =>
    match f_fn with
    | 0 => fixed (f_rd == 0 && f_ra == 0 && f_rb == 0) <| .ok (.tkwait)
    | 1 => fixed (f_rd == 0 && f_ra == 0 && f_rb == 0) <| .ok (.tktrig)
    | 2 => fixed (f_rb == 0) <| .ok (.taskSpawn (.ofNat 5 f_rd) (.ofNat 5 f_ra))
    | _ => .error .reservedFunction
  | _ => .error .nonzeroField

/-- Major 0x18: VCFG, VLREQ, VTAGR, VDIM, SHP_LD (R62). -/
def decMajor18 (n : Nat) : Raw :=
  match unpack [2, 6, 21, 3] n with
  | [_, _, f_body, f_fn] =>
    match f_fn with
    | 0 => (match unpack [6, 6, 3, 2, 4] f_body with | [f_body_0, f_body_1, f_body_2, f_body_3, f_body_4] => fixed (f_body_4 == 0) <| withTag f_body_1 fun t_tag => .ok (.vcfg (.ofNat 6 f_body_0) t_tag (.ofNat 3 f_body_2) (.ofNat 2 f_body_3)) | _ => .error .nonzeroField)
    | 1 => (match unpack [5, 5, 6, 2, 1, 1, 1] f_body with | [f_body_0, f_body_1, f_body_2, f_body_3, f_body_4, f_body_5, f_body_6] => fixed (f_body_6 == 0) <| withTag f_body_2 fun t_tag => .ok (.vlreq (.ofNat 5 f_body_0) (.ofNat 5 f_body_1) t_tag (.ofNat 2 f_body_3) (.ofNat 1 f_body_4) (.ofNat 1 f_body_5)) | _ => .error .nonzeroField)
    | 2 => (match unpack [5, 6, 10] f_body with | [f_body_0, f_body_1, f_body_2] => fixed (f_body_2 == 0) <| .ok (.vtagr (.ofNat 5 f_body_0) (.ofNat 6 f_body_1)) | _ => .error .nonzeroField)
    | 3 => (match unpack [3, 2, 5, 5, 6] f_body with | [f_body_0, f_body_1, f_body_2, f_body_3, f_body_4] => fixed (f_body_1 == 0 && f_body_4 == 0) <| .ok (.vdim (.ofNat 3 f_body_0) (.ofNat 5 f_body_2) (.ofNat 5 f_body_3)) | _ => .error .nonzeroField)
    | 4 => (match unpack [4, 1, 5, 11] f_body with | [f_body_0, f_body_1, f_body_2, f_body_3] => fixed (f_body_1 == 0 && f_body_3 == 0) <| .ok (.shpLd (.ofNat 4 f_body_0) (.ofNat 5 f_body_2)) | _ => .error .nonzeroField)
    | _ => .error .reservedFunction
  | _ => .error .nonzeroField

/-- Major 0x19: VLD (R62). -/
def decMajor19 (n : Nat) : Raw :=
  match unpack [2, 6, 6, 5, 3, 2, 2, 3, 3] n with
  | [_, _, f_vd, f_xb, f_mode, f_mask, f_ord, f_scope, f_evict] => withScope f_scope fun s_scope => .ok (.vld (.ofNat 6 f_vd) (.ofNat 5 f_xb) (.ofNat 3 f_mode) (.ofNat 2 f_mask) (.ofCode f_ord) s_scope (.ofNat 3 f_evict))
  | _ => .error .nonzeroField

/-- Major 0x1A: VST (R62). -/
def decMajor1A (n : Nat) : Raw :=
  match unpack [2, 6, 6, 5, 3, 2, 2, 3, 3] n with
  | [_, _, f_vd, f_xb, f_mode, f_mask, f_ord, f_scope, f_evict] => withScope f_scope fun s_scope => .ok (.vst (.ofNat 6 f_vd) (.ofNat 5 f_xb) (.ofNat 3 f_mode) (.ofNat 2 f_mask) (.ofCode f_ord) s_scope (.ofNat 3 f_evict))
  | _ => .error .nonzeroField

/-- Major 0x1B: VLDC (R62). -/
def decMajor1B (n : Nat) : Raw :=
  match unpack [2, 6, 6, 5, 3, 2, 2, 3, 3] n with
  | [_, _, f_vd, f_xb, f_mode, f_mask, f_ord, f_scope, f_evict] => withScope f_scope fun s_scope => .ok (.vldc (.ofNat 6 f_vd) (.ofNat 5 f_xb) (.ofNat 3 f_mode) (.ofNat 2 f_mask) (.ofCode f_ord) s_scope (.ofNat 3 f_evict))
  | _ => .error .nonzeroField

/-- Major 0x1C: VSPILL, VFILL (R62). -/
def decMajor1C (n : Nat) : Raw :=
  match unpack [2, 6, 6, 5, 1, 12] n with
  | [_, _, f_vd, f_xb, f_fn, f_imm] =>
    match f_fn with
    | 0 => .ok (.vspill (.ofNat 6 f_vd) (.ofNat 5 f_xb) (.ofNat 12 f_imm))
    | 1 => .ok (.vfill (.ofNat 6 f_vd) (.ofNat 5 f_xb) (.ofNat 12 f_imm))
    | _ => .error .reservedFunction
  | _ => .error .nonzeroField

/-- Major 0x20: VADD, VSUB, VMUL, VMIN, VMAX, VABS, VNEG, VFMA, VFMS, VFNMA, VDIV, VSQRT, VAND, VOR, VXOR, VNOT (R62). -/
def decMajor20 (n : Nat) : Raw :=
  match unpack [2, 6, 6, 6, 6, 2, 4] n with
  | [_, _, f_vd, f_va, f_vb, f_mask, f_fn] =>
    match f_fn with
    | 0 => .ok (.vadd (.ofNat 6 f_vd) (.ofNat 6 f_va) (.ofNat 6 f_vb) (.ofNat 2 f_mask))
    | 1 => .ok (.vsub (.ofNat 6 f_vd) (.ofNat 6 f_va) (.ofNat 6 f_vb) (.ofNat 2 f_mask))
    | 2 => .ok (.vmul (.ofNat 6 f_vd) (.ofNat 6 f_va) (.ofNat 6 f_vb) (.ofNat 2 f_mask))
    | 3 => .ok (.vmin (.ofNat 6 f_vd) (.ofNat 6 f_va) (.ofNat 6 f_vb) (.ofNat 2 f_mask))
    | 4 => .ok (.vmax (.ofNat 6 f_vd) (.ofNat 6 f_va) (.ofNat 6 f_vb) (.ofNat 2 f_mask))
    | 5 => fixed (f_vb == 0) <| .ok (.vabs (.ofNat 6 f_vd) (.ofNat 6 f_va) (.ofNat 2 f_mask))
    | 6 => fixed (f_vb == 0) <| .ok (.vneg (.ofNat 6 f_vd) (.ofNat 6 f_va) (.ofNat 2 f_mask))
    | 7 => .ok (.vfma (.ofNat 6 f_vd) (.ofNat 6 f_va) (.ofNat 6 f_vb) (.ofNat 2 f_mask))
    | 8 => .ok (.vfms (.ofNat 6 f_vd) (.ofNat 6 f_va) (.ofNat 6 f_vb) (.ofNat 2 f_mask))
    | 9 => .ok (.vfnma (.ofNat 6 f_vd) (.ofNat 6 f_va) (.ofNat 6 f_vb) (.ofNat 2 f_mask))
    | 10 => .ok (.vdiv (.ofNat 6 f_vd) (.ofNat 6 f_va) (.ofNat 6 f_vb) (.ofNat 2 f_mask))
    | 11 => fixed (f_vb == 0) <| .ok (.vsqrt (.ofNat 6 f_vd) (.ofNat 6 f_va) (.ofNat 2 f_mask))
    | 12 => .ok (.vand (.ofNat 6 f_vd) (.ofNat 6 f_va) (.ofNat 6 f_vb) (.ofNat 2 f_mask))
    | 13 => .ok (.vor (.ofNat 6 f_vd) (.ofNat 6 f_va) (.ofNat 6 f_vb) (.ofNat 2 f_mask))
    | 14 => .ok (.vxor (.ofNat 6 f_vd) (.ofNat 6 f_va) (.ofNat 6 f_vb) (.ofNat 2 f_mask))
    | 15 => fixed (f_vb == 0) <| .ok (.vnot (.ofNat 6 f_vd) (.ofNat 6 f_va) (.ofNat 2 f_mask))
    | _ => .error .reservedFunction
  | _ => .error .nonzeroField

/-- Major 0x21: VSLL, VSRL, VSRA, VMULH, VMULR, VADDR, VRCPS, VRSQS, VCMP_EQ, VCMP_LT, VCMP_LE, VCVT, VWIDEN, VNARROW (R62). -/
def decMajor21 (n : Nat) : Raw :=
  match unpack [2, 6, 6, 6, 6, 2, 4] n with
  | [_, _, f_vd, f_va, f_vb, f_mask, f_fn] =>
    match f_fn with
    | 0 => .ok (.vsll (.ofNat 6 f_vd) (.ofNat 6 f_va) (.ofNat 6 f_vb) (.ofNat 2 f_mask))
    | 1 => .ok (.vsrl (.ofNat 6 f_vd) (.ofNat 6 f_va) (.ofNat 6 f_vb) (.ofNat 2 f_mask))
    | 2 => .ok (.vsra (.ofNat 6 f_vd) (.ofNat 6 f_va) (.ofNat 6 f_vb) (.ofNat 2 f_mask))
    | 3 => .ok (.vmulh (.ofNat 6 f_vd) (.ofNat 6 f_va) (.ofNat 6 f_vb) (.ofNat 2 f_mask))
    | 4 => .ok (.vmulr (.ofNat 6 f_vd) (.ofNat 6 f_va) (.ofNat 6 f_vb) (.ofNat 2 f_mask))
    | 5 => .ok (.vaddr (.ofNat 6 f_vd) (.ofNat 6 f_va) (.ofNat 6 f_vb) (.ofNat 2 f_mask))
    | 6 => .ok (.vrcps (.ofNat 6 f_vd) (.ofNat 6 f_va) (.ofNat 6 f_vb) (.ofNat 2 f_mask))
    | 7 => .ok (.vrsqs (.ofNat 6 f_vd) (.ofNat 6 f_va) (.ofNat 6 f_vb) (.ofNat 2 f_mask))
    | 8 => (match unpack [3, 3] f_vd with | [f_vd_0, f_vd_1] => fixed (f_vd_1 == 0) <| .ok (.vcmpEq (.ofNat 3 f_vd_0) (.ofNat 6 f_va) (.ofNat 6 f_vb) (.ofNat 2 f_mask)) | _ => .error .nonzeroField)
    | 9 => (match unpack [3, 3] f_vd with | [f_vd_0, f_vd_1] => fixed (f_vd_1 == 0) <| .ok (.vcmpLt (.ofNat 3 f_vd_0) (.ofNat 6 f_va) (.ofNat 6 f_vb) (.ofNat 2 f_mask)) | _ => .error .nonzeroField)
    | 10 => (match unpack [3, 3] f_vd with | [f_vd_0, f_vd_1] => fixed (f_vd_1 == 0) <| .ok (.vcmpLe (.ofNat 3 f_vd_0) (.ofNat 6 f_va) (.ofNat 6 f_vb) (.ofNat 2 f_mask)) | _ => .error .nonzeroField)
    | 11 => withTag f_vb fun t_tag => .ok (.vcvt (.ofNat 6 f_vd) (.ofNat 6 f_va) t_tag (.ofNat 2 f_mask))
    | 12 => withTag f_vb fun t_tag => .ok (.vwiden (.ofNat 6 f_vd) (.ofNat 6 f_va) t_tag (.ofNat 2 f_mask))
    | 13 => withTag f_vb fun t_tag => .ok (.vnarrow (.ofNat 6 f_vd) (.ofNat 6 f_va) t_tag (.ofNat 2 f_mask))
    | _ => .error .reservedFunction
  | _ => .error .nonzeroField

/-- Major 0x22: VADD_X, VSUB_X, VSUB_X_REV, VMUL_X, VFMA_X, VMIN_X, VMAX_X, VBCAST, VSLL_X, VSRL_X, VSRA_X, VCMP_EQX, VCMP_LTX, VCMP_LTX_REV, VCMP_LEX, VCMP_LEX_REV, VMV_XV, VMV_VX (R62). -/
def decMajor22 (n : Nat) : Raw :=
  match unpack [2, 6, 6, 6, 5, 1, 2, 4] n with
  | [_, _, f_vd, f_va, f_xb, f_var, f_mask, f_fn] =>
    match f_fn with
    | 0 =>
      if f_var == 0 then .ok (.vaddX (.ofNat 6 f_vd) (.ofNat 6 f_va) (.ofNat 5 f_xb) (.ofNat 2 f_mask)) else
      .error .reservedFunction
    | 1 =>
      if f_var == 0 then .ok (.vsubX (.ofNat 6 f_vd) (.ofNat 6 f_va) (.ofNat 5 f_xb) (.ofNat 2 f_mask)) else
      if f_var == 1 then .ok (.vsubXRev (.ofNat 6 f_vd) (.ofNat 6 f_va) (.ofNat 5 f_xb) (.ofNat 2 f_mask)) else
      .error .reservedFunction
    | 2 =>
      if f_var == 0 then .ok (.vmulX (.ofNat 6 f_vd) (.ofNat 6 f_va) (.ofNat 5 f_xb) (.ofNat 2 f_mask)) else
      .error .reservedFunction
    | 3 =>
      if f_var == 0 then .ok (.vfmaX (.ofNat 6 f_vd) (.ofNat 6 f_va) (.ofNat 5 f_xb) (.ofNat 2 f_mask)) else
      .error .reservedFunction
    | 4 =>
      if f_var == 0 then .ok (.vminX (.ofNat 6 f_vd) (.ofNat 6 f_va) (.ofNat 5 f_xb) (.ofNat 2 f_mask)) else
      .error .reservedFunction
    | 5 =>
      if f_var == 0 then .ok (.vmaxX (.ofNat 6 f_vd) (.ofNat 6 f_va) (.ofNat 5 f_xb) (.ofNat 2 f_mask)) else
      .error .reservedFunction
    | 6 =>
      if f_var == 0 then fixed (f_va == 0) <| .ok (.vbcast (.ofNat 6 f_vd) (.ofNat 5 f_xb) (.ofNat 2 f_mask)) else
      .error .reservedFunction
    | 7 =>
      if f_var == 0 then .ok (.vsllX (.ofNat 6 f_vd) (.ofNat 6 f_va) (.ofNat 5 f_xb) (.ofNat 2 f_mask)) else
      .error .reservedFunction
    | 8 =>
      if f_var == 0 then .ok (.vsrlX (.ofNat 6 f_vd) (.ofNat 6 f_va) (.ofNat 5 f_xb) (.ofNat 2 f_mask)) else
      .error .reservedFunction
    | 9 =>
      if f_var == 0 then .ok (.vsraX (.ofNat 6 f_vd) (.ofNat 6 f_va) (.ofNat 5 f_xb) (.ofNat 2 f_mask)) else
      .error .reservedFunction
    | 10 =>
      if f_var == 0 then (match unpack [3, 3] f_vd with | [f_vd_0, f_vd_1] => fixed (f_vd_1 == 0) <| .ok (.vcmpEqx (.ofNat 3 f_vd_0) (.ofNat 6 f_va) (.ofNat 5 f_xb) (.ofNat 2 f_mask)) | _ => .error .nonzeroField) else
      .error .reservedFunction
    | 11 =>
      if f_var == 0 then (match unpack [3, 3] f_vd with | [f_vd_0, f_vd_1] => fixed (f_vd_1 == 0) <| .ok (.vcmpLtx (.ofNat 3 f_vd_0) (.ofNat 6 f_va) (.ofNat 5 f_xb) (.ofNat 2 f_mask)) | _ => .error .nonzeroField) else
      if f_var == 1 then (match unpack [3, 3] f_vd with | [f_vd_0, f_vd_1] => fixed (f_vd_1 == 0) <| .ok (.vcmpLtxRev (.ofNat 3 f_vd_0) (.ofNat 6 f_va) (.ofNat 5 f_xb) (.ofNat 2 f_mask)) | _ => .error .nonzeroField) else
      .error .reservedFunction
    | 12 =>
      if f_var == 0 then (match unpack [3, 3] f_vd with | [f_vd_0, f_vd_1] => fixed (f_vd_1 == 0) <| .ok (.vcmpLex (.ofNat 3 f_vd_0) (.ofNat 6 f_va) (.ofNat 5 f_xb) (.ofNat 2 f_mask)) | _ => .error .nonzeroField) else
      if f_var == 1 then (match unpack [3, 3] f_vd with | [f_vd_0, f_vd_1] => fixed (f_vd_1 == 0) <| .ok (.vcmpLexRev (.ofNat 3 f_vd_0) (.ofNat 6 f_va) (.ofNat 5 f_xb) (.ofNat 2 f_mask)) | _ => .error .nonzeroField) else
      .error .reservedFunction
    | 13 =>
      if f_var == 0 then (match unpack [5, 1] f_vd with | [f_vd_0, f_vd_1] => fixed (f_mask == 0 && f_vd_1 == 0) <| .ok (.vmvXv (.ofNat 5 f_vd_0) (.ofNat 6 f_va) (.ofNat 5 f_xb)) | _ => .error .nonzeroField) else
      .error .reservedFunction
    | 14 =>
      if f_var == 0 then (match unpack [5, 1] f_va with | [f_va_0, f_va_1] => fixed (f_mask == 0 && f_va_1 == 0) <| .ok (.vmvVx (.ofNat 6 f_vd) (.ofNat 5 f_va_0) (.ofNat 5 f_xb)) | _ => .error .nonzeroField) else
      .error .reservedFunction
    | _ => .error .reservedFunction
  | _ => .error .nonzeroField

/-- Major 0x23: VEXP_FAST, VLOG_FAST, VRCP_FAST, VRSQRT_FAST, VTANH_FAST, VSIGM_FAST, VGELU_FAST, VSILU_FAST, VEXP_ACC, VLOG_ACC, VRCP_ACC, VRSQRT_ACC, VTANH_ACC, VSIGM_ACC, VGELU_ACC, VSILU_ACC (R62). -/
def decMajor23 (n : Nat) : Raw :=
  match unpack [2, 6, 6, 6, 6, 2, 4] n with
  | [_, _, f_vd, f_va, f_vb, f_mask, f_fn] =>
    match f_fn with
    | 0 => fixed (f_vb == 0) <| .ok (.vexpFast (.ofNat 6 f_vd) (.ofNat 6 f_va) (.ofNat 2 f_mask))
    | 1 => fixed (f_vb == 0) <| .ok (.vlogFast (.ofNat 6 f_vd) (.ofNat 6 f_va) (.ofNat 2 f_mask))
    | 2 => fixed (f_vb == 0) <| .ok (.vrcpFast (.ofNat 6 f_vd) (.ofNat 6 f_va) (.ofNat 2 f_mask))
    | 3 => fixed (f_vb == 0) <| .ok (.vrsqrtFast (.ofNat 6 f_vd) (.ofNat 6 f_va) (.ofNat 2 f_mask))
    | 4 => fixed (f_vb == 0) <| .ok (.vtanhFast (.ofNat 6 f_vd) (.ofNat 6 f_va) (.ofNat 2 f_mask))
    | 5 => fixed (f_vb == 0) <| .ok (.vsigmFast (.ofNat 6 f_vd) (.ofNat 6 f_va) (.ofNat 2 f_mask))
    | 6 => fixed (f_vb == 0) <| .ok (.vgeluFast (.ofNat 6 f_vd) (.ofNat 6 f_va) (.ofNat 2 f_mask))
    | 7 => fixed (f_vb == 0) <| .ok (.vsiluFast (.ofNat 6 f_vd) (.ofNat 6 f_va) (.ofNat 2 f_mask))
    | 8 => fixed (f_vb == 0) <| .ok (.vexpAcc (.ofNat 6 f_vd) (.ofNat 6 f_va) (.ofNat 2 f_mask))
    | 9 => fixed (f_vb == 0) <| .ok (.vlogAcc (.ofNat 6 f_vd) (.ofNat 6 f_va) (.ofNat 2 f_mask))
    | 10 => fixed (f_vb == 0) <| .ok (.vrcpAcc (.ofNat 6 f_vd) (.ofNat 6 f_va) (.ofNat 2 f_mask))
    | 11 => fixed (f_vb == 0) <| .ok (.vrsqrtAcc (.ofNat 6 f_vd) (.ofNat 6 f_va) (.ofNat 2 f_mask))
    | 12 => fixed (f_vb == 0) <| .ok (.vtanhAcc (.ofNat 6 f_vd) (.ofNat 6 f_va) (.ofNat 2 f_mask))
    | 13 => fixed (f_vb == 0) <| .ok (.vsigmAcc (.ofNat 6 f_vd) (.ofNat 6 f_va) (.ofNat 2 f_mask))
    | 14 => fixed (f_vb == 0) <| .ok (.vgeluAcc (.ofNat 6 f_vd) (.ofNat 6 f_va) (.ofNat 2 f_mask))
    | 15 => fixed (f_vb == 0) <| .ok (.vsiluAcc (.ofNat 6 f_vd) (.ofNat 6 f_va) (.ofNat 2 f_mask))
    | _ => .error .reservedFunction
  | _ => .error .nonzeroField

/-- Major 0x24: VREDSUM_ORD, VREDSUM_TREE, VREDMAX, VREDMIN, VREDSUMW, VREDAND, VREDOR, VREDXOR, VPOPC, VFIRST, MAND, MOR, MXOR, MNOT, MANDN, MSET (R62). -/
def decMajor24 (n : Nat) : Raw :=
  match unpack [2, 6, 6, 6, 6, 2, 4] n with
  | [_, _, f_vd, f_va, f_vb, f_mask, f_fn] =>
    match f_fn with
    | 0 => .ok (.vredsumOrd (.ofNat 6 f_vd) (.ofNat 6 f_va) (.ofNat 6 f_vb) (.ofNat 2 f_mask))
    | 1 => .ok (.vredsumTree (.ofNat 6 f_vd) (.ofNat 6 f_va) (.ofNat 6 f_vb) (.ofNat 2 f_mask))
    | 2 => .ok (.vredmax (.ofNat 6 f_vd) (.ofNat 6 f_va) (.ofNat 6 f_vb) (.ofNat 2 f_mask))
    | 3 => .ok (.vredmin (.ofNat 6 f_vd) (.ofNat 6 f_va) (.ofNat 6 f_vb) (.ofNat 2 f_mask))
    | 4 => .ok (.vredsumw (.ofNat 6 f_vd) (.ofNat 6 f_va) (.ofNat 6 f_vb) (.ofNat 2 f_mask))
    | 5 => .ok (.vredand (.ofNat 6 f_vd) (.ofNat 6 f_va) (.ofNat 6 f_vb) (.ofNat 2 f_mask))
    | 6 => .ok (.vredor (.ofNat 6 f_vd) (.ofNat 6 f_va) (.ofNat 6 f_vb) (.ofNat 2 f_mask))
    | 7 => .ok (.vredxor (.ofNat 6 f_vd) (.ofNat 6 f_va) (.ofNat 6 f_vb) (.ofNat 2 f_mask))
    | 8 => (match unpack [5, 1] f_vd with | [f_vd_0, f_vd_1] => (match unpack [3, 3] f_va with | [f_va_0, f_va_1] => fixed (f_vb == 0 && f_vd_1 == 0 && f_va_1 == 0) <| .ok (.vpopc (.ofNat 5 f_vd_0) (.ofNat 3 f_va_0) (.ofNat 2 f_mask)) | _ => .error .nonzeroField) | _ => .error .nonzeroField)
    | 9 => (match unpack [5, 1] f_vd with | [f_vd_0, f_vd_1] => (match unpack [3, 3] f_va with | [f_va_0, f_va_1] => fixed (f_vb == 0 && f_vd_1 == 0 && f_va_1 == 0) <| .ok (.vfirst (.ofNat 5 f_vd_0) (.ofNat 3 f_va_0) (.ofNat 2 f_mask)) | _ => .error .nonzeroField) | _ => .error .nonzeroField)
    | 10 => (match unpack [3, 3] f_vd with | [f_vd_0, f_vd_1] => (match unpack [3, 3] f_va with | [f_va_0, f_va_1] => (match unpack [3, 3] f_vb with | [f_vb_0, f_vb_1] => fixed (f_mask == 0 && f_vd_1 == 0 && f_va_1 == 0 && f_vb_1 == 0) <| .ok (.mand (.ofNat 3 f_vd_0) (.ofNat 3 f_va_0) (.ofNat 3 f_vb_0)) | _ => .error .nonzeroField) | _ => .error .nonzeroField) | _ => .error .nonzeroField)
    | 11 => (match unpack [3, 3] f_vd with | [f_vd_0, f_vd_1] => (match unpack [3, 3] f_va with | [f_va_0, f_va_1] => (match unpack [3, 3] f_vb with | [f_vb_0, f_vb_1] => fixed (f_mask == 0 && f_vd_1 == 0 && f_va_1 == 0 && f_vb_1 == 0) <| .ok (.mor (.ofNat 3 f_vd_0) (.ofNat 3 f_va_0) (.ofNat 3 f_vb_0)) | _ => .error .nonzeroField) | _ => .error .nonzeroField) | _ => .error .nonzeroField)
    | 12 => (match unpack [3, 3] f_vd with | [f_vd_0, f_vd_1] => (match unpack [3, 3] f_va with | [f_va_0, f_va_1] => (match unpack [3, 3] f_vb with | [f_vb_0, f_vb_1] => fixed (f_mask == 0 && f_vd_1 == 0 && f_va_1 == 0 && f_vb_1 == 0) <| .ok (.mxor (.ofNat 3 f_vd_0) (.ofNat 3 f_va_0) (.ofNat 3 f_vb_0)) | _ => .error .nonzeroField) | _ => .error .nonzeroField) | _ => .error .nonzeroField)
    | 13 => (match unpack [3, 3] f_vd with | [f_vd_0, f_vd_1] => (match unpack [3, 3] f_va with | [f_va_0, f_va_1] => fixed (f_vb == 0 && f_mask == 0 && f_vd_1 == 0 && f_va_1 == 0) <| .ok (.mnot (.ofNat 3 f_vd_0) (.ofNat 3 f_va_0)) | _ => .error .nonzeroField) | _ => .error .nonzeroField)
    | 14 => (match unpack [3, 3] f_vd with | [f_vd_0, f_vd_1] => (match unpack [3, 3] f_va with | [f_va_0, f_va_1] => (match unpack [3, 3] f_vb with | [f_vb_0, f_vb_1] => fixed (f_mask == 0 && f_vd_1 == 0 && f_va_1 == 0 && f_vb_1 == 0) <| .ok (.mandn (.ofNat 3 f_vd_0) (.ofNat 3 f_va_0) (.ofNat 3 f_vb_0)) | _ => .error .nonzeroField) | _ => .error .nonzeroField) | _ => .error .nonzeroField)
    | 15 => (match unpack [3, 3] f_vd with | [f_vd_0, f_vd_1] => fixed (f_va == 0 && f_vb == 0 && f_mask == 0 && f_vd_1 == 0) <| .ok (.mset (.ofNat 3 f_vd_0)) | _ => .error .nonzeroField)
    | _ => .error .reservedFunction
  | _ => .error .nonzeroField

/-- Major 0x25: VSLIDEUP, VSLIDEDN, VROT, VPERM, VCOMPRESS, VEXPAND, VZIP, VUNZIP, VTRANS, VMERGE, VMV, VTIDX, VID, VQUANT, VDEQ (R62). -/
def decMajor25 (n : Nat) : Raw :=
  match unpack [2, 6, 6, 6, 6, 2, 4] n with
  | [_, _, f_vd, f_va, f_vb, f_mask, f_fn] =>
    match f_fn with
    | 0 => (match unpack [5, 1] f_vb with | [f_vb_0, f_vb_1] => fixed (f_vb_1 == 0) <| .ok (.vslideup (.ofNat 6 f_vd) (.ofNat 6 f_va) (.ofNat 5 f_vb_0) (.ofNat 2 f_mask)) | _ => .error .nonzeroField)
    | 1 => (match unpack [5, 1] f_vb with | [f_vb_0, f_vb_1] => fixed (f_vb_1 == 0) <| .ok (.vslidedn (.ofNat 6 f_vd) (.ofNat 6 f_va) (.ofNat 5 f_vb_0) (.ofNat 2 f_mask)) | _ => .error .nonzeroField)
    | 2 => (match unpack [5, 1] f_vb with | [f_vb_0, f_vb_1] => fixed (f_vb_1 == 0) <| .ok (.vrot (.ofNat 6 f_vd) (.ofNat 6 f_va) (.ofNat 5 f_vb_0) (.ofNat 2 f_mask)) | _ => .error .nonzeroField)
    | 3 => .ok (.vperm (.ofNat 6 f_vd) (.ofNat 6 f_va) (.ofNat 6 f_vb) (.ofNat 2 f_mask))
    | 4 => fixed (f_vb == 0) <| .ok (.vcompress (.ofNat 6 f_vd) (.ofNat 6 f_va) (.ofNat 2 f_mask))
    | 5 => fixed (f_vb == 0) <| .ok (.vexpand (.ofNat 6 f_vd) (.ofNat 6 f_va) (.ofNat 2 f_mask))
    | 6 => .ok (.vzip (.ofNat 6 f_vd) (.ofNat 6 f_va) (.ofNat 6 f_vb) (.ofNat 2 f_mask))
    | 7 => .ok (.vunzip (.ofNat 6 f_vd) (.ofNat 6 f_va) (.ofNat 6 f_vb) (.ofNat 2 f_mask))
    | 8 => fixed (f_vb == 0) <| .ok (.vtrans (.ofNat 6 f_vd) (.ofNat 6 f_va) (.ofNat 2 f_mask))
    | 9 => .ok (.vmerge (.ofNat 6 f_vd) (.ofNat 6 f_va) (.ofNat 6 f_vb) (.ofNat 2 f_mask))
    | 10 => fixed (f_vb == 0) <| .ok (.vmv (.ofNat 6 f_vd) (.ofNat 6 f_va) (.ofNat 2 f_mask))
    | 11 => (match unpack [4, 2] f_vb with | [f_vb_0, f_vb_1] => fixed (f_mask == 0 && f_vb_1 == 0) <| .ok (.vtidx (.ofNat 6 f_vd) (.ofNat 6 f_va) (.ofNat 4 f_vb_0)) | _ => .error .nonzeroField)
    | 12 => fixed (f_va == 0 && f_vb == 0 && f_mask == 0) <| .ok (.vid (.ofNat 6 f_vd))
    | 13 => withTag f_vb fun t_tag => .ok (.vquant (.ofNat 6 f_vd) (.ofNat 6 f_va) t_tag (.ofNat 2 f_mask))
    | 14 => withTag f_vb fun t_tag => .ok (.vdeq (.ofNat 6 f_vd) (.ofNat 6 f_va) t_tag (.ofNat 2 f_mask))
    | _ => .error .reservedFunction
  | _ => .error .nonzeroField

/-- Major 0x26: VHAAR, VIHAAR, VTHR, VSIG, VDOM (R62). -/
def decMajor26 (n : Nat) : Raw :=
  match unpack [2, 6, 6, 6, 6, 2, 4] n with
  | [_, _, f_vd, f_va, f_vb, f_mask, f_fn] =>
    match f_fn with
    | 0 => (match unpack [3, 3] f_vb with | [f_vb_0, f_vb_1] => fixed (f_vb_1 == 0) <| .ok (.vhaar (.ofNat 6 f_vd) (.ofNat 6 f_va) (.ofNat 3 f_vb_0) (.ofNat 2 f_mask)) | _ => .error .nonzeroField)
    | 1 => fixed (f_vb == 0) <| .ok (.vihaar (.ofNat 6 f_vd) (.ofNat 6 f_va) (.ofNat 2 f_mask))
    | 2 => fixed (f_vb == 0) <| .ok (.vthr (.ofNat 6 f_vd) (.ofNat 6 f_va) (.ofNat 2 f_mask))
    | 3 => (match unpack [3, 3] f_vd with | [f_vd_0, f_vd_1] => fixed (f_vb == 0 && f_vd_1 == 0) <| .ok (.vsig (.ofNat 3 f_vd_0) (.ofNat 6 f_va) (.ofNat 2 f_mask)) | _ => .error .nonzeroField)
    | 4 => (match unpack [5, 1] f_vd with | [f_vd_0, f_vd_1] => fixed (f_vb == 0 && f_mask == 0 && f_vd_1 == 0) <| .ok (.vdom (.ofNat 5 f_vd_0) (.ofNat 6 f_va)) | _ => .error .nonzeroField)
    | _ => .error .reservedFunction
  | _ => .error .nonzeroField

/-- Major 0x27: HBIND, HBUNDLE, HMAJ, HPERM, HSIM, HRAND (R62). -/
def decMajor27 (n : Nat) : Raw :=
  match unpack [2, 6, 6, 6, 6, 2, 4] n with
  | [_, _, f_vd, f_va, f_vb, f_mask, f_fn] =>
    match f_fn with
    | 0 => .ok (.hbind (.ofNat 6 f_vd) (.ofNat 6 f_va) (.ofNat 6 f_vb) (.ofNat 2 f_mask))
    | 1 => fixed (f_vb == 0) <| .ok (.hbundle (.ofNat 6 f_vd) (.ofNat 6 f_va) (.ofNat 2 f_mask))
    | 2 => .ok (.hmaj (.ofNat 6 f_vd) (.ofNat 6 f_va) (.ofNat 6 f_vb) (.ofNat 2 f_mask))
    | 3 => (match unpack [5, 1] f_vb with | [f_vb_0, f_vb_1] => fixed (f_vb_1 == 0) <| .ok (.hperm (.ofNat 6 f_vd) (.ofNat 6 f_va) (.ofNat 5 f_vb_0) (.ofNat 2 f_mask)) | _ => .error .nonzeroField)
    | 4 => (match unpack [5, 1] f_vd with | [f_vd_0, f_vd_1] => fixed (f_vd_1 == 0) <| .ok (.hsim (.ofNat 5 f_vd_0) (.ofNat 6 f_va) (.ofNat 6 f_vb) (.ofNat 2 f_mask)) | _ => .error .nonzeroField)
    | 5 => (match unpack [5, 1] f_vb with | [f_vb_0, f_vb_1] => fixed (f_va == 0 && f_vb_1 == 0) <| .ok (.hrand (.ofNat 6 f_vd) (.ofNat 5 f_vb_0) (.ofNat 2 f_mask)) | _ => .error .nonzeroField)
    | _ => .error .reservedFunction
  | _ => .error .nonzeroField

/-- Class 0x00: TCLR, BPACC, BPSUB, MRD, MCOL, MWR, MLD, MST, MWAIT (R66). -/
def decClass00 (n : Nat) : Raw :=
  match unpack [3, 5, 4, 3, 6, 6, 2, 2, 4, 1, 16, 10, 2] n with
  | [_, _, f_fn, f_tile, f_va, f_vb, f_am, f_bm, f_slot, f_set, f_wait, f_exp, f_z] =>
    match f_fn with
    | 0 => fixed (f_va == 0 && f_vb == 0 && f_am == 0 && f_bm == 0 && f_z == 0) <| .ok (.tclr (.ofNat 3 f_tile) (.ofNat 10 f_exp) (.ofNat 4 f_slot) (.ofNat 1 f_set) (.ofNat 16 f_wait))
    | 1 => fixed (f_exp == 0 && f_z == 0) <| .ok (.bpacc (.ofNat 3 f_tile) (.ofNat 6 f_va) (.ofNat 6 f_vb) (.ofNat 2 f_am) (.ofNat 2 f_bm) (.ofNat 4 f_slot) (.ofNat 1 f_set) (.ofNat 16 f_wait))
    | 2 => fixed (f_exp == 0 && f_z == 0) <| .ok (.bpsub (.ofNat 3 f_tile) (.ofNat 6 f_va) (.ofNat 6 f_vb) (.ofNat 2 f_am) (.ofNat 2 f_bm) (.ofNat 4 f_slot) (.ofNat 1 f_set) (.ofNat 16 f_wait))
    | 3 => (match unpack [5, 1] f_vb with | [f_vb_0, f_vb_1] => fixed (f_am == 0 && f_bm == 0 && f_exp == 0 && f_z == 0 && f_vb_1 == 0) <| .ok (.mrd (.ofNat 6 f_va) (.ofNat 3 f_tile) (.ofNat 5 f_vb_0) (.ofNat 4 f_slot) (.ofNat 1 f_set) (.ofNat 16 f_wait)) | _ => .error .nonzeroField)
    | 4 => (match unpack [5, 1] f_vb with | [f_vb_0, f_vb_1] => fixed (f_am == 0 && f_bm == 0 && f_exp == 0 && f_z == 0 && f_vb_1 == 0) <| .ok (.mcol (.ofNat 6 f_va) (.ofNat 3 f_tile) (.ofNat 5 f_vb_0) (.ofNat 4 f_slot) (.ofNat 1 f_set) (.ofNat 16 f_wait)) | _ => .error .nonzeroField)
    | 5 => (match unpack [5, 1] f_vb with | [f_vb_0, f_vb_1] => fixed (f_am == 0 && f_bm == 0 && f_exp == 0 && f_z == 0 && f_vb_1 == 0) <| .ok (.mwr (.ofNat 3 f_tile) (.ofNat 6 f_va) (.ofNat 5 f_vb_0) (.ofNat 4 f_slot) (.ofNat 1 f_set) (.ofNat 16 f_wait)) | _ => .error .nonzeroField)
    | 6 => (match unpack [5, 1] f_va with | [f_va_0, f_va_1] => (match unpack [5, 1] f_vb with | [f_vb_0, f_vb_1] => fixed (f_am == 0 && f_bm == 0 && f_exp == 0 && f_z == 0 && f_va_1 == 0 && f_vb_1 == 0) <| .ok (.mld (.ofNat 3 f_tile) (.ofNat 5 f_va_0) (.ofNat 5 f_vb_0) (.ofNat 4 f_slot) (.ofNat 1 f_set) (.ofNat 16 f_wait)) | _ => .error .nonzeroField) | _ => .error .nonzeroField)
    | 7 => (match unpack [5, 1] f_va with | [f_va_0, f_va_1] => (match unpack [5, 1] f_vb with | [f_vb_0, f_vb_1] => fixed (f_am == 0 && f_bm == 0 && f_exp == 0 && f_z == 0 && f_va_1 == 0 && f_vb_1 == 0) <| .ok (.mst (.ofNat 3 f_tile) (.ofNat 5 f_va_0) (.ofNat 5 f_vb_0) (.ofNat 4 f_slot) (.ofNat 1 f_set) (.ofNat 16 f_wait)) | _ => .error .nonzeroField) | _ => .error .nonzeroField)
    | 8 => fixed (f_tile == 0 && f_va == 0 && f_vb == 0 && f_am == 0 && f_bm == 0 && f_set == 0 && f_exp == 0 && f_z == 0) <| .ok (.mwait (.ofNat 4 f_slot) (.ofNat 16 f_wait))
    | _ => .error .reservedFunction
  | _ => .error .nonzeroField

/-- Class 0x01: VLDX, VSTX, VAMOADD (R66). -/
def decClass01 (n : Nat) : Raw :=
  match unpack [3, 5, 2, 6, 6, 5, 2, 2, 3, 3, 2, 25] n with
  | [_, _, f_fn, f_vd, f_vi, f_xb, f_mask, f_ord, f_scope, f_evict, f_scale, f_z] =>
    match f_fn with
    | 0 => fixed (f_z == 0) <| withScope f_scope fun s_scope => .ok (.vldx (.ofNat 6 f_vd) (.ofNat 6 f_vi) (.ofNat 5 f_xb) (.ofNat 2 f_scale) (.ofNat 2 f_mask) (.ofCode f_ord) s_scope (.ofNat 3 f_evict))
    | 1 => fixed (f_z == 0) <| withScope f_scope fun s_scope => .ok (.vstx (.ofNat 6 f_vd) (.ofNat 6 f_vi) (.ofNat 5 f_xb) (.ofNat 2 f_scale) (.ofNat 2 f_mask) (.ofCode f_ord) s_scope (.ofNat 3 f_evict))
    | 2 => fixed (f_z == 0) <| withScope f_scope fun s_scope => .ok (.vamoadd (.ofNat 6 f_vd) (.ofNat 6 f_vi) (.ofNat 5 f_xb) (.ofNat 2 f_scale) (.ofNat 2 f_mask) (.ofCode f_ord) s_scope (.ofNat 3 f_evict))
    | _ => .error .reservedFunction
  | _ => .error .nonzeroField

/-- Class 0x02: VSTW (R66). -/
def decClass02 (n : Nat) : Raw :=
  match unpack [3, 5, 6, 5, 2, 3, 2, 3, 3, 1, 31] n with
  | [_, _, f_vs, f_xb, f_mask, f_lev, f_ord, f_scope, f_evict, f_thr, f_z] => fixed (f_z == 0) <| withScope f_scope fun s_scope => .ok (.vstw (.ofNat 6 f_vs) (.ofNat 5 f_xb) (.ofNat 3 f_lev) (.ofNat 1 f_thr) (.ofNat 2 f_mask) (.ofCode f_ord) s_scope (.ofNat 3 f_evict))
  | _ => .error .nonzeroField

/-- Class 0x03: CPY, CPYZ, CMASK (R66). -/
def decClass03 (n : Nat) : Raw :=
  match unpack [3, 5, 2, 5, 5, 5, 2, 3, 2, 2, 3, 3, 1, 5, 18] n with
  | [_, _, f_fn, f_xd, f_xs, f_xn, f_cm, f_chunk, f_chan, f_ord, f_scope, f_evict, f_bar, f_xbar, f_z] =>
    match f_fn with
    | 0 => fixed (f_z == 0) <| withScope f_scope fun s_scope => .ok (.cpy (.ofNat 5 f_xd) (.ofNat 5 f_xs) (.ofNat 5 f_xn) (.ofNat 3 f_chunk) (.ofNat 2 f_chan) (.ofNat 2 f_cm) (.ofNat 1 f_bar) (.ofNat 5 f_xbar) (.ofCode f_ord) s_scope (.ofNat 3 f_evict))
    | 1 => fixed (f_xs == 0 && f_z == 0) <| withScope f_scope fun s_scope => .ok (.cpyz (.ofNat 5 f_xd) (.ofNat 5 f_xn) (.ofNat 3 f_chunk) (.ofNat 2 f_chan) (.ofNat 2 f_cm) (.ofNat 1 f_bar) (.ofNat 5 f_xbar) (.ofCode f_ord) s_scope (.ofNat 3 f_evict))
    | 2 => fixed (f_xd == 0 && f_xs == 0 && f_xn == 0 && f_chunk == 0 && f_chan == 0 && f_ord == 0 && f_scope == 0 && f_evict == 0 && f_bar == 0 && f_xbar == 0 && f_z == 0) <| .ok (.cmask (.ofNat 2 f_cm))
    | _ => .error .reservedFunction
  | _ => .error .nonzeroField

/-- Class 0x04: COLL_RED, COLL_GAT, COLL_SCT, COLL_BC, COLL_A2A, GSET (R66). -/
def decClass04 (n : Nat) : Raw :=
  match unpack [3, 5, 3, 3, 6, 6, 4, 5, 2, 27] n with
  | [_, _, f_fn, f_gk, f_vd, f_va, f_op, f_xroot, f_mask, f_z] =>
    match f_fn with
    | 0 => fixed (f_xroot == 0 && f_z == 0) <| .ok (.collRed (.ofNat 6 f_vd) (.ofNat 6 f_va) (.ofNat 3 f_gk) (.ofNat 4 f_op) (.ofNat 2 f_mask))
    | 1 => fixed (f_op == 0 && f_xroot == 0 && f_z == 0) <| .ok (.collGat (.ofNat 6 f_vd) (.ofNat 6 f_va) (.ofNat 3 f_gk) (.ofNat 2 f_mask))
    | 2 => fixed (f_op == 0 && f_z == 0) <| .ok (.collSct (.ofNat 6 f_vd) (.ofNat 6 f_va) (.ofNat 3 f_gk) (.ofNat 5 f_xroot) (.ofNat 2 f_mask))
    | 3 => fixed (f_op == 0 && f_z == 0) <| .ok (.collBc (.ofNat 6 f_vd) (.ofNat 6 f_va) (.ofNat 3 f_gk) (.ofNat 5 f_xroot) (.ofNat 2 f_mask))
    | 4 => fixed (f_op == 0 && f_xroot == 0 && f_z == 0) <| .ok (.collA2a (.ofNat 6 f_vd) (.ofNat 6 f_va) (.ofNat 3 f_gk) (.ofNat 2 f_mask))
    | 5 => (match unpack [5, 1] f_vd with | [f_vd_0, f_vd_1] => fixed (f_va == 0 && f_op == 0 && f_xroot == 0 && f_mask == 0 && f_z == 0 && f_vd_1 == 0) <| .ok (.gset (.ofNat 3 f_gk) (.ofNat 5 f_vd_0)) | _ => .error .nonzeroField)
    | _ => .error .reservedFunction
  | _ => .error .nonzeroField

/-- Class 0x05: LI, LI_HI (R66). -/
def decClass05 (n : Nat) : Raw :=
  match unpack [3, 5, 5, 1, 50] n with
  | [_, _, f_rd, f_fn, f_imm] =>
    match f_fn with
    | 0 => .ok (.li (.ofNat 5 f_rd) (.ofNat 50 f_imm))
    | 1 => .ok (.liHi (.ofNat 5 f_rd) (.ofNat 50 f_imm))
    | _ => .error .reservedFunction
  | _ => .error .nonzeroField

/-- Class 0x06: HCLEAN, HFACT (R66). -/
def decClass06 (n : Nat) : Raw :=
  match unpack [3, 5, 1, 1, 5, 6, 5, 5, 33] n with
  | [_, _, f_fn, f_z, f_xd, f_va, f_xb, f_xn, f_z2] =>
    match f_fn with
    | 0 => fixed (f_z == 0 && f_z2 == 0) <| .ok (.hclean (.ofNat 5 f_xd) (.ofNat 6 f_va) (.ofNat 5 f_xb) (.ofNat 5 f_xn))
    | 1 => fixed (f_z == 0 && f_z2 == 0) <| .ok (.hfact (.ofNat 5 f_xd) (.ofNat 6 f_va) (.ofNat 5 f_xb) (.ofNat 5 f_xn))
    | _ => .error .reservedFunction
  | _ => .error .nonzeroField

/-- A 16-bit instruction (R67). -/
noncomputable def decHalf (n : Nat) : Raw :=
  match unpack [1, 4, 11] n with
  | [_, f_mj, f_rest] =>
    match f_mj with
    | 0 => (match unpack [5, 6] f_rest with | [f_rest_0, f_rest_1] => .ok (.hAddi (.ofNat 5 f_rest_0) (.ofNat 6 f_rest_1)) | _ => .error .nonzeroField)
    | 1 => (match unpack [5, 6] f_rest with | [f_rest_0, f_rest_1] => .ok (.hLi (.ofNat 5 f_rest_0) (.ofNat 6 f_rest_1)) | _ => .error .nonzeroField)
    | 2 => (match unpack [5, 5, 1] f_rest with | [f_rest_0, f_rest_1, f_rest_2] => fixed (f_rest_2 == 0) <| .ok (.hMv (.ofNat 5 f_rest_0) (.ofNat 5 f_rest_1)) | _ => .error .nonzeroField)
    | 3 => (match unpack [5, 5, 1] f_rest with | [f_rest_0, f_rest_1, f_rest_2] => fixed (f_rest_2 == 0) <| .ok (.hAdd (.ofNat 5 f_rest_0) (.ofNat 5 f_rest_1)) | _ => .error .nonzeroField)
    | 4 => (match unpack [5, 5, 1] f_rest with | [f_rest_0, f_rest_1, f_rest_2] => fixed (f_rest_2 == 0) <| .ok (.hSub (.ofNat 5 f_rest_0) (.ofNat 5 f_rest_1)) | _ => .error .nonzeroField)
    | 5 => (match unpack [5, 5, 1] f_rest with | [f_rest_0, f_rest_1, f_rest_2] => .ok (.hLdD (.ofNat 5 f_rest_0) (.ofNat 5 f_rest_1) (.ofNat 1 f_rest_2)) | _ => .error .nonzeroField)
    | 6 => (match unpack [5, 5, 1] f_rest with | [f_rest_0, f_rest_1, f_rest_2] => .ok (.hStD (.ofNat 5 f_rest_0) (.ofNat 5 f_rest_1) (.ofNat 1 f_rest_2)) | _ => .error .nonzeroField)
    | 7 => (match unpack [5, 5, 1] f_rest with | [f_rest_0, f_rest_1, f_rest_2] => .ok (.hLdW (.ofNat 5 f_rest_0) (.ofNat 5 f_rest_1) (.ofNat 1 f_rest_2)) | _ => .error .nonzeroField)
    | 8 => (match unpack [5, 5, 1] f_rest with | [f_rest_0, f_rest_1, f_rest_2] => .ok (.hStW (.ofNat 5 f_rest_0) (.ofNat 5 f_rest_1) (.ofNat 1 f_rest_2)) | _ => .error .nonzeroField)
    | 9 => (match unpack [5, 6] f_rest with | [f_rest_0, f_rest_1] => .ok (.hBeqz (.ofNat 5 f_rest_0) (.ofNat 6 f_rest_1)) | _ => .error .nonzeroField)
    | 10 => (match unpack [5, 6] f_rest with | [f_rest_0, f_rest_1] => .ok (.hBnez (.ofNat 5 f_rest_0) (.ofNat 6 f_rest_1)) | _ => .error .nonzeroField)
    | 11 => (match unpack [11] f_rest with | [f_rest_0] => .ok (.hJ (.ofNat 11 f_rest_0)) | _ => .error .nonzeroField)
    | 12 => (match unpack [11] f_rest with | [f_rest_0] => .ok (.hLoopnext (.ofNat 11 f_rest_0)) | _ => .error .nonzeroField)
    | 13 => (match unpack [5, 5, 1] f_rest with | [f_rest_0, f_rest_1, f_rest_2] => fixed (f_rest_2 == 0) <| .ok (.hVadd (.ofNat 5 f_rest_0) (.ofNat 5 f_rest_1)) | _ => .error .nonzeroField)
    | 14 => (match unpack [11] f_rest with | [f_rest_0] => fixed (f_rest_0 == 0) <| .ok (.hNop) | _ => .error .nonzeroField)
    | 15 => (match unpack [10, 1] f_rest with | [f_rest_0, f_rest_1] => fixed (f_rest_1 == 0) <| .ok (.hBrk (.ofNat 10 f_rest_0)) | _ => .error .nonzeroField)
    | _ => .error .reservedFunction
  | _ => .error .nonzeroField

/-- A 32-bit instruction, by its major (R62). -/
def decWord (n : Nat) : Raw :=
  match bitsAt n 2 6 with
  | 0x00 => decMajor00 n
  | 0x01 => decMajor01 n
  | 0x02 => decMajor02 n
  | 0x03 => decMajor03 n
  | 0x04 => decMajor04 n
  | 0x05 => decMajor05 n
  | 0x06 => decMajor06 n
  | 0x07 => decMajor07 n
  | 0x08 => decMajor08 n
  | 0x09 => decMajor09 n
  | 0x0A => decMajor0A n
  | 0x0B => decMajor0B n
  | 0x0C => decMajor0C n
  | 0x0D => decMajor0D n
  | 0x0E => decMajor0E n
  | 0x0F => decMajor0F n
  | 0x10 => decMajor10 n
  | 0x11 => decMajor11 n
  | 0x12 => decMajor12 n
  | 0x13 => decMajor13 n
  | 0x14 => decMajor14 n
  | 0x18 => decMajor18 n
  | 0x19 => decMajor19 n
  | 0x1A => decMajor1A n
  | 0x1B => decMajor1B n
  | 0x1C => decMajor1C n
  | 0x20 => decMajor20 n
  | 0x21 => decMajor21 n
  | 0x22 => decMajor22 n
  | 0x23 => decMajor23 n
  | 0x24 => decMajor24 n
  | 0x25 => decMajor25 n
  | 0x26 => decMajor26 n
  | 0x27 => decMajor27 n
  | _ => .error .reservedMajor

/-- A 64-bit instruction, by its class (R66). -/
def decDouble (n : Nat) : Raw :=
  match bitsAt n 3 5 with
  | 0 => decClass00 n
  | 1 => decClass01 n
  | 2 => decClass02 n
  | 3 => decClass03 n
  | 4 => decClass04 n
  | 5 => decClass05 n
  | 6 => decClass06 n
  | _ => .error .reservedClass

/-- The length in bytes that parcel 0 decides, 0 for the reserved length (R56). -/
def lengthOf (parcel0 : Nat) : Nat :=
  if parcel0 % 2 == 0 then 2
  else if parcel0 % 4 == 1 then 4
  else if parcel0 % 8 == 3 then 8
  else 0

/-- Goes on when no field rule refuses the instruction. -/
def legal (r : Raw) : Raw :=
  match r with
  | .ok i =>
    match i.illFormed with
    | none => .ok i
    | some e => .error e
  | .error e => .error e

/-- The instruction of `len` bytes whose bits are `n`, its fields read and no field rule applied. -/
noncomputable def rawBits (len n : Nat) : Raw :=
  match len with
  | 2 => decHalf n
  | 4 => decWord n
  | 8 => decDouble n
  | _ => .error .reservedLength

/-- The instruction of `len` bytes whose bits are `n` (R58). -/
noncomputable def decodeBits (len n : Nat) : Raw := legal (rawBits len n)

/-- The value of little-endian bytes (R8). -/
def leNat : List Byte → Nat
  | [] => 0
  | b :: bs => b.toNat + 256 * leNat bs

/-- The `k` little-endian bytes of `n` (R8). -/
def leBytes : Nat → Nat → List Byte
  | 0, _ => []
  | k + 1, n => BitVec.ofNat 8 n :: leBytes k (n / 256)

/-- The instruction that begins at the first byte, and the bytes after it (R56). Total on any bytes. -/
noncomputable def decode (bs : List Byte) : Except DecodeError (Instr × List Byte) :=
  match bs with
  | b0 :: b1 :: _ =>
    let len := lengthOf (leNat [b0, b1])
    if len == 0 then .error .reservedLength
    else if bs.length < len then .error .shortInput
    else match decodeBits len (leNat (bs.take len)) with
      | .ok i => .ok (i, bs.drop len)
      | .error e => .error e
  | _ => .error .shortInput

/-- The words of an instruction: its length in bytes and its bits. -/
structure Code where
  len : Nat
  bits : Nat
  deriving DecidableEq, Repr

/-- The words that encode an instruction (R61-R67); a step of another agent has none. -/
def encode? : Instr → Option Code
  | .add rd ra rb => some ⟨4, pack [2, 6, 5, 5, 5, 9] [1, 0, rd.toNat, ra.toNat, rb.toNat, 0]⟩
  | .sub rd ra rb => some ⟨4, pack [2, 6, 5, 5, 5, 9] [1, 0, rd.toNat, ra.toNat, rb.toNat, 1]⟩
  | .and rd ra rb => some ⟨4, pack [2, 6, 5, 5, 5, 9] [1, 0, rd.toNat, ra.toNat, rb.toNat, 2]⟩
  | .or rd ra rb => some ⟨4, pack [2, 6, 5, 5, 5, 9] [1, 0, rd.toNat, ra.toNat, rb.toNat, 3]⟩
  | .xor rd ra rb => some ⟨4, pack [2, 6, 5, 5, 5, 9] [1, 0, rd.toNat, ra.toNat, rb.toNat, 4]⟩
  | .andn rd ra rb => some ⟨4, pack [2, 6, 5, 5, 5, 9] [1, 0, rd.toNat, ra.toNat, rb.toNat, 5]⟩
  | .sll rd ra rb => some ⟨4, pack [2, 6, 5, 5, 5, 9] [1, 0, rd.toNat, ra.toNat, rb.toNat, 6]⟩
  | .srl rd ra rb => some ⟨4, pack [2, 6, 5, 5, 5, 9] [1, 0, rd.toNat, ra.toNat, rb.toNat, 7]⟩
  | .sra rd ra rb => some ⟨4, pack [2, 6, 5, 5, 5, 9] [1, 0, rd.toNat, ra.toNat, rb.toNat, 8]⟩
  | .slt rd ra rb => some ⟨4, pack [2, 6, 5, 5, 5, 9] [1, 0, rd.toNat, ra.toNat, rb.toNat, 9]⟩
  | .sltu rd ra rb => some ⟨4, pack [2, 6, 5, 5, 5, 9] [1, 0, rd.toNat, ra.toNat, rb.toNat, 10]⟩
  | .min rd ra rb => some ⟨4, pack [2, 6, 5, 5, 5, 9] [1, 0, rd.toNat, ra.toNat, rb.toNat, 11]⟩
  | .max rd ra rb => some ⟨4, pack [2, 6, 5, 5, 5, 9] [1, 0, rd.toNat, ra.toNat, rb.toNat, 12]⟩
  | .minu rd ra rb => some ⟨4, pack [2, 6, 5, 5, 5, 9] [1, 0, rd.toNat, ra.toNat, rb.toNat, 13]⟩
  | .maxu rd ra rb => some ⟨4, pack [2, 6, 5, 5, 5, 9] [1, 0, rd.toNat, ra.toNat, rb.toNat, 14]⟩
  | .mul rd ra rb => some ⟨4, pack [2, 6, 5, 5, 5, 9] [1, 0, rd.toNat, ra.toNat, rb.toNat, 15]⟩
  | .mulh rd ra rb => some ⟨4, pack [2, 6, 5, 5, 5, 9] [1, 0, rd.toNat, ra.toNat, rb.toNat, 16]⟩
  | .mulhu rd ra rb => some ⟨4, pack [2, 6, 5, 5, 5, 9] [1, 0, rd.toNat, ra.toNat, rb.toNat, 17]⟩
  | .div rd ra rb => some ⟨4, pack [2, 6, 5, 5, 5, 9] [1, 0, rd.toNat, ra.toNat, rb.toNat, 18]⟩
  | .divu rd ra rb => some ⟨4, pack [2, 6, 5, 5, 5, 9] [1, 0, rd.toNat, ra.toNat, rb.toNat, 19]⟩
  | .rem rd ra rb => some ⟨4, pack [2, 6, 5, 5, 5, 9] [1, 0, rd.toNat, ra.toNat, rb.toNat, 20]⟩
  | .remu rd ra rb => some ⟨4, pack [2, 6, 5, 5, 5, 9] [1, 0, rd.toNat, ra.toNat, rb.toNat, 21]⟩
  | .clz rd ra => some ⟨4, pack [2, 6, 5, 5, 5, 9] [1, 0, rd.toNat, ra.toNat, 0, 22]⟩
  | .ctz rd ra => some ⟨4, pack [2, 6, 5, 5, 5, 9] [1, 0, rd.toNat, ra.toNat, 0, 23]⟩
  | .popc rd ra => some ⟨4, pack [2, 6, 5, 5, 5, 9] [1, 0, rd.toNat, ra.toNat, 0, 24]⟩
  | .addi rd ra imm => some ⟨4, pack [2, 6, 5, 5, 14] [1, 1, rd.toNat, ra.toNat, imm.toNat]⟩
  | .andi rd ra imm => some ⟨4, pack [2, 6, 5, 5, 14] [1, 2, rd.toNat, ra.toNat, imm.toNat]⟩
  | .ori rd ra imm => some ⟨4, pack [2, 6, 5, 5, 14] [1, 3, rd.toNat, ra.toNat, imm.toNat]⟩
  | .xori rd ra imm => some ⟨4, pack [2, 6, 5, 5, 14] [1, 4, rd.toNat, ra.toNat, imm.toNat]⟩
  | .slti rd ra imm => some ⟨4, pack [2, 6, 5, 5, 14] [1, 5, rd.toNat, ra.toNat, imm.toNat]⟩
  | .sltiu rd ra imm => some ⟨4, pack [2, 6, 5, 5, 14] [1, 6, rd.toNat, ra.toNat, imm.toNat]⟩
  | .slli rd ra sh => some ⟨4, pack [2, 6, 5, 5, 6, 2, 6] [1, 7, rd.toNat, ra.toNat, sh.toNat, 0, 0]⟩
  | .srli rd ra sh => some ⟨4, pack [2, 6, 5, 5, 6, 2, 6] [1, 7, rd.toNat, ra.toNat, sh.toNat, 1, 0]⟩
  | .srai rd ra sh => some ⟨4, pack [2, 6, 5, 5, 6, 2, 6] [1, 7, rd.toNat, ra.toNat, sh.toNat, 2, 0]⟩
  | .lui rd imm => some ⟨4, pack [2, 6, 5, 19] [1, 8, rd.toNat, imm.toNat]⟩
  | .ldpc rd imm => some ⟨4, pack [2, 6, 5, 19] [1, 9, rd.toNat, imm.toNat]⟩
  | .ldB rd rb ord scope evict imm => some ⟨4, pack [2, 6, 5, 5, 2, 1, 2, 3, 3, 3] [1, 10, rd.toNat, rb.toNat, 0, 0, ord.code, scope.code, evict.toNat, imm.toNat]⟩
  | .ldBu rd rb ord scope evict imm => some ⟨4, pack [2, 6, 5, 5, 2, 1, 2, 3, 3, 3] [1, 10, rd.toNat, rb.toNat, 0, 1, ord.code, scope.code, evict.toNat, imm.toNat]⟩
  | .ldH rd rb ord scope evict imm => some ⟨4, pack [2, 6, 5, 5, 2, 1, 2, 3, 3, 3] [1, 10, rd.toNat, rb.toNat, 1, 0, ord.code, scope.code, evict.toNat, imm.toNat]⟩
  | .ldHu rd rb ord scope evict imm => some ⟨4, pack [2, 6, 5, 5, 2, 1, 2, 3, 3, 3] [1, 10, rd.toNat, rb.toNat, 1, 1, ord.code, scope.code, evict.toNat, imm.toNat]⟩
  | .ldW rd rb ord scope evict imm => some ⟨4, pack [2, 6, 5, 5, 2, 1, 2, 3, 3, 3] [1, 10, rd.toNat, rb.toNat, 2, 0, ord.code, scope.code, evict.toNat, imm.toNat]⟩
  | .ldWu rd rb ord scope evict imm => some ⟨4, pack [2, 6, 5, 5, 2, 1, 2, 3, 3, 3] [1, 10, rd.toNat, rb.toNat, 2, 1, ord.code, scope.code, evict.toNat, imm.toNat]⟩
  | .ldD rd rb ord scope evict imm => some ⟨4, pack [2, 6, 5, 5, 2, 1, 2, 3, 3, 3] [1, 10, rd.toNat, rb.toNat, 3, 0, ord.code, scope.code, evict.toNat, imm.toNat]⟩
  | .stB rs rb ord scope evict imm => some ⟨4, pack [2, 6, 5, 5, 2, 1, 2, 3, 3, 3] [1, 11, rs.toNat, rb.toNat, 0, 0, ord.code, scope.code, evict.toNat, imm.toNat]⟩
  | .stH rs rb ord scope evict imm => some ⟨4, pack [2, 6, 5, 5, 2, 1, 2, 3, 3, 3] [1, 11, rs.toNat, rb.toNat, 1, 0, ord.code, scope.code, evict.toNat, imm.toNat]⟩
  | .stW rs rb ord scope evict imm => some ⟨4, pack [2, 6, 5, 5, 2, 1, 2, 3, 3, 3] [1, 11, rs.toNat, rb.toNat, 2, 0, ord.code, scope.code, evict.toNat, imm.toNat]⟩
  | .stD rs rb ord scope evict imm => some ⟨4, pack [2, 6, 5, 5, 2, 1, 2, 3, 3, 3] [1, 11, rs.toNat, rb.toNat, 3, 0, ord.code, scope.code, evict.toNat, imm.toNat]⟩
  | .beq ra rb off => some ⟨4, pack [2, 6, 5, 5, 3, 11] [1, 12, ra.toNat, rb.toNat, 0, off.toNat]⟩
  | .bne ra rb off => some ⟨4, pack [2, 6, 5, 5, 3, 11] [1, 12, ra.toNat, rb.toNat, 1, off.toNat]⟩
  | .blt ra rb off => some ⟨4, pack [2, 6, 5, 5, 3, 11] [1, 12, ra.toNat, rb.toNat, 2, off.toNat]⟩
  | .bge ra rb off => some ⟨4, pack [2, 6, 5, 5, 3, 11] [1, 12, ra.toNat, rb.toNat, 3, off.toNat]⟩
  | .bltu ra rb off => some ⟨4, pack [2, 6, 5, 5, 3, 11] [1, 12, ra.toNat, rb.toNat, 4, off.toNat]⟩
  | .bgeu ra rb off => some ⟨4, pack [2, 6, 5, 5, 3, 11] [1, 12, ra.toNat, rb.toNat, 5, off.toNat]⟩
  | .jal rd off => some ⟨4, pack [2, 6, 5, 19] [1, 13, rd.toNat, off.toNat]⟩
  | .jalr rd ra imm => some ⟨4, pack [2, 6, 5, 5, 14] [1, 14, rd.toNat, ra.toNat, imm.toNat]⟩
  | .loopSet ra tag grp tp mp => some ⟨4, pack [2, 6, 2, 3, 5, 14] [1, 15, 0, 0, ra.toNat, (pack [6, 2, 1, 1, 4] [tag.code, grp.toNat, tp.toNat, mp.toNat, 0])]⟩
  | .loopNext off => some ⟨4, pack [2, 6, 2, 3, 5, 14] [1, 15, 1, 0, 0, off.toNat]⟩
  | .farmSet ra tag grp tp mp => some ⟨4, pack [2, 6, 2, 3, 5, 14] [1, 15, 2, 0, ra.toNat, (pack [6, 2, 1, 1, 4] [tag.code, grp.toNat, tp.toNat, mp.toNat, 0])]⟩
  | .csrr rd csr => some ⟨4, pack [2, 6, 5, 5, 4, 10] [1, 16, rd.toNat, 0, 0, csr.toNat]⟩
  | .csrw rd csr ra => some ⟨4, pack [2, 6, 5, 5, 4, 10] [1, 16, rd.toNat, ra.toNat, 1, csr.toNat]⟩
  | .csrs rd csr ra => some ⟨4, pack [2, 6, 5, 5, 4, 10] [1, 16, rd.toNat, ra.toNat, 2, csr.toNat]⟩
  | .csrc rd csr ra => some ⟨4, pack [2, 6, 5, 5, 4, 10] [1, 16, rd.toNat, ra.toNat, 3, csr.toNat]⟩
  | .svc imm => some ⟨4, pack [2, 6, 5, 5, 4, 10] [1, 16, 0, 0, 4, imm.toNat]⟩
  | .brk imm => some ⟨4, pack [2, 6, 5, 5, 4, 10] [1, 16, 0, 0, 5, imm.toNat]⟩
  | .exit ra => some ⟨4, pack [2, 6, 5, 5, 4, 10] [1, 16, 0, ra.toNat, 6, 0]⟩
  | .cachectlSynci ra => some ⟨4, pack [2, 6, 5, 5, 4, 10] [1, 16, 0, ra.toNat, 7, 0]⟩
  | .cachectlWb ra => some ⟨4, pack [2, 6, 5, 5, 4, 10] [1, 16, 0, ra.toNat, 7, 1]⟩
  | .cachectlWbinv ra => some ⟨4, pack [2, 6, 5, 5, 4, 10] [1, 16, 0, ra.toNat, 7, 2]⟩
  | .cachectlPf1 ra => some ⟨4, pack [2, 6, 5, 5, 4, 10] [1, 16, 0, ra.toNat, 7, 3]⟩
  | .cachectlPf2 ra => some ⟨4, pack [2, 6, 5, 5, 4, 10] [1, 16, 0, ra.toNat, 7, 4]⟩
  | .cachectlZero ra => some ⟨4, pack [2, 6, 5, 5, 4, 10] [1, 16, 0, ra.toNat, 7, 5]⟩
  | .eret => some ⟨4, pack [2, 6, 5, 5, 4, 10] [1, 16, 0, 0, 8, 0]⟩
  | .tlbinv kind ra => some ⟨4, pack [2, 6, 5, 5, 4, 10] [1, 16, 0, ra.toNat, 9, (pack [2, 8] [kind.toNat, 0])]⟩
  | .ctxResumeRetry ra => some ⟨4, pack [2, 6, 5, 5, 4, 10] [1, 16, 0, ra.toNat, 10, 0]⟩
  | .ctxResumeSkip ra => some ⟨4, pack [2, 6, 5, 5, 4, 10] [1, 16, 0, ra.toNat, 10, 1]⟩
  | .ctxSave ra => some ⟨4, pack [2, 6, 5, 5, 4, 10] [1, 16, 0, ra.toNat, 11, 0]⟩
  | .fence pred succ scope => some ⟨4, pack [2, 6, 8, 8, 3, 5] [1, 17, pred.toNat, succ.toNat, scope.code, 0]⟩
  | .amoAdd rd ra rb ord scope => some ⟨4, pack [2, 6, 5, 5, 5, 4, 2, 3] [1, 18, rd.toNat, rb.toNat, ra.toNat, 0, ord.code, scope.code]⟩
  | .amoAnd rd ra rb ord scope => some ⟨4, pack [2, 6, 5, 5, 5, 4, 2, 3] [1, 18, rd.toNat, rb.toNat, ra.toNat, 1, ord.code, scope.code]⟩
  | .amoOr rd ra rb ord scope => some ⟨4, pack [2, 6, 5, 5, 5, 4, 2, 3] [1, 18, rd.toNat, rb.toNat, ra.toNat, 2, ord.code, scope.code]⟩
  | .amoXor rd ra rb ord scope => some ⟨4, pack [2, 6, 5, 5, 5, 4, 2, 3] [1, 18, rd.toNat, rb.toNat, ra.toNat, 3, ord.code, scope.code]⟩
  | .amoMin rd ra rb ord scope => some ⟨4, pack [2, 6, 5, 5, 5, 4, 2, 3] [1, 18, rd.toNat, rb.toNat, ra.toNat, 4, ord.code, scope.code]⟩
  | .amoMax rd ra rb ord scope => some ⟨4, pack [2, 6, 5, 5, 5, 4, 2, 3] [1, 18, rd.toNat, rb.toNat, ra.toNat, 5, ord.code, scope.code]⟩
  | .amoMinu rd ra rb ord scope => some ⟨4, pack [2, 6, 5, 5, 5, 4, 2, 3] [1, 18, rd.toNat, rb.toNat, ra.toNat, 6, ord.code, scope.code]⟩
  | .amoMaxu rd ra rb ord scope => some ⟨4, pack [2, 6, 5, 5, 5, 4, 2, 3] [1, 18, rd.toNat, rb.toNat, ra.toNat, 7, ord.code, scope.code]⟩
  | .amoSwap rd ra rb ord scope => some ⟨4, pack [2, 6, 5, 5, 5, 4, 2, 3] [1, 18, rd.toNat, rb.toNat, ra.toNat, 8, ord.code, scope.code]⟩
  | .amoCas rd ra rb ord scope => some ⟨4, pack [2, 6, 5, 5, 5, 4, 2, 3] [1, 18, rd.toNat, rb.toNat, ra.toNat, 9, ord.code, scope.code]⟩
  | .barInit rb ra scope => some ⟨4, pack [2, 6, 5, 5, 5, 2, 3, 4] [1, 19, 0, rb.toNat, ra.toNat, 0, scope.code, 0]⟩
  | .barArv rd rb scope => some ⟨4, pack [2, 6, 5, 5, 5, 2, 3, 4] [1, 19, rd.toNat, rb.toNat, 0, 1, scope.code, 0]⟩
  | .barWait rb ra scope => some ⟨4, pack [2, 6, 5, 5, 5, 2, 3, 4] [1, 19, 0, rb.toNat, ra.toNat, 2, scope.code, 0]⟩
  | .barArvwait rd rb scope => some ⟨4, pack [2, 6, 5, 5, 5, 2, 3, 4] [1, 19, rd.toNat, rb.toNat, 0, 3, scope.code, 0]⟩
  | .tkwait => some ⟨4, pack [2, 6, 5, 5, 5, 9] [1, 20, 0, 0, 0, 0]⟩
  | .tktrig => some ⟨4, pack [2, 6, 5, 5, 5, 9] [1, 20, 0, 0, 0, 1]⟩
  | .taskSpawn rd ra => some ⟨4, pack [2, 6, 5, 5, 5, 9] [1, 20, rd.toNat, ra.toNat, 0, 2]⟩
  | .vcfg vd tag dom grp => some ⟨4, pack [2, 6, 21, 3] [1, 24, (pack [6, 6, 3, 2, 4] [vd.toNat, tag.code, dom.toNat, grp.toNat, 0]), 0]⟩
  | .vlreq rd ra tag grp tp mp => some ⟨4, pack [2, 6, 21, 3] [1, 24, (pack [5, 5, 6, 2, 1, 1, 1] [rd.toNat, ra.toNat, tag.code, grp.toNat, tp.toNat, mp.toNat, 0]), 1]⟩
  | .vtagr rd va => some ⟨4, pack [2, 6, 21, 3] [1, 24, (pack [5, 6, 10] [rd.toNat, va.toNat, 0]), 2]⟩
  | .vdim dk ra rb => some ⟨4, pack [2, 6, 21, 3] [1, 24, (pack [3, 2, 5, 5, 6] [dk.toNat, 0, ra.toNat, rb.toNat, 0]), 3]⟩
  | .shpLd entry ra => some ⟨4, pack [2, 6, 21, 3] [1, 24, (pack [4, 1, 5, 11] [entry.toNat, 0, ra.toNat, 0]), 4]⟩
  | .vld vd xb mode mask ord scope evict => some ⟨4, pack [2, 6, 6, 5, 3, 2, 2, 3, 3] [1, 25, vd.toNat, xb.toNat, mode.toNat, mask.toNat, ord.code, scope.code, evict.toNat]⟩
  | .vst vs xb mode mask ord scope evict => some ⟨4, pack [2, 6, 6, 5, 3, 2, 2, 3, 3] [1, 26, vs.toNat, xb.toNat, mode.toNat, mask.toNat, ord.code, scope.code, evict.toNat]⟩
  | .vldc vd xb mode cm ord scope evict => some ⟨4, pack [2, 6, 6, 5, 3, 2, 2, 3, 3] [1, 27, vd.toNat, xb.toNat, mode.toNat, cm.toNat, ord.code, scope.code, evict.toNat]⟩
  | .vspill vd xb imm => some ⟨4, pack [2, 6, 6, 5, 1, 12] [1, 28, vd.toNat, xb.toNat, 0, imm.toNat]⟩
  | .vfill vd xb imm => some ⟨4, pack [2, 6, 6, 5, 1, 12] [1, 28, vd.toNat, xb.toNat, 1, imm.toNat]⟩
  | .vldx vd vi xb scale mask ord scope evict => some ⟨8, pack [3, 5, 2, 6, 6, 5, 2, 2, 3, 3, 2, 25] [3, 1, 0, vd.toNat, vi.toNat, xb.toNat, mask.toNat, ord.code, scope.code, evict.toNat, scale.toNat, 0]⟩
  | .vstx vs vi xb scale mask ord scope evict => some ⟨8, pack [3, 5, 2, 6, 6, 5, 2, 2, 3, 3, 2, 25] [3, 1, 1, vs.toNat, vi.toNat, xb.toNat, mask.toNat, ord.code, scope.code, evict.toNat, scale.toNat, 0]⟩
  | .vamoadd vs vi xb scale mask ord scope evict => some ⟨8, pack [3, 5, 2, 6, 6, 5, 2, 2, 3, 3, 2, 25] [3, 1, 2, vs.toNat, vi.toNat, xb.toNat, mask.toNat, ord.code, scope.code, evict.toNat, scale.toNat, 0]⟩
  | .vadd vd va vb mask => some ⟨4, pack [2, 6, 6, 6, 6, 2, 4] [1, 32, vd.toNat, va.toNat, vb.toNat, mask.toNat, 0]⟩
  | .vsub vd va vb mask => some ⟨4, pack [2, 6, 6, 6, 6, 2, 4] [1, 32, vd.toNat, va.toNat, vb.toNat, mask.toNat, 1]⟩
  | .vmul vd va vb mask => some ⟨4, pack [2, 6, 6, 6, 6, 2, 4] [1, 32, vd.toNat, va.toNat, vb.toNat, mask.toNat, 2]⟩
  | .vmin vd va vb mask => some ⟨4, pack [2, 6, 6, 6, 6, 2, 4] [1, 32, vd.toNat, va.toNat, vb.toNat, mask.toNat, 3]⟩
  | .vmax vd va vb mask => some ⟨4, pack [2, 6, 6, 6, 6, 2, 4] [1, 32, vd.toNat, va.toNat, vb.toNat, mask.toNat, 4]⟩
  | .vabs vd va mask => some ⟨4, pack [2, 6, 6, 6, 6, 2, 4] [1, 32, vd.toNat, va.toNat, 0, mask.toNat, 5]⟩
  | .vneg vd va mask => some ⟨4, pack [2, 6, 6, 6, 6, 2, 4] [1, 32, vd.toNat, va.toNat, 0, mask.toNat, 6]⟩
  | .vfma vd va vb mask => some ⟨4, pack [2, 6, 6, 6, 6, 2, 4] [1, 32, vd.toNat, va.toNat, vb.toNat, mask.toNat, 7]⟩
  | .vfms vd va vb mask => some ⟨4, pack [2, 6, 6, 6, 6, 2, 4] [1, 32, vd.toNat, va.toNat, vb.toNat, mask.toNat, 8]⟩
  | .vfnma vd va vb mask => some ⟨4, pack [2, 6, 6, 6, 6, 2, 4] [1, 32, vd.toNat, va.toNat, vb.toNat, mask.toNat, 9]⟩
  | .vdiv vd va vb mask => some ⟨4, pack [2, 6, 6, 6, 6, 2, 4] [1, 32, vd.toNat, va.toNat, vb.toNat, mask.toNat, 10]⟩
  | .vsqrt vd va mask => some ⟨4, pack [2, 6, 6, 6, 6, 2, 4] [1, 32, vd.toNat, va.toNat, 0, mask.toNat, 11]⟩
  | .vand vd va vb mask => some ⟨4, pack [2, 6, 6, 6, 6, 2, 4] [1, 32, vd.toNat, va.toNat, vb.toNat, mask.toNat, 12]⟩
  | .vor vd va vb mask => some ⟨4, pack [2, 6, 6, 6, 6, 2, 4] [1, 32, vd.toNat, va.toNat, vb.toNat, mask.toNat, 13]⟩
  | .vxor vd va vb mask => some ⟨4, pack [2, 6, 6, 6, 6, 2, 4] [1, 32, vd.toNat, va.toNat, vb.toNat, mask.toNat, 14]⟩
  | .vnot vd va mask => some ⟨4, pack [2, 6, 6, 6, 6, 2, 4] [1, 32, vd.toNat, va.toNat, 0, mask.toNat, 15]⟩
  | .vsll vd va vb mask => some ⟨4, pack [2, 6, 6, 6, 6, 2, 4] [1, 33, vd.toNat, va.toNat, vb.toNat, mask.toNat, 0]⟩
  | .vsrl vd va vb mask => some ⟨4, pack [2, 6, 6, 6, 6, 2, 4] [1, 33, vd.toNat, va.toNat, vb.toNat, mask.toNat, 1]⟩
  | .vsra vd va vb mask => some ⟨4, pack [2, 6, 6, 6, 6, 2, 4] [1, 33, vd.toNat, va.toNat, vb.toNat, mask.toNat, 2]⟩
  | .vmulh vd va vb mask => some ⟨4, pack [2, 6, 6, 6, 6, 2, 4] [1, 33, vd.toNat, va.toNat, vb.toNat, mask.toNat, 3]⟩
  | .vmulr vd va vb mask => some ⟨4, pack [2, 6, 6, 6, 6, 2, 4] [1, 33, vd.toNat, va.toNat, vb.toNat, mask.toNat, 4]⟩
  | .vaddr vd va vb mask => some ⟨4, pack [2, 6, 6, 6, 6, 2, 4] [1, 33, vd.toNat, va.toNat, vb.toNat, mask.toNat, 5]⟩
  | .vrcps vd va vb mask => some ⟨4, pack [2, 6, 6, 6, 6, 2, 4] [1, 33, vd.toNat, va.toNat, vb.toNat, mask.toNat, 6]⟩
  | .vrsqs vd va vb mask => some ⟨4, pack [2, 6, 6, 6, 6, 2, 4] [1, 33, vd.toNat, va.toNat, vb.toNat, mask.toNat, 7]⟩
  | .vcmpEq md va vb mask => some ⟨4, pack [2, 6, 6, 6, 6, 2, 4] [1, 33, (pack [3, 3] [md.toNat, 0]), va.toNat, vb.toNat, mask.toNat, 8]⟩
  | .vcmpLt md va vb mask => some ⟨4, pack [2, 6, 6, 6, 6, 2, 4] [1, 33, (pack [3, 3] [md.toNat, 0]), va.toNat, vb.toNat, mask.toNat, 9]⟩
  | .vcmpLe md va vb mask => some ⟨4, pack [2, 6, 6, 6, 6, 2, 4] [1, 33, (pack [3, 3] [md.toNat, 0]), va.toNat, vb.toNat, mask.toNat, 10]⟩
  | .vcvt vd va tag mask => some ⟨4, pack [2, 6, 6, 6, 6, 2, 4] [1, 33, vd.toNat, va.toNat, tag.code, mask.toNat, 11]⟩
  | .vwiden vd va tag mask => some ⟨4, pack [2, 6, 6, 6, 6, 2, 4] [1, 33, vd.toNat, va.toNat, tag.code, mask.toNat, 12]⟩
  | .vnarrow vd va tag mask => some ⟨4, pack [2, 6, 6, 6, 6, 2, 4] [1, 33, vd.toNat, va.toNat, tag.code, mask.toNat, 13]⟩
  | .vaddX vd va xb mask => some ⟨4, pack [2, 6, 6, 6, 5, 1, 2, 4] [1, 34, vd.toNat, va.toNat, xb.toNat, 0, mask.toNat, 0]⟩
  | .vsubX vd va xb mask => some ⟨4, pack [2, 6, 6, 6, 5, 1, 2, 4] [1, 34, vd.toNat, va.toNat, xb.toNat, 0, mask.toNat, 1]⟩
  | .vsubXRev vd va xb mask => some ⟨4, pack [2, 6, 6, 6, 5, 1, 2, 4] [1, 34, vd.toNat, va.toNat, xb.toNat, 1, mask.toNat, 1]⟩
  | .vmulX vd va xb mask => some ⟨4, pack [2, 6, 6, 6, 5, 1, 2, 4] [1, 34, vd.toNat, va.toNat, xb.toNat, 0, mask.toNat, 2]⟩
  | .vfmaX vd va xb mask => some ⟨4, pack [2, 6, 6, 6, 5, 1, 2, 4] [1, 34, vd.toNat, va.toNat, xb.toNat, 0, mask.toNat, 3]⟩
  | .vminX vd va xb mask => some ⟨4, pack [2, 6, 6, 6, 5, 1, 2, 4] [1, 34, vd.toNat, va.toNat, xb.toNat, 0, mask.toNat, 4]⟩
  | .vmaxX vd va xb mask => some ⟨4, pack [2, 6, 6, 6, 5, 1, 2, 4] [1, 34, vd.toNat, va.toNat, xb.toNat, 0, mask.toNat, 5]⟩
  | .vbcast vd xb mask => some ⟨4, pack [2, 6, 6, 6, 5, 1, 2, 4] [1, 34, vd.toNat, 0, xb.toNat, 0, mask.toNat, 6]⟩
  | .vsllX vd va xb mask => some ⟨4, pack [2, 6, 6, 6, 5, 1, 2, 4] [1, 34, vd.toNat, va.toNat, xb.toNat, 0, mask.toNat, 7]⟩
  | .vsrlX vd va xb mask => some ⟨4, pack [2, 6, 6, 6, 5, 1, 2, 4] [1, 34, vd.toNat, va.toNat, xb.toNat, 0, mask.toNat, 8]⟩
  | .vsraX vd va xb mask => some ⟨4, pack [2, 6, 6, 6, 5, 1, 2, 4] [1, 34, vd.toNat, va.toNat, xb.toNat, 0, mask.toNat, 9]⟩
  | .vcmpEqx md va xb mask => some ⟨4, pack [2, 6, 6, 6, 5, 1, 2, 4] [1, 34, (pack [3, 3] [md.toNat, 0]), va.toNat, xb.toNat, 0, mask.toNat, 10]⟩
  | .vcmpLtx md va xb mask => some ⟨4, pack [2, 6, 6, 6, 5, 1, 2, 4] [1, 34, (pack [3, 3] [md.toNat, 0]), va.toNat, xb.toNat, 0, mask.toNat, 11]⟩
  | .vcmpLtxRev md va xb mask => some ⟨4, pack [2, 6, 6, 6, 5, 1, 2, 4] [1, 34, (pack [3, 3] [md.toNat, 0]), va.toNat, xb.toNat, 1, mask.toNat, 11]⟩
  | .vcmpLex md va xb mask => some ⟨4, pack [2, 6, 6, 6, 5, 1, 2, 4] [1, 34, (pack [3, 3] [md.toNat, 0]), va.toNat, xb.toNat, 0, mask.toNat, 12]⟩
  | .vcmpLexRev md va xb mask => some ⟨4, pack [2, 6, 6, 6, 5, 1, 2, 4] [1, 34, (pack [3, 3] [md.toNat, 0]), va.toNat, xb.toNat, 1, mask.toNat, 12]⟩
  | .vmvXv xd va xb => some ⟨4, pack [2, 6, 6, 6, 5, 1, 2, 4] [1, 34, (pack [5, 1] [xd.toNat, 0]), va.toNat, xb.toNat, 0, 0, 13]⟩
  | .vmvVx vd xa xb => some ⟨4, pack [2, 6, 6, 6, 5, 1, 2, 4] [1, 34, vd.toNat, (pack [5, 1] [xa.toNat, 0]), xb.toNat, 0, 0, 14]⟩
  | .vexpFast vd va mask => some ⟨4, pack [2, 6, 6, 6, 6, 2, 4] [1, 35, vd.toNat, va.toNat, 0, mask.toNat, 0]⟩
  | .vlogFast vd va mask => some ⟨4, pack [2, 6, 6, 6, 6, 2, 4] [1, 35, vd.toNat, va.toNat, 0, mask.toNat, 1]⟩
  | .vrcpFast vd va mask => some ⟨4, pack [2, 6, 6, 6, 6, 2, 4] [1, 35, vd.toNat, va.toNat, 0, mask.toNat, 2]⟩
  | .vrsqrtFast vd va mask => some ⟨4, pack [2, 6, 6, 6, 6, 2, 4] [1, 35, vd.toNat, va.toNat, 0, mask.toNat, 3]⟩
  | .vtanhFast vd va mask => some ⟨4, pack [2, 6, 6, 6, 6, 2, 4] [1, 35, vd.toNat, va.toNat, 0, mask.toNat, 4]⟩
  | .vsigmFast vd va mask => some ⟨4, pack [2, 6, 6, 6, 6, 2, 4] [1, 35, vd.toNat, va.toNat, 0, mask.toNat, 5]⟩
  | .vgeluFast vd va mask => some ⟨4, pack [2, 6, 6, 6, 6, 2, 4] [1, 35, vd.toNat, va.toNat, 0, mask.toNat, 6]⟩
  | .vsiluFast vd va mask => some ⟨4, pack [2, 6, 6, 6, 6, 2, 4] [1, 35, vd.toNat, va.toNat, 0, mask.toNat, 7]⟩
  | .vexpAcc vd va mask => some ⟨4, pack [2, 6, 6, 6, 6, 2, 4] [1, 35, vd.toNat, va.toNat, 0, mask.toNat, 8]⟩
  | .vlogAcc vd va mask => some ⟨4, pack [2, 6, 6, 6, 6, 2, 4] [1, 35, vd.toNat, va.toNat, 0, mask.toNat, 9]⟩
  | .vrcpAcc vd va mask => some ⟨4, pack [2, 6, 6, 6, 6, 2, 4] [1, 35, vd.toNat, va.toNat, 0, mask.toNat, 10]⟩
  | .vrsqrtAcc vd va mask => some ⟨4, pack [2, 6, 6, 6, 6, 2, 4] [1, 35, vd.toNat, va.toNat, 0, mask.toNat, 11]⟩
  | .vtanhAcc vd va mask => some ⟨4, pack [2, 6, 6, 6, 6, 2, 4] [1, 35, vd.toNat, va.toNat, 0, mask.toNat, 12]⟩
  | .vsigmAcc vd va mask => some ⟨4, pack [2, 6, 6, 6, 6, 2, 4] [1, 35, vd.toNat, va.toNat, 0, mask.toNat, 13]⟩
  | .vgeluAcc vd va mask => some ⟨4, pack [2, 6, 6, 6, 6, 2, 4] [1, 35, vd.toNat, va.toNat, 0, mask.toNat, 14]⟩
  | .vsiluAcc vd va mask => some ⟨4, pack [2, 6, 6, 6, 6, 2, 4] [1, 35, vd.toNat, va.toNat, 0, mask.toNat, 15]⟩
  | .vredsumOrd vd va vb mask => some ⟨4, pack [2, 6, 6, 6, 6, 2, 4] [1, 36, vd.toNat, va.toNat, vb.toNat, mask.toNat, 0]⟩
  | .vredsumTree vd va vb mask => some ⟨4, pack [2, 6, 6, 6, 6, 2, 4] [1, 36, vd.toNat, va.toNat, vb.toNat, mask.toNat, 1]⟩
  | .vredmax vd va vb mask => some ⟨4, pack [2, 6, 6, 6, 6, 2, 4] [1, 36, vd.toNat, va.toNat, vb.toNat, mask.toNat, 2]⟩
  | .vredmin vd va vb mask => some ⟨4, pack [2, 6, 6, 6, 6, 2, 4] [1, 36, vd.toNat, va.toNat, vb.toNat, mask.toNat, 3]⟩
  | .vredsumw vd va vb mask => some ⟨4, pack [2, 6, 6, 6, 6, 2, 4] [1, 36, vd.toNat, va.toNat, vb.toNat, mask.toNat, 4]⟩
  | .vredand vd va vb mask => some ⟨4, pack [2, 6, 6, 6, 6, 2, 4] [1, 36, vd.toNat, va.toNat, vb.toNat, mask.toNat, 5]⟩
  | .vredor vd va vb mask => some ⟨4, pack [2, 6, 6, 6, 6, 2, 4] [1, 36, vd.toNat, va.toNat, vb.toNat, mask.toNat, 6]⟩
  | .vredxor vd va vb mask => some ⟨4, pack [2, 6, 6, 6, 6, 2, 4] [1, 36, vd.toNat, va.toNat, vb.toNat, mask.toNat, 7]⟩
  | .vpopc xd ma mask => some ⟨4, pack [2, 6, 6, 6, 6, 2, 4] [1, 36, (pack [5, 1] [xd.toNat, 0]), (pack [3, 3] [ma.toNat, 0]), 0, mask.toNat, 8]⟩
  | .vfirst xd ma mask => some ⟨4, pack [2, 6, 6, 6, 6, 2, 4] [1, 36, (pack [5, 1] [xd.toNat, 0]), (pack [3, 3] [ma.toNat, 0]), 0, mask.toNat, 9]⟩
  | .mand md ma mb => some ⟨4, pack [2, 6, 6, 6, 6, 2, 4] [1, 36, (pack [3, 3] [md.toNat, 0]), (pack [3, 3] [ma.toNat, 0]), (pack [3, 3] [mb.toNat, 0]), 0, 10]⟩
  | .mor md ma mb => some ⟨4, pack [2, 6, 6, 6, 6, 2, 4] [1, 36, (pack [3, 3] [md.toNat, 0]), (pack [3, 3] [ma.toNat, 0]), (pack [3, 3] [mb.toNat, 0]), 0, 11]⟩
  | .mxor md ma mb => some ⟨4, pack [2, 6, 6, 6, 6, 2, 4] [1, 36, (pack [3, 3] [md.toNat, 0]), (pack [3, 3] [ma.toNat, 0]), (pack [3, 3] [mb.toNat, 0]), 0, 12]⟩
  | .mnot md ma => some ⟨4, pack [2, 6, 6, 6, 6, 2, 4] [1, 36, (pack [3, 3] [md.toNat, 0]), (pack [3, 3] [ma.toNat, 0]), 0, 0, 13]⟩
  | .mandn md ma mb => some ⟨4, pack [2, 6, 6, 6, 6, 2, 4] [1, 36, (pack [3, 3] [md.toNat, 0]), (pack [3, 3] [ma.toNat, 0]), (pack [3, 3] [mb.toNat, 0]), 0, 14]⟩
  | .mset md => some ⟨4, pack [2, 6, 6, 6, 6, 2, 4] [1, 36, (pack [3, 3] [md.toNat, 0]), 0, 0, 0, 15]⟩
  | .vslideup vd va xb mask => some ⟨4, pack [2, 6, 6, 6, 6, 2, 4] [1, 37, vd.toNat, va.toNat, (pack [5, 1] [xb.toNat, 0]), mask.toNat, 0]⟩
  | .vslidedn vd va xb mask => some ⟨4, pack [2, 6, 6, 6, 6, 2, 4] [1, 37, vd.toNat, va.toNat, (pack [5, 1] [xb.toNat, 0]), mask.toNat, 1]⟩
  | .vrot vd va xb mask => some ⟨4, pack [2, 6, 6, 6, 6, 2, 4] [1, 37, vd.toNat, va.toNat, (pack [5, 1] [xb.toNat, 0]), mask.toNat, 2]⟩
  | .vperm vd va vb mask => some ⟨4, pack [2, 6, 6, 6, 6, 2, 4] [1, 37, vd.toNat, va.toNat, vb.toNat, mask.toNat, 3]⟩
  | .vcompress vd va mask => some ⟨4, pack [2, 6, 6, 6, 6, 2, 4] [1, 37, vd.toNat, va.toNat, 0, mask.toNat, 4]⟩
  | .vexpand vd va mask => some ⟨4, pack [2, 6, 6, 6, 6, 2, 4] [1, 37, vd.toNat, va.toNat, 0, mask.toNat, 5]⟩
  | .vzip vd va vb mask => some ⟨4, pack [2, 6, 6, 6, 6, 2, 4] [1, 37, vd.toNat, va.toNat, vb.toNat, mask.toNat, 6]⟩
  | .vunzip vd va vb mask => some ⟨4, pack [2, 6, 6, 6, 6, 2, 4] [1, 37, vd.toNat, va.toNat, vb.toNat, mask.toNat, 7]⟩
  | .vtrans vd va mask => some ⟨4, pack [2, 6, 6, 6, 6, 2, 4] [1, 37, vd.toNat, va.toNat, 0, mask.toNat, 8]⟩
  | .vmerge vd va vb mask => some ⟨4, pack [2, 6, 6, 6, 6, 2, 4] [1, 37, vd.toNat, va.toNat, vb.toNat, mask.toNat, 9]⟩
  | .vmv vd va mask => some ⟨4, pack [2, 6, 6, 6, 6, 2, 4] [1, 37, vd.toNat, va.toNat, 0, mask.toNat, 10]⟩
  | .vtidx vd va entry => some ⟨4, pack [2, 6, 6, 6, 6, 2, 4] [1, 37, vd.toNat, va.toNat, (pack [4, 2] [entry.toNat, 0]), 0, 11]⟩
  | .vid vd => some ⟨4, pack [2, 6, 6, 6, 6, 2, 4] [1, 37, vd.toNat, 0, 0, 0, 12]⟩
  | .vquant vd va tag mask => some ⟨4, pack [2, 6, 6, 6, 6, 2, 4] [1, 37, vd.toNat, va.toNat, tag.code, mask.toNat, 13]⟩
  | .vdeq vd va tag mask => some ⟨4, pack [2, 6, 6, 6, 6, 2, 4] [1, 37, vd.toNat, va.toNat, tag.code, mask.toNat, 14]⟩
  | .vhaar vd va lev mask => some ⟨4, pack [2, 6, 6, 6, 6, 2, 4] [1, 38, vd.toNat, va.toNat, (pack [3, 3] [lev.toNat, 0]), mask.toNat, 0]⟩
  | .vihaar vd va mask => some ⟨4, pack [2, 6, 6, 6, 6, 2, 4] [1, 38, vd.toNat, va.toNat, 0, mask.toNat, 1]⟩
  | .vthr vd va mask => some ⟨4, pack [2, 6, 6, 6, 6, 2, 4] [1, 38, vd.toNat, va.toNat, 0, mask.toNat, 2]⟩
  | .vsig md va mask => some ⟨4, pack [2, 6, 6, 6, 6, 2, 4] [1, 38, (pack [3, 3] [md.toNat, 0]), va.toNat, 0, mask.toNat, 3]⟩
  | .vdom xd va => some ⟨4, pack [2, 6, 6, 6, 6, 2, 4] [1, 38, (pack [5, 1] [xd.toNat, 0]), va.toNat, 0, 0, 4]⟩
  | .vstw vs xb lev thr mask ord scope evict => some ⟨8, pack [3, 5, 6, 5, 2, 3, 2, 3, 3, 1, 31] [3, 2, vs.toNat, xb.toNat, mask.toNat, lev.toNat, ord.code, scope.code, evict.toNat, thr.toNat, 0]⟩
  | .tclr tile exp slot set wait => some ⟨8, pack [3, 5, 4, 3, 6, 6, 2, 2, 4, 1, 16, 10, 2] [3, 0, 0, tile.toNat, 0, 0, 0, 0, slot.toNat, set.toNat, wait.toNat, exp.toNat, 0]⟩
  | .bpacc tile va vb am bm slot set wait => some ⟨8, pack [3, 5, 4, 3, 6, 6, 2, 2, 4, 1, 16, 10, 2] [3, 0, 1, tile.toNat, va.toNat, vb.toNat, am.toNat, bm.toNat, slot.toNat, set.toNat, wait.toNat, 0, 0]⟩
  | .bpsub tile va vb am bm slot set wait => some ⟨8, pack [3, 5, 4, 3, 6, 6, 2, 2, 4, 1, 16, 10, 2] [3, 0, 2, tile.toNat, va.toNat, vb.toNat, am.toNat, bm.toNat, slot.toNat, set.toNat, wait.toNat, 0, 0]⟩
  | .mrd vd tile xb slot set wait => some ⟨8, pack [3, 5, 4, 3, 6, 6, 2, 2, 4, 1, 16, 10, 2] [3, 0, 3, tile.toNat, vd.toNat, (pack [5, 1] [xb.toNat, 0]), 0, 0, slot.toNat, set.toNat, wait.toNat, 0, 0]⟩
  | .mcol vd tile xb slot set wait => some ⟨8, pack [3, 5, 4, 3, 6, 6, 2, 2, 4, 1, 16, 10, 2] [3, 0, 4, tile.toNat, vd.toNat, (pack [5, 1] [xb.toNat, 0]), 0, 0, slot.toNat, set.toNat, wait.toNat, 0, 0]⟩
  | .mwr tile va xb slot set wait => some ⟨8, pack [3, 5, 4, 3, 6, 6, 2, 2, 4, 1, 16, 10, 2] [3, 0, 5, tile.toNat, va.toNat, (pack [5, 1] [xb.toNat, 0]), 0, 0, slot.toNat, set.toNat, wait.toNat, 0, 0]⟩
  | .mld tile xa xb slot set wait => some ⟨8, pack [3, 5, 4, 3, 6, 6, 2, 2, 4, 1, 16, 10, 2] [3, 0, 6, tile.toNat, (pack [5, 1] [xa.toNat, 0]), (pack [5, 1] [xb.toNat, 0]), 0, 0, slot.toNat, set.toNat, wait.toNat, 0, 0]⟩
  | .mst tile xa xb slot set wait => some ⟨8, pack [3, 5, 4, 3, 6, 6, 2, 2, 4, 1, 16, 10, 2] [3, 0, 7, tile.toNat, (pack [5, 1] [xa.toNat, 0]), (pack [5, 1] [xb.toNat, 0]), 0, 0, slot.toNat, set.toNat, wait.toNat, 0, 0]⟩
  | .mwait slot wait => some ⟨8, pack [3, 5, 4, 3, 6, 6, 2, 2, 4, 1, 16, 10, 2] [3, 0, 8, 0, 0, 0, 0, 0, slot.toNat, 0, wait.toNat, 0, 0]⟩
  | .hbind vd va vb mask => some ⟨4, pack [2, 6, 6, 6, 6, 2, 4] [1, 39, vd.toNat, va.toNat, vb.toNat, mask.toNat, 0]⟩
  | .hbundle vd va mask => some ⟨4, pack [2, 6, 6, 6, 6, 2, 4] [1, 39, vd.toNat, va.toNat, 0, mask.toNat, 1]⟩
  | .hmaj vd va vb mask => some ⟨4, pack [2, 6, 6, 6, 6, 2, 4] [1, 39, vd.toNat, va.toNat, vb.toNat, mask.toNat, 2]⟩
  | .hperm vd va xb mask => some ⟨4, pack [2, 6, 6, 6, 6, 2, 4] [1, 39, vd.toNat, va.toNat, (pack [5, 1] [xb.toNat, 0]), mask.toNat, 3]⟩
  | .hsim xd va vb mask => some ⟨4, pack [2, 6, 6, 6, 6, 2, 4] [1, 39, (pack [5, 1] [xd.toNat, 0]), va.toNat, vb.toNat, mask.toNat, 4]⟩
  | .hrand vd xb mask => some ⟨4, pack [2, 6, 6, 6, 6, 2, 4] [1, 39, vd.toNat, 0, (pack [5, 1] [xb.toNat, 0]), mask.toNat, 5]⟩
  | .hclean xd va xb xn => some ⟨8, pack [3, 5, 1, 1, 5, 6, 5, 5, 33] [3, 6, 0, 0, xd.toNat, va.toNat, xb.toNat, xn.toNat, 0]⟩
  | .hfact xd va xb xn => some ⟨8, pack [3, 5, 1, 1, 5, 6, 5, 5, 33] [3, 6, 1, 0, xd.toNat, va.toNat, xb.toNat, xn.toNat, 0]⟩
  | .cpy xd xs xn chunk chan cm bar xbar ord scope evict => some ⟨8, pack [3, 5, 2, 5, 5, 5, 2, 3, 2, 2, 3, 3, 1, 5, 18] [3, 3, 0, xd.toNat, xs.toNat, xn.toNat, cm.toNat, chunk.toNat, chan.toNat, ord.code, scope.code, evict.toNat, bar.toNat, xbar.toNat, 0]⟩
  | .cpyz xd xn chunk chan cm bar xbar ord scope evict => some ⟨8, pack [3, 5, 2, 5, 5, 5, 2, 3, 2, 2, 3, 3, 1, 5, 18] [3, 3, 1, xd.toNat, 0, xn.toNat, cm.toNat, chunk.toNat, chan.toNat, ord.code, scope.code, evict.toNat, bar.toNat, xbar.toNat, 0]⟩
  | .cmask cm => some ⟨8, pack [3, 5, 2, 5, 5, 5, 2, 3, 2, 2, 3, 3, 1, 5, 18] [3, 3, 2, 0, 0, 0, cm.toNat, 0, 0, 0, 0, 0, 0, 0, 0]⟩
  | .collRed vd va gk op mask => some ⟨8, pack [3, 5, 3, 3, 6, 6, 4, 5, 2, 27] [3, 4, 0, gk.toNat, vd.toNat, va.toNat, op.toNat, 0, mask.toNat, 0]⟩
  | .collGat vd va gk mask => some ⟨8, pack [3, 5, 3, 3, 6, 6, 4, 5, 2, 27] [3, 4, 1, gk.toNat, vd.toNat, va.toNat, 0, 0, mask.toNat, 0]⟩
  | .collSct vd va gk xroot mask => some ⟨8, pack [3, 5, 3, 3, 6, 6, 4, 5, 2, 27] [3, 4, 2, gk.toNat, vd.toNat, va.toNat, 0, xroot.toNat, mask.toNat, 0]⟩
  | .collBc vd va gk xroot mask => some ⟨8, pack [3, 5, 3, 3, 6, 6, 4, 5, 2, 27] [3, 4, 3, gk.toNat, vd.toNat, va.toNat, 0, xroot.toNat, mask.toNat, 0]⟩
  | .collA2a vd va gk mask => some ⟨8, pack [3, 5, 3, 3, 6, 6, 4, 5, 2, 27] [3, 4, 4, gk.toNat, vd.toNat, va.toNat, 0, 0, mask.toNat, 0]⟩
  | .gset gk xa => some ⟨8, pack [3, 5, 3, 3, 6, 6, 4, 5, 2, 27] [3, 4, 5, gk.toNat, (pack [5, 1] [xa.toNat, 0]), 0, 0, 0, 0, 0]⟩
  | .li rd imm => some ⟨8, pack [3, 5, 5, 1, 50] [3, 5, rd.toNat, 0, imm.toNat]⟩
  | .liHi rd imm => some ⟨8, pack [3, 5, 5, 1, 50] [3, 5, rd.toNat, 1, imm.toNat]⟩
  | .hAddi rd imm => some ⟨2, pack [1, 4, 11] [0, 0, (pack [5, 6] [rd.toNat, imm.toNat])]⟩
  | .hLi rd imm => some ⟨2, pack [1, 4, 11] [0, 1, (pack [5, 6] [rd.toNat, imm.toNat])]⟩
  | .hMv rd ra => some ⟨2, pack [1, 4, 11] [0, 2, (pack [5, 5, 1] [rd.toNat, ra.toNat, 0])]⟩
  | .hAdd rd ra => some ⟨2, pack [1, 4, 11] [0, 3, (pack [5, 5, 1] [rd.toNat, ra.toNat, 0])]⟩
  | .hSub rd ra => some ⟨2, pack [1, 4, 11] [0, 4, (pack [5, 5, 1] [rd.toNat, ra.toNat, 0])]⟩
  | .hLdD rd rb imm => some ⟨2, pack [1, 4, 11] [0, 5, (pack [5, 5, 1] [rd.toNat, rb.toNat, imm.toNat])]⟩
  | .hStD rs rb imm => some ⟨2, pack [1, 4, 11] [0, 6, (pack [5, 5, 1] [rs.toNat, rb.toNat, imm.toNat])]⟩
  | .hLdW rd rb imm => some ⟨2, pack [1, 4, 11] [0, 7, (pack [5, 5, 1] [rd.toNat, rb.toNat, imm.toNat])]⟩
  | .hStW rs rb imm => some ⟨2, pack [1, 4, 11] [0, 8, (pack [5, 5, 1] [rs.toNat, rb.toNat, imm.toNat])]⟩
  | .hBeqz ra off => some ⟨2, pack [1, 4, 11] [0, 9, (pack [5, 6] [ra.toNat, off.toNat])]⟩
  | .hBnez ra off => some ⟨2, pack [1, 4, 11] [0, 10, (pack [5, 6] [ra.toNat, off.toNat])]⟩
  | .hJ off => some ⟨2, pack [1, 4, 11] [0, 11, (pack [11] [off.toNat])]⟩
  | .hLoopnext off => some ⟨2, pack [1, 4, 11] [0, 12, (pack [11] [off.toNat])]⟩
  | .hVadd vd va => some ⟨2, pack [1, 4, 11] [0, 13, (pack [5, 5, 1] [vd.toNat, va.toNat, 0])]⟩
  | .hNop => some ⟨2, pack [1, 4, 11] [0, 14, (pack [11] [0])]⟩
  | .hBrk imm => some ⟨2, pack [1, 4, 11] [0, 15, (pack [10, 1] [imm.toNat, 0])]⟩
  | .bwphaseWrite _ _ => none
  | .hartExitComplete _ => none
  | .barWaitComplete _ => none
  | .tkwaitComplete _ => none
  | .matrixComplete _ _ => none
  | .copyChunk _ _ _ => none
  | .copyTransferFinish _ _ => none
  | .collectiveComplete _ => none
  | .takeTrap _ => none
  | .faultRecordWrite _ => none
  | .faultQueueHeadWrite _ _ => none
  | .registerPoison _ _ => none
  | .contextKill _ _ _ => none
  | .dispatchDecision _ => none
  | .preempt _ => none
  | .contextSaveEnd _ => none
  | .hostLaunch _ _ => none
  | .taskEnd _ _ => none
  | .completionRecordWrite _ => none
  | .cqheadWrite _ _ => none
  | .hostKill _ _ => none
  | .hostShootdown _ _ => none
  | .responderShootdown _ => none
  | .shootdownComplete _ => none
  | .pteInsert _ _ _ _ => none
  | .pteRemove _ _ _ _ => none
  | .migrationStart _ _ _ _ => none
  | .migrationLineCopy _ _ => none
  | .migrationSwitch _ _ => none
  | .migrationEnd _ _ => none
  | .linePrefetch _ _ => none
  | .lineWriteback _ => none
  | .bankIdleStandby _ => none
  | .bankIdleRetention _ => none
  | .bankWake _ => none
  | .bankPowerOff _ => none
  | .bankWakeForAllocation _ => none
  | .phaseAcknowledge _ => none
  | .phaseWithdraw _ => none
  | .thermalEmergency => none
  | .bankRetireRequest _ => none
  | .remappingStep _ => none
  | .segmodeWrite _ _ _ => none
  | .segmentModeChangeComplete _ _ => none
  | .partitionEnable _ _ => none
  | .columnRemove _ _ => none
  | .columnAdd _ _ => none
  | .columnDrainComplete _ _ => none
  | .channelDrop _ _ => none
  | .channelAdd _ _ => none
  | .shareWrite _ _ _ => none
  | .configRegisterWrite _ _ _ _ => none
  | .hostBar2Access _ _ _ => none
  | .tokenBucketRefill _ _ => none
  | .powerThrottle _ => none
  | .blufoldDLinkFailure _ => none
  | .flitReplayRequest _ _ => none
  | .portDown _ => none
  | .portUp _ => none
  | .readRequest _ => none
  | .readResponse _ => none
  | .write _ => none
  | .writeAcknowledgement _ => none
  | .atomic _ => none
  | .atomicResponse _ => none
  | .collectiveContribution _ _ => none
  | .collectiveResult _ => none
  | .linkControl _ => none
  | .requestResend _ => none
  | .compressorOn _ => none
  | .compressorOff _ => none
  | .refresh _ => none
  | .refreshManagement _ => none
  | .emberQuiesce _ => none
  | .emberDemandPreempt _ => none
  | .emberLaneFailure _ _ _ => none
  | .spareLaneRemap _ _ => none
  | .deviceReset => none
  | .imageVerify _ _ _ => none
  | .recoveryWindowWrite _ _ => none
  | .recgo _ => none
  | .qgo _ => none
  | .quoteRequest _ => none
  | .quoteSign => none
  | .stewardWatchdogExpiry _ => none
  | .deviceFatalError _ _ _ => none
  | .dumpComplete _ => none
  | .dumpRelease _ => none
  | .hotReset => none
  | .uncorrectableMemoryError _ _ => none
  | .powerFailure => none
  | .coreClockCycle _ => none
  | .dirtySectorWriteback _ _ => none
  | .blufoldDFlitRetry _ => none
  | .imageFetchFailure => none

/-- The words of a well-formed instruction; nothing (length 0) for a step of another agent. -/
def encode (i : Instr) : Code := (encode? i).getD ⟨0, 0⟩

/-- The instruction bits that ILL, TAG and their like record in EREC1 (R58). -/
def Instr.bits (i : Instr) : Word := .ofNat 64 (encode i).bits

/-- The bytes of the words, in memory order (R56). -/
def Code.bytes (c : Code) : List Byte := leBytes c.len c.bits

/-- What the decoder reads from an instruction whose `nbits` low bits are `w`, the bits above them 0, laid out as
parcels in memory order. -/
noncomputable def decodeTableWord (nbits w : Nat) : Option Instr :=
  match decode (leBytes 8 (w % 2 ^ nbits)) with
  | .ok (i, _) => some i
  | .error _ => none

end Sys2Proof
end

