-- ==== Sys2Proof/Machine/Ops.lean ====
section
/-! DEFINITION. The operations every instruction of a hart shares: scalar registers (R17), taking a trap (R315, R316),
returning from one (R99), retiring (R30 `INSTRET`). -/

namespace Sys2Proof.Machine

/-- What a step answers. -/
abbrev Out := Host.Outcome State Fault Refusal

/-! ## Cause codes (R316) -/

/-- `ILL` -/
def cILL : Nat := 0x01
/-- `TAG` -/
def cTAG : Nat := 0x02
/-- `DOM` -/
def cDOM : Nat := 0x03
/-- `ALIGN` -/
def cALIGN : Nat := 0x04
/-- `BOUND` -/
def cBOUND : Nat := 0x05
/-- `RIGHT` -/
def cRIGHT : Nat := 0x06
/-- `CLASS` -/
def cCLASS : Nat := 0x07
/-- `PAGE` -/
def cPAGE : Nat := 0x08
/-- `COPY` -/
def cCOPY : Nat := 0x0A
/-- `POISON` -/
def cPOISON : Nat := 0x0B
/-- `BAR` -/
def cBAR : Nat := 0x0C
/-- `SVC` -/
def cSVC : Nat := 0x0D
/-- `BRK` -/
def cBRK : Nat := 0x0E
/-- `PRIV` -/
def cPRIV : Nat := 0x0F
/-- `GROUP` -/
def cGROUP : Nat := 0x10
/-- `ACC` -/
def cACC : Nat := 0x11
/-- `MEM` -/
def cMEM : Nat := 0x12

/-- The record of a trap, before it reaches the registers (R316, R317, R31). -/
structure Trap where
  cause : Nat
  erec1 : Nat
  sub : Nat := 0
  wr : Bool := false
  ndim : Nat := 0
  i0 : Nat := 0
  i1 : Nat := 0
  i2 : Nat := 0
  async : Bool := false
  fatal : Bool := false
  chunk : Nat := 0
  ipc : Nat := 0
  deriving DecidableEq, Repr

/-- `ECAUSE` of a record (R317). -/
def Trap.ecause (t : Trap) : Word := BitVec.ofNat 64 (t.sub * 2 ^ 8 + t.cause)

/-- `EREC0` of a record (R31). -/
def Trap.erec0 (t : Trap) : Word :=
  BitVec.ofNat 64 (bit t.wr * 2 ^ 12 + t.ndim * 2 ^ 10 + bit t.fatal * 2 ^ 9 + bit t.async * 2 ^ 8 + t.cause)

/-- `EREC2` of a record (R31). -/
def Trap.erec2 (t : Trap) : Word :=
  BitVec.ofNat 64 (t.i2 % 2 ^ 16 * 2 ^ 32 + t.i1 % 2 ^ 16 * 2 ^ 16 + t.i0 % 2 ^ 16)

/-- `EREC3` of a record (R31). -/
def Trap.erec3 (t : Trap) : Word := BitVec.ofNat 64 (t.chunk % 2 ^ 16 * 2 ^ 48 + t.ipc % 2 ^ 40)

/-- The record registers filled from a trap at `pc` (R315 step 3, R316). -/
def recordTrap (t : Trap) (pc : Word) (c : Csrs) : Csrs :=
  { c with
    epc := pc
    ecause := t.ecause
    erec0 := t.erec0
    erec1 := BitVec.ofNat 64 t.erec1
    erec2 := t.erec2
    erec3 := t.erec3 }

/-- The state with the running context replaced. -/
def State.setCur (s : State) (h : Hart) : State := { s with cur := h }

/-- The request numbers from which on requests belong to copy transfers (DESIGN CHOICE, log entry 25). -/
def copySlot : Nat := 2 ^ 40

/-- The answers that outlive an instruction: those of the copy transfers. -/
def keepAnswers (l : List Answer) : List Answer := l.filter fun a => decide (copySlot ≤ a.slot)

/-- Taking a trap at the instruction of `len` bytes at the PC (R315 steps 1 and 3): the record goes to `EPC`,
`ECAUSE` and `EREC0`-`EREC3`, and the context stops for its save. The PC keeps naming the instruction. TAKE_TRAP and
the steps after it drain, save and report the context. `exitReg` is the operand of a consuming `exit` (R97). -/
def takeTrapWith (t : Trap) (len : Nat) (exitReg : Option (BitVec 5)) (s : State) : State :=
  s.setCur { s.cur with
    status := .stopping .trap
    csr := recordTrap t s.cur.pc s.cur.csr
    request := none
    answers := keepAnswers s.cur.answers
    held := none
    woken := []
    skipLen := len
    skipExit := exitReg }

/-- Taking a trap (R315). -/
def takeTrap (t : Trap) (len : Nat) (s : State) : State := takeTrapWith t len none s

/-- The trap of an `eret` whose `EPC` names another buffer (R99): taken as any other, but the record stays as it was. -/
def takeTrapUnrecorded (t : Trap) (len : Nat) (s : State) : State :=
  let s1 := takeTrap t len s
  s1.setCur { s1.cur with csr := s.cur.csr }

/-- Retiring an instruction of `len` bytes: the PC moves on (R56), and `INSTRET` of the core counts it (R30). -/
def retire (len : Nat) (s : State) : State :=
  let c := s.cur.core.toNat
  { s with
    cur := { s.cur with pc := s.cur.pc + BitVec.ofNat 64 len, answers := keepAnswers s.cur.answers }
    cores := tset .reset s.cores c { s.core c with instret := (s.core c).instret + 1 } }

/-- Retiring a control transfer to `pc` (R89, R90). -/
def retireTo (pc : Word) (s : State) : State :=
  let c := s.cur.core.toNat
  { s with
    cur := { s.cur with pc := pc, answers := keepAnswers s.cur.answers }
    cores := tset .reset s.cores c { s.core c with instret := (s.core c).instret + 1 } }

/-- An instruction of `len` bytes whose checks answer `chk`: a failed check traps and leaves `s` as it was otherwise
(R314), else `s'` retires. -/
def finish (len : Nat) (chk : Option Trap) (s s' : State) : Out :=
  match chk with
  | some t => .next (takeTrap t len s)
  | none => .next (retire len s')

/-- A step of the device at a unit: one that the module does not have stops the step. -/
def atUnit (ok : Bool) (s : State) : Out := if ok then .next s else .fault .noSuchUnit

/-- Whether a partition exists (R344). -/
def isPart (part : Nat) : Bool := decide (part < 32)

/-- A PC whose bit 0 is 0 (R13). -/
def evenPc (a : Word) : Word := a &&& ~~~1

/-- The return from a trap (R99): the PC from `EPC`, and the record cleared. -/
def returnFromTrap (s : State) : State :=
  let h := s.cur
  retireTo (evenPc h.csr.epc) (s.setCur { h with csr := { h.csr with
    epc := 0, ecause := 0, erec0 := 0, erec1 := 0, erec2 := 0, erec3 := 0 } })

/-! ## Scalar registers (R17) -/

/-- A scalar register; `x0` reads as zero. -/
def Hart.readX (h : Hart) (r : BitVec 5) : Word := if r = 0 then 0 else h.x[r.toNat]'r.isLt

/-- A scalar register written; a write to `x0` is discarded, and a write replaces a poisoned word (R322). -/
def Hart.writeX (h : Hart) (r : BitVec 5) (v : Word) : Hart :=
  if r = 0 then h
  else { h with
    x := h.x.set r.toNat v r.isLt
    xPoison := h.xPoison &&& ~~~(1#32 <<< r.toNat) }

/-- A scalar register of the running context. -/
def State.readX (s : State) (r : BitVec 5) : Word := s.cur.readX r
/-- A scalar register of the running context written. -/
def State.writeX (s : State) (r : BitVec 5) (v : Word) : State := s.setCur (s.cur.writeX r v)

/-- `EREC1` of a `POISON` trap (R322). -/
def poisonRec (kind entry reg word : Nat) : Nat := kind * 2 ^ 30 + entry * 2 ^ 16 + reg * 2 ^ 8 + word

/-- Whether a scalar register is poisoned; `x0` never is. -/
def Hart.xPoisoned (h : Hart) (r : BitVec 5) : Bool := r ≠ 0 && h.xPoison.getLsbD r.toNat

/-- The trap of an instruction that reads these scalar registers (R322): the lowest poisoned one. -/
def Hart.scalarPoison (h : Hart) (rs : List (BitVec 5)) : Option Trap :=
  match (rs.filter h.xPoisoned).map BitVec.toNat with
  | [] => none
  | r :: rs => some { cause := cPOISON, erec1 := poisonRec 2 0 (rs.foldl min r) 0 }

/-! ## Traps of the encoding and of privilege -/

/-- `ILL` with the instruction bits (R58). -/
def trapILL (bits : Nat) : Trap := { cause := cILL, erec1 := bits }
/-- `TAG` with the instruction bits (R316). -/
def trapTAG (bits : Nat) : Trap := { cause := cTAG, erec1 := bits }
/-- `PRIV` with the instruction bits (R316). -/
def trapPRIV (bits : Nat) : Trap := { cause := cPRIV, erec1 := bits }
/-- `ACC` with the instruction bits (R316). -/
def trapACC (bits : Nat) : Trap := { cause := cACC, erec1 := bits }

/-- The privilege check of a supervisor instruction (R16). -/
def Hart.privCheck (h : Hart) (bits : Nat) : Option Trap := if h.supv then none else some (trapPRIV bits)

/-- A trap when a check fails. -/
def failIf (c : Bool) (t : Trap) : Option Trap := if c then some t else none

/-- The first check of a list that fails (R59). -/
def firstTrap : List (Option Trap) → Option Trap
  | [] => none
  | some t :: _ => some t
  | none :: cs => firstTrap cs

/-- Flags ORed into FCSR (R40). -/
def Hart.addFlags (h : Hart) (f : Flags) : Hart := { h with csr := { h.csr with fcsr := orFlags h.csr.fcsr f } }

/-- The rounding that the hart has chosen (R31). -/
def Hart.fpMode (h : Hart) : FpMode := .ofFcsr h.csr.fcsr

/-- `VL` as a number. -/
def Hart.vl (h : Hart) : Nat := h.csr.vl.toNat

end Sys2Proof.Machine
end

