-- ==== Sys2Proof/Machine/HaarOps.lean ====
section
/-! DEFINITION. The Haar pair of each family (R54), the transforms of a column (R53), thresholds (R157), and the same
over the rows of an operand (R152, R155, R159). -/

namespace Sys2Proof.Machine

/-- A value halved exactly. -/
def Val.half : Val → Val
  | .num n m e => .num n m (if m = 0 then e else e - 1)
  | v => v

/-- `Pair` of R54: approximation and detail of the elements at the even and the odd position. -/
def haarPair (t : Tag) (md : FpMode) (x0 x1 : Elem) : (Elem × Elem) × Flags :=
  match tagFamily t with
  | .int =>
    let w := tagWidth t
    let d := wrap w (x0.int t - x1.int t)
    ((.raw (wrap w (x1.int t + signedOf w d / 2)), .raw d), 0)
  | _ =>
    let (s, f) := (x0.val t md.ftz).add md.rm (x1.val t md.ftz)
    let (u, g) := (x0.val t md.ftz).sub md.rm (x1.val t md.ftz)
    let (a, fa) := storeVal t md s.half
    let (d, fd) := storeVal t md u.half
    ((a, d), f ||| g ||| fa ||| fd)

/-- `Unpair` of R54: the elements at the even and the odd position. -/
def haarUnpair (t : Tag) (md : FpMode) (a d : Elem) : (Elem × Elem) × Flags :=
  match tagFamily t with
  | .int =>
    let w := tagWidth t
    let x1 := wrap w (a.int t - signedOf w d.bits / 2)
    ((.raw (wrap w (signedOf w d.bits + x1)), .raw x1), 0)
  | _ =>
    let (s, f) := (a.val t md.ftz).add md.rm (d.val t md.ftz)
    let (u, g) := (a.val t md.ftz).sub md.rm (d.val t md.ftz)
    let (x0, f0) := storeVal t md s
    let (x1, f1) := storeVal t md u
    ((x0, x1), f ||| g ||| f0 ||| f1)

/-- One level of the forward transform: approximations, details, flags. -/
def haarLevel (t : Tag) (md : FpMode) : List Elem → (List Elem × List Elem) × Flags
  | x0 :: x1 :: xs =>
    let ((a, d), f) := haarPair t md x0 x1
    let ((as, ds), g) := haarLevel t md xs
    ((a :: as, d :: ds), f ||| g)
  | _ => (([], []), 0)

/-- `HaarForward` of R53 on a column of `2^L` rows: coefficient-tree order. -/
def haarForward (t : Tag) (md : FpMode) : Nat → List Elem → List Elem × Flags
  | 0, c => (c, 0)
  | l + 1, c =>
    let ((as, ds), f) := haarLevel t md c
    let (cs, g) := haarForward t md l as
    (cs ++ ds, f ||| g)

/-- One level of the inverse: each approximation with its detail. -/
def haarUnlevel (t : Tag) (md : FpMode) : List Elem → List Elem → List Elem × Flags
  | a :: as, d :: ds =>
    let ((x0, x1), f) := haarUnpair t md a d
    let (xs, g) := haarUnlevel t md as ds
    (x0 :: x1 :: xs, f ||| g)
  | _, _ => ([], 0)

/-- The inverse transform of R53 on a column of `2^L` rows: position order. -/
def haarInverse (t : Tag) (md : FpMode) : Nat → List Elem → List Elem × Flags
  | 0, c => (c, 0)
  | l + 1, c =>
    let (as, f) := haarInverse t md l (c.take (2 ^ l))
    let (xs, g) := haarUnlevel t md as (c.drop (2 ^ l))
    (xs, f ||| g)

/-- The zero element of a type. -/
def zeroElem (t : Tag) : Elem := if tagBlock t then .exact (.num false 0 0) else .raw 0

/-- `Mag` of R157. -/
def haarMag (t : Tag) (x : Elem) : Val :=
  match tagFamily t with
  | .int => .num false (signedOf (tagWidth t) x.bits).natAbs 0
  | _ =>
    match x.val t false with
    | .num _ m e => .num false m e
    | .inf _ => .inf false
    | v => v

/-- Whether an element reads as zero (R162). -/
def elemZero (t : Tag) (x : Elem) : Bool :=
  match x.val t false with
  | .num _ m _ => m == 0
  | _ => false

/-- The level that row `k` of a Haar block of `l` levels belongs to; row 0 is the approximation (R53). -/
def rowLevel (l k : Nat) : Nat := l - k.log2

/-- `Threshold` of R157 on one column, and how many coefficients it zeroed. -/
def haarThreshold (t : Tag) (thr : Nat → Val) (l : Nat) (c : List Elem) : List Elem × Nat :=
  let out := c.zipIdx.map fun (x, k) =>
    if k ≠ 0 && (haarMag t x).lt (thr (rowLevel l k)) then (zeroElem t, bit !(elemZero t x)) else (x, 0)
  (out.map Prod.fst, (out.map Prod.snd).sum)

/-- What happens to a column: forward or inverse transform, threshold. -/
structure ColumnOp where
  forward : Bool
  inverse : Bool
  thr : Option (Nat → Val)

/-- One column worked: its new rows, flags and `ZCNT` count. -/
def ColumnOp.run (op : ColumnOp) (t : Tag) (md : FpMode) (l : Nat) (c : List Elem) : List Elem × Flags × Nat :=
  let (c1, f) := if op.forward then haarForward t md l c else if op.inverse then haarInverse t md l c else (c, 0)
  match op.thr with
  | none => (c1, f, 0)
  | some th => let (c2, n) := haarThreshold t th l c1; (c2, f, n)

/-- What working a Haar operand gives: its elements; for a block type also its rows as register units; the flags; the
`ZCNT` count. -/
structure Worked where
  elems : List Elem
  units : List Nat
  flags : Flags
  zeros : Nat
  deriving DecidableEq, Repr

/-- One Haar block of `32 * 2^l` elements worked column by column where `act` says so. An output row of a block type
is quantised once by R45 (R54, R165), and its elements are those of the quantised row; a block type is worked as a whole
(R152, R155). -/
def workHaarBlock (op : ColumnOp) (t : Tag) (md : FpMode) (l : Nat) (act : Nat → Bool) (seg : List Elem) : Worked :=
  let n := 2 ^ l
  let whole := tagBlock t && (List.range 32).any act
  let cols := (List.range 32).map fun ch =>
    let c := (List.range n).map fun k => seg.getD (32 * k + ch) (zeroElem t)
    if whole || (!tagBlock t && act ch) then op.run t md l c else (c, 0, 0)
  let f := cols.foldl (fun f c => f ||| c.2.1) 0
  let z := (cols.map fun c => c.2.2).sum
  let rows := (List.range n).map fun k => cols.map fun c => c.1.getD k (zeroElem t)
  if whole then
    let qs := rows.map fun r => quantiseBlock (tagSigned t) (tagWidth t) (r.map fun x => (x.val t md.ftz, true))
    let g := if op.forward || op.inverse then qs.foldl (fun g q => g ||| q.2) 0 else 0
    ⟨qs.flatMap fun q => q.1.vals.map .exact, qs.map fun q => rawOfBlock t q.1, f ||| g, z⟩
  else ⟨rows.flatten, if tagBlock t then List.replicate n (zeroUnit t) else [], f, z⟩

/-- The Haar blocks of an operand, of `xs` from element 0; block `h` is worked with `act h`. -/
def workHaar (op : ColumnOp) (t : Tag) (md : FpMode) (l : Nat) (act : Nat → Nat → Bool) :
    Nat → Nat → List Elem → Worked
  | 0, _, _ => ⟨[], [], 0, 0⟩
  | k + 1, h, xs =>
    let size := 32 * 2 ^ l
    let a := workHaarBlock op t md l (act h) (xs.take size)
    let b := workHaar op t md l act k (h + 1) (xs.drop size)
    ⟨a.elems ++ b.elems, a.units ++ b.units, a.flags ||| b.flags, a.zeros + b.zeros⟩

/-- The element groups that `n` elements of a group occupy (R155). -/
def elementGroups (t : Tag) (n : Nat) : Nat :=
  let up (a b : Nat) : Nat := (a + b - 1) / b
  if tagBlock t then
    let per := 512 / (tagWidth t + 1)
    let nb := up n 32
    ((List.range (up nb per)).map fun r => up (min per (nb - r * per) * (tagWidth t + 1)) 32).sum
  else up (n * tagWidth t) 1024

end Sys2Proof.Machine
end

