-- ==== Sys2Proof/Machine/Operands.lean ====
section
/-! DEFINITION. Vector and mask operands: the checks of R19, the elements as R21 reads them, masks (R24, R105), poison
(R322), the result descriptor (R50, R125) and the write of a result (R105, R127). -/

namespace Sys2Proof.Machine

/-! ## Registers and groups -/

/-- Vector register `n`. -/
def Hart.vreg (h : Hart) (n : Nat) : VReg := h.v.getD n .reset

/-- The hart with vector register `n` replaced. -/
def Hart.setV (h : Hart) (n : Nat) (r : VReg) : Hart := { h with v := h.v.setIfInBounds n r }

/-- A vector operand: the base register with the tag, domain and group code of its descriptor (R19). -/
structure Opnd where
  base : Nat
  tag : Tag
  dom : Nat
  grp : Nat
  deriving DecidableEq, Repr

/-- The group size `G` (R18). -/
def Opnd.g (o : Opnd) : Nat := 2 ^ o.grp

/-- The operand that a register names (R19). -/
def Hart.opnd (h : Hart) (r : BitVec 6) : Opnd :=
  let d := (h.vreg r.toNat).desc
  ⟨r.toNat, d.tag, d.dom.toNat, d.grp.toNat⟩

/-- Whether a register agrees with an operand in `TAG`, `DOM` and `GRP`. -/
def Opnd.agrees (o : Opnd) (d : Desc) : Bool :=
  decide (d.tag = o.tag) && d.dom.toNat == o.dom && d.grp.toNat == o.grp

/-- The checks of R19 in their order, with `len` in the place of `VL`. -/
def Hart.opndCheck (h : Hart) (bits : Nat) (r : BitVec 6) (len : Nat) : Option Trap :=
  let o := h.opnd r
  firstTrap [
    failIf (o.base % o.g != 0) (trapILL bits),
    failIf (!(List.range o.g).all fun k => o.agrees (h.vreg (o.base + k)).desc) (trapTAG bits),
    failIf (decide (o.tag = .none)) (trapTAG bits),
    failIf (decide (o.g * tagCap o.tag < len)) (trapILL bits)]

/-- Units that one register holds. -/
def unitsPer (t : Tag) : Nat := tagCap t / unitLen t

/-- Unit `k` of a register as R21 reads it. -/
def VReg.unit (t : Tag) (r : VReg) (k : Nat) : Nat :=
  let n := r.desc.valen.toNat
  if tagBlock t then clipBlock t (getUnit t r.bits.toNat k) (n - 32 * k)
  else if k < n then getUnit t r.bits.toNat k else 0

/-- Unit `k` of an operand; beyond the group it reads as zero (R126). -/
def Hart.unit (h : Hart) (o : Opnd) (k : Nat) : Nat :=
  if k / unitsPer o.tag < o.g then
    (h.vreg (o.base + k / unitsPer o.tag)).unit o.tag (k % unitsPer o.tag)
  else zeroUnit o.tag

/-- The first `n` elements of an operand as they are stored. -/
def Hart.elems (h : Hart) (o : Opnd) (n : Nat) : List Elem :=
  if tagBlock o.tag then
    ((List.range ((n + 31) / 32)).flatMap fun b =>
      (blockOf o.tag (h.unit o b)).vals.map Elem.exact).take n
  else (List.range n).map fun i => .raw (h.unit o i)

/-- The valid length of a group: the sum of its members' `VALEN` (R137). -/
def Hart.validLen (h : Hart) (o : Opnd) : Nat :=
  ((List.range o.g).map fun k => (h.vreg (o.base + k)).desc.valen.toNat).sum

/-! ## Masks -/

/-- Mask register `n`; `m0` reads as all ones (R24). -/
def Hart.mask (h : Hart) (n : Nat) : BitVec 16384 := if n = 0 then BitVec.allOnes 16384 else (h.m.getD n .reset).bits

/-- Whether each element `i < n` is active under a mask selector (R105). -/
def Hart.active (h : Hart) (sel : BitVec 2) (n : Nat) : List Bool :=
  let m := h.mask sel.toNat
  (List.range n).map m.getLsbD

/-- A mask register with bits replaced; a 64-bit word written whole loses its poison (R322). `written` marks the
words written whole. -/
def Hart.setMask (h : Hart) (n : Nat) (b : BitVec 16384) (written : BitVec 256) : Hart :=
  if n = 0 then h
  else { h with m := h.m.setIfInBounds n ⟨b, (h.m.getD n .reset).poison &&& ~~~written⟩ }

/-- A mask result (R125): bit `i < n` from `res`, or kept (`MU`) or cleared (`MZ`) where `res` has none; bits from
`n` up kept (`TU`) or cleared (`TA`). -/
def Hart.writeMaskBits (h : Hart) (md : BitVec 3) (res : List (Option Bool)) : Hart :=
  let old := (h.m.getD md.toNat .reset).bits.toNat
  let n := res.length
  let tail := if h.csr.tp then 0 else old / 2 ^ n * 2 ^ n
  let kept (i : Nat) : Bool := !h.csr.mp && bitAt old i
  let low := (res.zipIdx).foldl (fun a (r, i) => a + bit (r.getD (kept i)) * 2 ^ i) 0
  let whole := (List.range 256).foldl (fun (w : BitVec 256) q =>
    let full := (List.range 64).all fun j =>
      match res[64 * q + j]? with
      | some r => r.isSome || h.csr.mp
      | none => h.csr.tp
    if full then w ||| (1#256 <<< q) else w) 0
  let clean := (h.m.getD md.toNat .reset).poison == 0
  h.setMask md.toNat (BitVec.ofNat 16384 (low + tail)) (if clean then 0 else whole)

/-! ## Poison (R322) -/

/-- A poisoned word that an instruction consumes: the element, and the word of the record. -/
structure PoisonHit where
  elem : Nat
  word : Nat
  erec1 : Nat
  deriving DecidableEq, Repr

/-- The poisoned words of unit `k` of an operand; a unit at or above the valid length reads as zero and takes none. -/
def Hart.unitPoison (h : Hart) (o : Opnd) (k : Nat) : List PoisonHit :=
  let r := o.base + k / unitsPer o.tag
  if k / unitsPer o.tag < o.g && k % unitsPer o.tag * unitLen o.tag < (h.vreg r).desc.valen.toNat then
    (unitWords o.tag (k % unitsPer o.tag)).filterMap fun w =>
      if (h.vreg r).poison.getLsbD w then some ⟨k * unitLen o.tag, w, poisonRec 0 0 r w⟩ else none
  else []

/-- Whether no register of an operand is poisoned. -/
def Hart.opndClean (h : Hart) (o : Opnd) : Bool := (List.range o.g).all fun k => (h.vreg (o.base + k)).poison == 0

/-- The poisoned words of the elements of an operand that are read; `read` says which of the first elements are. -/
def Hart.readPoison (h : Hart) (o : Opnd) (read : List Bool) : List PoisonHit :=
  if h.opndClean o then []
  else
    let units := (List.range ((read.length + unitLen o.tag - 1) / unitLen o.tag)).filter fun k =>
      ((read.drop (k * unitLen o.tag)).take (unitLen o.tag)).any id
    units.flatMap fun k =>
      (h.unitPoison o k).map fun p =>
        { p with elem := (((List.range (unitLen o.tag)).map (k * unitLen o.tag + ·)).find?
            fun i => read.getD i false).getD p.elem }

/-- The poisoned words of a mask that an instruction reads, below bit `n`. -/
def Hart.maskPoison (h : Hart) (m n : Nat) : List PoisonHit :=
  if m = 0 then []
  else
    let r := h.m.getD m .reset
    if r.poison == 0 then []
    else (List.range ((n + 63) / 64)).filterMap fun q =>
      if r.poison.getLsbD q then some ⟨64 * q, q, poisonRec 1 0 m q⟩ else none

/-- The poisoned words of the selected mask of an instruction over `n` elements. -/
def Hart.selPoison (h : Hart) (sel : BitVec 2) (n : Nat) : List PoisonHit := h.maskPoison sel.toNat n

/-- The trap of the consumed poisoned words: the lowest element, then the lowest word (R322). -/
def poisonTrap : List PoisonHit → Option Trap
  | [] => none
  | p :: ps =>
    let q := ps.foldl (fun a b => if b.elem < a.elem || (b.elem == a.elem && b.word < a.word) then b else a) p
    some { cause := cPOISON, erec1 := q.erec1, ndim := 1, i0 := q.elem }

/-! ## Results -/

/-- The checks of R50 on a destination: a group size exists and the register is aligned to it. -/
def destCheck (bits : Nat) (vd : BitVec 6) (t : Tag) (n : Nat) : Option Trap :=
  match groupFor t n with
  | none => some (trapILL bits)
  | some g => failIf (vd.toNat % 2 ^ g != 0) (trapILL bits)

/-- Whether the write of a result leaves the old contents of its group present (R50, R125). -/
def Hart.present (h : Hart) (o : Opnd) : Bool :=
  (List.range o.g).all fun k => o.agrees (h.vreg (o.base + k)).desc

/-- The new valid length of a group whose elements below `n` are written (R21). -/
def Hart.newLen (h : Hart) (o : Opnd) (n : Nat) : Nat :=
  if h.csr.tp then n else max (if h.present o then h.validLen o else 0) n

/-- Member `k` of a result group written. `units` holds for each unit of the member below the written length its new
contents and whether they hold kept elements, or none for a unit that keeps its contents (`MU`) or becomes zero
(`MZ`); a block that straddles the written length with no active element goes by the mask policy as a whole
(DESIGN CHOICE, log entry 83). Units between the old valid length and the new one that are not written become zero. A
poisoned word loses its mark when the write replaces a unit in it and no unit in it is kept, by `MU` or by `TU` (R322). -/
def writeMember (t : Tag) (present mz ta : Bool) (r : VReg) (d : Desc) (units : List (Option (Nat × Bool))) : VReg :=
  let old := if present then r else ⟨0, { r.desc with valen := 0 }, 0⟩
  let keep (k : Nat) : Nat := if present && !mz then old.unit t k else zeroUnit t
  let b1 := units.zipIdx.foldl (fun b (u, k) => putUnit t b k ((u.map Prod.fst).getD (keep k))) old.bits.toNat
  let lo := max units.length ((old.desc.valen.toNat + unitLen t - 1) / unitLen t)
  let hi := (d.valen.toNat + unitLen t - 1) / unitLen t
  let b2 := (List.range (hi - lo)).foldl (fun b k => putUnit t b (lo + k) (zeroUnit t)) b1
  let zeroed (k : Nat) : Bool := decide (lo ≤ k) && decide (k < hi)
  let kept (k : Nat) : Bool := present &&
    match units[k]? with
    | some none => !mz
    | some (some u) => u.2
    | none => !ta && !zeroed k
  let written (k : Nat) : Bool := (decide (k < units.length) || zeroed k) && !kept k
  let cleared (q : Nat) : Bool :=
    let ks := (List.range (unitsPer t)).filter fun k => (unitWords t k).contains q
    ks.any written && !ks.any kept
  let p := if r.poison == 0 then 0
    else (List.range 256).foldl (fun (p : BitVec 256) q =>
      if r.poison.getLsbD q && !cleared q then p ||| (1#256 <<< q) else p) 0
  ⟨BitVec.ofNat 16384 b2, d, p⟩

/-- The write of the units of a result with tag `t`, domain `dom` and group code `grp` (R21, R50, R105, R125): `units`
covers the first `n` elements. -/
def Hart.writeGroup (h : Hart) (vd : BitVec 6) (t : Tag) (dom grp n : Nat) (units : List (Option (Nat × Bool))) :
    Hart :=
  let o : Opnd := ⟨vd.toNat, t, dom, grp⟩
  let pres := h.present o
  let len := h.newLen o n
  let e := tagCap t
  let u := unitsPer t
  (List.range o.g).foldl (fun h' k =>
    let d : Desc := ⟨t, BitVec.ofNat 3 dom, BitVec.ofNat 2 grp, BitVec.ofNat 15 (min e (len - k * e)), true⟩
    h'.setV (o.base + k)
      (writeMember t pres h.csr.mp h.csr.tp (h.vreg (o.base + k)) d ((units.drop (k * u)).take u))) h

/-- The exact values that a block keeps in the search of R45: the kept elements under `MU` and `TU`, zero else. -/
def keptElem (h : Hart) (old : Option (List Val)) (n i : Nat) : Val :=
  if (if i < n then h.csr.mp else h.csr.tp) then .num false 0 0
  else
    match old with
    | some vs => vs.getD (i % 32) (.num false 0 0)
    | none => .num false 0 0

/-- The blocks of a result (R45, R127): a block with an active element is quantised with what it keeps; a block with
none is left to the write policy. -/
def Hart.resultBlocks (h : Hart) (o : Opnd) (n : Nat) (res : List (Option Elem)) :
    List (Option (Nat × Bool)) × Flags :=
  let pres := h.present o
  let bs := (List.range ((n + 31) / 32)).map fun b =>
    let seg := (res.drop (32 * b)).take 32
    if seg.all Option.isNone then (none, (0 : Flags))
    else
      let old := if pres then some (blockOf o.tag (h.unit o b)).vals else none
      let xs := (List.range 32).map fun j =>
        match (seg[j]?).join with
        | some x => (x.val o.tag false, true)
        | none => (keptElem h old n (32 * b + j), false)
      let (q, f) := quantiseBlock (tagSigned o.tag) (tagWidth o.tag) xs
      let keeps := (List.range 32).any fun j =>
        ((seg[j]?).join).isNone && (if 32 * b + j < n then !h.csr.mp else !h.csr.tp)
      (some (rawOfBlock o.tag q, keeps), f)
  (bs.map Prod.fst, bs.foldl (fun f b => f ||| b.2) 0)

/-- The write of an elementwise result over `n` elements (R50, R105, R125, R127); the flags of its quantisation are
raised. -/
def Hart.writeResult (h : Hart) (vd : BitVec 6) (t : Tag) (dom n : Nat) (res : List (Option Elem)) : Hart :=
  let grp := (groupFor t n).getD 0
  if tagBlock t then
    let (us, f) := h.resultBlocks ⟨vd.toNat, t, dom, grp⟩ n res
    (h.writeGroup vd t dom grp n us).addFlags f
  else h.writeGroup vd t dom grp n (res.map fun x => x.map fun e => (e.bits, false))

/-! ## Domains (R126, R154-R156) -/

/-- A `DOM` trap from register state (R156). -/
def trapDOM (h : Hart) (reason lvl dvd dvb dva : Nat) : Trap :=
  { cause := cDOM
    erec1 := reason * 2 ^ 28 + lvl * 2 ^ 25 + dvd * 2 ^ 22 + dvb * 2 ^ 19 + dva * 2 ^ 16 + h.vl }

/-- The domains of the operands of an instruction: `va`, `vb`, `vd` where it names and reads them. -/
structure Doms where
  va : Option Nat
  vb : Option Nat
  vd : Option Nat
  /-- a row or single-element `vb`, which the rules of R126 exempt and R156 records -/
  row : Nat := 0
  deriving DecidableEq, Repr

/-- A `DOM` trap that records these operands. -/
def Doms.trap (d : Doms) (h : Hart) (reason lvl : Nat) : Trap :=
  trapDOM h reason lvl (d.vd.getD 0) (d.vb.getD d.row) (d.va.getD 0)

/-- The domains that take part in the rules. -/
def Doms.list (d : Doms) : List Nat := [d.va, d.vb, d.vd].filterMap id

/-- The length rule of R152 for operands of `VL` elements: the first Haar operand that breaks it. -/
def Doms.lenCheck (d : Doms) (h : Hart) : Option Trap :=
  (d.list.find? fun l => l != 0 && h.vl % (32 * 2 ^ l) != 0).map (d.trap h 1)

/-- The checks of a class K instruction (R126, R154). -/
def Doms.keepCheck (d : Doms) (h : Hart) : Option Trap :=
  match d.list with
  | [] => none
  | l :: ls => if ls.all (· == l) then d.lenCheck h else some (d.trap h 2 0)

/-- The common domain of a class K instruction. -/
def Doms.keep (d : Doms) : Nat := d.list.headD 0

/-- Which columns of an operand of domain `l` hold an element that is read (R155). -/
def columnRead (read : List Bool) (l h ch : Nat) : Bool :=
  (List.range (2 ^ l)).any fun k => read.getD (32 * (2 ^ l * h + k) + ch) false

/-- The reconstruction of the first `n` elements of a Haar operand (R155); `n` is a multiple of the Haar block. -/
def Hart.reconstruct (h : Hart) (o : Opnd) (n : Nat) (read : List Bool) : Worked :=
  workHaar ⟨false, true, none⟩ o.tag h.fpMode o.dom (columnRead read o.dom) (n / (32 * 2 ^ o.dom)) 0 (h.elems o n)

/-- What an X instruction reads of an operand (R126, R155): the elements below `n`, reconstructed when the operand is
Haar, with the flags and the `RCNT` count. -/
def Hart.readOperand (h : Hart) (o : Opnd) (n : Nat) (read : List Bool) : List Elem × Flags × Nat :=
  if o.dom = 0 then (h.elems o n, 0, 0)
  else
    let w := h.reconstruct o n read
    (w.elems, w.flags, elementGroups o.tag n)

/-- Every element of a column that R155 reconstructs is read; a block type is reconstructed as a whole. -/
def spreadRead (o : Opnd) (n : Nat) (read : List Bool) : List Bool :=
  if o.dom = 0 then read
  else
    let size := 32 * 2 ^ o.dom
    (List.range n).map fun i =>
      if tagBlock o.tag then (List.range 32).any (columnRead read o.dom (i / size))
      else columnRead read o.dom (i / size) (i % 32)

/-- The length of the first Haar block of a row or single-element operand (R126). -/
def Opnd.firstLen (o : Opnd) (n : Nat) : Nat := if o.dom = 0 then n else 32 * 2 ^ o.dom

/-- The hart with `RCNT` advanced (R155). -/
def Hart.addRcnt (h : Hart) (n : Nat) : Hart :=
  { h with csr := { h.csr with rcnt := h.csr.rcnt + BitVec.ofNat 64 n } }
/-- The hart with `ZCNT` advanced (R157). -/
def Hart.addZcnt (h : Hart) (n : Nat) : Hart :=
  { h with csr := { h.csr with zcnt := h.csr.zcnt + BitVec.ofNat 64 n } }

end Sys2Proof.Machine
end

