-- ==== Sys2Proof/Machine/Lanes.lean ====
section
/-! DEFINITION. The element functions of the computing instructions (R128-R134) and the one operation that applies
them to every active element of vector operands (R124-R127). -/

namespace Sys2Proof.Machine

/-- The element functions of R128, R131, R133 and R136. -/
inductive LaneOp where
  | add | sub | mul | min | max | abs | neg | fma | fms | fnma | div | sqrt
  | and | or | xor | not | sll | srl | sra | mulh | rcps | rsqs
  deriving DecidableEq, Repr

/-- The quotient of R81 and R129: towards zero, 0 for a zero divisor. -/
def quotInt (a b : Int) : Int := if b = 0 then 0 else a.tdiv b

/-- An integer result, before it is taken modulo `2^w` (R129, R131). -/
def laneInt (op : LaneOp) (w : Nat) (a b c : Int) : Int :=
  let ua : Nat := wrap w a
  let ub : Nat := wrap w b
  let k : Nat := ub % w
  match op with
  | .add => a + b
  | .sub => a - b
  | .mul => a * b
  | .min => if a ≤ b then a else b
  | .max => if a ≤ b then b else a
  | .abs => a.natAbs
  | .neg => -a
  | .fma => a * b + c
  | .fms => a * b - c
  | .fnma => -(a * b) + c
  | .div => quotInt a b
  | .and => (ua &&& ub : Nat)
  | .or => (ua ||| ub : Nat)
  | .xor => (ua ^^^ ub : Nat)
  | .not => (2 ^ w - 1 - ua : Nat)
  | .sll => (ua * 2 ^ k : Nat)
  | .srl => (ua / 2 ^ k : Nat)
  | .sra => signedOf w ua / (2 ^ k : Nat)
  | .mulh => a * b / (2 ^ w : Nat)
  | .sqrt | .rcps | .rsqs => 0

/-- `b·(2 − a·b)` and `b·(3 − a·b·b)/2`, exact (R133). -/
def laneRefine (rsq : Bool) (rm : Round) (a b : Val) : Val × Flags :=
  if a.isNan || b.isNan then (.nan false, flagIf (a.isSnan || b.isSnan) fNV)
  else
    let fixed := match b with
      | .num _ m _ => m == 0
      | _ => true
    if fixed then (b, 0)
    else
      let (p, f) := a.mul b
      let (p, f) := if rsq then let (q, g) := p.mul b; (q, f ||| g) else (p, f)
      let (t, g) := (Val.ofInt (if rsq then 3 else 2)).sub rm p
      let (r, k) := b.mul t
      (if rsq then r.half else r, f ||| g ||| k)

/-- The exact result on values (R128-R130, R133). -/
def laneVal (op : LaneOp) (rm : Round) (a b c : Val) : Val × Flags :=
  match op with
  | .add => a.add rm b
  | .sub => a.sub rm b
  | .mul => a.mul b
  | .min => Val.minmax false a b
  | .max => Val.minmax true a b
  | .abs =>
    (match a with
      | .num _ m e => .num false m e
      | .inf _ => .inf false
      | v => v, 0)
  | .neg => (a.negate, 0)
  | .fma => Val.fma rm false false a b c
  | .fms => Val.fma rm false true a b c
  | .fnma => Val.fma rm true false a b c
  | .div => a.div b
  | .sqrt => a.sqrt
  | .rcps => laneRefine false rm a b
  | .rsqs => laneRefine true rm a b
  | _ => (a, 0)

/-- One element of a result of type `t` (R128-R133). `vabs` and `vneg` of a float change the sign bit only (R130). -/
def laneElem (op : LaneOp) (t : Tag) (md : FpMode) (a b c : Elem) : Elem × Flags :=
  let w := tagWidth t
  match tagFamily t with
  | .float =>
    match op with
    | .abs => (.raw (a.bits % 2 ^ (w - 1)), 0)
    | .neg => (.raw (a.bits % 2 ^ (w - 1) + (1 - bitsAt a.bits (w - 1) 1) * 2 ^ (w - 1)), 0)
    | _ =>
      let (v, f) := laneVal op md.rm (a.val t md.ftz) (b.val t md.ftz) (c.val t md.ftz)
      let (x, g) := storeVal t md v
      (x, f ||| g)
  | .block =>
    let x := a.val t md.ftz
    let y := b.val t md.ftz
    -- a NaN of an `INV` block makes the result one, also in a minimum (R47, R127; DEDUCED, log entry 79)
    if (op = .min || op = .max) && (x.isNan || y.isNan) then (.exact (.nan false), 0)
    else
      let (v, f) := laneVal op md.rm x y (c.val t md.ftz)
      (.exact v, f)
  | .int =>
    match op with
    | .sll | .srl | .sra => (.raw (wrap w (laneInt op w (a.int t) b.bits 0)), 0)
    | _ => (.raw (wrap w (laneInt op w (a.int t) (b.int t) (c.int t))), 0)
  | _ => (.raw (wrap 1 (laneInt op 1 (a.bits % 2 : Nat) (b.bits % 2 : Nat) 0)), 0)

/-- The compares of R134. -/
inductive LaneCmp where
  | eq | lt | le
  deriving DecidableEq, Repr

/-- One compare of elements of type `t` (R134): `eq` is quiet, the others raise `NV` for a NaN. -/
def laneCmp (op : LaneCmp) (t : Tag) (md : FpMode) (a b : Elem) : Bool × Flags :=
  match (a.val t md.ftz).cmp? (b.val t md.ftz) with
  | none => (false, if op = .eq then 0 else fNV)
  | some o =>
    (match op with
      | .eq => o == .eq
      | .lt => o == .lt
      | .le => o == .lt || o == .eq, 0)

/-- The second operand of a computing instruction. -/
inductive Second where
  /-- none -/
  | none
  /-- a vector that meets `va` by R49 -/
  | vec (vb : BitVec 6)
  /-- a vector of shift amounts, exempt from R49 (R131) -/
  | amount (vb : BitVec 6)
  /-- a row operand (R132); `approx` says that only approximation rows of `va` take it (`vaddr`) -/
  | row (vb : BitVec 6) (approx : Bool)
  /-- a scalar (R136), first or second operand -/
  | scalar (xb : BitVec 5) (first : Bool)
  /-- a scalar shift amount (R136) -/
  | scalarAmount (xb : BitVec 5)
  deriving DecidableEq, Repr

/-- The vector that `Second` names. -/
def Second.reg? : Second → Option (BitVec 6)
  | .vec r | .amount r | .row r _ => some r
  | _ => Option.none

/-- The scalar that `Second` names. -/
def Second.scalars : Second → List (BitVec 5)
  | .scalar x _ | .scalarAmount x => [x]
  | _ => []

/-- An elementwise computation: the accepted families, whether it is of class K, its operands, and whether `vd` is
read (R126, R128). -/
structure LaneSpec where
  fams : List Family
  keep : Bool
  va : BitVec 6
  second : Second
  readsVd : Bool
  vd : BitVec 6
  mask : BitVec 2

/-- The type in which it computes (R49); none where it traps `TAG`. -/
def LaneSpec.type (p : LaneSpec) (h : Hart) : Option Tag :=
  let ta := (h.opnd p.va).tag
  let t1 := match p.second with
    | .vec r | .row r _ => promote ta (h.opnd r).tag
    | _ => some ta
  if p.readsVd then t1.bind fun t => promote t (h.opnd p.vd).tag else t1

/-- Whether the tags are accepted (R124 step 2): each operand's own, and their promotion. -/
def LaneSpec.tagsOk (p : LaneSpec) (h : Hart) : Bool :=
  let ok (t : Tag) : Bool := p.fams.contains (tagFamily t)
  (p.type h).isSome && ok (h.opnd p.va).tag && (!p.readsVd || ok (h.opnd p.vd).tag) &&
  (match p.second with
    | .vec r | .row r _ => ok (h.opnd r).tag
    | .amount r => tagFamily (h.opnd r).tag == .int
    | _ => true)

/-- Whether element `i` of an operand of domain `l` lies in an approximation row (R132). -/
def approxRow (l i : Nat) : Bool := i / 32 % 2 ^ l == 0

/-- Whether element `i` of the result takes the second operand (R132). -/
def LaneSpec.takes (p : LaneSpec) (h : Hart) (i : Nat) : Bool :=
  match p.second with
  | .row _ true => approxRow (h.opnd p.va).dom i
  | _ => true

/-- The domains that take part (R126, R132). -/
def LaneSpec.doms (p : LaneSpec) (h : Hart) : Doms where
  va := some (h.opnd p.va).dom
  vb := match p.second with
    | .vec r | .amount r => some (h.opnd r).dom
    | _ => none
  vd := if p.readsVd then some (h.opnd p.vd).dom else none
  row := match p.second with
    | .row r _ => (h.opnd r).dom
    | _ => 0

/-- The active elements (R105). -/
def LaneSpec.active (p : LaneSpec) (h : Hart) : List Bool := h.active p.mask h.vl

/-- A read of a vector operand: how many elements, which of them, and whether a Haar operand is reconstructed. -/
structure VecRead where
  o : Opnd
  n : Nat
  read : List Bool
  recon : Bool

/-- The rows of the elements that are read, as elements of the row operand (R132). -/
def rowRead (n : Nat) (act : List Bool) : List Bool :=
  (List.range n).map fun j =>
    decide (j < 32) && (act.zipIdx.any fun (a, i) => a && i % 32 == j)

/-- The vector operands in the order `va`, `vb`, `vd`. -/
def LaneSpec.reads (p : LaneSpec) (h : Hart) : List VecRead :=
  let act := p.active h
  let a : VecRead := ⟨h.opnd p.va, h.vl, act, !p.keep⟩
  let b : List VecRead := match p.second with
    | .vec r | .amount r => [⟨h.opnd r, h.vl, act, !p.keep⟩]
    | .row r _ =>
      let o := h.opnd r
      [⟨o, o.firstLen 32, rowRead (o.firstLen 32) (act.zipIdx.map fun (a, i) => a && p.takes h i), true⟩]
    | _ => []
  let d : List VecRead := if p.readsVd then [⟨h.opnd p.vd, h.vl, act, !p.keep⟩] else []
  a :: b ++ d

/-- What reads consume (R155, R322). -/
def Hart.readsPoison (h : Hart) (rs : List VecRead) : List PoisonHit :=
  rs.flatMap fun r => h.readPoison r.o (if r.recon then spreadRead r.o r.n r.read else r.read)

/-- The `RCNT` count of the reads: each distinct group once (R155). -/
def countReads : List Nat → List (Nat × Nat) → Nat
  | _, [] => 0
  | seen, (b, n) :: rs => (if seen.contains b then 0 else n) + countReads (if n = 0 then seen else b :: seen) rs

/-- The elements that the reads give, the flags of reconstruction and the `RCNT` count (R155). -/
def Hart.readVecs (h : Hart) (rs : List VecRead) : List (List Elem) × Flags × Nat :=
  let out := rs.map fun r => if r.recon then h.readOperand r.o r.n r.read else (h.elems r.o r.n, 0, 0)
  (out.map Prod.fst, out.foldl (fun f x => f ||| x.2.1) 0,
    countReads [] ((rs.zip out).map fun (r, x) => (r.o.base, x.2.2)))

/-- The checks of R124 step 1, the tag check, the destination check and the domain check, then poison. `dest` says
whether a vector is written. -/
def LaneSpec.check (p : LaneSpec) (bits : Nat) (dest : Bool) (h : Hart) : Option Trap :=
  firstTrap [
    h.opndCheck bits p.va h.vl,
    (match p.second with
      | .vec r | .amount r => h.opndCheck bits r h.vl
      | .row r _ => h.opndCheck bits r 32
      | _ => none),
    (if p.readsVd then h.opndCheck bits p.vd h.vl else none),
    failIf (!p.tagsOk h) (trapTAG bits),
    (if dest then (p.type h).bind fun t => destCheck bits p.vd t h.vl else none),
    (if p.keep then (p.doms h).keepCheck h else (p.doms h).lenCheck h),
    h.scalarPoison p.second.scalars,
    poisonTrap (h.selPoison p.mask h.vl ++ h.readsPoison (p.reads h))]

/-- A scalar operand as an element of the vector operand's type (R49, R136). -/
def Hart.scalarElem (h : Hart) (t : Tag) (x : BitVec 5) : Elem :=
  if tagBlock t then .exact (fmtF32.decode h.fpMode.ftz (bitsAt (h.readX x).toNat 0 32))
  else .raw (bitsAt (h.readX x).toNat 0 (tagWidth t))

/-- A function applied to every active element; inactive ones have no result, and only active ones raise flags
(R40, R105). -/
def laneMap {α : Type} (f : Nat → Elem → Elem → Elem → α × Flags) :
    Nat → List Bool → List Elem → List Elem → List Elem → List (Option α) × Flags
  | _, [], _, _, _ => ([], 0)
  | i, act :: acts, as, bs, cs =>
    let (rs, g) := laneMap f (i + 1) acts as.tail bs.tail cs.tail
    if act then
      let (r, f1) := f i (as.headD (.raw 0)) (bs.headD (.raw 0)) (cs.headD (.raw 0))
      (some r :: rs, f1 ||| g)
    else (none :: rs, g)

/-- The three operand lists of a computation, each with the tag of its elements. -/
structure LaneInput where
  a : Tag × List Elem
  b : Tag × List Elem
  c : Tag × List Elem
  flags : Flags
  rcnt : Nat

/-- The operands read (R124: as they stood before the instruction). A row operand is repeated for every row. -/
def LaneSpec.input (p : LaneSpec) (h : Hart) : LaneInput :=
  let (ls, f, rc) := h.readVecs (p.reads h)
  let ta := (h.opnd p.va).tag
  let as := ls.headD []
  let bs := ls.tail.headD []
  let cs := ls.getLastD []
  let c : Tag × List Elem := ((h.opnd p.vd).tag, if p.readsVd then cs else [])
  match p.second with
  | .none => ⟨(ta, as), (ta, []), c, f, rc⟩
  | .vec r => ⟨(ta, as), ((h.opnd r).tag, bs), c, f, rc⟩
  | .amount r => ⟨(ta, as), ((h.opnd r).tag, bs), c, f, rc⟩
  | .row r _ => ⟨(ta, as), ((h.opnd r).tag, (List.range h.vl).map fun i => bs.getD (i % 32) (.raw 0)), c, f, rc⟩
  | .scalar x first =>
    let s := List.replicate h.vl (h.scalarElem ta x)
    if first then ⟨(ta, s), (ta, as), c, f, rc⟩ else ⟨(ta, as), (ta, s), c, f, rc⟩
  | .scalarAmount x =>
    ⟨(ta, as), (ta, List.replicate h.vl (.raw (h.readX x).toNat)), c, f, rc⟩

/-- Whether the second operand is exempt from R49. -/
def Second.exempt : Second → Bool
  | .amount _ | .scalarAmount _ => true
  | _ => false

/-- The operands of one element converted to the type of the result (R49); `takes` says that it takes the second one. -/
def LaneSpec.convert (p : LaneSpec) (i : LaneInput) (t : Tag) (md : FpMode) (takes : Bool) (a b c : Elem) :
    (Elem × Elem × Elem) × Flags :=
  let (x, f) := convertElem i.a.1 t md a
  let (y, g) := if p.second = .none || p.second.exempt || !takes then (b, 0) else convertElem i.b.1 t md b
  let (z, k) := if p.readsVd then convertElem i.c.1 t md c else (c, 0)
  ((x, y, z), f ||| g ||| k)

/-- The computation with a vector result: every active element by `f`, which sees its index and type; the descriptor
by R50 and R125. -/
def LaneSpec.run (p : LaneSpec) (f : Nat → Tag → FpMode → Elem → Elem → Elem → Elem × Flags) (h : Hart) : Hart :=
  let t := (p.type h).getD .none
  let md := h.fpMode
  let i := p.input h
  let (res, g) := laneMap (fun k a b c =>
    let ((x, y, z), g) := p.convert i t md (p.takes h k) a b c
    let (r, g') := f k t md x y z
    (r, g ||| g')) 0 (p.active h) i.a.2 i.b.2 i.c.2
  let dom := if p.keep then (p.doms h).keep else 0
  ((h.writeResult p.vd t dom h.vl res).addFlags (i.flags ||| g)).addRcnt i.rcnt

/-- The computation with a mask result (R125, R134). A conversion of unlike tags raises its flags, in `vcmp.eq` too
(DEDUCED, log entry 80). -/
def LaneSpec.runMask (p : LaneSpec) (op : LaneCmp) (md : BitVec 3) (h : Hart) : Hart :=
  let t := (p.type h).getD .none
  let fm := h.fpMode
  let i := p.input h
  let (res, g) := laneMap (fun _ a b c =>
    let ((x, y, _), g) := p.convert i t fm true a b c
    let (r, g') := laneCmp op t fm x y
    (r, g ||| g')) 0 (p.active h) i.a.2 i.b.2 i.c.2
  ((h.writeMaskBits md res).addFlags (i.flags ||| g)).addRcnt i.rcnt

/-- An elementwise instruction with a vector result. -/
def laneExec (bits len : Nat) (p : LaneSpec) (op : LaneOp) (s : State) : Out :=
  finish len (p.check bits true s.cur) s
    (s.setCur (p.run (fun _ t md a b c => laneElem op t md a b c) s.cur))

end Sys2Proof.Machine
end

