-- ==== Sys2Proof/Machine/Memory.lean ====
section
/-! DEFINITION. The memory port: buffers and their checks (R85, R112, R253-R258, R370), placement (R259), translation
(R284-R288), the bytes at a place (R271-R273, R283) and what an access counts (R261, R264). -/

namespace Sys2Proof.Machine

/-- The base of a partition's initial buffer table (R370). -/
def initBase : Word := 0x0000_0400_0000_0000

/-! ## Channels, tables, frames, banks (R256, R284) -/

/-- The channels of the DRAM tier. -/
def dramMask : BitVec 448 := BitVec.ofNat 448 (2 ^ 64 - 1)
/-- The SRAM-tier segments. -/
def sramMask : BitVec 448 := BitVec.ofNat 448 ((2 ^ 128 - 1) * 2 ^ 64)
/-- The HBM4E pseudo-channels. -/
def hbmMask : BitVec 448 := BitVec.ofNat 448 ((2 ^ 256 - 1) * 2 ^ 192)

/-- The page table of the memory that channel `ch` belongs to (R284). -/
def chanTable (ch : Nat) : Nat := if ch < 64 then ch / 16 else if ch < 192 then 4 + (ch - 64) / 32 else 8 + (ch - 192) / 32

/-- The home stack of the memory of a table (R260). -/
def tableStack (t : Nat) : Nat := if t < 4 then t else if t < 8 then t - 4 else (t - 8) / 2

/-- The channels that lie on compute stack `s` (R260). -/
def stackMask (s : Nat) : BitVec 448 :=
  BitVec.ofNat 448 ((2 ^ 16 - 1) * 2 ^ (16 * s) + (2 ^ 32 - 1) * 2 ^ (64 + 32 * s) + (2 ^ 64 - 1) * 2 ^ (192 + 64 * s))

/-- The frames of a table (R284). -/
def tableFrames (t : Nat) : Nat := if t < 4 then 1572864 else if t < 8 then 32768 else if t < 16 then 786432 else 0

/-- Frames per bank of a table's memory (R256). -/
def bankFrames (t : Nat) : Nat := if t < 4 then 1536 else if t < 8 then 64 else 512

/-- The bank of a frame, numbered as the Almanac view orders them (R268). -/
def frameBank (t f : Nat) : Nat :=
  if t < 4 then t * 1024 + f / 1536 else if t < 8 then 4096 + (t - 4) * 512 + f / 64
  else 6144 + (t - 8) * 1536 + f / 512

/-- The banks of the package (R256). -/
def bankCount : Nat := 18432

/-- The channel of a bank (R268). -/
def bankChan (b : Nat) : Nat :=
  if b < 4096 then b / 64 else if b < 6144 then 64 + (b - 4096) / 16 else 192 + (b - 6144) / 48

/-- A byte of package memory: table, frame, byte in the frame. -/
def physAddr (t f o : Nat) : Nat := t * 2 ^ 37 + f * 2 ^ 16 + o
/-- The table of a physical address. -/
def paTable (pa : Nat) : Nat := pa / 2 ^ 37
/-- The frame of a physical address. -/
def paFrame (pa : Nat) : Nat := pa / 2 ^ 16 % 2 ^ 21
/-- The bank of a physical address. -/
def paBank (pa : Nat) : Nat := frameBank (paTable pa) (paFrame pa)

/-! ## Page table entries (R285) -/

/-- `VAL` -/
def Pte.val (e : Pte) : Bool := bitAt e.dw0.toNat 0
/-- `D` -/
def Pte.d (e : Pte) : Bool := bitAt e.dw0.toNat 1
/-- `A` -/
def Pte.a (e : Pte) : Bool := bitAt e.dw0.toNat 2
/-- `PART` -/
def Pte.part (e : Pte) : Nat := bitsAt e.dw0.toNat 3 5
/-- `BUF` -/
def Pte.buf (e : Pte) : Nat := bitsAt e.dw0.toNat 8 24
/-- `KCTX` -/
def Pte.kctx (e : Pte) : Nat := bitsAt e.dw0.toNat 32 32
/-- `CH` -/
def Pte.ch (e : Pte) : Nat := bitsAt e.dw1.toNat 31 9
/-- `VPN` -/
def Pte.vpn (e : Pte) : Nat := bitsAt e.dw1.toNat 40 24

/-- The key of a translation (R285). -/
structure PageKey where
  part : Nat
  owner : Nat
  buf : Nat
  ch : Nat
  cp : Nat
  deriving DecidableEq, Repr

/-- Whether an entry is valid and carries a key (R285). -/
def Pte.has (e : Pte) (k : PageKey) : Bool :=
  e.val && e.part == k.part && e.kctx == k.owner && e.buf == k.buf && e.ch == k.ch && e.vpn == k.cp

/-- The frame that a walk finds (R288 step 3). -/
def State.walk (s : State) (k : PageKey) : Option Nat :=
  (s.ptes.find? fun p => p.1 / 2 ^ 21 == chanTable k.ch && p.2.has k).map fun p => p.1 % 2 ^ 21

/-- A page table entry with those of `A` and `D` set that a translation sets (R288). -/
def Pte.touch (e : Pte) (a d : Bool) : Pte := { e with dw0 := e.dw0 ||| (if a then 4 else 0) ||| (if d then 2 else 0) }

/-- The place of a line during a migration (R292, R293): the destination frame, for lines already copied. -/
def State.migrated (s : State) (t f line : Nat) : Nat :=
  match s.migrations.find? fun m => m.t == t && m.src == f with
  | some m => if m.switched || line < bitsAt (s.pte t f).dw2.toNat 50 9 then m.dst else f
  | none => f

/-! ## Bytes -/

/-- The code of the granule of a physical address (R279). -/
def State.codeOf (s : State) (pa : Nat) : Nat :=
  bitsAt (s.frame (paTable pa) (paFrame pa)).codes.toNat (4 * (pa % 2 ^ 16 / 128)) 4

/-- The 128 bytes that a granule's banks stand for: its beats lie at the start of its slot (R278, R280). -/
def State.granule (s : State) (g : Nat) : List Byte :=
  let c := s.codeOf (128 * g)
  expandBeats c (Memory.read s.mem (128 * g) (32 * codeBeats c))

/-- A byte as the banks hold it: plain, or in the beats of its granule (R278). -/
def State.bankByte (s : State) (pa : Nat) : Byte :=
  if s.codeOf pa = 0 then Memory.get s.mem pa else (s.granule (pa / 128)).getD (pa % 128) 0

/-- A byte at its home (R273). -/
def State.homeByte (s : State) (pa : Nat) : Byte := (overlayGet s.home pa).getD (s.bankByte pa)

/-- A byte as a hart of a core reads it: its L1, then the home (R272, R273). -/
def State.coreByte (s : State) (core pa : Nat) : Byte := (overlayGet (s.core core).l1 pa).getD (s.homeByte pa)

/-- Consecutive bytes as a hart of a core reads them. -/
def State.coreBytes (s : State) (core pa : Nat) : Nat → List Byte
  | 0 => []
  | n + 1 => s.coreByte core pa :: s.coreBytes core (pa + 1) n

/-- The first of `n` bytes that an access would take from a poisoned granule (R283, R323). -/
def State.poisonedByte (s : State) (core pa n : Nat) : Option Nat :=
  if s.poison.isEmpty then none
  else ((List.range n).map (pa + ·)).find? fun a =>
    s.poison.contains (a / 128) && (overlayGet (s.core core).l1 a).isNone && (overlayGet s.home a).isNone

/-- The first of `n` bytes that a load of a core would take from a poisoned granule, or whose sector it would fill from one
(R272, R323): a byte in the core's L1 needs no fill, and another needs every byte of its sector. -/
def State.poisonedFill (s : State) (core pa n : Nat) : Option Nat :=
  if s.poison.isEmpty then none
  else ((List.range n).map (pa + ·)).find? fun a =>
    s.poison.contains (a / 128) && (overlayGet (s.core core).l1 a).isNone &&
      (List.range 64).any fun j =>
        (overlayGet (s.core core).l1 (a / 64 * 64 + j)).isNone && (overlayGet s.home (a / 64 * 64 + j)).isNone

/-- A byte written in a core's L1 (R272). -/
def State.writeL1 (s : State) (core pa : Nat) (b : Byte) : State :=
  s.setCore core { s.core core with l1 := overlaySet (s.core core).l1 pa b }

/-- A byte written at its home; the core's own L1 copy goes (R273). -/
def State.writeHome (s : State) (core pa : Nat) (b : Byte) : State :=
  { s.setCore core { s.core core with l1 := overlayDrop (s.core core).l1 pa (pa + 1) } with
    home := overlaySet s.home pa b }

/-- Bytes written from `pa` up, in L1 or at the home. -/
def State.writeBytes (s : State) (atHome : Bool) (core pa : Nat) : List Byte → State
  | [] => s
  | b :: bs => (if atHome then s.writeHome core pa b else s.writeL1 core pa b).writeBytes atHome core (pa + 1) bs

/-- The dirty bytes of a core's L1 in `[lo, hi)` written to their home (R273). -/
def State.flushL1 (s : State) (core lo hi : Nat) : State :=
  let c := s.core core
  { s.setCore core { c with l1 := overlayDrop c.l1 lo hi } with
    home := (c.l1.filter fun x => lo ≤ x.1 && x.1 < hi).foldr (fun x o => overlaySet o x.1 x.2) s.home }

/-- Every dirty byte of a core's L1 written to its home (R273). -/
def State.flushCore (s : State) (core : Nat) : State :=
  let c := s.core core
  { s.setCore core { c with l1 := [] } with home := c.l1.foldr (fun x o => overlaySet o x.1 x.2) s.home }

/-- The 64-byte sectors of `[pa, pa + n)` flushed from a core's L1 (R273). -/
def State.flushSectors (s : State) (core pa n : Nat) : State :=
  if n = 0 then s else s.flushL1 core (pa / 64 * 64) ((pa + n - 1) / 64 * 64 + 64)

/-- The host memory bytes from `a` up. -/
def State.hostBytes (s : State) (a n : Nat) : List Byte := Memory.read s.host a n
/-- Host memory written from `a` up. -/
def State.hostWrite (s : State) (a : Nat) (bs : List Byte) : State := { s with host := Memory.write s.host a bs }

/-! ## Buffers (R253-R258) -/

/-- What a buffer table entry says (R254, R258). `rights` is read 8, write 4, execute 2, atomic 1. -/
structure BufInfo where
  len : Nat
  owner : Nat
  cls : Nat
  dom : Nat
  lc : Bool
  rights : Nat
  place : Nat
  gran : Nat
  chans : BitVec 448
  deriving DecidableEq, Repr

/-- The channels that a class may use (R257, R258): of the partition's, and HOME segments for `ACT`. -/
def Partition.classMask (p : Partition) (cls : Nat) : BitVec 448 :=
  p.chmap &&&
    (if cls = 1 then dramMask
    else if cls = 2 then sramMask &&& ~~~((p.segs.setWidth 448) <<< 64)
    else if cls = 3 then hbmMask
    else dramMask ||| hbmMask)

/-- A buffer table entry read; none when it is invalid (R255). -/
def BufEntry.info (e : BufEntry) : Option BufInfo :=
  let a := e.dw0.toNat
  let b := e.dw1.toNat
  let cls := bitsAt a 27 3
  let place := bitsAt b 15 3
  let gran := bitsAt b 6 4
  let dom := bitsAt a 24 3
  let empty : Bool :=
    if place = 0 then
      if cls = 2 then (List.range 4).any fun s => e.cset &&& stackMask s == 0 else e.cset == 0
    else e.cset &&& stackMask (place - 1) == 0
  if !bitAt a 31 || 4 < cls || 4 < place || 8 < gran || bitsAt b 22 42 != 0 || bitsAt b 10 5 != 0
      || (place != 0 && cls != 2) || (dom != 0 && cls != 2) || (cls == 2 && place == 0 && 4 < gran) || empty then none
  else some ⟨bitsAt a 0 24 * 2 ^ 16, bitsAt a 32 32, cls, dom, bitAt a 30, bitsAt b 18 4, place, gran, e.cset⟩

/-- The numbers of the channels in a set, rising (R258). -/
def chanList (m : BitVec 448) : List Nat := (List.range 448).filter m.getLsbD

/-- The home-die hash of a 4 KiB granule (R259). -/
def homeHash (g : Nat) : Nat := (List.range 14).foldl (fun h j => h ^^^ bitsAt g (2 * j) 2) 0

/-- The channel and channel offset of a buffer offset (R259). -/
def BufInfo.locate (b : BufInfo) (off : Nat) : Nat × Nat :=
  let g := 256 * 2 ^ b.gran
  let pick (l : List Nat) (o : Nat) : Nat × Nat :=
    let t := o / g
    (l.getD (t % l.length) 0, t / l.length * g + o % g)
  if b.cls = 2 then
    if b.place = 0 then
      let gi := off / 2 ^ 12 % 2 ^ 28
      pick (chanList (b.chans &&& stackMask (homeHash gi))) (gi / 4 * 4096 + off % 4096)
    else pick (chanList (b.chans &&& stackMask (b.place - 1))) off
  else pick (chanList b.chans) off

/-! ## The reserved views (R268, R287, R319) -/

/-- Whether the channel of a frame's bank belongs to a partition. -/
def State.ownsFrame (s : State) (part t f : Nat) : Bool :=
  (s.part part).chmap.getLsbD (bankChan (frameBank t f))

/-- A doubleword of an entry as a window shows it (R287); reserved bits read zero. -/
def State.windowRead (s : State) (part t f j : Nat) : Word :=
  if tableFrames t ≤ f || !s.ownsFrame part t f then 0
  else
    let e := s.pte t f
    if j = 0 then e.dw0
    else if j = 1 then BitVec.ofNat 64 (setBits e.dw1.toNat 0 31 0)
    else if j = 2 then BitVec.ofNat 64 (setBits e.dw2.toNat 21 29 0)
    else 0

/-- `PWR` of an Almanac word (R268). -/
def Power.code : Power → Nat
  | .act => 0
  | .stby => 1
  | .ret => 2
  | .off => 3

/-- The Almanac word of a bank as a partition sees it (R268). -/
def State.almanacWord (s : State) (part b : Nat) : Nat :=
  let k := s.bank b
  bit ((s.part part).chmap.getLsbD (bankChan b)) * 2 ^ 11 + bit k.pending * 2 ^ 12 + k.power.code * 2 ^ 13
    + bit (!k.retired) * 2 ^ 15 + k.frames % 2 ^ 16 * 2 ^ 16

/-- A byte of the Almanac view (R268). -/
def State.almanacByte (s : State) (part o : Nat) : Byte :=
  if o < 73728 then BitVec.ofNat 8 (bitsAt (s.almanacWord part (o / 4)) (8 * (o % 4)) 8)
  else if 0x1F000 ≤ o && o < 0x1F008 then BitVec.ofNat 8 (bitsAt s.generation.toNat (8 * (o - 0x1F000)) 8)
  else 0

/-- A doubleword of the fault queue view (R319). -/
def State.faultqRead (s : State) (part o : Nat) : Word :=
  let p := s.part part
  if o < 64 * 2 ^ p.fqlog then BitVec.ofNat 64 (leNat (s.hostBytes (p.fqbase.toNat + o) 8))
  else if o = 0x400000 then p.head.setWidth 64
  else if o = 0x400008 then p.tail.setWidth 64
  else 0

/-! ## The memory port's own reads (R253, R256, R370) -/

/-- A place of the partition's initial buffer table (R370). -/
def Partition.tableLoc (p : Partition) (off : Nat) : Option Nat :=
  (p.table.find? fun x => x.1 == off / 2 ^ 16).map fun x => physAddr x.2.1 x.2.2 (off % 2 ^ 16)

/-- A little-endian doubleword at a physical address, as a core reads it. -/
def State.coreDw (s : State) (core pa : Nat) : Nat := leNat (s.coreBytes core pa 8)

/-- Doubleword `j` of entry `idx` of the initial table; 0 beyond it (R253). -/
def State.initDw (s : State) (core part idx j : Nat) : Nat :=
  if idx < (s.part part).btcount then
    match (s.part part).tableLoc (32 * idx + 8 * j) with
    | some pa => s.coreDw core pa
    | none => 0
  else 0

/-- A buffer table entry from its doublewords: the reserved doublewords make it invalid when they are not 0. -/
def mkEntry (part : Nat) (base : Word) (idx : Nat) (d : Nat → Nat) (cset : BitVec 448) : BufEntry :=
  let ok := d 2 == 0 && d 3 == 0
  ⟨part, base, idx, if ok then BitVec.ofNat 64 (d 0) else 0, BitVec.ofNat 64 (d 1), cset⟩

/-- The place of an offset of a buffer of the initial table, found by a walk. -/
def State.entryLoc (s : State) (part idx : Nat) (e : BufEntry) (off : Nat) : Option Nat :=
  match e.info with
  | none => none
  | some b =>
    if off < b.len then
      let (ch, coff) := b.locate off
      (s.walk ⟨part, b.owner, idx, ch, coff / 2 ^ 16⟩).map fun f =>
        let t := chanTable ch
        physAddr t (s.migrated t f (coff % 2 ^ 16 / 256)) (coff % 2 ^ 16)
    else none

/-- The class of an entry's first doubleword (R254). -/
def entryClass (d0 : Nat) : Nat := bitsAt d0 27 3

/-- A doubleword of a reserved index as the memory port serves it (R253): null has none, indices 1 to 3 are views. -/
def State.viewDw (s : State) (part idx o : Nat) : Nat :=
  if idx = 1 then leNat ((List.range 8).map fun i => s.almanacByte part (o + i))
  else if idx = 2 && o % 8 == 0 then (s.windowRead part (o / 2 ^ 26) (o % 2 ^ 26 / 32) (o % 32 / 8)).toNat
  else if idx = 3 && o % 8 == 0 then (s.faultqRead part o).toNat
  else 0

/-- A place that the memory port reads in a buffer whose entry names set 0 (R256), whatever the class of the buffer; a
doubleword beyond its end has none (DESIGN CHOICE, log entry 85). -/
def State.portLoc0 (s : State) (core part addr : Nat) : Option Nat :=
  let idx := addr / 2 ^ 40
  if idx = 4 then (s.part part).tableLoc (addr % 2 ^ 40)
  else if idx < 4 || bitsAt (s.initDw core part idx 1) 0 6 ≠ 0 then none
  else
    let p := s.part part
    let d := s.initDw core part idx
    s.entryLoc part idx (mkEntry part 0 idx d (p.classMask (entryClass (d 0)))) (addr % 2 ^ 40)

/-- Channel set `k` of a partition (R256). -/
def State.chanSet (s : State) (core part k : Nat) : BitVec 448 :=
  let p := s.part part
  if k = 0 then p.chmap
  else if p.cstbase = 0 then 0
  else
    BitVec.ofNat 448 ((List.range 7).foldl (fun n j =>
      let a := p.cstbase.toNat + 64 * k + 8 * j
      n + (match s.portLoc0 core part a with
        | some pa => s.coreDw core pa
        | none => s.viewDw part (a / 2 ^ 40) (a % 2 ^ 40)) * 2 ^ (64 * j)) 0)

/-- An entry with its channel set restricted by R258. -/
def State.entryOf (s : State) (core part : Nat) (base : Word) (idx : Nat) (d : Nat → Nat) : BufEntry :=
  mkEntry part base idx d
    (s.chanSet core part (bitsAt (d 1) 0 6) &&& (s.part part).classMask (entryClass (d 0)))

/-- A place that the memory port reads through the initial table (R370). -/
def State.portLoc (s : State) (core part addr : Nat) : Option Nat :=
  let idx := addr / 2 ^ 40
  if idx = 4 then (s.part part).tableLoc (addr % 2 ^ 40)
  else if idx < 4 then none
  else
    let d := s.initDw core part idx
    s.entryLoc part idx (s.entryOf core part 0 idx d) (addr % 2 ^ 40)

/-- A doubleword that the memory port reads; indices 0 to 3 are served by R253 whatever the table holds. The buffer may be
one that no supervisor can read, and a page without a translation reads as 0 (DESIGN CHOICE, log entry 85). -/
def State.portDw (s : State) (core part addr : Nat) : Nat :=
  match s.portLoc core part addr with
  | some pa => s.coreDw core pa
  | none => s.viewDw part (addr / 2 ^ 40) (addr % 2 ^ 40)

/-- The remote window entry of a buffer index (R346): kind, device, base. -/
def State.remoteOf (s : State) (core part idx : Nat) : Option (Nat × Nat × Nat) :=
  let p := s.part part
  ((List.range p.rwtcount).filterMap fun k =>
    let d := s.portDw core part (p.rwtbase.toNat + 16 * k)
    if bitAt d 63 && bitsAt d 0 24 == idx && bitsAt d 61 2 != 3 then
      some (bitsAt d 61 2, bitsAt d 32 16, s.portDw core part (p.rwtbase.toNat + 16 * k + 8))
    else none).head?

/-- A doubleword of a table that the memory port reads in any buffer (R370): in a remote one (R346) it is the host's, or one
of another device, which is a free value (DESIGN CHOICE, log entry 85). -/
def State.tableDw (s : State) (core part addr : Nat) : Nat :=
  let idx := addr / 2 ^ 40
  match (if idx < 5 then none else s.remoteOf core part idx) with
  | none => s.portDw core part addr
  | some (kind, dev, base) =>
    if kind = 2 then Config.deviceDw dev (base + addr % 2 ^ 40) s.fresh % 2 ^ 64
    else leNat (s.hostBytes (base + addr % 2 ^ 40) 8)

/-- The length of a buffer as the memory port finds it (R253, R268, R287, R319, R370). -/
def State.portLen (s : State) (core part idx : Nat) : Nat :=
  match idx with
  | 0 => 0
  | 1 => 128 * 1024
  | 2 => 2 ^ 30
  | 3 => 4 * 2 ^ 20 + 2 ^ 16
  | 4 => (s.part part).table.length * 2 ^ 16
  | _ =>
    let d := s.initDw core part idx
    (((s.entryOf core part 0 idx d).info).map BufInfo.len).getD 0

/-- Entry `idx` of the table at `base` as it stands (R253): invalid at or above `BTCOUNT`, or when its 32 bytes lie beyond
the end of the buffer that holds the table. -/
def State.entryNow (s : State) (core part : Nat) (base : Word) (idx : Nat) : BufEntry :=
  if idx < (s.part part).btcount
      && base.toNat % 2 ^ 40 + 32 * idx + 32 ≤ s.portLen core part (base.toNat / 2 ^ 40) then
    s.entryOf core part base idx fun j => s.tableDw core part (base.toNat + 32 * idx + 8 * j)
  else ⟨part, base, idx, 0, 0, 0⟩

/-! ## Banks that an access finds (R264, R361, R364) -/

/-- The page table of the memory of a bank (R268, R284). -/
def bankTable (b : Nat) : Nat := chanTable (bankChan b)

/-- A row activation counted at a bank of DRAM (R361); at the upper threshold a refresh management comes first. -/
def State.addRaa (s : State) (b : Nat) : State :=
  let t := bankTable b
  if 4 ≤ t && t < 8 then s
  else
    let n := tget 0 s.raa b
    { s with raa := tset 0 s.raa b ((if s.raammt.getD t 0 ≤ n then n - s.raaimt.getD t 0 else n) + 1) }

/-- The vertical bus through which a bank is reached (R363): 16 to SRAM-tier layers, 32 to DRAM-tier layers, 8 to HBM4E
stacks; which banks lie on which layer is a choice (DESIGN CHOICE, log entry 24). -/
def bankBus (b : Nat) : Nat :=
  if b < 4096 then 16 + b / 128 else if b < 6144 then (b - 4096) / 128 else 48 + (b - 6144) / 1536

/-- The vertical bus `n`. -/
def State.bus (s : State) (n : Nat) : Bus := tget .reset s.buses n
/-- The state with a bus replaced. -/
def State.setBus (s : State) (n : Nat) (b : Bus) : State := { s with buses := tset .reset s.buses n b }

/-- A demand at a bank releases its bus (R364). -/
def State.releaseBus (s : State) (b : Nat) : State :=
  let k := s.bus (bankBus b)
  if k.quiesced then s.setBus (bankBus b) { k with quiesced := false } else s

/-- Banks that an access finds: in `ACT` from then on (R264), their buses released (R364). Each access is one row
activation at each bank (R361; DESIGN CHOICE, log entry 24). -/
def State.activate (s : State) (bs : List Nat) : State :=
  bs.foldl (fun s b =>
    let s1 := if (s.bank b).power == .act then s else s.setBank b { s.bank b with power := .act }
    (s1.addRaa b).releaseBus b) s

/-- The banks that the memory port finds when it reads `n` bytes at an address value (R264). -/
def State.portBanks (s : State) (core part addr n : Nat) : List Nat :=
  ((List.range ((n + 7) / 8)).filterMap fun j => (s.portLoc core part (addr + 8 * j)).map paBank).eraseDups

/-! ## Entries in use (R255) -/

/-- An entry read from its table by the running context's core (R264), and cached there (R255). -/
def State.cacheEntry (s : State) (e : BufEntry) : State :=
  let c := s.cur.core.toNat
  let s1 := s.activate (s.portBanks c e.part (e.base.toNat + 32 * e.idx) 32)
  s1.setCore c { s1.core c with bufs := e :: (s1.core c).bufs }

/-- The entry that a core uses: a cached copy may stand in for a changed entry until `tlbinv buf` (R255); which of
the two is a free choice (DESIGN CHOICE, log entry 12). The newest copy stands first; the older ones say where earlier
translations may lie (R100). -/
def State.bufEntry (s : State) (idx : Nat) : BufEntry × State :=
  let c := s.cur.core.toNat
  let part := s.cur.part
  let now := s.entryNow c part s.cur.csr.btbase idx
  let same (e : BufEntry) : Bool := e.part == part && e.base == s.cur.csr.btbase && e.idx == idx
  match (s.core c).bufs.find? same with
  | none => (now, s.cacheEntry now)
  | some old =>
    if old = now then (now, s)
    else
      let (n, s1) := s.draw
      if n % 2 = 1 then (old, s1) else (now, s1.cacheEntry now)

/-- Where a buffer index leads (R253, R270, R346). -/
inductive Space where
  | null
  | almanac
  | window
  | faultq
  | table
  | scratch
  | mem (b : BufInfo)
  | remote (b : BufInfo) (kind dev : Nat) (base : Nat)
  deriving DecidableEq, Repr

/-- The space that the running context reaches through an index. -/
def State.space (s : State) (idx : Nat) : Space × State :=
  if idx = 0 then (.null, s)
  else if idx = 1 then (.almanac, s)
  else if idx = 2 then (.window, s)
  else if idx = 3 then (.faultq, s)
  else if idx = 4 then (.table, s)
  else if idx = 0xFFFFFF then (.scratch, s)
  else
    let (e, s1) := s.bufEntry idx
    match e.info with
    | none => (.null, s1)
    | some b =>
      match s1.remoteOf s.cur.core.toNat s.cur.part idx with
      | some (k, dev, base) => (.remote b k dev base, s1)
      | none => (.mem b, s1)

/-- The kinds of access (R254 `RIGHTS`); `wb` is `cachectl wb`, which needs the read or the write right (R98). -/
inductive Kind where
  | read | write | exec | atomic | wb
  deriving DecidableEq, Repr

/-- Whether an access kind writes (`EREC0.WR`, R316). -/
def Kind.writes : Kind → Bool
  | .write | .atomic => true
  | _ => false

/-- The length of a space (R85). -/
def Space.len (s : State) : Space → Nat
  | .null => 0
  | .almanac => 128 * 1024
  | .window => 2 ^ 30
  | .faultq => 4 * 2 ^ 20 + 2 ^ 16
  | .table => (s.part s.cur.part).table.length * 2 ^ 16
  | .scratch => s.cur.spadUnits * 2 ^ 18
  | .mem b => b.len
  | .remote b _ _ _ => b.len

/-- The right of an access kind. -/
def BufInfo.allows (b : BufInfo) (ctx : Nat) (k : Kind) : Bool :=
  (b.owner == 0 || b.owner == ctx) &&
  (match k with
    | .read => bitAt b.rights 3
    | .write => bitAt b.rights 2
    | .exec => bitAt b.rights 1
    | .atomic => bitAt b.rights 0
    | .wb => bitAt b.rights 3 || bitAt b.rights 2)

/-- Whether owner and rights admit an access (R85, R268, R270, R287, R370). -/
def Space.allows (s : State) (k : Kind) : Space → Bool
  | .null => false
  | .almanac => k == .read || k == .wb
  | .window | .faultq => s.cur.supv && (k == .read || k == .write || k == .wb)
  | .table => s.cur.supv && (k == .read || k == .write || k == .wb)
  | .scratch => k == .read || k == .write || k == .wb
  | .mem b => b.allows s.cur.ctxid.toNat k
  | .remote b _ _ _ => b.allows s.cur.ctxid.toNat k

/-- The class of a space (R254). -/
def Space.cls : Space → Nat
  | .mem b => b.cls
  | .remote b _ _ _ => b.cls
  | _ => 0

/-- One contiguous access to check: `align` is the alignment, `dword` says that it is an `ld.d` or `st.d`, `codeOk`
that a `CODE` buffer is accepted. -/
structure Access1 where
  idx : Nat
  off : Int
  n : Nat
  align : Nat
  kind : Kind
  dword : Bool
  codeOk : Bool

/-- The address value `idx : off` of a record, the offset modulo `2^40` (R112). -/
def addrValue (idx : Nat) (off : Int) : Nat := idx * 2 ^ 40 + wrap 40 off

/-- The checks before translation, in the order of R85 and R112: the code, and the first failing byte. -/
def Access1.check (a : Access1) (s : State) (sp : Space) : Option (Nat × Int) :=
  let dwordOnly : Bool := match sp with
    | .window | .faultq => true
    | _ => false
  if dwordOnly && !s.cur.supv then some (cRIGHT, a.off)
  else if dwordOnly && (!a.dword || a.off % 8 ≠ 0) then some (cCLASS, a.off)
  else if a.off % (a.align : Int) ≠ 0 then some (cALIGN, a.off)
  else if a.off < 0 then some (cBOUND, a.off)
  else if (sp.len s : Int) < a.off + a.n then some (cBOUND, max a.off (sp.len s))
  else if !sp.allows s a.kind then some (cRIGHT, a.off)
  else if !a.codeOk && sp.cls = 4 then some (cCLASS, a.off)
  else none

/-! ## Places -/

/-- Where the bytes of a piece of an access lie. -/
inductive Loc where
  /-- the scratchpad of the running context -/
  | scratch (o : Nat)
  /-- package memory, by physical address -/
  | pkg (pa : Nat)
  /-- the Almanac view, the translation window, the fault queue view -/
  | almanac (o : Nat)
  | window (o : Nat)
  | faultq (o : Nat)
  /-- host memory or a PCIe peer, by address (R346) -/
  | host (a : Nat)
  /-- another device (R346) -/
  | device (dev addr : Nat)
  /-- a place to which no access table entry admits the access: it reads zeros and takes no write (R347) -/
  | refused
  deriving DecidableEq, Repr

/-- A translated piece of an access: offset in the buffer, length, place, whether the buffer is line-compressed, and
the coordinates of the unit that it belongs to (R112). -/
structure Piece1 where
  off : Nat
  n : Nat
  loc : Loc
  lc : Bool
  coords : List Nat
  deriving DecidableEq, Repr

/-- `[off, off + n)` cut at multiples of 256 bytes; each cut lies in one line (R259). -/
def cutLines : Nat → Nat → Nat → List (Nat × Nat)
  | 0, _, _ => []
  | fuel + 1, off, n =>
    if n = 0 then []
    else
      let k := min n (256 - off % 256)
      (off, k) :: cutLines fuel (off + k) (n - k)

/-- The lines of an access. -/
def lineCuts (off n : Nat) : List (Nat × Nat) := cutLines (n / 256 + 2) off n

/-- The entry of a translation cache with a key. -/
def TlbEntry.has (e : TlbEntry) (k : PageKey) : Bool :=
  e.part == k.part && e.owner.toNat == k.owner && e.buf == k.buf && e.ch == k.ch && e.cp == k.cp

/-- A cached translation put first in a cache of `n` entries, the least recently used one dropped (R288). -/
def tlbPut (n : Nat) (e : TlbEntry) (l : List TlbEntry) (k : PageKey) : List TlbEntry :=
  (e :: l.filter fun x => !x.has k).take n

/-- The bank of the gather TLB that holds a page (R288). -/
def gatherBank (ch cp : Nat) : Nat := (cp ^^^ ch) % 16

/-- A cached translation put into the gather TLB: 64 entries in its bank (R288). -/
def gatherPut (e : TlbEntry) (l : List TlbEntry) (k : PageKey) : List TlbEntry :=
  let b := gatherBank e.ch e.cp
  let same := l.filter fun x => !x.has k && gatherBank x.ch x.cp == b
  let other := l.filter fun x => gatherBank x.ch x.cp != b
  (e :: same).take 64 ++ other

/-- A translation put into the caches that an access uses: the gather TLB, and unless the access is an indexed one or
a channel's, the micro-TLB (R288). -/
def State.fillTlb (s : State) (gather : Bool) (e : TlbEntry) (k : PageKey) : State :=
  let c := s.cur.core.toNat
  let s1 := s.setCore c { s.core c with gtlb := gatherPut e (s.core c).gtlb k }
  if gather then s1 else s1.setCur { s1.cur with utlb := tlbPut 8 e s1.cur.utlb k }

/-- The pages that an instruction has translated, with their frames: it translates each once (R116, R288). -/
abbrev Pages := List (PageKey × Nat)

/-- The frame that an instruction has found for a page. -/
def Pages.frame? (m : Pages) (k : PageKey) : Option Nat := (m.find? fun x => decide (x.1 = k)).map Prod.snd

/-- The translation of a page for a demand access (R288): a cached copy, or a walk, which fills both caches. Where the
two differ, which is used is a free choice until a shoot-down (DESIGN CHOICE, log entry 12). `A` and `D` are set unless
the copy holds them. -/
def State.translate (s : State) (gather : Bool) (k : PageKey) (wr : Bool) : Option Nat × State :=
  let c := s.cur.core.toNat
  let hit := (if gather then none else s.cur.utlb.find? (·.has k)).or ((s.core c).gtlb.find? (·.has k))
  let now := s.walk k
  let (useHit, s0) := match hit with
    | none => (false, s)
    | some e =>
      if now = some e.f then (true, s)
      else
        let (n, s1) := s.draw
        (n % 2 == 1, s1)
  match (if useHit then hit else none) with
  | some e =>
    let new := { e with a := true, d := e.d || wr }
    -- after a migration has switched, the entry of the page stands in another frame
    let f := if (s0.pte e.t e.f).has k then some e.f else now
    let s1 := match f with
      | none => s0
      | some f => if e.a && (e.d || !wr) then s0
        else s0.setPte e.t f ((s0.pte e.t f).touch (!e.a) (wr && !e.d))
    (some e.f, s1.fillTlb gather new k)
  | none =>
    match now with
    | none => (none, s0)
    | some f =>
      let t := chanTable k.ch
      let e : TlbEntry := ⟨k.part, BitVec.ofNat 32 k.owner, k.buf, k.ch, k.cp, t, f, true, (s0.pte t f).d || wr⟩
      (some f, (s0.setPte t f ((s0.pte t f).touch true wr)).fillTlb false e k)

/-- The frame of a page for one instruction: the one that it has found already, or a translation (R116, R288). -/
def State.pageFrame (s : State) (m : Pages) (gather : Bool) (k : PageKey) (wr : Bool) : Option Nat × Pages × State :=
  match m.frame? k with
  | some f => (some f, m, s)
  | none =>
    let (f, s1) := s.translate gather k wr
    (f, (f.toList.map fun f => (k, f)) ++ m, s1)

/-- The place of one piece of an access that passed its checks; none where its page is not mapped (R288). -/
def State.locatePiece (s : State) (m : Pages) (gather : Bool) (idx : Nat) (sp : Space) (wr : Bool) (off : Nat) :
    Option Loc × Pages × State :=
  match sp with
  | .null => (none, m, s)
  | .almanac => (some (.almanac off), m, s)
  | .window => (some (.window off), m, s)
  | .faultq => (some (.faultq off), m, s)
  | .scratch => (some (.scratch off), m, s)
  | .table => (((s.part s.cur.part).tableLoc off).map .pkg, m, s)
  | .remote _ kind dev base =>
    (some (if kind = 2 then .device dev (base + off) else .host (base + off)), m, s)
  | .mem b =>
    let (ch, coff) := b.locate off
    let t := chanTable ch
    let (f, m1, s1) := s.pageFrame m gather ⟨s.cur.part, b.owner, idx, ch, coff / 2 ^ 16⟩ wr
    (f.map fun f => .pkg (physAddr t (s1.migrated t f (coff % 2 ^ 16 / 256)) (coff % 2 ^ 16)), m1, s1)

/-- Whether the space is a line-compressed buffer (R278). -/
def Space.lc : Space → Bool
  | .mem b => b.lc
  | _ => false

/-- The pieces of an access translated in order; on a failure, the offset of the first byte without a translation. -/
def State.locatePieces (s : State) (m : Pages) (gather : Bool) (idx : Nat) (sp : Space) (wr : Bool) (coords : List Nat) :
    List (Nat × Nat) → Except Nat (List Piece1 × Pages) × State
  | [] => (.ok ([], m), s)
  | (off, n) :: rest =>
    match s.locatePiece m gather idx sp wr off with
    | (none, _, s1) => (.error off, s1)
    | (some l, m1, s1) =>
      match s1.locatePieces m1 gather idx sp wr coords rest with
      | (.error o, s2) => (.error o, s2)
      | (.ok (ps, m2), s2) => (.ok (⟨off, n, l, sp.lc, coords⟩ :: ps, m2), s2)

/-- One contiguous access checked and translated: the failing check with its byte, or the pieces (R112), with the pages
that the instruction has translated. -/
def State.reach (s : State) (m : Pages) (gather : Bool) (a : Access1) (sp : Space) (coords : List Nat) :
    Except (Nat × Int) (List Piece1 × Pages) × State :=
  match a.check s sp with
  | some e => (.error e, s)
  | none =>
    match s.locatePieces m gather a.idx sp a.kind.writes coords (lineCuts a.off.toNat a.n) with
    | (.error o, s1) => (.error (cPAGE, (o : Int)), s1)
    | (.ok r, s1) => (.ok r, s1)

/-! ## Access tables (R347) -/

/-- The number of an access table entry: target and master (DESIGN CHOICE, log entry 21). -/
def accessKey (target master : Nat) : Nat := target * 128 + master

/-- Whether a target admits a request of a master for a partition (R347): kind 0 reads, 1 writes, 2 is atomic. -/
def State.admits (s : State) (target master part kind : Nat) : Bool :=
  let a := tget .reset s.access (accessKey target master)
  (a.part == part || a.part == 33) && decide (master < 117) &&
    (match kind with
      | 0 => a.rd
      | 1 => a.wr
      | _ => a.atom)

/-- A refusal logged, and told through vector 3 of the physical function and of the partition (R347). -/
def State.refuse (s : State) (master part : Nat) : State :=
  { s with log := s.log ++ [.refusal master], signals := s.signals ++ [.pf 3, .vf part 3] }

/-- The kind of a request as an access table has it (R347). -/
def Kind.request : Kind → Nat
  | .write => 1
  | .atomic => 2
  | _ => 0

/-- The targets that the bytes of a piece pass: the L2 of the home stack and the controller of the memory, or the host
link (R271, R347); a view is served at stack 0 (R261), whose L2 it passes (DESIGN CHOICE, log entry 21). -/
def Loc.targets : Loc → List Nat
  | .pkg pa => [16 + tableStack (paTable pa), paTable pa]
  | .host _ => [24]
  | .almanac _ | .window _ | .faultq _ => [16]
  | _ => []

/-- Whether every target of a piece admits the running context's access by master `m`. -/
def State.admitsPiece (s : State) (m kind : Nat) (p : Piece1) : Bool :=
  p.loc.targets.all fun t => s.admits t m s.cur.part kind

/-- The pieces of an access as the access tables admit them (R347): a refusal is logged. -/
def State.guardPieces (s : State) (m kind : Nat) (ps : List Piece1) : List Piece1 × State :=
  if ps.all (s.admitsPiece m kind) then (ps, s)
  else (ps.map fun p => if s.admitsPiece m kind p then p else { p with loc := .refused }, s.refuse m s.cur.part)

/-! ## Contexts of the module -/

/-- Every context: the running one first. -/
def State.harts (s : State) : List Hart := s.cur :: s.rest

/-- Whether a hart is the context `k`. -/
def Hart.isKey (h : Hart) (k : CtxKey) : Bool := h.status ≠ .vacant && h.part == k.part && h.ctxid == k.ctx

/-- The context `k`. -/
def State.hart? (s : State) (k : CtxKey) : Option Hart := s.harts.find? (·.isKey k)

/-- A change of every context. -/
def State.mapHarts (s : State) (f : Hart → Hart) : State := { s with cur := f s.cur, rest := s.rest.map f }

/-- A change of context `k`. -/
def State.updHart (s : State) (k : CtxKey) (f : Hart → Hart) : State :=
  s.mapHarts fun h => if h.isKey k then f h else h

/-- A change made by context `k` as the running one; the running context is put back after it. -/
def State.onHart (s : State) (k : CtxKey) (f : State → State) : State :=
  if s.cur.isKey k then f s
  else
    match s.rest.find? (·.isKey k) with
    | none => s
    | some h =>
      let i := (s.rest.takeWhile fun x => !x.isKey k).length
      let s1 := f { s with cur := h, rest := s.rest.set i s.cur }
      { s1 with cur := s1.rest.getD i s.cur, rest := s1.rest.set i s1.cur }

/-- The key of a hart. -/
def Hart.key (h : Hart) : CtxKey := ⟨h.part, h.ctxid⟩

/-- Whether a context is placed on a core (R102, R305). -/
def Hart.placed (h : Hart) : Bool :=
  match h.status with
  | .running | .waiting _ | .stopping _ | .saving _ => true
  | _ => false

/-- A core that stands for an agent without an L1. -/
def noCore : Nat := 256

/-- Whether the scratchpad shares of the running context's core leave it no L1 (R269). -/
def State.noL1 (s : State) : Bool :=
  decide (8 ≤ ((s.harts.filter fun h => h.placed && h.core == s.cur.core).map Hart.spadUnits).sum)

/-! ## Phases and pins (R265) -/

/-- Whether a frame with these key fields belongs to a buffer of a context's buffer table that it may access (R265). -/
def State.mayAccess (s : State) (h : Hart) (part owner buf : Nat) : Bool :=
  h.part == part && (owner == 0 || owner == h.ctxid.toNat) &&
    (((s.entryNow noCore part h.csr.btbase buf).info).map fun b => b.owner == owner).getD false

/-- Whether an entry maps a frame of a buffer that a context may access. -/
def State.coversPte (s : State) (h : Hart) (e : Pte) : Bool := e.val && s.mayAccess h e.part e.kctx e.buf

/-- The banks that a context's phase covers (R265): those of the mapped frames of the buffers that it may access, those
to which such a frame is migrating, and for a supervisor those of the initial table (R370). -/
def State.coveredBanks (s : State) (h : Hart) : List Nat :=
  let mapped := s.ptes.filter fun x => s.coversPte h x.2
  let coming := s.migrations.filter fun m => !m.switched && s.coversPte h (s.pte m.t m.src)
  let table := if h.supv then (s.part h.part).table else []
  ((mapped.map fun x => frameBank (x.1 / 2 ^ 21) (x.1 % 2 ^ 21)) ++ (coming.map fun m => frameBank m.t m.dst) ++
    table.map fun x => frameBank x.2.1 x.2.2).eraseDups

/-- The contexts whose acknowledged `STREAM` or `BURST` covers a frame with these key fields (R265). -/
def State.coverers (s : State) (part owner buf : Nat) : List Hart :=
  s.harts.filter fun h => h.placed && decide (2 ≤ h.csr.phack.toNat) && s.mayAccess h part owner buf

/-- A bank with pins added; a pinned bank leaves `RET`, and for a `BURST` it is in `ACT` (R265). -/
def Bank.pin (b : Bank) (ks : List CtxKey) (burst : Bool) : Bank :=
  if ks.isEmpty then b
  else { b with
    pins := (b.pins ++ ks).eraseDups
    power := if burst then .act else match b.power with
      | .ret => .stby
      | .off => .stby
      | p => p }

/-- Whether a context's acknowledged phase keeps banks pinned (R265). -/
def Hart.pins (h : Hart) : Bool := h.placed && decide (2 ≤ h.csr.phack.toNat)

/-- The pins of a context brought to the banks that its acknowledged phase covers now (R263, R265). -/
def State.repin (s : State) (h : Hart) : State :=
  let cov := s.coveredBanks h
  let kept := s.banks.map fun (b, e) => (b, { e with pins := e.pins.filter fun k => decide (k ≠ h.key) || cov.contains b })
  cov.foldl (fun s b => s.setBank b ((s.bank b).pin [h.key] (h.csr.phack == 3)))
    { s with banks := kept.filter fun (_, e) => decide (e ≠ .reset) }

/-- The pins of every context brought to what its phase covers. -/
def State.repinAll (s : State) : State := (s.harts.filter Hart.pins).foldl State.repin s

/-! ## Counting (R261, R264, R281) -/

/-- The 256-byte line of package memory that a piece touches, with its home stack; a view counts as a line of stack 0
(R261). -/
def Piece1.line (p : Piece1) : Option (Nat × Nat) :=
  match p.loc with
  | .pkg pa => some (tableStack (paTable pa), pa / 256)
  | .almanac o => some (0, 2 ^ 50 + o / 256)
  | .window o => some (0, 2 ^ 51 + o / 256)
  | .faultq o => some (0, 2 ^ 52 + o / 256)
  | _ => none

/-- The stack of a core (R30). -/
def coreStack (c : Nat) : Nat := c / 64

/-- Whether a buffer index is served as a view of stack 0 (R261). -/
def viewIndex (idx : Nat) : Bool := decide (1 ≤ idx) && decide (idx ≤ 4)

/-- `REQLOC` and `REQREM` advanced by the distinct lines of one instruction (R261). -/
def countLines (idx : Nat) (ps : List Piece1) (h : Hart) : Hart :=
  let ls := (ps.filterMap Piece1.line).eraseDups
  let st := coreStack h.core.toNat
  let home (l : Nat × Nat) : Nat := if viewIndex idx then 0 else l.1
  let loc := (ls.filter fun l => home l == st).length
  { h with csr := { h.csr with
    reqloc := h.csr.reqloc + BitVec.ofNat 64 loc
    reqrem := h.csr.reqrem + BitVec.ofNat 64 (ls.length - loc) } }

/-- The banks of the pieces. -/
def pieceBanks (ps : List Piece1) : List Nat :=
  (ps.filterMap fun p => match p.loc with
    | .pkg pa => some (paBank pa)
    | _ => none).eraseDups

/-- The banks of a list that sleep in `RET`. -/
def State.asleep (s : State) (bs : List Nat) : List Nat := bs.filter fun b => (s.bank b).power == .ret

/-- The banks of an access woken to `ACT`, and `WAKES` advanced by those that slept in `RET` (R264), together with those that
the instruction has woken while it waited. Those that the context's phase covers by now are pinned first (R265). -/
def State.wakeBanks (s : State) (bs : List Nat) : State :=
  let s0 := if s.cur.pins then s.repin s.cur else s
  let n := ((s0.asleep bs ++ s0.cur.woken).eraseDups).length
  let s1 := s0.activate bs
  s1.setCur { s1.cur with csr := { s1.cur.csr with wakes := s1.cur.csr.wakes + BitVec.ofNat 64 n }, woken := [] }

/-- The banks that the reads or writes of a pending `mld` or `mst` of the running context find (R264). -/
def State.wakeMore (s : State) (bs : List Nat) : State :=
  let n := (s.asleep bs).length
  let s1 := s.activate bs
  s1.setCur { s1.cur with csr := { s1.cur.csr with wakes := s1.cur.csr.wakes + BitVec.ofNat 64 n } }

/-- The banks that an instruction which goes on waiting has found: in `ACT`, and those that slept noted (R264). -/
def State.wakeWaiting (s : State) (bs : List Nat) : State :=
  let found := s.asleep bs
  let s1 := s.activate bs
  if found.isEmpty then s1 else s1.setCur { s1.cur with woken := (s1.cur.woken ++ found).eraseDups }

/-- The granules of line-compressed buffers that written pieces cover only in part (R114, R281). -/
def partGranules (ps : List Piece1) : Nat :=
  let bytes := ps.filterMap fun p => match p.loc, p.lc with
    | .pkg pa, true => some (pa, p.n)
    | _, _ => none
  let gs := (bytes.flatMap fun (pa, n) =>
    (List.range ((pa + n - 1) / 128 + 1 - pa / 128)).map (pa / 128 + ·)).eraseDups
  (gs.filter fun g =>
    !(List.range 128).all fun j => bytes.any fun (pa, n) => pa ≤ 128 * g + j && 128 * g + j < pa + n).length

/-- `RMWC` advanced (R281). -/
def Hart.addRmwc (h : Hart) (n : Nat) : Hart :=
  { h with csr := { h.csr with rmwc := h.csr.rmwc + BitVec.ofNat 64 n } }

/-- What an instruction that touches these pieces counts, `written` of them by writing. -/
def State.count (s : State) (idx : Nat) (ps written : List Piece1) : State :=
  let s1 := s.wakeBanks (pieceBanks ps)
  s1.setCur ((countLines idx ps s1.cur).addRmwc (partGranules written))

/-! ## What a kill leaves (R211, R265, R323) -/

/-- `EREC1` of a `MEM` kill (R323). -/
def memRec (pa : Nat) : Nat := paTable pa * 2 ^ 32 + pa % 2 ^ 16 / 256 * 2 ^ 21 + paFrame pa

/-- The record of a `MEM` kill at a demand access (R323): `sub` is 1 for a read, 2 for a fetch, 3 for an atomic. -/
def memTrap (sub pa : Nat) : Trap := { cause := cMEM, erec1 := memRec pa, sub := sub, fatal := true }

/-- Every pin of a context dropped (R265, R266). -/
def State.dropPins (s : State) (k : CtxKey) : State :=
  { s with banks := (s.banks.map fun (b, e) => (b, { e with pins := e.pins.filter (· ≠ k) })).filter fun (_, e) =>
      decide (e ≠ .reset) }

/-- Whether a task has triggered (R211): every hart has executed `tktrig` or `exit`, and none was killed before. -/
def Task.triggered (t : Task) : Bool :=
  t.refused == 0 && !t.dead && decide (0 < t.harts) && t.trig.length == t.harts

/-- A task in which member `m` is killed (R211, R309): one that has not triggered never will. -/
def Task.kill (t : Task) (m : Nat) : Task :=
  { t with killed := insertNat t.killed m, dead := !t.triggered }

/-- A partition in which member `m` of task `id` is killed, and a record of context `c` waits (R319, R324). -/
def Partition.noteKill (p : Partition) (id m : Nat) (c : BitVec 32) : Partition :=
  { p.setTask id ((p.task id).kill m) with faults := p.faults ++ [c] }

end Sys2Proof.Machine
end

