-- ==== Sys2Proof/Machine/Pending.lean ====
section
/-! DEFINITION. What stands at the banks: granules merged there (R274, R278-R283) and domain tag copies (R150, R279); and the
accesses that a context has issued and that have not performed: `mld` and `mst` (R240), the writes of moved chunks (R216,
R238). -/

namespace Sys2Proof.Machine

/-! ## Domain tag copies (R279) -/

/-- The tag copy of the line of a physical address. -/
def State.lineTag (s : State) (pa : Nat) : Nat :=
  bitsAt (s.frame (paTable pa) (paFrame pa)).tags.toNat (4 * (pa % 2 ^ 16 / 256)) 3

/-- The tag copy of the line of a physical address set. -/
def State.setLineTag (s : State) (pa v : Nat) : State :=
  let m := s.frame (paTable pa) (paFrame pa)
  s.setFrame (paTable pa) (paFrame pa)
    { m with tags := BitVec.ofNat 1024 (setBits m.tags.toNat (4 * (pa % 2 ^ 16 / 256)) 4 (v % 8)) }

/-- Tag copies of lines set. -/
def State.setTags (s : State) (tags : List (Nat × Nat)) : State := tags.foldl (fun s t => s.setLineTag t.1 t.2) s

/-! ## Granules at the banks (R278-R283) -/

/-- The code of a granule of the package set (R279). -/
def State.setCode (s : State) (g v : Nat) : State :=
  let pa := 128 * g
  let m := s.frame (paTable pa) (paFrame pa)
  s.setFrame (paTable pa) (paFrame pa)
    { m with codes := BitVec.ofNat 2048 (setBits m.codes.toNat (4 * (pa % 2 ^ 16 / 128)) 4 v) }

/-- The bytes of a granule with those at its home over those of its banks (R281). -/
def State.merged (s : State) (g : Nat) : List Byte :=
  (List.range 128).map fun j => (overlayGet s.home (128 * g + j)).getD ((s.granule g).getD j 0)

/-- The code that a controller gives a granule of these bytes (R281): `RAW` in a frame without `LC` (R279). -/
def State.codeFor (s : State) (g : Nat) (bs : List Byte) : Nat :=
  if (s.frame (paTable (128 * g)) (paFrame (128 * g))).lc then granuleCode bs else 0

/-- The bytes of a granule at its home merged into the banks (R281-R283), which are found awake (R264): a whole granule
replaces a poisoned one; a part of it is lost there. The granule takes the code of its new bytes, whose beats are written
at the start of its slot (R278). -/
def State.mergeGranule (s0 : State) (g : Nat) : State :=
  let lo := 128 * g
  let mine := s0.home.filter fun x => decide (lo ≤ x.1) && decide (x.1 < lo + 128)
  if mine.isEmpty then s0
  else
    let s := s0.activate [paBank lo]
    let home := overlayDrop s.home lo (lo + 128)
    if s.poison.contains g && decide (mine.length < 128) then { s with home := home }
    else
      let bs := s.merged g
      let c := s.codeFor g bs
      { s.setCode g c with
        home := home
        mem := Memory.write s.mem lo (beatsOf c bs)
        poison := s.poison.filter (· ≠ g) }

/-- Whether a stack has an SRAM-tier segment in `CACHE` mode (R262). -/
def State.hasCache (s : State) (stack : Nat) : Bool :=
  let seg : BitVec 128 := BitVec.ofNat 128 ((2 ^ 32 - 1) * 2 ^ (32 * stack))
  s.freeSegs &&& seg != 0 || s.parts.any fun (_, p) => p.chmap.extractLsb' 64 128 &&& p.segs &&& seg != 0

/-- Whether a store that no L2 keeps reaches the banks of the memory of table `t` (R271, R274): a `HOME` segment, or the
home memory of a stack without a `CACHE` segment. -/
def State.uncached (s : State) (t : Nat) : Bool := decide (4 ≤ t) && decide (t < 8) || !s.hasCache (tableStack t)

/-- The bytes at some addresses sent on past the home L2 by a store with eviction 6 or 7 (R274). -/
def State.sendThrough (s : State) (as : List Nat) : State :=
  ((as.map (· / 128)).eraseDups.filter fun g => s.uncached (paTable (128 * g))).foldl State.mergeGranule s

/-- Whether an eviction field sends a store past L2 (R274). -/
def evictsThrough (evict : BitVec 3) : Bool := decide (6 ≤ evict.toNat)

/-! ## The scratchpad -/

/-- The hart's scratchpad with bytes written, and its pages marked as written (R328). -/
def Hart.writeSpad (h : Hart) (o : Nat) (bs : List Byte) : Hart :=
  if bs.isEmpty then h
  else
    let pages := (List.range ((o + bs.length - 1) / 4096 + 1 - o / 4096)).map (o / 4096 + ·)
    { h with
      spad := Memory.write h.spad o bs
      spadPages := pages.foldl (fun m p => m ||| (1#512 <<< p)) h.spadPages }

/-! ## Pending `mld` and `mst` (R240) -/

/-- The banks of some places (R264). -/
def siteBanks (l : List MatSite) : List Nat :=
  (l.filterMap fun x => match x with
    | .pkg pa => some (paBank pa)
    | _ => none).eraseDups

/-- One doubleword of an `mst` of the running context brought to memory: a write of the core's array performs at `core`
in the L1 (R240, R273). -/
def State.matWrite (s : State) (x : MatSite × Word) : State :=
  let bs := leBytes 8 x.2.toNat
  match x.1 with
  | .pkg pa => s.writeBytes s.noL1 s.cur.core.toNat pa bs
  | .scratch o => s.setCur (s.cur.writeSpad o bs)
  | .host a => s.hostWrite a bs
  | .done => s

/-- The doublewords that pending matrix instructions still bring to memory. -/
def storedWords (ops : List MatOp) : List (MatSite × Word) :=
  ops.flatMap fun o => match o.write with
    | .store ws => ws
    | _ => []

/-- Doublewords brought to memory, whose banks the writes find (R264). -/
def State.writeWords (s : State) (ws : List (MatSite × Word)) : State :=
  if ws.isEmpty then s else (ws.foldl State.matWrite s).wakeMore (siteBanks (ws.map Prod.fst))

/-- The pending `mst` of the running context have written; they still count in their slots. -/
def State.performStores (s : State) : State :=
  let ws := storedWords s.cur.matq
  if ws.isEmpty then s
  else
    let s1 := s.writeWords ws
    s1.setCur { s1.cur with matq := s1.cur.matq.map fun o => match o.write with
      | .store _ => { o with write := .store [] }
      | _ => o }

/-- Whether a matrix instruction still has a memory access of its own under way: `mld` or `mst` (R203, R240). -/
def MatOp.inMemory (o : MatOp) : Bool :=
  match o.write with
  | .load _ | .store _ => true
  | _ => false

/-- Whether a doubleword lies outside the range of an entry (R179). -/
def entryRange (v : Word) : Bool := decide (v.toInt < -(2 ^ 47)) || decide (2 ^ 47 ≤ v.toInt)

/-- The tile write of an `mld` from the doublewords that it has read (R179). -/
def loadedEntries (xs : List (Nat × Word)) : TileWrite :=
  .put (xs.map fun x => (x.1, x.2.setWidth 48)) (xs.any fun x => entryRange x.2)

/-- The doubleword at a place of memory as the array of the running context's core reads it; none where it holds an
uncorrectable error. -/
def State.siteWord (s : State) : MatSite → Option Word
  | .pkg pa =>
    if (s.poisonedFill s.cur.core.toNat pa 8).isSome then none
    else some (BitVec.ofNat 64 (leNat (s.coreBytes s.cur.core.toNat pa 8)))
  | .scratch o => some (BitVec.ofNat 64 (leNat (Memory.read s.cur.spad o 8)))
  | .host a => some (BitVec.ofNat 64 (leNat (s.hostBytes a 8)))
  | .done => none

/-- The entries of a pending `mld` with the doublewords that they read (R240): each that of its issue or the one that
stands in memory now, as bit `entry` of `n` says (DESIGN CHOICE, log entry 11). -/
def State.readEntries (s : State) (n : Nat) (es : List (Nat × Word × MatSite)) : List (Nat × Word) :=
  es.map fun (e, w, site) => (e, if bitAt n e then (s.siteWord site).getD w else w)

/-- Whether a matrix instruction is an `mld` whose reads have not performed. -/
def MatOp.reading (o : MatOp) : Bool :=
  match o.write with
  | .load _ => true
  | _ => false

/-- The places that a pending `mld` reads. -/
def MatOp.readSites (o : MatOp) : List MatSite :=
  match o.write with
  | .load es => es.map fun x => x.2.2
  | _ => []

/-- The reads of those `mld` among some pending instructions that `sel` chooses performed (R240); they find their banks
(R264). -/
def State.readLoads (s : State) (sel : MatOp → Bool) (ops : List MatOp) : List MatOp × State :=
  if !ops.any fun o => sel o && o.reading then (ops, s)
  else
    let (n, s1) := s.draw
    (ops.map fun o => match o.write with
      | .load es => if sel o then { o with write := loadedEntries (s.readEntries n es) } else o
      | _ => o,
      s1.wakeMore (siteBanks ((ops.filter sel).flatMap MatOp.readSites)))

/-- The reads of the chosen pending `mld` of the running context performed; they still count in their slots. -/
def State.performLoads (s : State) (sel : MatOp → Bool) : State :=
  let (ops, s1) := s.readLoads sel s.cur.matq
  if ops = s1.cur.matq then s1 else s1.setCur { s1.cur with matq := ops }

/-! ## Writes of moved chunks (R216, R226, R238) -/

/-- The bytes of a flight written (R216): at the home of package memory, with their tag copies (R150), and on to the banks
where the transfer's eviction field says so (R274). -/
def State.landBytes (s : State) (f : Flight) : State :=
  if f.host then f.cells.foldl (fun s c => s.hostWrite c.1 [c.2]) s
  else
    let s1 := (f.cells.foldl (fun s c => s.writeBytes true s.cur.core.toNat c.1 [c.2]) s).setTags f.tags
    if f.thru then s1.sendThrough (f.cells.map Prod.fst) else s1

/-- The banks that some flights find. -/
def flightBanks (fs : List Flight) : List Nat :=
  (fs.flatMap fun f => if f.host then [] else f.cells.map fun c => paBank c.1).eraseDups

/-- Flights performed in order. -/
def State.landList (s : State) (fs : List Flight) : State :=
  if fs.isEmpty then s else (fs.foldl State.landBytes s).activate (flightBanks fs)

/-- The chosen flights of the running context performed. -/
def State.landAll (s : State) (sel : Flight → Bool) : State :=
  let fs := s.cur.flights.filter sel
  if fs.isEmpty then s
  else
    let s1 := s.landList fs
    s1.setCur { s1.cur with flights := s1.cur.flights.filter fun f => !sel f }

/-- A flight with other bytes. -/
def Flight.withCells (f : Flight) (cells : List Host.Cell) : Flight := { f with cells := cells }

/-- A flight cut by the bits of `n`: what performs now, and what does not. Each byte stands for itself, but those that a tag
copy goes with perform all together (R226). -/
def Flight.cut (f : Flight) (n : Nat) : Flight × Flight :=
  let pick (b : Bool) : List Host.Cell := (f.cells.zipIdx.filter fun x => bitAt n x.2 == b).map Prod.fst
  if f.tags.isEmpty then (f.withCells (pick true), f.withCells (pick false))
  else if bitAt n 0 then (f, f.withCells []) else (f.withCells [], f)

/-- A free choice of the writes of the chosen flights of the running context performed (DESIGN CHOICE, log entry 87). -/
def State.landSome (s : State) (sel : Flight → Bool) : State :=
  if !s.cur.flights.any sel then s
  else
    let (n, s1) := s.draw
    let cuts := s1.cur.flights.zipIdx.map fun (f, i) =>
      if sel f then f.cut (n / 2 ^ (32768 * i)) else (f.withCells [], f)
    let s2 := s1.landList ((cuts.map Prod.fst).filter fun f => !f.cells.isEmpty)
    s2.setCur { s2.cur with flights := (cuts.map Prod.snd).filter fun f => !f.cells.isEmpty }

/-- Whether a flight writes one of `n` bytes of package memory from `pa`, or the tag copy of a line of theirs. -/
def Flight.touches (f : Flight) (pa n : Nat) : Bool :=
  !f.host && (f.cells.any (fun c => decide (pa ≤ c.1) && decide (c.1 < pa + n)) ||
    f.tags.any fun t => decide (pa / 256 ≤ t.1 / 256) && decide (t.1 / 256 ≤ (pa + n - 1) / 256))

/-- The tag copy of the line of a physical address when the running context's flights have performed (R231). -/
def State.lineTagAfter (s : State) (pa : Nat) : Nat :=
  (((s.cur.flights.flatMap Flight.tags).reverse.find? fun t => t.1 / 256 == pa / 256).map Prod.snd).getD (s.lineTag pa)

/-- A flight issued. The earlier ones of its transfer into the lines whose tag copies it sets go with it (R150). -/
def Hart.launchFlight (h : Hart) (f : Flight) : Hart :=
  if f.cells.isEmpty then h
  else
    let joins (g : Flight) : Bool := g.xfer == f.xfer && g.host == f.host && g.tags.isEmpty
    let inside (c : Host.Cell) : Bool := f.tags.any fun t => t.1 / 256 == c.1 / 256
    let old := (h.flights.filter joins).flatMap fun g => g.cells.filter inside
    let kept := (h.flights.map fun g => if joins g then g.withCells (g.cells.filter fun c => !inside c) else g).filter
      fun g => !g.cells.isEmpty
    { h with flights := kept ++ [f.withCells (old ++ f.cells)] }

/-! ## Lines that move (R243, R293) -/

/-- A physical address after the line at `lo` has moved to `dst`. -/
def movedPa (lo dst pa : Nat) : Nat := if lo ≤ pa && pa < lo + 256 then dst + (pa - lo) else pa

/-- A place of a matrix access after a line has moved. -/
def MatSite.moved (lo dst : Nat) : MatSite → MatSite
  | .pkg pa => .pkg (movedPa lo dst pa)
  | x => x

/-- A pending matrix instruction after a line has moved. -/
def MatOp.moved (lo dst : Nat) (o : MatOp) : MatOp :=
  match o.write with
  | .load es => { o with write := .load (es.map fun x => (x.1, x.2.1, x.2.2.moved lo dst)) }
  | .store ws => { o with write := .store (ws.map fun x => (x.1.moved lo dst, x.2)) }
  | _ => o

/-- A flight after a line has moved. -/
def Flight.moved (lo dst : Nat) (f : Flight) : Flight :=
  if f.host then f
  else { f with
    cells := f.cells.map fun c => (movedPa lo dst c.1, c.2)
    tags := f.tags.map fun t => (movedPa lo dst t.1, t.2) }

/-- What a context has pending after a line has moved: it goes on at the line's new place (R243). -/
def Hart.moveLine (lo dst : Nat) (h : Hart) : Hart :=
  { h with matq := h.matq.map (·.moved lo dst), flights := h.flights.map (·.moved lo dst) }

/-- The banks that the pending accesses of a context still have to find (R266). -/
def Hart.pendingBanks (h : Hart) : List Nat :=
  siteBanks ((h.matq.flatMap MatOp.readSites) ++ (storedWords h.matq).map Prod.fst) ++ flightBanks h.flights

/-! ## A killed context (R323, R324) -/

/-- The running context killed at once with a record (R323, R324): its slot, pins and engine work go, its task counts
it, and FAULT_RECORD_WRITE reports it. Of the writes of its moved chunks a free choice performs. The writes that its core
holds perform before the record (R242, R308). -/
def State.killCur (s0 : State) (t : Trap) : State :=
  let s1 := s0.landSome fun _ => true
  let s := s1.flushCore s1.cur.core.toNat
  let h := s.cur
  let s2 := s.setCur { h with
    status := .killed
    csr := recordTrap t h.pc h.csr
    request := none
    answers := []
    held := none
    flights := []
    victim := false
    woken := []
    xfers := []
    matq := []
    raise := none }
  (s2.setPart h.part ((s2.part h.part).noteKill h.task.toNat h.member h.ctxid)).dropPins ⟨h.part, h.ctxid⟩

end Sys2Proof.Machine
end

