-- ==== Sys2Proof/Machine/Access.lean ====
section
/-! DEFINITION. Page table writes (R286, R287, R292), the reserved views (R268, R287, R319), shoot-downs (R100, R289),
requests to other devices (R333, R346), and the shape of every instruction that accesses memory. -/

namespace Sys2Proof.Machine

/-! ## Frames of banks (R263, R265) -/

/-- A bank that takes a frame with these key fields: one more frame, and the pins of the phases that cover it (R265,
R286). -/
def State.takeFrame (s : State) (bn part owner buf : Nat) : State :=
  let hs := s.coverers part owner buf
  s.setBank bn ({ s.bank bn with frames := (s.bank bn).frames + 1 }.pin (hs.map Hart.key)
    (hs.any fun h => h.csr.phack == 3))

/-- A bank that a frame has left: one frame less, and only the pins of contexts that it still has a covered frame of
(R263). -/
def State.loseFrame (s : State) (bn : Nat) : State :=
  let b := s.bank bn
  s.setBank bn { b with
    frames := b.frames - 1
    pins := b.pins.filter fun k => match s.hart? k with
      | some h => (s.coveredBanks h).contains bn
      | none => false }

/-! ## Page table entries written (R286, R292) -/

/-- The dirty bytes of `[lo, hi)` in the cores' L1s given up. -/
def State.dropL1 (s : State) (lo hi : Nat) : State :=
  { s with cores := (s.cores.map fun (c, k) => (c, { k with l1 := overlayDrop k.l1 lo hi })).filter fun (_, k) =>
      decide (k ≠ .reset) }

/-- The bytes of a frame read as zero, in no cache another one, and no granule of it is poisoned (R286). -/
def State.zeroFrame (s : State) (t f : Nat) : State :=
  let lo := physAddr t f 0
  { s.dropL1 lo (lo + 2 ^ 16) with
    mem := overlayDrop s.mem lo (lo + 2 ^ 16)
    home := overlayDrop s.home lo (lo + 2 ^ 16)
    poison := s.poison.filter fun g => g / 512 != lo / 2 ^ 16 }

/-- The granules of a frame stored plain, with the bytes that they stood for: a frame of a buffer without a metadata
record holds the bytes it held before (R279, R286; DEDUCED, log entry 86). -/
def State.plainFrame (s : State) (t f : Nat) : State :=
  let lo := physAddr t f 0
  let gs := (List.range 512).filter fun g => s.codeOf (lo + 128 * g) != 0
  { s.setFrame t f .reset with
    mem := gs.foldl (fun m g => Memory.write m (lo + 128 * g) (s.granule (lo / 128 + g))) s.mem }

/-- Every nibble of a metadata field equal to `v`. -/
def nibbles (w v : Nat) : BitVec w := BitVec.ofNat w ((2 ^ w - 1) / 15 * (v % 16))

/-- The metadata record of a frame newly mapped for a line-compressed or `ACT` buffer (R286). -/
def freshMeta (lc act : Bool) (dom : Nat) : FrameMeta :=
  ⟨nibbles 2048 1, if act then nibbles 1024 dom else 0, lc⟩

/-- The reasons to refuse an insert (R286), in the order of their codes; 0 accepts. A bank in `OFF` holds no frame
(R264); its refusal has a code of its own choice. A frame that a migration reserves (R292) has code 4, and one in a bank of
a reserved area (R352) code 2 (DESIGN CHOICE, log entry 15). -/
def State.insertCode (s : State) (part t f : Nat) (e : Pte) : Nat :=
  let k : PageKey := ⟨part, e.kctx, e.buf, e.ch, e.vpn⟩
  let b := s.bank (frameBank t f)
  if s.ptes.any fun p => p.1 / 2 ^ 21 == t && p.1 % 2 ^ 21 != f && p.2.has k then 1
  else if b.retired || b.pending || s.reserved.contains (frameBank t f) then 2
  else if 448 ≤ e.ch || chanTable e.ch ≠ t || !(s.part part).chmap.getLsbD e.ch then 3
  else if bitsAt e.dw1.toNat 0 31 ≠ 0 || bitsAt e.dw2.toNat 21 29 ≠ 0 then 6
  else if s.migrations.any fun m => m.t == t && (m.dst == f || (m.src == f && m.switched)) then 4
  else 0

/-- `ERR` and `ECODE` of doubleword 2 set. -/
def Pte.withErr (e : Pte) (err : Bool) (code : Nat) : Pte :=
  { e with dw2 := BitVec.ofNat 64 (setBits e.dw2.toNat 59 4 (bit err * 8 + code % 8)) }

/-- What the buffer of a frame is, by the first table with an entry of its owner: that of the writer, the initial table of
the partition, and those of its contexts (R254, R286; DESIGN CHOICE, log entry 97). -/
def State.frameEntry (s : State) (part : Nat) (base : Word) (owner buf : Nat) : Option BufInfo :=
  let mine := (s.harts.filter fun h => h.status ≠ .vacant && h.part == part).map fun h => h.csr.btbase
  ((base :: initBase :: mine).eraseDups.filterMap fun b => (s.entryNow noCore part b buf).info).find? fun i =>
    i.owner == owner

/-- An insert (R286): the entry as it stands at the write, by a writer of partition `part` whose buffers stand in the
table at `base`. A frame of the SRAM tier is one of an `ACT` buffer (R257). -/
def State.insertPte (s : State) (part : Nat) (base : Word) (t f : Nat) (e0 : Pte) : State :=
  let e : Pte := { e0 with dw0 := BitVec.ofNat 64 (setBits e0.dw0.toNat 3 5 part) }
  let code := s.insertCode part t f e
  let off := (s.bank (frameBank t f)).power == .off
  let (code, s) := if code = 0 && off then let (n, s1) := s.draw; (n % 8, s1) else (code, s)
  if code ≠ 0 || off then
    s.setPte t f ((Pte.mk (BitVec.ofNat 64 (setBits e0.dw0.toNat 0 1 0)) e0.dw1 e0.dw2).withErr true code)
  else
    let s1 := s.takeFrame (frameBank t f) part e.kctx e.buf
    let info := s1.frameEntry part base e.kctx e.buf
    let lc := (info.map BufInfo.lc).getD false
    let act := decide (4 ≤ t) && decide (t < 8)
    let s2 := if lc || act then
        (s1.zeroFrame t f).setFrame t f (freshMeta lc act ((info.map BufInfo.dom).getD 0))
      else s1.plainFrame t f
    s2.setPte t f (e.withErr false 0)

/-- A removal (R286). -/
def State.removePte (s : State) (t f : Nat) (v : Nat) : State :=
  let e := s.pte t f
  if bitAt e.dw2.toNat 63 then s
  else
    (s.setPte t f { e with dw0 := BitVec.ofNat 64 (setBits (setBits e.dw0.toNat 0 1 0) 1 2 (v / 2)) }).loseFrame
      (frameBank t f)

/-- The code that refuses a migration; 0 accepts it (R292). A destination in `OFF` or in a bank of a reserved area has code 4
(DESIGN CHOICE, log entry 15). -/
def State.migrateCode (s : State) (part t f dst : Nat) : Nat :=
  let e := s.pte t f
  let b := s.bank (frameBank t dst)
  if !e.val || bitAt e.dw2.toNat 63 || s.migrations.any fun m => m.t == t && m.src == f then 5
  else if tableFrames t ≤ dst || (s.pte t dst).val || b.retired || b.pending || b.power == .off
      || s.reserved.contains (frameBank t dst) || !s.ownsFrame part t dst
      || s.migrations.any fun m => m.t == t && (m.dst == dst || m.src == dst) then 4
  else 0

/-- The cores of a partition (R344 `COLMAP`). -/
def Partition.cores (p : Partition) : List Nat := (List.range 256).filter fun c => p.colmap.getLsbD (c / 8)

/-- A shoot-down of one channel page started in every core of the partition (R289, R292). -/
def State.shootPage (s : State) (part buf ch vpn : Nat) : State :=
  { s with shoots := s.shoots ++
      [⟨part, 0, BitVec.ofNat 64 (buf * 2 ^ 40), [(ch, vpn)], (s.part part).cores, false⟩] }

/-- A write of doubleword 2: `DEST`, and a migration started by `BUSY` (R285, R292). -/
def State.commandPte (s : State) (part t f v : Nat) : State :=
  let e0 := s.pte t f
  let old := e0.dw2.toNat
  let dst := bitsAt v 0 21
  let e1 : Pte := { e0 with dw2 := BitVec.ofNat 64 (setBits (setBits old 0 21 dst) 21 29 (v / 2 ^ 21)) }
  if !bitAt v 63 then s.setPte t f e1
  else
    let code := s.migrateCode part t f dst
    if code ≠ 0 then s.setPte t f (e1.withErr true code)
    else
      let s1 := (s.takeFrame (frameBank t dst) e1.part e1.kctx e1.buf).setFrame t dst
        { FrameMeta.reset with lc := (s.frame t f).lc }
      let e2 : Pte := { e1 with dw2 := BitVec.ofNat 64 (setBits (setBits e1.dw2.toNat 63 1 1) 50 9 0) }
      let s2 := (s1.setPte t f (e2.withErr false 0))
      let m : Migration := ⟨t, f, dst, e1.part, e1.ch, e1.vpn, false⟩
      State.shootPage { s2 with migrations := s2.migrations ++ [m] } e1.part e1.buf e1.ch e1.vpn

/-- A write of doubleword `j` of an entry through a translation window (R286, R287). -/
def State.windowWrite (s : State) (part : Nat) (base : Word) (t f j : Nat) (v : Word) : State :=
  if tableFrames t ≤ f || !s.ownsFrame part t f || 3 ≤ j then s
  else
    let e := s.pte t f
    if j = 0 then
      if !e.val then
        let e1 : Pte := { e with dw0 := BitVec.ofNat 64 (setBits v.toNat 3 5 e.part) }
        if bitAt v.toNat 0 then s.insertPte part base t f e1 else s.setPte t f e1
      else if !bitAt v.toNat 0 then s.removePte t f v.toNat
      else s.setPte t f { e with dw0 := BitVec.ofNat 64 (setBits e.dw0.toNat 1 2 (v.toNat / 2)) }
    else if j = 1 then (if e.val then s else s.setPte t f { e with dw1 := v })
    else s.commandPte part t f v.toNat

/-! ## The fault queue view (R319) -/

/-- A doubleword written in the fault queue view: only `HEAD` takes it (R319). -/
def State.faultqWrite (s : State) (part o : Nat) (v : Word) : State :=
  if o = 0x400000 then s.setPart part { s.part part with head := v.setWidth 32 } else s

/-! ## Shoot-downs (R100, R289) -/

/-- The channel pages that the 64 KiB page of a buffer offset uses by one entry of its buffer (R259). -/
def BufEntry.pagesOf (e : BufEntry) (off : Nat) : List (Nat × Nat) :=
  match e.info with
  | none => []
  | some b => (List.range 256).map fun l =>
      let (ch, coff) := b.locate (off / 2 ^ 16 * 2 ^ 16 + 256 * l)
      (ch, coff / 2 ^ 16)

/-- The channel pages that the 64 KiB page of an address value uses in any context of the partition (R100): by the entry
as the table at `base` has it now, and by every entry that some core has used for the buffer. -/
def State.pagesOf (s : State) (core part : Nat) (base : Word) (addr : Nat) : List (Nat × Nat) :=
  let idx := addr / 2 ^ 40
  let used := s.cores.flatMap fun (_, k) => k.bufs.filter fun e => e.part == part && e.idx == idx
  ((s.entryNow core part base idx :: used).flatMap fun e => e.pagesOf (addr % 2 ^ 40)).eraseDups

/-- Whether a shoot-down removes a cached translation (R100). -/
def Shootdown.hits (d : Shootdown) (e : TlbEntry) : Bool :=
  e.part == d.part &&
  (match d.kind.toNat with
    | 0 => e.buf == bitsAt d.operand.toNat 40 24 && d.pages.contains (e.ch, e.cp)
    | 1 => e.buf == bitsAt d.operand.toNat 40 24
    | 2 => e.owner == d.operand.setWidth 32
    | _ => true)

/-- What the running context has issued and has not performed, performed: the reads and writes of `mld` and `mst`, and the
writes of moved chunks. -/
def State.performPending (s : State) : State := ((s.performLoads fun _ => true).performStores).landAll fun _ => true

/-- What a core has accepted and not performed, performed (R289 step 2, R290): the accesses of its matrix array and its
channels, and the writes of its L1. -/
def State.settleCore (s : State) (c : Nat) : State :=
  ((s.harts.filter fun h => h.core.toNat == c).foldl (fun s h => s.onHart h.key State.performPending) s).flushCore c

/-- A shoot-down applied to one core by its responder (R289); `buf` also removes cached buffer entries (R255). The
accesses that used a removed copy perform before it acknowledges. -/
def State.respond (s0 : State) (d : Shootdown) (c : Nat) : State :=
  let s := s0.settleCore c
  let k := s.core c
  let bufs := if d.kind = 1 then
      k.bufs.filter fun e => !(e.part == d.part && e.idx == bitsAt d.operand.toNat 40 24)
    else k.bufs
  (s.setCore c { k with gtlb := k.gtlb.filter fun e => !d.hits e, bufs := bufs }).mapHarts fun h =>
    if h.core.toNat == c then { h with utlb := h.utlb.filter fun e => !d.hits e } else h

/-- A shoot-down applied to every core it addresses. -/
def State.respondAll (s : State) (d : Shootdown) : State := d.cores.foldl (fun s c => s.respond d c) s

/-! ## Ordering (R117, R273) -/

/-- Whether a scope is `stack` or wider. -/
def scopeWide : Scope → Bool
  | .hart | .core => false
  | _ => true

/-- Whether an ordering field releases (R87). -/
def releases (o : Ord) : Bool := decide (o = .rel) || decide (o = .ar)
/-- Whether an ordering field acquires (R87). -/
def acquires (o : Ord) : Bool := decide (o = .acq) || decide (o = .ar)

/-- Whether a place lies beyond the package (R227). -/
def Loc.beyond : Loc → Bool
  | .host _ | .device _ _ => true
  | _ => false

/-- Whether an access has scope `stack` or wider: a piece beyond the package has at least `sys` (R227). -/
def wideFor (sc : Scope) (ps : List Piece1) : Bool := scopeWide sc || ps.any fun p => p.loc.beyond

/-- The dirty bytes of the core's L1 that lie in the sectors of pieces written home (R273). -/
def State.flushPieces (s : State) (ps : List Piece1) : State :=
  ps.foldl (fun s p => match p.loc with
    | .pkg pa => s.flushSectors s.cur.core.toNat pa p.n
    | _ => s) s

/-- What the ordering of an access to some pieces does before it (R236, R273). A release at `stack` or wider writes the
core's dirty bytes home. An acquire at `stack` or wider finds the bytes that it reads at home (R239); it removes clean
copies, which hold no byte of their own in this model. -/
def State.orderBefore (s : State) (o : Ord) (sc : Scope) (ps : List Piece1) : State :=
  let wide := wideFor sc ps
  let s1 := if releases o && wide then s.flushCore s.cur.core.toNat else s
  if acquires o && wide then s1.flushPieces ps else s1

/-- Whether a store goes past L1 to the home (R274), or has to perform there before the hart's later accesses (R87,
R236). -/
def storesHome (evict : BitVec 3) (o : Ord) (sc : Scope) (ps : List Piece1) : Bool :=
  decide (5 ≤ evict.toNat) || acquires o && wideFor sc ps

/-! ## Requests to other devices (R333, R346) -/

/-- A request to another device: its packet type, device, address there and payload. -/
structure RemoteReq where
  type : Nat
  dev : Nat
  addr : Nat
  payload : List Byte
  deriving DecidableEq, Repr

/-- The payload of a request: the byte count in 8 bytes, then the data, in whole flits (DESIGN CHOICE, log entry 25). -/
def reqPayload (n : Nat) (data : List Byte) : List Byte :=
  let p := leBytes 8 n ++ data
  p ++ List.replicate ((64 - p.length % 64) % 64) 0

/-- A packet header (R333). -/
def mkHeader (type scope len src dst tag addr : Nat) : BitVec 128 :=
  BitVec.ofNat 128 (type % 32 * 2 ^ 123 + scope % 8 * 2 ^ 119 + len % 128 * 2 ^ 112 + src % 2 ^ 16 * 2 ^ 96
    + dst % 2 ^ 16 * 2 ^ 80 + tag % 2 ^ 16 * 2 ^ 64 + addr % 2 ^ 64)

/-- The lowest of the 65536 transaction tags that no unanswered request uses (R333, R334). -/
def State.freeTag (s : State) : Option Nat :=
  (List.range (min (2 ^ 16) (s.sent.length + 1))).find? fun t => s.sent.all fun x => x.tag != t

/-- Port `k`. -/
def State.port (s : State) (k : Nat) : Port := tget .reset s.ports k
/-- The state with a port replaced. -/
def State.setPort (s : State) (k : Nat) (v : Port) : State := { s with ports := tset .reset s.ports k v }
/-- The ports that are up. -/
def State.livePorts (s : State) : List Nat := (List.range 16).filter fun k => (s.port k).up
/-- The live port that a free number chooses of the routes (DESIGN CHOICE, log entry 25). -/
def State.routePort (s : State) (n : Nat) : Option Nat := s.livePorts[n % s.livePorts.length]?

/-- The type of a packet. -/
def headerType (h : BitVec 128) : Nat := bitsAt h.toNat 123 5

/-- The flits of a packet: one for its header, then those of its payload (R333). -/
def packetFlits (p : Packet) : List (BitVec 512) :=
  BitVec.ofNat 512 p.header.toNat ::
    (List.range (p.payload.length / 64)).map fun i => BitVec.ofNat 512 (leNat ((p.payload.drop (64 * i)).take 64))

/-- A packet as it is transmitted (R335): with the compressor on, types 1, 2 and 6 go compressed and say so in `C`. -/
def onWire (comp : Bool) (p : Packet) : Packet :=
  let t := headerType p.header
  if comp && (t == 1 || t == 2 || t == 6) then
    let data := compressPayload p.payload
    { p with
      header := BitVec.ofNat 128 (setBits (setBits p.header.toNat 112 7 (data.length / 64)) 122 1 1), payload := data }
  else p

/-- The flits that wait in a port's transmit queue (R335). -/
def Port.waiting (q : Port) : Nat := (q.queue.map fun p => p.payload.length / 64 + 1).sum

/-- The first packet of a queue transmitted: each flit under the next link sequence number, the last 512 held for replay
(R332). -/
def Port.sendFirst (q : Port) : Port :=
  match q.queue with
  | [] => q
  | p :: ps =>
    let fs := packetFlits (onWire q.comp p)
    let held := q.store ++ fs
    { q with queue := ps, seq := q.seq + BitVec.ofNat 12 fs.length, store := held.drop (held.length - 512) }

/-- The first `n` packets of a queue transmitted. -/
def Port.send : Nat → Port → Port
  | 0, q => q
  | n + 1, q => q.sendFirst.send n

/-- A packet put into the transmit queue of its port; how many have left the queue since is a free number
(DESIGN CHOICE, log entry 25). -/
def State.enqueue (s : State) (p : Packet) : State :=
  let (n, s1) := s.draw
  let q := s1.port p.port
  let q1 := if q.up then q.send (n % (q.queue.length + 1)) else q
  s1.setPort p.port { q1 with queue := q1.queue ++ [p] }

/-- The bucket of an injector at a Blufold-X port, 0 to 15, or a Blufold-D link, 16 to 25 (R349; DESIGN CHOICE, log
entry 22). -/
def bucketKey (injector line : Nat) : Nat := injector * 32 + line

/-- A packet injected at a port (R349): it takes its tokens, or waits when there is none, or behind those that wait. -/
def State.injectAt (s : State) (k : Nat) (p : Packet) : State :=
  let level := tget 0 s.buckets k
  if level < 256 || s.stalled.any (fun x => x.1 == k) then { s with stalled := s.stalled ++ [(k, p)] }
  else
    State.enqueue { s with buckets := tset 0 s.buckets k (level - 256 * (p.payload.length / 64 + 1 : Nat)) } p

/-- A packet injected by an injector. -/
def State.inject (s : State) (injector : Nat) (p : Packet) : State := s.injectAt (bucketKey injector p.port) p

/-- A packet that a port is to transmit. -/
def State.packet (s : State) (port part type dev tag addr : Nat) (plain : List Byte) : Packet :=
  ⟨port, part, mkHeader type 5 (plain.length / 64) s.devid.toNat dev tag addr, plain⟩

/-- The injector of a request of the running context: its core, or for a copy transfer its channel, of which a core has
four (R227, R349). -/
def State.injector (s : State) (slot : Nat) : Nat :=
  if slot < copySlot then s.cur.core.toNat
  else
    let id := (slot - copySlot) / 2 ^ 26
    256 + 4 * s.cur.core.toNat + ((s.cur.xfers.find? fun x => x.id == id).map fun x => x.chan.toNat).getD 0

/-- One request sent for the running context (R333, R334): on the port that the routes choose; without a live port it
waits for one, without a free tag for a response. -/
def State.sendReq (s : State) (slot : Nat) (r : RemoteReq) : State :=
  match s.freeTag with
  | none => s
  | some tag =>
    let (n, s1) := s.draw
    let pk (port : Nat) : Packet := s1.packet port s.cur.part r.type r.dev tag r.addr r.payload
    match s1.routePort n with
    | some port =>
      let s2 := s1.inject (s1.injector slot) (pk port)
      { s2 with sent := s2.sent ++ [⟨tag, s.cur.key, slot, pk port, 1, false⟩] }
    | none => { s1 with sent := s1.sent ++ [⟨tag, s.cur.key, slot, pk 0, 0, true⟩] }

/-- The answer to request `slot`. -/
def Hart.answer (h : Hart) (slot : Nat) : Option Answer := h.answers.find? fun a => a.slot == slot

/-- Whether request `slot` of the running context is answered or on its way. -/
def State.asked (s : State) (slot : Nat) : Bool :=
  (s.cur.answer slot).isSome || s.sent.any fun x => decide (x.who = s.cur.key) && x.slot == slot

/-- The requests of an instruction sent, numbered from `k`. -/
def State.sendAll (s : State) : Nat → List RemoteReq → State
  | _, [] => s
  | k, r :: rs => (if s.asked k then s else s.sendReq k r).sendAll (k + 1) rs

/-! ## The shape of a memory instruction -/

/-- How an access to memory ends: a trap, a kill (R323), a wait for another device, the end of the context by an error of
its own transfer (R323), or a result. -/
inductive MemRes (α : Type) where
  | trap (t : Trap) (s : State)
  | kill (t : Trap) (s : State)
  | wait (s : State)
  | gone (s : State)
  | ok (a : α) (s : State)

/-- One access after another. -/
def MemRes.bind {α β : Type} (r : MemRes α) (f : α → State → MemRes β) : MemRes β :=
  match r with
  | .trap t s => .trap t s
  | .kill t s => .kill t s
  | .wait s => .wait s
  | .gone s => .gone s
  | .ok a s => f a s

/-- How a memory instruction of `len` bytes ends; on a result, `f` gives the state that retires. -/
def MemRes.settle {α : Type} (len : Nat) (r : MemRes α) (f : α → State → State) : State :=
  match r with
  | .trap t s => takeTrap t len s
  | .kill t s => s.killCur t
  | .wait s => s.setCur { s.cur with status := .waiting .remote }
  | .gone s => s
  | .ok a s => retire len (f a s)

/-- What a memory instruction of `len` bytes answers. -/
def MemRes.finish {α : Type} (len : Nat) (r : MemRes α) (f : α → State → State) : Out := .next (r.settle len f)

/-- A memory instruction whose earlier checks answer `chk`. -/
def memFinish {α : Type} (len : Nat) (chk : Option Trap) (s : State) (r : MemRes α) (f : α → State → State) : Out :=
  match chk with
  | some t => .next (takeTrap t len s)
  | none => r.finish len f

/-- One unit of an access: its index in the instruction with its coordinates (R112), and the bytes it touches. -/
structure UnitAcc where
  k : Nat
  coords : List Nat
  off : Int
  n : Nat
  align : Nat
  deriving DecidableEq, Repr

/-- The trap of a failed memory check (R112, R316). -/
def unitTrap (idx : Nat) (wr : Bool) (u : UnitAcc) (cause : Nat) (byte : Int) : Trap :=
  { cause := cause, erec1 := addrValue idx byte, wr := wr, ndim := u.coords.length
    i0 := u.coords.getD 0 0, i1 := u.coords.getD 1 0, i2 := u.coords.getD 2 0 }

/-- What the units of an instruction share. -/
structure AccSpec where
  idx : Nat
  kind : Kind
  dword : Bool
  codeOk : Bool
  gather : Bool

/-- One unit of an access by `master` checked, translated and admitted (R347); `m` holds the pages that the instruction
has translated. -/
def State.reachUnitBy (s : State) (master : Nat) (m : Pages) (p : AccSpec) (sp : Space) (u : UnitAcc) :
    MemRes (List Piece1 × Pages) :=
  match s.reach m p.gather ⟨p.idx, u.off, u.n, u.align, p.kind, p.dword, p.codeOk⟩ sp u.coords with
  | (.error (c, b), s1) => .trap (unitTrap p.idx p.kind.writes u c b) s1
  | (.ok (ps, m1), s1) =>
    let (qs, s2) := s1.guardPieces master p.kind.request ps
    .ok (qs, m1) s2

/-- The column of the running context's core, which numbers its masters (R347). -/
def State.column (s : State) : Nat := s.cur.core.toNat / 8

/-- One unit of an access by the running context's core. -/
def State.reachUnit (s : State) (m : Pages) (p : AccSpec) (sp : Space) (u : UnitAcc) : MemRes (List Piece1 × Pages) :=
  s.reachUnitBy s.column m p sp u

/-- The active units checked and translated in increasing order (R112); a further check of each unit, with the pieces
of the units before it, follows its translation. -/
def State.reachUnits (s : State) (p : AccSpec) (sp : Space)
    (more : State → List (List Piece1) → UnitAcc → List Piece1 → Option Trap) :
    Pages → List (List Piece1) → List UnitAcc → MemRes (List (List Piece1))
  | _, done, [] => .ok done.reverse s
  | m, done, u :: us =>
    match s.reachUnit m p sp u with
    | .ok (ps, m1) s1 =>
      match more s1 done u ps with
      | some t => .trap t s1
      | none => s1.reachUnits p sp more m1 (ps :: done) us
    | .trap t s1 => .trap t s1
    | .kill t s1 => .kill t s1
    | .wait s1 => .wait s1
    | .gone s1 => .gone s1

/-- No further check. -/
def noMore : State → List (List Piece1) → UnitAcc → List Piece1 → Option Trap := fun _ _ _ _ => none

/-- The requests that the pieces on other devices need, each with its payload. -/
def deviceReqs (type : Nat) (ps : List Piece1) (payload : Piece1 → List Byte) : List RemoteReq :=
  ps.filterMap fun p => match p.loc with
    | .device d a => some ⟨type, d, a, payload p⟩
    | _ => none

/-- The trap of a fault that came back from another device at byte `j` of a piece (R346): `PAGE` at the address value of the
byte, with the unit's coordinates (R112). Of a unit of several words (`words`), which no rule but R191 has, the first
coordinate is that of the word. -/
def pieceFault (idx : Nat) (wr words : Bool) (p : Piece1) (j : Nat) : Trap :=
  let coords := if words then p.coords.modifyHead (· + j / 4) else p.coords
  unitTrap idx wr ⟨0, coords, p.off, p.n, 1⟩ cPAGE (p.off + j : Nat)

/-- The first fault that came back from another device (R346). The requests of the pieces are numbered from `base`. -/
def State.answerFault (s : State) (base idx : Nat) (wr words : Bool) (ps : List Piece1) : Option Trap :=
  let dev := ps.filter fun p => match p.loc with
    | .device _ _ => true
    | _ => false
  (dev.zipIdx.filterMap fun (p, k) => ((s.cur.answer (base + k)).bind Answer.fault).map fun j => (p, j)).head?.map
    fun (p, j) => pieceFault idx wr words p j

/-- The requests `rs` of the pieces on other devices: sent, and awaited until every one is answered. -/
def State.askAll (s : State) (base idx : Nat) (wr words : Bool) (ps : List Piece1) (rs : List RemoteReq) : MemRes Unit :=
  if (List.range rs.length).all fun k => (s.cur.answer (base + k)).isSome then
    match s.answerFault base idx wr words ps with
    | some t => .trap t s
    | none => .ok () s
  else .wait (s.sendAll base rs)

/-- The requests of an instruction that carry `data`, awaited. -/
def State.askDevices (s : State) (base idx : Nat) (wr : Bool) (type : Nat) (ps : List Piece1)
    (data : Piece1 → List Byte) : MemRes Unit :=
  s.askAll base idx wr false ps (deviceReqs type ps fun p => reqPayload p.n (data p))

/-! ## Writes on other devices (R112, R122, R346; DESIGN CHOICE, log entry 25) -/

/-- The bit of a request's byte count that makes it a question: the target checks the access and does nothing else. -/
def askBit : Nat := 2 ^ 63

/-- The number of the first request that an instruction sends when it has had its effect. -/
def ackSlot : Nat := 2 ^ 37

/-- Whether every target on another device would take the writes or atomics of some pieces, asked before anything is
written anywhere: an instruction is precise as a whole (R112, R122). It then finds a tag for each of its requests
(R334). -/
def State.admitDevices (s : State) (base idx type : Nat) (ps : List Piece1) : MemRes Unit :=
  let rs := deviceReqs type ps fun p => reqPayload (p.n + askBit) []
  (s.askAll base idx true false ps rs).bind fun _ s1 =>
    if rs.isEmpty || decide (s1.sent.length + rs.length ≤ 2 ^ 16) then .ok () s1 else .wait s1

/-- Whether some request numbered from `lo` to below `hi` of the running context is on its way. -/
def State.awaits (s : State) (lo hi : Nat) : Bool :=
  s.sent.any fun x => decide (x.who = s.cur.key) && decide (lo ≤ x.slot) && decide (x.slot < hi)

/-- The writes or atomics that an admitted instruction makes on other devices: sent; the context issues again when each is
acknowledged. -/
def State.postDevices (s : State) (rs : List RemoteReq) : State :=
  if rs.isEmpty then s
  else
    let s1 := s.sendAll ackSlot rs
    s1.setCur { s1.cur with status := .waiting .acks }

/-- The bytes of one piece; `slot` is the number of its request when it lies on another device. -/
def State.pieceBytes (s : State) (slot : Nat) (p : Piece1) : List Byte :=
  match p.loc with
  | .scratch o => Memory.read s.cur.spad o p.n
  | .pkg pa => s.coreBytes s.cur.core.toNat pa p.n
  | .almanac o => (List.range p.n).map fun i => s.almanacByte s.cur.part (o + i)
  | .window o => leBytes 8 (s.windowRead s.cur.part (o / 2 ^ 26) (o % 2 ^ 26 / 32) (o % 32 / 8)).toNat
  | .faultq o => leBytes 8 (s.faultqRead s.cur.part o).toNat
  | .host a => s.hostBytes a p.n
  | .device _ _ => (((s.cur.answer slot).map Answer.data).getD []).take p.n
  | .refused => List.replicate p.n 0

/-- The bytes of pieces in order; `slot` counts the requests to other devices. -/
def State.piecesBytes (s : State) : Nat → List Piece1 → List Byte
  | _, [] => []
  | slot, p :: ps =>
    s.pieceBytes slot p ++ s.piecesBytes (match p.loc with
      | .device _ _ => slot + 1
      | _ => slot) ps

/-- The first poisoned byte that an access at the home of pieces consumes (R323). -/
def State.piecesPoison (s : State) (ps : List Piece1) : Option Nat :=
  (ps.filterMap fun p => match p.loc with
    | .pkg pa => s.poisonedByte s.cur.core.toNat pa p.n
    | _ => none).head?

/-- The first byte of pieces that a load through L1 takes from a poisoned granule, or whose sector it fills from one
(R272, R323). -/
def State.loadPoison (s : State) (ps : List Piece1) : Option Nat :=
  if s.poison.isEmpty then none
  else if s.noL1 then s.piecesPoison ps
  else
    (ps.filterMap fun p => match p.loc with
      | .pkg pa => s.poisonedFill s.cur.core.toNat pa p.n
      | _ => none).head?

/-- A frame that a write of a piece shows to be one of a line-compressed buffer (R278). -/
def State.noteLc (s : State) (p : Piece1) : State :=
  match p.loc with
  | .pkg pa =>
    let m := s.frame (paTable pa) (paFrame pa)
    if p.lc && !m.lc then s.setFrame (paTable pa) (paFrame pa) { m with lc := true } else s
  | _ => s

/-- One piece written by the running context. -/
def State.writePiece (s : State) (atHome : Bool) (p : Piece1) (bs : List Byte) : State :=
  match p.loc with
  | .scratch o => s.setCur (s.cur.writeSpad o bs)
  | .pkg pa => (s.noteLc p).writeBytes (atHome || s.noL1) s.cur.core.toNat pa bs
  | .almanac _ => s
  | .window o => s.windowWrite s.cur.part s.cur.csr.btbase (o / 2 ^ 26) (o % 2 ^ 26 / 32) (o % 32 / 8)
      (BitVec.ofNat 64 (leNat bs))
  | .faultq o => s.faultqWrite s.cur.part o (BitVec.ofNat 64 (leNat bs))
  | .host a => s.hostWrite a bs
  | .device _ _ => s
  | .refused => s

/-- Pieces written in order with consecutive bytes. -/
def State.writePieces (s : State) (atHome : Bool) : List Piece1 → List Byte → State
  | [], _ => s
  | p :: ps, bs => (s.writePiece atHome p (bs.take p.n)).writePieces atHome ps (bs.drop p.n)

/-- Pieces written by a store with an eviction field, which may send them on to the banks (R274). -/
def State.storePieces (s : State) (atHome : Bool) (evict : BitVec 3) (ps : List Piece1) (bs : List Byte) : State :=
  let s1 := s.writePieces atHome ps bs
  if evictsThrough evict then
    s1.sendThrough (ps.flatMap fun p => match p.loc with
      | .pkg pa => (List.range ((pa + p.n - 1) / 128 + 1 - pa / 128)).map fun j => 128 * (pa / 128 + j)
      | _ => [])
  else s1

/-- The buffer index of an address value (R253). -/
def addrIdx (a : Word) : Nat := a.toNat / 2 ^ 40

/-- A contiguous access as it has been found: its space, its pieces, and the pages translated for it. -/
structure Found where
  sp : Space
  ps : List Piece1
  pages : Pages

/-- A contiguous access by `master` checked and translated. -/
def State.reachOneBy (s : State) (master : Nat) (p : AccSpec) (u : UnitAcc) : MemRes Found :=
  let (sp, s1) := s.space p.idx
  (s1.reachUnitBy master [] p sp u).bind fun r s2 => .ok ⟨sp, r.1, r.2⟩ s2

/-- A contiguous access checked and translated, as a scalar instruction makes it. -/
def State.reachOne (s : State) (p : AccSpec) (u : UnitAcc) : MemRes (Space × List Piece1) :=
  (s.reachOneBy s.column p u).bind fun r s1 => .ok (r.sp, r.ps) s1

/-- A contiguous access of the copy-engine channel of the running context's core (R216, R347). -/
def State.reachChan (s : State) (p : AccSpec) (u : UnitAcc) : MemRes Found := s.reachOneBy (32 + s.column) p u

/-! ## Atomic steps (R198, R205, R207) -/

/-- A barrier word that an arrival or a wait refuses (R205). -/
def barRefuses (w : Word) : Bool :=
  let count := bitsAt w.toNat 16 16
  let pend := bitsAt w.toNat 0 16
  count == 0 || pend == 0 || decide (count < pend)

/-- `PHASE` of a barrier word (R205). -/
def barPhase (w : Word) : Bool := bitAt w.toNat 32

/-- A barrier word from its fields (R205). -/
def barWord (phase : Bool) (count pend : Nat) : Word :=
  BitVec.ofNat 64 (bit phase * 2 ^ 32 + count % 2 ^ 16 * 2 ^ 16 + pend % 2 ^ 16)

/-- The word after `Arrive` (R207); bits 63:33 keep their value. -/
def barArrive (w : Word) : Word :=
  let n := w.toNat
  let count := bitsAt n 16 16
  let pend := bitsAt n 0 16 - 1
  let low := if pend = 0 then barWord (!barPhase w) count count else barWord (barPhase w) count pend
  BitVec.ofNat 64 (n / 2 ^ 33 * 2 ^ 33 + low.toNat)

/-- The new word of an atomic step from the old one; none when it writes nothing. `fn` 0 to 9 are the functions of
R198 with operand `x` and compare value `c`, 10 is `Arrive` (R207), 11 a plain write of `x` (`bar.init`), 12 a read. -/
def atomicNew (fn : Nat) (x c old : Word) : Option Word :=
  match fn with
  | 0 => some (old + x)
  | 1 => some (old &&& x)
  | 2 => some (old ||| x)
  | 3 => some (old ^^^ x)
  | 4 => some (if old.toInt ≤ x.toInt then old else x)
  | 5 => some (if old.toInt ≤ x.toInt then x else old)
  | 6 => some (if old.toNat ≤ x.toNat then old else x)
  | 7 => some (if old.toNat ≤ x.toNat then x else old)
  | 8 => some x
  | 9 => if old = c then some x else none
  | 10 => if barRefuses old then none else some (barArrive old)
  | 11 => some x
  | _ => none

end Sys2Proof.Machine
end

