-- ==== Sys2Proof/Machine/Groups.lean ====
section
/-! DEFINITION. The group table (R345), packets that this device sends of its own (R333, R337), and the notice of a killed
member (R224). -/

namespace Sys2Proof.Machine

/-! ## Groups (R345) -/

/-- What a rank map says of one rank. -/
structure Rank where
  task : Word
  dev : BitVec 16
  member : Nat
  deriving DecidableEq, Repr

/-- Rank `r` of the map at an address. -/
def State.rankAt (s : State) (part base r : Nat) : Rank :=
  let d := s.tableDw noCore part (base + 16 * r + 8)
  ⟨BitVec.ofNat 64 (s.tableDw noCore part (base + 16 * r)), BitVec.ofNat 16 (d / 2 ^ 48), d % 2 ^ 13⟩

/-- The rank maps of the valid entries that carry a group. -/
def State.groupMaps (s : State) (part : Nat) (gid : BitVec 16) (sizem1 : Nat) : List Nat :=
  let p := s.part part
  (List.range p.gtcount).filterMap fun k =>
    let a := p.gtbase.toNat + 16 * k
    let d := s.tableDw noCore part a
    if bitAt d 0 && bitsAt d 48 16 == gid.toNat && bitsAt d 36 12 == sizem1 then some (s.tableDw noCore part (a + 8))
    else none

/-- Whether the group table registers a group with the running hart as its member (R220, R345). -/
def State.inGroup (s : State) (g : Group) : Bool :=
  let h := s.cur
  decide (g.rank.toNat ≤ g.sizem1.toNat) &&
    (s.groupMaps h.part g.gid g.sizem1.toNat).any fun base =>
      decide (s.rankAt h.part base g.rank.toNat = ⟨h.task, s.devid, h.member⟩)

/-- The ranks of a group of `n` members, as the table places them now. -/
def State.ranks (s : State) (part : Nat) (gid : BitVec 16) (n : Nat) : List Rank :=
  match s.groupMaps part gid (n - 1) with
  | base :: _ => (List.range n).map (s.rankAt part base)
  | [] => (List.range n).map fun _ => ⟨0, s.devid, 0⟩

/-! ## Packets without a request (R333) -/

/-- A packet sent on the port that the routes choose; without a live port it waits in the queue of port 0. -/
def State.sendOut (s : State) (injector : Nat) (p : Packet) : State :=
  let (n, s1) := s.draw
  s1.inject injector { p with port := (s1.routePort n).getD 0 }

/-- The injector of what a partition sends without a core: its function (R349), after the 256 cores and their 1024
channels. -/
def partInjector (part : Nat) : Nat := 1280 + part

/-- The `CID` of a collective, a member and a chunk (R333). -/
def collId (gid seq : BitVec 16) (m k : Nat) : Nat :=
  gid.toNat * 2 ^ 48 + seq.toNat * 2 ^ 32 + m % 2 ^ 12 * 2 ^ 20 + k % 2 ^ 16 * 2 ^ 4

/-- The function number of a contribution that says that its member was killed (R224; DESIGN CHOICE, log entry 25). -/
def fnKilled : Nat := 255

/-- The groups and sizes of the valid entries of a partition's group table (R345). -/
def State.groupEntries (s : State) (part : Nat) : List (BitVec 16 × Nat) :=
  let p := s.part part
  ((List.range p.gtcount).filterMap fun k =>
    let d := s.tableDw noCore part (p.gtbase.toNat + 16 * k)
    if bitAt d 0 then some (BitVec.ofNat 16 (d / 2 ^ 48), bitsAt d 36 12 + 1) else none).eraseDups

/-- The places that the group table gives a member: the group, the device of its first rank, and the rank (R345). -/
def State.memberships (s : State) (part : Nat) (me : Rank) : List (BitVec 16 × BitVec 16 × Nat) :=
  (s.groupEntries part).flatMap fun (gid, n) =>
    let ranks := s.ranks part gid n
    (ranks.zipIdx.filter fun x => decide (x.1 = me)).map fun x => (gid, (ranks.map Rank.dev).headD s.devid, x.2)

/-- A killed member made known to the combining points on other devices of the groups that the group table places it in,
whether it has executed `gset` or not (R224). -/
def State.tellKill (s : State) (part : Nat) (me : Rank) : State :=
  (s.memberships part me).foldl (fun s (gid, dev, r) =>
    if dev = s.devid then s
    else s.sendOut (partInjector part)
      (s.packet 0 part 6 dev.toNat 0 (collId gid 0 r 0) (reqPayload 1 [BitVec.ofNat 8 fnKilled]))) s

end Sys2Proof.Machine
end

