-- ==== Sys2Proof/Machine/Chunk.lean ====
section
/-! DEFINITION. The chunks of copy transfers (R216, R217), the domain tag copies of lines (R150, R279), and reads that chain
behind transfers (R241, R275). -/

namespace Sys2Proof.Machine

/-! ## Domain tags of `ACT` buffers (R150, R151) -/

/-- The buffer of a space, when it is an `ACT` buffer of package memory. -/
def Space.act? : Space → Option BufInfo
  | .mem b => if b.cls = 2 then some b else none
  | _ => none

/-- The places of the lines of the 4 KiB granule `g` of an `ACT` buffer, by the pages that the instruction has translated
(R150). -/
def State.granuleLines (s : State) (m : Pages) (gather : Bool) (idx : Nat) (sp : Space) (g : Nat) : List Nat × State :=
  (List.range 16).foldl (fun (ls, s) l =>
    match s.locatePiece m gather idx sp true (4096 * g + 256 * l) with
    | (some (.pkg pa), _, s1) => (ls ++ [pa], s1)
    | (_, _, s1) => (ls, s1)) ([], s)

/-! ## Transfers -/

/-- `C` in bytes (R214). -/
def Xfer.size (x : Xfer) : Nat := 256 * 2 ^ x.chunk.toNat

/-- The number of chunks (R215). -/
def Xfer.count (x : Xfer) : Nat := (x.n.toNat + x.size - 1) / x.size

/-- Whether every chunk is done. -/
def Xfer.allDone (x : Xfer) : Bool := (List.range x.count).all x.finished.getLsbD

/-- The trap that reports a stopped transfer (R217, R316). -/
def Xfer.report (x : Xfer) (f : XferFault) : Trap :=
  { cause := cCOPY, erec1 := f.addr.toNat, sub := f.sub, wr := f.wr, async := true, chunk := f.chunk
    ipc := x.ipc.toNat }

/-- The pending deferred fault that an instruction reports (R217, R321): of the chosen transfers the earliest. -/
def Hart.copyFault (h : Hart) (sel : Xfer → Bool) : Option Trap :=
  (h.xfers.find? fun x => sel x && x.stopped.isSome).bind fun x => x.stopped.map x.report

/-- The pending fault of mask `m`; only `m4` to `m7` are completion masks. -/
def Hart.maskFault (h : Hart) (m : Nat) : Option Trap := h.copyFault fun x => x.cm.toNat + 4 == m

/-- Transfer `id` of the running context changed. -/
def State.updXfer (s : State) (id : Nat) (f : Xfer → Xfer) : State :=
  s.setCur { s.cur with xfers := s.cur.xfers.map fun x => if x.id == id then f x else x }

/-- Transfer `id` removed, with the answers to its requests. -/
def Hart.dropXfer (h : Hart) (id : Nat) : Hart :=
  { h with
    xfers := h.xfers.filter fun x => x.id != id
    answers := h.answers.filter fun a => a.slot < copySlot || (a.slot - copySlot) / 2 ^ 26 != id }

/-- The number of the first request of a chunk in one direction (DESIGN CHOICE, log entry 25). -/
def Xfer.slot (x : Xfer) (k : Nat) (wr : Bool) : Nat := copySlot + x.id * 2 ^ 26 + (k * 2 + bit wr) * 2 ^ 10

/-- The number of the first write of a chunk to another device, sent when its checks have passed. -/
def Xfer.postSlot (x : Xfer) (k : Nat) : Nat := copySlot + x.id * 2 ^ 26 + 2 ^ 25 + 2 ^ 24 + k * 2 ^ 10

/-- A fault of chunk `k` held on a transfer: the lowest faulting chunk stays (R217). -/
def Xfer.hold (x : Xfer) (k : Nat) (t : Trap) (wr : Bool) : Xfer :=
  { x with
    started := x.started &&& ~~~(1#16384 <<< k)
    stopped := match x.stopped with
      | some f => if f.chunk ≤ k then some f else some ⟨k, t.cause, wr, BitVec.ofNat 64 t.erec1⟩
      | none => some ⟨k, t.cause, wr, BitVec.ofNat 64 t.erec1⟩ }

/-- Chunk `k` started: its requests to another device are out (R216). -/
def Xfer.start (x : Xfer) (k : Nat) : Xfer := { x with started := x.started ||| (1#16384 <<< k) }

/-- Whether a chunk may move: of a stopped transfer only one that has started (R216). -/
def Xfer.mayMove (x : Xfer) (k : Nat) : Bool :=
  (x.stopped.isNone || x.started.getLsbD k) && decide (k < x.count) && !x.finished.getLsbD k

/-- Whether a transfer is still under way: it has not stopped, or a chunk that it started has not finished (R216). -/
def Xfer.live (x : Xfer) : Bool := x.stopped.isNone || x.started &&& ~~~x.finished != 0

/-- Bytes that overlap their own destination (R216): each is the value before the transfer or one that the transfer
wrote there, a free choice by byte (DESIGN CHOICE, log entry 14). `delta` is the distance from a byte to its source. -/
def overlapByte (orig : Nat → Byte) (old : Nat → Bool) (delta : Int) (len : Nat) : Nat → Nat → Byte
  | 0, i => orig i
  | fuel + 1, i =>
    let j : Int := i + delta
    if old i || j < 0 || (len : Int) ≤ j then orig i else overlapByte orig old delta len fuel j.toNat

/-- The bytes that a chunk writes, from the bytes read. -/
def State.chunkData (s : State) (x : Xfer) (bs : List Byte) : List Byte × State :=
  let delta : Int := (x.src.toNat : Int) - x.dst.toNat
  if addrIdx x.src = addrIdx x.dst && delta ≠ 0 && decide (delta.natAbs < bs.length) then
    let (n, s1) := s.draw
    ((List.range bs.length).map fun i =>
      overlapByte (fun i => bs.getD i 0) (bitAt n) delta bs.length bs.length i, s1)
  else (bs, s)

/-- The engine's unit of a chunk: `n` bytes from `off`, no alignment (R216). -/
def chunkUnit (off n : Nat) : UnitAcc := ⟨0, [], off, n, 1⟩

/-- The source of chunk `k` checked (R216), none for `cpyz`; what lies on another device is read. -/
def State.chunkSource (s : State) (x : Xfer) (k len : Nat) : MemRes (Option Found) :=
  if x.zero then .ok none s
  else
    (s.reachChan ⟨addrIdx x.src, .read, false, true, true⟩
      (chunkUnit (x.src.toNat % 2 ^ 40 + k * x.size) len)).bind fun a s1 =>
      ((s1.flushPieces a.ps).askDevices (x.slot k false) (addrIdx x.src) false 0 a.ps fun _ => []).bind fun _ s2 =>
        .ok (some a) s2

/-- The destination of chunk `k` checked (R216), on other devices too. -/
def State.chunkDest (s : State) (x : Xfer) (k len : Nat) : MemRes Found :=
  (s.reachChan ⟨addrIdx x.dst, .write, false, false, true⟩
    (chunkUnit (x.dst.toNat % 2 ^ 40 + k * x.size) len)).bind fun b s1 =>
    ((s1.flushPieces b.ps).admitDevices (x.slot k true) (addrIdx x.dst) 2 b.ps).bind fun _ s2 => .ok b s2

/-- Bytes of a chunk written (R216): the pieces cut from the chunk's bytes. -/
def pieceData (ps : List Piece1) (bs : List Byte) (p : Piece1) : List Byte :=
  (bs.drop (p.off - (ps.head?.map Piece1.off).getD 0)).take p.n

/-- The granules of an `ACT` destination that chunk `k` completes (R150). -/
def Xfer.completes (x : Xfer) (k : Nat) : List Nat :=
  let d := x.dst.toNat % 2 ^ 40
  let lo := d + k * x.size
  let hi := min (lo + x.size) (d + x.n.toNat)
  ((List.range ((hi - 1) / 4096 + 1 - lo / 4096)).map (lo / 4096 + ·)).filter fun g =>
    let c0 := (4096 * g - d) / x.size
    let c1 := (4096 * g + 4095 - d) / x.size
    decide (d ≤ 4096 * g) && decide (4096 * (g + 1) ≤ d + x.n.toNat) &&
      (List.range (c1 + 1 - c0)).all fun j => c0 + j == k || x.finished.getLsbD (c0 + j)

/-- The tag that a completed granule takes (R150): that of the source granule of the byte copied to the granule's first
byte; 0 when that byte comes from no `ACT` buffer. -/
def State.sourceTag (s : State) (x : Xfer) (src : Option Found) (g : Nat) : Nat × State :=
  match src with
  | none => (0, s)
  | some a =>
    match a.sp.act? with
    | none => (0, s)
    | some _ =>
      match s.locatePiece a.pages true (addrIdx x.src) a.sp false
          (x.src.toNat % 2 ^ 40 + (4096 * g - x.dst.toNat % 2 ^ 40)) with
      | (some (.pkg pa), _, s1) => (s1.lineTag pa, s1)
      | (_, _, s1) => (0, s1)

/-- The line tag copies of a completed granule (R150). -/
def State.granuleTags (s : State) (x : Xfer) (src : Option Found) (dst : Found) (g : Nat) : List (Nat × Nat) × State :=
  let (v, s1) := s.sourceTag x src g
  let (ls, s2) := s1.granuleLines dst.pages true (addrIdx x.dst) dst.sp g
  (ls.map fun pa => (pa, v), s2)

/-- The line tag copies of every granule that chunk `k` completes, granule by granule. -/
def State.chunkTags (s : State) (x : Xfer) (k : Nat) (src : Option Found) (dst : Found) : List (List (Nat × Nat)) × State :=
  match dst.sp.act? with
  | none => ([], s)
  | some _ => (x.completes k).foldl (fun (ts, s) g =>
      let (t, s1) := s.granuleTags x src dst g
      (ts ++ [t], s1)) ([], s)

/-- The bytes that a chunk writes in package memory or, with `host`, in host memory. -/
def chunkCells (host : Bool) (ps : List Piece1) (bs : List Byte) : List Host.Cell :=
  ps.flatMap fun p => ((pieceData ps bs p).zipIdx.filterMap fun (b, i) => match p.loc with
    | .pkg pa => if host then none else some (pa + i, b)
    | .host a => if host then some (a + i, b) else none
    | _ => none)

/-- The writes of a chunk as flights (R216, R226): the bytes of a completed granule with its tag copies, and the rest. -/
def chunkFlights (x : Xfer) (tags : List (List (Nat × Nat))) (ps : List Piece1) (bs : List Byte) : List Flight :=
  let cells := chunkCells false ps bs
  let inside (t : List (Nat × Nat)) (c : Host.Cell) : Bool := t.any fun l => l.1 / 256 == c.1 / 256
  let thru := evictsThrough x.evict
  ⟨x.id, true, thru, chunkCells true ps bs, []⟩ ::
    ⟨x.id, false, thru, cells.filter fun c => !tags.any fun t => inside t c, []⟩ ::
    tags.map fun t => ⟨x.id, false, thru, cells.filter (inside t), t⟩

/-- Chunk `k` of a transfer done: its mask bit is set (R216). -/
def State.finishChunk (s : State) (x : Xfer) (k : Nat) : State :=
  let m := x.cm.toNat + 4
  let r := s.cur.m.getD m .reset
  let s1 := s.setCur { s.cur with m := s.cur.m.setIfInBounds m ⟨r.bits ||| (1#16384 <<< k), r.poison⟩ }
  s1.updXfer x.id fun x => { x with finished := x.finished ||| (1#16384 <<< k) }

/-- The bytes of chunk `k` whose checks have passed (R216): the scratchpad takes them at once, and the rest are in flight,
of which a free choice performs now; what lies on another device is sent, and the chunk is done when it is acknowledged. -/
def State.copyChunk (s : State) (x : Xfer) (k len : Nat) (src : Option Found) (dst : Found) : State :=
  let read := match src with
    | none => List.replicate len 0
    | some a => s.piecesBytes (x.slot k false) a.ps
  let (bs, s1) := s.chunkData x read
  let (tags, s2) := (s1.activate (pieceBanks ((src.map Found.ps).getD []))).chunkTags x k src dst
  let s3 := dst.ps.foldl (fun s p => match p.loc with
    | .scratch _ => s.writePiece true p (pieceData dst.ps bs p)
    | _ => s.noteLc p) s2
  let s4 := s3.setCur ((chunkFlights x tags dst.ps bs).foldl Hart.launchFlight s3.cur)
  let s5 := s4.landSome fun f => f.xfer == x.id
  let rs := deviceReqs 2 dst.ps fun p => reqPayload p.n (pieceData dst.ps bs p)
  if rs.isEmpty then s5.finishChunk x k else (s5.sendAll (x.postSlot k) rs).updXfer x.id fun x => x.start k

/-- Chunk `k` of transfer `x` of the running context moved (R216): checks of the source, then of the destination; a
failure stops the transfer, and an uncorrectable error in the source of a chunk that passes them kills (R323). The channel
translates in the gather TLB (R288). -/
def State.moveChunk (s : State) (x : Xfer) (k : Nat) : State :=
  let len := min x.size (x.n.toNat - k * x.size)
  if s.asked (x.postSlot k) then
    if s.awaits (x.postSlot k) (x.postSlot k + 2 ^ 10) then s else s.finishChunk x k
  else
    match s.chunkSource x k len with
    | .trap t s1 => s1.updXfer x.id fun x => x.hold k t false
    | .kill t s1 => s1.killCur t
    | .wait s1 => s1.updXfer x.id fun x => x.start k
    | .gone s1 => s1
    | .ok src s1 =>
      match s1.chunkDest x k len with
      | .trap t s2 => s2.updXfer x.id fun x => x.hold k t true
      | .kill t s2 => s2.killCur t
      | .wait s2 => s2.updXfer x.id fun x => x.start k
      | .gone s2 => s2
      | .ok dst s2 =>
        match s2.piecesPoison ((src.map Found.ps).getD []) with
        | some pa => s2.killCur { memTrap 4 pa with async := true, chunk := k, ipc := x.ipc.toNat }
        | none => s2.copyChunk x k len src dst

/-- The transfer `id` of a context. -/
def Hart.xfer? (h : Hart) (id : Nat) : Option Xfer := h.xfers.find? fun x => x.id == id

/-- Chunk `k` of transfer `id` of the running context, when it is still to move. -/
def State.runChunk (s : State) (id k : Nat) : State :=
  match s.cur.xfer? id with
  | some x =>
    if x.mayMove k then s.moveChunk x k else s
  | none => s

/-! ## Reads that chain behind transfers (R241, R275) -/

/-- Whether an unwritten byte of `[c0, c1)` keeps an arrival pointer at or below a byte of `[lo, hi)` in its bank (R270,
R275): banks hold 128 bytes in turn, so that the first 16 groups of the one and the last 16 of the other decide. -/
def holdsPointer (c0 c1 lo hi : Nat) : Bool :=
  decide (c0 < c1) && decide (lo < hi) &&
    (List.range 16).any fun i => (List.range 16).any fun j =>
      let y := max c0 (128 * (c0 / 128 + i))
      let g := (hi - 1) / 128 - j
      let x := min (hi - 1) (128 * g + 127)
      decide (y < c1) && decide (lo ≤ x) && decide (y ≤ x) && (c0 / 128 + i) % 16 == g % 16

/-- The chunks of a transfer into the scratchpad that a read of `n` bytes from offset `o` waits for (R275): those not yet
written that hold the pointer of a bank at or below a byte read of the destination. -/
def Xfer.ahead (x : Xfer) (o n : Nat) : List Nat :=
  if x.stopped.isSome || addrIdx x.dst ≠ 0xFFFFFF then []
  else
    let d := x.dst.toNat % 2 ^ 40
    (List.range x.count).filter fun k =>
      !x.finished.getLsbD k &&
        holdsPointer (d + k * x.size) (d + min ((k + 1) * x.size) x.n.toNat) (max o d) (min (o + n) (d + x.n.toNat))

/-- The chunks of the running context's transfers that a read of pieces waits for: transfer and chunk. -/
def Hart.chained (h : Hart) (ps : List Piece1) : List (Nat × Nat) :=
  h.xfers.flatMap fun x => (ps.flatMap fun p => match p.loc with
    | .scratch o => x.ahead o p.n
    | _ => []).map fun k => (x.id, k)

/-- The flights that write bytes or tag copies of some pieces performed: a read that consumes the mask bits of their chunks is
ordered after them (R231). -/
def State.landPieces (s : State) (ps : List Piece1) : State :=
  s.landAll fun f => ps.any fun p => match p.loc with
    | .pkg pa => f.touches pa p.n
    | .host a => f.host && f.cells.any fun c => decide (a ≤ c.1) && decide (c.1 < a + p.n)
    | _ => false

/-- A read of the scratchpad waits until each chunk that it reads has been written, or its transfer has stopped (R241):
those chunks move first (DEDUCED, log entry 17). -/
def State.chain (s : State) (ps : List Piece1) : MemRes Unit :=
  let s1 := (s.cur.chained ps).foldl (fun s c => s.runChunk c.1 c.2) s
  if s1.cur.status ≠ s.cur.status then .gone s1
  else if !(s1.cur.chained ps).isEmpty then .wait s1
  else .ok () s1

/-- The pieces of an instruction read: from other devices first, by requests numbered from `base`; then an uncorrectable
error kills (R323). `words` says that a unit holds several words (R191). -/
def State.readPiecesAt (s : State) (base idx sub : Nat) (words : Bool) (ps : List Piece1) : MemRes (List Byte) :=
  (s.chain ps).bind fun _ s0 =>
  (s0.askAll base idx false words ps (deviceReqs 0 ps fun p => reqPayload p.n [])).bind fun _ s1 =>
    match s1.loadPoison ps with
    | some pa => .kill (memTrap sub pa) s1
    | none => .ok (s1.piecesBytes base ps) s1

/-- The pieces of an instruction that reads once. -/
def State.readPieces (s : State) (idx sub : Nat) (ps : List Piece1) : MemRes (List Byte) :=
  s.readPiecesAt 0 idx sub false ps

end Sys2Proof.Machine
end

