-- ==== Sys2Proof/Machine/ScalarMem.lean ====
section
/-! DEFINITION. Scalar loads and stores (R85-R88, R67) and the atomics (R198-R201). -/

namespace Sys2Proof.Machine

/-- The scalar unit of an access of `n` bytes at `x[rb] + off` (R85): no coordinates. -/
def scalarUnit (a : Word) (off n : Nat) : UnitAcc := ⟨0, [], (a.toNat % 2 ^ 40 + off : Nat), n, n⟩

/-- A later store to a `CODE` buffer supersedes bytes that a hart of the partition may still fetch (R57). -/
def State.noteCode (s : State) (cls : Nat) (ps : List Piece1) : State :=
  if cls ≠ 4 then s
  else
    let old := ps.flatMap fun p => match p.loc with
      | .pkg pa => (List.range p.n).map fun i => (pa + i, s.coreByte s.cur.core.toNat (pa + i))
      | _ => []
    s.mapHarts fun h =>
      if h.part == s.cur.part then
        { h with ifetch := old.foldl (fun o c => if (overlayGet o c.1).isSome then o else overlaySet o c.1 c.2) h.ifetch }
      else h

/-- A load of `n` bytes (R85-R87): the bytes read, with the access counted. -/
def State.loadOne (s : State) (p : AccSpec) (o : Ord) (sc : Scope) (u : UnitAcc) : MemRes (List Byte) :=
  (s.reachOne p u).bind fun (_, ps) s1 =>
    ((s1.orderBefore o sc ps).readPieces p.idx 1 ps).bind fun bs s2 => .ok bs (s2.count p.idx ps [])

/-- A store of bytes (R85-R87), counted (R88). -/
def State.storeOne (s : State) (p : AccSpec) (o : Ord) (sc : Scope) (evict : BitVec 3) (u : UnitAcc)
    (bs : List Byte) : MemRes Unit :=
  (s.reachOne p u).bind fun (sp, ps) s1 =>
    ((s1.orderBefore o sc ps).admitDevices 0 p.idx 2 ps).bind fun _ s2 =>
      let s3 := (s2.noteCode sp.cls ps).storePieces (storesHome evict o sc ps) evict ps bs
      let s4 := s3.postDevices (deviceReqs 2 ps fun x => reqPayload x.n (pieceData ps bs x))
      .ok () (s4.count p.idx ps ps)

/-- A scalar load (R85, R86): `n` bytes at `x[rb] + off`, sign-extended unless `uns`. -/
def loadExec (len n : Nat) (uns : Bool) (rd rb : BitVec 5) (o : Ord) (sc : Scope) (off : Nat) (s : State) : Out :=
  let a := s.readX rb
  memFinish len (s.cur.scalarPoison [rb]) s
    (s.loadOne ⟨addrIdx a, .read, n == 8, true, false⟩ o sc (scalarUnit a off n))
    fun bs s1 =>
      let v := leNat bs
      s1.writeX rd (if uns then BitVec.ofNat 64 v else BitVec.ofInt 64 (signedOf (8 * n) v))

/-- A scalar store (R85, R86): the low `n` bytes of `x[rs]` to `x[rb] + off`. -/
def storeExec (len n : Nat) (rs rb : BitVec 5) (o : Ord) (sc : Scope) (evict : BitVec 3) (off : Nat) (s : State) :
    Out :=
  let a := s.readX rb
  memFinish len (s.cur.scalarPoison [rs, rb]) s
    (s.storeOne ⟨addrIdx a, .write, n == 8, true, false⟩ o sc evict (scalarUnit a off n)
      (leBytes n (s.readX rs).toNat))
    fun _ s1 => s1

/-- `ld.b` (R85, R86); the eviction field changes no value (R87) -/
def execLdB (rd rb : BitVec 5) (ord : Ord) (scope : Scope) (_evict imm : BitVec 3) (s : State) : Out :=
  loadExec 4 1 false rd rb ord scope (imm.toNat * 1) s

/-- `ld.bu` (R85, R86); the eviction field changes no value (R87) -/
def execLdBu (rd rb : BitVec 5) (ord : Ord) (scope : Scope) (_evict imm : BitVec 3) (s : State) : Out :=
  loadExec 4 1 true rd rb ord scope (imm.toNat * 1) s

/-- `ld.h` (R85, R86); the eviction field changes no value (R87) -/
def execLdH (rd rb : BitVec 5) (ord : Ord) (scope : Scope) (_evict imm : BitVec 3) (s : State) : Out :=
  loadExec 4 2 false rd rb ord scope (imm.toNat * 2) s

/-- `ld.hu` (R85, R86); the eviction field changes no value (R87) -/
def execLdHu (rd rb : BitVec 5) (ord : Ord) (scope : Scope) (_evict imm : BitVec 3) (s : State) : Out :=
  loadExec 4 2 true rd rb ord scope (imm.toNat * 2) s

/-- `ld.w` (R85, R86); the eviction field changes no value (R87) -/
def execLdW (rd rb : BitVec 5) (ord : Ord) (scope : Scope) (_evict imm : BitVec 3) (s : State) : Out :=
  loadExec 4 4 false rd rb ord scope (imm.toNat * 4) s

/-- `ld.wu` (R85, R86); the eviction field changes no value (R87) -/
def execLdWu (rd rb : BitVec 5) (ord : Ord) (scope : Scope) (_evict imm : BitVec 3) (s : State) : Out :=
  loadExec 4 4 true rd rb ord scope (imm.toNat * 4) s

/-- `ld.d` (R85, R86); the eviction field changes no value (R87) -/
def execLdD (rd rb : BitVec 5) (ord : Ord) (scope : Scope) (_evict imm : BitVec 3) (s : State) : Out :=
  loadExec 4 8 false rd rb ord scope (imm.toNat * 8) s

/-- `st.b` (R85, R86) -/
def execStB (rs rb : BitVec 5) (ord : Ord) (scope : Scope) (evict imm : BitVec 3) (s : State) : Out :=
  storeExec 4 1 rs rb ord scope evict (imm.toNat * 1) s

/-- `st.h` (R85, R86) -/
def execStH (rs rb : BitVec 5) (ord : Ord) (scope : Scope) (evict imm : BitVec 3) (s : State) : Out :=
  storeExec 4 2 rs rb ord scope evict (imm.toNat * 2) s

/-- `st.w` (R85, R86) -/
def execStW (rs rb : BitVec 5) (ord : Ord) (scope : Scope) (evict imm : BitVec 3) (s : State) : Out :=
  storeExec 4 4 rs rb ord scope evict (imm.toNat * 4) s

/-- `st.d` (R85, R86) -/
def execStD (rs rb : BitVec 5) (ord : Ord) (scope : Scope) (evict imm : BitVec 3) (s : State) : Out :=
  storeExec 4 8 rs rb ord scope evict (imm.toNat * 8) s

/-- `h.ld.d` (R67): `ld.d`, plain, at `hart` scope -/
def execHLdD (rd rb : BitVec 5) (imm : BitVec 1) (s : State) : Out :=
  loadExec 2 8 false rd rb .pl .hart (imm.toNat * 8) s

/-- `h.st.d` (R67): `st.d`, plain, at `hart` scope, eviction 0 -/
def execHStD (rs rb : BitVec 5) (imm : BitVec 1) (s : State) : Out :=
  storeExec 2 8 rs rb .pl .hart 0 (imm.toNat * 8) s

/-- `h.ld.w` (R67): `ld.w`, plain, at `hart` scope -/
def execHLdW (rd rb : BitVec 5) (imm : BitVec 1) (s : State) : Out :=
  loadExec 2 4 false rd rb .pl .hart (imm.toNat * 4) s

/-- `h.st.w` (R67): `st.w`, plain, at `hart` scope, eviction 0 -/
def execHStW (rs rb : BitVec 5) (imm : BitVec 1) (s : State) : Out :=
  storeExec 2 4 rs rb .pl .hart 0 (imm.toNat * 4) s

/-! ## Atomics (R198-R201) -/

/-- The data of an atomic request to another device (R333; DESIGN CHOICE, log entry 25): function, operand, compare value. -/
def atomicData (fn : Nat) (x c : Word) : List Byte := leBytes 8 fn ++ leBytes 8 x.toNat ++ leBytes 8 c.toNat

/-- One atomic step on a doubleword (R199, R200): the old value is combined at the home in one step, and the core's own
L1 copies of the sector go (R273). The answer is the old value with the pieces touched; nothing is counted yet.
Requests to other devices are numbered from `base`. -/
def State.atomicStep (s : State) (base idx : Nat) (o : Ord) (sc : Scope) (u : UnitAcc) (fn : Nat) (x c : Word) :
    MemRes (Word × List Piece1) :=
  (s.reachOne ⟨idx, .atomic, false, false, false⟩ u).bind fun (_, ps) s1 =>
    let s2 := s1.orderBefore o sc ps
    let k := s2.cur.core.toNat
    let s3 := ps.foldl (fun s p => match p.loc with
      | .pkg pa => s.flushSectors k pa p.n
      | _ => s) s2
    (s3.askDevices base idx true 4 ps fun _ => atomicData fn x c).bind fun _ s4 =>
      match (if fn = 11 then none else s4.piecesPoison ps) with
      | some pa => .kill (memTrap 3 pa) s4
      | none =>
        let old : Word := BitVec.ofNat 64 (leNat (s4.piecesBytes base ps))
        match atomicNew fn x c old with
        | some new => .ok (old, ps) (s4.writePieces true ps (leBytes 8 new.toNat))
        | none => .ok (old, ps) s4

/-- One atomic step, counted (R200, R261). -/
def State.atomicOne (s : State) (idx : Nat) (o : Ord) (sc : Scope) (u : UnitAcc) (fn : Nat) (x c : Word) :
    MemRes Word :=
  (s.atomicStep 0 idx o sc u fn x c).bind fun (old, ps) s1 =>
    .ok old (s1.count idx ps (if (atomicNew fn x c old).isSome then ps else []))

/-- An atomic (R198, R200): `x[rd]` becomes the old value. -/
def amoExec (fn : Nat) (rd ra rb : BitVec 5) (o : Ord) (sc : Scope) (s : State) : Out :=
  let a := s.readX rb
  memFinish 4 (s.cur.scalarPoison (if fn = 9 then [rb, ra, rd] else [rb, ra])) s
    (s.atomicOne (addrIdx a) o sc (scalarUnit a 0 8) fn (s.readX ra) (s.readX rd))
    fun old s1 => s1.writeX rd old

/-- `amo.add` (R198) -/
def execAmoAdd (rd ra rb : BitVec 5) (ord : Ord) (scope : Scope) (s : State) : Out :=
  amoExec 0 rd ra rb ord scope s

/-- `amo.and` (R198) -/
def execAmoAnd (rd ra rb : BitVec 5) (ord : Ord) (scope : Scope) (s : State) : Out :=
  amoExec 1 rd ra rb ord scope s

/-- `amo.or` (R198) -/
def execAmoOr (rd ra rb : BitVec 5) (ord : Ord) (scope : Scope) (s : State) : Out :=
  amoExec 2 rd ra rb ord scope s

/-- `amo.xor` (R198) -/
def execAmoXor (rd ra rb : BitVec 5) (ord : Ord) (scope : Scope) (s : State) : Out :=
  amoExec 3 rd ra rb ord scope s

/-- `amo.min` (R198) -/
def execAmoMin (rd ra rb : BitVec 5) (ord : Ord) (scope : Scope) (s : State) : Out :=
  amoExec 4 rd ra rb ord scope s

/-- `amo.max` (R198) -/
def execAmoMax (rd ra rb : BitVec 5) (ord : Ord) (scope : Scope) (s : State) : Out :=
  amoExec 5 rd ra rb ord scope s

/-- `amo.minu` (R198) -/
def execAmoMinu (rd ra rb : BitVec 5) (ord : Ord) (scope : Scope) (s : State) : Out :=
  amoExec 6 rd ra rb ord scope s

/-- `amo.maxu` (R198) -/
def execAmoMaxu (rd ra rb : BitVec 5) (ord : Ord) (scope : Scope) (s : State) : Out :=
  amoExec 7 rd ra rb ord scope s

/-- `amo.swap` (R198) -/
def execAmoSwap (rd ra rb : BitVec 5) (ord : Ord) (scope : Scope) (s : State) : Out :=
  amoExec 8 rd ra rb ord scope s

/-- `amo.cas` (R198) -/
def execAmoCas (rd ra rb : BitVec 5) (ord : Ord) (scope : Scope) (s : State) : Out :=
  amoExec 9 rd ra rb ord scope s

end Sys2Proof.Machine
end

