-- ==== Sys2Proof/Machine/Barrier.lean ====
section
/-! DEFINITION. Barriers (R205-R209). -/

namespace Sys2Proof.Machine

/-- `BAR` at a barrier word (R205). -/
def trapBAR (a : Word) : Trap := { cause := cBAR, erec1 := addrValue (addrIdx a) (a.toNat % 2 ^ 40 : Nat) }

/-- `Arrive` (R207): the parity of the phase arrived at, with the pieces touched. -/
def State.barArriveStep (s : State) (base : Nat) (a : Word) (sc : Scope) : MemRes (Bool × List Piece1) :=
  (s.atomicStep base (addrIdx a) .rel sc (scalarUnit a 0 8) 10 0 0).bind fun (old, ps) s1 =>
    if barRefuses old then .trap (trapBAR a) s else .ok (barPhase old, ps) s1

/-- A read of the word by a waiter (R207): `PHASE`, with the pieces touched. -/
def State.barReadStep (s : State) (a : Word) (sc : Scope) : MemRes (Bool × List Piece1) :=
  (s.atomicStep 0 (addrIdx a) .acq sc (scalarUnit a 0 8) 12 0 0).bind fun (old, ps) s1 =>
    if barRefuses old then .trap (trapBAR a) s else .ok (barPhase old, ps) s1

/-- The wait of the running context (R207): it retires when `PHASE` is not `q`, else it goes on waiting. `rd` is the
destination of a `bar.arvwait`. -/
def barWaitRun (a : Word) (q : Bool) (rd : Option (BitVec 5)) (sc : Scope) (s : State) : State :=
  match s.barReadStep a sc with
  | .ok (p, ps) s1 =>
    if p == q then
      let s2 := s.wakeWaiting (pieceBanks ps)
      s2.setCur { s2.cur with status := .waiting (.barrier a q rd sc), answers := keepAnswers s2.cur.answers }
    else
      let s2 := s1.count (addrIdx a) ps (if rd.isSome then ps else [])
      let h := match rd with
        | some r => s2.cur.writeX r (if q then 1 else 0)
        | none => s2.cur
      retire 4 (s2.setCur { h with status := .running, wstate := none })
  | .trap t s1 => takeTrap t 4 s1
  | .kill t s1 => s1.killCur t
  | .wait s1 => s1.setCur { s1.cur with status := .waiting .remote }
  | .gone s1 => s1

/-- `bar.init` (R207): the count is checked before memory. -/
def execBarInit (rb ra : BitVec 5) (scope : Scope) (s : State) : Out :=
  let a := s.readX rb
  let c := (s.readX ra).toNat
  memFinish 4 (firstTrap [
      s.cur.scalarPoison [ra, rb],
      failIf (c == 0 || decide (65535 < c)) { cause := cBAR, erec1 := c }]) s
    (s.atomicOne (addrIdx a) .pl scope (scalarUnit a 0 8) 11 (barWord false c c) 0)
    fun _ s1 => s1

/-- `bar.arv` (R207, R208) -/
def execBarArv (rd rb : BitVec 5) (scope : Scope) (s : State) : Out :=
  let a := s.readX rb
  memFinish 4 (s.cur.scalarPoison [rb]) s
    ((s.barArriveStep 0 a scope).bind fun (p, ps) s1 => .ok p (s1.count (addrIdx a) ps ps))
    fun p s1 => s1.writeX rd (if p then 1 else 0)

/-- `bar.wait` (R207, R208) -/
def execBarWait (rb ra : BitVec 5) (scope : Scope) (s : State) : Out :=
  match s.cur.scalarPoison [ra, rb] with
  | some t => .next (takeTrap t 4 s)
  | none => .next (barWaitRun (s.readX rb) ((s.readX ra).getLsbD 0) none scope s)

/-- `bar.arvwait` (R207, R209): an arrival made before a save is not made again. -/
def execBarArvwait (rd rb : BitVec 5) (scope : Scope) (s : State) : Out :=
  let a := s.readX rb
  match s.cur.scalarPoison [rb] with
  | some t => .next (takeTrap t 4 s)
  | none =>
    match s.cur.wstate with
    | some q => .next (barWaitRun a q (some rd) scope s)
    | none =>
      match s.barArriveStep 0 a scope with
      | .ok (q, ps) s1 =>
        let s2 := s1.wakeWaiting (pieceBanks ps)
        .next (barWaitRun a q (some rd) scope
          (s2.setCur { s2.cur with wstate := some q, answers := keepAnswers s2.cur.answers }))
      | .trap t s1 => .next (takeTrap t 4 s1)
      | .kill t s1 => .next (s1.killCur t)
      | .wait s1 => .next (s1.setCur { s1.cur with status := .waiting .remote })
      | .gone s1 => .next s1

/-- BAR_WAIT_COMPLETE (R207): a waiting context looks at its word again. -/
def execBarWaitComplete (k : CtxKey) (s : State) : Out :=
  .next (s.onHart k fun s1 =>
    match s1.cur.status with
    | .waiting (.barrier a q rd sc) => barWaitRun a q rd sc s1
    | _ => s1)

end Sys2Proof.Machine
end

