-- ==== Sys2Proof/Machine/Copy.lean ====
section
/-! DEFINITION. Copy transfers (R214-R218): acceptance, arrival, deferred faults, and the instructions. -/

namespace Sys2Proof.Machine

/-! ## Transfers -/

/-- A transfer with every chunk done ends (R216): it arrives at its barrier, before which all its writes perform (R231); a
failed arrival is a fault it holds (R217). -/
def State.endXfer (s : State) (id : Nat) : State :=
  match s.cur.xfer? id with
  | none => s
  | some x =>
    if x.stopped.isSome || !x.allDone then s
    else if !x.bar then s.setCur (s.cur.dropXfer id)
    else
      match (s.landAll fun f => f.xfer == id).barArriveStep (copySlot + x.id * 2 ^ 26 + 2 ^ 25) x.xbar x.scope with
      | .ok (_, ps) s1 =>
        let s2 := s1.activate (pieceBanks ps)
        s2.setCur (s2.cur.dropXfer id)
      | .trap t s1 => s1.updXfer id fun x => x.hold x.count t false
      | .kill t s1 => s1.killCur t
      | .wait s1 => s1
      | .gone s1 => s1

/-- Chunks `k`, `k + 1`, … of transfer `id` moved. -/
def State.runChunks (s : State) (id : Nat) : Nat → Nat → State
  | _, 0 => s
  | k, n + 1 => (s.runChunk id k).runChunks id (k + 1) n

/-- The chosen transfers of the running context run until each has ended, or stopped on a fault, or waits for another
device (DEDUCED, log entry 17). -/
def State.drainCopies (s : State) (sel : Xfer → Bool) : State :=
  (s.cur.xfers.filter sel).foldl (fun s x => (s.runChunks x.id 0 x.count).endXfer x.id) s

/-- Whether a chosen transfer is still under way. -/
def Hart.copying (h : Hart) (sel : Xfer → Bool) : Bool := h.xfers.any fun x => sel x && x.live

/-! ## The instructions -/

/-- The most bytes of a transfer (R215). -/
def copyMax (chunk : BitVec 3) : Nat := 16384 * (256 * 2 ^ chunk.toNat)

/-- The number of a new transfer: none has it that is under way or has writes in flight. -/
def Hart.newXfer (h : Hart) : Nat := h.flights.foldl (fun a f => max a f.xfer) (h.xfers.foldl (fun a x => max a x.id) 0) + 1

/-- Whether a transfer touches frames beyond the package, so that its scope is at least `sys` (R227). -/
def State.copyBeyond (s : State) (x : Xfer) : Bool :=
  let remote (a : Word) : Bool := (s.remoteOf s.cur.core.toNat s.cur.part (addrIdx a)).isSome
  remote x.dst || !x.zero && remote x.src

/-- A transfer accepted by its channel (R216): the mask bound, the operands recorded. With `.rel` every earlier access
of the hart performs at the scope first (R216, R238). -/
def State.acceptCopy (s : State) (x : Xfer) : State :=
  let s1 := s.orderBefore x.ord (if s.copyBeyond x then .sys else x.scope) []
  s1.setCur { s1.cur with
    xfers := s1.cur.xfers ++ [{ x with id := s1.cur.newXfer }]
    binds := s1.cur.binds.setIfInBounds x.cm.toNat (some ⟨x.dst, x.size, x.n⟩) }

/-- `cpy` and `cpyz` (R215-R217). A full channel delays issue (R216): its transfers run first. -/
def copyExec (bits : Nat) (reads : List (BitVec 5)) (x : Xfer) (s : State) : Out :=
  match firstTrap [
      failIf (decide (copyMax x.chunk < x.n.toNat)) (trapILL bits),
      s.cur.scalarPoison reads,
      s.cur.maskFault (x.cm.toNat + 4)] with
  | some t => .next (takeTrap t 8 s)
  | none =>
    let onChan (y : Xfer) : Bool := y.chan == x.chan
    let full (h : Hart) : Bool := decide (16 ≤ (h.xfers.filter onChan).length)
    let s1 := if full s.cur then s.drainCopies onChan else s
    if full s1.cur || s1.cur.status ≠ .running then .next s1 else .next (retire 8 (s1.acceptCopy x))

/-- `cpy` (R216) -/
def execCpy (xd xs xn : BitVec 5) (chunk : BitVec 3) (chan cm : BitVec 2) (bar : BitVec 1) (xbar : BitVec 5) (ord : Ord)
    (scope : Scope) (evict : BitVec 3) (s : State) : Out :=
  copyExec (Instr.cpy xd xs xn chunk chan cm bar xbar ord scope evict).bits.toNat
    ([xd, xs, xn] ++ if bar = 1 then [xbar] else [])
    ⟨0, s.readX xd, s.readX xs, s.readX xn, chunk, chan, scope, ord, evict, bar == 1,
      if bar = 1 then s.readX xbar else 0, cm, false, s.cur.pc.setWidth 40, 0, 0, none⟩ s

/-- `cpyz` (R216) -/
def execCpyz (xd xn : BitVec 5) (chunk : BitVec 3) (chan cm : BitVec 2) (bar : BitVec 1) (xbar : BitVec 5) (ord : Ord)
    (scope : Scope) (evict : BitVec 3) (s : State) : Out :=
  copyExec (Instr.cpyz xd xn chunk chan cm bar xbar ord scope evict).bits.toNat
    ([xd, xn] ++ if bar = 1 then [xbar] else [])
    ⟨0, s.readX xd, 0, s.readX xn, chunk, chan, scope, ord, evict, bar == 1,
      if bar = 1 then s.readX xbar else 0, cm, true, s.cur.pc.setWidth 40, 0, 0, none⟩ s

/-- The chosen transfers waited for (R203, R211, R218): drained; a pending fault is reported; else `f` follows. -/
def afterCopies (len : Nat) (sel : Xfer → Bool) (exitReg : Option (BitVec 5)) (s : State) (f : State → State) : State :=
  let s1 := s.drainCopies sel
  if s1.cur.status ≠ .running then s1
  else if s1.cur.copying sel then s1.setCur { s1.cur with status := .waiting .remote }
  else
    match s1.cur.copyFault sel with
    | some t => takeTrapWith t len exitReg s1
    | none => f s1

/-- `cmask` (R218): waits for the transfers of the mask, then clears it and removes the binding. -/
def execCmask (cm : BitVec 2) (s : State) : Out :=
  .next (afterCopies 8 (fun x => x.cm == cm) none s fun s1 =>
    retire 8 (s1.setCur { s1.cur with
      m := s1.cur.m.setIfInBounds (cm.toNat + 4) ⟨0, 0⟩
      binds := s1.cur.binds.setIfInBounds cm.toNat none }))

/-! ## The engine's own steps -/

/-- Whether chunk `k` of transfer `id` is still to move. -/
def Hart.toMove (h : Hart) (id k : Nat) : Bool := ((h.xfer? id).map fun x => x.mayMove k).getD false

/-- The oldest write in flight of transfer `id` performed, and a free choice of the others (R228, R238). -/
def State.landNext (s : State) (id : Nat) : State :=
  match s.cur.flights.find? fun f => f.xfer == id with
  | none => s
  | some f => (s.landAll fun g => decide (g = f)).landSome fun g => g.xfer == id

/-- COPY_CHUNK (R216): a channel moves chunk `chunk` of transfer `xfer` of context `k`, or when that is not to move performs
writes of chunks that have moved. -/
def execCopyChunk (k : CtxKey) (xfer chunk : Nat) (s : State) : Out :=
  .next (s.onHart k fun s1 => if s1.cur.toMove xfer chunk then s1.runChunk xfer chunk else s1.landNext xfer)

/-- COPY_TRANSFER_FINISH (R216): transfer `xfer` of context `k`, with every chunk done, arrives. -/
def execCopyTransferFinish (k : CtxKey) (xfer : Nat) (s : State) : Out :=
  .next (s.onHart k fun s1 => s1.endXfer xfer)

end Sys2Proof.Machine
end

