-- ==== Sys2Proof/Machine/Phase.lean ====
section
/-! DEFINITION. Bandwidth phases and the pins they take (R265, R266). -/

namespace Sys2Proof.Machine

/-- `BWPHASE` written with phase `p` by a context (R265): a phase below `STREAM` is acknowledged at once and drops the
pins, and so is one that the acknowledged phase already promises; a raise waits. -/
def Hart.setPhase (h : Hart) (p : BitVec 2) : Hart :=
  if p.toNat ≤ 1 || p.toNat ≤ h.csr.phack.toNat then
    { h with csr := { h.csr with bwphase := p, phack := p }, raise := none }
  else { h with csr := { h.csr with bwphase := p }, raise := some p }

/-- The write of `BWPHASE` by the running context (R265). -/
def State.writePhase (s : State) (p : BitVec 2) : State :=
  let s1 := s.setCur (s.cur.setPhase p)
  if p.toNat ≤ 1 then s1.dropPins s.cur.key else s1

/-- BWPHASE_WRITE (R265). -/
def execBwphaseWrite (k : CtxKey) (v : Word) (s : State) : Out :=
  .next (s.onHart k fun s1 => s1.writePhase (v.setWidth 2))

/-- The raise that the running context declared is acknowledged (R265): its covered banks are woken and pinned; a
context restored at a saved phase then issues (R266). -/
def State.acknowledge (s : State) : State :=
  match s.cur.raise with
  | none => s
  | some p =>
    let k := s.cur.key
    let s1 := (s.coveredBanks s.cur).foldl (fun s b => s.setBank b ((s.bank b).pin [k] (p == 3))) s
    s1.setCur { s1.cur with
      csr := { s1.cur.csr with phack := p }
      raise := none
      status := if s1.cur.status = .waiting .phase then .running else s1.cur.status }

/-- PHASE_ACKNOWLEDGE (R265). -/
def execPhaseAcknowledge (k : CtxKey) (s : State) : Out := .next (s.onHart k State.acknowledge)

end Sys2Proof.Machine
end

