-- ==== Sys2Proof/Machine/Context.lean ====
section
/-! DEFINITION. Save images (R326-R328), stopping and saving a context (R315, R325), restoring one (R329), and what a
resume does to the instruction and its transfers (R320, R321). -/

namespace Sys2Proof.Machine

/-! ## Register images -/

/-- The bits 26:0 of a descriptor, `DIRTY` as 0 (R18, R119, R327). -/
def Desc.word (d : Desc) : Nat :=
  d.tag.code * 2 ^ 21 + d.dom.toNat * 2 ^ 18 + d.grp.toNat * 2 ^ 16 + d.valen.toNat * 2

/-- Whether a descriptor is one that a register may hold (R18, R36, R103). -/
def descOk (w : Nat) : Bool :=
  match Tag.ofCode? (bitsAt w 21 6) with
  | none => false
  | some t =>
    decide (bitsAt w 1 15 ≤ tagCap t) &&
      (bitsAt w 18 3 == 0 || (decide (t ≠ .none) && decide (t ≠ .hb)))

/-- The descriptor of bits 26:0. -/
def Desc.ofWord (w : Nat) (dirty : Bool) : Desc :=
  ⟨(Tag.ofCode? (bitsAt w 21 6)).getD .none, BitVec.ofNat 3 (bitsAt w 18 3), BitVec.ofNat 2 (bitsAt w 16 2),
    BitVec.ofNat 15 (bitsAt w 1 15), dirty⟩

/-- The bits of a register as R21 reads them: zero at and above the valid length, with scale -512 in whole blocks. -/
def VReg.image (r : VReg) : Nat :=
  let t := r.desc.tag
  if t = .none then 0
  else
    let k := if tagBlock t then unitsPer t else r.desc.valen.toNat
    (List.range k).foldl (fun b u => putUnit t b u (r.unit t u)) 0

/-- The element groups that the save engine writes of a register (R328). -/
def VReg.groups (r : VReg) : Nat :=
  let t := r.desc.tag
  let n := r.desc.valen.toNat
  if t = .none then 0
  else if tagBlock t then ((n + 31) / 32 * (tagWidth t + 1) + 31) / 32
  else ((n * tagWidth t + 7) / 8 + 127) / 128

/-- `VL` as the CSR reads (R31). -/
def Csrs.vlWord (c : Csrs) : Nat := bit c.mp * 2 ^ 17 + bit c.tp * 2 ^ 16 + c.vl.toNat

/-- A group register as its word (R27). -/
def Group.word (g : Group) : Nat :=
  g.gid.toNat * 2 ^ 48 + g.sizem1.toNat * 2 ^ 36 + g.rank.toNat * 2 ^ 24 + g.seq.toNat * 2 ^ 8 + bit g.val

/-- The group register of a word (R27). -/
def Group.ofWord (w : Nat) : Group :=
  ⟨BitVec.ofNat 16 (bitsAt w 48 16), BitVec.ofNat 12 (bitsAt w 36 12), BitVec.ofNat 12 (bitsAt w 24 12),
    BitVec.ofNat 16 (bitsAt w 8 16), bitAt w 0⟩

/-- The constants of a valid extent (R26). -/
def Extent.ofWord (e : Nat) : Extent :=
  let l := if e ≤ 1 then 0 else (e - 1).log2 + 1
  ⟨BitVec.ofNat 32 e, l, (2 ^ (32 + l) + e - 1) / e⟩

/-- The shape entry of a record (R108): the extents below `NEXT`, or an invalid entry. -/
def shapeOf (next : Nat) (es : List Nat) : List Extent :=
  if 1 ≤ next && next ≤ 5 && (es.take next).all (fun e => decide (1 ≤ e)) && decide (next ≤ es.length) then
    (es.take next).map Extent.ofWord
  else []

/-! ## The image (R326, R327) -/

/-- Code of a save reason. -/
def Reason.code : Reason → Nat
  | .preempt => 0
  | .trap => 1
  | .ctxSave => 2

/-- The doublewords at 0x100 of the control page, in their order (R327). -/
def Hart.saveWords (h : Hart) : List Nat :=
  let c := h.csr
  [h.pc.toNat, c.vlWord, c.fcsr.toNat, c.lctr.toNat, c.lrem.toNat, c.bwphase.toNat] ++
    c.thr.toList.map BitVec.toNat ++
    [c.zcnt.toNat, c.rcnt.toNat, c.hcdist.toNat, c.hcidx2.toNat, c.hcdist2.toNat, c.hcflags.toNat, c.hcthr.toNat,
      c.epact.toNat, c.reqloc.toNat, c.reqrem.toNat, c.wakes.toNat, c.rmwc.toNat, c.epc.toNat, c.ecause.toNat,
      c.erec0.toNat, c.erec1.toNat, c.erec2.toNat, c.erec3.toNat, c.btbase.toNat]

/-- `SVCTL` (R327). -/
def Hart.svctl (h : Hart) (r : Reason) (pend : Bool) : Nat :=
  h.xfers.length * 2 ^ 16 + h.spadUnits * 2 ^ 12 + h.ntiles * 2 ^ 8 + bit h.wide * 2 ^ 7 + bit h.supv * 2 ^ 6
    + bit pend * 2 ^ 2 + r.code

/-- The lowest chunk that has not finished; the chunk count when only the arrival failed (R327). -/
def Xfer.restart (x : Xfer) : Nat := ((List.range x.count).find? fun k => !x.finished.getLsbD k).getD x.count

/-- The stopped-transfer record (R327). -/
def Xfer.record (x : Xfer) : List Byte :=
  let f := x.stopped.getD ⟨0, 0, false, 0⟩
  [x.dst.toNat, if x.zero then 0 else x.src.toNat, x.n.toNat,
    x.chunk.toNat + x.chan.toNat * 2 ^ 3 + x.scope.code * 2 ^ 5 + x.ord.code * 2 ^ 8 + x.evict.toNat * 2 ^ 10
      + bit x.bar * 2 ^ 13 + x.cm.toNat * 2 ^ 14 + bit x.zero * 2 ^ 16,
    x.xbar.toNat, f.chunk % 2 ^ 16 + f.sub * 2 ^ 16 + x.restart % 2 ^ 16 * 2 ^ 24, x.ipc.toNat, f.addr.toNat].flatMap
    (leBytes 8)

/-- The image that the save engine writes, as pieces at slot offsets (R326-R328). -/
def Hart.imagePieces (h : Hart) (r : Reason) (pend : Bool) : List (Nat × List Byte) :=
  let dirty (k : Nat) : Bool := (h.vreg k).desc.dirty
  let vpres := h.vpres.toNat ||| (List.range 64).foldl (fun n k => n + bit (dirty k) * 2 ^ k) 0
  let dws (l : List Nat) : List Byte := l.flatMap (leBytes 8)
  let page : List (Nat × List Byte) := [
    (0, List.replicate 4096 0),
    (0x000, dws ((List.range 32).map fun i => (h.readX (BitVec.ofNat 5 i)).toNat)),
    (0x100, dws h.saveWords),
    (0x200, dws (h.d.toList.map fun d => d.stride.toNat * 2 ^ 32 + d.len.toNat)),
    (0x240, dws (h.g.toList.map Group.word)),
    (0x280, leBytes 8 (h.svctl r pend)),
    (0x288, leBytes 8 vpres),
    (0x290, (h.tiles.toList.take h.ntiles).flatMap fun t => leBytes 2 (t.eT.toNat + bit t.ovf * 2 ^ 15)),
    (0x2C0, h.binds.toList.flatMap fun b => match b with
      | some b => dws [b.dst.toNat, b.chunk + b.n.toNat * 2 ^ 16]
      | none => dws [0, 0]),
    (0x300, leBytes 4 (h.xPoison.toNat / 2 * 2)),
    (0x320, leBytes 8 (match h.wstate with
      | some q => bit q * 2 + 1
      | none => 0)),
    (0x340, leBytes 64 (h.sppres ||| h.spadPages).toNat),
    (0x400, h.v.toList.flatMap fun v => leBytes 4 v.desc.word),
    (0x500, h.shapes.toList.flatMap fun es =>
      leBytes 4 es.length ++ ((List.range 5).flatMap fun i => leBytes 4 ((es[i]?).map fun e => e.e.toNat).toList.sum)
        ++ leBytes 8 0),
    (0x700, h.v.toList.flatMap fun v => leBytes 32 v.poison.toNat),
    (0xF00, h.m.toList.tail.flatMap fun m => leBytes 32 m.poison.toNat)]
  let xfers := [(0x1000, h.xfers.flatMap Xfer.record)]
  let masks := (List.range 7).map fun j => (0x2000 + 2048 * j, leBytes 2048 (h.m.getD (j + 1) .reset).bits.toNat)
  let regs := ((List.range 64).filter dirty).map fun k =>
    (0x5800 + 2048 * k, (leBytes 2048 (h.vreg k).image).take (128 * (h.vreg k).groups))
  let tiles := (List.range h.ntiles).map fun k =>
    let t := h.tiles.getD k .reset
    (0x25800 + 131072 * k, (List.range 16384).flatMap fun e =>
      leBytes 8 (bitsAt ((tget 0 t.acc e).signExtend 64).toNat 0 63 + bit (t.poison.contains e) * 2 ^ 63))
  let pages := ((List.range 512).filter h.spadPages.getLsbD).map fun p =>
    (0x200000 + 4096 * p, Memory.read h.spad (4096 * p) 4096)
  page ++ xfers ++ masks ++ regs ++ tiles ++ pages

/-! ## The save area (R326, R344) -/

/-- The address of a byte of a save slot: in the host's memory, or a device address value (R344 `SVBASE`). -/
def Partition.slotAddr (p : Partition) (slot o : Nat) : Nat := p.svbase.toNat % 2 ^ 63 + slot * 2 ^ 22 + o

/-- A piece of a save slot written; the engine reaches device memory through the initial table, by lines. -/
def State.slotWrite (s : State) (part slot o : Nat) (bs : List Byte) : State :=
  let p := s.part part
  if !bitAt p.svbase.toNat 63 then s.hostWrite (p.slotAddr slot o) bs
  else (lineCuts (p.slotAddr slot o) bs.length).foldl (fun s (a, n) =>
    match s.portLoc noCore part a with
    | some pa => (s.writeBytes true noCore pa ((bs.drop (a - p.slotAddr slot o)).take n)).activate [paBank pa]
    | none => s) s

/-- Bytes of a save slot read; a byte that is not reached reads as zero. -/
def State.slotRead (s : State) (part slot o n : Nat) : List Byte :=
  let p := s.part part
  if !bitAt p.svbase.toNat 63 then s.hostBytes (p.slotAddr slot o) n
  else (lineCuts (p.slotAddr slot o) n).flatMap fun (a, n) =>
    match s.portLoc noCore part a with
    | some pa => s.coreBytes noCore pa n
    | none => List.replicate n 0

/-- The banks that the save engine finds when it reads bytes of a save slot (R264). -/
def State.slotBanks (s : State) (part slot o n : Nat) : List Nat :=
  let p := s.part part
  if !bitAt p.svbase.toNat 63 then []
  else ((lineCuts (p.slotAddr slot o) n).filterMap fun (a, _) => (s.portLoc noCore part a).map paBank).eraseDups

/-- A number of `n` bytes at an offset of a context's image. -/
def State.imageNat (s : State) (h : Hart) (o n : Nat) : Nat := leNat (s.slotRead h.part h.saveSlot o n)

/-- The image written (R328). -/
def State.writeImage (s : State) (h : Hart) (r : Reason) (pend : Bool) : State :=
  (h.imagePieces r pend).foldl (fun s (o, bs) => s.slotWrite h.part h.saveSlot o bs) s

/-- A context after its save: identity, farm and exit path stay (R329); its registers stand in the image. -/
def Hart.saved (h : Hart) (st : Status) : Hart :=
  { Hart.reset with
    status := st, part := h.part, ctxid := h.ctxid, wide := h.wide, supv := h.supv, ntiles := h.ntiles
    spadUnits := h.spadUnits, task := h.task, member := h.member, harts := h.harts, prio := h.prio, stamp := h.stamp
    saveSlot := h.saveSlot, code := h.code, farm := h.farm, farmSets := h.farmSets, triggered := h.triggered
    skip := false, skipLen := h.skipLen, skipExit := h.skipExit }

/-! ## Stopping (R315, R325) -/

/-- Whether a context waits for another device in the middle of an instruction. -/
def Hart.outstanding (h : Hart) : Bool := h.answers.any fun a => decide (a.slot < copySlot)

/-- A request to stop at the next boundary (R325): a context that is between instructions, or waiting before one, stops
at once; one in the middle of an instruction stops after it. Of two requests to one context the later stands, so that a
`ctx.save` over a pending pre-emption saves for itself (R102; DESIGN CHOICE, log entry 96). -/
def Hart.stopFor (h : Hart) (r : Reason) : Hart :=
  match h.status with
  | .running => if h.outstanding then { h with request := some r } else { h with status := .stopping r, request := none }
  | .waiting (.barrier _ _ _ _) | .waiting .task | .waiting (.coll _ _ _ _) | .waiting .phase =>
    { h with status := .stopping r, request := none }
  | .waiting .remote | .waiting .acks | .waiting (.ctxSave _) => { h with request := some r }
  | _ => h

/-- A context that has been asked to stop, at its next boundary (R325). -/
def Hart.settle (h : Hart) : Hart :=
  match h.request with
  | some r => h.stopFor r
  | none => h

/-- A tile write performed (R169, R172, R174, R178, R179). A `tclr` clears every poison mark, and a product leaves a
poisoned entry poisoned (DESIGN CHOICE, log entry 88). -/
def TileWrite.apply (w : TileWrite) (t : Tile) : Tile :=
  match w with
  | .clear e => ⟨[], e, false, []⟩
  | .add ts =>
    let (acc, ovf) := ts.foldl (fun (a, o) (k, z) =>
      let v := (tget (0 : BitVec 48) a k).toInt + z
      let r := BitVec.ofInt 48 v
      (tset 0 a k r, o || decide (r.toInt ≠ v))) (t.acc, t.ovf)
    { t with acc := acc, ovf := ovf }
  | .put es o =>
    { t with
      acc := es.foldl (fun a (k, v) => tset 0 a k v) t.acc
      ovf := t.ovf || o
      poison := t.poison.filter fun e => !(es.any fun x => x.1 == e) }
  | .load _ | .store _ => t

/-- A list in an order that a number chooses. -/
def arrange {α : Type} : Nat → Nat → List α → List α
  | 0, _, _ => []
  | fuel + 1, n, l =>
    match l[n % l.length]? with
    | none => []
    | some x => x :: arrange fuel (n / l.length) (l.eraseIdx (n % l.length))

/-- Tile writes performed (R169): `tclr`, `mwr` and `mld` in program order, the products between them in an order that
`n` chooses, which only `OVF` can tell (R175). `adds` holds the products that wait for their turn. -/
def applyWrites (n : Nat) : List TileWrite → List TileWrite → Tile → Tile
  | adds, [], t => (arrange adds.length n adds).foldl (fun t w => w.apply t) t
  | adds, .add ts :: ws, t => applyWrites n (adds ++ [.add ts]) ws t
  | adds, w :: ws, t => applyWrites n [] ws (w.apply ((arrange adds.length n adds).foldl (fun t w => w.apply t) t))

/-- Whether a matrix instruction writes its tile: every one but an `mst`. -/
def MatOp.writesTile (o : MatOp) : Bool :=
  match o.write with
  | .store _ => false
  | _ => true

/-- The pending matrix instructions split: those that complete when the chosen ones do, and those that stay. On a tile
a write completes after the earlier ones (R169, R170); an `mst` has read its tile at issue. -/
def splitOps (sel : MatOp → Bool) (ops : List MatOp) : List MatOp × List MatOp :=
  let r := ops.foldr (fun (op : MatOp) (acc : List (BitVec 3) × List MatOp × List MatOp) =>
    if op.writesTile && (sel op || acc.1.contains op.tile) then (op.tile :: acc.1, op :: acc.2.1, acc.2.2)
    else if sel op then (acc.1, op :: acc.2.1, acc.2.2)
    else (acc.1, acc.2.1, op :: acc.2.2)) ([], [], [])
  (r.2.1, r.2.2)

/-- The writes of some matrix instructions to one tile, in program order. -/
def writesTo (tile : Nat) (ops : List MatOp) : List TileWrite :=
  (ops.filter fun o => o.writesTile && o.tile.toNat == tile).map MatOp.write

/-- The chosen pending matrix instructions of the running context completed (R168): their reads of memory first, then
their writes to memory, then their tile writes. -/
def State.completeOps (s : State) (sel : MatOp → Bool) : State :=
  let (ops, kept) := splitOps sel s.cur.matq
  if ops.isEmpty then s
  else
    let (done, s1) := s.readLoads (fun _ => true) ops
    let (n, s2) := if done.length = 1 then (0, s1) else s1.draw
    let s3 := s2.writeWords (storedWords done)
    let h := s3.cur
    let tiles := (List.range 8).foldl (fun (ts : Vector Tile 8) k =>
      ts.setIfInBounds k (applyWrites n [] (writesTo k done) (ts.getD k .reset))) h.tiles
    s3.setCur { h with tiles := tiles, matq := kept }

/-- All matrix work of the running context completed. -/
def State.drainMatrix (s : State) : State := s.completeOps fun _ => true

/-- The drain of a stopped context (R315 step 2): its copy transfers and matrix work end. -/
def State.drainCur (s : State) : State :=
  match s.cur.status with
  | .stopping r =>
    let s1 := s.drainCopies fun _ => true
    match s1.cur.status with
    | .stopping _ =>
      if s1.cur.copying fun _ => true then s1
      else
        let s2 := (s1.landAll fun _ => true).drainMatrix
        s2.setCur { s2.cur with status := .saving r }
    | _ => s1
  | _ => s

/-- The run of an `exit` whose operand is `ra` (R97): the copy transfers and matrix work drain, a deferred copy fault is
reported, and the exit value waits for HART_EXIT_COMPLETE. -/
def exitRun (ra : BitVec 5) (s : State) : State :=
  afterCopies 4 (fun _ => true) (some ra) s fun s1 =>
    let s2 := (s1.landAll fun _ => true).drainMatrix
    s2.setCur { s2.cur with status := .waiting .exit, exitVal := s2.readX ra }

/-- TAKE_TRAP (R315): context `k`, stopped at a boundary, drains its older work; then its save begins. -/
def execTakeTrap (k : CtxKey) (s : State) : Out :=
  .next (s.onHart k fun s1 => (s1.setCur s1.cur.settle).drainCur)

/-! ## Fault records (R318, R319) -/

/-- Whether the fault queue has no room (R319). -/
def Partition.faultFull (p : Partition) : Bool := p.tail == p.head + BitVec.ofNat 32 (2 ^ p.fqlog)

/-- The phase tag of ring entry `i` (R310, R318). -/
def lapTag (i : BitVec 32) (log : Nat) : Bool := i.toNat / 2 ^ log % 2 == 0

/-- A supervisor that waits for the save of context `ctx` retires its `ctx.save` (R102). -/
def State.saveReported (s : State) (part : Nat) (ctx : BitVec 32) : State :=
  (s.harts.filter fun h => decide (h.status = .waiting (.ctxSave ctx)) && h.part == part).foldl (fun s h =>
    s.onHart h.key fun s1 => retire 4 (s1.setCur { s1.cur with status := .running })) s

/-- The end of a save (R325-R328): every write of the context has performed, its pins are dropped (R266), its slot,
tiles and scratchpad are free. -/
def State.endSave (s : State) : State :=
  match s.cur.status with
  | .saving r =>
    let h := s.cur
    let p := s.part h.part
    let pend := r == .trap && (p.faultFull || !p.faults.isEmpty)
    let s1 := ((s.flushCore h.core.toNat).dropPins h.key).writeImage h r pend
    let st : Status := match r with
      | .preempt => .queued
      | .trap => .recording
      | .ctxSave => .held
    let vp := h.vpres ||| (List.range 64).foldl (fun (m : BitVec 64) k =>
      if (h.vreg k).desc.dirty then m ||| (1#64 <<< k) else m) 0
    let s2 := s1.setCur { h.saved st with vpres := vp, sppres := h.sppres ||| h.spadPages }
    let p2 := s2.part h.part
    let s3 := s2.setPart h.part (match r with
      | .preempt => { p2 with resume := p2.resume.setIfInBounds h.prio (p2.resume.getD h.prio [] ++ [h.ctxid]) }
      | .trap => { p2 with faults := p2.faults ++ [h.ctxid] }
      | .ctxSave => p2)
    s3.saveReported h.part h.ctxid
  | _ => s

/-- CONTEXT_SAVE_END (R325, R328). The `ctx.save` of a context that was killed or has exited meanwhile retires too. -/
def execContextSaveEnd (k : CtxKey) (s : State) : Out :=
  .next (if ((s.hart? k).map Hart.placed).getD false then s.onHart k State.endSave else s.saveReported k.part k.ctx)

/-- The record registers of a context whose record waits: in its image, or in the device for a killed one (R319). -/
def State.recordOf (s : State) (h : Hart) : List Nat :=
  if h.status = .killed then
    [h.csr.epc.toNat, h.csr.ecause.toNat, h.csr.erec0.toNat, h.csr.erec1.toNat, h.csr.erec2.toNat, h.csr.erec3.toNat]
  else (List.range 6).map fun i => s.imageNat h (0x1C8 + 8 * i) 8

/-- The oldest waiting record of a partition written to its fault queue when there is room (R318, R319): DW0 last, then
`TAIL` and the interrupt (R342). A trapped context is suspended from then on, and a killed one is gone. -/
def State.writeFault (s : State) (part : Nat) : State :=
  let p := s.part part
  match p.faults with
  | [] => s
  | c :: cs =>
    match s.hart? ⟨part, c⟩ with
    | none => s.setPart part { p with faults := cs }
    | some h =>
      if p.faultFull then s
      else
        let a := p.fqbase.toNat + 64 * (p.tail.toNat % 2 ^ p.fqlog)
        let dw0 := bit (lapTag p.tail p.fqlog) * 2 ^ 63 + h.member % 2 ^ 13 * 2 ^ 32 + c.toNat
        let rest := (h.task.toNat :: s.recordOf h).flatMap (leBytes 8)
        let s0 := if h.status = .killed then s else s.activate (s.slotBanks part h.saveSlot 0x1C8 48)
        let s1 := (s0.hostWrite (a + 8) rest).hostWrite a (leBytes 8 dw0)
        let s2 := s1.setPart part { s1.part part with faults := cs, tail := p.tail + 1 }
        let s3 : State := { s2 with signals := s2.signals ++ [.vf part 0] }
        if h.status = .killed then (s3.tellKill part ⟨h.task, s.devid, h.member⟩).updHart h.key fun _ => .reset
        else
          let ctl := s3.imageNat h 0x280 8
          (s3.slotWrite part h.saveSlot 0x280 (leBytes 8 (setBits ctl 2 1 0))).updHart h.key fun x =>
            { x with status := .suspended }

/-- FAULT_RECORD_WRITE (R318); none after a device-fatal error (R367). -/
def execFaultRecordWrite (part : Nat) (s : State) : Out :=
  atUnit (isPart part) (if s.dump.fatal.isSome then s else s.writeFault part)

/-- FAULT_QUEUE_HEAD_WRITE (R319). -/
def execFaultQueueHeadWrite (part : Nat) (v : Word) (s : State) : Out :=
  atUnit (isPart part) (s.setPart part { s.part part with head := v.setWidth 32 })

/-! ## Restoring (R329) -/

/-- The tiles and scratchpad units that a saved context needs, as its image says (R305, R327). -/
def State.savedNeeds (s : State) (h : Hart) : Nat × Nat :=
  let ctl := s.imageNat h 0x280 8
  (bitsAt ctl 8 4, bitsAt ctl 12 4)

/-- Whether the fields of a stopped-transfer record are legal (R214, R215, R317, R327): `.pl` or `.rel`, no reserved bit,
at most 16384 chunks, a faulting chunk and a restart point within them, and the code of a check that can fail there. -/
def recordOk (b : Nat → Nat) : Bool :=
  let f := b 3
  let size := 256 * 2 ^ bitsAt f 0 3
  let count := (b 2 + size - 1) / size
  let chunk := bitsAt (b 5) 0 16
  let sub := bitsAt (b 5) 16 8
  (bitsAt f 8 2 == 0 || bitsAt f 8 2 == 2) && f / 2 ^ 17 == 0 && b 5 / 2 ^ 40 == 0 && b 6 / 2 ^ 40 == 0
    && decide (count ≤ 16384) && decide (chunk ≤ count) && decide (bitsAt (b 5) 24 16 ≤ count)
    && (decide (5 ≤ sub) && decide (sub ≤ 8) || chunk == count && (sub == 4 || sub == 0x0C))

/-- A stopped transfer of a record (R327); `none` when a field is reserved or beyond its limit. Whether its destination
failed is read off the address that failed. -/
def Xfer.ofRecord (id : Nat) (b : Nat → Nat) : Option Xfer :=
  let f := b 3
  match Scope.ofCode? (bitsAt f 5 3) with
  | none => none
  | some sc =>
    if !recordOk b then none
    else
      let zero := bitAt f 16
      let addr := b 7
      let inDst := addr / 2 ^ 40 == b 0 / 2 ^ 40 && decide (b 0 % 2 ^ 40 ≤ addr % 2 ^ 40)
        && decide (addr % 2 ^ 40 < b 0 % 2 ^ 40 + b 2)
      let size := 256 * 2 ^ bitsAt f 0 3
      let arrival := bitsAt (b 5) 0 16 == (b 2 + size - 1) / size
      some ⟨id, BitVec.ofNat 64 (b 0), BitVec.ofNat 64 (b 1), BitVec.ofNat 64 (b 2), BitVec.ofNat 3 f,
        BitVec.ofNat 2 (bitsAt f 3 2), sc, Ord.ofCode (bitsAt f 8 2), BitVec.ofNat 3 (bitsAt f 10 3), bitAt f 13,
        BitVec.ofNat 64 (b 4), BitVec.ofNat 2 (bitsAt f 14 2), zero, BitVec.ofNat 40 (b 6),
        BitVec.ofNat 16384 (2 ^ bitsAt (b 5) 24 16 - 1), 0,
        some ⟨bitsAt (b 5) 0 16, bitsAt (b 5) 16 8, (zero || inDst) && !arrival,
          BitVec.ofNat 64 addr⟩⟩

/-- Whether an `ECAUSE` value has a code that is recorded, or none, and no reserved bit (R316, R317). -/
def ecauseOk (w : Nat) : Bool :=
  let c := w % 2 ^ 8
  w / 2 ^ 16 == 0 && decide (c ≤ 0x12) && c != 9 &&
    (bitsAt w 8 8 == 0 || c == cCOPY || c == cMEM)

/-- Whether a binding of an image is legal (R118, R215, R327): none, or a chunk size with at most 16384 chunks. -/
def bindingOk (a b : Nat) : Bool :=
  let c := b % 2 ^ 16
  c == 0 && a == 0 && b == 0 ||
    ((List.range 8).any fun k => c == 256 * 2 ^ k) && decide (b / 2 ^ 16 ≤ 16384 * c)

/-- Whether an image holds only legal values (R31, R27, R317, R327); `get o n` reads it. -/
def imageOk (get : Nat → Nat → Nat) (xs : List (Option Xfer)) : Bool :=
  let ctl := get 0x280 8
  let w (i : Nat) : Nat := get (0x100 + 8 * i) 8
  decide (ctl / 2 ^ 24 = 0) && bitsAt ctl 3 3 == 0 && bitsAt ctl 0 2 != 3 && decide (bitsAt ctl 16 8 ≤ 64)
    && decide (bitsAt ctl 12 4 ≤ 8) && decide (bitsAt ctl 8 4 ≤ 8)
    && w 0 % 2 == 0 && decide (w 1 / 2 ^ 18 = 0) && decide (w 1 % 2 ^ 16 ≤ 16384) && decide (w 2 < 2 ^ 8)
    && decide (w 3 < 2 ^ 48) && decide (w 4 < 2 ^ 48) && decide (w 5 < 4)
    && ((List.range 7).all fun i => decide (w (6 + i) < 2 ^ 32))
    && ((List.range 3).all fun i => decide (w (15 + i) < 2 ^ 15)) && decide (w 18 < 4) && decide (w 19 < 2 ^ 15)
    && ecauseOk (w 26) && decide (w 27 < 2 ^ 13) && decide (w 29 < 2 ^ 48) && bitsAt (w 30) 40 8 == 0
    && ((List.range 8).all fun i => bitsAt (get (0x240 + 8 * i) 8) 1 7 == 0)
    && ((List.range 8).all fun k => bitsAt (get (0x290 + 2 * k) 2) 10 5 == 0)
    && ((List.range 4).all fun i => bindingOk (get (0x2C0 + 16 * i) 8) (get (0x2C8 + 16 * i) 8))
    && decide (get 0x320 8 < 4)
    && ((List.range 64).all fun k => descOk (get (0x400 + 4 * k) 4) && decide (get (0x400 + 4 * k) 4 / 2 ^ 27 = 0))
    && ((List.range 16).all fun k => decide (get (0x500 + 32 * k) 4 ≤ 5))
    && xs.all Option.isSome

/-- A context with the registers of an image (R329). `get o n` reads a number of `n` bytes of the image, `mem o n` its
bytes. -/
def Hart.restore (h : Hart) (get : Nat → Nat → Nat) (mem : Nat → Nat → List Byte) (xs : List Xfer) : Hart :=
  let w (i : Nat) : Nat := get (0x100 + 8 * i) 8
  let wd (i : Nat) : Word := BitVec.ofNat 64 (w i)
  let ctl := get 0x280 8
  let vpres := get 0x288 8
  let sppres := get 0x340 64
  let c : Csrs := {
    vl := BitVec.ofNat 15 (w 1), tp := bitAt (w 1) 16, mp := bitAt (w 1) 17, fcsr := BitVec.ofNat 8 (w 2)
    lctr := BitVec.ofNat 48 (w 3), lrem := BitVec.ofNat 48 (w 4), bwphase := BitVec.ofNat 2 (w 5), phack := 0
    thr := Vector.ofFn fun i => BitVec.ofNat 32 (w (6 + i.val))
    zcnt := wd 13, rcnt := wd 14, hcdist := BitVec.ofNat 15 (w 15), hcidx2 := BitVec.ofNat 15 (w 16)
    hcdist2 := BitVec.ofNat 15 (w 17), hcflags := BitVec.ofNat 2 (w 18), hcthr := BitVec.ofNat 15 (w 19)
    epact := wd 20, reqloc := wd 21, reqrem := wd 22, wakes := wd 23, rmwc := wd 24, epc := wd 25, ecause := wd 26
    erec0 := wd 27, erec1 := wd 28, erec2 := wd 29, erec3 := wd 30, btbase := wd 31 }
  { h with
    wide := bitAt ctl 7, supv := bitAt ctl 6, ntiles := bitsAt ctl 8 4, spadUnits := bitsAt ctl 12 4
    pc := wd 0
    x := Vector.ofFn fun i => if i.val = 0 then 0 else BitVec.ofNat 64 (get (8 * i.val) 8)
    xPoison := BitVec.ofNat 32 (get 0x300 4)
    v := Vector.ofFn fun k =>
      let d := get (0x400 + 4 * k.val) 4
      let r : VReg := ⟨0, .ofWord d false, BitVec.ofNat 256 (get (0x700 + 32 * k.val) 32)⟩
      { r with bits := if bitAt vpres k.val then BitVec.ofNat 16384 (get (0x5800 + 2048 * k.val) (128 * r.groups)) else 0 }
    m := Vector.ofFn fun j =>
      if j.val = 0 then .reset
      else ⟨BitVec.ofNat 16384 (get (0x2000 + 2048 * (j.val - 1)) 2048), BitVec.ofNat 256 (get (0xF00 + 32 * (j.val - 1)) 32)⟩
    d := Vector.ofFn fun i =>
      ⟨BitVec.ofNat 32 (get (0x204 + 8 * i.val) 4), BitVec.ofNat 32 (get (0x200 + 8 * i.val) 4)⟩
    g := Vector.ofFn fun i => .ofWord (get (0x240 + 8 * i.val) 8)
    shapes := Vector.ofFn fun i =>
      shapeOf (get (0x500 + 32 * i.val) 4) ((List.range 5).map fun j => get (0x504 + 32 * i.val + 4 * j) 4)
    tiles := Vector.ofFn fun k =>
      if bitsAt ctl 8 4 ≤ k.val then .reset
      else
        let es := (List.range 16384).map fun e => (e, get (0x25800 + 131072 * k.val + 8 * e) 8)
        let t := get (0x290 + 2 * k.val) 2
        ⟨es.filterMap fun (e, n) => if n % 2 ^ 48 = 0 then none else some (e, BitVec.ofNat 48 n),
          BitVec.ofNat 10 t, bitAt t 15, (es.filter fun (_, n) => bitAt n 63).map Prod.fst⟩
    binds := Vector.ofFn fun i =>
      let a := get (0x2C0 + 16 * i.val) 8
      let b := get (0x2C8 + 16 * i.val) 8
      if b % 2 ^ 16 = 0 then none else some ⟨BitVec.ofNat 64 a, b % 2 ^ 16, BitVec.ofNat 64 (b / 2 ^ 16)⟩
    wstate := if bitAt (get 0x320 8) 0 then some (bitAt (get 0x320 8) 1) else none
    spad := (List.range 512).foldl (fun sp p =>
      if bitAt sppres p then Memory.write sp (4096 * p) (mem (0x200000 + 4096 * p) 4096) else sp) []
    spadPages := 0, vpres := BitVec.ofNat 64 vpres, sppres := BitVec.ofNat 512 sppres
    xfers := xs
    csr := c }

/-- The transfer that the record of a `COPY` trap reports (R217, R321). -/
def Hart.reported (h : Hart) : Option Xfer :=
  h.xfers.find? fun x => match x.stopped with
    | some f => (x.report f).erec1 == h.csr.erec1.toNat && decide ((x.report f).erec3 = h.csr.erec3)
    | none => false

/-- A stopped transfer started again at its restart point (R321). -/
def Xfer.again (x : Xfer) : Xfer :=
  { x with stopped := none, started := 0, finished := BitVec.ofNat 16384 (2 ^ x.restart - 1) }

/-- What `ctx.resume` does to a restored context that trapped (R320, R321): `retry` executes the instruction at `EPC`
again, `skip` continues after it; a `COPY` fault's transfer starts again or is abandoned. A skipped `exit` stands at the
instruction, to end the hart there; a skipped `bar.arvwait` leaves no arrival behind (R327, DEDUCED, log entry 78). An odd
`EPC` of an altered image loses its bit 0 here (R13; DESIGN CHOICE, log entry 50). -/
def Hart.resumeTrap (h : Hart) : Hart :=
  let copy := decide (h.csr.ecause.toNat % 256 = cCOPY)
  let h1 := match copy, h.reported with
    | true, some x =>
      if h.skip then h.dropXfer x.id
      else { h with xfers := h.xfers.map fun (y : Xfer) => if y.id == x.id then y.again else y }
    | _, _ => h
  let passed := h.skip && h.skipExit.isNone
  { h1 with
    pc := evenPc (if passed then h.csr.epc + BitVec.ofNat 64 h.skipLen else h.csr.epc)
    wstate := if passed then none else h.wstate
    skip := false
    skipLen := 0
    skipExit := none }

/-- The records of the stopped transfers of an image. -/
def State.imageXfers (s : State) (h : Hart) : List (Option Xfer) :=
  (List.range (min 64 (bitsAt (s.imageNat h 0x280 8) 16 8))).map fun i =>
    Xfer.ofRecord (i + 1) fun j => s.imageNat h (0x1000 + 64 * i + 8 * j) 8

/-- The pieces of an image that a restore reads, by offset and length (R327, R329): the first page, the transfer records
and masks, and the vector registers, tiles and scratchpad pages that it holds. -/
def imageSpans (ctl vpres sppres : Nat) : List (Nat × Nat) :=
  [(0, 0x2000), (0x2000, 0x3800)] ++
    ((List.range 64).filter (bitAt vpres)).map (fun k => (0x5800 + 2048 * k, 2048)) ++
    (List.range (bitsAt ctl 8 4)).map (fun k => (0x25800 + 131072 * k, 131072)) ++
    ((List.range 512).filter (bitAt sppres)).map fun p => (0x200000 + 4096 * p, 4096)

/-- The banks of the running context's image found by the save engine (R264), and the L1 of its core written home where
its scratchpad takes steps of it (R269). -/
def State.fetchImage (s : State) (core : BitVec 8) : State :=
  let h := s.cur
  let ctl := s.imageNat h 0x280 8
  let spans := imageSpans ctl (s.imageNat h 0x288 8) (s.imageNat h 0x340 64)
  let s1 := s.activate ((spans.flatMap fun (o, n) => s.slotBanks h.part h.saveSlot o n).eraseDups)
  if bitsAt ctl 12 4 = 0 then s1 else s1.flushCore core.toNat

/-- How a restored context starts: it issues, when its saved phase is acknowledged again (R266); but a skip of a consuming
`exit` of operand `ra` ends the hart as that `exit` does (R320). -/
def State.startRestored (s : State) (exitReg : Option (BitVec 5)) : State :=
  match exitReg with
  | some ra => exitRun ra s
  | none =>
    let p := s.cur.csr.bwphase
    s.setCur (if p.toNat ≤ 1 then { s.cur with csr := { s.cur.csr with phack := p } }
      else { s.cur with raise := some p, status := .waiting .phase })

/-- The restore of the running, saved context on a core (R329). It issues when its saved phase is acknowledged again
(R266). An image with a reserved value kills the context (R327); its `EREC1` is a free value, and its PC, and so the `EPC`
of its record, is the image's doubleword as it stands (DESIGN CHOICE, log entry 54). -/
def State.restoreCur (s0 : State) (core : BitVec 8) (slot : BitVec 5) (cluster : Option (BitVec 2)) (stamp : Nat) :
    State :=
  let s := s0.fetchImage core
  let h := s.cur
  let get := s.imageNat h
  let xs := s.imageXfers h
  let h0 := { h with core := core, slot := slot, cluster := cluster, stamp := stamp, status := .running }
  if !imageOk get xs then
    let (n, s1) := s.draw
    (s1.setCur { h0 with pc := BitVec.ofNat 64 (get 0x100 8), skip := false }).killCur
      { cause := cILL, erec1 := n % 2 ^ 64, fatal := true }
  else
    let h1 := h0.restore get (s.slotRead h.part h.saveSlot) (xs.filterMap id)
    let trapped := bitsAt (get 0x280 8) 0 2 == 1
    let h2 := if trapped then h1.resumeTrap else { h1 with skip := false }
    (s.setCur h2).startRestored (if trapped && h.skip then h.skipExit else none)

end Sys2Proof.Machine
end

