-- ==== Sys2Proof/Machine/Control.lean ====
section
/-! DEFINITION. Branches and jumps (R89, R90), hardware loops and strip farms (R91-R94), with their 16-bit forms (R67). -/

namespace Sys2Proof.Machine

/-- The place `off` halfwords from the PC (R57). -/
def State.target {w : Nat} (s : State) (off : BitVec w) : Word := s.cur.pc + off.signExtend 64 * 2

/-- A control transfer whose target names another buffer traps `RIGHT` at the instruction (R13). -/
def State.targetCheck (s : State) (t : Word) : Option Trap :=
  failIf (t.toNat / 2 ^ 40 != s.cur.pc.toNat / 2 ^ 40) { cause := cRIGHT, erec1 := t.toNat }

/-- A control transfer to `t` when `chk` passes, or a trap. -/
def transfer (len : Nat) (chk : Option Trap) (t : Word) (s s' : State) : Out :=
  match chk with
  | some e => .next (takeTrap e len s)
  | none => .next (retireTo t s')

/-- A conditional branch of `len` bytes (R89). -/
def branchIf {w : Nat} (len : Nat) (cond : Bool) (reads : List (BitVec 5)) (off : BitVec w) (s : State) : Out :=
  let chk := s.cur.scalarPoison reads
  if cond then transfer len (firstTrap [chk, s.targetCheck (s.target off)]) (s.target off) s s
  else finish len chk s s

/-- A compare-and-branch (R89). -/
def branchRR (c : Word → Word → Bool) (ra rb : BitVec 5) (off : BitVec 11) (s : State) : Out :=
  branchIf 4 (c (s.readX ra) (s.readX rb)) [ra, rb] off s

/-- `beq` (R89) -/
def execBeq (ra rb : BitVec 5) (off : BitVec 11) (s : State) : Out := branchRR (fun a b => a == b) ra rb off s
/-- `bne` (R89) -/
def execBne (ra rb : BitVec 5) (off : BitVec 11) (s : State) : Out := branchRR (fun a b => a != b) ra rb off s
/-- `blt` (R89) -/
def execBlt (ra rb : BitVec 5) (off : BitVec 11) (s : State) : Out := branchRR BitVec.slt ra rb off s
/-- `bge` (R89) -/
def execBge (ra rb : BitVec 5) (off : BitVec 11) (s : State) : Out := branchRR (fun a b => !a.slt b) ra rb off s
/-- `bltu` (R89) -/
def execBltu (ra rb : BitVec 5) (off : BitVec 11) (s : State) : Out := branchRR BitVec.ult ra rb off s
/-- `bgeu` (R89) -/
def execBgeu (ra rb : BitVec 5) (off : BitVec 11) (s : State) : Out := branchRR (fun a b => !a.ult b) ra rb off s

/-- `h.beqz` (R67) -/
def execHBeqz (ra : BitVec 5) (off : BitVec 6) (s : State) : Out := branchIf 2 (s.readX ra == 0) [ra] off s
/-- `h.bnez` (R67) -/
def execHBnez (ra : BitVec 5) (off : BitVec 6) (s : State) : Out := branchIf 2 (s.readX ra != 0) [ra] off s

/-- A jump of `len` bytes that leaves the address of the next instruction in `x[rd]` (R90). -/
def jumpTo (len : Nat) (chk : Option Trap) (rd : BitVec 5) (t : Word) (s : State) : Out :=
  transfer len (firstTrap [chk, s.targetCheck t]) t s (s.writeX rd (s.cur.pc + BitVec.ofNat 64 len))

/-- `jal` (R90) -/
def execJal (rd : BitVec 5) (off : BitVec 19) (s : State) : Out := jumpTo 4 none rd (s.target off) s

/-- `jalr` (R90): an odd target traps `ALIGN`. -/
def execJalr (rd ra : BitVec 5) (imm : BitVec 14) (s : State) : Out :=
  let t := s.readX ra + imm.signExtend 64
  jumpTo 4 (firstTrap [s.cur.scalarPoison [ra], failIf (t.getLsbD 0) { cause := cALIGN, erec1 := t.toNat }]) rd t s

/-- `h.j` (R67, R90) -/
def execHJ (off : BitVec 11) (s : State) : Out := jumpTo 2 none 0 (s.target off) s

/-! ## Loops -/

/-- `VLMAX` of a tag and a group code (R91). -/
def vlmax (t : Tag) (grp : Nat) : Nat := min 16384 (2 ^ grp * tagCap t)

/-- The element count that a loop takes from a register (R91). -/
def loopCount (x : Word) : Nat := x.toNat % 2 ^ 48

/-- The loop registers and `VL` set (R91-R93). -/
def Csrs.setLoop (c : Csrs) (ctr rem vl : Nat) : Csrs :=
  { c with lctr := BitVec.ofNat 48 ctr, lrem := BitVec.ofNat 48 rem, vl := BitVec.ofNat 15 vl }

/-- The tail and mask policies set (R91). -/
def Csrs.setPolicy (c : Csrs) (tp mp : BitVec 1) : Csrs := { c with tp := tp == 1, mp := mp == 1 }

/-- `loop.set` (R91); it leaves a farm (R94). -/
def execLoopSet (ra : BitVec 5) (tag : Tag) (grp : BitVec 2) (tp mp : BitVec 1) (s : State) : Out :=
  let n := loopCount (s.readX ra)
  finish 4 (firstTrap [
      failIf (decide (tag = .none)) (trapTAG (Instr.loopSet ra tag grp tp mp).bits.toNat),
      s.cur.scalarPoison [ra]]) s
    (s.setCur { s.cur with
      csr := (s.cur.csr.setLoop 0 n (min n (vlmax tag grp.toNat))).setPolicy tp mp
      farm := none })

/-- The task of the running context. -/
def State.curTask (s : State) : Task := (s.part s.cur.part).task s.cur.task.toNat

/-- The task of the running context replaced. -/
def State.setCurTask (s : State) (t : Task) : State :=
  s.setPart s.cur.part ((s.part s.cur.part).setTask s.cur.task.toNat t)

/-- A farm before its first member (R93). -/
def Farm.reset : Farm := ⟨0, .none, 0, 0, 0⟩

/-- The strip that a take hands out: start and length (R93). -/
def Farm.strip (f : Farm) : Option (Nat × Nat) :=
  if f.ctr * f.width < f.n then some (f.ctr * f.width, min f.width (f.n - f.ctr * f.width)) else none

/-- `TakeStrip` by the running context from farm `k` of its task (R93): whether it took a strip, and the state. -/
def State.takeStrip (s : State) (k : Nat) : Bool × State :=
  let t := s.curTask
  let f := tget .reset t.farms k
  let s1 := s.setCurTask { t with farms := tset .reset t.farms k { f with ctr := f.ctr + 1 } }
  match f.strip with
  | some (start, len) => (true, s1.setCur { s1.cur with csr := s1.cur.csr.setLoop start len len })
  | none => (false, s1.setCur { s1.cur with csr := { s1.cur.csr with lrem := 0 } })

/-- `loop.next` outside a farm (R92): whether it branches, and the state. -/
def Hart.countLoop (h : Hart) : Bool × Hart :=
  let step := h.vl
  let rem := h.csr.lrem.toNat - step
  let c := { h.csr with lctr := h.csr.lctr + BitVec.ofNat 48 step, lrem := BitVec.ofNat 48 rem }
  if rem = 0 then (false, { h with csr := c })
  else (true, { h with csr := { c with vl := BitVec.ofNat 15 (min rem step) } })

/-- `loop.next` of `len` bytes (R92, R93): the target is checked before anything else. -/
def loopNext {w : Nat} (len : Nat) (off : BitVec w) (s : State) : Out :=
  let t := s.target off
  match s.targetCheck t with
  | some e => .next (takeTrap e len s)
  | none =>
    let (back, s1) := match s.cur.farm with
      | some k =>
        let (b, s1) := s.takeStrip k
        (b, if b then s1 else s1.setCur { s1.cur with farm := none })
      | none => let (b, h) := s.cur.countLoop; (b, s.setCur h)
    .next (if back then retireTo t s1 else retire len s1)

/-- `loop.next` (R92) -/
def execLoopNext (off : BitVec 14) (s : State) : Out := loopNext 4 off s
/-- `h.loopnext` (R67, R92) -/
def execHLoopnext (off : BitVec 11) (s : State) : Out := loopNext 2 off s

/-- `farm.set` (R93, R94): the hart's next farm is created or joined, and a strip taken. -/
def execFarmSet (ra : BitVec 5) (tag : Tag) (grp : BitVec 2) (tp mp : BitVec 1) (s : State) : Out :=
  let n := loopCount (s.readX ra)
  let k := s.cur.farmSets
  let t := s.curTask
  let f := tget .reset t.farms k
  let new : Farm := ⟨n, tag, grp, vlmax tag grp.toNat, 0⟩
  let first := decide (f = .reset)
  let same := f.n == n && decide (f.tag = tag) && f.grp == grp
  match firstTrap [
      failIf (decide (tag = .none)) (trapTAG (Instr.farmSet ra tag grp tp mp).bits.toNat),
      s.cur.scalarPoison [ra],
      failIf (!first && !same) { cause := cBAR, erec1 := (s.readX ra).toNat }] with
  | some e => .next (takeTrap e 4 s)
  | none =>
    let s1 := if first then s.setCurTask { t with farms := tset .reset t.farms k new } else s
    let s2 := s1.setCur { s1.cur with
      csr := s1.cur.csr.setPolicy tp mp, farm := some k, farmSets := k + 1 }
    .next (retire 4 (s2.takeStrip k).2)

end Sys2Proof.Machine
end

