-- ==== Sys2Proof/Machine/Task.lean ====
section
/-! DEFINITION. Tasks (R210-R213): triggers, waiting for producers, launching. -/

namespace Sys2Proof.Machine

/-- Whether a task can never trigger (R211): refused, or a hart of it was killed first. -/
def Task.neverTriggers (t : Task) : Bool := t.refused != 0 || t.dead

/-- What a `tkwait` finds (R211): the trap of the first producer that can never trigger; else whether every producer has
triggered. -/
def Partition.producers (p : Partition) (t : Task) : Option Trap × Bool :=
  let st := t.producers.map fun w => (w, p.task w.toNat)
  ((st.find? fun x => x.2.neverTriggers).map fun x => { cause := cBAR, erec1 := x.1.toNat },
    st.all fun x => x.2.triggered)

/-- `tkwait` looked at by the running context (R211). -/
def tkwaitRun (s : State) : State :=
  match (s.part s.cur.part).producers s.curTask with
  | (some t, _) => takeTrap t 4 s
  | (none, true) => retire 4 (s.setCur { s.cur with status := .running })
  | (none, false) => s.setCur { s.cur with status := .waiting .task }

/-- `tkwait` (R211) -/
def execTkwait (s : State) : Out := .next (tkwaitRun s)

/-- TKWAIT_COMPLETE (R211). -/
def execTkwaitComplete (k : CtxKey) (s : State) : Out :=
  .next (s.onHart k fun s1 => if s1.cur.status = .waiting .task then tkwaitRun s1 else s1)

/-- The hart counted as triggered (R97, R211). -/
def State.noteTrigger (s : State) : State :=
  let t := s.curTask
  (s.setCurTask { t with trig := insertNat t.trig s.cur.member }).setCur { s.cur with triggered := true }

/-- `tktrig` (R211): a release at `pkg` that waits for the hart's copy transfers and reports their faults. -/
def execTktrig (s : State) : Out :=
  .next (afterCopies 4 (fun _ => true) none s fun s1 =>
    retire 4 ((s1.landAll fun _ => true).orderBefore .rel .pkg []).noteTrigger)

/-! ## Launching (R212, R213) -/

/-- The fields of a task record (R212). -/
structure TaskRec where
  entry : Word
  arg : Word
  harts : Nat
  tiles : Nat
  spad : Nat
  bits : Nat
  queue : Nat
  nprod : Nat
  zero : Nat
  prods : List Word
  last : Word
  deriving DecidableEq, Repr

/-- A task record read from its 64 bytes (R212). -/
def TaskRec.ofBytes (bs : List Byte) : TaskRec :=
  let n (o k : Nat) : Nat := leNat ((bs.drop o).take k)
  let w (o : Nat) : Word := BitVec.ofNat 64 (n o 8)
  ⟨w 0, w 8, n 16 2, n 18 1, n 19 1, n 20 1, n 21 1, n 22 1, n 23 1,
    ((List.range 4).map fun i => w (24 + 8 * i)).take (n 22 1), w 56⟩

/-- Harts of this need that an empty core takes (R300). -/
def coreRoom (tiles spad : Nat) : Nat :=
  min 32 (min (if tiles = 0 then 32 else 8 / tiles) (if spad = 0 then 32 else 8 / spad))

/-- Whether an address value lies within a `CODE` buffer of the partition (R212), by its initial table. -/
def State.inCode (s : State) (part : Nat) (a : Word) : Bool :=
  let idx := a.toNat / 2 ^ 40
  if idx < 5 || idx = 0xFFFFFF then false
  else
    match (s.entryNow noCore part initBase idx).info with
    | some b => b.cls == 4 && decide (a.toNat % 2 ^ 40 < b.len)
    | none => false

/-- The code of R213 that refuses a record, 0 when it is accepted. `user` says that a user context asks, `host` that
bytes 56 to 63 hold an answer address (R343). -/
def State.launchCode (s : State) (part : Nat) (user host : Bool) (r : TaskRec) : Nat :=
  let p := s.part part
  if decide (r.queue < 16) && decide (256 ≤ (p.queues.getD r.queue []).length) then 1
  else if !s.inCode part r.entry || r.harts == 0 || decide (8192 < r.harts) || decide (8 < r.tiles) || decide (8 < r.spad)
      || r.bits / 4 != 0 || decide (15 < r.queue) || decide (4 < r.nprod) || r.zero != 0
      || (!host && r.last != 0) then 2
  else if r.prods.any fun w => w == 0 || decide (p.nextTask ≤ w.toNat) then 3
  else if user && bitAt r.bits 1 then 4
  else if decide (p.cores.length * coreRoom r.tiles r.spad < r.harts) || decide (p.svslots < r.harts) then 5
  else 0

/-- The task of a record. -/
def TaskRec.task (r : TaskRec) (refused : Nat) : Task :=
  { Task.reset with
    entry := r.entry, arg := r.arg, harts := r.harts, tiles := r.tiles, spad := r.spad, wide := bitAt r.bits 0
    supv := bitAt r.bits 1, queue := r.queue, producers := r.prods, refused := refused }

/-- A record placed in its launch queue under a new identifier (R213). -/
def Partition.enqueue (p : Partition) (r : TaskRec) : Partition :=
  { p.setTask p.nextTask (r.task 0) with
    queues := p.queues.setIfInBounds r.queue (p.queues.getD r.queue [] ++ [BitVec.ofNat 64 p.nextTask])
    nextTask := p.nextTask + 1 }

/-- The answer to a launch (R213), and the state: the record queued, or refused with nothing placed. -/
def State.launch (s : State) (part : Nat) (user : Bool) (r : TaskRec) : Word × State :=
  let p := s.part part
  let code := s.launchCode part user false r
  if code = 0 then (BitVec.ofNat 64 p.nextTask, s.setPart part (p.enqueue r))
  else (BitVec.ofNat 64 (2 ^ 63 + code), s)

/-- `task.spawn` (R212, R213): the record is a plain 64-byte load; a release at `pkg`. -/
def execTaskSpawn (rd ra : BitVec 5) (s : State) : Out :=
  let a := s.readX ra
  memFinish 4 (s.cur.scalarPoison [ra]) s
    (s.loadOne ⟨addrIdx a, .read, false, false, false⟩ .rel .pkg ⟨0, [], (a.toNat % 2 ^ 40 : Nat), 64, 64⟩)
    fun bs s1 =>
      let (w, s2) := s1.launch s1.cur.part (!s1.cur.supv) (TaskRec.ofBytes bs)
      s2.writeX rd w

end Sys2Proof.Machine
end

