-- ==== Sys2Proof/Machine/System.lean ====
section
/-! DEFINITION. System instructions: CSRs (R30-R33, R95), `svc`, `brk` (R96), `exit` (R97), `cachectl` (R98), `eret`
(R99), `tlbinv` (R100), `ctx.resume` and `ctx.save` (R101, R102), and `fence` (R202-R204). -/

namespace Sys2Proof.Machine

/-! ## Control and status registers -/

/-- A CSR that user contexts may not access (R30). -/
def csrSupervisor (n : Nat) : Bool := decide (0x100 ≤ n) && decide (n ≤ 0x111)

/-- The value of a CSR (R30, R31); `CYCLE`, `INSTRET` and `PFDROP` as they stand at issue (R33). -/
def State.readCsr (s : State) (n : Nat) : Word :=
  let h := s.cur
  let c := h.csr
  let k := s.core h.core.toNat
  if 0x030 ≤ n && n ≤ 0x036 then (c.thr.toList.getD (n - 0x030) 0).setWidth 64
  else match n with
  | 0x000 => BitVec.ofNat 64 c.vlWord
  | 0x001 => c.fcsr.setWidth 64
  | 0x002 => c.lctr.setWidth 64
  | 0x003 => c.lrem.setWidth 64
  | 0x004 => c.bwphase.setWidth 64
  | 0x005 => c.phack.setWidth 64
  | 0x010 => h.slot.setWidth 64
  | 0x011 => h.core.setWidth 64
  | 0x012 => BitVec.ofNat 64 (h.core.toNat / 8 % 8)
  | 0x013 => BitVec.ofNat 64 (coreStack h.core.toNat)
  | 0x020 => k.cycle
  | 0x021 => k.instret
  | 0x037 => c.zcnt
  | 0x038 => c.rcnt
  | 0x040 => c.hcdist.setWidth 64
  | 0x041 => c.hcidx2.setWidth 64
  | 0x042 => c.hcdist2.setWidth 64
  | 0x043 => c.hcflags.setWidth 64
  | 0x044 => c.hcthr.setWidth 64
  | 0x050 => c.epact
  | 0x060 => k.pfdrop
  | 0x061 => c.reqloc
  | 0x062 => c.reqrem
  | 0x063 => c.wakes
  | 0x064 => c.rmwc
  | 0x100 => c.epc
  | 0x101 => c.ecause
  | 0x102 => c.erec0
  | 0x103 => c.erec1
  | 0x104 => c.erec2
  | 0x105 => c.erec3
  | 0x110 => c.btbase
  | 0x111 => h.ctxid.setWidth 64
  | 0x112 => BitVec.ofNat 64 (bit h.supv)
  | _ => 0

/-- The running context's CSRs changed. -/
def State.updCsr (s : State) (f : Csrs → Csrs) : State := s.setCur { s.cur with csr := f s.cur.csr }

/-- `BTBASE` written (R255): the banks that an acknowledged phase covers are then those of the new table's buffers (R265). -/
def State.writeBase (s : State) (v : Word) : State :=
  let s1 := s.updCsr fun c => { c with btbase := v }
  if s1.cur.pins then s1.repin s1.cur else s1

/-- A CSR written (R95): only RW fields take the value (R9). -/
def State.writeCsr (s : State) (n : Nat) (v : Word) : State :=
  if 0x030 ≤ n && n ≤ 0x036 then s.updCsr fun c => { c with thr := c.thr.setIfInBounds (n - 0x030) (v.setWidth 32) }
  else match n with
  | 0x001 => s.updCsr fun c => { c with fcsr := v.setWidth 8 }
  | 0x004 => s.writePhase (v.setWidth 2)
  | 0x037 => s.updCsr fun c => { c with zcnt := v }
  | 0x038 => s.updCsr fun c => { c with rcnt := v }
  | 0x044 => s.updCsr fun c => { c with hcthr := v.setWidth 15 }
  | 0x060 =>
    if s.cur.supv then
      s.setCore s.cur.core.toNat { s.core s.cur.core.toNat with pfdrop := v }
    else s
  | 0x061 => s.updCsr fun c => { c with reqloc := v }
  | 0x062 => s.updCsr fun c => { c with reqrem := v }
  | 0x063 => s.updCsr fun c => { c with wakes := v }
  | 0x064 => s.updCsr fun c => { c with rmwc := v }
  | 0x110 => if s.cur.supv then s.writeBase v else s
  | _ => s

/-- The core clock has moved on by an unknown number of cycles before `CYCLE` is read (R4; DESIGN CHOICE, log entry 4). -/
def State.tick (s : State) (n : Nat) : State :=
  if n = 0x020 then
    let (k, s1) := s.draw
    let c := s1.core s1.cur.core.toNat
    s1.setCore s1.cur.core.toNat { c with cycle := c.cycle + BitVec.ofNat 64 k }
  else s

/-- A CSR instruction (R95): `new` is what it writes, from the old value. -/
def csrExec (bits : Nat) (rd : BitVec 5) (csr : BitVec 10) (reads : List (BitVec 5)) (new : Word → Option Word)
    (s : State) : Out :=
  let n := csr.toNat
  let s1 := s.tick n
  let old := s1.readCsr n
  let s2 := match new old with
    | some v => s1.writeCsr n v
    | none => s1
  finish 4 (firstTrap [if csrSupervisor n then s.cur.privCheck bits else none, s.cur.scalarPoison reads]) s
    (s2.writeX rd old)

/-- `csrr` (R95) -/
def execCsrr (rd : BitVec 5) (csr : BitVec 10) (s : State) : Out :=
  csrExec (Instr.csrr rd csr).bits.toNat rd csr [] (fun _ => none) s

/-- `csrw` (R95) -/
def execCsrw (rd : BitVec 5) (csr : BitVec 10) (ra : BitVec 5) (s : State) : Out :=
  csrExec (Instr.csrw rd csr ra).bits.toNat rd csr [ra] (fun _ => some (s.readX ra)) s

/-- `csrs` (R95); with `ra` = 0 it writes nothing. -/
def execCsrs (rd : BitVec 5) (csr : BitVec 10) (ra : BitVec 5) (s : State) : Out :=
  csrExec (Instr.csrs rd csr ra).bits.toNat rd csr [ra]
    (fun old => if ra = 0 then none else some (old ||| s.readX ra)) s

/-- `csrc` (R95); with `ra` = 0 it writes nothing. -/
def execCsrc (rd : BitVec 5) (csr : BitVec 10) (ra : BitVec 5) (s : State) : Out :=
  csrExec (Instr.csrc rd csr ra).bits.toNat rd csr [ra]
    (fun old => if ra = 0 then none else some (old &&& ~~~(s.readX ra))) s

/-! ## Calls and exit -/

/-- `svc` (R96): the entry to the fault queue with `EREC1` = `imm`. -/
def execSvc (imm : BitVec 10) (s : State) : Out := .next (takeTrap { cause := cSVC, erec1 := imm.toNat } 4 s)

/-- `brk` (R96) -/
def execBrk (imm : BitVec 10) (s : State) : Out := .next (takeTrap { cause := cBRK, erec1 := imm.toNat } 4 s)

/-- `h.brk` (R67, R96) -/
def execHBrk (imm : BitVec 10) (s : State) : Out := .next (takeTrap { cause := cBRK, erec1 := imm.toNat } 2 s)

/-- `exit` (R97) -/
def execExit (ra : BitVec 5) (s : State) : Out :=
  match s.cur.scalarPoison [ra] with
  | some t => .next (takeTrap t 4 s)
  | none => .next (exitRun ra s)

/-- A task in which a member has exited with a value (R97, R309). -/
def Task.noteExit (t : Task) (m : Nat) (v : Word) : Task :=
  { t with
    trig := insertNat t.trig m
    exited := insertNat t.exited m
    exit0 := if m = 0 then v else t.exit0
    exitor := t.exitor ||| v }

/-- The end of an exit (R97): the hart's writes have performed at `sys`, its value is recorded, and its slot is free. -/
def State.endExit (s : State) : State :=
  if s.cur.status ≠ .waiting .exit then s
  else
    let h := s.cur
    let c := h.core.toNat
    let s1 := (s.flushCore c).dropPins h.key
    let s2 := s1.setCurTask (s1.curTask.noteExit h.member h.exitVal)
    let s3 := s2.setCore c { s2.core c with instret := (s2.core c).instret + 1 }
    (s3.setCur .reset).saveReported h.part h.ctxid

/-- HART_EXIT_COMPLETE (R97). -/
def execHartExitComplete (k : CtxKey) (s : State) : Out := .next (s.onHart k State.endExit)

/-! ## `cachectl` (R98) -/

/-- The line of an address value as an access. -/
def lineUnit (a : Word) : UnitAcc := ⟨0, [], (a.toNat % 2 ^ 40 / 256 * 256 : Nat), 256, 1⟩

/-- Whether an address value lies in the scratchpad. -/
def inScratch (a : Word) : Bool := addrIdx a == 0xFFFFFF

/-- `cachectl.synci`: later fetches of the hart see the line's current bytes. -/
def execCachectlSynci (ra : BitVec 5) (s : State) : Out :=
  let a := s.readX ra
  memFinish 4 (s.cur.scalarPoison [ra]) s (s.reachOne ⟨addrIdx a, .exec, false, true, false⟩ (lineUnit a))
    fun (_, ps) s1 =>
      let fresh := ps.foldl (fun o p => match p.loc with
        | .pkg pa => overlayDrop o pa (pa + p.n)
        | _ => o) s1.cur.ifetch
      s1.setCur { s1.cur with ifetch := fresh }

/-- `cachectl.wb` and `cachectl.wbinv`: the line's dirty bytes go home; in the scratchpad nothing happens. -/
def writeBack (ra : BitVec 5) (s : State) : Out :=
  let a := s.readX ra
  if inScratch a then finish 4 (s.cur.scalarPoison [ra]) s s
  else
    memFinish 4 (s.cur.scalarPoison [ra]) s (s.reachOne ⟨addrIdx a, .wb, false, true, false⟩ (lineUnit a))
      fun (_, ps) s1 => s1.flushPieces ps

/-- `cachectl.wb` -/
def execCachectlWb (ra : BitVec 5) (s : State) : Out := writeBack ra s
/-- `cachectl.wbinv` -/
def execCachectlWbinv (ra : BitVec 5) (s : State) : Out := writeBack ra s

/-- What a speculative read is for: a line, a vector load, which takes no `CODE` buffer, or an `ld.d`, which alone may read
the windows (R112, R295). -/
inductive SpecKind where
  | line | vector | dword
  deriving DecidableEq, Repr

/-- The access of a speculative read at an address value. -/
def SpecKind.access (k : SpecKind) (a : Word) : Access1 :=
  let off := a.toNat % 2 ^ 40
  match k with
  | .line => ⟨addrIdx a, (off / 256 * 256 : Nat), 256, 1, .read, false, true⟩
  | .vector => ⟨addrIdx a, (off / 256 * 256 : Nat), 256, 1, .read, false, false⟩
  | .dword => ⟨addrIdx a, (off : Nat), 8, 1, .read, true, true⟩

/-- Whether a speculative access is dropped and counted (R295): it would fail a check, or its lookup finds no
translation, neither a copy nor an entry. -/
def State.specDrops (s : State) (kind : SpecKind) (a : Word) : Bool :=
  let (sp, s1) := s.space (addrIdx a)
  let off := (kind.access a).off.toNat
  match (kind.access a).check s1 sp with
  | some _ => true
  | none =>
    match sp with
    | .mem b =>
      let (ch, coff) := b.locate off
      let k : PageKey := ⟨s.cur.part, b.owner, addrIdx a, ch, coff / 2 ^ 16⟩
      !(s.cur.utlb ++ (s.core s.cur.core.toNat).gtlb).any (·.has k) && (s1.walk k).isNone
    | _ => false

/-- A speculative access of the running context (R295): a drop adds 1 to `PFDROP`; nothing else changes. -/
def State.prefetch (s : State) (kind : SpecKind) (a : Word) : State :=
  let c := s.cur.core.toNat
  if s.specDrops kind a then s.setCore c { s.core c with pfdrop := (s.core c).pfdrop + 1 } else s

/-- A prefetch hint (R98). -/
def prefetchExec (ra : BitVec 5) (s : State) : Out :=
  let a := s.readX ra
  finish 4 (s.cur.scalarPoison [ra]) s (if inScratch a then s else s.prefetch .line a)

/-- `cachectl.pf1` -/
def execCachectlPf1 (ra : BitVec 5) (s : State) : Out := prefetchExec ra s
/-- `cachectl.pf2` -/
def execCachectlPf2 (ra : BitVec 5) (s : State) : Out := prefetchExec ra s

/-- LINE_PREFETCH (R295): the sequencer prefetches or scouts for context `k`; which kind of read it is for is a free choice
(DESIGN CHOICE, log entry 93). -/
def execLinePrefetch (k : CtxKey) (addr : Word) (s : State) : Out :=
  .next (s.onHart k fun s1 =>
    let (n, s2) := s1.draw
    s2.prefetch (([.vector, .dword] : List SpecKind).getD (n % 3) .line) addr)

/-- `cachectl.zero`: a plain store of 256 zero bytes. -/
def execCachectlZero (ra : BitVec 5) (s : State) : Out :=
  let a := s.readX ra
  memFinish 4 (s.cur.scalarPoison [ra]) s
    (s.storeOne ⟨addrIdx a, .write, false, true, false⟩ .pl .hart 0 (lineUnit a) (List.replicate 256 0))
    fun _ s1 => s1

/-! ## Supervisor instructions -/

/-- `eret` (R99): an `EPC` that names another buffer traps `RIGHT` and leaves the record unchanged (log entry 16). -/
def execEret (s : State) : Out :=
  match s.cur.privCheck (Instr.eret).bits.toNat with
  | some t => .next (takeTrap t 4 s)
  | none =>
    match s.targetCheck s.cur.csr.epc with
    | some t => .next (takeTrapUnrecorded t 4 s)
    | none => .next (returnFromTrap s)

/-- A `tlbinv` as the shoot-down of its kind (R100). -/
def State.shootdownOf (s : State) (part : Nat) (base : Word) (kind : BitVec 2) (v : Word) : Shootdown :=
  ⟨part, kind, v, if kind = 0 then s.pagesOf noCore part base v.toNat else [], (s.part part).cores, false⟩

/-- `tlbinv` (R100): it retires when every responder has acknowledged (DEDUCED, log entry 18). -/
def execTlbinv (kind : BitVec 2) (ra : BitVec 5) (s : State) : Out :=
  let v := s.readX ra
  let s1 := s.orderBefore .rel .pkg []
  finish 4 (firstTrap [s.cur.privCheck (Instr.tlbinv kind ra).bits.toNat, s.cur.scalarPoison [ra]]) s
    (s1.respondAll (s1.shootdownOf s.cur.part s.cur.csr.btbase kind v))

/-- A resume of a suspended context (R101, R305): it joins the resume list of its priority with the choice made. A
context held by `ctx.save` keeps an earlier choice. No other context is affected. -/
def State.resumeCtx (s : State) (part : Nat) (ctx : BitVec 32) (skip : Bool) : State :=
  match s.hart? ⟨part, ctx⟩ with
  | none => s
  | some h =>
    if h.status = .suspended || h.status = .held then
      let p := s.part part
      let s1 := s.setPart part
        { p with resume := p.resume.setIfInBounds h.prio (p.resume.getD h.prio [] ++ [ctx]) }
      s1.updHart h.key fun x =>
        { x with status := .queued, skip := if h.status = .suspended then skip else x.skip }
    else s

/-- A `ctx.resume` (R101). -/
def resumeExec (bits : Nat) (skip : Bool) (ra : BitVec 5) (s : State) : Out :=
  finish 4 (firstTrap [s.cur.privCheck bits, s.cur.scalarPoison [ra]]) s
    (s.resumeCtx s.cur.part ((s.readX ra).setWidth 32) skip)

/-- `ctx.resume.retry` (R101) -/
def execCtxResumeRetry (ra : BitVec 5) (s : State) : Out :=
  resumeExec (Instr.ctxResumeRetry ra).bits.toNat false ra s

/-- `ctx.resume.skip` (R101) -/
def execCtxResumeSkip (ra : BitVec 5) (s : State) : Out :=
  resumeExec (Instr.ctxResumeSkip ra).bits.toNat true ra s

/-- A context on a resume list taken off it and held (R102): a pre-empted one's image carries reason 2 from then on. -/
def State.holdQueued (s : State) (h : Hart) : State :=
  let p := s.part h.part
  let s1 := s.setPart h.part { p with resume := p.resume.map fun l => l.filter (· ≠ h.ctxid) }
  let ctl := s1.imageNat h 0x280 8
  let s2 := if bitsAt ctl 0 2 = 0 then s1.slotWrite h.part h.saveSlot 0x280 (leBytes 8 (ctl + 2)) else s1
  s2.updHart h.key fun x => { x with status := .held }

/-- `ctx.save` (R102): it waits for the report of the save; a context that is not running is left alone. -/
def execCtxSave (ra : BitVec 5) (s : State) : Out :=
  let ctx : BitVec 32 := (s.readX ra).setWidth 32
  let k : CtxKey := ⟨s.cur.part, ctx⟩
  match firstTrap [s.cur.privCheck (Instr.ctxSave ra).bits.toNat, s.cur.scalarPoison [ra]] with
  | some t => .next (takeTrap t 4 s)
  | none =>
    if ctx = s.cur.ctxid then .next (retire 4 s)
    else
      match s.hart? k with
      | none => .next (retire 4 s)
      | some h =>
        if h.status = .queued then .next (retire 4 (s.holdQueued h))
        else if h.placed then
          let s1 := s.updHart k fun x => x.stopFor .ctxSave
          .next (s1.setCur { s1.cur with status := .waiting (.ctxSave ctx) })
        else .next (retire 4 s)

/-! ## `fence` (R203, R204) -/

/-- `fence`: with `CR` or `CW` in `pred` it waits for the hart's copy transfers, whose writes then perform, with `MR` or
`MW` for its `mld` and `mst`; writes in `pred` perform at the scope (R203, R204). An empty set makes it do nothing. -/
def execFence (pred succ : BitVec 8) (scope : Scope) (s : State) : Out :=
  if pred = 0 || succ = 0 then .next (retire 4 s)
  else
    let last (s1 : State) : State :=
      let s2 := if pred.getLsbD 0 || pred.getLsbD 1 then s1.completeOps MatOp.inMemory else s1
      retire 4 (s2.orderBefore .rel scope [])
    if pred.getLsbD 2 || pred.getLsbD 3 then
      .next (afterCopies 4 (fun _ => true) none s fun s1 => last (s1.landAll fun _ => true))
    else .next (last s)

end Sys2Proof.Machine
end

