-- ==== Sys2Proof/Machine/Banks.lean ====
section
/-! DEFINITION. The bank map: power states (R264), withdrawn phases (R266), retirement (R267), activation budgets (R361),
Ember (R363-R365). -/

namespace Sys2Proof.Machine

/-- Whether a bank exists (R256). -/
def isBank (b : Nat) : Bool := decide (b < bankCount)

/-- The SRAM-tier segment of a bank, numbered `32s + g` (R256). -/
def bankSegment (b : Nat) : Option Nat := if 4096 ≤ b && b < 6144 then some ((b - 4096) / 16) else none

/-- Whether a bank lies in a segment in `CACHE` mode (R262). -/
def State.inCache (s : State) (b : Nat) : Bool :=
  match bankSegment b with
  | none => false
  | some g => s.freeSegs.getLsbD g || s.parts.any fun (_, p) => p.chmap.getLsbD (64 + g) && p.segs.getLsbD g

/-- The activation count of a bank set (R361). -/
def State.setRaa (s : State) (b n : Nat) : State := { s with raa := tset 0 s.raa b n }

/-- A bank put into a power state; `RET` and `OFF` clear its activation count (R361). -/
def State.setPower (s : State) (b : Nat) (p : Power) : State :=
  let s1 := s.setBank b { s.bank b with power := p }
  match p with
  | .ret | .off => s1.setRaa b 0
  | _ => s1

/-- Whether a phase `BURST` is acknowledged over a bank (R265). -/
def State.burstOver (s : State) (b : Nat) : Bool :=
  s.harts.any fun h => h.csr.phack == 3 && (s.bank b).pins.contains h.key

/-- BANK_IDLE_STANDBY (R264): an idle bank leaves `ACT`, unless an acknowledged `BURST` holds it there (R265). -/
def execBankIdleStandby (bank : Nat) (s : State) : Out :=
  let s1 := s.repinAll
  atUnit (isBank bank) (if (s1.bank bank).power = .act && !s1.burstOver bank then s1.setPower bank .stby else s)

/-- Whether a transfer of a context that is under way reads or writes a buffer with a frame in a bank. -/
def State.copyingIn (s : State) (h : Hart) (bank : Nat) : Bool :=
  let bufs := (h.xfers.filter Xfer.live).flatMap fun x => addrIdx x.dst :: if x.zero then [] else [addrIdx x.src]
  !bufs.isEmpty && s.ptes.any fun (k, e) =>
    e.val && e.part == h.part && bufs.contains e.buf && frameBank (k / 2 ^ 21) (k % 2 ^ 21) == bank

/-- Whether an access that a context has issued before still has to find a bank (R266). -/
def State.busyBank (s : State) (bank : Nat) : Bool :=
  s.harts.any fun h => h.pendingBanks.contains bank || s.copyingIn h bank

/-- BANK_IDLE_RETENTION (R264): only with pin count 0, never in a `CACHE` segment (R262), and not before every earlier access
has completed (R266). -/
def execBankIdleRetention (bank : Nat) (s : State) : Out :=
  let s1 := s.repinAll
  let b := s1.bank bank
  atUnit (isBank bank)
    (if (b.power = .act || b.power = .stby) && b.pins.isEmpty && !s.inCache bank && !s.busyBank bank then
      s1.setPower bank .ret
    else s)

/-- BANK_WAKE (R264): an access finds the bank. -/
def execBankWake (bank : Nat) (s : State) : Out :=
  atUnit (isBank bank) (if (s.bank bank).power = .off then s else s.activate [bank])

/-- BANK_POWER_OFF (R264): only with allocated-frame count 0; never in a `CACHE` segment (R262) or a reserved area
(R268, R369). -/
def execBankPowerOff (bank : Nat) (s : State) : Out :=
  atUnit (isBank bank)
    (if (s.bank bank).frames = 0 && !s.inCache bank && !s.reserved.contains bank then s.setPower bank .off else s)

/-- The first frame of a bank within its table (R284). -/
def bankFirst (b : Nat) : Nat :=
  if b < 4096 then b % 1024 * 1536 else if b < 6144 then (b - 4096) % 512 * 64 else (b - 6144) % 1536 * 512

/-- The physical addresses of a bank: the first, and the one after the last. -/
def bankSpan (b : Nat) : Nat × Nat :=
  let t := bankTable b
  (physAddr t (bankFirst b) 0, physAddr t (bankFirst b + bankFrames t) 0)

/-- A bank's contents zeroed (R264). -/
def State.zeroBank (s : State) (b : Nat) : State :=
  let (lo, hi) := bankSpan b
  { s.dropL1 lo hi with
    mem := overlayDrop s.mem lo hi
    home := overlayDrop s.home lo hi
    poison := s.poison.filter fun g => decide (g < lo / 128) || decide (hi / 128 ≤ g) }

/-- BANK_WAKE_FOR_ALLOCATION (R264): `OFF` to `STBY` with zeroed contents; a retired bank stays `OFF` (R267). -/
def execBankWakeForAllocation (bank : Nat) (s : State) : Out :=
  let b := s.bank bank
  atUnit (isBank bank)
    (if b.power = .off && !b.retired then (s.setPower bank .stby).zeroBank bank else s)

/-! ## Withdrawn phases (R266) -/

/-- The acknowledged phases of some contexts withdrawn: `PHACK` reads 1 and their pins go. -/
def State.withdraw (s : State) (ks : List CtxKey) : State :=
  ks.foldl (fun s k =>
    (s.updHart k fun h => { h with csr := { h.csr with phack := if 2 ≤ h.csr.phack.toNat then 1 else h.csr.phack } }).dropPins
      k) s

/-- PHASE_WITHDRAW (R266, R267): only for the retirement of the pinned bank. -/
def execPhaseWithdraw (bank : Nat) (s : State) : Out :=
  atUnit (isBank bank) (if (s.bank bank).pending then s.repinAll.withdraw (s.repinAll.bank bank).pins else s)

/-- THERMAL_EMERGENCY (R266). -/
def execThermalEmergency (s : State) : Out :=
  .next (s.repinAll.withdraw ((s.repinAll.banks.flatMap fun x => x.2.pins).eraseDups))

/-! ## Retirement (R267) -/

/-- BANK_RETIRE_REQUEST (R267 step 1). -/
def execBankRetireRequest (bank : Nat) (s : State) : Out :=
  let b := s.bank bank
  atUnit (isBank bank) (if b.retired then s else s.setBank bank { b with pending := true })

/-- REMAPPING_STEP (R267 steps 3 and 4): refused while frames are allocated. -/
def execRemappingStep (bank : Nat) (s : State) : Out :=
  let b := s.bank bank
  atUnit (isBank bank)
    (if b.pending && b.frames = 0 then
      { (s.setBank bank { b with retired := true, pending := false, pins := [] }).setPower bank .off with
        generation := s.generation + 1 }
    else s)

/-! ## Activation budgets (R361) -/

/-- A refresh or a refresh management at a bank: `RAAIMT` is taken off its count; SRAM banks have none. -/
def State.relieve (s : State) (b : Nat) : State :=
  let t := bankTable b
  if 4 ≤ t && t < 8 then s else s.setRaa b (tget 0 s.raa b - s.raaimt.getD t 0)

/-- REFRESH (R361). -/
def execRefresh (bank : Nat) (s : State) : Out := atUnit (isBank bank) (s.relieve bank)

/-- REFRESH_MANAGEMENT (R361): due when the count has reached `RAAIMT`. -/
def execRefreshManagement (bank : Nat) (s : State) : Out :=
  atUnit (isBank bank)
    (if s.raaimt.getD (bankTable bank) 0 ≤ tget 0 s.raa bank then s.relieve bank else s)

/-! ## Ember (R363-R365) -/

/-- Whether a vertical bus exists (R1, R363): one for each of 16 SRAM-tier layers, 32 DRAM-tier layers and 8 HBM4E stacks. -/
def isBus (n : Nat) : Bool := decide (n < 56)

/-- The banks reached through a bus. -/
def busBanks (n : Nat) : List Nat := (List.range bankCount).filter fun b => bankBus b == n

/-- A quiesce begins (R363): the lanes that earlier ones have found can be mapped from now on (R365). -/
def Bus.quiesce (b : Bus) : Bus :=
  if b.quiesced then b else { b with quiesced := true, failed := b.failed ++ b.found, found := [] }

/-- EMBER_QUIESCE (R363): an idle bus is quiesced; no bank sees it. Every bus is idle between two steps of this model. -/
def execEmberQuiesce (bus : Nat) (s : State) : Out := atUnit (isBus bus) (s.setBus bus (s.bus bus).quiesce)

/-- EMBER_DEMAND_PREEMPT (R364): a demand ends the pass. -/
def execEmberDemandPreempt (bus : Nat) (s : State) : Out :=
  atUnit (isBus bus) (s.setBus bus { s.bus bus with quiesced := false })

/-- Whether a lane of a group has failed before (R365). -/
def Bus.hurt (b : Bus) (group : Nat) : Bool :=
  b.spared.contains group || (b.failed ++ b.found).any fun x => x.1 == group

/-- Firmware retires the banks reached through a bus (R365, R267 step 1). -/
def State.retireBus (s : State) (n : Nat) : State :=
  (busBanks n).foldl (fun s b => if (s.bank b).retired then s else s.setBank b { s.bank b with pending := true }) s

/-- A failing lane found in a pass (R365): reported to firmware; the second of a group retires the bus's banks. -/
def State.laneFailure (s : State) (bus group lane : Nat) : State :=
  let b := s.bus bus
  if b.quiesced && decide (lane < 33) && !(b.failed ++ b.found).contains (group, lane) then
    let s1 := s.setBus bus { b with found := b.found ++ [(group, lane)] }
    let s2 := { s1 with log := s1.log ++ [.lane bus group lane] }
    if b.hurt group then s2.retireBus bus else s2
  else s

/-- EMBER_LANE_FAILURE (R365): lanes 0 to 31 carry data, lane 32 is the group's spare. -/
def execEmberLaneFailure (bus group lane : Nat) (s : State) : Out := atUnit (isBus bus) (s.laneFailure bus group lane)

/-- SPARE_LANE_REMAP (R365): in a quiesce later than the one that found it, the spare takes the place of the group's first
failing lane, once. -/
def execSpareLaneRemap (bus group : Nat) (s : State) : Out :=
  let b := s.bus bus
  atUnit (isBus bus) (match b.failed.find? fun x => x.1 == group with
    | some x =>
      if b.quiesced && !b.spared.contains group then
        s.setBus bus { b with failed := b.failed.filter (· ≠ x), spared := insertNat b.spared group }
      else s
    | none => s)

end Sys2Proof.Machine
end

