-- ==== Sys2Proof/Machine/Pages.lean ====
section
/-! DEFINITION. Page table commands of the host (R286, R287), shoot-downs (R289, R290) and page migration (R292, R293);
lines at their home (R273, R281-R283). -/

namespace Sys2Proof.Machine

/-- Whether a page table exists (R284). -/
def isFrame (t f : Nat) : Bool := decide (t < 16) && decide (f < tableFrames t)

/-- PTE_INSERT (R286): doubleword 0 written with `VAL` 1, by a writer of partition `part`. -/
def execPteInsert (part t f : Nat) (v : Word) (s : State) : Out :=
  atUnit (isPart part && isFrame t f) (s.windowWrite part initBase t f 0 (v ||| 1))

/-- PTE_REMOVE (R286): doubleword 0 written with `VAL` 0. -/
def execPteRemove (part t f : Nat) (v : Word) (s : State) : Out :=
  atUnit (isPart part && isFrame t f) (s.windowWrite part initBase t f 0 (v &&& ~~~1))

/-- MIGRATION_START (R292): doubleword 2 written with `BUSY` 1. -/
def execMigrationStart (part t f : Nat) (v : Word) (s : State) : Out :=
  atUnit (isPart part && isFrame t f) (s.windowWrite part initBase t f 2 (v ||| 0x8000_0000_0000_0000))

/-! ## Shoot-downs (R289, R290) -/

/-- A shoot-down with one core's acknowledgement. -/
def Shootdown.ack (d : Shootdown) (core : Nat) : Shootdown := { d with cores := d.cores.filter (· ≠ core) }

/-- The first entry of a list that a test accepts, changed. -/
def updFirst {α : Type} (p : α → Bool) (f : α → α) : List α → List α
  | [] => []
  | x :: xs => if p x then f x :: xs else x :: updFirst p f xs

/-- The first entry of a list that a test accepts, removed. -/
def dropFirst {α : Type} (p : α → Bool) : List α → List α
  | [] => []
  | x :: xs => if p x then xs else x :: dropFirst p xs

/-- A core's responder serves its oldest shoot-down (R289). -/
def State.serveShootdown (s : State) (core : Nat) : State :=
  match s.shoots.find? fun d => d.cores.contains core with
  | none => s
  | some d =>
    let s1 := s.respond d core
    { s1 with shoots := updFirst (fun d => d.cores.contains core) (·.ack core) s1.shoots }

/-- RESPONDER_SHOOTDOWN (R289). -/
def execResponderShootdown (core : Nat) (s : State) : Out := atUnit (decide (core < 256)) (s.serveShootdown core)

/-- Whether a shoot-down of a partition has every acknowledgement (R290). -/
def Shootdown.acked (d : Shootdown) (part : Nat) : Bool := d.part == part && d.cores.isEmpty

/-- The oldest acknowledged shoot-down of a partition completes (R290); the host's one clears `SHOOT`. -/
def State.completeShootdown (s : State) (part : Nat) : State :=
  match s.shoots.find? fun d => d.acked part with
  | none => s
  | some d =>
    let s1 := { s with shoots := dropFirst (fun d => d.acked part) s.shoots }
    if d.host then s1.setPart part { s1.part part with shootBusy := false } else s1

/-- SHOOTDOWN_COMPLETE (R290). -/
def execShootdownComplete (part : Nat) (s : State) : Out := atUnit (isPart part) (s.completeShootdown part)

/-- A shoot-down that the host starts (R289, R344); one that runs is waited for. -/
def State.hostShootdown (s : State) (part : Nat) (v : Word) : State :=
  let p := s.part part
  if p.shootBusy then s
  else
    let kind : BitVec 2 := v.setWidth 2
    let s1 := s.setPart part { p with shootBusy := true, shootKind := kind }
    { s1 with shoots := s1.shoots ++ [{ s1.shootdownOf part initBase kind p.shootv with host := true }] }

/-- HOST_SHOOTDOWN (R289, R344). -/
def execHostShootdown (part : Nat) (v : Word) (s : State) : Out := atUnit (isPart part) (s.hostShootdown part v)

/-! ## Migration (R292, R293) -/

/-- The running migration from frame `f` of table `t`. -/
def State.migration? (s : State) (t f : Nat) : Option Migration :=
  s.migrations.find? fun m => m.t == t && m.src == f

/-- Whether a migration is among the eight that the engine of its stack runs at once (R292). -/
def State.migrationRuns (s : State) (m : Migration) : Bool :=
  ((s.migrations.filter fun x => tableStack x.t == tableStack m.t).take 8).contains m

/-- Whether a shoot-down of the engine for this page is still to complete. -/
def State.pageShooting (s : State) (part ch cp : Nat) : Bool :=
  s.shoots.any fun d => d.part == part && !d.host && decide (d.kind = 0) && d.pages == [(ch, cp)]

/-- The dirty bytes of `[lo, hi)` in every core's L1 written home (R293). -/
def State.flushAll (s : State) (lo hi : Nat) : State := (s.cores.map Prod.fst).foldl (fun s c => s.flushL1 c lo hi) s

/-- The bytes of `[lo, lo + n)` of a sparse memory moved to another place, the rest unchanged. -/
def copyBytes (m : List Host.Cell) (lo dst n : Nat) : List Host.Cell := Memory.write m dst (Memory.read m lo n)

/-- What the metadata record says of a line, its tag copy and its two codes, moved to another frame's record (R150,
R279, R293). -/
def State.moveRecord (s : State) (lo dst : Nat) : State :=
  let s1 := (s.setCode (dst / 128) (s.codeOf lo)).setCode (dst / 128 + 1) (s.codeOf (lo + 128))
  s1.setLineTag dst (s.lineTag lo)

/-- The bytes of a line at the home moved to another frame, its granules under the codes that they have there (R293);
poison travels with its granule. -/
def State.moveLine (s : State) (lo dst : Nat) : State :=
  let s1 := s.flushAll lo (lo + 256)
  let kept := s1.home.filter fun x => decide (lo ≤ x.1) && decide (x.1 < lo + 256)
  let clean := overlayDrop (overlayDrop s1.home lo (lo + 256)) dst (dst + 256)
  let marks := ((List.range 2).filter fun j => s1.poison.contains (lo / 128 + j)).map (dst / 128 + ·)
  { s1 with
    mem := copyBytes (copyBytes s1.mem lo dst (32 * codeBeats (s1.codeOf lo))) (lo + 128) (dst + 128)
      (32 * codeBeats (s1.codeOf (lo + 128)))
    home := kept.foldr (fun x o => overlaySet o (dst + (x.1 - lo)) x.2) clean
    poison := marks.foldl insertNat (s1.poison.filter fun g => g / 2 != dst / 256) }

/-- One line of a migrating page copied (R293): after the first shoot-down, the line at `PROG`. What contexts have pending
there goes on at the new place (R243). -/
def State.copyLine (s : State) (t f : Nat) : State :=
  match s.migration? t f with
  | none => s
  | some m =>
    let e := s.pte t f
    let n := bitsAt e.dw2.toNat 50 9
    if m.switched || 256 ≤ n || !s.migrationRuns m || s.pageShooting m.part m.ch m.cp then s
    else
      let lo := physAddr t f (256 * n)
      let dst := physAddr t m.dst (256 * n)
      let s1 := (((s.moveLine lo dst).moveRecord lo dst).mapHarts (Hart.moveLine lo dst)).activate
        [frameBank t f, frameBank t m.dst]
      s1.setPte t f { e with dw2 := BitVec.ofNat 64 (setBits e.dw2.toNat 50 9 (n + 1)) }

/-- MIGRATION_LINE_COPY (R293). -/
def execMigrationLineCopy (t f : Nat) (s : State) : Out := atUnit (isFrame t f) (s.copyLine t f)

/-- The switch of a migration whose lines are all copied (R292 step 4), and the second shoot-down (step 5). The record has
moved line by line (R293), and that of the source frame goes. -/
def State.switchFrames (s : State) (t f : Nat) : State :=
  match s.migration? t f with
  | none => s
  | some m =>
    let e := s.pte t f
    if m.switched || bitsAt e.dw2.toNat 50 9 < 256 then s
    else
      let d := s.pte t m.dst
      let s1 := (s.setPte t m.dst { d with dw0 := e.dw0, dw1 := e.dw1 }).setPte t f
        { e with
          dw0 := BitVec.ofNat 64 (setBits e.dw0.toNat 0 1 0)
          dw2 := BitVec.ofNat 64 (setBits e.dw2.toNat 63 1 0) }
      let s2 := (s1.plainFrame t f).loseFrame (frameBank t f)
      let s3 := { s2 with migrations := s2.migrations.map fun x => if x = m then { x with switched := true } else x }
      s3.shootPage m.part e.buf m.ch m.cp

/-- MIGRATION_SWITCH (R292). -/
def execMigrationSwitch (t f : Nat) (s : State) : Out := atUnit (isFrame t f) (s.switchFrames t f)

/-- The end of a migration (R292 step 5): its second shoot-down has completed, and the source frame is free. -/
def State.endMigration (s : State) (t f : Nat) : State :=
  match s.migration? t f with
  | none => s
  | some m =>
    if !m.switched || s.pageShooting m.part m.ch m.cp then s
    else { s with migrations := s.migrations.filter fun x => decide (x ≠ m) }

/-- MIGRATION_END (R292). -/
def execMigrationEnd (t f : Nat) (s : State) : Out := atUnit (isFrame t f) (s.endMigration t f)

/-! ## Lines (R273, R281-R283) -/

/-- DIRTY_SECTOR_WRITEBACK (R273): a dirty 64-byte sector of a core's L1 goes to its home. -/
def execDirtySectorWriteback (core sector : Nat) (s : State) : Out :=
  atUnit (decide (core < 256)) (s.flushL1 core (64 * sector) (64 * sector + 64))

/-- LINE_WRITEBACK (R281): the bytes of a line at its home reach the banks. -/
def execLineWriteback (line : Nat) (s : State) : Out := .next ((s.mergeGranule (2 * line)).mergeGranule (2 * line + 1))

/-- UNCORRECTABLE_MEMORY_ERROR (R283): a granule is poisoned; an error in a tag nibble poisons both granules of the line. -/
def execUncorrectableMemoryError (tagNibble : Bool) (pa : Nat) (s : State) : Out :=
  .next { s with poison :=
    if tagNibble then insertNat (insertNat s.poison (pa / 256 * 2)) (pa / 256 * 2 + 1) else insertNat s.poison (pa / 128) }

end Sys2Proof.Machine
end

