-- ==== Sys2Proof/Machine/Sched.lean ====
section
/-! DEFINITION. The dispatcher (R296-R307), the end of tasks and their completion records (R308-R310), records written by
the host (R296, R343) and contexts killed by the host (R320, R344). -/

namespace Sys2Proof.Machine

/-! ## Columns and cores (R298-R301) -/

/-- The columns that the partition owns, draining ones among them (R350). -/
def Partition.owned (p : Partition) : List Nat := (List.range 32).filter p.colmap.getLsbD

/-- The columns in which the dispatcher may place: those of the partition that do not drain (R350). -/
def Partition.columns (p : Partition) : List Nat :=
  (List.range 32).filter fun c => p.colmap.getLsbD c && !p.draining.getLsbD c

/-- The contexts that hold a slot of the partition (R298). -/
def State.placedIn (s : State) (part : Nat) : List Hart := s.harts.filter fun h => h.placed && h.part == part

/-- The occupancy of a column (R298). -/
def colOccupancy (l : List Hart) (c : Nat) : Nat := (l.filter fun h => h.core.toNat / 8 == c).length

/-- The contexts on a core. -/
def onCore (l : List Hart) (k : Nat) : List Hart := l.filter fun h => h.core.toNat == k

/-- Whether a core fits a hart (R300). -/
def coreFits (l : List Hart) (tiles spad k : Nat) : Bool :=
  let on := onCore l k
  decide (on.length < 32) && decide (tiles + (on.map Hart.ntiles).sum ≤ 8)
    && decide (spad + (on.map Hart.spadUnits).sum ≤ 8)

/-- The first entry of a list with the least value. -/
def argMin (f : Nat → Nat) : List Nat → Option Nat
  | [] => none
  | x :: xs => match argMin f xs with
    | some y => some (if f y < f x then y else x)
    | none => some x

/-- The cores of a column that fit a hart. -/
def fitting (l : List Hart) (tiles spad c : Nat) : List Nat :=
  ((List.range 8).map (8 * c + ·)).filter (coreFits l tiles spad)

/-- The core that R301 chooses among eligible columns. -/
def pickCore (elig : List Nat) (l : List Hart) (tiles spad : Nat) : Option Nat :=
  (argMin (colOccupancy l) (elig.filter fun c => !(fitting l tiles spad c).isEmpty)).bind fun c =>
    argMin (fun k => (onCore l k).length) (fitting l tiles spad c)

/-- The home cluster that R301 chooses for a narrow hart. -/
def pickCluster (l : List Hart) (k : Nat) : Option (BitVec 2) :=
  (argMin (fun c => ((onCore l k).filter fun h => h.cluster == some (BitVec.ofNat 2 c)).length) [0, 1, 2, 3]).map
    (BitVec.ofNat 2)

/-- A free hart slot of a core; `n` chooses which (DESIGN CHOICE, log entry 20). -/
def pickSlot (l : List Hart) (k n : Nat) : BitVec 5 :=
  let free := (List.range 32).filter fun j => !(onCore l k).any fun h => h.slot.toNat == j
  BitVec.ofNat 5 (free.getD (n % free.length) 0)

/-- A hart put on the core that R301 chooses. -/
def Hart.assign (h : Hart) (elig : List Nat) (l : List Hart) (n : Nat) : Option Hart :=
  (pickCore elig l h.ntiles h.spadUnits).map fun k =>
    { h with core := BitVec.ofNat 8 k, slot := pickSlot l k n, cluster := if h.wide then none else pickCluster l k }

/-- Harts of one task assigned one after another (R301). -/
def assignAll (elig : List Nat) (proto : Hart) : Nat → Nat → List Hart → Option (List Hart)
  | 0, _, _ => some []
  | k + 1, n, l =>
    match proto.assign elig l n with
    | none => none
    | some h => (assignAll elig proto k (n / 32) (h :: l)).map fun hs => h :: hs

/-- The columns not above threshold (R299). -/
def State.eligible (s : State) (part : Nat) : List Nat :=
  let l := s.placedIn part
  (s.part part).columns.filter fun c => decide (colOccupancy l c ≤ (s.part part).dthr)

/-! ## Placing a task (R34, R300, R344) -/

/-- Whether the producers of a task let it be placed (R300). -/
def Partition.producersPlaced (p : Partition) (t : Task) : Bool :=
  t.producers.all fun w =>
    let u := p.task w.toNat
    u.placed || u.triggered || u.neverTriggers

/-- The save slots that no context holds (R344). -/
def State.freeSlots (s : State) (part : Nat) : List Nat :=
  let used := (s.harts.filter fun h => h.part == part && decide (h.status ≠ .vacant) && decide (h.status ≠ .killed)).map
    Hart.saveSlot
  (List.range (s.part part).svslots).filter fun k => !used.contains k

/-- The next context identifier from `c` on that no context holds (R34). -/
def nextCtxid (held : List (BitVec 32)) : Nat → BitVec 32 → BitVec 32
  | 0, c => c
  | fuel + 1, c => if c = 0 || held.contains c then nextCtxid held fuel (c + 1) else c

/-- `n` context identifiers in order. -/
def ctxids (held : List (BitVec 32)) : Nat → BitVec 32 → List (BitVec 32)
  | 0, _ => []
  | n + 1, c =>
    let d := nextCtxid held (held.length + 2) c
    d :: ctxids held n (d + 1)

/-- A hart of a task before it has a core (R34). -/
def Task.proto (t : Task) (part prio : Nat) (id : Nat) (stamp : Nat) : Hart :=
  { Hart.reset with
    status := .running, part := part, wide := t.wide, supv := t.supv, ntiles := t.tiles, spadUnits := t.spad
    task := BitVec.ofNat 64 id, harts := t.harts, prio := prio, stamp := stamp
    code := BitVec.ofNat 24 (t.entry.toNat / 2 ^ 40)
    pc := BitVec.ofNat 64 (setBits t.entry.toNat 0 1 0) }

/-- Member `m` of a task: its identity, its save slot and its scalar registers (R34). -/
def Hart.member' (h : Hart) (t : Task) (m slot : Nat) (ctx : BitVec 32) : Hart :=
  { ((h.writeX 1 (BitVec.ofNat 64 (t.arg.toNat / 2 ^ 40 * 2 ^ 40))).writeX 2 (BitVec.ofNat 64 m)).writeX 3
      (BitVec.ofNat 64 t.harts) with
    member := m, saveSlot := slot, ctxid := ctx }

/-- The priority of a queue (R296). -/
def Partition.queuePrio (p : Partition) (q : Nat) : Nat := bitsAt p.qprio.toNat (2 * q) 2

/-- The task at the head of a queue. -/
def Partition.headTask (p : Partition) (q : Nat) : Option Nat := ((p.queues.getD q []).head?).map BitVec.toNat

/-- The harts of the head of queue `q` on their cores, when it fits now (R300). -/
def State.headHarts (s : State) (part q n : Nat) : Option (List Hart) :=
  let p := s.part part
  match p.headTask q with
  | none => none
  | some id =>
    let t := p.task id
    if p.producersPlaced t && decide (t.harts ≤ (s.freeSlots part).length) then
      assignAll (s.eligible part) (t.proto part (p.queuePrio q) id s.clock) t.harts n (s.placedIn part)
    else none

/-- The head of queue `q` placed (R300, R301); `n` and `m` choose hart and save slots (DESIGN CHOICE, log entry 20). A core
whose L1 gives steps to a scratchpad share writes its dirty bytes home (R269). -/
def State.placeHead (s : State) (part q n m : Nat) : State :=
  match s.headHarts part q n, (s.part part).headTask q with
  | some hs, some id =>
    let p := s.part part
    let t := p.task id
    let slots := arrange t.harts m (s.freeSlots part)
    let held := (s.harts.filter fun h => h.part == part && decide (h.status ≠ .vacant)).map Hart.ctxid
    let ids := ctxids held t.harts p.nextCtx
    let new := hs.zipIdx.map fun (h, i) => h.member' t i (slots.getD i 0) (ids.getD i 0)
    let cores := (new.filter fun h => h.spadUnits != 0).map fun h => h.core.toNat
    let p1 := { p.setTask id { t with placed := true } with
      queues := p.queues.setIfInBounds q (p.queues.getD q []).tail
      nextCtx := (ids.getLastD p.nextCtx) + 1 }
    let s1 := cores.foldl State.flushCore s
    { s1.setPart part p1 with rest := s.rest ++ new, clock := s.clock + 1 }
  | _, _ => s

/-! ## Decisions (R302, R303) -/

/-- Whether the completion queue has no room (R310). -/
def Partition.cqFull (p : Partition) : Bool := p.cqtail == p.cqhead + BitVec.ofNat 32 (2 ^ p.cqlog)

/-- The entries of the completion queue that are free (R310). -/
def Partition.cqRoom (p : Partition) : Nat := 2 ^ p.cqlog - (p.cqtail - p.cqhead).toNat

/-- Whether some completion record waits for room (R310): more wait than the queue has free entries. -/
def Partition.recordsWait (p : Partition) : Bool := decide (p.cqRoom < p.done.length)

/-- Whether the head of queue `q` fits now. -/
def State.headFits (s : State) (part q : Nat) : Bool := (s.headHarts part q 0).isSome

/-- The saved context at the head of the resume list of a priority. -/
def State.resumeHead (s : State) (part prio : Nat) : Option Hart :=
  (((s.part part).resume.getD prio []).head?).bind fun c => s.hart? ⟨part, c⟩

/-- A saved context on its new core, when it fits now (R305). -/
def State.resumeOn (s : State) (part prio n : Nat) : Option Hart :=
  (s.resumeHead part prio).bind fun h =>
    let (tiles, spad) := s.savedNeeds h
    Hart.assign { h with ntiles := tiles, spadUnits := spad, wide := bitAt (s.imageNat h 0x280 8) 7 }
      (s.eligible part) (s.placedIn part) n

/-- What a decision runs. -/
inductive Pick where
  | queue (q : Nat)
  | resume (prio : Nat)
  deriving DecidableEq, Repr

/-- The first queue of priority `p` after `rr(p)` whose head fits now (R303). -/
def State.nextQueue (s : State) (part prio : Nat) : Option Nat :=
  let p := s.part part
  ((List.range 16).map fun j => ((p.rr.getD prio 15) + 1 + j) % 16).find? fun q =>
    p.queuePrio q == prio && s.headFits part q

/-- The choice of R303. -/
def State.choose (s : State) (part : Nat) : Option Pick :=
  let p := s.part part
  let closed := p.recordsWait
  let aged := if closed then none
    else (List.range 16).find? fun q => decide (64 ≤ p.passed.getD q 0) && s.headFits part q
  match aged with
  | some q => some (.queue q)
  | none =>
    ([3, 2, 1, 0].filterMap fun prio =>
      if (s.resumeOn part prio 0).isSome then some (Pick.resume prio)
      else if closed then none
      else (s.nextQueue part prio).map Pick.queue).head?

/-- The ages after a decision (R303). -/
def Partition.age (p : Partition) (chosen : Option Nat) : Partition :=
  { p with passed := Vector.ofFn fun q =>
      if chosen = some q.val || (p.queues.getD q.val []).isEmpty then 0 else p.passed.getD q.val 0 + 1 }

/-- A head record that can never fit leaves its queue refused (R302). -/
def State.refuseHead (s : State) (part q : Nat) : State :=
  let p := s.part part
  match p.headTask q with
  | none => s
  | some id =>
    s.setPart part { p.setTask id { p.task id with refused := 5, ended := true } with
      queues := p.queues.setIfInBounds q (p.queues.getD q []).tail
      done := p.done ++ [BitVec.ofNat 64 id] }

/-- Whether the head of queue `q` can never fit (R302, R213). -/
def Partition.neverFits (p : Partition) (q : Nat) : Bool :=
  match p.headTask q with
  | none => false
  | some id =>
    let t := p.task id
    decide (p.cores.length * coreRoom t.tiles t.spad < t.harts) || decide (p.svslots < t.harts)

/-- One decision (R303): a task placed, or a saved context resumed. -/
def State.runDecision (s : State) (part : Nat) : State :=
  match s.choose part with
  | none => s
  | some (.queue q) =>
    let (n, s1) := s.draw
    let (m, s2) := s1.draw
    let prio := (s.part part).queuePrio q
    let s3 := s2.placeHead part q n m
    let aged := decide (64 ≤ (s.part part).passed.getD q 0)
    let p := (s3.part part).age (some q)
    s3.setPart part (if aged then p else { p with rr := p.rr.setIfInBounds prio q })
  | some (.resume prio) =>
    let (n, s1) := s.draw
    match s1.resumeOn part prio n with
    | none => s
    | some h =>
      let p := (s1.part part).age none
      let s2 := s1.setPart part { p with resume := p.resume.setIfInBounds prio (p.resume.getD prio []).tail }
      { s2.onHart h.key (fun s3 => s3.restoreCur h.core h.slot h.cluster s3.clock) with clock := s2.clock + 1 }

/-- DISPATCH_DECISION (R302, R303). -/
def execDispatchDecision (part : Nat) (s : State) : Out :=
  let p := s.part part
  atUnit (isPart part) (if !p.en then s
    else match (List.range 16).find? p.neverFits with
      | some q => s.refuseHead part q
      | none => s.runDecision part)

/-! ## Pre-emption (R304) -/

/-- The highest priority of a waiting head (R304). -/
def State.waitingPrio (s : State) (part : Nat) : Option Nat :=
  let p := s.part part
  [3, 2, 1, 0].find? fun prio =>
    !(p.resume.getD prio []).isEmpty ||
      (!p.recordsWait && (List.range 16).any fun q => p.queuePrio q == prio && (p.headTask q).isSome)

/-- Whether a hart's task is a producer, not yet triggered, of a placed task (R304). -/
def Partition.shielded (p : Partition) (h : Hart) : Bool :=
  !(p.task h.task.toNat).triggered &&
    p.tasks.any fun (_, t) => t.placed && !t.ended && t.producers.contains h.task

/-- Whether a hart can be stopped: it is not stopping already, and not at its end. -/
def Hart.stoppable (h : Hart) : Bool :=
  h.request.isNone &&
    (match h.status with
      | .running => true
      | .waiting .exit => false
      | .waiting _ => true
      | _ => false)

/-- Whether hart `a` is chosen before `b` on one column (R304 step 3). -/
def Hart.beforeVictim (a b : Hart) : Bool :=
  let key (h : Hart) : List Nat := [3 - h.prio, h.stamp, h.member, h.core.toNat, h.slot.toNat]
  decide (key b < key a)

/-- The best of some harts. -/
def bestVictim : List Hart → Option Hart
  | [] => none
  | h :: hs => match bestVictim hs with
    | some k => some (if k.beforeVictim h then k else h)
    | none => some h

/-- The victim that R304 chooses. -/
def State.victim (s : State) (part : Nat) : Option Hart :=
  let p := s.part part
  let l := s.placedIn part
  match s.waitingPrio part with
  | none => none
  | some prio =>
    if p.owned.isEmpty || p.owned.any fun c => decide (colOccupancy l c ≤ p.dthr) then none
    else
      let cands := l.filter fun h => decide (h.prio < prio) && h.stoppable && !p.shielded h
      let cols := p.owned.filter fun c => cands.any fun h => h.core.toNat / 8 == c
      (argMin (colOccupancy l) cols).bind fun c => bestVictim (cands.filter fun h => h.core.toNat / 8 == c)

/-- Whether a save that the dispatcher asked for is still under way (R304: one after another), even where a trap or a
`ctx.save` has come first and gives the save its reason. -/
def Hart.beingPreempted (h : Hart) : Bool := h.placed && h.victim

/-- PREEMPT (R304): the dispatcher stops its next victim. -/
def execPreempt (part : Nat) (s : State) : Out :=
  atUnit (isPart part) (if !(s.part part).en || (s.placedIn part).any Hart.beingPreempted then s
    else match s.victim part with
      | none => s
      | some h => s.updHart h.key fun x => { x.stopFor .preempt with victim := true })

/-! ## The end of tasks (R308-R310) -/

/-- A task whose harts have all exited or been killed ends (R308); its record waits in order. -/
def State.endTask (s : State) (part : Nat) (id : Word) : State :=
  let p := s.part part
  let t := p.task id.toNat
  if t.placed && !t.ended && t.exited.length + t.killed.length == t.harts then
    s.setPart part { p.setTask id.toNat { t with ended := true } with done := p.done ++ [id] }
  else s

/-- TASK_END (R308); every context is lost at a device-fatal error, and no record follows it (R367). -/
def execTaskEnd (part : Nat) (task : Word) (s : State) : Out :=
  atUnit (isPart part) (if s.dump.fatal.isSome then s else s.endTask part task)

/-- Doubleword 1 of a completion record (R309). -/
def Task.status (t : Task) (phase : Bool) : Nat :=
  if t.refused ≠ 0 then t.refused * 2 ^ 56 + 2 * 2 ^ 54 + bit phase * 2 ^ 53
  else
    bit (!t.killed.isEmpty) * 2 ^ 54 + bit phase * 2 ^ 53 + t.killed.length % 2 ^ 14 * 2 ^ 16
      + t.killed.headD 0 % 2 ^ 13

/-- The oldest waiting completion record written when there is room (R310): doubleword 1 last, then `CQTAIL` and the
interrupt. -/
def State.writeCompletion (s : State) (part : Nat) : State :=
  let p := s.part part
  match p.done with
  | [] => s
  | id :: ids =>
    if p.cqFull then s
    else
      let t := p.task id.toNat
      let a := p.cqbase.toNat + 32 * (p.cqtail.toNat % 2 ^ p.cqlog)
      let refused := decide (t.refused ≠ 0)
      let tail := leBytes 8 (if refused then 0 else t.exit0.toNat) ++ leBytes 8 (if refused then 0 else t.exitor.toNat)
      let s1 := (s.hostWrite a (leBytes 8 id.toNat)).hostWrite (a + 16) tail
      let s2 := s1.hostWrite (a + 8) (leBytes 8 (t.status (lapTag p.cqtail p.cqlog)))
      let s3 := s2.setPart part { s2.part part with done := ids, cqtail := p.cqtail + 1 }
      { s3 with signals := s3.signals ++ [.vf part 1] }

/-- COMPLETION_RECORD_WRITE (R310); none after a device-fatal error (R367). -/
def execCompletionRecordWrite (part : Nat) (s : State) : Out :=
  atUnit (isPart part) (if s.dump.fatal.isSome then s else s.writeCompletion part)

/-- CQHEAD_WRITE (R310). -/
def execCqheadWrite (part : Nat) (v : Word) (s : State) : Out :=
  atUnit (isPart part) (s.setPart part { s.part part with cqhead := v.setWidth 32 })

/-! ## The host's doorbell (R296, R343) -/

/-- A task record from the host (R343): queued, or refused with a completion record; then the answer. -/
def State.hostLaunch (s : State) (part : Nat) (bs : List Byte) : State :=
  let p := s.part part
  let r := TaskRec.ofBytes bs
  let code := s.launchCode part false true r
  let id := p.nextTask
  let (ans, s1) :=
    if code = 0 then (id, s.setPart part (p.enqueue r))
    else (2 ^ 63 + code, s.setPart part { p.setTask id { r.task code with ended := true } with
      nextTask := id + 1, done := p.done ++ [BitVec.ofNat 64 id] })
  if r.last = 0 then s1 else s1.hostWrite r.last.toNat (leBytes 8 ans)

/-- HOST_LAUNCH (R343): a write of another size is dropped; after a device-fatal error nothing takes a record (R367). -/
def execHostLaunch (part : Nat) (rec : List Byte) (s : State) : Out :=
  atUnit (isPart part) (if rec.length = 64 && s.dump.fatal.isNone then s.hostLaunch part rec else s)

/-- A suspended context killed by the host (R320, R324): its image is given up and its task counts it; it writes no
record (DESIGN CHOICE, log entry 28). -/
def State.hostKill (s : State) (part : Nat) (v : Word) : State :=
  let k : CtxKey := ⟨part, v.setWidth 32⟩
  match s.hart? k with
  | none => s
  | some h =>
    if h.status = .suspended || h.status = .held then
      let p := s.part part
      let s1 := s.setPart part (p.setTask h.task.toNat ((p.task h.task.toNat).kill h.member))
      (s1.tellKill part ⟨h.task, s.devid, h.member⟩).updHart k fun _ => .reset
    else s

/-- HOST_KILL (R320, R344). -/
def execHostKill (part : Nat) (v : Word) (s : State) : Out := atUnit (isPart part) (s.hostKill part v)

/-- The record of a `MEM` kill of the running context outside its own reads (R323): a copy-engine read carries the
chunk and `IPC` of one of the context's transfers, which `n` chooses (DESIGN CHOICE, log entry 28). -/
def State.memKill (s : State) (sub pa n : Nat) : State :=
  if sub = 4 then
    match s.cur.xfers[n % s.cur.xfers.length]? with
    | none => s
    | some x =>
      s.killCur { memTrap 4 pa with async := true, chunk := n / 2 ^ 16 % Nat.max 1 x.count, ipc := x.ipc.toNat }
  else s.killCur (memTrap sub pa)

/-- CONTEXT_KILL (R323): context `k` consumes poisoned memory data. -/
def execContextKill (k : CtxKey) (pa sub : Nat) (s : State) : Out :=
  let (n, s1) := s.draw
  .next (s1.onHart k fun s2 => if s2.cur.placed then s2.memKill sub pa n else s2)

end Sys2Proof.Machine
end

