-- ==== Sys2Proof/Machine/PartCfg.lean ====
section
/-! DEFINITION. Partition configuration: segment modes (R262), enabling (R348, R370), columns and channels (R350, R351),
shares (R349), access tables (R347), the configuration registers (R344). -/

namespace Sys2Proof.Machine

/-! ## Access tables (R347) -/

/-- What firmware writes into the entries of a partition's masters: its columns, their copy channels and its function, at
the memories in which it owns channels, the L2 slices, the mailboxes and the host link. -/
def Partition.accesses (p : Partition) (n : Nat) : List (Nat × Access) :=
  let cols := (List.range 32).filter p.colmap.getLsbD
  let masters := cols ++ cols.map (32 + ·) ++ [69 + n]
  let mems := (List.range 16).filter fun t => (chanList p.chmap).any fun ch => chanTable ch == t
  let targets := mems ++ (List.range 9).map (16 + ·)
  targets.flatMap fun t => masters.map fun m => (accessKey t m, ⟨n, true, true, true⟩)

/-- The entries of masters that serve every partition: partition 33 stands for all (DESIGN CHOICE, log entry 21). -/
def commonAccesses : List (Nat × Access) :=
  (List.range 25).flatMap fun t =>
    ([64, 65, 66, 67, 68] ++ (List.range 16).map (101 + ·)).map fun m => (accessKey t m, ⟨33, true, true, true⟩)

/-- The access tables that firmware writes (R347). -/
def State.refreshAccess (s : State) : State :=
  let all := commonAccesses ++ s.parts.flatMap fun (n, p) => p.accesses n
  let table := all.foldl (fun t (k, a) => tset Access.reset t k a) []
  { s with access := table }

/-! ## Segment modes (R262) -/

/-- The banks of a segment. -/
def segmentBanks (g : Nat) : List Nat := (List.range 16).map (4096 + 16 * g + ·)

/-- Whether some bank of a segment holds an allocated frame. -/
def State.segmentUsed (s : State) (g : Nat) : Bool := (segmentBanks g).any fun b => (s.bank b).frames != 0

/-- Vector 2 of a partition's function (R342). -/
def State.signalResize (s : State) (part : Nat) : State := { s with signals := s.signals ++ [.vf part 2] }

/-- A write of `SEGMODE0` or `SEGMODE1` (R262): each bit of an owned segment that differs from the current mode starts a
change, or is refused. -/
def State.writeSegmode (s : State) (part : Nat) (hi : Bool) (v : Word) : State :=
  let p := s.part part
  let lo := if hi then 64 else 0
  let changes := ((List.range 64).filter fun j =>
    p.chmap.getLsbD (64 + lo + j) && v.getLsbD j != p.segs.getLsbD (lo + j)).map (lo + ·)
  let refused := changes.filter fun g => !p.segs.getLsbD g && s.segmentUsed g
  let started := changes.filter fun g => !refused.contains g
  let s1 := s.setPart part { p with
    segErr := !refused.isEmpty
    segPending := started.foldl (fun m g => m ||| (1#128 <<< g)) p.segPending }
  if refused.isEmpty then s1 else s1.signalResize part

/-- SEGMODE_WRITE (R262). -/
def execSegmodeWrite (part : Nat) (hi : Bool) (v : Word) (s : State) : Out :=
  atUnit (isPart part) (s.writeSegmode part hi v)

/-- A segment's banks out of `RET` and `OFF` (R262); a retired bank stays `OFF` (R267). -/
def State.wakeSegment (s : State) (g : Nat) : State :=
  (segmentBanks g).foldl (fun s b =>
    match (s.bank b).power with
    | .ret => s.setPower b .stby
    | .off => if (s.bank b).retired then s else (s.setPower b .stby).zeroBank b
    | _ => s) s

/-- The mode change of a segment completes (R262); a frame that was mapped meanwhile refuses a change to `CACHE`. -/
def State.endSegment (s : State) (part g : Nat) : State :=
  let p := s.part part
  if !p.segPending.getLsbD g then s
  else
    let pend := p.segPending &&& ~~~(1#128 <<< g)
    let refused := !p.segs.getLsbD g && s.segmentUsed g
    let s1 := s.setPart part { p with
      segPending := pend
      segErr := p.segErr || refused
      segs := if refused then p.segs else p.segs ^^^ (1#128 <<< g) }
    let s2 := if refused || p.segs.getLsbD g then s1 else s1.wakeSegment g
    if pend = 0 || refused then s2.signalResize part else s2

/-- Whether a partition owns a segment. -/
def State.segmentOwned (s : State) (g : Nat) : Bool := s.parts.any fun (_, p) => p.chmap.getLsbD (64 + g)

/-- Firmware changes the mode of a segment that no partition owns (R262). -/
def State.flipFree (s : State) (g : Nat) : State :=
  let cache := s.freeSegs.getLsbD g
  if s.segmentOwned g || (!cache && s.segmentUsed g) then s
  else
    let s1 := { s with freeSegs := s.freeSegs ^^^ (1#128 <<< g) }
    if cache then s1 else s1.wakeSegment g

/-- SEGMENT_MODE_CHANGE_COMPLETE (R262); partition number 32 stands for firmware (DESIGN CHOICE, log entry 30). -/
def execSegmentModeChangeComplete (part seg : Nat) (s : State) : Out :=
  if part = 32 then atUnit (decide (seg < 128)) (s.flipFree seg)
  else atUnit (isPart part && decide (seg < 128)) (s.endSegment part seg)

/-! ## Enabling (R348, R370) -/

/-- The metadata bytes that a partition needs on a stack (R279, R348). -/
def Partition.metaNeed (p : Partition) (stack : Nat) : Nat :=
  let own := chanList (p.chmap &&& stackMask stack)
  let sram := (own.filter fun ch => decide (64 ≤ ch) && decide (ch < 192)).length
  let dram := (own.filter fun ch => decide (ch < 64)).length
  let hbm := (own.filter fun ch => decide (192 ≤ ch)).length
  384 * (sram * 1024) + 264 * (dram * 98304 + hbm * 24576)

/-- Whether enabling is refused (R348). -/
def Partition.enableRefused (p : Partition) : Bool :=
  (List.range 4).any (fun st => decide (p.mdsize.toNat * 65536 < p.metaNeed st)) || p.fqbase == 0 || p.cqbase == 0
    || p.svslots == 0

/-- The pages of the initial buffer table (R370). -/
def Partition.tablePages (p : Partition) : Nat := max 1 ((32 * p.btcount + 65535) / 65536)

/-- Whether firmware may hold the initial table in these frames (R370): one for each page, free, of the partition's own
DRAM-tier or HBM4E channels. -/
def State.tableOk (s : State) (part : Nat) (frames : List (Nat × Nat × Nat)) : Bool :=
  let p := s.part part
  decide (frames.map Prod.fst = List.range p.tablePages) && decide (frames.map Prod.snd).Nodup
    && frames.all fun (_, t, f) =>
      let b := frameBank t f
      isFrame t f && !(4 ≤ t && t < 8 : Bool) && s.ownsFrame part t f && !(s.pte t f).val && !(s.bank b).retired
        && !(s.bank b).pending && !s.reserved.contains b
        && s.parts.all fun (_, q) => q.table.all fun x => decide (x.2 ≠ (t, f))

/-- The doublewords of entries 1 to 4 of the initial table (R253, R268, R287, R319, R370): length in pages and rights. -/
def Partition.fixedEntries (p : Partition) : List (Nat × Nat) := [(2, 8), (16384, 12), (65, 12), (p.tablePages, 12)]

/-- The initial table filled (R370): zeros but for entries 1 to 4. -/
def State.buildTable (s : State) (frames : List (Nat × Nat × Nat)) (p : Partition) : State :=
  let s1 := frames.foldl (fun s (_, t, f) =>
    let b := frameBank t f
    (if (s.bank b).power = .off then (s.setPower b .stby).zeroBank b else s).zeroFrame t f) s
  match frames with
  | [] => s1
  | (_, t, f) :: _ =>
    p.fixedEntries.zipIdx.foldl (fun s ((len, rights), i) =>
      (s.writeBytes true noCore (physAddr t f (32 * (i + 1))) (leBytes 8 (2 ^ 31 + len))).writeBytes true noCore
        (physAddr t f (32 * (i + 1) + 8)) (leBytes 8 (rights * 2 ^ 18))) s1

/-- Whether the shares of the enabled partitions and of one more would exceed 256 on a link class (R349). -/
def State.sharesExceed (s : State) (part : Nat) : Bool :=
  let on := (s.parts.filter fun (n, q) => n != part && q.en).map Prod.snd
  let p := s.part part
  decide (256 < (on.map fun q => q.bwd.toNat).sum + p.bwd.toNat) || decide (256 < (on.map fun q => q.bwx.toNat).sum + p.bwx.toNat)

/-- The partition enabled (R348, R370), or refused, as it is where the enabled partitions' shares would exceed 256 (R349). -/
def State.enable (s : State) (part : Nat) (frames : List (Nat × Nat × Nat)) : State :=
  let p := s.part part
  if p.en || !s.boot.ready || s.dump.fatal.isSome then s
  else if p.enableRefused || s.sharesExceed part then s.setPart part { p with rszErr := true }
  else if !s.tableOk part frames then s
  else
    let s1 := s.buildTable frames p
    (s1.setPart part { p with
      en := true, rszErr := false, table := frames, nextCtx := 1
      rr := Vector.replicate 4 15, passed := Vector.replicate 16 0 }).refreshAccess

/-- PARTITION_ENABLE (R348, R370): `frames` is firmware's choice; a choice that it may not make changes nothing. -/
def execPartitionEnable (part : Nat) (frames : List (Nat × Nat × Nat)) (s : State) : Out :=
  atUnit (isPart part) (s.enable part frames)

/-! ## Columns (R350) -/

/-- Whether another partition owns some of these columns or channels (R348). -/
def State.ownedElsewhere (s : State) (part : Nat) (cols : BitVec 32) (chans : BitVec 448) : Bool :=
  s.parts.any fun (n, q) => n != part && (decide (q.colmap &&& cols ≠ 0) || decide (q.chmap &&& chans ≠ 0))

/-- A resize that is refused (R350, R351). -/
def State.refuseResize (s : State) (part : Nat) : State :=
  (s.setPart part { s.part part with rszErr := true }).signalResize part

/-- The contexts of a draining column stopped for their save (R350 step 2). -/
def State.evict (s : State) (part : Nat) (cols : BitVec 32) : State :=
  s.mapHarts fun h =>
    if h.placed && h.part == part && cols.getLsbD (h.core.toNat / 8) && h.stoppable then h.stopFor .preempt else h

/-- A write of `COLMAP` (R350): further columns are owned at once, removed ones begin to drain. -/
def State.writeColmap (s : State) (part : Nat) (map : BitVec 32) : State :=
  let p := s.part part
  let gone := p.colmap &&& ~~~map
  let more := map &&& ~~~p.colmap
  if (gone ≠ 0 && p.rszBusy) || s.ownedElsewhere part more 0 then s.refuseResize part
  else
    let s1 := s.setPart part { p with
      colmap := p.colmap ||| more, draining := p.draining ||| gone, rszBusy := p.rszBusy || gone ≠ 0, rszErr := false }
    let s2 := (s1.evict part gone).refreshAccess
    if gone = 0 then s2.signalResize part else s2

/-- COLUMN_REMOVE (R350). -/
def execColumnRemove (part : Nat) (map : BitVec 32) (s : State) : Out := atUnit (isPart part) (s.writeColmap part map)

/-- COLUMN_ADD (R350). -/
def execColumnAdd (part : Nat) (map : BitVec 32) (s : State) : Out := atUnit (isPart part) (s.writeColmap part map)

/-- A draining column whose occupancy is 0 leaves the partition (R350 step 3); with the last one `RSZBUSY` clears. -/
def State.endDrain (s : State) (part col : Nat) : State :=
  let p := s.part part
  if !p.draining.getLsbD col || colOccupancy (s.placedIn part) col != 0 then s
  else
    let keep := ~~~(1#32 <<< col)
    let left := p.draining &&& keep
    let s1 := (s.setPart part { p with colmap := p.colmap &&& keep, draining := left, rszBusy := left ≠ 0 }).refreshAccess
    if left = 0 then s1.signalResize part else s1

/-- COLUMN_DRAIN_COMPLETE (R350). -/
def execColumnDrainComplete (part col : Nat) (s : State) : Out :=
  atUnit (isPart part && decide (col < 32)) (s.endDrain part col)

/-! ## Channels (R351) -/

/-- Whether a channel's banks hold an allocated frame (R351). -/
def State.channelUsed (s : State) (m : BitVec 448) : Bool := s.banks.any fun (b, k) => k.frames != 0 && m.getLsbD (bankChan b)

/-- The segments of a channel map, as a map of segments. -/
def segsOf (m : BitVec 448) : BitVec 128 := BitVec.ofNat 128 (bitsAt m.toNat 64 128)

/-- A write of `CHMAP` (R351): further channels are owned at once, segments in the mode that firmware gave them (R262); a
drop is refused while a dropped channel holds frames, and a dropped segment is in `HOME` mode. -/
def State.writeChmap (s : State) (part : Nat) (map : BitVec 448) : State :=
  let p := s.part part
  let gone := p.chmap &&& ~~~map
  let more := map &&& ~~~p.chmap
  if s.channelUsed gone || s.ownedElsewhere part 0 more then s.refuseResize part
  else
    let drop := ~~~segsOf gone
    let taken := segsOf more &&& s.freeSegs
    (({ s.setPart part { p with
          chmap := map, segs := p.segs &&& drop ||| taken, segPending := p.segPending &&& drop, rszErr := false } with
        freeSegs := s.freeSegs &&& ~~~taken }).refreshAccess).signalResize part

/-- CHANNEL_DROP (R351). -/
def execChannelDrop (part : Nat) (map : BitVec 448) (s : State) : Out := atUnit (isPart part) (s.writeChmap part map)

/-- CHANNEL_ADD (R351). -/
def execChannelAdd (part : Nat) (map : BitVec 448) (s : State) : Out := atUnit (isPart part) (s.writeChmap part map)

/-! ## Shares (R349) -/

/-- A write of `BWD` or `BWX` (R349): at most 256, and refused when it would bring the sum of the enabled partitions'
shares above 256. -/
def State.writeShare (s : State) (part : Nat) (x : Bool) (v : Word) : State :=
  let p := s.part part
  let share (q : Partition) : Nat := if x then q.bwx.toNat else q.bwd.toNat
  let others := (s.parts.filter fun (n, q) => n != part && q.en).map fun (_, q) => share q
  if 256 < v.toNat || (p.en && decide (256 < others.sum + v.toNat)) then s
  else
    let w := BitVec.ofNat 9 v.toNat
    s.setPart part (if x then { p with bwx := w } else { p with bwd := w })

/-- SHARE_WRITE (R349). -/
def execShareWrite (part : Nat) (x : Bool) (v : Word) (s : State) : Out := atUnit (isPart part) (s.writeShare part x v)

/-- The partition that an injector serves: of the column of a core or of a channel, or of its function. -/
def State.injectorPart (s : State) (injector : Nat) : Option Partition :=
  if 1280 ≤ injector then some (s.part (injector - 1280))
  else
    let core := if injector < 256 then injector else (injector - 256) / 4
    (s.parts.find? fun x => x.2.colmap.getLsbD (core / 8)).map Prod.snd

/-- The share of a bucket in 1/256 of its line (R349). -/
def State.bucketShare (s : State) (k : Nat) : Nat :=
  match s.injectorPart (k / 32) with
  | none => 0
  | some p => if k % 32 < 16 then p.bwx.toNat else p.bwd.toNat

/-- The packets that wait at a bucket injected as its tokens allow, in order. -/
def State.unstall (s : State) (k : Nat) : State :=
  s.stalled.foldl (fun s x => if x.1 == k then s.injectAt k x.2 else { s with stalled := s.stalled ++ [x] })
    { s with stalled := [] }

/-- A bucket refilled at its share's rate for `n` flit times of its line, up to a burst of 64 flits; then packets that
waited at it go (R349). -/
def State.refill (s : State) (k n : Nat) : State :=
  let level := min (64 * 256) (tget 0 s.buckets k + (n * s.bucketShare k : Nat))
  State.unstall { s with buckets := tset 0 s.buckets k level } k

/-- TOKEN_BUCKET_REFILL (R349): `n` flit times of the line pass. -/
def execTokenBucketRefill (bucket n : Nat) (s : State) : Out :=
  atUnit (decide (bucket / 32 < 1312) && decide (bucket % 32 < 26)) (s.refill bucket n)

/-! ## The configuration registers (R344) -/

/-- A number brought to the nearest limit. -/
def clamp (lo hi n : Nat) : Nat := max lo (min hi n)

/-- A value with its lowest `k` bits 0. -/
def alignDown (k : Nat) (v : Word) : Word := BitVec.ofNat 64 (setBits v.toNat 0 k 0)

/-- Doubleword `j` of a channel map replaced. -/
def setMapWord (m : BitVec 448) (j : Nat) (v : Word) : BitVec 448 := BitVec.ofNat 448 (setBits m.toNat (64 * j) 64 v.toNat)

/-- A register that the partition's own function writes (R344); those of the queues, the save area and `BTCOUNT` only
while `EN` = 0. -/
def State.writeOwn (s : State) (part off : Nat) (v : Word) : State :=
  let p := s.part part
  let put (q : Partition) : State := s.setPart part q
  let off? (q : Partition) : State := if p.en then s else put q
  match off with
  | 0x100 => put { p with qprio := v.setWidth 32 }
  | 0x108 => put { p with dthr := min 256 v.toNat }
  | 0x110 => off? { p with fqbase := alignDown 6 v }
  | 0x118 => off? { p with fqlog := clamp 4 16 v.toNat }
  | 0x120 => off? { p with cqbase := alignDown 5 v }
  | 0x128 => off? { p with cqlog := clamp 4 16 v.toNat }
  | 0x130 => put { p with cqhead := v.setWidth 32 }
  | 0x140 => off? { p with svbase := v }
  | 0x148 => off? { p with svslots := min 8192 v.toNat }
  | 0x158 => put { p with gtbase := v }
  | 0x160 => put { p with gtcount := min 256 v.toNat }
  | 0x168 => put { p with rwtbase := v }
  | 0x170 => put { p with rwtcount := min 64 v.toNat }
  | 0x178 => off? { p with btcount := clamp 4 (2 ^ 24) v.toNat }
  | 0x180 => s.hostKill part v
  | 0x188 => s.hostShootdown part v
  | 0x190 => put { p with shootv := v }
  | 0x198 => put { p with cstbase := v }
  | 0x1A0 => s.writeSegmode part false v
  | 0x1A8 => s.writeSegmode part true v
  | 0x200 => put { p with head := v.setWidth 32 }
  | _ => s

/-- A write of `PCTL` through the ownership block: `EN` and `RSZERR` can be cleared, the device's own bits stay. The write
that sets `EN` is PARTITION_ENABLE (DESIGN CHOICE, log entry 30). -/
def Partition.writeCtl (p : Partition) (v : Word) : Partition :=
  { p with en := p.en && v.getLsbD 0, rszErr := p.rszErr && v.getLsbD 2 }

/-- A register written: one that the virtual function may only read takes the physical function's write (R344). -/
def State.writeConfig (s : State) (part : Nat) (phys : Bool) (off : Nat) (v : Word) : State :=
  let p := s.part part
  if phys && 0x018 ≤ off && off ≤ 0x048 && off % 8 == 0 then s.writeChmap part (setMapWord p.chmap ((off - 0x018) / 8) v)
  else
    match phys, off with
    | true, 0x000 => s.setPart part { p with number := some (v.setWidth 5) }
    | true, 0x008 => s.setPart part (p.writeCtl v)
    | true, 0x010 => s.writeColmap part (v.setWidth 32)
    | true, 0x050 => s.writeShare part false v
    | true, 0x058 => s.writeShare part true v
    | true, 0x060 => { s with devid := v.setWidth 16 }
    | true, 0x138 => s.setPart part { p with cqtail := v.setWidth 32 }
    | true, 0x150 => s.setPart part { p with mdsize := v }
    | _, _ => s.writeOwn part off v

/-- `PCTL` (R344). -/
def Partition.ctl (p : Partition) : Nat :=
  bit p.en + 2 * bit p.rszBusy + 4 * bit p.rszErr + 8 * bit (p.segPending != 0) + 16 * bit p.segErr

/-- A configuration register of a partition as it reads (R344); an offset that holds none, and one that is only written,
reads zero (R9; DESIGN CHOICE, log entry 30). -/
def State.readConfig (s : State) (part off : Nat) : Word :=
  let p := s.part part
  let nat (n : Nat) : Word := BitVec.ofNat 64 n
  if 0x018 ≤ off && off ≤ 0x048 && off % 8 == 0 then nat (bitsAt p.chmap.toNat (8 * (off - 0x018)) 64)
  else
    match off with
    | 0x000 => nat ((p.number.map BitVec.toNat).getD part)
    | 0x008 => nat p.ctl
    | 0x010 => nat p.colmap.toNat
    | 0x050 => nat p.bwd.toNat
    | 0x058 => nat p.bwx.toNat
    | 0x060 => nat s.devid.toNat
    | 0x100 => nat p.qprio.toNat
    | 0x108 => nat p.dthr
    | 0x110 => p.fqbase
    | 0x118 => nat p.fqlog
    | 0x120 => p.cqbase
    | 0x128 => nat p.cqlog
    | 0x130 => nat p.cqhead.toNat
    | 0x138 => nat p.cqtail.toNat
    | 0x140 => p.svbase
    | 0x148 => nat p.svslots
    | 0x150 => p.mdsize
    | 0x158 => p.gtbase
    | 0x160 => nat p.gtcount
    | 0x168 => p.rwtbase
    | 0x170 => nat p.rwtcount
    | 0x178 => nat p.btcount
    | 0x188 => nat (p.shootKind.toNat + 2 ^ 63 * bit p.shootBusy)
    | 0x190 => p.shootv
    | 0x198 => p.cstbase
    | 0x1A0 => nat ((p.segs &&& segsOf p.chmap).toNat % 2 ^ 64)
    | 0x1A8 => nat ((p.segs &&& segsOf p.chmap).toNat / 2 ^ 64)
    | 0x200 => nat p.head.toNat
    | _ => 0

/-! ## BAR2 of a virtual function (R341) -/

/-- All ones, as an unsupported request reads. -/
def allOnes : Word := BitVec.allOnes 64

/-- The targets that an access to a partition's views through BAR2 passes (R347): the host link, and those that a core's
access to the view passes (DESIGN CHOICE, log entry 21). -/
def State.barTargets (s : State) (part off : Nat) : List Nat :=
  let o := off % 2 ^ 30
  24 :: match off / 2 ^ 30 with
    | 0 => (Loc.almanac o).targets
    | 1 => (Loc.window o).targets
    | 2 => (Loc.faultq o).targets
    | _ => (((s.part part).tableLoc o).map fun pa => (Loc.pkg pa).targets).getD []

/-- A doubleword of a partition's views as its host reads it. -/
def State.barRead (s : State) (part off : Nat) : Word :=
  let o := off % 2 ^ 30
  match off / 2 ^ 30 with
  | 0 => if o < 128 * 1024 then BitVec.ofNat 64 (leNat ((List.range 8).map fun j => s.almanacByte part (o + j))) else allOnes
  | 1 => s.windowRead part (o / 2 ^ 26) (o % 2 ^ 26 / 32) (o % 32 / 8)
  | 2 => if o < 4 * 2 ^ 20 + 2 ^ 16 then s.faultqRead part o else allOnes
  | 3 => match (s.part part).tableLoc o with
    | some pa => BitVec.ofNat 64 (s.coreDw noCore pa)
    | none => allOnes
  | _ => allOnes

/-- A doubleword written in a partition's views by its host; the Almanac view takes no write. -/
def State.barWrite (s : State) (part off : Nat) (v : Word) : State :=
  let o := off % 2 ^ 30
  match off / 2 ^ 30 with
  | 1 => s.windowWrite part initBase (o / 2 ^ 26) (o % 2 ^ 26 / 32) (o % 32 / 8) v
  | 2 => s.faultqWrite part o v
  | 3 => match (s.part part).tableLoc o with
    | some pa => s.writeBytes true noCore pa (leBytes 8 v.toNat)
    | none => s
  | _ => s

/-- The bank that an access through BAR2 to the initial table finds (R264). -/
def State.barTouch (s : State) (part off : Nat) : State :=
  match off / 2 ^ 30, (s.part part).tableLoc (off % 2 ^ 30) with
  | 3, some pa => s.activate [paBank pa]
  | _, _ => s

/-- A doubleword access of a partition's host through BAR2 (R341), with the state after it; a read answers its bytes. A
partition that is not enabled (R348), or an access that is not an aligned doubleword, reads all ones and drops writes; a
request that the access tables refuse reads zeros or is dropped (R347). -/
def State.vfBar2 (s : State) (part off n : Nat) (w : Option Word) : List Byte × State :=
  let kind := bit w.isSome
  if !(s.part part).en || off % 8 != 0 || n != 8 then (List.replicate n 0xFF, s)
  else if !(s.barTargets part off).all fun t => s.admits t (69 + part) part kind then
    (List.replicate n 0, s.refuse (69 + part) part)
  else
    let s1 := s.barTouch part off
    match w with
    | none => (leBytes 8 (s1.barRead part off).toNat, s1)
    | some v => ([], s1.barWrite part off v)

end Sys2Proof.Machine
end

