-- ==== Sys2Proof/Machine/Dump.lean ====
section
/-! DEFINITION. Device-fatal errors and the dump (R366-R369). -/

namespace Sys2Proof.Machine

/-- The first byte of the 64 MiB of an HBM4E stack that are reserved for the dump (R368): two whole banks, from one that
firmware chooses (DESIGN CHOICE, log entry 24). -/
def dumpBase (stack : Nat) : Nat := physAddr (8 + stack) (512 * (Config.dumpBank stack % 1535)) 0

/-- The banks of the reserved areas (R268, R279, R284, R368): the two of the dump area in HBM4E stack 0, the two in stack 7,
and those of the other areas. -/
def reservedBanks : List Nat :=
  ([0, 7].flatMap fun k => [paBank (dumpBase k), paBank (dumpBase k) + 1]) ++ Config.otherBanks

/-- The record of an occupied slot (R368). -/
def Hart.dumpRecord (h : Hart) : List (Nat × List Byte) :=
  let base := 0x1000 + 32768 * h.core.toNat + 1024 * h.slot.toNat
  [(base, leBytes 4 h.ctxid.toNat),
    (base + 8, [h.pc.toNat, h.csr.vlWord, h.csr.fcsr.toNat, h.csr.lctr.toNat, h.csr.lrem.toNat].flatMap (leBytes 8)),
    (base + 256, (List.range 32).flatMap fun r => leBytes 8 (h.readX (BitVec.ofNat 5 r)).toNat)]

/-- A line of text (R368): printable ASCII characters that a number gives, and a line feed. -/
def asciiLine (n : Nat) : List Byte :=
  (List.range (n % 80)).map (fun i => BitVec.ofNat 8 (32 + n / 80 / 95 ^ i % 95)) ++ [0x0A]

/-- The steward log as text: one line for each of its lines; their wording is no rule's (DESIGN CHOICE, log entry 29). -/
def State.logText (s : State) (text : Nat) : List Byte :=
  ((List.range s.log.length).flatMap fun i => asciiLine (text / 2 ^ (640 * i) % 2 ^ 640)).take (2 ^ 26 - 0x911000)

/-- The body of the dump (R368): the slots, the bank words, and areas whose bytes the spec does not lay out: `own`,
`links` and `text` are free numbers (DESIGN CHOICE, log entry 29). -/
def State.dumpBody (s : State) (own links text : Nat) : List (Nat × List Byte) :=
  ((s.harts.filter Hart.placed).flatMap Hart.dumpRecord) ++
    [(0x801000, (List.range bankCount).flatMap fun b => leBytes 4 (setBits (s.almanacWord 32 b) 11 1 (bit (bitAt own b)))),
      (0x901000, leBytes 65536 links), (0x911000, s.logText text)]

/-- The HBM4E stack that holds the dump area (R368): 7 when the cause's unit lies on compute stack 0, else 0. A link lies on
every stack that it joins (DESIGN CHOICE, log entry 29). -/
def dumpStack (ukind unit : Nat) : Nat :=
  let onStack0 : Bool := match ukind with
    | 0 => unit < 64
    | 1 => decide (unit < 16) && tableStack unit == 0
    | 2 => [0, 1, 2, 6].contains unit
    | _ => false
  if onStack0 then 7 else 0

/-- Pieces written into an area at a physical address. -/
def writeArea (a : List Host.Cell) (ps : List (Nat × List Byte)) (base : Nat) : List Host.Cell :=
  ps.foldl (fun a (o, bs) => Memory.write a (base + o) bs) a

/-- The bits of `DW5` of the header: the partitions enabled (R368). -/
def State.enabledParts (s : State) : BitVec 32 :=
  s.parts.foldl (fun m (n, p) => if p.en then m ||| (1#32 <<< n) else m) 0

/-- The device stopped (R367 step 1): every context is lost, no record waits, no partition is enabled. -/
def State.stopDevice (s : State) : State :=
  { s with
    cur := .reset, rest := [], shoots := [], migrations := [], sent := [], stalled := []
    parts := s.parts.map fun (n, p) =>
      (n, { p with en := false, done := [], faults := [], colls := [], resume := Vector.replicate 4 [] }) }

/-- A device-fatal error (R366, R367): the first stops the device and starts the dump, a further one is counted. A dump
that is not released keeps its area (R369). -/
def State.fatalError (s : State) (cause ukind unit : Nat) : State :=
  match s.dump.fatal with
  | some f => { s with dump := { s.dump with fatal := some { f with second := f.second + 1 } } }
  | none =>
    let (own, s1) := s.draw
    let (links, s2) := s1.draw
    let (text, s3) := s2.draw
    let f : Fatal := ⟨cause, ukind, unit, 0, s3.enabledParts⟩
    let held := s3.dump.finished || s3.dump.incomplete
    let stack := if held then s3.dump.stack else dumpStack ukind unit
    let area := if held then s3.dump.area else writeArea [] (s3.dumpBody own links text) (dumpBase stack)
    { s3.stopDevice with dump := { s3.dump with fatal := some f, stack := stack, area := area } }

/-- DEVICE_FATAL_ERROR (R366): codes 1 to 7, unit kinds 0 to 5. -/
def execDeviceFatalError (cause ukind unit : Nat) (s : State) : Out :=
  atUnit (decide (1 ≤ cause) && decide (cause ≤ 7) && decide (ukind ≤ 5)) (s.fatalError cause ukind unit)

/-- STEWARD_WATCHDOG_EXPIRY (R366 cause 5). -/
def execStewardWatchdogExpiry (core : Nat) (s : State) : Out := atUnit (decide (core < 4)) (s.fatalError 5 3 core)

/-- The header of the dump (R368). -/
def State.dumpHeader (s : State) (f : Fatal) (stopped : Bool) : List Byte :=
  [0x504D55444B564F00,
    f.cause * 2 ^ 56 + bit stopped * 2 ^ 48 + f.ukind * 2 ^ 45 + f.unit % 2 ^ 13 * 2 ^ 32 + f.second % 2 ^ 16 * 2 ^ 16 + 1,
    s.boot.boots.toNat, (s.boot.mr.getD 2 0).toNat % 2 ^ 64, s.generation.toNat, f.parts.toNat].flatMap (leBytes 8)

/-- DUMP_COMPLETE (R367 step 4): `STAGE` 15, `DONE`, or `PARTIAL` when a further error stopped the dump; then vector 0,
and vector 2 for `DSTATE` (R357). -/
def execDumpComplete (part : Bool) (s : State) : Out :=
  .next (match s.dump.fatal with
    | none => s
    | some f =>
      if s.boot.stage = 15 then s else
      let stopped := part && f.second != 0
      let held := s.dump.finished || s.dump.incomplete
      let area := if held then s.dump.area else writeArea s.dump.area [(0, s.dumpHeader f stopped)] (dumpBase s.dump.stack)
      { s with
        boot := { s.boot with stage := 15, ready := false }
        dump := { s.dump with
          finished := s.dump.finished || !stopped, incomplete := s.dump.incomplete || stopped, area := area }
        signals := s.signals ++ [.pf 0, .pf 2] })

/-- DUMP_RELEASE (R356, R369): a host write of 1 to bit 2 of `DUMPST`. -/
def execDumpRelease (v : Word) (s : State) : Out :=
  .next (if v.getLsbD 2 then { s with dump := { s.dump with finished := false, incomplete := false } } else s)

end Sys2Proof.Machine
end

