-- ==== Sys2Proof/Machine/VConfig.lean ====
section
/-! DEFINITION. Vector configuration: `vcfg`, `vlreq`, `vtagr`, `vdim`, `shp.ld` (R103-R108). -/

namespace Sys2Proof.Machine

/-- The hart with the descriptors of `n` registers from `b` up set, and their contents absent (R103). -/
def Hart.configure (h : Hart) (b n : Nat) (tag : Tag) (dom : BitVec 3) (grp : BitVec 2) : Hart :=
  (List.range n).foldl (fun h k => h.setV (b + k) ⟨0, ⟨tag, dom, grp, 0, true⟩, 0⟩) h

/-- `vcfg` (R103) -/
def execVcfg (vd : BitVec 6) (tag : Tag) (dom : BitVec 3) (grp : BitVec 2) (s : State) : Out :=
  let bits := (Instr.vcfg vd tag dom grp).bits.toNat
  let g := 2 ^ grp.toNat
  finish 4 (firstTrap [
      failIf (vd.toNat % g != 0) (trapILL bits),
      failIf (dom != 0 && (decide (tag = .none) || decide (tag = .hb))) (trapTAG bits)]) s
    (s.setCur (s.cur.configure vd.toNat g tag dom grp))

/-- `vlreq` (R104) -/
def execVlreq (rd ra : BitVec 5) (tag : Tag) (grp : BitVec 2) (tp mp : BitVec 1) (s : State) : Out :=
  let n := min (s.readX ra).toNat (vlmax tag grp.toNat)
  finish 4 (firstTrap [
      failIf (decide (tag = .none)) (trapTAG (Instr.vlreq rd ra tag grp tp mp).bits.toNat),
      s.cur.scalarPoison [ra]]) s
    (State.writeX (s.setCur { s.cur with
      csr := { s.cur.csr.setPolicy tp mp with vl := BitVec.ofNat 15 n } }) rd (BitVec.ofNat 64 n))

/-- `vtagr` (R106): the descriptor of one register, `DIRTY` in bit 0. -/
def execVtagr (rd : BitVec 5) (va : BitVec 6) (s : State) : Out :=
  let d := (s.cur.vreg va.toNat).desc
  finish 4 none s (s.writeX rd (BitVec.ofNat 64 (d.word + bit d.dirty)))

/-- `vdim` (R107) -/
def execVdim (dk : BitVec 3) (ra rb : BitVec 5) (s : State) : Out :=
  finish 4 (s.cur.scalarPoison [ra, rb]) s
    (s.setCur { s.cur with
      d := s.cur.d.setIfInBounds dk.toNat ⟨(s.readX rb).setWidth 32, (s.readX ra).setWidth 32⟩ })

/-- The shape entry that a 24-byte record gives (R108). -/
def shapeOfRecord (bs : List Byte) : List Extent :=
  let w (i : Nat) : Nat := leNat ((bs.drop (4 * i)).take 4)
  shapeOf (w 0 % 8) ((List.range 5).map fun i => w (i + 1))

/-- `shp.ld` (R108): a plain load of 24 bytes, aligned to 4. -/
def execShpLd (entry : BitVec 4) (ra : BitVec 5) (s : State) : Out :=
  let a := s.readX ra
  memFinish 4 (s.cur.scalarPoison [ra]) s
    (s.loadOne ⟨addrIdx a, .read, false, false, false⟩ .pl .hart ⟨0, [], (a.toNat % 2 ^ 40 : Nat), 24, 4⟩)
    fun bs s1 => s1.setCur { s1.cur with
      shapes := s1.cur.shapes.setIfInBounds entry.toNat (shapeOfRecord bs) }

end Sys2Proof.Machine
end

