-- ==== Sys2Proof/Machine/VMem.lean ====
section
/-! DEFINITION. Vector memory accesses: `vld`, `vst`, `vldc` (R109-R118), `vspill`, `vfill` (R119, R120), `vldx`, `vstx`,
`vamoadd` (R121-R123). -/

namespace Sys2Proof.Machine

/-! ## Units (R110, R111) -/

/-- The shape of a unit: elements, bytes, alignment. -/
structure UnitShape where
  q : Nat
  u : Nat
  align : Nat
  deriving DecidableEq, Repr

/-- The unit of a tag in modes 0 to 6; in mode 7 (`whole`), an element group (R110). -/
def unitShape (t : Tag) (whole : Bool) : UnitShape :=
  if whole then ⟨1, 128, 128⟩
  else if tagBlock t then ⟨32, packedSize (tagWidth t), 1⟩
  else if t = .hb then ⟨32, 4, 4⟩
  else ⟨1, tagWidth t / 8, tagWidth t / 8⟩

/-- The place of unit `k` by dimension registers (R111): its coordinates and its distance from the base; none where it
lacks a coordinate. -/
def stridedPlace (ds : List Dim) (n k : Nat) : Option (List Nat × Int) :=
  let l (i : Nat) : Nat := ((ds[i]?).getD .reset).len.toNat
  let st (i : Nat) : Int := ((ds[i]?).getD .reset).stride.toInt
  if n = 1 then (if l 0 ≤ k then none else some ([k], k * st 0))
  else if n = 2 then
    if l 0 = 0 || l 1 ≤ k / l 0 then none
    else some ([k % l 0, k / l 0], (k % l 0 : Nat) * st 0 + (k / l 0 : Nat) * st 1)
  else
    if l 0 = 0 || l 1 = 0 || l 2 ≤ k / (l 0 * l 1) then none
    else some ([k % l 0, k / l 0 % l 1, k / (l 0 * l 1)],
      (k % l 0 : Nat) * st 0 + (k / l 0 % l 1 : Nat) * st 1 + (k / (l 0 * l 1) : Nat) * st 2)

/-- The units of a VM access that have their coordinates (R111), from the base offset `b`. -/
def Hart.vmUnits (h : Hart) (mode b : Nat) (sh : UnitShape) (g : Nat) : List UnitAcc :=
  if mode = 7 then (List.range (16 * g)).map fun k => ⟨k, [k], (b + 128 * k : Nat), 128, 128⟩
  else if mode = 0 then
    (List.range (h.vl / sh.q)).map fun k => ⟨k, [k], (b + k * sh.u : Nat), sh.u, sh.align⟩
  else
    let ds := if mode ≤ 3 then h.d.toList else h.d.toList.drop 3
    (List.range (h.vl / sh.q)).filterMap fun k =>
      (stridedPlace ds ((mode - 1) % 3 + 1) k).map fun (cs, d) => ⟨k, cs, (b : Int) + d, sh.u, sh.align⟩

/-- The units whose first element a mask selects (R110). -/
def Hart.maskUnits (h : Hart) (sel : BitVec 2) (q : Nat) (us : List UnitAcc) : List UnitAcc :=
  let m := h.mask sel.toNat
  us.filter fun u => m.getLsbD (q * u.k)

/-- The checks of step 4 (R112): R19, of which mode 7 keeps the first two, then the multiple of `q`. -/
def Hart.vmCheck (h : Hart) (bits : Nat) (r : BitVec 6) (whole : Bool) : Option Trap :=
  let o := h.opnd r
  if whole then
    firstTrap [
      failIf (o.base % o.g != 0) (trapILL bits),
      failIf (!(List.range o.g).all fun k => o.agrees (h.vreg (o.base + k)).desc) (trapTAG bits)]
  else firstTrap [h.opndCheck bits r h.vl, failIf (h.vl % (unitShape o.tag false).q != 0) (trapILL bits)]

/-- The poisoned words below `VALEN` of a group (R322). -/
def Hart.wholePoison (h : Hart) (o : Opnd) : List PoisonHit :=
  if o.tag = .none || h.opndClean o then []
  else (List.range o.g).flatMap fun m =>
    let n := ((h.vreg (o.base + m)).desc.valen.toNat + unitLen o.tag - 1) / unitLen o.tag
    (List.range n).flatMap fun j => h.unitPoison o (m * unitsPer o.tag + j)

/-! ## Domain tags of granules (R115) -/

/-- The tag copy of the line of a piece; with `fresh` when the moved chunks that the read is ordered after have performed
(R231). -/
def State.pieceTag (s : State) (fresh : Bool) (p : Piece1) : Nat :=
  match p.loc with
  | .pkg pa => if fresh then s.lineTagAfter pa else s.lineTag pa
  | _ => 0

/-- The check of a load from an `ACT` buffer: one tag in every granule, and tag 0 for an `HB` register. -/
def loadTagCheck (idx : Nat) (hb fresh : Bool) (s : State) (done : List (List Piece1)) (u : UnitAcc) (ps : List Piece1) :
    Option Trap :=
  let first := ((done.getLast?.getD ps).head?.map (s.pieceTag fresh)).getD 0
  let ref := if hb then 0 else first
  (ps.find? fun p => s.pieceTag fresh p != ref).map fun p => unitTrap idx false u cDOM (p.off / 4096 * 4096 : Nat)

/-- Whether units write every byte of a granule. -/
def coversGranule (us : List UnitAcc) (g : Nat) : Bool :=
  let near := us.filter fun u =>
    decide (u.off < ((4096 * (g + 1) : Nat) : Int)) && decide (((4096 * g : Nat) : Int) < u.off + u.n)
  (List.range 4096).all fun j => near.any fun u =>
    decide (u.off ≤ ((4096 * g + j : Nat) : Int)) && decide (((4096 * g + j : Nat) : Int) < u.off + u.n)

/-- Whether the tag copy of the line of a piece is not `v`. -/
def State.tagDiffers (s : State) (v : Nat) (p : Piece1) : Bool :=
  match p.loc with
  | .pkg pa => s.lineTag pa != v
  | _ => false

/-- The check of a store of domain `v` to an `ACT` buffer: no granule changes its tag unless it is written whole. -/
def storeTagCheck (idx v : Nat) (us : List UnitAcc) (s : State) (_done : List (List Piece1)) (u : UnitAcc)
    (ps : List Piece1) : Option Trap :=
  (ps.find? fun p => s.tagDiffers v p && !coversGranule us (p.off / 4096)).map fun p =>
    unitTrap idx true u cDOM (p.off / 4096 * 4096 : Nat)

/-- The line tag copies that a store of domain `v` leaves in the lines of its pieces (R151). -/
def lineTags (v : Nat) (ps : List Piece1) : List (Nat × Nat) :=
  ps.filterMap fun p => match p.loc with
    | .pkg pa => some (pa, v)
    | _ => none

/-- The rule on `VL` for a Haar register (R115, R156); `load` tells which field records the domain. -/
def Hart.haarLenTrap (h : Hart) (load : Bool) (l : Nat) : Option Trap :=
  failIf (l != 0 && h.vl % (32 * 2 ^ l) != 0)
    (if load then trapDOM h 1 l l 0 0 else trapDOM h 1 l 0 0 l)

/-! ## Loads (R113) -/

/-- Bytes cut into the units that they belong to. -/
def cutUnits : List UnitAcc → List Byte → List (Nat × List Byte)
  | [], _ => []
  | u :: us, bs => (u.k, bs.take u.n) :: cutUnits us (bs.drop u.n)

/-- Values by index spread over `n` places from place `k` up. -/
def spread {α : Type} : Nat → Nat → List (Nat × α) → List (Option α)
  | _, 0, _ => []
  | k, n + 1, [] => none :: spread (k + 1) n []
  | k, n + 1, (j, v) :: t => if j = k then some v :: spread (k + 1) n t else none :: spread (k + 1) n ((j, v) :: t)

/-- The bytes of the active units of a load, with the tag that an `ACT` buffer gives the register; `late` is the check
that follows those of the units. An access with no active unit touches nothing. With `fresh` the read is ordered after the
writes of the moved chunks that it reads (R231). -/
def State.vmRead (s : State) (p : AccSpec) (hb fresh : Bool) (o : Ord) (sc : Scope) (us : List UnitAcc)
    (late : Option Nat → Option Trap) : MemRes (Option Nat × List (Nat × List Byte)) :=
  if us.isEmpty then
    match late none with
    | some t => .trap t s
    | none => .ok (none, []) s
  else
    let (sp, s1) := s.space p.idx
    let act := sp.act?.isSome
    (s1.reachUnits p sp (if act then loadTagCheck p.idx hb fresh else noMore) [] [] us).bind fun pss s2 =>
      let tag := if act then (pss.flatten.head?).map (s2.pieceTag fresh) else none
      match late tag with
      | some t => .trap t s2
      | none =>
        let s3 := s2.orderBefore o sc pss.flatten
        ((if fresh then s3.landPieces pss.flatten else s3).readPieces p.idx 1 pss.flatten).bind fun bs s4 =>
          .ok (tag, cutUnits us bs) (s4.count p.idx pss.flatten [])

/-- What a loaded unit puts into its units of the register: an element, 32 `HB` elements, or a block (R113). -/
def loadedUnits (t : Tag) : Option (List Byte) → List (Option (Nat × Bool))
  | none => if t = .hb then List.replicate 32 none else [none]
  | some bs =>
    let n := leNat bs
    if t = .hb then (List.range 32).map fun j => some (bitsAt n j 1, false)
    else if tagBlock t then [some (unpackBlock (tagWidth t) n, false)]
    else [some (n, false)]

/-- The register image without padding words (R20). -/
def trimPadding (t : Tag) (n : Nat) : Nat := if tagBlock t then n % 2 ^ (unitsPer t * unitBits t) else n

/-- The members of a group written whole by a mode 7 load (R113); a `NONE` group takes nothing. -/
def Hart.loadWhole (h : Hart) (o : Opnd) (dom : Nat) (bs : List Byte) : Hart :=
  if o.tag = .none then h
  else (List.range o.g).foldl (fun h k =>
    h.setV (o.base + k) ⟨BitVec.ofNat 16384 (trimPadding o.tag (leNat ((bs.drop (2048 * k)).take 2048))),
      ⟨o.tag, BitVec.ofNat 3 dom, BitVec.ofNat 2 o.grp, BitVec.ofNat 15 (tagCap o.tag), true⟩, 0⟩) h

/-- The result of a load written into its group (R105, R113). -/
def Hart.loadInto (h : Hart) (o : Opnd) (vd : BitVec 6) (whole : Bool) (q : Nat)
    (r : Option Nat × List (Nat × List Byte)) : Hart :=
  let dom := if o.tag = .none || o.tag = .hb then o.dom else r.1.getD o.dom
  if whole then h.loadWhole o dom (r.2.flatMap Prod.snd)
  else h.writeGroup vd o.tag dom o.grp h.vl ((spread 0 (h.vl / q) r.2).flatMap (loadedUnits o.tag))

/-- A VM load of the units `us` whose checks up to memory answer `chk`. -/
def vmLoad (fresh : Bool) (chk : Option Trap) (vd : BitVec 6) (xb : BitVec 5) (mode : Nat) (o : Ord) (sc : Scope) (us : List UnitAcc)
    (s : State) : Out :=
  let d := s.cur.opnd vd
  let whole := mode == 7
  let plain := decide (d.tag = .none) || decide (d.tag = .hb)
  let late (tag : Option Nat) : Option Trap :=
    if whole || plain then none else s.cur.haarLenTrap true (tag.getD d.dom)
  memFinish 4 chk s
    (s.vmRead ⟨addrIdx (s.readX xb), .read, false, false, false⟩ (decide (d.tag = .hb)) fresh o sc us late)
    fun r s1 => s1.setCur (s1.cur.loadInto d vd whole (unitShape d.tag whole).q r)

/-- The units of a VM instruction that have coordinates. -/
def State.vmPlaces (s : State) (r : BitVec 6) (xb : BitVec 5) (mode : Nat) : List UnitAcc :=
  let d := s.cur.opnd r
  s.cur.vmUnits mode ((s.readX xb).toNat % 2 ^ 40) (unitShape d.tag (mode == 7)) d.g

/-- `vld` (R109-R117) -/
def execVld (vd : BitVec 6) (xb : BitVec 5) (mode : BitVec 3) (mask : BitVec 2) (ord : Ord) (scope : Scope)
    (evict : BitVec 3) (s : State) : Out :=
  let h := s.cur
  let m := mode.toNat
  let us := s.vmPlaces vd xb m
  let chk := firstTrap [
    h.vmCheck (Instr.vld vd xb mode mask ord scope evict).bits.toNat vd (m == 7),
    h.scalarPoison [xb],
    if m = 7 then none else poisonTrap (h.selPoison mask h.vl)]
  vmLoad false chk vd xb m ord scope (if m = 7 then us else h.maskUnits mask (unitShape (h.opnd vd).tag false).q us) s

/-- The units that the newest transfer of a completion mask has brought (R118). -/
def Hart.arrivedUnits (h : Hart) (cm : BitVec 2) (idx : Nat) (us : List UnitAcc) : List UnitAcc :=
  let snap := (h.m.getD (cm.toNat + 4) .reset).bits
  match h.binds.getD cm.toNat none with
  | none => []
  | some b =>
    let d : Int := (b.dst.toNat % 2 ^ 40 : Nat)
    if addrIdx b.dst ≠ idx then []
    else us.filter fun u =>
      decide (d ≤ u.off) && decide (u.off + u.n ≤ d + b.n.toNat) &&
        (let c0 := (u.off - d).toNat / b.chunk
         let c1 := ((u.off - d).toNat + u.n - 1) / b.chunk
         (List.range (c1 + 1 - c0)).all fun j => snap.getLsbD (c0 + j))

/-- The chunks of the transfer bound to a completion mask. -/
def Hart.boundChunks (h : Hart) (cm : BitVec 2) : Nat :=
  match h.binds.getD cm.toNat none with
  | none => 0
  | some b => (b.n.toNat + b.chunk - 1) / b.chunk

/-- `vldc` (R118) -/
def execVldc (vd : BitVec 6) (xb : BitVec 5) (mode : BitVec 3) (cm : BitVec 2) (ord : Ord) (scope : Scope)
    (evict : BitVec 3) (s : State) : Out :=
  let h := s.cur
  let chk := firstTrap [
    h.vmCheck (Instr.vldc vd xb mode cm ord scope evict).bits.toNat vd false,
    h.scalarPoison [xb],
    poisonTrap (h.maskPoison (cm.toNat + 4) (min 16384 (h.boundChunks cm))),
    h.maskFault (cm.toNat + 4)]
  vmLoad true chk vd xb mode.toNat ord scope
    (h.arrivedUnits cm (addrIdx (s.readX xb)) (s.vmPlaces vd xb mode.toNat)) s

/-! ## Stores (R114) -/

/-- The bytes of a unit of a register operand (R114). -/
def Hart.unitBytes (h : Hart) (o : Opnd) (whole : Bool) (k : Nat) : List Byte :=
  if whole then leBytes 128 ((h.vreg (o.base + k / 16)).image / 2 ^ (1024 * (k % 16)))
  else if tagBlock o.tag then leBytes (packedSize (tagWidth o.tag)) (packBlock (tagWidth o.tag) (h.unit o k))
  else if o.tag = .hb then
    leBytes 4 ((List.range 32).foldl (fun n j => n + h.unit o (32 * k + j) * 2 ^ j) 0)
  else leBytes (tagWidth o.tag / 8) (h.unit o k)

/-- The byte that the last of several writes leaves at an offset. -/
def lastByte (ws : List (Int × List Byte)) (o : Nat) : Byte :=
  ((ws.reverse.find? fun w => decide (w.1 ≤ (o : Int)) && decide ((o : Int) < w.1 + w.2.length)).map fun w =>
    w.2.getD (o - w.1.toNat) 0).getD 0

/-- The writes on other devices of pieces to which the writes `ws` bring bytes. -/
def writeReqs (ws : List (Int × List Byte)) (ps : List Piece1) : List RemoteReq :=
  deviceReqs 2 ps fun x => reqPayload x.n ((List.range x.n).map fun i => lastByte ws (x.off + i))

/-- Units written with their bytes, in order, in the space `sp` (R114); `tag` is what an `ACT` buffer's granules take,
when they do, and the bytes then go home together with it (R151, R226); `late` is the check that follows those of the
units. -/
def State.vmWriteIn (s : State) (sp : Space) (p : AccSpec) (tag : Option Nat) (o : Ord) (sc : Scope) (evict : BitVec 3)
    (us : List UnitAcc) (data : UnitAcc → List Byte) (late : Option Trap) : MemRes Unit :=
  let more := match tag, sp.act? with
    | some v, some _ => storeTagCheck p.idx v us
    | _, _ => noMore
  (s.reachUnits p sp more [] [] us).bind fun pss s2 =>
    match late with
    | some t => .trap t s2
    | none =>
      let ps := pss.flatten
      let ws := us.map fun u => (u.off, data u)
      ((s2.orderBefore o sc ps).admitDevices 0 p.idx 2 ps).bind fun _ s3 =>
        let s4 := s3.storePieces (storesHome evict o sc ps || tag.isSome && sp.act?.isSome) evict ps (ws.flatMap Prod.snd)
        let s5 := match tag, sp.act? with
          | some v, some _ => s4.setTags (lineTags v ps)
          | _, _ => s4
        let s6 := s5.postDevices (writeReqs ws ps)
        .ok () (s6.count p.idx ps ps)

/-- Units written with their bytes, in order (R114): none of them touches nothing. -/
def State.vmWrite (s : State) (p : AccSpec) (tag : Option Nat) (o : Ord) (sc : Scope) (evict : BitVec 3)
    (us : List UnitAcc) (data : UnitAcc → List Byte) (late : Option Trap) : MemRes Unit :=
  if us.isEmpty then
    match late with
    | some t => .trap t s
    | none => .ok () s
  else
    let (sp, s1) := s.space p.idx
    s1.vmWriteIn sp p tag o sc evict us data late

/-- `vst` (R109-R117) -/
def execVst (vs : BitVec 6) (xb : BitVec 5) (mode : BitVec 3) (mask : BitVec 2) (ord : Ord) (scope : Scope)
    (evict : BitVec 3) (s : State) : Out :=
  let h := s.cur
  let o := h.opnd vs
  let whole := mode == 7
  let all := s.vmPlaces vs xb mode.toNat
  let q := (unitShape o.tag whole).q
  let us := if whole then all else h.maskUnits mask q all
  let chk := firstTrap [
    h.vmCheck (Instr.vst vs xb mode mask ord scope evict).bits.toNat vs whole,
    h.scalarPoison [xb],
    poisonTrap (if whole then h.wholePoison o
      else h.selPoison mask h.vl ++ h.readPoison o
        (spread 0 (h.vl / q) (us.map fun u => (u.k, ())) |>.flatMap fun x => List.replicate q x.isSome))]
  memFinish 4 chk s
    (s.vmWrite ⟨addrIdx (s.readX xb), .write, false, false, false⟩ (some o.dom) ord scope evict us
      (fun u => h.unitBytes o whole u.k) (if whole then none else h.haarLenTrap false o.dom))
    fun _ s1 => s1

/-! ## Spill and refill (R119, R120) -/

/-- The place of a spill record: the address, and the unit to check. -/
def State.spillUnit (s : State) (xb : BitVec 5) (imm : BitVec 12) : UnitAcc :=
  ⟨0, [], ((s.readX xb).toNat % 2 ^ 40 + imm.toNat * 128 : Nat), 2176, 128⟩

/-- The checks before memory: the scratchpad's buffer index (R119). -/
def State.spillCheck (s : State) (xb : BitVec 5) (imm : BitVec 12) (wr : Bool) : Option Trap :=
  let a := s.readX xb
  firstTrap [
    s.cur.scalarPoison [xb],
    failIf (addrIdx a != 0xFFFFFF) (unitTrap (addrIdx a) wr (s.spillUnit xb imm) cCLASS (s.spillUnit xb imm).off)]

/-- The spill record of a register (R119). -/
def VReg.record (r : VReg) : List Byte := leBytes 2048 r.image ++ leBytes 4 r.desc.word ++ List.replicate 124 0

/-- `vspill` (R119): the poison of the register's words is looked at after `CLASS` and before `ALIGN` and `BOUND` (R59, R322;
DESIGN CHOICE, log entry 98). -/
def execVspill (vd : BitVec 6) (xb : BitVec 5) (imm : BitVec 12) (s : State) : Out :=
  let r := s.cur.vreg vd.toNat
  memFinish 4 (firstTrap [s.spillCheck xb imm true, poisonTrap (s.cur.wholePoison ⟨vd.toNat, r.desc.tag, 0, 0⟩)]) s
    (s.storeOne ⟨0xFFFFFF, .write, false, true, false⟩ .pl .hart 0 (s.spillUnit xb imm) r.record)
    fun _ s1 => s1

/-- The register of a spill record (R119). -/
def VReg.ofRecord (bs : List Byte) : VReg :=
  let d := Desc.ofWord (leNat ((bs.drop 2048).take 4)) true
  ⟨if d.tag = .none then 0 else BitVec.ofNat 16384 (trimPadding d.tag (leNat (bs.take 2048))), d, 0⟩

/-- `vfill` (R119) -/
def execVfill (vd : BitVec 6) (xb : BitVec 5) (imm : BitVec 12) (s : State) : Out :=
  let u := s.spillUnit xb imm
  memFinish 4 (s.spillCheck xb imm false) s
    ((s.loadOne ⟨0xFFFFFF, .read, false, true, false⟩ .pl .hart u).bind fun bs s1 =>
      if descOk (leNat ((bs.drop 2048).take 4) % 2 ^ 27) then .ok bs s1
      else .trap (unitTrap 0xFFFFFF false u cTAG (u.off + 2048)) s1)
    fun bs s1 => s1.setCur (s1.cur.setV vd.toNat (.ofRecord bs))

/-! ## Indexed accesses (R121-R123) -/

/-- Whether a tag may be the data of an indexed access (R121). -/
def indexedTag (amo : Bool) (t : Tag) : Bool :=
  match t with
  | .s32 | .u32 | .s64 | .u64 | .f32 => true
  | _ => !amo && (decide (tagFamily t = .int) || decide (tagFamily t = .float))

/-- The checks of an indexed access up to memory; `data` says that the data operand is read. -/
def Hart.indexedCheck (h : Hart) (bits : Nat) (v vi : BitVec 6) (xb : BitVec 5) (mask : BitVec 2) (data amo : Bool) :
    Option Trap :=
  let o := h.opnd v
  let i := h.opnd vi
  let act := h.active mask h.vl
  firstTrap [
    h.opndCheck bits v h.vl,
    h.opndCheck bits vi h.vl,
    failIf (!indexedTag amo o.tag || tagFamily i.tag != .int) (trapTAG bits),
    failIf (o.dom != 0 || i.dom != 0) (if data then trapDOM h 5 0 0 0 o.dom else trapDOM h 5 0 o.dom 0 0),
    h.scalarPoison [xb],
    poisonTrap (h.selPoison mask h.vl ++ h.readPoison i act ++ if data then h.readPoison o act else [])]

/-- The accesses of the active elements (R122). -/
def State.indexedUnits (s : State) (v vi : BitVec 6) (xb : BitVec 5) (scale mask : BitVec 2) : List UnitAcc :=
  let h := s.cur
  let n := tagWidth (h.opnd v).tag / 8
  let i := h.opnd vi
  let m := h.mask mask.toNat
  ((List.range h.vl).filter m.getLsbD).map fun k =>
    ⟨k, [k], ((s.readX xb).toNat % 2 ^ 40 : Nat) + intOf i.tag (h.unit i k) * 2 ^ scale.toNat, n, n⟩

/-- Units read without regard to domain tags (R88, R122, R179): the bytes of each. -/
def State.plainRead (s : State) (p : AccSpec) (o : Ord) (sc : Scope) (us : List UnitAcc) :
    MemRes (List (Nat × List Byte)) :=
  if us.isEmpty then .ok [] s
  else
    let (sp, s1) := s.space p.idx
    (s1.reachUnits p sp noMore [] [] us).bind fun pss s2 =>
      ((s2.orderBefore o sc pss.flatten).readPieces p.idx 1 pss.flatten).bind fun bs s3 =>
        .ok (cutUnits us bs) (s3.count p.idx pss.flatten [])

/-- `vldx` (R121, R122) -/
def execVldx (vd vi : BitVec 6) (xb : BitVec 5) (scale mask : BitVec 2) (ord : Ord) (scope : Scope) (evict : BitVec 3)
    (s : State) : Out :=
  let h := s.cur
  let o := h.opnd vd
  let us := s.indexedUnits vd vi xb scale mask
  memFinish 8 (h.indexedCheck (Instr.vldx vd vi xb scale mask ord scope evict).bits.toNat vd vi xb mask false false) s
    (s.plainRead ⟨addrIdx (s.readX xb), .read, false, false, true⟩ ord scope us)
    fun r s1 => s1.setCur (s1.cur.writeGroup vd o.tag 0 o.grp h.vl
      ((spread 0 h.vl r).flatMap (loadedUnits o.tag)))

/-- `vstx` (R121, R122): granule tags are kept. -/
def execVstx (vs vi : BitVec 6) (xb : BitVec 5) (scale mask : BitVec 2) (ord : Ord) (scope : Scope) (evict : BitVec 3)
    (s : State) : Out :=
  let h := s.cur
  let o := h.opnd vs
  memFinish 8 (h.indexedCheck (Instr.vstx vs vi xb scale mask ord scope evict).bits.toNat vs vi xb mask true false) s
    (s.vmWrite ⟨addrIdx (s.readX xb), .write, false, false, true⟩ none ord scope evict
      (s.indexedUnits vs vi xb scale mask) (fun u => h.unitBytes o false u.k) none)
    fun _ s1 => s1

/-- The sum that `vamoadd` writes (R122): modulo `2^w`, or an `F32` rounded once. -/
def addedValue (t : Tag) (md : FpMode) (old x : Nat) : Nat × Flags :=
  if t = .f32 then
    let (e, f) := laneElem .add .f32 md (.raw old) (.raw x) (.raw 0)
    (e.bits, f)
  else ((old + x) % 2 ^ tagWidth t, 0)

/-- The atomic steps of the elements on this device (R123), with the flags of the additions. -/
def State.addElems (s : State) (t : Tag) (md : FpMode) : List (List Piece1 × Nat) → Flags → Flags × State
  | [], f => (f, s)
  | (ps, x) :: rest, f =>
    let old := leNat (s.piecesBytes 0 ps)
    let (new, g) := addedValue t md old x
    (s.writePieces true ps (leBytes (tagWidth t / 8) new)).addElems t md rest (f ||| g)

/-- Whether a piece lies on another device. -/
def Piece1.isDevice (p : Piece1) : Bool :=
  match p.loc with
  | .device _ _ => true
  | _ => false

/-- The requests of elements on other devices: function 0 adds integers of the access's width, 13 adds `F32` values under the
rounding byte that follows, whose flags come with the acknowledgement (R333; DESIGN CHOICE, log entry 25). -/
def addReqs (t : Tag) (fcsr : Word) (es : List (List Piece1 × Nat)) : List RemoteReq :=
  es.flatMap fun (ps, x) =>
    deviceReqs 4 ps fun p => reqPayload p.n (atomicData (if t = .f32 then 13 else 0) (BitVec.ofNat 64 x) fcsr)

/-- `vamoadd` (R121-R123): for `F32` the order of the additions is a free choice, and so is the order in which those on
another device are asked for (DESIGN CHOICE, log entry 14). -/
def execVamoadd (vs vi : BitVec 6) (xb : BitVec 5) (scale mask : BitVec 2) (ord : Ord) (scope : Scope)
    (evict : BitVec 3) (s : State) : Out :=
  let h := s.cur
  let o := h.opnd vs
  let idx := addrIdx (s.readX xb)
  let us := s.indexedUnits vs vi xb scale mask
  memFinish 8 (h.indexedCheck (Instr.vamoadd vs vi xb scale mask ord scope evict).bits.toNat vs vi xb mask true true) s
    (if us.isEmpty then .ok (0 : Flags) s
    else
      let (sp, s1) := s.space idx
      (s1.reachUnits ⟨idx, .atomic, false, false, true⟩ sp noMore [] [] us).bind fun pss s2 =>
        let es := (us.zip pss).map fun (u, ps) => (ps, h.unit o u.k)
        let all := pss.flatten
        ((s2.orderBefore ord scope all).flushPieces all |>.admitDevices 0 idx 4 all).bind fun _ s3 =>
          match s3.piecesPoison all with
          | some pa => .kill (memTrap 3 pa) s3
          | none =>
            let (es, s4) := if o.tag = .f32 then let (n, s4) := s3.draw; (arrange es.length n es, s4) else (es, s3)
            let (f, s5) := s4.addElems o.tag h.fpMode (es.filter fun e => !e.1.any Piece1.isDevice) 0
            let s6 := s5.postDevices (addReqs o.tag (h.csr.fcsr.setWidth 64) es)
            .ok f (s6.count idx all all))
    fun f s1 => s1.setCur (s1.cur.addFlags f)

end Sys2Proof.Machine
end

