-- ==== Sys2Proof/Machine/VArith.lean ====
section
/-! DEFINITION. Elementwise vector arithmetic (majors 0x20 to 0x22): R128-R137. Each instruction is one `LaneSpec` with
an element function. -/

namespace Sys2Proof.Machine

/-- Integer, float and block operands. -/
def famIFQ : List Family := [.int, .float, .block]

/-- A compare with a mask result (R134): `m0` as the destination traps `ILL` (R131); a completion mask reports its
pending copy fault (R217). -/
def cmpExec (bits : Nat) (p : LaneSpec) (op : LaneCmp) (md : BitVec 3) (s : State) : Out :=
  finish 4 (firstTrap [failIf (md == 0) (trapILL bits), p.check bits false s.cur, s.cur.maskFault md.toNat]) s
    (s.setCur (p.runMask op md s.cur))

/-! ## Elementwise arithmetic (R128-R130) -/

/-- `vadd` (R128) -/
def execVadd (vd va vb : BitVec 6) (mask : BitVec 2) (s : State) : Out :=
  laneExec (Instr.vadd vd va vb mask).bits.toNat 4 ⟨famIFQ, true, va, .vec vb, false, vd, mask⟩ .add s

/-- `vsub` (R128) -/
def execVsub (vd va vb : BitVec 6) (mask : BitVec 2) (s : State) : Out :=
  laneExec (Instr.vsub vd va vb mask).bits.toNat 4 ⟨famIFQ, true, va, .vec vb, false, vd, mask⟩ .sub s

/-- `vmul` (R128) -/
def execVmul (vd va vb : BitVec 6) (mask : BitVec 2) (s : State) : Out :=
  laneExec (Instr.vmul vd va vb mask).bits.toNat 4 ⟨famIFQ, false, va, .vec vb, false, vd, mask⟩ .mul s

/-- `vmin` (R128, R130) -/
def execVmin (vd va vb : BitVec 6) (mask : BitVec 2) (s : State) : Out :=
  laneExec (Instr.vmin vd va vb mask).bits.toNat 4 ⟨famIFQ, false, va, .vec vb, false, vd, mask⟩ .min s

/-- `vmax` (R128, R130) -/
def execVmax (vd va vb : BitVec 6) (mask : BitVec 2) (s : State) : Out :=
  laneExec (Instr.vmax vd va vb mask).bits.toNat 4 ⟨famIFQ, false, va, .vec vb, false, vd, mask⟩ .max s

/-- `vabs` (R128) -/
def execVabs (vd va : BitVec 6) (mask : BitVec 2) (s : State) : Out :=
  laneExec (Instr.vabs vd va mask).bits.toNat 4 ⟨famIFQ, false, va, .none, false, vd, mask⟩ .abs s

/-- `vneg` (R128) -/
def execVneg (vd va : BitVec 6) (mask : BitVec 2) (s : State) : Out :=
  laneExec (Instr.vneg vd va mask).bits.toNat 4 ⟨famIFQ, true, va, .none, false, vd, mask⟩ .neg s

/-- `vfma` (R128) -/
def execVfma (vd va vb : BitVec 6) (mask : BitVec 2) (s : State) : Out :=
  laneExec (Instr.vfma vd va vb mask).bits.toNat 4 ⟨famIFQ, false, va, .vec vb, true, vd, mask⟩ .fma s

/-- `vfms` (R128) -/
def execVfms (vd va vb : BitVec 6) (mask : BitVec 2) (s : State) : Out :=
  laneExec (Instr.vfms vd va vb mask).bits.toNat 4 ⟨famIFQ, false, va, .vec vb, true, vd, mask⟩ .fms s

/-- `vfnma` (R128) -/
def execVfnma (vd va vb : BitVec 6) (mask : BitVec 2) (s : State) : Out :=
  laneExec (Instr.vfnma vd va vb mask).bits.toNat 4 ⟨famIFQ, false, va, .vec vb, true, vd, mask⟩ .fnma s

/-- `vdiv` (R128) -/
def execVdiv (vd va vb : BitVec 6) (mask : BitVec 2) (s : State) : Out :=
  laneExec (Instr.vdiv vd va vb mask).bits.toNat 4 ⟨[.int, .float], false, va, .vec vb, false, vd, mask⟩ .div s

/-- `vsqrt` (R128) -/
def execVsqrt (vd va : BitVec 6) (mask : BitVec 2) (s : State) : Out :=
  laneExec (Instr.vsqrt vd va mask).bits.toNat 4 ⟨[.float], false, va, .none, false, vd, mask⟩ .sqrt s

/-- `vand` (R128) -/
def execVand (vd va vb : BitVec 6) (mask : BitVec 2) (s : State) : Out :=
  laneExec (Instr.vand vd va vb mask).bits.toNat 4 ⟨[.int, .hb], false, va, .vec vb, false, vd, mask⟩ .and s

/-- `vor` (R128) -/
def execVor (vd va vb : BitVec 6) (mask : BitVec 2) (s : State) : Out :=
  laneExec (Instr.vor vd va vb mask).bits.toNat 4 ⟨[.int, .hb], false, va, .vec vb, false, vd, mask⟩ .or s

/-- `vxor` (R128) -/
def execVxor (vd va vb : BitVec 6) (mask : BitVec 2) (s : State) : Out :=
  laneExec (Instr.vxor vd va vb mask).bits.toNat 4 ⟨[.int, .hb], false, va, .vec vb, false, vd, mask⟩ .xor s

/-- `vnot` (R128) -/
def execVnot (vd va : BitVec 6) (mask : BitVec 2) (s : State) : Out :=
  laneExec (Instr.vnot vd va mask).bits.toNat 4 ⟨[.int, .hb], false, va, .none, false, vd, mask⟩ .not s

/-! ## Shifts, row forms, refinement, compares (R131-R134) -/

/-- `vsll` (R131) -/
def execVsll (vd va vb : BitVec 6) (mask : BitVec 2) (s : State) : Out :=
  laneExec (Instr.vsll vd va vb mask).bits.toNat 4 ⟨[.int], false, va, .amount vb, false, vd, mask⟩ .sll s

/-- `vsrl` (R131) -/
def execVsrl (vd va vb : BitVec 6) (mask : BitVec 2) (s : State) : Out :=
  laneExec (Instr.vsrl vd va vb mask).bits.toNat 4 ⟨[.int], false, va, .amount vb, false, vd, mask⟩ .srl s

/-- `vsra` (R131) -/
def execVsra (vd va vb : BitVec 6) (mask : BitVec 2) (s : State) : Out :=
  laneExec (Instr.vsra vd va vb mask).bits.toNat 4 ⟨[.int], false, va, .amount vb, false, vd, mask⟩ .sra s

/-- `vmulh` (R131) -/
def execVmulh (vd va vb : BitVec 6) (mask : BitVec 2) (s : State) : Out :=
  laneExec (Instr.vmulh vd va vb mask).bits.toNat 4 ⟨[.int], false, va, .vec vb, false, vd, mask⟩ .mulh s

/-- `vmulr` (R131, R132) -/
def execVmulr (vd va vb : BitVec 6) (mask : BitVec 2) (s : State) : Out :=
  laneExec (Instr.vmulr vd va vb mask).bits.toNat 4 ⟨famIFQ, true, va, .row vb false, false, vd, mask⟩ .mul s

/-- `vaddr` (R131, R132): the row is added to approximation rows; detail rows are copied. A detail row of a block type
is written as every block result is, quantised from its values (R127; DEDUCED, log entry 81). -/
def execVaddr (vd va vb : BitVec 6) (mask : BitVec 2) (s : State) : Out :=
  let p : LaneSpec := ⟨famIFQ, true, va, .row vb true, false, vd, mask⟩
  finish 4 (p.check (Instr.vaddr vd va vb mask).bits.toNat true s.cur) s
    (s.setCur (p.run (fun i t md a b c => if p.takes s.cur i then laneElem .add t md a b c else (a, 0)) s.cur))

/-- `vrcps` (R133) -/
def execVrcps (vd va vb : BitVec 6) (mask : BitVec 2) (s : State) : Out :=
  laneExec (Instr.vrcps vd va vb mask).bits.toNat 4 ⟨[.float], false, va, .vec vb, false, vd, mask⟩ .rcps s

/-- `vrsqs` (R133) -/
def execVrsqs (vd va vb : BitVec 6) (mask : BitVec 2) (s : State) : Out :=
  laneExec (Instr.vrsqs vd va vb mask).bits.toNat 4 ⟨[.float], false, va, .vec vb, false, vd, mask⟩ .rsqs s

/-- `vcmp.eq` (R131, R134) -/
def execVcmpEq (md : BitVec 3) (va vb : BitVec 6) (mask : BitVec 2) (s : State) : Out :=
  cmpExec (Instr.vcmpEq md va vb mask).bits.toNat ⟨famIFQ, false, va, .vec vb, false, 0, mask⟩ .eq md s

/-- `vcmp.lt` (R131, R134) -/
def execVcmpLt (md : BitVec 3) (va vb : BitVec 6) (mask : BitVec 2) (s : State) : Out :=
  cmpExec (Instr.vcmpLt md va vb mask).bits.toNat ⟨famIFQ, false, va, .vec vb, false, 0, mask⟩ .lt md s

/-- `vcmp.le` (R131, R134) -/
def execVcmpLe (md : BitVec 3) (va vb : BitVec 6) (mask : BitVec 2) (s : State) : Out :=
  cmpExec (Instr.vcmpLe md va vb mask).bits.toNat ⟨famIFQ, false, va, .vec vb, false, 0, mask⟩ .le md s

/-! ## Conversions (R135) -/

/-- The checks of a conversion of `va` to `tag`; `ok` says that the entry admits the two tags. -/
def Hart.convertCheck (h : Hart) (bits : Nat) (vd va : BitVec 6) (tag : Tag) (mask : BitVec 2) (ok : Tag → Tag → Bool) :
    Option Trap :=
  let o := h.opnd va
  let d : Doms := { va := some o.dom, vb := none, vd := none }
  firstTrap [
    h.opndCheck bits va h.vl,
    failIf (decide (tag = .none) || !ok o.tag tag) (trapTAG bits),
    destCheck bits vd tag h.vl,
    failIf (decide (tag = .hb) && o.dom != 0) (d.trap h 3 0),
    d.keepCheck h,
    poisonTrap (h.selPoison mask h.vl ++ h.readPoison o (h.active mask h.vl))]

/-- One element converted by a conversion instruction (R38, R39, R48): a float is rounded to its own type too, which
flushes a subnormal under `FTZ` and makes every NaN the canonical one. -/
def castElem (a b : Tag) (md : FpMode) (x : Elem) : Elem × Flags :=
  if a = b && tagFamily a = .float then storeVal b md (x.val a md.ftz) else convertElem a b md x

/-- The conversion of the active elements (R48, R135). -/
def Hart.convertRun (h : Hart) (vd va : BitVec 6) (tag : Tag) (mask : BitVec 2) : Hart :=
  let o := h.opnd va
  let (res, f) := laneMap (fun _ a _ _ => castElem o.tag tag h.fpMode a) 0 (h.active mask h.vl) (h.elems o h.vl) [] []
  (h.writeResult vd tag o.dom h.vl res).addFlags f

/-- A conversion. -/
def convertExec (bits : Nat) (vd va : BitVec 6) (tag : Tag) (mask : BitVec 2) (ok : Tag → Tag → Bool) (s : State) : Out :=
  finish 4 (s.cur.convertCheck bits vd va tag mask ok) s (s.setCur (s.cur.convertRun vd va tag mask))

/-- `vcvt` (R131, R135) -/
def execVcvt (vd va : BitVec 6) (tag : Tag) (mask : BitVec 2) (s : State) : Out :=
  convertExec (Instr.vcvt vd va tag mask).bits.toNat vd va tag mask (fun _ _ => true) s

/-- `vwiden` (R131, R135) -/
def execVwiden (vd va : BitVec 6) (tag : Tag) (mask : BitVec 2) (s : State) : Out :=
  convertExec (Instr.vwiden vd va tag mask).bits.toNat vd va tag mask (fun a b => tagWidth b == 2 * tagWidth a) s

/-- `vnarrow` (R131, R135) -/
def execVnarrow (vd va : BitVec 6) (tag : Tag) (mask : BitVec 2) (s : State) : Out :=
  convertExec (Instr.vnarrow vd va tag mask).bits.toNat vd va tag mask (fun a b => 2 * tagWidth b == tagWidth a) s

/-! ## Scalar-operand forms (R136) -/

/-- `vadd.x` (R136) -/
def execVaddX (vd va : BitVec 6) (xb : BitVec 5) (mask : BitVec 2) (s : State) : Out :=
  laneExec (Instr.vaddX vd va xb mask).bits.toNat 4 ⟨famIFQ, false, va, .scalar xb false, false, vd, mask⟩ .add s

/-- `vsub.x` (R136) -/
def execVsubX (vd va : BitVec 6) (xb : BitVec 5) (mask : BitVec 2) (s : State) : Out :=
  laneExec (Instr.vsubX vd va xb mask).bits.toNat 4 ⟨famIFQ, false, va, .scalar xb false, false, vd, mask⟩ .sub s

/-- `vsub.x` with the scalar first (R136) -/
def execVsubXRev (vd va : BitVec 6) (xb : BitVec 5) (mask : BitVec 2) (s : State) : Out :=
  laneExec (Instr.vsubXRev vd va xb mask).bits.toNat 4 ⟨famIFQ, false, va, .scalar xb true, false, vd, mask⟩ .sub s

/-- `vmul.x` (R136) -/
def execVmulX (vd va : BitVec 6) (xb : BitVec 5) (mask : BitVec 2) (s : State) : Out :=
  laneExec (Instr.vmulX vd va xb mask).bits.toNat 4 ⟨famIFQ, true, va, .scalar xb false, false, vd, mask⟩ .mul s

/-- `vfma.x` (R136) -/
def execVfmaX (vd va : BitVec 6) (xb : BitVec 5) (mask : BitVec 2) (s : State) : Out :=
  laneExec (Instr.vfmaX vd va xb mask).bits.toNat 4 ⟨famIFQ, false, va, .scalar xb false, true, vd, mask⟩ .fma s

/-- `vmin.x` (R136) -/
def execVminX (vd va : BitVec 6) (xb : BitVec 5) (mask : BitVec 2) (s : State) : Out :=
  laneExec (Instr.vminX vd va xb mask).bits.toNat 4 ⟨famIFQ, false, va, .scalar xb false, false, vd, mask⟩ .min s

/-- `vmax.x` (R136) -/
def execVmaxX (vd va : BitVec 6) (xb : BitVec 5) (mask : BitVec 2) (s : State) : Out :=
  laneExec (Instr.vmaxX vd va xb mask).bits.toNat 4 ⟨famIFQ, false, va, .scalar xb false, false, vd, mask⟩ .max s

/-- `vsll.x` (R136) -/
def execVsllX (vd va : BitVec 6) (xb : BitVec 5) (mask : BitVec 2) (s : State) : Out :=
  laneExec (Instr.vsllX vd va xb mask).bits.toNat 4 ⟨[.int], false, va, .scalarAmount xb, false, vd, mask⟩ .sll s

/-- `vsrl.x` (R136) -/
def execVsrlX (vd va : BitVec 6) (xb : BitVec 5) (mask : BitVec 2) (s : State) : Out :=
  laneExec (Instr.vsrlX vd va xb mask).bits.toNat 4 ⟨[.int], false, va, .scalarAmount xb, false, vd, mask⟩ .srl s

/-- `vsra.x` (R136) -/
def execVsraX (vd va : BitVec 6) (xb : BitVec 5) (mask : BitVec 2) (s : State) : Out :=
  laneExec (Instr.vsraX vd va xb mask).bits.toNat 4 ⟨[.int], false, va, .scalarAmount xb, false, vd, mask⟩ .sra s

/-- `vcmp.eqx` (R136) -/
def execVcmpEqx (md : BitVec 3) (va : BitVec 6) (xb : BitVec 5) (mask : BitVec 2) (s : State) : Out :=
  cmpExec (Instr.vcmpEqx md va xb mask).bits.toNat ⟨famIFQ, false, va, .scalar xb false, false, 0, mask⟩ .eq md s

/-- `vcmp.ltx` (R136) -/
def execVcmpLtx (md : BitVec 3) (va : BitVec 6) (xb : BitVec 5) (mask : BitVec 2) (s : State) : Out :=
  cmpExec (Instr.vcmpLtx md va xb mask).bits.toNat ⟨famIFQ, false, va, .scalar xb false, false, 0, mask⟩ .lt md s

/-- `vcmp.ltx` with the scalar first (R136) -/
def execVcmpLtxRev (md : BitVec 3) (va : BitVec 6) (xb : BitVec 5) (mask : BitVec 2) (s : State) : Out :=
  cmpExec (Instr.vcmpLtxRev md va xb mask).bits.toNat ⟨famIFQ, false, va, .scalar xb true, false, 0, mask⟩ .lt md s

/-- `vcmp.lex` (R136) -/
def execVcmpLex (md : BitVec 3) (va : BitVec 6) (xb : BitVec 5) (mask : BitVec 2) (s : State) : Out :=
  cmpExec (Instr.vcmpLex md va xb mask).bits.toNat ⟨famIFQ, false, va, .scalar xb false, false, 0, mask⟩ .le md s

/-- `vcmp.lex` with the scalar first (R136) -/
def execVcmpLexRev (md : BitVec 3) (va : BitVec 6) (xb : BitVec 5) (mask : BitVec 2) (s : State) : Out :=
  cmpExec (Instr.vcmpLexRev md va xb mask).bits.toNat ⟨famIFQ, false, va, .scalar xb true, false, 0, mask⟩ .le md s

/-- `vbcast` (R136, R137): the scalar in `vd`'s own tag, spatial. -/
def execVbcast (vd : BitVec 6) (xb : BitVec 5) (mask : BitVec 2) (s : State) : Out :=
  let h := s.cur
  let bits := (Instr.vbcast vd xb mask).bits.toNat
  let t := (h.opnd vd).tag
  let e := h.scalarElem t xb
  finish 4 (firstTrap [
      failIf (decide (t = .none)) (trapTAG bits),
      destCheck bits vd t h.vl,
      h.scalarPoison [xb],
      poisonTrap (h.selPoison mask h.vl)]) s
    (s.setCur (h.writeResult vd t 0 h.vl ((h.active mask h.vl).map fun a => if a then some e else none)))

/-! ## Element moves (R137) -/

/-- One element as a scalar: sign- or zero-extended, a block's as its `F32` pattern (R137). -/
def scalarOf (t : Tag) (md : FpMode) (x : Elem) : Word × Flags :=
  if tagBlock t then
    let (e, f) := storeVal .f32 md (x.val t md.ftz)
    (BitVec.ofNat 64 e.bits, f)
  else if tagSigned t then (BitVec.ofInt 64 (intOf t x.bits), 0)
  else (BitVec.ofNat 64 x.bits, 0)

/-- One element of a group as it is stored; zero from the valid length up (R137). -/
def Hart.elemAt (h : Hart) (o : Opnd) (j : Nat) : Elem :=
  if j < o.g * tagCap o.tag && j < h.validLen o then
    if tagBlock o.tag then (((blockOf o.tag (h.unit o (j / 32))).vals[j % 32]?).map Elem.exact).getD (zeroElem o.tag)
    else .raw (h.unit o j)
  else zeroElem o.tag

/-- The poisoned words of one element that is read. -/
def Hart.elemPoison (h : Hart) (o : Opnd) (j : Nat) : List PoisonHit :=
  if j < o.g * tagCap o.tag && j < h.validLen o then
    (h.unitPoison o (j / unitLen o.tag)).map fun p => { p with elem := j }
  else []

/-- `vmv.xv` (R137) -/
def execVmvXv (xd : BitVec 5) (va : BitVec 6) (xb : BitVec 5) (s : State) : Out :=
  let h := s.cur
  let o := h.opnd va
  let j := (h.readX xb).toNat
  let (w, f) := scalarOf o.tag h.fpMode (h.elemAt o j)
  finish 4 (firstTrap [
      h.opndCheck (Instr.vmvXv xd va xb).bits.toNat va 1,
      h.scalarPoison [xb],
      poisonTrap (h.elemPoison o j)]) s
    (s.setCur ((h.writeX xd w).addFlags f))

/-- Element `j` of a group replaced (R137): elements from the old valid length up read as zero, and the member that
holds the element becomes dirty. -/
def Hart.putElem (h : Hart) (o : Opnd) (j v : Nat) : Hart :=
  let e := tagCap o.tag
  let len := max (h.validLen o) (j + 1)
  (List.range o.g).foldl (fun h k =>
    let r := h.vreg (o.base + k)
    let n := min e (len - k * e)
    let b := if n = r.desc.valen.toNat then r.bits.toNat else r.image
    let here := j / e == k
    h.setV (o.base + k)
      { r with
        bits := BitVec.ofNat 16384 (if here then putUnit o.tag b (j % e) v else b)
        desc := { r.desc with valen := BitVec.ofNat 15 n, dirty := r.desc.dirty || here } }) h

/-- `vmv.vx` (R137): an index beyond the group writes nothing. -/
def execVmvVx (vd : BitVec 6) (xa xb : BitVec 5) (s : State) : Out :=
  let h := s.cur
  let bits := (Instr.vmvVx vd xa xb).bits.toNat
  let o := h.opnd vd
  let j := (h.readX xa).toNat
  finish 4 (firstTrap [
      h.opndCheck bits vd 1,
      failIf (tagBlock o.tag) (trapTAG bits),
      h.scalarPoison [xa, xb]]) s
    (if j < o.g * tagCap o.tag then s.setCur (h.putElem o j (bitsAt (h.readX xb).toNat 0 (tagWidth o.tag))) else s)

end Sys2Proof.Machine
end

