-- ==== Sys2Proof/Machine/VFunc.lean ====
section
/-! DEFINITION. The special functions (R138-R141). Where R139 leaves bits open inside a bound, the device's bits are the
free value `Config.special`, kept when it lies inside the bound; a fixed-point evaluation of the function judges that
(DESIGN CHOICE, log entry 3). -/

namespace Sys2Proof.Machine

/-! ## Fixed-point evaluation -/

/-- The binary places of the evaluation. -/
def fxP : Nat := 512

/-- One in fixed point. -/
def fxOne : Int := 2 ^ fxP

/-- A finite value in fixed point. -/
def fxOf (neg : Bool) (m : Nat) (e : Int) : Int :=
  let z : Int := if 0 ≤ e + fxP then (m * 2 ^ (e + fxP).toNat : Nat) else (m / 2 ^ (-(e + fxP)).toNat : Nat)
  if neg then -z else z

/-- `a * b`. -/
def fxMul (a b : Int) : Int := a * b / fxOne

/-- The sum of `t`, `t*y/(k+1)`, `t*y*y/((k+1)(k+2))`, … of `n` terms. -/
def fxExpSum (y : Int) : Nat → Nat → Int → Int
  | 0, _, _ => 0
  | n + 1, k, t => t + fxExpSum y n (k + 1) (fxMul t y / (k + 1 : Nat))

/-- The sum of `t/k`, `t*y/(k+2)`, `t*y*y/(k+4)`, … of `n` terms. -/
def fxOddSum (y : Int) : Nat → Nat → Int → Int
  | 0, _, _ => 0
  | n + 1, k, t => t / (k : Nat) + fxOddSum y n (k + 2) (fxMul t y)

/-- `2 artanh t` for `|t| ≤ 1/3`. -/
def fxArtanh2 (t : Int) : Int := 2 * fxOddSum (fxMul t t) 180 1 t

/-- `ln 2`. -/
def fxLn2 : Int := fxArtanh2 (fxOne / 3)

/-- `arctan (1/k)`. -/
def fxArctanInv (k : Nat) : Int := fxOddSum (-(fxOne / (k * k : Nat))) 260 1 (fxOne / k)

/-- `π`, by Machin's formula. -/
def fxPi : Int := 16 * fxArctanInv 5 - 4 * fxArctanInv 239

/-- `e^x`, for `|x| ≤ 200`. -/
def fxExp (x : Int) : Int :=
  let k := x / fxLn2
  let r := fxExpSum (x - k * fxLn2) 140 0 fxOne
  if 0 ≤ k then r * 2 ^ k.toNat else r / 2 ^ (-k).toNat

/-- `ln` of a positive `m * 2^e`. -/
def fxLn (m : Nat) (e : Int) : Int :=
  let k := m.log2
  let z := fxOf false m (-(k : Int))
  fxArtanh2 ((z - fxOne) * fxOne / (z + fxOne)) + (e + k) * fxLn2

/-- `1 / (1 + e^-x)`, for `|x| ≤ 200`. -/
def fxSigm (x : Int) : Int := fxOne * fxOne / (fxOne + fxExp (-x))

/-- `x^(2n+1) (-1)^n / (2^n n! (2n+1))` summed over `n`: the normal integral times `√(2π)`. -/
def fxErfSum (y : Int) : Nat → Nat → Int → Int
  | 0, _, _ => 0
  | n + 1, k, t => t / (2 * k + 1 : Nat) + fxErfSum y n (k + 1) (-(fxMul t y / (2 * (k + 1) : Nat)))

/-- `(1 + erf (x/√2)) / 2`, for `|x| ≤ 16`. -/
def fxPhi (x : Int) : Int :=
  let root : Int := isqrt (2 * fxPi.toNat * 2 ^ fxP)
  fxOne / 2 + fxErfSum (fxMul x x) 700 0 x * fxOne / root

/-- The exact value of function `fn` at `m * 2^e`, in fixed point. Far arguments give the limit, less a small step. -/
def fxSpecial (fn : Nat) (neg : Bool) (m : Nat) (e : Int) : Int :=
  let x := fxOf neg m e
  let far (n : Nat) : Bool := decide ((n : Int) * fxOne < x.natAbs)
  let tiny : Int := 2 ^ 212
  match fn with
  | 0 => if far 200 then (if neg then tiny else fxOne * 2 ^ 288) else fxExp x
  | 1 => fxLn m e
  | 4 =>
    if far 100 then (if neg then tiny - fxOne else fxOne - tiny)
    else let g := fxExp (2 * x); (g - fxOne) * fxOne / (g + fxOne)
  | 5 => if far 200 then (if neg then tiny else fxOne - tiny) else fxSigm x
  | 6 => if far 16 then (if neg then -tiny else x - tiny) else fxMul x (fxPhi x)
  | _ => if far 200 then (if neg then -tiny else x - tiny) else fxMul x (fxSigm x)

/-! ## Bounds (R139) -/

/-- The spacing of `F32` at a value in fixed point. -/
def fxUlp (v : Int) : Int :=
  let top : Int := (v.natAbs.log2 : Int) - fxP
  2 ^ (max top (-126) - 23 + fxP).toNat

/-- The bound of R139, in fixed point. -/
def fxBound (fn : Nat) (acc : Bool) (m : Nat) (e : Int) (v : Int) : Int :=
  let u := fxUlp v
  let dist (k : Nat) : Int := 2 ^ (fxP - k)
  match fn with
  | 0 => if acc then u else 2 * u
  | 1 =>
    let x := fxOf false m e
    if acc then u
    else if fxOne ≤ 2 * x ∧ x ≤ 2 * fxOne then max (2 * u) (dist 21) else 2 * u
  | 4 => if acc then 2 * u else max (4 * u) (dist 20)
  | 5 => if acc then 2 * u else dist 22
  | 6 => if acc then 4 * u else max (4 * u) (dist 16)
  | _ => if acc then 2 * u else max (4 * u) (dist 20)

/-- What an `F32` result stands for against a bound: an infinity stands for `2^128`. -/
def fxCand : Val → Int
  | .nan _ => 0
  | .inf n => if n then -(fxOne * 2 ^ 128) else fxOne * 2 ^ 128
  | .num n m e => fxOf n m e

/-! ## Special inputs (R140, R141) -/

/-- The result at a special input, if it is one. -/
def specialInput (fn : Nat) (x : Val) : Option (Val × Flags) :=
  let zero : Bool → Val := fun n => .num n 0 0
  let one : Bool → Val := fun n => .num n 1 0
  match x with
  | .nan s => some (.nan false, flagIf s fNV)
  | .inf n =>
    match fn with
    | 0 => some (if n then zero false else .inf false, 0)
    | 1 => some (if n then (.nan false, fNV) else (.inf false, 0))
    | 2 => some (zero n, 0)
    | 3 => some (if n then (.nan false, fNV) else (zero false, 0))
    | 4 => some (one n, 0)
    | 5 => some (if n then zero false else one false, 0)
    | _ => some (if n then zero true else .inf false, 0)
  | .num n m _ =>
    if m = 0 then
      match fn with
      | 0 => some (one false, 0)
      | 1 => some (.inf true, fDZ)
      | 2 => some (.inf n, fDZ)
      | 3 => some (.inf n, fDZ)
      | 5 => some (.num false 1 (-1), 0)
      | _ => some (zero n, 0)
    else if n && (fn == 1 || fn == 3) then some (.nan false, fNV)
    else if fn = 1 && x.cmp? (one false) = some .eq then some (zero false, 0)
    else none

/-! ## Reciprocals -/

/-- `k` when `m * 2^e` is `2^k`. -/
def powerOfTwo (m : Nat) (e : Int) : Option Int := if m = 2 ^ m.log2 then some (e + m.log2) else none

/-- The exact result at a power of two (R141). -/
def exactRecip (fn : Nat) (neg : Bool) (m : Nat) (e : Int) : Option Val :=
  match powerOfTwo m e with
  | none => none
  | some k =>
    if fn = 2 then some (.num neg 1 (-k))
    else if k % 2 = 0 then some (.num false 1 (-(k / 2))) else none

/-- `1/√(m * 2^e)`, with a last bit for a remainder. -/
def recipRoot (m : Nat) (e : Int) : Val :=
  let m' := if e % 2 = 0 then m else 2 * m
  let e' := if e % 2 = 0 then e else e - 1
  let r := isqrt (2 ^ 400 / m')
  .num false (2 * r + (if r * r * m' = 2 ^ 400 then 0 else 1)) (-201 - e' / 2)

/-- The reciprocal or reciprocal root, so that one rounding of it rounds correctly. -/
def recipVal (fn : Nat) (neg : Bool) (m : Nat) (e : Int) : Val :=
  if fn = 2 then ((Val.num false 1 0).div (.num neg m e)).1 else recipRoot m e

/-- Whether a value is within the relative error of the fast grade (R139). -/
def recipWithin (fn : Nat) (neg : Bool) (m : Nat) (e : Int) : Val → Bool
  | .num n q k =>
    let x : Val := .num false m e
    let v : Val := .num false q k
    let lo : Val := .num false 4095 (-12)
    let hi : Val := .num false 4097 (-12)
    let le (a b : Val) : Bool := a.cmp? b == some .lt || a.cmp? b == some .eq
    if fn = 2 then
      let p := (v.mul x).1
      n == neg && le lo p && le p hi
    else
      let p := ((v.mul v).1.mul x).1
      !n && le (lo.mul lo).1 p && le p (hi.mul hi).1
  | _ => false

/-! ## The functions -/

/-- The result of a rounding in the type of the operand, with the flags of R139 for a value that is not exact. -/
def roundResult (f : FloatFmt) (md : FpMode) (v : Val) (ov : Flags) : Elem × Flags :=
  let (n, g) := f.round md v
  let tiny := bitsAt n (f.prec - 1) f.ebits == 0
  (.raw n, g ||| ov ||| fNX ||| flagIf tiny fUF)

/-- The `F32` evaluation of a function at a finite, ordinary input (R138, R139): the device's own bits inside the bound. -/
def evalF32 (fn : Nat) (acc : Bool) (rm : Round) (free : Nat) (neg : Bool) (m : Nat) (e : Int) : Val × Flags :=
  let md : FpMode := ⟨rm, false⟩
  let cand := fmtF32.decode false (free % 2 ^ 32)
  let keep (v : Val) : Val × Flags := (v, flagIf (match v with
    | .inf _ => true
    | _ => false) fOF)
  let fall (v : Val) : Val × Flags :=
    let (n, f) := fmtF32.round md v
    (fmtF32.decode false n, f &&& fOF)
  if fn = 2 || fn = 3 then (if recipWithin fn neg m e cand then keep cand else fall (recipVal fn neg m e))
  else
    let v := fxSpecial fn neg m e
    let margin : Int := 2 ^ 172
    if !cand.isNan && decide (((fxCand cand - v).natAbs : Int) + margin ≤ fxBound fn acc m e v) then keep cand
    else fall (.num (decide (v < 0)) (2 * v.natAbs + 1) (-(fxP : Int) - 1))

/-- A special function of one element of a float tag (R138-R141). -/
def specialElem (fn : Nat) (acc : Bool) (t : Tag) (md : FpMode) (x : Elem) : Elem × Flags :=
  let f := tagFmt t
  let ftz := !acc || md.ftz
  let out : FpMode := ⟨md.rm, ftz⟩
  let v := f.decode ftz x.bits
  match specialInput fn v with
  | some (r, g) => (.raw (f.round out r).1, g)
  | none =>
    match v with
    | .num neg m e =>
      match (if fn = 2 || fn = 3 then exactRecip fn neg m e else none) with
      | some r => let (n, g) := f.round out r; (.raw n, g)
      | none =>
        if acc && (fn = 2 || fn = 3) then let (n, g) := f.round out (recipVal fn neg m e); (.raw n, g)
        else
          let rm := match md.rm with
            | .rne => 0
            | .rtz => 1
            | .rdn => 2
            | .rup => 3
          let free := Config.special fn acc f.prec (tagWidth t) x.bits rm md.ftz
          let (r, ov) := evalF32 fn acc md.rm free neg m e
          roundResult f out r ov
    | _ => (x, 0)

/-- A special function over a vector (R138). -/
def funcExec (bits fn : Nat) (acc : Bool) (vd va : BitVec 6) (mask : BitVec 2) (s : State) : Out :=
  let p : LaneSpec := ⟨[.float], false, va, .none, false, vd, mask⟩
  finish 4 (p.check bits true s.cur) s
    (s.setCur (p.run (fun _ t md a _ _ => specialElem fn acc t md a) s.cur))

/-- `vexp.fast` (R138, R139) -/
def execVexpFast (vd va : BitVec 6) (mask : BitVec 2) (s : State) : Out :=
  funcExec (Instr.vexpFast vd va mask).bits.toNat 0 false vd va mask s

/-- `vlog.fast` (R138, R139) -/
def execVlogFast (vd va : BitVec 6) (mask : BitVec 2) (s : State) : Out :=
  funcExec (Instr.vlogFast vd va mask).bits.toNat 1 false vd va mask s

/-- `vrcp.fast` (R138, R139) -/
def execVrcpFast (vd va : BitVec 6) (mask : BitVec 2) (s : State) : Out :=
  funcExec (Instr.vrcpFast vd va mask).bits.toNat 2 false vd va mask s

/-- `vrsqrt.fast` (R138, R139) -/
def execVrsqrtFast (vd va : BitVec 6) (mask : BitVec 2) (s : State) : Out :=
  funcExec (Instr.vrsqrtFast vd va mask).bits.toNat 3 false vd va mask s

/-- `vtanh.fast` (R138, R139) -/
def execVtanhFast (vd va : BitVec 6) (mask : BitVec 2) (s : State) : Out :=
  funcExec (Instr.vtanhFast vd va mask).bits.toNat 4 false vd va mask s

/-- `vsigm.fast` (R138, R139) -/
def execVsigmFast (vd va : BitVec 6) (mask : BitVec 2) (s : State) : Out :=
  funcExec (Instr.vsigmFast vd va mask).bits.toNat 5 false vd va mask s

/-- `vgelu.fast` (R138, R139) -/
def execVgeluFast (vd va : BitVec 6) (mask : BitVec 2) (s : State) : Out :=
  funcExec (Instr.vgeluFast vd va mask).bits.toNat 6 false vd va mask s

/-- `vsilu.fast` (R138, R139) -/
def execVsiluFast (vd va : BitVec 6) (mask : BitVec 2) (s : State) : Out :=
  funcExec (Instr.vsiluFast vd va mask).bits.toNat 7 false vd va mask s

/-- `vexp.acc` (R138, R139) -/
def execVexpAcc (vd va : BitVec 6) (mask : BitVec 2) (s : State) : Out :=
  funcExec (Instr.vexpAcc vd va mask).bits.toNat 0 true vd va mask s

/-- `vlog.acc` (R138, R139) -/
def execVlogAcc (vd va : BitVec 6) (mask : BitVec 2) (s : State) : Out :=
  funcExec (Instr.vlogAcc vd va mask).bits.toNat 1 true vd va mask s

/-- `vrcp.acc` (R138, R139) -/
def execVrcpAcc (vd va : BitVec 6) (mask : BitVec 2) (s : State) : Out :=
  funcExec (Instr.vrcpAcc vd va mask).bits.toNat 2 true vd va mask s

/-- `vrsqrt.acc` (R138, R139) -/
def execVrsqrtAcc (vd va : BitVec 6) (mask : BitVec 2) (s : State) : Out :=
  funcExec (Instr.vrsqrtAcc vd va mask).bits.toNat 3 true vd va mask s

/-- `vtanh.acc` (R138, R139) -/
def execVtanhAcc (vd va : BitVec 6) (mask : BitVec 2) (s : State) : Out :=
  funcExec (Instr.vtanhAcc vd va mask).bits.toNat 4 true vd va mask s

/-- `vsigm.acc` (R138, R139) -/
def execVsigmAcc (vd va : BitVec 6) (mask : BitVec 2) (s : State) : Out :=
  funcExec (Instr.vsigmAcc vd va mask).bits.toNat 5 true vd va mask s

/-- `vgelu.acc` (R138, R139) -/
def execVgeluAcc (vd va : BitVec 6) (mask : BitVec 2) (s : State) : Out :=
  funcExec (Instr.vgeluAcc vd va mask).bits.toNat 6 true vd va mask s

/-- `vsilu.acc` (R138, R139) -/
def execVsiluAcc (vd va : BitVec 6) (mask : BitVec 2) (s : State) : Out :=
  funcExec (Instr.vsiluAcc vd va mask).bits.toNat 7 true vd va mask s

end Sys2Proof.Machine
end

