-- ==== Sys2Proof/Machine/VReduce.lean ====
section
/-! DEFINITION. Reductions (R51, R52, R142, R143) and the mask instructions (R144, R145). -/

namespace Sys2Proof.Machine

/-! ## Reductions -/

/-- How a reduction folds: one function in element order, or the tree of R51. -/
inductive FoldKind where
  | ordered (op : LaneOp)
  | tree
  deriving DecidableEq, Repr

/-- A fold in element order (R51 `.ord`, R52, R143). -/
def foldOrd (op : LaneOp) (t : Tag) (md : FpMode) : Elem → List (Option Elem) → Elem × Flags
  | a, [] => (a, 0)
  | a, none :: xs => foldOrd op t md a xs
  | a, some x :: xs =>
    let (b, f) := laneElem op t md a x (.raw 0)
    let (r, g) := foldOrd op t md b xs
    (r, f ||| g)

/-- One halving of the tree: entry `i` and entry `i + h` added. -/
def treeLevel (t : Tag) (md : FpMode) (h : Nat) (xs : List Elem) : List Elem × Flags :=
  let out := (List.zip (xs.take h) (xs.drop h)).map fun (a, b) => laneElem .add t md a b (.raw 0)
  (out.map Prod.fst, out.foldl (fun f x => f ||| x.2) 0)

/-- The halvings of the tree from `2^k` entries down to one. -/
def treeLevels (t : Tag) (md : FpMode) : Nat → List Elem → List Elem × Flags
  | 0, xs => (xs, 0)
  | k + 1, xs =>
    let (ys, f) := treeLevel t md (2 ^ k) xs
    let (zs, g) := treeLevels t md k ys
    (zs, f ||| g)

/-- The least `k` with `n ≤ 2^k`. -/
def clog2 (n : Nat) : Nat := if n ≤ 1 then 0 else (n - 1).log2 + 1

/-- The sum in tree order (R51 `.tree`) of a float type. -/
def foldTree (t : Tag) (md : FpMode) (acc : Elem) (xs : List (Option Elem)) : Elem × Flags :=
  if xs.all Option.isNone then (acc, 0)
  else
    let k := clog2 xs.length
    let pad := xs.map (fun x => x.getD (.raw 0)) ++ List.replicate (2 ^ k - xs.length) (.raw 0)
    let (ys, f) := treeLevels t md k pad
    let (r, g) := laneElem .add t md (ys.headD (.raw 0)) acc (.raw 0)
    (r, f ||| g)

/-- A reduction: its operands, its result type, its fold. -/
structure ReduceSpec where
  vd : BitVec 6
  va : BitVec 6
  vb : BitVec 6
  mask : BitVec 2
  /-- the result type; none where the tags are not accepted -/
  type : Option Tag
  fold : FoldKind

/-- The reads of a reduction: the vector, and element 0 of the accumulator (R126, R143). -/
def ReduceSpec.reads (p : ReduceSpec) (h : Hart) : List VecRead :=
  let o := h.opnd p.vb
  let n := o.firstLen 1
  [⟨h.opnd p.va, h.vl, h.active p.mask h.vl, true⟩, ⟨o, n, (List.range n).map (· == 0), true⟩]

/-- The checks of a reduction (R124, R143). -/
def ReduceSpec.check (p : ReduceSpec) (bits : Nat) (h : Hart) : Option Trap :=
  let d : Doms := { va := some (h.opnd p.va).dom, vb := none, vd := none, row := (h.opnd p.vb).dom }
  firstTrap [
    h.opndCheck bits p.va h.vl,
    h.opndCheck bits p.vb 1,
    failIf p.type.isNone (trapTAG bits),
    p.type.bind fun t => destCheck bits p.vd t 1,
    d.lenCheck h,
    poisonTrap (h.selPoison p.mask h.vl ++ h.readsPoison (p.reads h))]

/-- The accumulator converted to the result type (R48, R143): for a block type of another tag it is quantised by itself
(DEDUCED, log entry 42). -/
def accElem (a t : Tag) (md : FpMode) (x : Elem) : Elem × Flags :=
  if tagBlock t && a != t then
    let (b, f) := quantiseBlock (tagSigned t) (tagWidth t) [(x.val a md.ftz, true)]
    (.exact (b.vals.headD (.num false 0 0)), f)
  else convertElem a t md x

/-- The result of a reduction written (R125, R143). -/
def ReduceSpec.run (p : ReduceSpec) (h : Hart) : Hart :=
  let t := p.type.getD .none
  let md := h.fpMode
  let (ls, f, rc) := h.readVecs (p.reads h)
  let (acc, g) := accElem (h.opnd p.vb).tag t md ((ls.getLastD []).headD (.raw 0))
  let (xs, k) := laneMap (fun _ a _ _ => convertElem (h.opnd p.va).tag t md a) 0 (h.active p.mask h.vl) (ls.headD []) [] []
  let (r, e) := match p.fold with
    | .ordered op => foldOrd op t md acc xs
    | .tree => if tagFamily t = .float then foldTree t md acc xs else foldOrd .add t md acc xs
  ((h.writeResult p.vd t 0 1 [some r]).addFlags (f ||| g ||| k ||| e)).addRcnt rc

/-- A reduction. -/
def reduceExec (bits : Nat) (p : ReduceSpec) (s : State) : Out := finish 4 (p.check bits s.cur) s (s.setCur (p.run s.cur))

/-- The result type of a reduction that accepts these families (R143). -/
def Hart.reduceType (h : Hart) (va vb : BitVec 6) (fams : List Family) : Option Tag :=
  (promote (h.opnd va).tag (h.opnd vb).tag).filter fun t => fams.contains (tagFamily t)

/-- The result type of `vredsumw` (R143); an `HB` accumulator traps `TAG` (R41). -/
def Hart.wideType (h : Hart) (va vb : BitVec 6) : Option Tag :=
  if (h.opnd vb).tag = .hb then none
  else match (h.opnd va).tag with
  | .f16 | .bf16 => some .f32
  | t => if tagFamily t = .int then some (if tagSigned t then .s64 else .u64) else none

/-- `vredsum.ord` (R142, R143) -/
def execVredsumOrd (vd va vb : BitVec 6) (mask : BitVec 2) (s : State) : Out :=
  reduceExec (Instr.vredsumOrd vd va vb mask).bits.toNat
    ⟨vd, va, vb, mask, s.cur.reduceType va vb famIFQ, .ordered .add⟩ s

/-- `vredsum.tree` (R142, R143) -/
def execVredsumTree (vd va vb : BitVec 6) (mask : BitVec 2) (s : State) : Out :=
  reduceExec (Instr.vredsumTree vd va vb mask).bits.toNat
    ⟨vd, va, vb, mask, s.cur.reduceType va vb famIFQ, .tree⟩ s

/-- `vredmax` (R142, R143) -/
def execVredmax (vd va vb : BitVec 6) (mask : BitVec 2) (s : State) : Out :=
  reduceExec (Instr.vredmax vd va vb mask).bits.toNat
    ⟨vd, va, vb, mask, s.cur.reduceType va vb famIFQ, .ordered .max⟩ s

/-- `vredmin` (R142, R143) -/
def execVredmin (vd va vb : BitVec 6) (mask : BitVec 2) (s : State) : Out :=
  reduceExec (Instr.vredmin vd va vb mask).bits.toNat
    ⟨vd, va, vb, mask, s.cur.reduceType va vb famIFQ, .ordered .min⟩ s

/-- `vredsumw` (R142, R143) -/
def execVredsumw (vd va vb : BitVec 6) (mask : BitVec 2) (s : State) : Out :=
  reduceExec (Instr.vredsumw vd va vb mask).bits.toNat ⟨vd, va, vb, mask, s.cur.wideType va vb, .ordered .add⟩ s

/-- `vredand` (R142, R143) -/
def execVredand (vd va vb : BitVec 6) (mask : BitVec 2) (s : State) : Out :=
  reduceExec (Instr.vredand vd va vb mask).bits.toNat
    ⟨vd, va, vb, mask, s.cur.reduceType va vb [.int, .hb], .ordered .and⟩ s

/-- `vredor` (R142, R143) -/
def execVredor (vd va vb : BitVec 6) (mask : BitVec 2) (s : State) : Out :=
  reduceExec (Instr.vredor vd va vb mask).bits.toNat
    ⟨vd, va, vb, mask, s.cur.reduceType va vb [.int, .hb], .ordered .or⟩ s

/-- `vredxor` (R142, R143) -/
def execVredxor (vd va vb : BitVec 6) (mask : BitVec 2) (s : State) : Out :=
  reduceExec (Instr.vredxor vd va vb mask).bits.toNat
    ⟨vd, va, vb, mask, s.cur.reduceType va vb [.int, .hb], .ordered .xor⟩ s

/-! ## Mask instructions (R144, R145) -/

/-- The pending copy fault of the completion masks that an instruction names (R217). -/
def Hart.masksFault (h : Hart) (ms : List (BitVec 3)) : Option Trap :=
  h.copyFault fun x => ms.any fun m => m.toNat == x.cm.toNat + 4

/-- Whether each `i < VL` is set in both masks. -/
def Hart.bothMasks (h : Hart) (ma : BitVec 3) (sel : BitVec 2) : List Bool :=
  let m := h.mask ma.toNat &&& h.mask sel.toNat
  (List.range h.vl).map m.getLsbD

/-- The checks of `vpopc` and `vfirst`. -/
def Hart.scanCheck (h : Hart) (ma : BitVec 3) (sel : BitVec 2) : Option Trap :=
  firstTrap [poisonTrap (h.maskPoison ma.toNat h.vl ++ h.selPoison sel h.vl), h.masksFault [ma]]

/-- `vpopc` (R144) -/
def execVpopc (xd : BitVec 5) (ma : BitVec 3) (mask : BitVec 2) (s : State) : Out :=
  finish 4 (s.cur.scanCheck ma mask) s
    (s.writeX xd (BitVec.ofNat 64 ((s.cur.bothMasks ma mask).count true)))

/-- `vfirst` (R144) -/
def execVfirst (xd : BitVec 5) (ma : BitVec 3) (mask : BitVec 2) (s : State) : Out :=
  finish 4 (s.cur.scanCheck ma mask) s
    (s.writeX xd (match (s.cur.bothMasks ma mask).findIdx? id with
      | some i => BitVec.ofNat 64 i
      | none => BitVec.allOnes 64))

/-- Mask logic on every bit (R144): `srcs` are the masks read. -/
def maskLogic (bits : Nat) (md : BitVec 3) (srcs : List (BitVec 3)) (r : BitVec 16384) (s : State) : Out :=
  let h := s.cur
  finish 4 (firstTrap [
      failIf (md == 0) (trapILL bits),
      poisonTrap (srcs.flatMap fun m => h.maskPoison m.toNat 16384),
      h.masksFault (md :: srcs)]) s
    (s.setCur (h.setMask md.toNat r (BitVec.allOnes 256)))

/-- `mand` (R144) -/
def execMand (md ma mb : BitVec 3) (s : State) : Out :=
  maskLogic (Instr.mand md ma mb).bits.toNat md [ma, mb] (s.cur.mask ma.toNat &&& s.cur.mask mb.toNat) s

/-- `mor` (R144) -/
def execMor (md ma mb : BitVec 3) (s : State) : Out :=
  maskLogic (Instr.mor md ma mb).bits.toNat md [ma, mb] (s.cur.mask ma.toNat ||| s.cur.mask mb.toNat) s

/-- `mxor` (R144) -/
def execMxor (md ma mb : BitVec 3) (s : State) : Out :=
  maskLogic (Instr.mxor md ma mb).bits.toNat md [ma, mb] (s.cur.mask ma.toNat ^^^ s.cur.mask mb.toNat) s

/-- `mnot` (R144) -/
def execMnot (md ma : BitVec 3) (s : State) : Out :=
  maskLogic (Instr.mnot md ma).bits.toNat md [ma] (~~~s.cur.mask ma.toNat) s

/-- `mandn` (R144) -/
def execMandn (md ma mb : BitVec 3) (s : State) : Out :=
  maskLogic (Instr.mandn md ma mb).bits.toNat md [ma, mb] (s.cur.mask ma.toNat &&& ~~~s.cur.mask mb.toNat) s

/-- `mset` (R144) -/
def execMset (md : BitVec 3) (s : State) : Out :=
  maskLogic (Instr.mset md).bits.toNat md [] (BitVec.ofNat 16384 (2 ^ s.cur.vl - 1)) s

end Sys2Proof.Machine
end

