-- ==== Sys2Proof/Machine/VPerm.lean ====
section
/-! DEFINITION. Permutes, index generation, quantisation (R146-R149). -/

namespace Sys2Proof.Machine

/-! ## Moves of whole units -/

/-- Where a unit of a move comes from: unit `k` of `va` or of `vb`, a zero, or the destination's own unit, which stays. -/
inductive MoveSrc where
  | a (k : Nat)
  | b (k : Nat)
  | zero
  | stay
  deriving DecidableEq, Repr

/-- A move: its operands, its class, and for each unit of the result its source, none for an inactive unit. -/
structure MoveSpec where
  vd : BitVec 6
  va : BitVec 6
  vb : Option (BitVec 6)
  /-- an index operand, read as it stands (R126) -/
  index : Option (BitVec 6)
  mask : BitVec 2
  keep : Bool
  /-- whether the tag of `va` is accepted -/
  ok : Tag → Bool
  /-- a rule on `VL` and the shift that a block type or the entry asks for (R146, R147) -/
  multiple : Bool
  scalars : List (BitVec 5)
  src : List (Option MoveSrc)

/-- Whether each of the first `n` elements is read from `va` (`second` false) or `vb`. -/
def MoveSpec.readSet (p : MoveSpec) (q n : Nat) (second : Bool) : List Bool :=
  let ks := p.src.filterMap fun s => match s, second with
    | some (.a k), false => some k
    | some (.b k), true => some k
    | _, _ => none
  let marks := ks.foldl (fun (m : Nat) k => m ||| 2 ^ k) 0
  (List.range n).map fun i => bitAt marks (i / q)

/-- The vector reads of a move. -/
def MoveSpec.reads (p : MoveSpec) (h : Hart) : List VecRead :=
  let a := h.opnd p.va
  let q := unitLen a.tag
  ⟨a, h.vl, p.readSet q h.vl false, !p.keep⟩ ::
    (match p.vb with
      | some r => [⟨h.opnd r, h.vl, p.readSet q h.vl true, !p.keep⟩]
      | none => [])

/-- The domains of the operands (R126, R152). -/
def MoveSpec.doms (p : MoveSpec) (h : Hart) : Doms where
  va := some (h.opnd p.va).dom
  vb := (p.vb.or p.index).map fun r => (h.opnd r).dom
  vd := none

/-- The checks of a move (R124, R146, R147). -/
def MoveSpec.check (p : MoveSpec) (bits : Nat) (h : Hart) : Option Trap :=
  let a := h.opnd p.va
  firstTrap [
    h.opndCheck bits p.va h.vl,
    (match p.vb.or p.index with
      | some r => h.opndCheck bits r h.vl
      | none => none),
    failIf (!p.ok a.tag
      || (p.vb.map fun r => decide ((h.opnd r).tag ≠ a.tag)).getD false
      || (p.index.map fun r => tagFamily (h.opnd r).tag != .int).getD false) (trapTAG bits),
    destCheck bits p.vd a.tag h.vl,
    failIf p.multiple (trapILL bits),
    if p.keep then (p.doms h).keepCheck h else (p.doms h).lenCheck h,
    h.scalarPoison p.scalars,
    poisonTrap (h.selPoison p.mask h.vl ++ h.readsPoison (p.reads h)
      ++ (match p.index with
        | some r => h.readPoison (h.opnd r) (h.active p.mask h.vl)
        | none => []))]

/-- The units that a read gives: as they are stored, or reconstructed (R155); with flags and the `RCNT` count. -/
def Hart.readUnits (h : Hart) (r : VecRead) : List Nat × Flags × Nat :=
  let q := unitLen r.o.tag
  if !r.recon || r.o.dom = 0 then ((List.range ((r.n + q - 1) / q)).map (h.unit r.o), 0, 0)
  else
    let w := h.reconstruct r.o r.n r.read
    (if tagBlock r.o.tag then w.units else w.elems.map Elem.bits, w.flags, elementGroups r.o.tag r.n)

/-- The move: `len` elements of result. -/
def MoveSpec.run (p : MoveSpec) (len : Nat) (h : Hart) : Hart :=
  let a := h.opnd p.va
  let dom := if p.keep then (p.doms h).keep else 0
  let grp := (groupFor a.tag h.vl).getD 0
  let o : Opnd := ⟨p.vd.toNat, a.tag, dom, grp⟩
  let pres := h.present o
  let rs := (p.reads h).map h.readUnits
  let us := (rs.headD ([], 0, 0)).1.toArray
  let vs := (rs.getLastD ([], 0, 0)).1.toArray
  let units := p.src.zipIdx.map fun (s, i) => s.map fun
    | .a k => (us.getD k (zeroUnit a.tag), false)
    | .b k => (vs.getD k (zeroUnit a.tag), false)
    | .zero => (zeroUnit a.tag, false)
    | .stay => (if pres then h.unit o i else zeroUnit a.tag, true)
  ((h.writeGroup p.vd a.tag dom grp len units).addFlags (rs.foldl (fun f r => f ||| r.2.1) 0)).addRcnt
    (countReads [] ((p.reads h).zip rs |>.map fun (r, x) => (r.o.base, x.2.2)))

/-- A move over `VL` elements. -/
def moveExec (bits : Nat) (p : MoveSpec) (s : State) : Out := finish 4 (p.check bits s.cur) s (s.setCur (p.run s.cur.vl s.cur))

/-- The units of a move over `VL`: `f i` for each active unit `i` (R147: by its first element). -/
def Hart.moveSrc (h : Hart) (va : BitVec 6) (mask : BitVec 2) (f : Nat → MoveSrc) : List (Option MoveSrc) :=
  let q := unitLen (h.opnd va).tag
  let m := h.mask mask.toNat
  (List.range (h.vl / q)).map fun i => if m.getLsbD (q * i) then some (f i) else none

/-- Any tag but `NONE`; R19 has refused that one. -/
def anyTag (_ : Tag) : Bool := true
/-- A fixed-width or `HB` tag. -/
def singleTag (t : Tag) : Bool := !tagBlock t

/-- The rule of R147 on block types. -/
def Hart.blockRule (h : Hart) (va : BitVec 6) (k : Nat) : Bool :=
  tagBlock (h.opnd va).tag && (h.vl % 32 != 0 || k % 32 != 0)

/-- `vslideup` (R146, R147) -/
def execVslideup (vd va : BitVec 6) (xb : BitVec 5) (mask : BitVec 2) (s : State) : Out :=
  let h := s.cur
  let k := (h.readX xb).toNat
  let u := k / unitLen (h.opnd va).tag
  moveExec (Instr.vslideup vd va xb mask).bits.toNat
    ⟨vd, va, none, none, mask, false, anyTag, h.blockRule va k, [xb],
      h.moveSrc va mask fun i => if u ≤ i then .a (i - u) else .stay⟩ s

/-- `vslidedn` (R146, R147) -/
def execVslidedn (vd va : BitVec 6) (xb : BitVec 5) (mask : BitVec 2) (s : State) : Out :=
  let h := s.cur
  let k := (h.readX xb).toNat
  let q := unitLen (h.opnd va).tag
  moveExec (Instr.vslidedn vd va xb mask).bits.toNat
    ⟨vd, va, none, none, mask, false, anyTag, h.blockRule va k, [xb],
      h.moveSrc va mask fun i => if i + k / q < h.vl / q then .a (i + k / q) else .zero⟩ s

/-- `vrot` (R146, R147) -/
def execVrot (vd va : BitVec 6) (xb : BitVec 5) (mask : BitVec 2) (s : State) : Out :=
  let h := s.cur
  let k := (h.readX xb).toNat
  let q := unitLen (h.opnd va).tag
  moveExec (Instr.vrot vd va xb mask).bits.toNat
    ⟨vd, va, none, none, mask, false, anyTag, h.blockRule va k, [xb],
      h.moveSrc va mask fun i => .a ((i + k / q) % (h.vl / q))⟩ s

/-- `vperm` (R146) -/
def execVperm (vd va vb : BitVec 6) (mask : BitVec 2) (s : State) : Out :=
  let h := s.cur
  let o := h.opnd vb
  moveExec (Instr.vperm vd va vb mask).bits.toNat
    ⟨vd, va, none, some vb, mask, false, singleTag, false, [],
      h.moveSrc va mask fun i =>
        let j := intOf o.tag (h.unit o i)
        if 0 ≤ j && j < h.vl then .a j.toNat else .zero⟩ s

/-- `vcompress` (R146): the selected elements, in order; what follows them is tail. -/
def execVcompress (vd va : BitVec 6) (mask : BitVec 2) (s : State) : Out :=
  let h := s.cur
  let m := h.mask mask.toNat
  let src := ((List.range h.vl).filter m.getLsbD).map fun i => some (MoveSrc.a i)
  let p : MoveSpec := ⟨vd, va, none, none, mask, false, singleTag, false, [], src⟩
  finish 4 (p.check (Instr.vcompress vd va mask).bits.toNat h) s (s.setCur (p.run src.length h))

/-- The sources of `vexpand`: each active unit takes the next element. -/
def expandSrc : Nat → List Bool → List (Option MoveSrc)
  | _, [] => []
  | n, true :: as => some (.a n) :: expandSrc (n + 1) as
  | n, false :: as => none :: expandSrc n as

/-- `vexpand` (R146) -/
def execVexpand (vd va : BitVec 6) (mask : BitVec 2) (s : State) : Out :=
  moveExec (Instr.vexpand vd va mask).bits.toNat
    ⟨vd, va, none, none, mask, false, singleTag, false, [], expandSrc 0 (s.cur.active mask s.cur.vl)⟩ s

/-- `vzip` (R146) -/
def execVzip (vd va vb : BitVec 6) (mask : BitVec 2) (s : State) : Out :=
  moveExec (Instr.vzip vd va vb mask).bits.toNat
    ⟨vd, va, some vb, none, mask, false, singleTag, false, [],
      s.cur.moveSrc va mask fun i => if i % 2 = 0 then .a (i / 2) else .b (i / 2)⟩ s

/-- `vunzip` (R146) -/
def execVunzip (vd va vb : BitVec 6) (mask : BitVec 2) (s : State) : Out :=
  let half := (s.cur.vl + 1) / 2
  moveExec (Instr.vunzip vd va vb mask).bits.toNat
    ⟨vd, va, some vb, none, mask, false, singleTag, false, [],
      s.cur.moveSrc va mask fun i => if i < half then .a (2 * i) else .b (2 * (i - half) + 1)⟩ s

/-- `vtrans` (R146): squares of 32 by 32 elements transposed. -/
def execVtrans (vd va : BitVec 6) (mask : BitVec 2) (s : State) : Out :=
  moveExec (Instr.vtrans vd va mask).bits.toNat
    ⟨vd, va, none, none, mask, false, fun t => singleTag t && decide (t ≠ .hb), s.cur.vl % 1024 != 0, [],
      s.cur.moveSrc va mask fun i => .a (1024 * (i / 1024) + 32 * (i % 32) + i / 32 % 32)⟩ s

/-- `vmerge` (R146, R147): the mask chooses, and every unit is written. -/
def execVmerge (vd va vb : BitVec 6) (mask : BitVec 2) (s : State) : Out :=
  let h := s.cur
  let q := unitLen (h.opnd va).tag
  let m := h.mask mask.toNat
  moveExec (Instr.vmerge vd va vb mask).bits.toNat
    ⟨vd, va, some vb, none, mask, true, anyTag, h.blockRule va 0, [],
      (List.range (h.vl / q)).map fun i => some (if m.getLsbD (q * i) then .b i else .a i)⟩ s

/-- `vmv` (R146, R147) -/
def execVmv (vd va : BitVec 6) (mask : BitVec 2) (s : State) : Out :=
  moveExec (Instr.vmv vd va mask).bits.toNat
    ⟨vd, va, none, none, mask, true, anyTag, s.cur.blockRule va 0, [], s.cur.moveSrc va mask .a⟩ s

/-! ## Indices (R146, R148) -/

/-- The coordinates of an index by a shape (R148). -/
def coordsOf : List Extent → Nat → List Nat
  | [], _ => []
  | [_], q => [q]
  | e :: es, q =>
    let t := q * e.c / 2 ^ (32 + e.l)
    (q - t * e.e.toNat) :: coordsOf es t

/-- `vtidx` (R148): the low bits of a narrow index are taken as they stand, without its sign (DESIGN CHOICE, log entry 84). -/
def execVtidx (vd va : BitVec 6) (entry : BitVec 4) (s : State) : Out :=
  let h := s.cur
  let bits := (Instr.vtidx vd va entry).bits.toNat
  let es := h.shapes.getD entry.toNat []
  let o := h.opnd va
  let grp := (groupFor .u32 h.vl).getD 0
  let g := 2 ^ grp
  let d : Doms := { va := some o.dom, vb := none, vd := none }
  let all := List.replicate h.vl true
  let rd : VecRead := ⟨o, h.vl, all, true⟩
  let (xs, f, rc) := h.readOperand o h.vl all
  let cs := xs.map fun x => coordsOf es (x.bits % 2 ^ 32)
  let h1 := (List.range es.length).foldl (fun h' j =>
    h'.writeGroup (BitVec.ofNat 6 (vd.toNat + j * g)) .u32 0 grp h.vl
      (cs.map fun c => some (c.getD j 0 % 2 ^ 32, false))) h
  finish 4 (firstTrap [
      h.opndCheck bits va h.vl,
      failIf (tagFamily o.tag != .int) (trapTAG bits),
      failIf es.isEmpty (trapILL bits),
      destCheck bits vd .u32 h.vl,
      failIf (decide (64 < vd.toNat + es.length * g)) (trapILL bits),
      d.lenCheck h,
      poisonTrap (h.readsPoison [rd])]) s
    (s.setCur ((h1.addFlags f).addRcnt rc))

/-- An index as an element of an integer or float tag (R146, R48). -/
def indexElem (t : Tag) (md : FpMode) (i : Nat) : Elem × Flags :=
  let (x, f) := storeVal t md (.ofInt i)
  (x, if tagFamily t = .int then 0 else f)

/-- `vid` (R146) -/
def execVid (vd : BitVec 6) (s : State) : Out :=
  let h := s.cur
  let bits := (Instr.vid vd).bits.toNat
  let t := (h.opnd vd).tag
  let xs := (List.range h.vl).map (indexElem t h.fpMode)
  finish 4 (firstTrap [
      failIf (tagFamily t != .int && tagFamily t != .float) (trapTAG bits),
      destCheck bits vd t h.vl]) s
    (s.setCur ((h.writeResult vd t 0 h.vl (xs.map fun x => some x.1)).addFlags
      (xs.foldl (fun f x => f ||| x.2) 0)))

/-! ## Quantisation (R146) -/

/-- `vquant` (R146) -/
def execVquant (vd va : BitVec 6) (tag : Tag) (mask : BitVec 2) (s : State) : Out :=
  convertExec (Instr.vquant vd va tag mask).bits.toNat vd va tag mask (fun _ b => tagBlock b) s

/-- `vdeq` (R146) -/
def execVdeq (vd va : BitVec 6) (tag : Tag) (mask : BitVec 2) (s : State) : Out :=
  convertExec (Instr.vdeq vd va tag mask).bits.toNat vd va tag mask
    (fun a b => tagBlock a && (tagFamily b == .int || tagFamily b == .float)) s

end Sys2Proof.Machine
end

