-- ==== Sys2Proof/Machine/Haar.lean ====
section
/-! DEFINITION. Haar-domain instructions (R157-R163) and the wavelet store (R164-R166). -/

namespace Sys2Proof.Machine

/-! ## Columns (R152) -/

/-- Whether column (`b`, `ch`) of an operand is active: the bit of its first element, or of its Haar block. -/
def Hart.columnActive (h : Hart) (sel : BitVec 2) (t : Tag) (l b ch : Nat) : Bool :=
  (h.mask sel.toNat).getLsbD (32 * 2 ^ l * b + if tagBlock t then 0 else ch)

/-- Whether each element below `VL` lies in an active column. -/
def Hart.columnMask (h : Hart) (sel : BitVec 2) (t : Tag) (l : Nat) : List Bool :=
  (List.range h.vl).map fun i => h.columnActive sel t l (i / (32 * 2 ^ l)) (i % 32)

/-- The magnitude of `THR1` to `THR7` for a level (R157). -/
def Hart.threshold (h : Hart) (lev : Nat) : Val :=
  match fmtF32.decode false (h.csr.thr.getD (lev - 1) 0).toNat with
  | .num _ m e => .num false m e
  | .inf _ => .inf false
  | v => v

/-- The active columns of an operand worked by `op`. -/
def Hart.workColumns (h : Hart) (op : ColumnOp) (o : Opnd) (l : Nat) (sel : BitVec 2) : Worked :=
  workHaar op o.tag h.fpMode l (h.columnActive sel o.tag l) (h.vl / (32 * 2 ^ l)) 0 (h.elems o h.vl)

/-- A Haar instruction with a vector result: levels, work, the domain of the result, whether it counts `RCNT`. -/
structure HaarSpec where
  vd : BitVec 6
  va : BitVec 6
  mask : BitVec 2
  lev : Nat
  op : ColumnOp
  dom : Nat
  counts : Bool

/-- The checks of R124 on a Haar instruction, with its own domain check. -/
def HaarSpec.check (p : HaarSpec) (bits : Nat) (own : Option Trap) (h : Hart) : Option Trap :=
  let o := h.opnd p.va
  firstTrap [
    h.opndCheck bits p.va h.vl,
    failIf (!famIFQ.contains (tagFamily o.tag)) (trapTAG bits),
    destCheck bits p.vd o.tag h.vl,
    own,
    failIf (h.vl % (32 * 2 ^ p.lev) != 0) (trapDOM h 1 p.lev 0 0 o.dom),
    poisonTrap (h.selPoison p.mask h.vl ++ h.readPoison o (h.columnMask p.mask o.tag p.lev))]

/-- The units of a worked operand, none for an inactive column (R105) or, for a block type, an inactive row (R127). -/
def Worked.result (w : Worked) (t : Tag) (mask : List Bool) : List (Option (Nat × Bool)) :=
  if tagBlock t then w.units.zipIdx.map fun (u, k) => if mask.getD (32 * k) false then some (u, false) else none
  else (w.elems.zip mask).map fun (x, a) => if a then some (x.bits, false) else none

/-- The result written: inactive columns by R105. The flags are those of the columns. -/
def HaarSpec.run (p : HaarSpec) (h : Hart) : Hart :=
  let o := h.opnd p.va
  let w := h.workColumns p.op o p.lev p.mask
  let h1 := h.writeGroup p.vd o.tag p.dom ((groupFor o.tag h.vl).getD 0) h.vl
    (w.result o.tag (h.columnMask p.mask o.tag p.lev))
  ((h1.addFlags w.flags).addZcnt w.zeros).addRcnt (if p.counts then elementGroups o.tag h.vl else 0)

/-- A Haar instruction. -/
def haarExec (bits : Nat) (p : HaarSpec) (own : Option Trap) (s : State) : Out :=
  finish 4 (p.check bits own s.cur) s (s.setCur (p.run s.cur))

/-- `vhaar` (R158, R159) -/
def execVhaar (vd va : BitVec 6) (lev : BitVec 3) (mask : BitVec 2) (s : State) : Out :=
  let d := (s.cur.opnd va).dom
  haarExec (Instr.vhaar vd va lev mask).bits.toNat ⟨vd, va, mask, lev.toNat, ⟨true, false, none⟩, lev.toNat, false⟩
    (failIf (d != 0) (trapDOM s.cur 3 lev.toNat 0 0 d)) s

/-- `vihaar` (R158, R160) -/
def execVihaar (vd va : BitVec 6) (mask : BitVec 2) (s : State) : Out :=
  let d := (s.cur.opnd va).dom
  haarExec (Instr.vihaar vd va mask).bits.toNat ⟨vd, va, mask, d, ⟨false, true, none⟩, 0, true⟩
    (failIf (d == 0) (trapDOM s.cur 4 0 0 0 0)) s

/-- `vthr` (R158, R161) -/
def execVthr (vd va : BitVec 6) (mask : BitVec 2) (s : State) : Out :=
  let d := (s.cur.opnd va).dom
  haarExec (Instr.vthr vd va mask).bits.toNat ⟨vd, va, mask, d, ⟨false, false, some s.cur.threshold⟩, d, false⟩
    (failIf (d == 0) (trapDOM s.cur 4 0 0 0 0)) s

/-- `vsig` (R158, R162) -/
def execVsig (md : BitVec 3) (va : BitVec 6) (mask : BitVec 2) (s : State) : Out :=
  let h := s.cur
  let bits := (Instr.vsig md va mask).bits.toNat
  let o := h.opnd va
  let act := h.active mask h.vl
  finish 4 (firstTrap [
      failIf (md == 0) (trapILL bits),
      h.opndCheck bits va h.vl,
      failIf (!famIFQ.contains (tagFamily o.tag)) (trapTAG bits),
      poisonTrap (h.selPoison mask h.vl ++ h.readPoison o act),
      h.maskFault md.toNat]) s
    (s.setCur (h.writeMaskBits md
      (((h.elems o h.vl).zip act).map fun (x, a) => if a then some (!elemZero o.tag x) else none)))

/-- The rows of 32 elements that read as zero (R163). -/
def zeroRows (t : Tag) : Nat → List Elem → Nat
  | 0, _ => 0
  | n + 1, xs => bit ((xs.take 32).all (elemZero t)) + zeroRows t n (xs.drop 32)

/-- `vdom` (R158, R163) -/
def execVdom (xd : BitVec 5) (va : BitVec 6) (s : State) : Out :=
  let h := s.cur
  let bits := (Instr.vdom xd va).bits.toNat
  let o := h.opnd va
  let n := zeroRows o.tag (h.vl / 32) (h.elems o h.vl)
  finish 4 (firstTrap [
      h.opndCheck bits va h.vl,
      failIf (!famIFQ.contains (tagFamily o.tag)) (trapTAG bits),
      failIf (h.vl % 32 != 0) (trapILL bits),
      poisonTrap (h.readPoison o (List.replicate h.vl true))]) s
    (s.writeX xd (BitVec.ofNat 64 (n * 2 ^ 32 + o.dom)))

/-! ## The wavelet store -/

/-- The bytes of unit `k` of worked coefficients (R114). -/
def coeffBytes (t : Tag) (units : Array Nat) (k : Nat) : List Byte :=
  if tagBlock t then leBytes (packedSize (tagWidth t)) (packBlock (tagWidth t) (units.getD k (zeroUnit t)))
  else leBytes (tagWidth t / 8) (units.getD k 0)

/-- The check of the first unit against a buffer that is not `ACT` (R166): every unit of it fails at `CLASS` at the
latest. -/
def actOnly (s : State) (sp : Space) (idx : Nat) : List UnitAcc → Option Trap
  | [] => none
  | u :: _ =>
    if sp.act?.isSome then none
    else
      match Access1.check ⟨idx, u.off, u.n, u.align, .write, false, false⟩ s sp with
      | some (c, b) => some (unitTrap idx true u c b)
      | none => some (unitTrap idx true u cCLASS u.off)

/-- `vstw` (R164-R166) -/
def execVstw (vs : BitVec 6) (xb : BitVec 5) (lev : BitVec 3) (thr : BitVec 1) (mask : BitVec 2) (ord : Ord)
    (scope : Scope) (evict : BitVec 3) (s : State) : Out :=
  let h := s.cur
  let bits := (Instr.vstw vs xb lev thr mask ord scope evict).bits.toNat
  let o := h.opnd vs
  let l := lev.toNat
  let idx := addrIdx (s.readX xb)
  let cols := h.columnMask mask o.tag l
  let q := (unitShape o.tag false).q
  let us := (s.vmPlaces vs xb 0).filter fun u => cols.getD (q * u.k) false
  let chk := firstTrap [
    h.opndCheck bits vs h.vl,
    failIf (!famIFQ.contains (tagFamily o.tag)) (trapTAG bits),
    failIf (o.dom != 0 && o.dom != l) (trapDOM h 3 l 0 0 o.dom),
    failIf (h.vl % (32 * 2 ^ l) != 0) (trapDOM h 1 l 0 0 o.dom),
    h.scalarPoison [xb],
    poisonTrap (h.selPoison mask h.vl ++ h.readPoison o cols)]
  let op : ColumnOp := ⟨o.dom == 0, false, if thr = 1 then some h.threshold else none⟩
  let w := h.workColumns op o l mask
  let arr := (if tagBlock o.tag then w.units else w.elems.map Elem.bits).toArray
  let stored := o.dom != 0 && thr == 0
  let data (u : UnitAcc) : List Byte := if stored then h.unitBytes o false u.k else coeffBytes o.tag arr u.k
  let mem : MemRes Unit :=
    if us.isEmpty then .ok () s
    else
      let (sp, s1) := s.space idx
      match actOnly s1 sp idx us with
      | some t => .trap t s1
      | none => s1.vmWriteIn sp ⟨idx, .write, false, false, false⟩ (some l) ord scope evict us data none
  memFinish 8 chk s mem fun _ s1 => s1.setCur ((s1.cur.addFlags w.flags).addZcnt w.zeros)

end Sys2Proof.Machine
end

