-- ==== Sys2Proof/Machine/Matrix.lean ====
section
/-! DEFINITION. Matrix instructions (R167-R180). A tile write is pending from its issue until it completes; a tile read
takes, entry by entry, a prefix of the pending writes (R170), which a free value chooses (DESIGN CHOICE, log entry 11). -/

namespace Sys2Proof.Machine

/-! ## Slots (R168) -/

/-- Whether an instruction counts in a slot of a wait mask. -/
def MatOp.awaited (wait : BitVec 16) (o : MatOp) : Bool :=
  match o.slot with
  | some k => wait.getLsbD k.toNat
  | none => false

/-- A matrix instruction waits until every slot of its wait mask holds zero: the instructions counted there complete. -/
def State.awaitSlots (s : State) (wait : BitVec 16) : State :=
  if wait = 0 then s else s.completeOps (MatOp.awaited wait)

/-- The set slot of an instruction. -/
def setSlot (slot : BitVec 4) (set : BitVec 1) : Option (BitVec 4) := if set = 1 then some slot else none

/-- A tile write issued. -/
def State.issueWrite (s : State) (tile : BitVec 3) (w : TileWrite) (slot : Option (BitVec 4)) : State :=
  s.setCur { s.cur with matq := s.cur.matq ++ [⟨tile, w, slot⟩] }

/-- The check that the tile is one of the hart's (R28). -/
def Hart.tileCheck (h : Hart) (bits : Nat) (tile : BitVec 3) : Option Trap :=
  failIf (decide (h.ntiles ≤ tile.toNat)) (trapACC bits)

/-- The `E_T` that a product or a row write uses: that of the latest `tclr`, completed or pending (R169). -/
def Hart.tileExp (h : Hart) (tile : BitVec 3) : Int :=
  let last := (writesTo tile.toNat h.matq).foldl (fun (e : BitVec 10) w => match w with
    | .clear e' => e'
    | _ => e) (h.tiles.getD tile.toNat .reset).eT
  last.toInt

/-- `tclr` (R172) -/
def execTclr (tile : BitVec 3) (exp : BitVec 10) (slot : BitVec 4) (set : BitVec 1) (wait : BitVec 16) (s : State) :
    Out :=
  let s1 := s.awaitSlots wait
  finish 8 (s1.cur.tileCheck (Instr.tclr tile exp slot set wait).bits.toNat tile) s1
    (s1.issueWrite tile (.clear exp) (setSlot slot set))

/-! ## Products (R173, R174) -/

/-- Block `k` of a product operand: of a block type, or an `HB` word of ±1 (R173). -/
def Hart.productBlock (h : Hart) (o : Opnd) (k : Nat) : Block :=
  if tagBlock o.tag then blockOf o.tag (h.unit o k)
  else ⟨0, false, (List.range 32).map fun t => if h.unit o (32 * k + t) % 2 = 1 then -1 else 1⟩

/-- The term that a product adds to an entry (R174). -/
def productTerm (a b : Block) (eT : Int) : Int :=
  let p := (List.zipWith (· * ·) a.ms b.ms).sum
  let e := a.e + b.e - eT
  if e < -40 then 0 else (roundInt .rne (decide (p < 0)) p.natAbs e).1

/-- A product: its operands and masks. -/
structure ProductSpec where
  tile : BitVec 3
  va : BitVec 6
  vb : BitVec 6
  am : BitVec 2
  bm : BitVec 2

/-- The active rows (R173). -/
def ProductSpec.rows (p : ProductSpec) (h : Hart) : List Nat :=
  let m := h.mask p.am.toNat
  (List.range (h.vl / 32)).filter fun i => m.getLsbD (32 * i)

/-- The active columns (R173, R174). -/
def ProductSpec.cols (p : ProductSpec) (h : Hart) : List Nat :=
  let m := h.mask p.bm.toNat
  let n := 2 ^ (h.opnd p.vb).dom
  (List.range 128).filter fun j => m.getLsbD (32 * n * (j / n))

/-- The poisoned words of the blocks that active rows or columns read (R174). -/
def Hart.blocksPoison (h : Hart) (o : Opnd) (ks : List Nat) : List PoisonHit :=
  if h.opndClean o then []
  else if tagBlock o.tag then ks.flatMap (h.unitPoison o)
  else ks.flatMap fun k => (List.range 32).flatMap fun t =>
    (h.unitPoison o (32 * k + t)).map fun x => { x with elem := 32 * k + t }

/-- The checks of a product (R171): its list has no length check for a Haar B, whose 128 columns cover whole Haar blocks
(R174; DEDUCED against R152, log entry 92). -/
def ProductSpec.check (p : ProductSpec) (bits : Nat) (h : Hart) : Option Trap :=
  let a := h.opnd p.va
  let b := h.opnd p.vb
  firstTrap [
    h.tileCheck bits p.tile,
    h.opndCheck bits p.va h.vl,
    h.opndCheck bits p.vb 32,
    failIf (!(tagBlock a.tag && tagBlock b.tag || decide (a.tag = .hb) && decide (b.tag = .hb))) (trapTAG bits),
    failIf (h.vl % 32 != 0 || decide (4096 < h.vl)) (trapILL bits),
    failIf (a.dom != 0) (trapDOM h 5 0 0 b.dom a.dom),
    poisonTrap (h.selPoison p.am h.vl ++ h.selPoison p.bm 4096 ++ h.blocksPoison a (p.rows h)
      ++ h.blocksPoison b (p.cols h))]

/-- The terms of a product that are not 0, by entry (R174). -/
def ProductSpec.terms (p : ProductSpec) (neg : Bool) (h : Hart) : List (Nat × Int) :=
  let e := h.tileExp p.tile
  let bs := (p.cols h).map fun j => (j, h.productBlock (h.opnd p.vb) j)
  (p.rows h).flatMap fun i =>
    let a := h.productBlock (h.opnd p.va) i
    bs.filterMap fun (j, b) =>
      let t := productTerm a b e
      if t = 0 then none else some (128 * i + j, if neg then -t else t)

/-- `NV` of a product: an `INV` block that takes part (R174). -/
def ProductSpec.flags (p : ProductSpec) (h : Hart) : Flags :=
  let rows := p.rows h
  let cols := p.cols h
  flagIf (!rows.isEmpty && !cols.isEmpty &&
    ((rows.any fun i => (h.productBlock (h.opnd p.va) i).inv) || cols.any fun j => (h.productBlock (h.opnd p.vb) j).inv))
    fNV

/-- `bpacc` and `bpsub` (R174). -/
def productExec (bits : Nat) (neg : Bool) (p : ProductSpec) (slot : Option (BitVec 4)) (wait : BitVec 16) (s : State) :
    Out :=
  let s1 := s.awaitSlots wait
  let h := s1.cur
  finish 8 (p.check bits h) s1
    ((s1.setCur (h.addFlags (p.flags h))).issueWrite p.tile (.add (p.terms neg h)) slot)

/-- `bpacc` (R173, R174) -/
def execBpacc (tile : BitVec 3) (va vb : BitVec 6) (am bm : BitVec 2) (slot : BitVec 4) (set : BitVec 1)
    (wait : BitVec 16) (s : State) : Out :=
  productExec (Instr.bpacc tile va vb am bm slot set wait).bits.toNat false ⟨tile, va, vb, am, bm⟩ (setSlot slot set)
    wait s

/-- `bpsub` (R173, R174) -/
def execBpsub (tile : BitVec 3) (va vb : BitVec 6) (am bm : BitVec 2) (slot : BitVec 4) (set : BitVec 1)
    (wait : BitVec 16) (s : State) : Out :=
  productExec (Instr.bpsub tile va vb am bm slot set wait).bits.toNat true ⟨tile, va, vb, am, bm⟩ (setSlot slot set)
    wait s

/-! ## Tile reads (R170, R177) -/

/-- An entry as a read takes it. -/
structure SeenEntry where
  entry : Nat
  val : Int
  eT : Int
  ovf : Bool
  poison : Bool
  deriving DecidableEq, Repr

/-- The tile after each prefix of its pending writes. -/
def Hart.tileVersions (h : Hart) (tile : BitVec 3) (n : Nat) : List Tile :=
  let ws := writesTo tile.toNat h.matq
  (List.range (ws.length + 1)).map fun k => applyWrites n [] (ws.take k) (h.tiles.getD tile.toNat .reset)

/-- Entries of a tile read: for each a prefix of the pending writes, freely chosen (R170). A pending `mld` on the tile
has performed its reads by then. -/
def State.readTile (s0 : State) (tile : BitVec 3) (es : List Nat) : List SeenEntry × State :=
  let s := s0.performLoads fun o => o.tile == tile
  let pending := writesTo tile.toNat s.cur.matq
  let (n, s1) := if pending.isEmpty then (0, s) else s.draw
  let vs := s1.cur.tileVersions tile n
  (es.zipIdx.map fun (e, i) =>
    let t := vs.getD (n / vs.length ^ i % vs.length) .reset
    ⟨e, (tget (0 : BitVec 48) t.acc e).toInt, t.eT.toInt, t.ovf, t.poison.contains e⟩, s1)

/-- The trap of a read that takes a poisoned entry (R177, R322). -/
def tilePoison (tile : BitVec 3) (xs : List SeenEntry) : Option Trap :=
  (xs.find? SeenEntry.poison).map fun x => { cause := cPOISON, erec1 := poisonRec 3 x.entry tile.toNat 0 }

/-- `FCSR.OF` for a read that sees `OVF` (R177). -/
def ovfFlag (xs : List SeenEntry) : Flags := flagIf (xs.any SeenEntry.ovf) fOF

/-- The exact value of an entry (R177). -/
def SeenEntry.value (x : SeenEntry) : Val := .num (decide (x.val < 0)) x.val.natAbs x.eT

/-- The checks of `mrd` and `mcol` (R171). -/
def Hart.tileReadCheck (h : Hart) (bits : Nat) (vd : BitVec 6) (tile : BitVec 3) (xb : BitVec 5) (o : Nat) :
    Option Trap :=
  let d := h.opnd vd
  firstTrap [
    h.tileCheck bits tile,
    h.opndCheck bits vd h.vl,
    failIf (decide (h.vl ≤ o) || decide (128 < h.vl - o)) (trapILL bits),
    destCheck bits vd d.tag h.vl,
    failIf (d.dom != 0 && h.vl % (32 * 2 ^ d.dom) != 0) (trapDOM h 1 d.dom d.dom 0 0),
    h.scalarPoison [xb]]

/-- The slice that starts at element `o` written in the destination's own tag (R177). -/
def Hart.writeSlice (h : Hart) (vd : BitVec 6) (o : Nat) (vs : List Val) : Hart :=
  let d := h.opnd vd
  let md := h.fpMode
  let grp := (groupFor d.tag h.vl).getD 0
  let g : Opnd := ⟨vd.toNat, d.tag, d.dom, grp⟩
  let pres := h.present g
  let stay (k : Nat) : Option (Nat × Bool) := some (if pres then h.unit g k else zeroUnit d.tag, true)
  let xs := vs.map (storeVal d.tag md)
  let res := List.replicate o none ++ xs.map fun x => some x.1
  let f := xs.foldl (fun f x => f ||| x.2) 0
  let low := (List.range (o / unitLen d.tag)).map stay
  if tagBlock d.tag then
    let (us, g') := h.resultBlocks g h.vl res
    (h.writeGroup vd d.tag d.dom grp h.vl (low ++ us.drop (o / 32))).addFlags (f ||| g')
  else
    (h.writeGroup vd d.tag d.dom grp h.vl (low ++ xs.map fun x => some (x.1.bits, false))).addFlags f

/-- `mrd` and `mcol` (R177): `place c t` is the entry of element `t`. -/
def tileReadExec (bits : Nat) (vd : BitVec 6) (tile : BitVec 3) (xb : BitVec 5) (wait : BitVec 16)
    (place : Nat → Nat → Nat) (s : State) : Out :=
  let s1 := s.awaitSlots wait
  let x := (s1.readX xb).toNat
  let o := 32 * bitsAt x 16 7
  match s1.cur.tileReadCheck bits vd tile xb o with
  | some t => .next (takeTrap t 8 s1)
  | none =>
    let (xs, s2) := s1.readTile tile ((List.range (s1.cur.vl - o)).map (place (x % 128)))
    finish 8 (tilePoison tile xs) s2
      (s2.setCur ((s2.cur.writeSlice vd o (xs.map SeenEntry.value)).addFlags (ovfFlag xs)))

/-- `mrd` (R177) -/
def execMrd (vd : BitVec 6) (tile : BitVec 3) (xb : BitVec 5) (slot : BitVec 4) (set : BitVec 1) (wait : BitVec 16)
    (s : State) : Out :=
  tileReadExec (Instr.mrd vd tile xb slot set wait).bits.toNat vd tile xb wait (fun c t => 128 * c + t) s

/-- `mcol` (R177) -/
def execMcol (vd : BitVec 6) (tile : BitVec 3) (xb : BitVec 5) (slot : BitVec 4) (set : BitVec 1) (wait : BitVec 16)
    (s : State) : Out :=
  tileReadExec (Instr.mcol vd tile xb slot set wait).bits.toNat vd tile xb wait (fun c t => 128 * t + c) s

/-! ## Tile rows written (R178) -/

/-- Least and greatest entry. -/
def entryMin : Int := -(2 ^ 47)
/-- Greatest entry. -/
def entryMax : Int := 2 ^ 47 - 1

/-- The entry that a value becomes, whether it was out of range, and the flags (R178). -/
def entryOf (eT : Int) : Val → Int × Bool × Flags
  | .num n m e =>
    let (z, inx) := roundInt .rne n m (e - eT)
    if entryMax < z then (entryMax, true, fNX) else if z < entryMin then (entryMin, true, fNX)
    else (z, false, flagIf inx fNX)
  | _ => (0, false, fNV)

/-- `mwr` (R178) -/
def execMwr (tile : BitVec 3) (va : BitVec 6) (xb : BitVec 5) (slot : BitVec 4) (set : BitVec 1) (wait : BitVec 16)
    (s : State) : Out :=
  let s1 := s.awaitSlots wait
  let h := s1.cur
  let bits := (Instr.mwr tile va xb slot set wait).bits.toNat
  let o := h.opnd va
  let d : Doms := { va := some o.dom, vb := none, vd := none }
  let all := List.replicate h.vl true
  let c := (h.readX xb).toNat % 128
  let (xs, f, rc) := h.readOperand o h.vl all
  let es := xs.map fun x => entryOf (h.tileExp tile) (x.val o.tag h.fpMode.ftz)
  let w := TileWrite.put (es.zipIdx.map fun (e, j) => (128 * c + j, BitVec.ofInt 48 e.1)) (es.any fun e => e.2.1)
  finish 8 (firstTrap [
      h.tileCheck bits tile,
      h.opndCheck bits va h.vl,
      failIf (decide (128 < h.vl)) (trapILL bits),
      d.lenCheck h,
      h.scalarPoison [xb],
      poisonTrap (h.readsPoison [⟨o, h.vl, all, true⟩])]) s1
    ((s1.setCur ((h.addFlags (es.foldl (fun g e => g ||| e.2.2) f)).addRcnt rc)).issueWrite tile w (setSlot slot set))

/-! ## Tiles and memory (R179) -/

/-- The rows of a tile transfer. -/
def State.tileRows (s : State) (xa xb : BitVec 5) : List UnitAcc :=
  (List.range (s.cur.vl / 128)).map fun r =>
    ⟨r, [r], ((s.readX xa).toNat % 2 ^ 40 : Nat) + (r : Int) * (s.readX xb).toInt, 1024, 8⟩

/-- The checks of `mld` and `mst` before memory (R171). -/
def Hart.tileMemCheck (h : Hart) (bits : Nat) (tile : BitVec 3) (xa xb : BitVec 5) : Option Trap :=
  firstTrap [h.tileCheck bits tile, failIf (h.vl % 128 != 0) (trapILL bits), h.scalarPoison [xa, xb]]

/-- The places of the doublewords of some pieces, in order (R240). -/
def sitesOf (ps : List Piece1) : List MatSite :=
  ps.flatMap fun p => (List.range (p.n / 8)).map fun i => match p.loc with
    | .pkg pa => .pkg (pa + 8 * i)
    | .scratch o => .scratch (o + 8 * i)
    | .host a => .host (a + 8 * i)
    | _ => .done

/-- The entries that the rows of an `mld` bring: each with the doubleword read at issue and its place (R179, R240). -/
def rowEntries (bs : List Byte) (sites : List MatSite) : List (Nat × Word × MatSite) :=
  sites.zipIdx.map fun (site, e) => (e, BitVec.ofNat 64 (leNat ((bs.drop (8 * e)).take 8)), site)

/-- The rows of a tile transfer checked and translated, with its space; without a row nothing is touched. -/
def State.reachRows (s : State) (p : AccSpec) (us : List UnitAcc) : MemRes (List Piece1) :=
  if us.isEmpty then .ok [] s
  else
    let (sp, s1) := s.space p.idx
    (s1.reachUnits p sp noMore [] [] us).bind fun pss s2 => .ok pss.flatten s2

/-- `mld` (R179): its rows are checked and read at issue; the reads perform until it completes (R240). -/
def execMld (tile : BitVec 3) (xa xb : BitVec 5) (slot : BitVec 4) (set : BitVec 1) (wait : BitVec 16) (s : State) :
    Out :=
  let s1 := s.awaitSlots wait
  let idx := addrIdx (s1.readX xa)
  memFinish 8 (s1.cur.tileMemCheck (Instr.mld tile xa xb slot set wait).bits.toNat tile xa xb) s1
    ((s1.reachRows ⟨idx, .read, false, false, false⟩ (s1.tileRows xa xb)).bind fun ps s2 =>
      (s2.readPieces idx 1 ps).bind fun bs s3 => .ok (rowEntries bs (sitesOf ps)) (s3.count idx ps []))
    fun es s2 => s2.issueWrite tile (.load es) (setSlot slot set)

/-- The entries that an `mst` takes of its tile, and whether one came with `OVF`: those that it took before it waited for
another device, or a read of the tile now, with the trap of a poisoned entry (R170, R177, R179). -/
def State.takeEntries (s : State) (tile : BitVec 3) (n : Nat) : Option Trap × List (BitVec 48) × Bool × State :=
  match s.cur.held with
  | some (vs, o) => (none, vs, o, s)
  | none =>
    let (xs, s1) := s.readTile tile (List.range n)
    let vs := xs.map fun x => BitVec.ofInt 48 x.val
    let o := xs.any SeenEntry.ovf
    (tilePoison tile xs, vs, o, s1.setCur { s1.cur with held := some (vs, o) })

/-- The bytes of a row of entries, each extended to a doubleword (R179). -/
def entryBytes (vs : List (BitVec 48)) : List Byte := vs.flatMap fun v => leBytes 8 (v.signExtend 64).toNat

/-- `mst` (R179): its tile read and its checks come at issue, its writes in memory until it completes (R240); those to
another device are over when it retires. A poisoned entry traps before the checks of the rows (DEDUCED, log entry 89). -/
def execMst (tile : BitVec 3) (xa xb : BitVec 5) (slot : BitVec 4) (set : BitVec 1) (wait : BitVec 16) (s : State) :
    Out :=
  let s1 := s.awaitSlots wait
  match s1.cur.tileMemCheck (Instr.mst tile xa xb slot set wait).bits.toNat tile xa xb with
  | some t => .next (takeTrap t 8 s1)
  | none =>
    let us := s1.tileRows xa xb
    let idx := addrIdx (s1.readX xa)
    let (chk, vs, o, s2) := s1.takeEntries tile (128 * us.length)
    memFinish 8 chk s2
      ((s2.reachRows ⟨idx, .write, false, false, false⟩ us).bind fun ps s3 =>
        (s3.admitDevices 0 idx 2 ps).bind fun _ s4 =>
          let ws := us.map fun u => (u.off, entryBytes ((vs.drop (128 * u.k)).take 128))
          .ok ps (((ps.foldl State.noteLc s4).postDevices (writeReqs ws ps)).count idx ps ps))
      fun ps s3 =>
        (s3.setCur { s3.cur.addFlags (flagIf o fOF) with held := none }).issueWrite tile
          (.store ((sitesOf ps).zip (vs.map fun v => v.signExtend 64))) (setSlot slot set)

/-- `mwait` (R168): with an empty mask it waits for all matrix work. Every earlier `mld` and `mst` performs, whatever the mask
(R240). -/
def execMwait (_slot : BitVec 4) (wait : BitVec 16) (s : State) : Out :=
  .next (retire 8 (if wait = 0 then s.drainMatrix
    else s.completeOps fun o => o.awaited wait || o.inMemory))

/-- MATRIX_COMPLETE (R168, R169): the `n`-th pending matrix instruction of context `k` completes, and with it the
earlier ones on its tile. -/
def execMatrixComplete (k : CtxKey) (n : Nat) (s : State) : Out :=
  .next (s.onHart k fun s1 =>
    match s1.cur.matq[n]? with
    | none => s1
    | some op =>
      let rest := s1.cur.matq.drop (n + 1)
      let s2 := { s1 with cur := { s1.cur with matq := s1.cur.matq.take (n + 1) } }
      let s3 := s2.completeOps fun o => o.tile == op.tile
      { s3 with cur := { s3.cur with matq := s3.cur.matq ++ rest } })

end Sys2Proof.Machine
end

