-- ==== Sys2Proof/Machine/Hyper.lean ====
section
/-! DEFINITION. Hypervector instructions (R181-R196). -/

namespace Sys2Proof.Machine

/-! ## Operands (R181) -/

/-- Whether an operand is a hypervector. -/
def Opnd.isHyper (o : Opnd) : Bool := decide (o.tag = .hb) && o.grp == 0

/-- The checks of R181: the operands read, whether their tags are accepted, the length, and a counter group with the
place of its domain in the record. -/
def Hart.hyperCheck (h : Hart) (bits : Nat) (reads : List (BitVec 6)) (tags : Bool) (dom : Option Trap) : Option Trap :=
  firstTrap [
    firstTrap (reads.map fun r => h.opndCheck bits r h.vl),
    failIf (!tags) (trapTAG bits),
    failIf (h.vl != 16384) (trapILL bits),
    dom]

/-- The bits of a hypervector, element 0 lowest; from its valid length up they are 0 (R21). -/
def Hart.hyperBits (h : Hart) (r : BitVec 6) : Nat :=
  let v := h.vreg r.toNat
  v.bits.toNat % 2 ^ v.desc.valen.toNat

/-- A hypervector result: `f i` for each active element. -/
def Hart.writeHyper (h : Hart) (vd : BitVec 6) (mask : BitVec 2) (f : Nat → Nat) : Hart :=
  let m := h.mask mask.toNat
  h.writeGroup vd .hb 0 0 h.vl
    ((List.range h.vl).map fun i => if m.getLsbD i then some (f i, false) else none)

/-! ## In registers (R182-R188) -/

/-- `hbind` (R183) -/
def execHbind (vd va vb : BitVec 6) (mask : BitVec 2) (s : State) : Out :=
  let h := s.cur
  let act := h.active mask h.vl
  let x := h.hyperBits va ^^^ h.hyperBits vb
  finish 4 (firstTrap [
      h.hyperCheck (Instr.hbind vd va vb mask).bits.toNat [va, vb] ((h.opnd va).isHyper && (h.opnd vb).isHyper) none,
      poisonTrap (h.selPoison mask h.vl ++ h.readPoison (h.opnd va) act ++ h.readPoison (h.opnd vb) act)]) s
    (s.setCur (h.writeHyper vd mask fun i => bitsAt x i 1))

/-- A counter after one bit (R185). -/
def countBit (c : Int) (b : Nat) : Int := min 127 (max (-128) (c + if b = 0 then 1 else -1))

/-- `hbundle` (R185) -/
def execHbundle (vd va : BitVec 6) (mask : BitVec 2) (s : State) : Out :=
  let h := s.cur
  let d := h.opnd vd
  let act := h.active mask h.vl
  let x := h.hyperBits va
  finish 4 (firstTrap [
      h.hyperCheck (Instr.hbundle vd va mask).bits.toNat [va, vd] ((h.opnd va).isHyper && decide (d.tag = .s8))
        (failIf (d.dom != 0) (trapDOM h 3 0 d.dom 0 0)),
      poisonTrap (h.selPoison mask h.vl ++ h.readPoison (h.opnd va) act ++ h.readPoison d act)]) s
    (s.setCur (h.writeGroup vd .s8 0 3 h.vl (act.zipIdx.map fun (a, i) =>
      if a then some (wrap 8 (countBit (intOf .s8 (h.unit d i)) (bitsAt x i 1)), false) else none)))

/-- `hmaj` (R186): every active word of the tie vector is read, whatever the counters are (DEDUCED, log entry 90). -/
def execHmaj (vd va vb : BitVec 6) (mask : BitVec 2) (s : State) : Out :=
  let h := s.cur
  let a := h.opnd va
  let act := h.active mask h.vl
  let x := h.hyperBits vb
  finish 4 (firstTrap [
      h.hyperCheck (Instr.hmaj vd va vb mask).bits.toNat [va, vb] (decide (a.tag = .s8) && (h.opnd vb).isHyper)
        (failIf (a.dom != 0) (trapDOM h 3 0 0 0 a.dom)),
      poisonTrap (h.selPoison mask h.vl ++ h.readPoison a act ++ h.readPoison (h.opnd vb) act)]) s
    (s.setCur (h.writeHyper vd mask fun i =>
      let c := intOf .s8 (h.unit a i)
      if 0 < c then 0 else if c < 0 then 1 else bitsAt x i 1))

/-- `hperm` (R184): a poisoned word is recorded with the source element that lies in it (DESIGN CHOICE, log entry 91). -/
def execHperm (vd va : BitVec 6) (xb : BitVec 5) (mask : BitVec 2) (s : State) : Out :=
  let h := s.cur
  let k := (h.readX xb).toNat % 16384
  let act := h.active mask h.vl
  let x := h.hyperBits va
  let src (i : Nat) : Nat := (i + 16384 - k) % 16384
  let read := (List.range 16384).map fun j => act.getD ((j + k) % 16384) false
  finish 4 (firstTrap [
      h.hyperCheck (Instr.hperm vd va xb mask).bits.toNat [va] (h.opnd va).isHyper none,
      h.scalarPoison [xb],
      poisonTrap (h.selPoison mask h.vl ++ h.readPoison (h.opnd va) read)]) s
    (s.setCur (h.writeHyper vd mask fun i => bitsAt x (src i) 1))

/-- The number of 1 bits among the low `k` bits of `n`. -/
def popc : Nat → Nat → Nat
  | 0, _ => 0
  | k + 1, n => n % 2 + popc k (n / 2)

/-- `hsim` (R187) -/
def execHsim (xd : BitVec 5) (va vb : BitVec 6) (mask : BitVec 2) (s : State) : Out :=
  let h := s.cur
  let act := h.active mask h.vl
  let x := (h.hyperBits va ^^^ h.hyperBits vb) &&& (h.mask mask.toNat).toNat
  finish 4 (firstTrap [
      h.hyperCheck (Instr.hsim xd va vb mask).bits.toNat [va, vb] ((h.opnd va).isHyper && (h.opnd vb).isHyper) none,
      poisonTrap (h.selPoison mask h.vl ++ h.readPoison (h.opnd va) act ++ h.readPoison (h.opnd vb) act)]) s
    (s.writeX xd (BitVec.ofNat 64 (popc 16384 x)))

/-- One step of xorshift64 (R188). -/
def xorshift (s : Word) : Word :=
  let a := s ^^^ (s <<< 13)
  let b := a ^^^ (a >>> 7)
  b ^^^ (b <<< 17)

/-- The words of `hrand` joined, word 0 lowest (R188). -/
def randBits : Nat → Word → Nat
  | 0, _ => 0
  | n + 1, s => let t := xorshift s; t.toNat + 2 ^ 64 * randBits n t

/-- `hrand` (R188) -/
def execHrand (vd : BitVec 6) (xb : BitVec 5) (mask : BitVec 2) (s : State) : Out :=
  let h := s.cur
  let x := randBits 256 (h.readX xb)
  finish 4 (firstTrap [
      h.hyperCheck (Instr.hrand vd xb mask).bits.toNat [] (decide ((h.opnd vd).tag ≠ .none)) none,
      h.scalarPoison [xb],
      poisonTrap (h.selPoison mask h.vl)]) s
    (s.setCur (h.writeHyper vd mask fun i => bitsAt x i 1))

/-! ## Item memories (R189-R192) -/

/-- The lines of item `k` at offset `off`, with the record's coordinates: word, item, and the factor if there is one. -/
def itemUnits (off k : Nat) (factor : List Nat) : List UnitAcc :=
  (lineCuts off 2048).map fun (o, n) => ⟨k, (o - off) / 4 :: k :: factor, (o : Nat), n, 4⟩

/-- Bytes read by an instruction that reads several times, with the pieces that it has to count. Every unit is checked, and
those pieces are read that `use` chooses. -/
def State.rawRead (s : State) (base idx : Nat) (use : Piece1 → Bool) (us : List UnitAcc) :
    MemRes (List Byte × List Piece1) :=
  let (sp, s1) := s.space idx
  (s1.reachUnits ⟨idx, .read, false, false, false⟩ sp noMore [] [] us).bind fun pss s2 =>
    let ps := pss.flatten.filter use
    (s2.readPiecesAt base idx 1 true ps).bind fun bs s3 => .ok (bs, ps) s3

/-- Every piece. -/
def allPieces : Piece1 → Bool := fun _ => true

/-- Items of 2048 bytes as numbers. -/
def itemsOf : Nat → List Byte → List Nat
  | 0, _ => []
  | n + 1, bs => leNat (bs.take 2048) :: itemsOf n (bs.drop 2048)

/-- The units of an item memory at address value `a`, item by item. -/
def memoryUnits (a : Word) (n : Nat) (factor : List Nat) : List UnitAcc :=
  (List.range n).flatMap fun k => itemUnits (a.toNat % 2 ^ 40 + 2048 * k) k factor

/-- The items of an item memory at address value `a`. -/
def State.readItems (s : State) (base : Nat) (a : Word) (n : Nat) (factor : List Nat) :
    MemRes (List Nat × List Piece1) :=
  (s.rawRead base (addrIdx a) allPieces (memoryUnits a n factor)).bind fun (bs, ps) s1 => .ok (itemsOf n bs, ps) s1

/-- An item memory checked of which item `k` alone is read; the others stand as 0. -/
def State.readItem (s : State) (base : Nat) (a : Word) (n k : Nat) (factor : List Nat) : MemRes (List Nat × List Piece1) :=
  (s.rawRead base (addrIdx a) (fun p => p.coords.getD 1 0 == k) (memoryUnits a n factor)).bind fun (bs, ps) s1 =>
    .ok (List.replicate k 0 ++ itemsOf 1 bs, ps) s1

/-- The accesses of an instruction counted: those to the views, then the others (R261). -/
def State.countAll (s : State) (acc : List (Nat × List Piece1)) : State :=
  let (vs, ms) := acc.partition fun a => viewIndex a.1
  (s.count 1 (vs.flatMap Prod.snd) []).count 0 (ms.flatMap Prod.snd) []

/-- What a clean-up finds (R190): the nearest item and the runner-up, each with its distance. -/
structure Cleaned where
  k1 : Nat
  d1 : Nat
  k2 : Nat
  d2 : Nat
  deriving DecidableEq, Repr

/-- Whether the two nearest items tie; the distance 0x7FFF stands for no second item. -/
def Cleaned.tie (c : Cleaned) : Bool := c.d2 == c.d1

/-- One more item at distance `d`. -/
def Cleaned.next (c : Cleaned) (k d : Nat) : Cleaned :=
  if d < c.d1 then ⟨k, d, c.k1, c.d1⟩
  else if d < c.d2 then { c with k2 := k, d2 := d }
  else c

/-- The clean-up of a hypervector against items numbered from `k` up (R190). -/
def cleanFrom (u : Nat) : Nat → List Nat → Cleaned → Cleaned
  | _, [], c => c
  | k, x :: xs, c => cleanFrom u (k + 1) xs (c.next k (popc 16384 (u ^^^ x)))

/-- The clean-up of a hypervector (R190). -/
def cleanUp (u : Nat) : List Nat → Cleaned
  | [] => ⟨0, 0, 0x7FFF, 0x7FFF⟩
  | x :: xs => cleanFrom u 1 xs ⟨0, popc 16384 (u ^^^ x), 0x7FFF, 0x7FFF⟩

/-- The clean-up registers written (R190, R195). -/
def Hart.setClean (h : Hart) (dist k2 d2 : Nat) (tie : Bool) : Hart :=
  let far := decide (h.csr.hcthr.toNat < dist)
  { h with csr := { h.csr with
    hcdist := BitVec.ofNat 15 dist
    hcidx2 := BitVec.ofNat 15 k2
    hcdist2 := BitVec.ofNat 15 d2
    hcflags := BitVec.ofNat 2 (bit far * 2 + bit tie) } }

/-- The poisoned words of a hypervector that is read whole. -/
def Hart.hyperPoison (h : Hart) (va : BitVec 6) : Option Trap :=
  poisonTrap (h.readPoison (h.opnd va) (List.replicate 16384 true))

/-- `hclean` (R190, R191) -/
def execHclean (xd : BitVec 5) (va : BitVec 6) (xb xn : BitVec 5) (s : State) : Out :=
  let h := s.cur
  let bits := (Instr.hclean xd va xb xn).bits.toNat
  let a := h.readX xb
  let n := (h.readX xn).toNat
  memFinish 8 (firstTrap [
      h.hyperCheck bits [va] (h.opnd va).isHyper none,
      failIf (n == 0 || decide (32768 < n)) (trapILL bits),
      h.scalarPoison [xb, xn],
      h.hyperPoison va]) s
    ((s.readItems 0 a n []).bind fun (items, ps) s1 =>
      .ok (cleanUp (h.hyperBits va) items) (s1.countAll [(addrIdx a, ps)]))
    fun c s1 => s1.setCur ((s1.cur.setClean c.d1 c.k2 c.d2 c.tie).writeX xd (BitVec.ofNat 64 c.k1))

/-! ## Factorisation (R193-R195) -/

/-- A factorisation under way: the indices, the tuples of earlier sweeps, latest first, and what the last sweep told. -/
structure Factoring where
  idx : List Nat
  hist : List (List Nat)
  last : Cleaned
  tie : Bool
  out : Nat
  deriving DecidableEq, Repr

/-- The composite unbound by the estimates of every factor but `f` (R194). -/
def unbindAll (va : Nat) (books : List (List Nat)) (idx : List Nat) (skip : Option Nat) : Nat :=
  (books.zip idx).zipIdx.foldl (fun u ((b, k), g) => if skip = some g then u else u ^^^ b.getD k 0) va

/-- The factors from `f` up of one sweep: whether an index changed. -/
def sweepFrom (va : Nat) (books : List (List Nat)) : Nat → Nat → Factoring → Bool → Factoring × Bool
  | 0, _, x, changed => (x, changed)
  | n + 1, f, x, changed =>
    let c := cleanUp (unbindAll va books x.idx (some f)) (books.getD f [])
    let moved := c.k1 != x.idx.getD f 0
    sweepFrom va books n (f + 1) { x with idx := x.idx.set f c.k1, last := c, tie := x.tie || c.tie } (changed || moved)

/-- The sweeps (R194), at most `lim`. -/
def sweeps (va : Nat) (books : List (List Nat)) : Nat → Factoring → Factoring
  | 0, x => x
  | lim + 1, x =>
    let (y, changed) := sweepFrom va books books.length 0 { x with tie := false } false
    if !changed then { y with out := if y.tie then 3 else 0 }
    else if ((y.hist.drop 1).take 15).contains y.idx then { y with out := 2 }
    else sweeps va books lim { y with hist := y.idx :: y.hist }

/-- The factorisation (R194). -/
def factorise (va : Nat) (books : List (List Nat)) (init : List Nat) (lim : Nat) : Factoring :=
  sweeps va books lim ⟨init, [init], ⟨0, 0, 0x7FFF, 0x7FFF⟩, false, 1⟩

/-- `x[xd]` of `hfact` (R195). -/
def Factoring.word (x : Factoring) : Word :=
  BitVec.ofNat 64 (x.out * 2 ^ 60 + x.idx.zipIdx.foldl (fun n (k, f) => n + k % 2 ^ 15 * 2 ^ (15 * f)) 0)

/-- One line of the factor table (R193). -/
structure FactorLine where
  addr : Word
  n : Nat
  init : Nat
  deriving DecidableEq, Repr

/-- The lines of the factor table. -/
def factorLines : Nat → List Byte → List FactorLine
  | 0, _ => []
  | k + 1, bs =>
    ⟨BitVec.ofNat 64 (leNat (bs.take 8)), leNat ((bs.drop 8).take 4), leNat ((bs.drop 12).take 2)⟩
      :: factorLines k (bs.drop 16)

/-- The codebooks checked and read in factor order, with the pieces touched: an uncorrectable error in one comes before the
checks of the next (R191; DESIGN CHOICE, log entry 99). Without a sweep only the initial items are read (R195, R196). -/
def State.readBooks (s : State) (sweep : Bool) :
    Nat → List FactorLine → MemRes (List (List Nat) × List (Nat × List Piece1))
  | _, [] => .ok ([], []) s
  | f, l :: ls =>
    (if sweep then s.readItems (16 + f * 2 ^ 24) l.addr l.n [f]
      else s.readItem (16 + f * 2 ^ 24) l.addr l.n l.init [f]).bind fun (items, ps) s1 =>
      (s1.readBooks sweep (f + 1) ls).bind fun (bs, acc) s2 => .ok (items :: bs, (addrIdx l.addr, ps) :: acc) s2

/-- The table and the codebooks of `hfact` read, with the checks of R193. -/
def State.readFactors (s : State) (bits : Nat) (a : Word) (lim : Nat) :
    MemRes (List (List Nat) × List Nat) :=
  let idx := addrIdx a
  let off := a.toNat % 2 ^ 40
  (s.rawRead 0 idx allPieces [⟨0, [], (off : Nat), 8, 8⟩]).bind fun (b0, p0) s1 =>
    let fc := leNat (b0.take 4)
    if fc < 2 || 4 < fc || 65535 < lim then .trap (trapILL bits) s1
    else
      (s1.rawRead 8 idx allPieces [⟨0, [], (off + 8 : Nat), 16 * fc, 8⟩]).bind fun (b1, p1) s2 =>
        let ls := factorLines fc b1
        if ls.any fun l => l.n == 0 || decide (32768 < l.n) || decide (l.n ≤ l.init) then .trap (trapILL bits) s2
        else
          (s2.readBooks (lim != 0) 0 ls).bind fun (books, acc) s3 =>
            .ok (books, ls.map FactorLine.init) (s3.countAll ((idx, p0 ++ p1) :: acc))

/-- `hfact` (R191-R195) -/
def execHfact (xd : BitVec 5) (va : BitVec 6) (xb xn : BitVec 5) (s : State) : Out :=
  let h := s.cur
  let bits := (Instr.hfact xd va xb xn).bits.toNat
  let lim := (h.readX xn).toNat
  let v := h.hyperBits va
  memFinish 8 (firstTrap [
      h.hyperCheck bits [va] (h.opnd va).isHyper none,
      h.scalarPoison [xb, xn],
      h.hyperPoison va]) s
    (s.readFactors bits (h.readX xb) lim)
    fun (books, init) s1 =>
      let x := factorise v books init lim
      let d := popc 16384 (unbindAll v books x.idx none)
      s1.setCur ((s1.cur.setClean d x.last.k2 x.last.d2 x.tie).writeX xd x.word)

end Sys2Proof.Machine
end

