-- ==== Sys2Proof/Machine/Keccak.lean ====
section
/-! DEFINITION. SHAKE256, the hash that R338, R355 and R359 name (its definition is FIPS 202; PRESUMED, log entry 10): the
state and the message are numbers, bit 0 first, so that absorbing a block is one exclusive or. -/

namespace Sys2Proof.Machine

/-- The 64 bits of column `(x, y)` of the 1600-bit state. -/
def laneOf (a : BitVec 1600) (x y : Nat) : Word := a.extractLsb' (64 * (5 * (y % 5) + x % 5)) 64

/-- The 1600-bit state made of 25 lanes. -/
def ofLanes (f : Nat → Nat → Word) : BitVec 1600 :=
  (List.range 25).foldl (fun a i => a ||| ((f (i % 5) (i / 5)).setWidth 1600 <<< (64 * i))) 0

/-- The parity of a sheet. -/
def sheetParity (a : BitVec 1600) (x : Nat) : Word := (List.range 5).foldl (fun w y => w ^^^ laneOf a x y) 0

/-- `θ`: every lane takes the parities of two neighbouring sheets. -/
def stepTheta (a : BitVec 1600) : BitVec 1600 :=
  ofLanes fun x y => laneOf a x y ^^^ sheetParity a (x + 4) ^^^ (sheetParity a (x + 1)).rotateLeft 1

/-- The lane that `ρ` reaches after `t` moves of its walk. -/
def rhoWalk : Nat → Nat × Nat
  | 0 => (1, 0)
  | t + 1 => let (x, y) := rhoWalk t; (y, (2 * x + 3 * y) % 5)

/-- The rotation of a lane: the triangular number of its place in the walk; 0 for the lane the walk never meets. -/
def rhoShift (x y : Nat) : Nat :=
  match (List.range 24).find? fun t => rhoWalk t == (x % 5, y % 5) with
  | some t => (t + 1) * (t + 2) / 2
  | none => 0

/-- `ρ` and `π`: the rotated lanes change places. -/
def stepRhoPi (a : BitVec 1600) : BitVec 1600 :=
  ofLanes fun x y => (laneOf a (x + 3 * y) x).rotateLeft (rhoShift (x + 3 * y) x)

/-- `χ`: the one step that is not linear. -/
def stepChi (a : BitVec 1600) : BitVec 1600 :=
  ofLanes fun x y => laneOf a x y ^^^ (~~~(laneOf a (x + 1) y) &&& laneOf a (x + 2) y)

/-- The feedback register that gives the round constants, after `t` shifts. -/
def iotaReg : Nat → Nat
  | 0 => 1
  | t + 1 => let r := 2 * iotaReg t; if 256 ≤ r then (r - 256) ^^^ 0x71 else r

/-- `ι` of round `r`: the register's bit `j + 7r` goes to bit `2^j - 1` of the first lane. -/
def stepIota (r : Nat) (a : BitVec 1600) : BitVec 1600 :=
  (List.range 7).foldl (fun a j => a ^^^ (BitVec.ofNat 1600 (iotaReg (j + 7 * r) % 2) <<< (2 ^ j - 1))) a

/-- The permutation: 24 rounds. -/
def keccakP (a : BitVec 1600) : BitVec 1600 :=
  (List.range 24).foldl (fun a r => stepIota r (stepChi (stepRhoPi (stepTheta a)))) a

/-- The state after `k` blocks of 1088 bits of a padded message. -/
def absorbBlocks (msg : Nat) (k : Nat) : BitVec 1600 :=
  (List.range k).foldl (fun a i => keccakP (a ^^^ BitVec.ofNat 1600 (bitsAt msg (1088 * i) 1088))) 0

/-- `k` blocks of output as one number. -/
def squeezeBlocks : Nat → BitVec 1600 → Nat
  | 0, _ => 0
  | k + 1, a => a.toNat % 2 ^ 1088 + 2 ^ 1088 * squeezeBlocks k (keccakP a)

/-- The first `n` bytes of SHAKE256 of a byte string: the message is followed by five ones, zeros and a last one. -/
def shake256 (n : Nat) (m : List Byte) : List Byte :=
  let k := m.length / 136 + 1
  let msg := leNat m + 0x1F * 2 ^ (8 * m.length) + 2 ^ (1088 * k - 1)
  leBytes n (squeezeBlocks (n / 136 + 1) (absorbBlocks msg k))

end Sys2Proof.Machine
end

