-- ==== Sys2Proof/Machine/Coll.lean ====
section
/-! DEFINITION. Collectives (R219-R224), the group table (R345), the reduction tree and its digest (R337, R338), the
combining point's bitmap (R339). -/

namespace Sys2Proof

/-- Whether two contributions agree in what R224 compares. -/
def Contribution.agrees (a b : Contribution) : Bool :=
  a.fn == b.fn && a.op == b.op && a.root == b.root && decide (a.tag = b.tag) && a.vl == b.vl && a.span == b.span

end Sys2Proof

namespace Sys2Proof.Machine

/-! ## Groups (R220) -/

/-- `gset` (R220): a value that names no registered group traps `GROUP`. -/
def execGset (gk : BitVec 3) (xa : BitVec 5) (s : State) : Out :=
  let v := s.readX xa
  let g : Group := if v = 0 then .reset else { Group.ofWord v.toNat with val := true }
  finish 8 (firstTrap [
      s.cur.scalarPoison [xa],
      failIf (v ≠ 0 && !s.inGroup g) { cause := cGROUP, erec1 := v.toNat }]) s
    (s.setCur { s.cur with g := s.cur.g.setIfInBounds gk.toNat g })

/-! ## The reduction tree (R337, R338) -/

/-- Two partial sums added; an absent one leaves the other unchanged. -/
def joinSums : Option SumTree → Option SumTree → Option SumTree
  | none, b => b
  | a, none => a
  | some a, some b => some (.node a b)

/-- The halvings from `2^k` entries down to one (R337 step 1). -/
def halveSums : Nat → List (Option SumTree) → Option SumTree
  | 0, l => (l.headD none)
  | k + 1, l => halveSums k ((List.range (2 ^ k)).map fun i => joinSums (l.getD i none) (l.getD (i + 2 ^ k) none))

/-- The tree of one device's members, by increasing rank (R337 step 1). -/
def deviceTree (ms : List Nat) : Option SumTree := halveSums (clog2 ms.length) (ms.map fun m => some (.leaf m))

/-- The parents of devices in a spanning tree: `n` chooses, for each further device, one that is already in the tree. -/
def spanning : Nat → List Nat → List Nat → List (Nat × Nat)
  | _, _, [] => []
  | n, inside, d :: ds =>
    (d, inside.getD (n % inside.length) 0) :: spanning (n / inside.length) (inside ++ [d]) ds

/-- The partial of a device with its child subtrees, by increasing device (R337 step 2). -/
def subtree (own : Nat → Option SumTree) (parents : List (Nat × Nat)) (devs : List Nat) : Nat → Nat → Option SumTree
  | 0, d => own d
  | fuel + 1, d =>
    ((devs.filter fun c => parents.contains (c, d)).map (subtree own parents devs fuel)).foldl joinSums (own d)

/-- The tree of a group (R337): the routes choose the spanning tree over its devices, rooted at the device of rank 0
(DESIGN CHOICE, log entry 26). -/
def State.groupTree (s : State) (ranks : List Rank) : Option SumTree :=
  let dev (m : Nat) : Nat := ((ranks.map fun r => r.dev.toNat).getD m 0)
  let devs := (ranks.map fun r => r.dev.toNat).mergeSort.eraseDups
  let root := dev 0
  let n := Config.routeTree s.routes devs
  let others := devs.filter (· ≠ root)
  let parents := spanning (n / 2 ^ 64) [root] (arrange others.length (n % 2 ^ 64) others)
  subtree (fun d => deviceTree ((List.range ranks.length).filter fun m => dev m == d)) parents devs devs.length root

/-- The string of a tree (R338). -/
def SumTree.encode : SumTree → List Byte
  | .leaf m => leBytes 2 m
  | .node a b => a.encode ++ b.encode ++ [0xFF, 0xFF]

/-- `EPACT` of a tree (R338). -/
def SumTree.epact (t : SumTree) : Word := BitVec.ofNat 64 (leNat (shake256 8 t.encode))

/-- The sum of one element along a tree (R223): `RNE`, subnormals as they stand. -/
def SumTree.sum (t : Tag) (x : Nat → Nat) : SumTree → Nat × Flags
  | .leaf m => (x m, 0)
  | .node a b =>
    let (u, f) := a.sum t x
    let (v, g) := b.sum t x
    let (r, e) := laneElem .add t ⟨.rne, false⟩ (.raw u) (.raw v) (.raw 0)
    (r.bits, f ||| g ||| e)

/-! ## Open collectives (R224, R339) -/

/-- The collective that is open under a group and a sequence number. -/
def Partition.coll? (p : Partition) (gid seq : BitVec 16) : Option Coll :=
  p.colls.find? fun c => decide (c.gid = gid) && decide (c.seq = seq)

/-- The partition with an open collective changed. -/
def Partition.updColl (p : Partition) (gid seq : BitVec 16) (f : Coll → Coll) : Partition :=
  { p with colls := p.colls.map fun c => if c.gid = gid && c.seq = seq then f c else c }

/-- Whether member and chunk have their bit set (R339). -/
def Coll.has (c : Coll) (m k : Nat) : Bool := c.pieces.any fun x => x.member == m && x.chunk == k

/-- A contribution received (R339): a duplicate is discarded whole. -/
def Coll.receive (c : Coll) (x : Piece) : Coll :=
  if c.has x.member x.chunk then c
  else { c with
    pieces := c.pieces ++ [x]
    bad := c.bad || c.pieces.any fun y => !y.c.agrees x.c }

/-- A contribution received by a partition, in its collective or in one that it opens. -/
def Partition.contribute (p : Partition) (gid seq : BitVec 16) (size : Nat) (x : Piece) : Partition :=
  match p.coll? gid seq with
  | some _ => p.updColl gid seq fun c => c.receive x
  | none =>
    { p with colls := p.colls ++ [(Coll.mk gid seq size [] [] false none []).receive x] }

/-- The collectives that are open on this device. -/
def State.openColls (s : State) : Nat := (s.parts.map fun x => x.2.colls.length).sum

/-- A contribution received (R339): it opens its collective when it is the first and one of the device's 64 is free; else
it waits in the fabric. -/
def State.contribute (s : State) (part : Nat) (gid seq : BitVec 16) (size : Nat) (x : Piece) : State :=
  let p := s.part part
  if (p.coll? gid seq).isNone && decide (64 ≤ s.openColls) then s
  else s.setPart part (p.contribute gid seq size x)

/-- The units that a member has sent, its chunks in order. -/
def Coll.units (c : Coll) (m : Nat) : List Nat :=
  let mine := c.pieces.filter fun x => x.member == m
  (List.range (mine.foldl (fun k x => max k (x.chunk + 1)) 0)).flatMap fun k =>
    ((mine.find? fun x => x.chunk == k).map fun x => x.c.units).getD []

/-- The units of a whole contribution (R222: it is sent whole). -/
def unitCount (c : Contribution) : Nat := c.vl / unitLen c.tag

/-- Whether every member's contribution is in. -/
def Coll.complete (c : Coll) : Bool :=
  match c.pieces with
  | [] => false
  | x :: _ => (List.range c.size).all fun m => c.pieces.any (fun y => y.member == m) &&
      decide (unitCount x.c ≤ (c.units m).length)

/-- Whether a rank of this device is killed. -/
def State.rankKilled (s : State) (part : Nat) (r : Rank) : Bool :=
  decide (r.dev = s.devid) && ((s.part part).task r.task.toNat).killed.contains r.member

/-- Whether member `m` of a group is known to be killed (R224): here, or by the notice of another device. -/
def State.memberKilled (s : State) (part : Nat) (gid : BitVec 16) (r : Rank) (m : Nat) : Bool :=
  s.rankKilled part r || (s.part part).lost.contains (gid, m)

/-- Whether a member's contribution has arrived. -/
def Coll.heard (c : Coll) (m : Nat) : Bool := c.pieces.any fun x => x.member == m

/-- Whether the collective fails (R224): contributions disagree, or a member was killed before it contributed. -/
def State.collFails (s : State) (part : Nat) (c : Coll) (ranks : List Rank) : Bool :=
  c.bad || (ranks.zipIdx.any fun (r, m) => s.memberKilled part c.gid r m && !c.heard m)

/-- Whether the combining points add floats, along a tree (R223). -/
def sumsFloats (k : Contribution) : Bool := k.fn == 0 && k.op == 0 && tagFamily k.tag == .float

/-- What member `r` receives (R222, R223): the units, the flags and `EPACT`. A float sum follows `tree`. -/
def Coll.result (c : Coll) (k : Contribution) (tree : Option SumTree) (r : Nat) : List Nat × Flags × Word :=
  let b := k.span / unitLen k.tag
  let us := (List.range c.size).map c.units
  let at' (m i : Nat) : Nat := (us.getD m []).getD i 0
  match k.fn with
  | 0 =>
    let n := unitCount k
    if sumsFloats k then
      match tree with
      | none => ([], 0, 0)
      | some t =>
        let out := (List.range n).map fun i => t.sum k.tag fun m => at' m i
        (out.map Prod.fst, out.foldl (fun f x => f ||| x.2) 0, t.epact)
    else
      let op : LaneOp := match k.op with
        | 0 => .add
        | 1 => .min
        | 2 => .max
        | 3 => .and
        | 4 => .or
        | _ => .xor
      let out := (List.range n).map fun i =>
        foldOrd op k.tag ⟨.rne, false⟩ (.raw (at' 0 i)) ((List.range (c.size - 1)).map fun m => some (.raw (at' (m + 1) i)))
      (out.map fun x => x.1.bits, out.foldl (fun f x => f ||| x.2) 0, 0)
  | 1 => ((List.range c.size).flatMap fun m => (List.range b).map (at' m), 0, 0)
  | 2 => ((List.range b).map fun t => at' k.root (r * b + t), 0, 0)
  | 3 => ((List.range (unitCount k)).map (at' k.root), 0, 0)
  | _ => ((List.range c.size).flatMap fun m => (List.range b).map fun t => at' m (r * b + t), 0, 0)

/-! ## Contributions and results on the fabric (DESIGN CHOICE, log entry 25) -/

/-- Bytes of one unit on the fabric. -/
def unitBytes (t : Tag) : Nat := (unitBits t + 7) / 8

/-- The number of the first request of a collective. -/
def collSlot : Nat := 2 ^ 38

/-- What a contribution says before its units. -/
def contributionHead (c : Contribution) : List Byte :=
  leBytes 1 c.fn ++ leBytes 1 c.op ++ leBytes 2 c.tag.code ++ leBytes 4 c.root ++ leBytes 4 c.vl ++ leBytes 4 c.span

/-- The requests that carry a contribution to the root device: chunks of at most 4 KiB (R333). -/
def contributionReqs (dev : Nat) (gid seq : BitVec 16) (m : Nat) (c : Contribution) : List RemoteReq :=
  let per := 4032 / unitBytes c.tag
  (List.range (max 1 ((c.units.length + per - 1) / per))).map fun k =>
    let data := contributionHead c ++ ((c.units.drop (k * per)).take per).flatMap (leBytes (unitBytes c.tag))
    ⟨6, dev, collId gid seq m k, reqPayload data.length data⟩

/-- The bytes of a result sent by a root device, in chunk order: `EPACT`, the flags, whether the collective failed, and
the units. -/
def Coll.resultBytes (c : Coll) (m : Nat) : List Byte :=
  let mine := c.results.filter fun x => x.1 == m
  (List.range (mine.foldl (fun k x => max k (x.2.1 + 1)) 0)).flatMap fun k =>
    ((mine.find? fun x => x.2.1 == k).map fun x => x.2.2).getD []

/-- A result read from its bytes: none while it is not whole; else its failure or what the member receives. -/
def readResult (t : Tag) (n : Nat) (bs : List Byte) : Option (Option (List Nat × Flags × Word)) :=
  if bs.length < 16 then none
  else if leNat ((bs.drop 9).take 1) ≠ 0 then some none
  else if bs.length < 16 + n * unitBytes t then none
  else
    let us := (List.range n).map fun i => leNat ((bs.drop (16 + i * unitBytes t)).take (unitBytes t)) % 2 ^ unitBits t
    some (some (us, BitVec.ofNat 5 (leNat ((bs.drop 8).take 1)), BitVec.ofNat 64 (leNat (bs.take 8))))

/-- The bytes that a root sends to member `m`: `EPACT`, the flags, whether the collective failed, and the units. -/
def Coll.sentBytes (c : Coll) (m : Nat) : List Byte :=
  match c.ends, c.pieces with
  | some (.holds tree), x :: _ =>
    let (us, f, e) := c.result x.c tree m
    leBytes 8 e.toNat ++ leBytes 1 f.toNat ++ leBytes 7 0 ++ us.flatMap (leBytes (unitBytes x.c.tag))
  | _, _ => leBytes 9 0 ++ leBytes 7 1

/-- The packets that carry a result to a member of another device: chunks of at most 4 KiB (R333). -/
def State.resultPackets (s : State) (part : Nat) (c : Coll) (dev : BitVec 16) (m : Nat) : List Packet :=
  let bs := c.sentBytes m
  (List.range ((bs.length + 4087) / 4088)).map fun k =>
    let d := (bs.drop (4088 * k)).take 4088
    s.packet 0 part 7 dev.toNat 0 (collId c.gid c.seq m k) (reqPayload d.length d)

/-- The result of an ended collective sent to a member of another device (R337 step 3); it is what the member's
contributions are answered with from then on (R334). -/
def State.sendResult (s : State) (part : Nat) (c : Coll) (dev : BitVec 16) (m : Nat) : State :=
  let ps := s.resultPackets part c dev m
  let s1 := ps.foldl (fun s p => s.sendOut (partInjector part) p) s
  let cid := collId c.gid c.seq m 0 / 2 ^ 20
  { s1 with completed := s1.completed.map fun x =>
      if headerType x.request.header == 6 && x.request.part == part
          && bitsAt x.request.header.toNat 20 44 == cid then { x with response := ps } else x }

/-- Whether this device holds the root of a group's tree (R337 step 2). -/
def State.isRoot (s : State) (ranks : List Rank) : Bool := decide ((ranks.map Rank.dev).headD s.devid = s.devid)

/-- How a collective ends now, if it does (R223, R224): the tree of a float sum is that of the routes at this moment. -/
def State.collEnd (s : State) (part : Nat) (c : Coll) (ranks : List Rank) : Option CollEnd :=
  if s.collFails part c ranks then some .fails
  else if c.complete then
    some (.holds (if (c.pieces.head?.map fun x => sumsFloats x.c).getD false then s.groupTree ranks else none))
  else none

/-- An open collective looked at by the root of its tree: it ends once, for every member alike, and the members of other
devices that have contributed are sent their result. -/
def State.endColl (s : State) (part : Nat) (c : Coll) : State :=
  let ranks := s.ranks part c.gid c.size
  if c.ends.isSome || !s.isRoot ranks then s
  else
    match s.collEnd part c ranks with
    | none => s
    | some e =>
      let c1 := { c with ends := some e }
      let s1 := s.setPart part ((s.part part).updColl c.gid c.seq fun _ => c1)
      (ranks.zipIdx.filter fun (r, m) => r.dev != s.devid && c.heard m).foldl
        (fun s (r, m) => s.sendResult part c1 r.dev m) s1

/-- Every open collective of a partition looked at. -/
def State.endColls (s : State) (part : Nat) : State := (s.part part).colls.foldl (fun s c => s.endColl part c) s

/-! ## The instructions -/

/-- Whether no member waits for its result any more (R339): each of this device has it or was killed, and at the root each
of another device has been sent it. -/
def State.collOver (s : State) (part : Nat) (c : Coll) : Bool :=
  let ranks := s.ranks part c.gid c.size
  let root := s.isRoot ranks
  (c.ends.isSome || !root) && ranks.zipIdx.all fun (r, m) =>
    if r.dev = s.devid then c.served.contains m || s.rankKilled part r
    else !root || c.heard m || s.memberKilled part c.gid r m

/-- The collectives that are over closed (R339). -/
def State.closeColls (s : State) (part : Nat) : State :=
  let p := s.part part
  s.setPart part { p with colls := p.colls.filter fun c => !s.collOver part c }

/-- A group register after a collective (R27, R224). -/
def Group.next (g : Group) : Group := { g with seq := g.seq + 1 }

/-- The write of a collective's result (R222): active units of the span, `SEQ` advanced, `EPACT`, flags. -/
def Hart.collWrite (h : Hart) (g : BitVec 3) (vd : BitVec 6) (mask : BitVec 2) (k : Contribution)
    (res : List Nat × Flags × Word) : Hart :=
  let q := unitLen k.tag
  let n := if k.fn = 2 then k.span else k.vl
  let m := h.mask mask.toNat
  let units := (List.range (n / q)).map fun i =>
    if m.getLsbD (q * i) then some (res.1.getD i (zeroUnit k.tag), false) else none
  let h1 := (h.writeGroup vd k.tag 0 ((groupFor k.tag n).getD 0) n units).addFlags res.2.1
  { h1 with csr := { h1.csr with epact := res.2.2 }, g := h1.g.setIfInBounds g.toNat (h1.g.getD g.toNat .reset).next }

/-- What a member finds in its open collective (R223, R224): nothing yet, a failure, or its result, which a root on
another device has sent or this device, as the root, holds. -/
def State.collFound (s : State) (part : Nat) (c : Coll) (k : Contribution) (ranks : List Rank) (r : Nat) :
    Option (Option (List Nat × Flags × Word)) :=
  if s.isRoot ranks then
    match c.ends with
    | none => none
    | some .fails => some none
    | some (.holds tree) => some (some (c.result k tree r))
  else if s.collFails part c ranks then some none
  else readResult k.tag ((if k.fn = 2 then k.span else k.vl) / unitLen k.tag) (c.resultBytes r)

/-- A waiting collective of the running hart looked at (R224): it contributes once, then waits until every
contribution is in, and retires or traps `GROUP`. -/
def collRun (g : BitVec 3) (vd : BitVec 6) (mask : BitVec 2) (k : Contribution) (s : State) : State :=
  let h := s.cur
  let gr := h.g.getD g.toNat .reset
  let r := gr.rank.toNat
  let size := gr.sizem1.toNat + 1
  let ranks := s.ranks h.part gr.gid size
  let root := (ranks.map Rank.dev).headD s.devid
  let isNew := !(((s.part h.part).coll? gr.gid gr.seq).map fun c => c.has r 0).getD false
  let s0 := s.closeColls h.part
  let s1 := s0.contribute h.part gr.gid gr.seq size ⟨r, 0, k⟩
  match (s1.part h.part).coll? gr.gid gr.seq with
  | none => s1.setCur { h with status := .waiting (.coll g vd mask k) }
  | some c0 =>
    let s2 := if isNew && decide (root ≠ s.devid) then
        s1.sendAll (collSlot + gr.seq.toNat * 2 ^ 16) (contributionReqs root.toNat gr.gid gr.seq r k)
      else s1.endColl h.part c0
    let c := ((s2.part h.part).coll? gr.gid gr.seq).getD c0
    match s2.collFound h.part c k ranks r with
    | none => s2.setCur { s2.cur with status := .waiting (.coll g vd mask k) }
    | some o =>
      let s3 := (s2.setPart h.part ((s2.part h.part).updColl gr.gid gr.seq fun c =>
        { c with served := insertNat c.served r })).closeColls h.part
      let h3 : Hart := { s3.cur with status := .running }
      match o with
      | some res => retire 8 (s3.setCur (h3.collWrite g vd mask k res))
      | none =>
        takeTrap { cause := cGROUP, erec1 := gr.gid.toNat * 2 ^ 48 + gr.seq.toNat } 8
          (s3.setCur { h3 with g := h3.g.setIfInBounds g.toNat (h3.g.getD g.toNat .reset).next })

/-- The checks of a collective after `VAL`, in the order of R221. -/
def Hart.collCheck (h : Hart) (bits : Nat) (vd va : BitVec 6) (g : BitVec 3) (tags : Tag → Bool) (parts : Bool)
    (xroot : Option (BitVec 5)) (scatter : Bool) (mask : BitVec 2) : Option Trap :=
  let o := h.opnd va
  let gr := h.g.getD g.toNat .reset
  let n := gr.sizem1.toNat + 1
  let b := if parts then h.vl / n else h.vl
  let root := (h.readX (xroot.getD 0)).toNat
  firstTrap [
    h.opndCheck bits va h.vl,
    failIf (!tags o.tag) (trapTAG bits),
    failIf (parts && h.vl % n != 0) (trapILL bits),
    failIf (tagBlock o.tag && b % 32 != 0) (trapILL bits),
    h.scalarPoison xroot.toList,
    failIf (xroot.isSome && decide (n ≤ root)) { cause := cGROUP, erec1 := root },
    failIf (o.dom != 0) (trapDOM h 5 0 0 0 o.dom),
    destCheck bits vd o.tag (if scatter then b else h.vl),
    poisonTrap (h.selPoison mask h.vl ++ h.readPoison o (List.replicate h.vl true))]

/-- A collective (R221-R224): `fn` and `op` as R219 numbers them; `parts` says that `b` is `VL`/`s`. With `VAL` = 0 it
traps `GROUP` (R27), whose `EREC1` no rule states: a free value (DESIGN CHOICE, log entry 27). -/
def collExec (bits fn op : Nat) (vd va : BitVec 6) (g : BitVec 3) (tags : Tag → Bool) (parts : Bool)
    (xroot : Option (BitVec 5)) (mask : BitVec 2) (s : State) : Out :=
  let h := s.cur
  let o := h.opnd va
  if !(h.g.getD g.toNat .reset).val then
    let (n, s1) := s.draw
    .next (takeTrap { cause := cGROUP, erec1 := n % 2 ^ 64 } 8 s1)
  else
  match h.collCheck bits vd va g tags parts xroot (fn == 2) mask with
  | some t => .next (takeTrap t 8 s)
  | none =>
    let n := (h.g.getD g.toNat .reset).sizem1.toNat + 1
    let k : Contribution := ⟨fn, op, ((xroot.map h.readX).map BitVec.toNat).getD 0, o.tag, h.vl,
      if parts then h.vl / n else h.vl, (List.range (h.vl / unitLen o.tag)).map (h.unit o)⟩
    .next (collRun g vd mask k s)

/-- The tags that `coll.red` accepts (R222). -/
def redTags (op : Nat) (t : Tag) : Bool :=
  if op ≤ 2 then tagFamily t = .int || tagFamily t = .float else tagFamily t = .int || tagFamily t = .hb

/-- `coll.red` (R222, R223) -/
def execCollRed (vd va : BitVec 6) (gk : BitVec 3) (op : BitVec 4) (mask : BitVec 2) (s : State) : Out :=
  collExec (Instr.collRed vd va gk op mask).bits.toNat 0 op.toNat vd va gk (redTags op.toNat) false none mask s

/-- `coll.gat` (R222) -/
def execCollGat (vd va : BitVec 6) (gk : BitVec 3) (mask : BitVec 2) (s : State) : Out :=
  collExec (Instr.collGat vd va gk mask).bits.toNat 1 0 vd va gk anyTag true none mask s

/-- `coll.sct` (R222) -/
def execCollSct (vd va : BitVec 6) (gk : BitVec 3) (xroot : BitVec 5) (mask : BitVec 2) (s : State) : Out :=
  collExec (Instr.collSct vd va gk xroot mask).bits.toNat 2 0 vd va gk anyTag true (some xroot) mask s

/-- `coll.bc` (R222) -/
def execCollBc (vd va : BitVec 6) (gk : BitVec 3) (xroot : BitVec 5) (mask : BitVec 2) (s : State) : Out :=
  collExec (Instr.collBc vd va gk xroot mask).bits.toNat 3 0 vd va gk anyTag false (some xroot) mask s

/-- `coll.a2a` (R222) -/
def execCollA2a (vd va : BitVec 6) (gk : BitVec 3) (mask : BitVec 2) (s : State) : Out :=
  collExec (Instr.collA2a vd va gk mask).bits.toNat 4 0 vd va gk anyTag true none mask s

/-- COLLECTIVE_COMPLETE (R224): the partition's open collectives end where they can, and context `k`, when it waits in
one, looks at it. -/
def execCollectiveComplete (k : CtxKey) (s : State) : Out :=
  .next ((s.endColls k.part).onHart k fun s1 =>
    match s1.cur.status with
    | .waiting (.coll g vd mask c) => collRun g vd mask c s1
    | _ => s1)

end Sys2Proof.Machine
end

