-- ==== Sys2Proof/Machine/Fabric.lean ====
section
/-! DEFINITION. Blufold-D links (R331), Blufold-X ports and their packets (R332-R335). -/

namespace Sys2Proof.Machine

/-! ## Links (R3, R331) -/

/-- The two ends of a Blufold-D link: stacks 0 to 3, and 4 for the I/O die (DESIGN CHOICE, log entry 24). -/
def linkEnds (k : Nat) : Nat × Nat := [(0, 1), (0, 2), (0, 3), (1, 2), (1, 3), (2, 3), (0, 4), (1, 4), (2, 4), (3, 4)].getD k (0, 0)

/-- The link `k`. -/
def State.link (s : State) (k : Nat) : Link := tget .reset s.links k
/-- The state with a link replaced. -/
def State.setLink (s : State) (k : Nat) (v : Link) : State := { s with links := tset .reset s.links k v }

/-- Whether two ends are joined by a link that works. -/
def State.joined (s : State) (a b : Nat) : Bool :=
  (List.range 10).any fun k => !(s.link k).down && (linkEnds k == (a, b) || linkEnds k == (b, a))

/-- Whether traffic between the ends of a link has a way through a third stack (R331). -/
def State.reroutes (s : State) (k : Nat) : Bool :=
  let (a, b) := linkEnds k
  (List.range 4).any fun c => c != a && c != b && s.joined a c && s.joined c b

/-- The first failed link whose traffic has no way left (R331, R366). -/
def State.cutLink (s : State) : Option Nat := (List.range 10).find? fun k => (s.link k).down && !s.reroutes k

/-- A link that fails (R331): traffic is rerouted; a link down without a reroute path, this one or an earlier one that
used it, is device-fatal (R366). -/
def State.linkFails (s : State) (k : Nat) : State :=
  let s1 := s.setLink k { s.link k with down := true }
  let s2 : State := { s1 with log := s1.log ++ [.link k] }
  match s2.cutLink with
  | some j => s2.fatalError 4 2 j
  | none => s2

/-- BLUFOLD_D_LINK_FAILURE (R331). -/
def execBlufoldDLinkFailure (link : Nat) (s : State) : Out := atUnit (decide (link < 10)) (s.linkFails link)

/-- BLUFOLD_D_FLIT_RETRY (R331): a retry changes timing only; the link counts it. -/
def execBlufoldDFlitRetry (link : Nat) (s : State) : Out :=
  atUnit (decide (link < 10)) (s.setLink link { s.link link with retries := (s.link link).retries + 1 })

/-! ## Ports (R332, R335) -/

/-- Whether a port exists (R1). -/
def isPort (k : Nat) : Bool := decide (k < 16)

/-- The packets in the queues of ports that are down moved to the port that a free number chooses (R332). -/
def State.moveQueues (s : State) (n : Nat) : State :=
  match s.routePort n with
  | none => s
  | some k =>
    let down := (List.range 16).filter fun j => !(s.port j).up
    let moved := (down.flatMap fun j => (s.port j).queue).map fun (p : Packet) => { p with port := k }
    let s1 := down.foldl (fun s j => s.setPort j { s.port j with queue := [] }) s
    s1.setPort k { s1.port k with queue := (s1.port k).queue ++ moved }

/-- The routes built anew from the live ports (R332): which they are is a free number (DESIGN CHOICE, log entry 26). Every
unanswered request is to be sent again (R334). -/
def State.newRoutes (s : State) : State :=
  let (n, s1) := s.draw
  let (m, s2) := s1.draw
  State.moveQueues { s2 with routes := n, sent := s2.sent.map fun x => { x with stale := true } } m

/-- FLIT_REPLAY_REQUEST (R332): the flits from a link sequence number are sent again from the 512 that the sender holds;
replays that fail in a row are counted, and one that succeeds clears the count. -/
def execFlitReplayRequest (port : Nat) (r : Replay) (s : State) : Out :=
  let p := s.port port
  let back := (p.seq - BitVec.ofNat 12 r.seq).toNat
  let good := r.ok && decide (back ≤ p.store.length)
  atUnit (isPort port) (s.setPort port { p with replays := if good then 0 else p.replays + 1 })

/-- PORT_DOWN (R332): 16 failed replays in a row. -/
def execPortDown (port : Nat) (s : State) : Out :=
  let p := s.port port
  atUnit (isPort port)
    (if p.up && decide (16 ≤ p.replays) then
      let s1 := s.setPort port { p with up := false, replays := 0 }
      State.newRoutes { s1 with log := s1.log ++ [.port port false] }
    else s)

/-- PORT_UP (R332, R335): a port joined to another device comes up, unless the two carry one identifier; firmware has set
its compressor's thresholds, the off threshold below the on threshold. -/
def execPortUp (p : PortSetup) (s : State) : Out :=
  let q := s.port p.port
  atUnit (isPort p.port)
    (if q.up || p.peer = s.devid || p.onAt ≤ p.offAt then s
    else
      let s1 := s.setPort p.port { q with
        up := true, peer := p.peer, seq := 0, store := [], replays := 0, onAt := p.onAt, offAt := p.offAt }
      State.newRoutes { s1 with log := s1.log ++ [.port p.port true] })

/-- COMPRESSOR_ON (R335): the queue holds more flits than the on threshold. -/
def execCompressorOn (port : Nat) (s : State) : Out :=
  let p := s.port port
  atUnit (isPort port) (if p.onAt < p.waiting then s.setPort port { p with comp := true } else s)

/-- Packets transmitted until a queue holds fewer flits than the off threshold. -/
def Port.drain : Nat → Port → Port
  | 0, q => q
  | n + 1, q => if q.waiting < q.offAt then q else q.sendFirst.drain n

/-- COMPRESSOR_OFF (R335): a live port transmits until its queue holds fewer flits than the off threshold; then the
compressor is off. -/
def execCompressorOff (port : Nat) (s : State) : Out :=
  let p := s.port port
  let q := if p.up then p.drain p.queue.length else p
  atUnit (isPort port) (if q.waiting < q.offAt then s.setPort port { q with comp := false } else s)

/-! ## Packets (R333) -/

/-- `TYPE` -/
def Pk.type (p : Packet) : Nat := bitsAt p.header.toNat 123 5
/-- `SRCDEV` -/
def Pk.src (p : Packet) : BitVec 16 := BitVec.ofNat 16 (bitsAt p.header.toNat 96 16)
/-- `DSTDEV` -/
def Pk.dst (p : Packet) : BitVec 16 := BitVec.ofNat 16 (bitsAt p.header.toNat 80 16)
/-- `TAG` -/
def Pk.tag (p : Packet) : BitVec 16 := BitVec.ofNat 16 (bitsAt p.header.toNat 64 16)
/-- `ADDR` or `CID` -/
def Pk.addr (p : Packet) : Nat := bitsAt p.header.toNat 0 64
/-- The plain payload (R335). -/
def Pk.data (p : Packet) : List Byte := if bitAt p.header.toNat 122 then expandPayload p.payload else p.payload

/-- Whether a packet is discarded (R333): a reserved type, or a reserved bit that is not 0. -/
def Pk.reserved (p : Packet) : Bool :=
  decide (8 < Pk.type p) || ((Pk.type p == 6 || Pk.type p == 7) && Pk.addr p % 16 != 0)

/-- A packet for another device passed on (R332): put into the queue of the port that the routes choose, whatever shares the
partitions have (DEDUCED, log entry 68). -/
def State.forward (s : State) (p : Packet) : State :=
  let (n, s1) := s.draw
  s1.enqueue { p with port := (s1.routePort n).getD p.port }

/-- A packet received on a live port (R333): discarded and counted, passed on when it is for another device, or handled
when it is of the event's type. -/
def State.receive (s : State) (p : Packet) (type : Nat) (f : State → State) : Out :=
  atUnit (isPort p.port && isPart p.part)
    (if !(s.port p.port).up then s
    else if Pk.reserved p then s.setPort p.port { s.port p.port with errors := (s.port p.port).errors + 1 }
    else if Pk.type p != type then s
    else if Pk.dst p != s.devid then s.forward p
    else f s)

/-! ## Requests served (R333, R334, R346) -/

/-- Whether a request of this sender and tag has been completed (R334). -/
def Completed.matches (c : Completed) (p : Packet) : Bool := c.src == Pk.src p && c.tag == Pk.tag p

/-- Whether a request repeats one that this device has completed (R334). -/
def State.repeats (s : State) (p : Packet) : Bool := s.completed.any fun c => c.matches p

/-- What a request was answered with, sent again (R334). -/
def State.answerAgain (s : State) (p : Packet) : State :=
  ((s.completed.find? fun c => c.matches p).map Completed.response).getD [] |>.foldl
    (fun s r => s.sendOut (partInjector p.part) r) s

/-- A request that this device performs once (R334): the same tag of the same sender again only repeats its answer, which
`f` gives with the state after it. -/
def State.serveOnce (s : State) (p : Packet) (f : State → Packet × State) : State :=
  if s.repeats p then s.answerAgain p
  else
    let (r, s1) := f s
    State.sendOut { s1 with completed := ⟨Pk.src p, Pk.tag p, p, [r]⟩ :: s1.completed } (partInjector p.part) r

/-- The flits of a response that reports a fault: one for an acknowledgement, which has no data, and none for the others
(DESIGN CHOICE, log entry 25). -/
def faultFlits (type : Nat) : Nat := if type = 3 then 1 else 0

/-- A response (DESIGN CHOICE, log entry 25): the data asked for, at most 4 KiB (R333), at the request's address; or a fault
at the target, with the address value of the first byte that failed. -/
def State.response (s : State) (p : Packet) (type : Nat) (data : Except Nat (List Byte)) : Packet × State :=
  let (addr, body) := match data with
    | .ok d => (Pk.addr p, padTo ((d.length + 63) / 64 * 64) d)
    | .error a => (a, List.replicate (64 * faultFlits type) 0)
  (s.packet p.port p.part type (Pk.src p).toNat (Pk.tag p).toNat addr body, s)

/-- The pieces of an access of another device placed in order: the address value of the first that has no translation, or
their places (R288). -/
def State.remoteLines (s : State) (part idx : Nat) (b : BufInfo) (k : Kind) :
    List (Nat × Nat) → Except Nat (List (Nat × Nat)) × State
  | [] => (.ok [], s)
  | (o, len) :: rest =>
    let (ch, coff) := b.locate o
    match s.walk ⟨part, 0, idx, ch, coff / 2 ^ 16⟩ with
    | none => (.error (addrValue idx (o : Int)), s)
    | some f =>
      let t := chanTable ch
      let pa := physAddr t (s.migrated t f (coff % 2 ^ 16 / 256)) (coff % 2 ^ 16)
      match ((s.setPte t f ((s.pte t f).touch true k.writes)).activate [paBank pa]).remoteLines part idx b k rest with
      | (.ok ps, s1) => (.ok ((pa, len) :: ps), s1)
      | r => r

/-- The places of an access of another device to a partition's buffer (R346): an ordinary index of the initial table,
in bounds, with the right, of no owner, mapped; else the address value of the first byte that fails. -/
def State.remotePlaces (s : State) (part addr n : Nat) (k : Kind) : Except Nat (List (Nat × Nat)) × State :=
  let idx := addr / 2 ^ 40
  let off := addr % 2 ^ 40
  if idx < 5 || idx = 0xFFFFFF || (s.remoteOf noCore part idx).isSome then (.error addr, s)
  else
    match (s.entryNow noCore part initBase idx).info with
    | none => (.error addr, s)
    | some b =>
      if b.len < off + n then (.error (idx * 2 ^ 40 + max off b.len), s)
      else if b.owner ≠ 0 || !b.allows 0 k || b.cls = 4 then (.error addr, s)
      else s.remoteLines part idx b k (lineCuts off n)

/-- The bytes at places, as the home holds them. -/
def State.placesRead (s : State) (ps : List (Nat × Nat)) : List Byte := ps.flatMap fun (pa, n) => s.coreBytes noCore pa n

/-- Bytes written at places, at the home. -/
def State.placesWrite (s : State) : List (Nat × Nat) → List Byte → State
  | [], _ => s
  | (pa, n) :: ps, bs => (s.writeBytes true noCore pa (bs.take n)).placesWrite ps (bs.drop n)

/-- The first of the bytes at places that a read would consume poisoned, counted from the first byte (R323). -/
def State.placesPoison (s : State) : Nat → List (Nat × Nat) → Option Nat
  | _, [] => none
  | k, (pa, n) :: ps => match s.poisonedByte noCore pa n with
    | some a => some (k + (a - pa))
    | none => s.placesPoison (k + n) ps

/-- The byte count of a request, at most 4 KiB (R333). -/
def reqCount (p : Packet) : Nat := min 4096 (leNat ((Pk.data p).take 8) % askBit)

/-- Whether a request only asks (DESIGN CHOICE, log entry 25). -/
def reqAsks (p : Packet) : Bool := decide (askBit ≤ leNat ((Pk.data p).take 8))

/-- Whether the access tables of the targets reached admit a request of a port (R347). -/
def State.portAdmits (s : State) (p : Packet) (kind : Nat) (ps : List (Nat × Nat)) : Bool :=
  ps.all fun x => (Loc.pkg x.1).targets.all fun t => s.admits t (101 + p.port) p.part kind

/-- A request whose port the access table does not admit: a read answers zeros, a write is dropped (R347). -/
def State.refusedResponse (s : State) (p : Packet) (type n : Nat) : Packet × State :=
  (s.refuse (101 + p.port) p.part).response p type (.ok (List.replicate n 0))

/-- A read request performed. -/
def State.serveRead (s : State) (p : Packet) : Packet × State :=
  let n := reqCount p
  match s.remotePlaces p.part (Pk.addr p) n .read with
  | (.error a, s1) => s1.response p 1 (.error a)
  | (.ok ps, s1) =>
    if !s.portAdmits p 0 ps then s.refusedResponse p 1 n
    else s1.response p 1 (match s1.placesPoison 0 ps with
      | some j => .error (Pk.addr p + j)
      | none => .ok (s1.placesRead ps))

/-- READ_REQUEST (R333). -/
def execReadRequest (p : Packet) (s : State) : Out := s.receive p 0 fun s1 => s1.serveOnce p fun s2 => s2.serveRead p

/-- A write performed, or only asked about. -/
def State.serveWrite (s : State) (p : Packet) : Packet × State :=
  let n := reqCount p
  match s.remotePlaces p.part (Pk.addr p) n .write with
  | (.error a, s1) => s1.response p 3 (.error a)
  | (.ok ps, s1) =>
    if reqAsks p then s.response p 3 (.ok [])
    else if !s.portAdmits p 1 ps then s.refusedResponse p 3 0
    else (s1.placesWrite ps (((Pk.data p).drop 8).take n)).response p 3 (.ok [])

/-- WRITE (R333). -/
def execWrite (p : Packet) (s : State) : Out := s.receive p 2 fun s1 => s1.serveOnce p fun s2 => s2.serveWrite p

/-- The new value of an atomic of another device: the functions of R198 and R207 on a doubleword, the additions of
`vamoadd` on narrower ones (R123). -/
def remoteAtomic (n fn : Nat) (x c old : Word) : Option Word :=
  if fn = 13 then some (BitVec.ofNat 64 (addedValue .f32 (.ofFcsr (c.setWidth 8)) old.toNat x.toNat).1)
  else if n < 8 then some (BitVec.ofNat 64 ((old.toNat + x.toNat) % 2 ^ (8 * n)))
  else atomicNew fn x c old

/-- An atomic performed; its response holds the old value. -/
def State.serveAtomic (s : State) (p : Packet) : Packet × State :=
  let n := min 8 (reqCount p)
  let d (o : Nat) : Word := BitVec.ofNat 64 (leNat (((Pk.data p).drop o).take 8))
  if n = 0 || Pk.addr p % n ≠ 0 then s.response p 5 (.error (Pk.addr p))
  else
    match s.remotePlaces p.part (Pk.addr p) n .atomic with
    | (.error a, s1) => s1.response p 5 (.error a)
    | (.ok ps, s1) =>
      if !s.portAdmits p 2 ps then
        if reqAsks p then s.response p 5 (.ok (List.replicate n 0)) else s.refusedResponse p 5 n
      else
      match s1.placesPoison 0 ps with
      | some j => s1.response p 5 (.error (Pk.addr p + j))
      | none =>
        if reqAsks p then s.response p 5 (.ok (List.replicate n 0)) else
        let old : Word := BitVec.ofNat 64 (leNat (s1.placesRead ps))
        let s2 := match remoteAtomic n (d 8).toNat (d 16) (d 24) old with
          | some new => s1.placesWrite ps (leBytes n new.toNat)
          | none => s1
        s2.response p 5 (.ok (leBytes n old.toNat))

/-- ATOMIC (R333). -/
def execAtomic (p : Packet) (s : State) : Out := s.receive p 4 fun s1 => s1.serveOnce p fun s2 => s2.serveAtomic p

/-! ## Responses received (R333, R334) -/

/-- Whether a response answers a request that this device has sent. -/
def Sent.answeredBy (x : Sent) (p : Packet) (type : Nat) : Bool :=
  x.tag == (Pk.tag p).toNat && Pk.type x.packet == type && Pk.dst x.packet == Pk.src p

/-- A context that has received an answer; one that waits for it looks at its instruction again. -/
def Hart.deliver (h : Hart) (a : Answer) : Hart :=
  { h with
    answers := h.answers ++ [a]
    status := if h.status = .waiting .remote then .running else h.status }

/-- The flags of an `F32` addition that a target has made on the value that its response holds (R122, R123). -/
def Sent.sumFlags (x : Sent) (p : Packet) : Flags :=
  let d (o : Nat) : Nat := leNat (((Pk.data x.packet).drop o).take 8)
  if headerType x.packet.header = 4 && d 8 == 13 then
    (addedValue .f32 (.ofFcsr (BitVec.ofNat 8 (d 24))) (leNat ((Pk.data p).take 4)) (d 16)).2
  else 0

/-- Whether a request is one of those that an instruction sends when it has had its effect. -/
def Sent.posted (x : Sent) : Bool := decide (ackSlot ≤ x.slot) && decide (x.slot < collSlot)

/-- A context that has received an acknowledgement, the last one unless `more` are to come: it then issues again. -/
def Hart.acknowledged (h : Hart) (f : Flags) (more : Bool) : Hart :=
  { h.addFlags f with status := if h.status = .waiting .acks && !more then .running else h.status }

/-- What a response says of a fault (R346): the place, from the first byte of the request, of the byte that failed. -/
def Sent.faultIn (x : Sent) (p : Packet) : Option Nat :=
  if (Pk.data p).length == 64 * faultFlits (Pk.type p) then some (Pk.addr p - Pk.addr x.packet) else none

/-- A context that waits for another device and has no request out, for want of a tag, looks again (R334). -/
def State.wakeUnsent (s : State) : State :=
  s.mapHarts fun h =>
    if h.status = .waiting .remote && !s.sent.any (fun x => decide (x.who = h.key)) then { h with status := .running } else h

/-- The tag of a response that has arrived is free again, and the target is told so (R334; DESIGN CHOICE, log entry 25). -/
def State.releaseTag (s : State) (p : Packet) : State :=
  s.enqueue (s.packet p.port p.part 8 (Pk.src p).toNat (Pk.tag p).toNat 0 [])

/-- The tag of a request that something else has answered told to its target, through a port. -/
def State.release (s : State) (port : Nat) (request : Packet) : State :=
  s.enqueue (s.packet port request.part 8 (Pk.dst request).toNat (Pk.tag request).toNat 0 [])

/-- A response to a request of type `type` delivered. -/
def State.deliver (s : State) (p : Packet) (type : Nat) : State :=
  match s.sent.find? fun x => x.answeredBy p type with
  | none => s
  | some x =>
    let s1 := { s with sent := s.sent.filter fun y => !y.answeredBy p type }
    let more := s1.sent.any fun y => decide (y.who = x.who) && y.posted
    let s2 := s1.updHart x.who fun h =>
      if x.posted then h.acknowledged (if (x.faultIn p).isSome then 0 else x.sumFlags p) more
      else h.deliver ⟨x.slot, Pk.data p, x.faultIn p⟩
    s2.wakeUnsent.releaseTag p

/-- READ_RESPONSE (R333). -/
def execReadResponse (p : Packet) (s : State) : Out := s.receive p 1 fun s1 => s1.deliver p 0
/-- WRITE_ACKNOWLEDGEMENT (R333). -/
def execWriteAcknowledgement (p : Packet) (s : State) : Out := s.receive p 3 fun s1 => s1.deliver p 2
/-- ATOMIC_RESPONSE (R333). -/
def execAtomicResponse (p : Packet) (s : State) : Out := s.receive p 5 fun s1 => s1.deliver p 4

/-- An unanswered request sent again under its tag, on the route that now holds (R334). -/
def State.resend (s : State) (x : Sent) : State :=
  let (n, s1) := s.draw
  match s1.routePort n with
  | none => s
  | some k =>
    let pk : Packet := { x.packet with port := k }
    let y : Sent := { x with packet := pk, sends := x.sends + 1, stale := false }
    State.inject { s1 with sent := s1.sent.map fun z => if z.tag == x.tag then y else z } (partInjector pk.part) pk

/-- REQUEST_RESEND (R334). -/
def execRequestResend (tag : Nat) (s : State) : Out :=
  .next (match s.sent.find? fun x => x.tag == tag with
    | none => s
    | some x => s.resend x)

/-! ## Collectives (R333, R339) -/

/-- `GID` of a `CID` -/
def Pk.gid (p : Packet) : BitVec 16 := BitVec.ofNat 16 (bitsAt (Pk.addr p) 48 16)
/-- `SEQ` of a `CID` -/
def Pk.seq (p : Packet) : BitVec 16 := BitVec.ofNat 16 (bitsAt (Pk.addr p) 32 16)
/-- `MEMBER` of a `CID` -/
def Pk.member (p : Packet) : Nat := bitsAt (Pk.addr p) 20 12
/-- `CHUNK` of a `CID` -/
def Pk.chunk (p : Packet) : Nat := bitsAt (Pk.addr p) 4 16

/-- The member count of a group of the partition's table (R345). -/
def State.groupSize (s : State) (part : Nat) (gid : BitVec 16) : Option Nat :=
  let p := s.part part
  ((List.range p.gtcount).filterMap fun k =>
    let d := s.portDw noCore part (p.gtbase.toNat + 16 * k)
    if bitAt d 0 && bitsAt d 48 16 == gid.toNat then some (bitsAt d 36 12 + 1) else none).head?

/-- A member of another device known to be killed (R224): open collectives of its group may end. -/
def State.noteLost (s : State) (p : Packet) : State :=
  let q := s.part p.part
  let k := (Pk.gid p, Pk.member p)
  (s.setPart p.part { q with lost := if q.lost.contains k then q.lost else q.lost ++ [k] }).endColls p.part

/-- A contribution received by its combining point (R339); that of a group that the table does not know, or of a further
collective when 64 are open, waits in the fabric. A member that a collective has ended without hears of it at once. -/
def State.serveContribution (s : State) (p : Packet) (c : Contribution) : State :=
  match s.groupSize p.part (Pk.gid p) with
  | none => s
  | some n =>
    let s1 := s.contribute p.part (Pk.gid p) (Pk.seq p) n ⟨Pk.member p, Pk.chunk p, c⟩
    match (s1.part p.part).coll? (Pk.gid p) (Pk.seq p) with
    | none => s
    | some k =>
      let s2 := { s1 with completed := ⟨Pk.src p, Pk.tag p, p, []⟩ :: s1.completed }
      if k.ends.isSome then s2.sendResult p.part k (Pk.src p) (Pk.member p) else s2.endColl p.part k

/-- COLLECTIVE_CONTRIBUTION (R333, R339): `c` is what the payload says (DESIGN CHOICE, log entry 25). -/
def execCollectiveContribution (p : Packet) (c : Contribution) (s : State) : Out :=
  s.receive p 6 fun s1 =>
    if c.fn = fnKilled then s1.noteLost p
    else if s1.repeats p then s1.answerAgain p
    else s1.serveContribution p c

/-- A result of a root on another device: kept for its member; the member's contribution is answered. -/
def State.takeResult (s : State) (p : Packet) : State :=
  let d := Pk.data p
  let bytes := (d.drop 8).take (leNat (d.take 8))
  let q := (s.part p.part).updColl (Pk.gid p) (Pk.seq p) fun c =>
    if c.results.any fun x => x.1 == Pk.member p && x.2.1 == Pk.chunk p then c
    else { c with results := c.results ++ [(Pk.member p, Pk.chunk p, bytes)] }
  let s1 := s.setPart p.part q
  let mine (x : Sent) : Bool :=
    Pk.type x.packet == 6 && Pk.addr x.packet / 2 ^ 20 == Pk.addr p / 2 ^ 20 && x.packet.part == p.part
  (s1.sent.filter mine).foldl (fun s x => s.release p.port x.packet)
    { s1 with sent := s1.sent.filter fun x => !mine x }

/-- COLLECTIVE_RESULT (R333, R337 step 3). -/
def execCollectiveResult (p : Packet) (s : State) : Out := s.receive p 7 fun s1 => s1.takeResult p

/-- A link-control packet served (R333, R353; its contents by DESIGN CHOICE, log entry 23): one of address 0 says that the
response to its tag has arrived (R334); one without payload whose address holds a stage in bits 63:32 and an offset in bits
31:0 asks for bytes of the image that this device has booted with, which firmware of stage 2 sends. -/
def State.serveControl (s : State) (p : Packet) : State :=
  let stage := Pk.addr p / 2 ^ 32
  if Pk.addr p = 0 then { s with completed := s.completed.filter fun c => !c.matches p }
  else if !p.payload.isEmpty || !s.boot.ready then s
  else
    match s.boot.images.find? fun x => x.1 == stage with
    | none => s
    | some x =>
      let bs := (x.2.drop (Pk.addr p % 2 ^ 32)).take 4096
      s.enqueue (s.packet p.port p.part 8 (Pk.src p).toNat (Pk.tag p).toNat (Pk.addr p)
        (padTo ((bs.length + 63) / 64 * 64) bs))

/-- LINK_CONTROL (R333). -/
def execLinkControl (p : Packet) (s : State) : Out := s.receive p 8 fun s1 => s1.serveControl p

end Sys2Proof.Machine
end

