-- ==== Sys2Proof/Machine/Xmss.lean ====
section
/-! DEFINITION. Verification of an XMSS-SHAKE256_20_256 signature, and the making of one (R355, R359: `n` = 32, `w` = 16,
`h` = 20; the algorithm is that of RFC 8391 with the functions of NIST SP 800-208, PRESUMED, log entry 10). -/

namespace Sys2Proof.Machine

/-- A number as `n` bytes, most significant first. -/
def bigBytes (n v : Nat) : List Byte := (leBytes n v).reverse

/-- The number of bytes, most significant first. -/
def bigNat (bs : List Byte) : Nat := leNat bs.reverse

/-- A keyed hash; `sep` is 0 for the chains, 1 for the trees, 2 for the message and 3 for keys and masks. -/
def keyedHash (sep : Nat) (key m : List Byte) : List Byte := shake256 32 (bigBytes 32 sep ++ key ++ m)

/-- Bytes masked. -/
def maskBytes (a b : List Byte) : List Byte := a.zipWith (· ^^^ ·) b

/-- A place in the structure: `kind` is 0 for a chain, 1 for the tree over chain ends, 2 for the tree over leaves; the other
three number it there. -/
structure XmssPlace where
  kind : Nat
  leaf : Nat
  row : Nat
  col : Nat
  deriving DecidableEq, Repr

/-- Key or mask number `j` of a place. -/
def XmssPlace.key (x : XmssPlace) (seed : List Byte) (j : Nat) : List Byte :=
  keyedHash 3 seed (List.replicate 12 0 ++ [x.kind, x.leaf, x.row, x.col, j].flatMap (bigBytes 4))

/-- Two nodes hashed at a place. -/
def XmssPlace.join (x : XmssPlace) (seed l r : List Byte) : List Byte :=
  keyedHash 1 (x.key seed 0) (maskBytes l (x.key seed 1) ++ maskBytes r (x.key seed 2))

/-- A value of chain `c` of a leaf taken `n` steps on from step `d`. -/
def chainSteps (seed : List Byte) (leaf c d n : Nat) (v : List Byte) : List Byte :=
  (List.range n).foldl (fun v i =>
    let x : XmssPlace := ⟨0, leaf, c, d + i⟩
    keyedHash 0 (x.key seed 0) (maskBytes v (x.key seed 1))) v

/-- The end of chain `c` of a leaf from its value after `d` steps: 15 in all. -/
def chainEnd (seed : List Byte) (leaf c d : Nat) (v : List Byte) : List Byte := chainSteps seed leaf c d (15 - d) v

/-- The 67 digits of a digest: 64 of its own and three of their checksum. -/
def wotsDigits (digest : List Byte) : List Nat :=
  let own := digest.flatMap fun b => [b.toNat / 16, b.toNat % 16]
  let sum := (own.map (15 - ·)).sum
  own ++ [sum / 256, sum / 16 % 16, sum % 16]

/-- One row of the tree over chain ends: neighbours joined, a last one without a neighbour kept. -/
def joinRow (seed : List Byte) (leaf row : Nat) : Nat → List (List Byte) → List (List Byte)
  | i, a :: b :: rest => (XmssPlace.mk 1 leaf row i).join seed a b :: joinRow seed leaf row (i + 1) rest
  | _, l => l

/-- The rows of that tree up to its one node. -/
def joinRows (seed : List Byte) (leaf : Nat) : Nat → List (List Byte) → List (List Byte)
  | 0, l => l
  | k + 1, l => joinRows seed leaf k (joinRow seed leaf (6 - k) 0 l)

/-- The root that a leaf and its authentication path give. -/
def pathRoot (seed : List Byte) (leaf : Nat) (node : List Byte) (path : List (List Byte)) : List Byte :=
  path.zipIdx.foldl (fun v (sib, k) =>
    let x : XmssPlace := ⟨2, 0, k, leaf / 2 ^ (k + 1)⟩
    if bitAt leaf k then x.join seed sib v else x.join seed v sib) node

/-- `n` pieces of 32 bytes. -/
def pieces32 : Nat → List Byte → List (List Byte)
  | 0, _ => []
  | n + 1, bs => bs.take 32 :: pieces32 n (bs.drop 32)

/-- Whether a 2820-byte signature of a message verifies under a 68-byte public key. -/
def xmssVerify (pk message sig : List Byte) : Bool :=
  let root := (pk.drop 4).take 32
  let seed := (pk.drop 36).take 32
  let leaf := bigNat (sig.take 4)
  let digest := keyedHash 2 ((sig.drop 4).take 32 ++ root ++ bigBytes 32 leaf) message
  let ends := ((pieces32 67 (sig.drop 36)).zip (wotsDigits digest)).zipIdx.map fun ((v, d), c) => chainEnd seed leaf c d v
  let node := (joinRows seed leaf 7 ends).headD []
  pathRoot seed leaf node (pieces32 20 (sig.drop 2180)) == root

/-! ## Signing (R359)

The device's identity key: what its secrets make of the same algorithm. -/

/-- The public seed of the identity key. -/
def idSeed : List Byte := bigBytes 32 Config.xmssSeed.toNat

/-- The secret start of a chain of a leaf. -/
def chainStart (leaf c : Nat) : List Byte := bigBytes 32 (Config.xmssSecret leaf c).toNat

/-- The node of a leaf: the tree over the ends of its 67 chains. -/
def leafNode (leaf : Nat) : List Byte :=
  (joinRows idSeed leaf 7 ((List.range 67).map fun c => chainSteps idSeed leaf c 0 15 (chainStart leaf c))).headD []

/-- A node of the tree over the leaves: number `i` of its row `k`. -/
def treeNode : Nat → Nat → List Byte
  | 0, i => leafNode i
  | k + 1, i => (XmssPlace.mk 2 0 k i).join idSeed (treeNode k (2 * i)) (treeNode k (2 * i + 1))

/-- The root of the identity key. -/
def idRoot : List Byte := treeNode 20 0

/-- The nodes beside the path from a leaf to the root. -/
def authPath (leaf : Nat) : List Byte :=
  (List.range 20).flatMap fun k => treeNode k ((leaf / 2 ^ k) ^^^ 1)

/-- The signature of a message by a leaf of the identity key (R355, R359): the index, the randomizer, one value of each
chain, and the authentication path. -/
def xmssSign (leaf : Nat) (message : List Byte) : List Byte :=
  let r := bigBytes 32 (Config.xmssRandom leaf).toNat
  let digest := keyedHash 2 (r ++ idRoot ++ bigBytes 32 leaf) message
  bigBytes 4 leaf ++ r ++
    ((wotsDigits digest).zipIdx.flatMap fun (d, c) => chainSteps idSeed leaf c 0 d (chainStart leaf c)) ++ authPath leaf

end Sys2Proof.Machine
end

