-- ==== Sys2Proof/Machine/Boot.lean ====
section
/-! DEFINITION. Device reset and boot (R352-R355), the device block (R356), quotes (R358-R360). -/

namespace Sys2Proof.Machine

/-! ## Reset (R352) -/

/-- A device reset: what lies outside the module, what fuses and the non-volatile store hold, and the dump area (R369)
stay; everything else takes its reset value. -/
def State.restart (s : State) : State :=
  { State.reset with
    host := s.host
    boot := { Boot.reset with
      fuseSvn := s.boot.fuseSvn, keyRev := s.boot.keyRev, devSer := s.boot.devSer, devCert := s.boot.devCert
      boots := s.boot.boots + 1 }
    sec := { Security.reset with idxA := s.sec.idxA, idxB := s.sec.idxB, okA := s.sec.okA, okB := s.sec.okB }
    dump := { s.dump with fatal := none }
    hostRead := s.hostRead, signals := s.signals, agenda := s.agenda, devTurn := s.devTurn, fresh := s.fresh }

/-- DEVICE_RESET (R352). -/
def execDeviceReset (s : State) : Out := .next s.restart

/-- HOT_RESET (R367): boot restarts at stage 0. -/
def execHotReset (s : State) : Out := .next s.restart

/-! ## Images (R353-R355) -/

/-- A number in the header of an image. -/
def imgNat (img : List Byte) (o n : Nat) : Nat := leNat ((img.drop o).take n)

/-- What the checks of R355 answer: 0, or the refusal code. -/
def Boot.imageCode (b : Boot) (stage : Nat) (img : List Byte) : Nat :=
  let len := imgNat img 16 8
  let slot := imgNat img 88 4
  let body := img.drop 4096
  if imgNat img 0 8 ≠ 0x4547414D494B564F || imgNat img 8 2 ≠ stage || len = 0 || 48 * 2 ^ 20 < len
      || img.length ≠ 4096 + len || imgNat img 12 4 / 2 ≠ 0 || imgNat img 92 4 ≠ 0
      || !(((img.drop 2916).take 1180).all (· == 0)) || 3 < slot then 1
  else if b.keyRev.getLsbD slot then 2
  else if !xmssVerify (Config.imageKey slot) (img.take 96) ((img.drop 96).take 2820) then 3
  else if shake256 64 body ≠ (img.drop 24).take 64 then 4
  else if imgNat img 10 2 < (b.fuseSvn.getD (stage - 1) 0).toNat then 5
  else 0

/-- A measurement register extended with a digest (R355). -/
def extendMr (mr d : BitVec 512) : BitVec 512 :=
  BitVec.ofNat 512 (leNat (shake256 64 (leBytes 64 mr.toNat ++ leBytes 64 d.toNat)))

/-- The boot state after an image has passed (R355): measured, its version burned when `COMMIT` asks for it. -/
def Boot.accept (b : Boot) (stage : Nat) (img : List Byte) : Boot :=
  let svn := imgNat img 10 2
  let old := (b.fuseSvn.getD (stage - 1) 0).toNat
  let mr := b.mr.setIfInBounds stage (extendMr (b.mr.getD stage 0) (BitVec.ofNat 512 (imgNat img 24 64)))
  { b with
    mr := mr
    fuseSvn := if imgNat img 12 4 % 2 = 1 && old < svn then b.fuseSvn.setIfInBounds (stage - 1) (BitVec.ofNat 16 svn)
      else b.fuseSvn }

/-- The next source after `k` (R353): the live ports in order, then the host. -/
def State.nextSource (s : State) (k : Nat) : Nat :=
  (((List.range 16).map (1 + ·)).find? fun j => decide (k < j) && (tget .reset s.ports (j - 1)).up).getD 17

/-- The boot tries its next source; the last one is the host's window, for which it waits. -/
def State.tryNext (s : State) : State :=
  let k := s.nextSource s.boot.trying
  { s with boot := { s.boot with trying := k, waitrec := decide (k = 17) } }

/-- Vector 2 of the physical function when `DSTATE` has changed (R357). -/
def State.signalBoot (s0 s : State) : State :=
  let d (b : Boot) : Nat × Bool × Bool × Nat × Nat := (b.stage.toNat, b.ready, b.waitrec, b.err.toNat, b.source.toNat)
  if d s0.boot = d s.boot then s else { s with signals := s.signals ++ [.pf 2] }

/-- The thresholds that firmware sets for the memory of table `t` (R361), from a free number (DESIGN CHOICE, log entry 24):
`RAAIMT` from 16 to 256, `RAAMMT` from 2 to 8 times as much. -/
def firmwareRaa (n t : Nat) : Nat × Nat :=
  let k := n / (241 * 7) ^ t
  let im := 16 + k % 241
  (im, im * (2 + k / 241 % 7))

/-- Firmware that has started sets the thresholds of every memory (R361). -/
def State.setRaaLimits (s : State) : State :=
  let (n, s1) := s.draw
  { s1 with
    raaimt := Vector.ofFn fun t => (firmwareRaa n t.val).1
    raammt := Vector.ofFn fun t => (firmwareRaa n t.val).2 }

/-- The work of a stage that has started (R352, R361): stage 1 puts the reserved banks into `STBY`, stage 2 sets `READY`.
The ROM's own digest is measured with the first stage. -/
def State.startStage (s0 : State) (stage : Nat) : State :=
  let s := s0.setRaaLimits
  match stage with
  | 1 =>
    let s1 := { s with
      reserved := reservedBanks
      boot := { s.boot with
        stage := 1, mr := s.boot.mr.setIfInBounds 0 (extendMr (s.boot.mr.getD 0 0) Config.romDigest) } }
    reservedBanks.foldl (fun s b => s.setPower b .stby) s1
  | 2 => { s with boot := { s.boot with stage := 2, ready := true } }
  | _ => s

/-- The stage whose image the running stage verifies (R352). -/
def Boot.nextStage (b : Boot) : Nat := min 3 (b.stage.toNat + 1)

/-- An image verified (R353-R355): a refused one sets `ERR` and the next source is tried; an accepted one starts. -/
def State.verify (s : State) (stage source : Nat) (img : List Byte) : State :=
  if stage ≠ s.boot.nextStage || source ≠ s.boot.trying || 2 < s.boot.stage.toNat then s
  else
    let code := s.boot.imageCode stage img
    s.signalBoot
      (if code ≠ 0 then ({ s with boot := { s.boot with err := BitVec.ofNat 8 code } }).tryNext
      else
        let b := s.boot.accept stage img
        ({ s with boot := { b with
            source := BitVec.ofNat 8 source, trying := 0, waitrec := false, window := []
            images := b.images.filter (fun (x : Nat × List Byte) => x.1 != stage) ++ [(stage, img)] } }).startStage stage)

/-- Whether bytes are what a source can supply (R353): the host's are those that its window holds. -/
def State.supplies (s : State) (source : Nat) (img : List Byte) : Bool :=
  source != 17 || decide (img.length ≤ 2 ^ 26) && decide (img = Memory.read s.boot.window 0 img.length)

/-- IMAGE_VERIFY (R355). -/
def execImageVerify (stage source : Nat) (img : List Byte) (s : State) : Out :=
  atUnit (decide (1 ≤ stage) && decide (stage ≤ 3) && decide (source ≤ 17))
    (if s.supplies source img then s.verify stage source img else s)

/-- IMAGE_FETCH_FAILURE (R353): the source being tried supplies no image. -/
def execImageFetchFailure (s : State) : Out :=
  .next (if s.boot.trying < 17 && s.boot.stage.toNat ≤ 2 then s.signalBoot s.tryNext else s)

/-- A write of the recovery window (R341, R353): 4 to 512 bytes, aligned to 4, only while `WAITREC` = 1. -/
def State.writeWindow (s : State) (off : Nat) (bytes : List Byte) : State :=
  if s.boot.waitrec && off % 4 == 0 && bytes.length % 4 == 0 && decide (4 ≤ bytes.length)
      && decide (bytes.length ≤ 512) && decide (off + bytes.length ≤ 2 ^ 26) then
    { s with boot := { s.boot with window := Memory.write s.boot.window off bytes } }
  else s

/-- RECOVERY_WINDOW_WRITE (R341, R353). -/
def execRecoveryWindowWrite (off : Nat) (bytes : List Byte) (s : State) : Out := .next (s.writeWindow off bytes)

/-- A write of `RECGO` (R353): the window's first `len` bytes are verified. -/
def State.recgo (s : State) (len : Word) : State :=
  if s.boot.waitrec then
    s.verify s.boot.nextStage 17 (Memory.read s.boot.window 0 (min len.toNat (2 ^ 26)))
  else s

/-- RECGO (R353). -/
def execRecgo (len : Word) (s : State) : Out := .next (s.recgo len)

/-! ## Quotes (R359, R360) -/

/-- A write of `QGO` (R359): 1 requests a quote, unless one is being made. -/
def State.qgo (s : State) (v : Word) : State :=
  if v = 1 && !s.sec.busy then
    { s with sec := { s.sec with busy := true, requests := s.sec.requests ++ [⟨s.sec.nonce, some s.sec.qaddr⟩] } }
  else s

/-- QGO (R359). -/
def execQgo (v : Word) (s : State) : Out := .next (s.qgo v)

/-- QUOTE_REQUEST (R359): on the management port, with its own nonce. -/
def execQuoteRequest (nonce : BitVec 256) (s : State) : Out :=
  .next { s with sec := { s.sec with requests := s.sec.requests ++ [⟨nonce, none⟩] } }

/-- The leaf index (R360 step 1): of the valid copies the larger; none when neither is valid. -/
def Security.index (x : Security) : Option Nat :=
  match x.okA, x.okB with
  | true, true => some (max x.idxA x.idxB)
  | true, false => some x.idxA
  | false, true => some x.idxB
  | false, false => none

/-- A quote (R359): 312 bytes, their signature and four bytes of zero. -/
def State.quote (s : State) (nonce : BitVec 256) (leaf : Nat) : List Byte :=
  let head := leBytes 8 s.boot.devSer.toNat ++ leBytes 32 nonce.toNat
    ++ (s.boot.mr.toList.flatMap fun m => leBytes 64 m.toNat)
    ++ (s.boot.fuseSvn.toList.flatMap fun v => leBytes 2 v.toNat) ++ leBytes 2 0 ++ leBytes 4 leaf ++ leBytes 4 0
  head ++ xmssSign leaf head ++ leBytes 4 0

/-- A host request answered with a result (R356, R357). -/
def Security.finish (x : Security) (result : Nat) : Security := { x with busy := false, result := BitVec.ofNat 8 result }

/-- The oldest request served (R360): the index advances in both copies before the leaf signs. An exhausted store
answers so; on the management port the answer is empty. -/
def State.serveQuote (s : State) : State :=
  match s.sec.requests with
  | [] => s
  | r :: rs =>
    let x := { s.sec with requests := rs }
    let done (x : Security) : State := { s with sec := x, signals := s.signals ++ [.pf 1] }
    if (r.addr.map fun a => a.toNat % 64 != 0).getD false then done (x.finish 2)
    else
      match x.index.filter (· < 2 ^ 20), r.addr with
      | none, some _ => done (x.finish 1)
      | none, none => { s with sec := { x with answers := x.answers ++ [[]] } }
      | some i, a =>
        let x1 := { x with idxA := i + 1, idxB := i + 1, okA := true, okB := true }
        let q := s.quote r.nonce i
        match a with
        | some a => (done (x1.finish 0)).hostWrite a.toNat q
        | none => { s with sec := { x1 with answers := x1.answers ++ [q] } }

/-- QUOTE_SIGN (R360). -/
def execQuoteSign (s : State) : Out := .next s.serveQuote

/-- POWER_FAILURE (R360): the module starts anew; a request that was being served may have written no copy of the
index, one, or both, which `n` chooses (DESIGN CHOICE, log entry 6). The dump area is lost. -/
def execPowerFailure (s : State) : Out :=
  let (n, s1) := s.draw
  let x := s1.sec
  let y : Security := match x.requests, x.index with
    | _ :: _, some i =>
      if 2 ^ 20 ≤ i || n % 4 = 0 then x
      else if n % 4 = 1 then { x with okA := false, idxB := i, okB := true }
      else if n % 4 = 2 then { x with idxA := i + 1, okA := true, okB := false }
      else { x with idxA := i + 1, idxB := i + 1, okA := true, okB := true }
    | _, _ => x
  .next { { s1 with sec := y }.restart with dump := .reset }

/-! ## The device block (R356) -/

/-- A register of the device block written. -/
def State.writeDevice (s : State) (off : Nat) (v : Word) : State :=
  match off with
  | 0x0008 => s.recgo v
  | 0x0028 => if v.getLsbD 2 then { s with dump := { s.dump with finished := false, incomplete := false } } else s
  | 0x0200 => { s with sec := { s.sec with nonce := BitVec.ofNat 256 (setBits s.sec.nonce.toNat 0 64 v.toNat) } }
  | 0x0208 => { s with sec := { s.sec with nonce := BitVec.ofNat 256 (setBits s.sec.nonce.toNat 64 64 v.toNat) } }
  | 0x0210 => { s with sec := { s.sec with nonce := BitVec.ofNat 256 (setBits s.sec.nonce.toNat 128 64 v.toNat) } }
  | 0x0218 => { s with sec := { s.sec with nonce := BitVec.ofNat 256 (setBits s.sec.nonce.toNat 192 64 v.toNat) } }
  | 0x0220 => { s with sec := { s.sec with qaddr := v } }
  | 0x0228 => s.qgo v
  | _ => s

/-- CONFIG_REGISTER_WRITE (R344): a configuration register of a partition; partition number 32, through the physical
function, stands for the device block (R356, DESIGN CHOICE, log entry 30). -/
def execConfigRegisterWrite (part : Nat) (phys : Bool) (off : Nat) (v : Word) (s : State) : Out :=
  if part = 32 && phys then .next (s.writeDevice off v) else atUnit (isPart part) (s.writeConfig part phys off v)

/-- Doubleword `off / 8` of a number that fills some registers from offset `lo` up. -/
def wideDw (v lo off : Nat) : Word := BitVec.ofNat 64 (bitsAt v (8 * (off - lo)) 64)

/-- A doubleword of the device block as it reads (R356): an offset that holds no register, and one that is only written,
reads zero. -/
def State.readDevice (s : State) (off : Nat) : Word :=
  let b := s.boot
  let x := s.sec
  let nat (n : Nat) : Word := BitVec.ofNat 64 n
  if 0x0100 ≤ off && off < 0x0200 then wideDw (b.mr.getD ((off - 0x0100) / 64) 0).toNat 0 (off % 64)
  else if 0x0200 ≤ off && off < 0x0220 then wideDw x.nonce.toNat 0x0200 off
  else if 0x1000 ≤ off && off < 0x2000 then nat (leNat (Memory.read b.devCert (off - 0x1000) 8))
  else
    match off with
    | 0x0000 => nat (b.stage.toNat + 2 ^ 4 * bit b.ready + 2 ^ 5 * bit b.waitrec + 2 ^ 8 * b.err.toNat + 2 ^ 16 * b.source.toNat)
    | 0x0010 => nat ((b.fuseSvn.getD 0 0).toNat + 2 ^ 16 * (b.fuseSvn.getD 1 0).toNat + 2 ^ 32 * (b.fuseSvn.getD 2 0).toNat)
    | 0x0018 => nat b.keyRev.toNat
    | 0x0020 => b.devSer
    | 0x0028 => nat (bit s.dump.finished + 2 * bit s.dump.incomplete)
    | 0x0220 => x.qaddr
    | 0x0230 => nat (bit x.busy + 2 ^ 8 * x.result.toNat)
    | 0x0238 => nat (x.index.getD (2 ^ 20))
    | _ => 0

/-! ## The host's accesses (R341) -/

/-- A doubleword of the physical function's BAR0 (R341): the device block, the ownership blocks, zeros. -/
def State.readPf (s : State) (off : Nat) : Word :=
  if off < 0x10000 then s.readDevice off
  else if off < 0x210000 then s.readConfig (off / 0x10000 - 1) (off % 0x10000)
  else 0

/-- A register written through the physical function's BAR0 (R341). -/
def State.writePf (s : State) (off : Nat) (v : Word) : State :=
  if off < 0x10000 then s.writeDevice off v
  else if off < 0x210000 then s.writeConfig (off / 0x10000 - 1) true (off % 0x10000) v
  else s

/-- An access through a BAR0 (R341): aligned doublewords only; another access is dropped and reads all ones (DESIGN
CHOICE, log entry 30). -/
def State.bar0 (s : State) (part off n : Nat) (w : Option Word) : List Byte × State :=
  if off % 8 != 0 || n != 8 then (List.replicate n 0xFF, s)
  else
    match w with
    | none => (leBytes 8 (if part = 32 then s.readPf off else s.readConfig part off).toNat, s)
    | some v => ([], if part = 32 then s.writePf off v else s.writeConfig part false off v)

/-- An access through the physical function's BAR2 (R341): the dump area takes reads of 4 to 512 bytes, aligned to their
size; the recovery window takes writes; everything else reads all ones. -/
def State.pfBar2 (s : State) (off n : Nat) (w : Option Word) : List Byte × State :=
  match w with
  | none =>
    (if decide (4 ≤ n) && decide (n ≤ 512) && off % n == 0 && decide (off + n ≤ 2 ^ 26) then
        Memory.read s.dump.area (dumpBase s.dump.stack + off) n
      else List.replicate n 0xFF, s)
  | some v =>
    if 0x1000_0000 ≤ off && off < 0x1400_0000 then ([], s.writeWindow (off - 0x1000_0000) (leBytes n v.toNat)) else ([], s)

/-- HOST_BAR2_ACCESS (R341): a host access through a virtual function, or with number 32 the physical one, to its BAR2 or
its BAR0; what a read returns stands in `hostRead` (DESIGN CHOICE, log entry 30). -/
def execHostBar2Access (part : Nat) (p : HostPlace) (w : Option Word) (s : State) : Out :=
  let (bs, s1) :=
    if p.bar0 then s.bar0 part p.off p.n w
    else if part = 32 then s.pfBar2 p.off p.n w
    else s.vfBar2 part p.off p.n w
  atUnit (decide (part ≤ 32)) (if w.isNone then { s1 with hostRead := bs } else s1)

end Sys2Proof.Machine
end

