-- ==== Sys2Proof/Machine/Half.lean ====
section
/-! DEFINITION. The half-length form of a vector instruction (R67). -/

namespace Sys2Proof.Machine

/-- `h.vadd` (R67): `vadd vd, vd, va` under `m0`; `EREC1` holds the parcel. -/
def execHVadd (vd va : BitVec 5) (s : State) : Out :=
  laneExec (pack [1, 4, 11] [0, 13, pack [5, 5, 1] [vd.toNat, va.toNat, 0]]) 2
    ⟨famIFQ, true, vd.setWidth 6, .vec (va.setWidth 6), false, vd.setWidth 6, 0⟩ .add s

end Sys2Proof.Machine
end

