-- ==== Sys2Proof/Machine/Scalar.lean ====
section
/-! DEFINITION. The scalar computing instructions (R79-R84, R67) and the long immediates (R66). -/

namespace Sys2Proof.Machine

/-- A register-register operation (R79): both sources are read before the destination is written. -/
def aluRR (f : Word → Word → Word) (rd ra rb : BitVec 5) (s : State) : Out :=
  finish 4 (s.cur.scalarPoison [ra, rb]) s (s.writeX rd (f (s.readX ra) (s.readX rb)))

/-- A one-operand operation (R79). -/
def aluR (f : Word → Word) (rd ra : BitVec 5) (s : State) : Out :=
  finish 4 (s.cur.scalarPoison [ra]) s (s.writeX rd (f (s.readX ra)))

/-- An immediate operation (R82): the register form with the sign-extended immediate. -/
def aluRI (f : Word → Word → Word) (rd ra : BitVec 5) (imm : BitVec 14) (s : State) : Out :=
  finish 4 (s.cur.scalarPoison [ra]) s (s.writeX rd (f (s.readX ra) (imm.signExtend 64)))

/-- A shift by an immediate amount (R83). -/
def aluSh (f : Word → Word → Word) (rd ra : BitVec 5) (sh : BitVec 6) (s : State) : Out :=
  finish 4 (s.cur.scalarPoison [ra]) s (s.writeX rd (f (s.readX ra) (sh.setWidth 64)))

/-- 1 or 0. -/
def ofBool (b : Bool) : Word := if b then 1 else 0

/-- The signed quotient of R81. -/
def divSigned (a b : Word) : Word :=
  if b = 0 then 0 else BitVec.ofInt 64 (a.toInt.tdiv b.toInt)
/-- The signed remainder of R81. -/
def remSigned (a b : Word) : Word :=
  if b = 0 then a else BitVec.ofInt 64 (a.toInt.tmod b.toInt)
/-- The unsigned quotient of R81. -/
def divUnsigned (a b : Word) : Word := if b = 0 then 0 else BitVec.ofNat 64 (a.toNat / b.toNat)
/-- The unsigned remainder of R81. -/
def remUnsigned (a b : Word) : Word := if b = 0 then a else BitVec.ofNat 64 (a.toNat % b.toNat)

/-- Bits 127:64 of the exact signed product (R80). -/
def mulHigh (a b : Word) : Word := BitVec.ofInt 64 (a.toInt * b.toInt / 2 ^ 64)
/-- Bits 127:64 of the exact unsigned product (R80). -/
def mulHighU (a b : Word) : Word := BitVec.ofNat 64 (a.toNat * b.toNat / 2 ^ 64)

/-- The bits of a word from bit 0 up. -/
def bitList (a : Word) : List Bool := (List.range 64).map a.getLsbD
/-- Leading zero bits, 0 to 64 (R80). -/
def leadingZeros (a : Word) : Word := BitVec.ofNat 64 ((bitList a).reverse.takeWhile (!·)).length
/-- Trailing zero bits, 0 to 64 (R80). -/
def trailingZeros (a : Word) : Word := BitVec.ofNat 64 ((bitList a).takeWhile (!·)).length
/-- One bits (R80). -/
def popCount (a : Word) : Word := BitVec.ofNat 64 ((bitList a).filter id).length

/-- Shift left by bits 5:0 of the amount (R80). -/
def shiftLeft (a b : Word) : Word := a <<< (b.toNat % 64)
/-- Shift right with zeros in (R80). -/
def shiftRight (a b : Word) : Word := a >>> (b.toNat % 64)
/-- Shift right with copies of bit 63 in (R80). -/
def shiftArith (a b : Word) : Word := a.sshiftRight (b.toNat % 64)


/-- `add` (R80) -/
def execAdd (rd ra rb : BitVec 5) (s : State) : Out := aluRR (fun a b => a + b) rd ra rb s

/-- `sub` (R80) -/
def execSub (rd ra rb : BitVec 5) (s : State) : Out := aluRR (fun a b => a - b) rd ra rb s

/-- `and` (R80) -/
def execAnd (rd ra rb : BitVec 5) (s : State) : Out := aluRR (fun a b => a &&& b) rd ra rb s

/-- `or` (R80) -/
def execOr (rd ra rb : BitVec 5) (s : State) : Out := aluRR (fun a b => a ||| b) rd ra rb s

/-- `xor` (R80) -/
def execXor (rd ra rb : BitVec 5) (s : State) : Out := aluRR (fun a b => a ^^^ b) rd ra rb s

/-- `andn` (R80) -/
def execAndn (rd ra rb : BitVec 5) (s : State) : Out := aluRR (fun a b => a &&& ~~~b) rd ra rb s

/-- `sll` (R80) -/
def execSll (rd ra rb : BitVec 5) (s : State) : Out := aluRR (fun a b => shiftLeft a b) rd ra rb s

/-- `srl` (R80) -/
def execSrl (rd ra rb : BitVec 5) (s : State) : Out := aluRR (fun a b => shiftRight a b) rd ra rb s

/-- `sra` (R80) -/
def execSra (rd ra rb : BitVec 5) (s : State) : Out := aluRR (fun a b => shiftArith a b) rd ra rb s

/-- `slt` (R80) -/
def execSlt (rd ra rb : BitVec 5) (s : State) : Out := aluRR (fun a b => ofBool (decide (a.toInt < b.toInt))) rd ra rb s

/-- `sltu` (R80) -/
def execSltu (rd ra rb : BitVec 5) (s : State) : Out := aluRR (fun a b => ofBool (decide (a.toNat < b.toNat))) rd ra rb s

/-- `min` (R80) -/
def execMin (rd ra rb : BitVec 5) (s : State) : Out := aluRR (fun a b => if a.toInt ≤ b.toInt then a else b) rd ra rb s

/-- `max` (R80) -/
def execMax (rd ra rb : BitVec 5) (s : State) : Out := aluRR (fun a b => if a.toInt ≤ b.toInt then b else a) rd ra rb s

/-- `minu` (R80) -/
def execMinu (rd ra rb : BitVec 5) (s : State) : Out := aluRR (fun a b => if a.toNat ≤ b.toNat then a else b) rd ra rb s

/-- `maxu` (R80) -/
def execMaxu (rd ra rb : BitVec 5) (s : State) : Out := aluRR (fun a b => if a.toNat ≤ b.toNat then b else a) rd ra rb s

/-- `mul` (R80) -/
def execMul (rd ra rb : BitVec 5) (s : State) : Out := aluRR (fun a b => a * b) rd ra rb s

/-- `mulh` (R80) -/
def execMulh (rd ra rb : BitVec 5) (s : State) : Out := aluRR (fun a b => mulHigh a b) rd ra rb s

/-- `mulhu` (R80) -/
def execMulhu (rd ra rb : BitVec 5) (s : State) : Out := aluRR (fun a b => mulHighU a b) rd ra rb s

/-- `div` (R81) -/
def execDiv (rd ra rb : BitVec 5) (s : State) : Out := aluRR (fun a b => divSigned a b) rd ra rb s

/-- `divu` (R81) -/
def execDivu (rd ra rb : BitVec 5) (s : State) : Out := aluRR (fun a b => divUnsigned a b) rd ra rb s

/-- `rem` (R81) -/
def execRem (rd ra rb : BitVec 5) (s : State) : Out := aluRR (fun a b => remSigned a b) rd ra rb s

/-- `remu` (R81) -/
def execRemu (rd ra rb : BitVec 5) (s : State) : Out := aluRR (fun a b => remUnsigned a b) rd ra rb s

/-- `clz` (R80) -/
def execClz (rd ra : BitVec 5) (s : State) : Out := aluR leadingZeros rd ra s

/-- `ctz` (R80) -/
def execCtz (rd ra : BitVec 5) (s : State) : Out := aluR trailingZeros rd ra s

/-- `popc` (R80) -/
def execPopc (rd ra : BitVec 5) (s : State) : Out := aluR popCount rd ra s

/-- `addi` (R82) -/
def execAddi (rd ra : BitVec 5) (imm : BitVec 14) (s : State) : Out := aluRI (fun a b => a + b) rd ra imm s

/-- `andi` (R82) -/
def execAndi (rd ra : BitVec 5) (imm : BitVec 14) (s : State) : Out := aluRI (fun a b => a &&& b) rd ra imm s

/-- `ori` (R82) -/
def execOri (rd ra : BitVec 5) (imm : BitVec 14) (s : State) : Out := aluRI (fun a b => a ||| b) rd ra imm s

/-- `xori` (R82) -/
def execXori (rd ra : BitVec 5) (imm : BitVec 14) (s : State) : Out := aluRI (fun a b => a ^^^ b) rd ra imm s

/-- `slti` (R82) -/
def execSlti (rd ra : BitVec 5) (imm : BitVec 14) (s : State) : Out := aluRI (fun a b => ofBool (decide (a.toInt < b.toInt))) rd ra imm s

/-- `sltiu` (R82) -/
def execSltiu (rd ra : BitVec 5) (imm : BitVec 14) (s : State) : Out := aluRI (fun a b => ofBool (decide (a.toNat < b.toNat))) rd ra imm s

/-- `slli` (R83) -/
def execSlli (rd ra : BitVec 5) (sh : BitVec 6) (s : State) : Out := aluSh shiftLeft rd ra sh s

/-- `srli` (R83) -/
def execSrli (rd ra : BitVec 5) (sh : BitVec 6) (s : State) : Out := aluSh shiftRight rd ra sh s

/-- `srai` (R83) -/
def execSrai (rd ra : BitVec 5) (sh : BitVec 6) (s : State) : Out := aluSh shiftArith rd ra sh s

/-- `lui` (R84): `imm19 * 2^14`, sign-extended -/
def execLui (rd : BitVec 5) (imm : BitVec 19) (s : State) : Out :=
  finish 4 none s (s.writeX rd ((imm ++ (0#14)).signExtend 64))

/-- `ldpc` (R84): the PC plus the offset in halfwords -/
def execLdpc (rd : BitVec 5) (imm : BitVec 19) (s : State) : Out :=
  finish 4 none s (s.writeX rd (s.cur.pc + (imm.signExtend 64) * 2))


/-- `li` (R66) -/
def execLi (rd : BitVec 5) (imm : BitVec 50) (s : State) : Out :=
  finish 8 none s (s.writeX rd (imm.signExtend 64))

/-- `li.hi` (R66): bits 13:0 of the register stay -/
def execLiHi (rd : BitVec 5) (imm : BitVec 50) (s : State) : Out :=
  finish 8 (s.cur.scalarPoison [rd]) s (s.writeX rd (imm ++ (s.readX rd).setWidth 14))

/-- `h.addi` (R67): `addi rd, rd, imm` -/
def execHAddi (rd : BitVec 5) (imm : BitVec 6) (s : State) : Out :=
  finish 2 (s.cur.scalarPoison [rd]) s (s.writeX rd (s.readX rd + imm.signExtend 64))

/-- `h.li` (R67): `addi rd, zr, imm` -/
def execHLi (rd : BitVec 5) (imm : BitVec 6) (s : State) : Out :=
  finish 2 none s (s.writeX rd (imm.signExtend 64))

/-- `h.mv` (R67): `addi rd, ra, 0` -/
def execHMv (rd ra : BitVec 5) (s : State) : Out :=
  finish 2 (s.cur.scalarPoison [ra]) s (s.writeX rd (s.readX ra))

/-- `h.add` (R67): `add rd, rd, ra` -/
def execHAdd (rd ra : BitVec 5) (s : State) : Out :=
  finish 2 (s.cur.scalarPoison [rd, ra]) s (s.writeX rd (s.readX rd + s.readX ra))

/-- `h.sub` (R67): `sub rd, rd, ra` -/
def execHSub (rd ra : BitVec 5) (s : State) : Out :=
  finish 2 (s.cur.scalarPoison [rd, ra]) s (s.writeX rd (s.readX rd - s.readX ra))

/-- `h.nop` (R67): no effect; `INSTRET` counts it -/
def execHNop (s : State) : Out := finish 2 none s s


end Sys2Proof.Machine
end

