-- ==== Sys2Proof/Machine/Upkeep.lean ====
section
/-! DEFINITION. Clocks (R4), throttling (R6), register errors (R322). -/

namespace Sys2Proof.Machine

/-- CORE_CLOCK_CYCLE (R4): `CYCLE` of the core counts it. -/
def execCoreClockCycle (core : Nat) (s : State) : Out :=
  atUnit (decide (core < 256)) (s.setCore core { s.core core with cycle := (s.core core).cycle + 1 })

/-- POWER_THROTTLE (R6): a stage entered, or left with stage 0; firmware logs it; timing only. -/
def execPowerThrottle (stage : Nat) (s : State) : Out :=
  atUnit (decide (stage ≤ 2)) { s with throttle := stage, log := s.log ++ [.throttle stage] }

/-- An uncorrectable error in a word of a hart's registers, or in an entry of its tiles (R177, R322). -/
def Hart.strike (h : Hart) : PoisonSite → Hart
  | .vreg r w => h.setV r.toNat { h.vreg r.toNat with poison := (h.vreg r.toNat).poison ||| (1#256 <<< w.toNat) }
  | .mask m w =>
    let k := h.m.getD m.toNat .reset
    if m = 0 then h else { h with m := h.m.setIfInBounds m.toNat { k with poison := k.poison ||| (1#256 <<< w.toNat) } }
  | .scalar r => if r = 0 then h else { h with xPoison := h.xPoison ||| (1#32 <<< r.toNat) }
  | .tile t e =>
    let k := h.tiles.getD t.toNat .reset
    if h.ntiles ≤ t.toNat then h
    else { h with tiles := h.tiles.setIfInBounds t.toNat { k with poison := insertNat k.poison e.toNat } }

/-- REGISTER_POISON (R322): a placed context's registers only. -/
def execRegisterPoison (k : CtxKey) (site : PoisonSite) (s : State) : Out :=
  .next (s.updHart k fun h => if h.placed then h.strike site else h)

end Sys2Proof.Machine
end

