-- ==== Sys2Proof/Machine/Dispatch.lean ====
section
/-! DEFINITION. One arm per constructor of Instr: a direct call of its meaning. -/

namespace Sys2Proof.Machine

/-- The meaning of one step of the device. -/
def exec (i : Instr) (s : State) : Host.Outcome State Fault Refusal :=
  match i with
  | .add rd ra rb => Sys2Proof.Machine.execAdd rd ra rb s
  | .sub rd ra rb => Sys2Proof.Machine.execSub rd ra rb s
  | .and rd ra rb => Sys2Proof.Machine.execAnd rd ra rb s
  | .or rd ra rb => Sys2Proof.Machine.execOr rd ra rb s
  | .xor rd ra rb => Sys2Proof.Machine.execXor rd ra rb s
  | .andn rd ra rb => Sys2Proof.Machine.execAndn rd ra rb s
  | .sll rd ra rb => Sys2Proof.Machine.execSll rd ra rb s
  | .srl rd ra rb => Sys2Proof.Machine.execSrl rd ra rb s
  | .sra rd ra rb => Sys2Proof.Machine.execSra rd ra rb s
  | .slt rd ra rb => Sys2Proof.Machine.execSlt rd ra rb s
  | .sltu rd ra rb => Sys2Proof.Machine.execSltu rd ra rb s
  | .min rd ra rb => Sys2Proof.Machine.execMin rd ra rb s
  | .max rd ra rb => Sys2Proof.Machine.execMax rd ra rb s
  | .minu rd ra rb => Sys2Proof.Machine.execMinu rd ra rb s
  | .maxu rd ra rb => Sys2Proof.Machine.execMaxu rd ra rb s
  | .mul rd ra rb => Sys2Proof.Machine.execMul rd ra rb s
  | .mulh rd ra rb => Sys2Proof.Machine.execMulh rd ra rb s
  | .mulhu rd ra rb => Sys2Proof.Machine.execMulhu rd ra rb s
  | .div rd ra rb => Sys2Proof.Machine.execDiv rd ra rb s
  | .divu rd ra rb => Sys2Proof.Machine.execDivu rd ra rb s
  | .rem rd ra rb => Sys2Proof.Machine.execRem rd ra rb s
  | .remu rd ra rb => Sys2Proof.Machine.execRemu rd ra rb s
  | .clz rd ra => Sys2Proof.Machine.execClz rd ra s
  | .ctz rd ra => Sys2Proof.Machine.execCtz rd ra s
  | .popc rd ra => Sys2Proof.Machine.execPopc rd ra s
  | .addi rd ra imm => Sys2Proof.Machine.execAddi rd ra imm s
  | .andi rd ra imm => Sys2Proof.Machine.execAndi rd ra imm s
  | .ori rd ra imm => Sys2Proof.Machine.execOri rd ra imm s
  | .xori rd ra imm => Sys2Proof.Machine.execXori rd ra imm s
  | .slti rd ra imm => Sys2Proof.Machine.execSlti rd ra imm s
  | .sltiu rd ra imm => Sys2Proof.Machine.execSltiu rd ra imm s
  | .slli rd ra sh => Sys2Proof.Machine.execSlli rd ra sh s
  | .srli rd ra sh => Sys2Proof.Machine.execSrli rd ra sh s
  | .srai rd ra sh => Sys2Proof.Machine.execSrai rd ra sh s
  | .lui rd imm => Sys2Proof.Machine.execLui rd imm s
  | .ldpc rd imm => Sys2Proof.Machine.execLdpc rd imm s
  | .ldB rd rb ord scope evict imm => Sys2Proof.Machine.execLdB rd rb ord scope evict imm s
  | .ldBu rd rb ord scope evict imm => Sys2Proof.Machine.execLdBu rd rb ord scope evict imm s
  | .ldH rd rb ord scope evict imm => Sys2Proof.Machine.execLdH rd rb ord scope evict imm s
  | .ldHu rd rb ord scope evict imm => Sys2Proof.Machine.execLdHu rd rb ord scope evict imm s
  | .ldW rd rb ord scope evict imm => Sys2Proof.Machine.execLdW rd rb ord scope evict imm s
  | .ldWu rd rb ord scope evict imm => Sys2Proof.Machine.execLdWu rd rb ord scope evict imm s
  | .ldD rd rb ord scope evict imm => Sys2Proof.Machine.execLdD rd rb ord scope evict imm s
  | .stB rs rb ord scope evict imm => Sys2Proof.Machine.execStB rs rb ord scope evict imm s
  | .stH rs rb ord scope evict imm => Sys2Proof.Machine.execStH rs rb ord scope evict imm s
  | .stW rs rb ord scope evict imm => Sys2Proof.Machine.execStW rs rb ord scope evict imm s
  | .stD rs rb ord scope evict imm => Sys2Proof.Machine.execStD rs rb ord scope evict imm s
  | .beq ra rb off => Sys2Proof.Machine.execBeq ra rb off s
  | .bne ra rb off => Sys2Proof.Machine.execBne ra rb off s
  | .blt ra rb off => Sys2Proof.Machine.execBlt ra rb off s
  | .bge ra rb off => Sys2Proof.Machine.execBge ra rb off s
  | .bltu ra rb off => Sys2Proof.Machine.execBltu ra rb off s
  | .bgeu ra rb off => Sys2Proof.Machine.execBgeu ra rb off s
  | .jal rd off => Sys2Proof.Machine.execJal rd off s
  | .jalr rd ra imm => Sys2Proof.Machine.execJalr rd ra imm s
  | .loopSet ra tag grp tp mp => Sys2Proof.Machine.execLoopSet ra tag grp tp mp s
  | .loopNext off => Sys2Proof.Machine.execLoopNext off s
  | .farmSet ra tag grp tp mp => Sys2Proof.Machine.execFarmSet ra tag grp tp mp s
  | .csrr rd csr => Sys2Proof.Machine.execCsrr rd csr s
  | .csrw rd csr ra => Sys2Proof.Machine.execCsrw rd csr ra s
  | .csrs rd csr ra => Sys2Proof.Machine.execCsrs rd csr ra s
  | .csrc rd csr ra => Sys2Proof.Machine.execCsrc rd csr ra s
  | .svc imm => Sys2Proof.Machine.execSvc imm s
  | .brk imm => Sys2Proof.Machine.execBrk imm s
  | .exit ra => Sys2Proof.Machine.execExit ra s
  | .cachectlSynci ra => Sys2Proof.Machine.execCachectlSynci ra s
  | .cachectlWb ra => Sys2Proof.Machine.execCachectlWb ra s
  | .cachectlWbinv ra => Sys2Proof.Machine.execCachectlWbinv ra s
  | .cachectlPf1 ra => Sys2Proof.Machine.execCachectlPf1 ra s
  | .cachectlPf2 ra => Sys2Proof.Machine.execCachectlPf2 ra s
  | .cachectlZero ra => Sys2Proof.Machine.execCachectlZero ra s
  | .eret => Sys2Proof.Machine.execEret s
  | .tlbinv kind ra => Sys2Proof.Machine.execTlbinv kind ra s
  | .ctxResumeRetry ra => Sys2Proof.Machine.execCtxResumeRetry ra s
  | .ctxResumeSkip ra => Sys2Proof.Machine.execCtxResumeSkip ra s
  | .ctxSave ra => Sys2Proof.Machine.execCtxSave ra s
  | .fence pred succ scope => Sys2Proof.Machine.execFence pred succ scope s
  | .amoAdd rd ra rb ord scope => Sys2Proof.Machine.execAmoAdd rd ra rb ord scope s
  | .amoAnd rd ra rb ord scope => Sys2Proof.Machine.execAmoAnd rd ra rb ord scope s
  | .amoOr rd ra rb ord scope => Sys2Proof.Machine.execAmoOr rd ra rb ord scope s
  | .amoXor rd ra rb ord scope => Sys2Proof.Machine.execAmoXor rd ra rb ord scope s
  | .amoMin rd ra rb ord scope => Sys2Proof.Machine.execAmoMin rd ra rb ord scope s
  | .amoMax rd ra rb ord scope => Sys2Proof.Machine.execAmoMax rd ra rb ord scope s
  | .amoMinu rd ra rb ord scope => Sys2Proof.Machine.execAmoMinu rd ra rb ord scope s
  | .amoMaxu rd ra rb ord scope => Sys2Proof.Machine.execAmoMaxu rd ra rb ord scope s
  | .amoSwap rd ra rb ord scope => Sys2Proof.Machine.execAmoSwap rd ra rb ord scope s
  | .amoCas rd ra rb ord scope => Sys2Proof.Machine.execAmoCas rd ra rb ord scope s
  | .barInit rb ra scope => Sys2Proof.Machine.execBarInit rb ra scope s
  | .barArv rd rb scope => Sys2Proof.Machine.execBarArv rd rb scope s
  | .barWait rb ra scope => Sys2Proof.Machine.execBarWait rb ra scope s
  | .barArvwait rd rb scope => Sys2Proof.Machine.execBarArvwait rd rb scope s
  | .tkwait => Sys2Proof.Machine.execTkwait s
  | .tktrig => Sys2Proof.Machine.execTktrig s
  | .taskSpawn rd ra => Sys2Proof.Machine.execTaskSpawn rd ra s
  | .vcfg vd tag dom grp => Sys2Proof.Machine.execVcfg vd tag dom grp s
  | .vlreq rd ra tag grp tp mp => Sys2Proof.Machine.execVlreq rd ra tag grp tp mp s
  | .vtagr rd va => Sys2Proof.Machine.execVtagr rd va s
  | .vdim dk ra rb => Sys2Proof.Machine.execVdim dk ra rb s
  | .shpLd entry ra => Sys2Proof.Machine.execShpLd entry ra s
  | .vld vd xb mode mask ord scope evict => Sys2Proof.Machine.execVld vd xb mode mask ord scope evict s
  | .vst vs xb mode mask ord scope evict => Sys2Proof.Machine.execVst vs xb mode mask ord scope evict s
  | .vldc vd xb mode cm ord scope evict => Sys2Proof.Machine.execVldc vd xb mode cm ord scope evict s
  | .vspill vd xb imm => Sys2Proof.Machine.execVspill vd xb imm s
  | .vfill vd xb imm => Sys2Proof.Machine.execVfill vd xb imm s
  | .vldx vd vi xb scale mask ord scope evict => Sys2Proof.Machine.execVldx vd vi xb scale mask ord scope evict s
  | .vstx vs vi xb scale mask ord scope evict => Sys2Proof.Machine.execVstx vs vi xb scale mask ord scope evict s
  | .vamoadd vs vi xb scale mask ord scope evict => Sys2Proof.Machine.execVamoadd vs vi xb scale mask ord scope evict s
  | .vadd vd va vb mask => Sys2Proof.Machine.execVadd vd va vb mask s
  | .vsub vd va vb mask => Sys2Proof.Machine.execVsub vd va vb mask s
  | .vmul vd va vb mask => Sys2Proof.Machine.execVmul vd va vb mask s
  | .vmin vd va vb mask => Sys2Proof.Machine.execVmin vd va vb mask s
  | .vmax vd va vb mask => Sys2Proof.Machine.execVmax vd va vb mask s
  | .vabs vd va mask => Sys2Proof.Machine.execVabs vd va mask s
  | .vneg vd va mask => Sys2Proof.Machine.execVneg vd va mask s
  | .vfma vd va vb mask => Sys2Proof.Machine.execVfma vd va vb mask s
  | .vfms vd va vb mask => Sys2Proof.Machine.execVfms vd va vb mask s
  | .vfnma vd va vb mask => Sys2Proof.Machine.execVfnma vd va vb mask s
  | .vdiv vd va vb mask => Sys2Proof.Machine.execVdiv vd va vb mask s
  | .vsqrt vd va mask => Sys2Proof.Machine.execVsqrt vd va mask s
  | .vand vd va vb mask => Sys2Proof.Machine.execVand vd va vb mask s
  | .vor vd va vb mask => Sys2Proof.Machine.execVor vd va vb mask s
  | .vxor vd va vb mask => Sys2Proof.Machine.execVxor vd va vb mask s
  | .vnot vd va mask => Sys2Proof.Machine.execVnot vd va mask s
  | .vsll vd va vb mask => Sys2Proof.Machine.execVsll vd va vb mask s
  | .vsrl vd va vb mask => Sys2Proof.Machine.execVsrl vd va vb mask s
  | .vsra vd va vb mask => Sys2Proof.Machine.execVsra vd va vb mask s
  | .vmulh vd va vb mask => Sys2Proof.Machine.execVmulh vd va vb mask s
  | .vmulr vd va vb mask => Sys2Proof.Machine.execVmulr vd va vb mask s
  | .vaddr vd va vb mask => Sys2Proof.Machine.execVaddr vd va vb mask s
  | .vrcps vd va vb mask => Sys2Proof.Machine.execVrcps vd va vb mask s
  | .vrsqs vd va vb mask => Sys2Proof.Machine.execVrsqs vd va vb mask s
  | .vcmpEq md va vb mask => Sys2Proof.Machine.execVcmpEq md va vb mask s
  | .vcmpLt md va vb mask => Sys2Proof.Machine.execVcmpLt md va vb mask s
  | .vcmpLe md va vb mask => Sys2Proof.Machine.execVcmpLe md va vb mask s
  | .vcvt vd va tag mask => Sys2Proof.Machine.execVcvt vd va tag mask s
  | .vwiden vd va tag mask => Sys2Proof.Machine.execVwiden vd va tag mask s
  | .vnarrow vd va tag mask => Sys2Proof.Machine.execVnarrow vd va tag mask s
  | .vaddX vd va xb mask => Sys2Proof.Machine.execVaddX vd va xb mask s
  | .vsubX vd va xb mask => Sys2Proof.Machine.execVsubX vd va xb mask s
  | .vsubXRev vd va xb mask => Sys2Proof.Machine.execVsubXRev vd va xb mask s
  | .vmulX vd va xb mask => Sys2Proof.Machine.execVmulX vd va xb mask s
  | .vfmaX vd va xb mask => Sys2Proof.Machine.execVfmaX vd va xb mask s
  | .vminX vd va xb mask => Sys2Proof.Machine.execVminX vd va xb mask s
  | .vmaxX vd va xb mask => Sys2Proof.Machine.execVmaxX vd va xb mask s
  | .vbcast vd xb mask => Sys2Proof.Machine.execVbcast vd xb mask s
  | .vsllX vd va xb mask => Sys2Proof.Machine.execVsllX vd va xb mask s
  | .vsrlX vd va xb mask => Sys2Proof.Machine.execVsrlX vd va xb mask s
  | .vsraX vd va xb mask => Sys2Proof.Machine.execVsraX vd va xb mask s
  | .vcmpEqx md va xb mask => Sys2Proof.Machine.execVcmpEqx md va xb mask s
  | .vcmpLtx md va xb mask => Sys2Proof.Machine.execVcmpLtx md va xb mask s
  | .vcmpLtxRev md va xb mask => Sys2Proof.Machine.execVcmpLtxRev md va xb mask s
  | .vcmpLex md va xb mask => Sys2Proof.Machine.execVcmpLex md va xb mask s
  | .vcmpLexRev md va xb mask => Sys2Proof.Machine.execVcmpLexRev md va xb mask s
  | .vmvXv xd va xb => Sys2Proof.Machine.execVmvXv xd va xb s
  | .vmvVx vd xa xb => Sys2Proof.Machine.execVmvVx vd xa xb s
  | .vexpFast vd va mask => Sys2Proof.Machine.execVexpFast vd va mask s
  | .vlogFast vd va mask => Sys2Proof.Machine.execVlogFast vd va mask s
  | .vrcpFast vd va mask => Sys2Proof.Machine.execVrcpFast vd va mask s
  | .vrsqrtFast vd va mask => Sys2Proof.Machine.execVrsqrtFast vd va mask s
  | .vtanhFast vd va mask => Sys2Proof.Machine.execVtanhFast vd va mask s
  | .vsigmFast vd va mask => Sys2Proof.Machine.execVsigmFast vd va mask s
  | .vgeluFast vd va mask => Sys2Proof.Machine.execVgeluFast vd va mask s
  | .vsiluFast vd va mask => Sys2Proof.Machine.execVsiluFast vd va mask s
  | .vexpAcc vd va mask => Sys2Proof.Machine.execVexpAcc vd va mask s
  | .vlogAcc vd va mask => Sys2Proof.Machine.execVlogAcc vd va mask s
  | .vrcpAcc vd va mask => Sys2Proof.Machine.execVrcpAcc vd va mask s
  | .vrsqrtAcc vd va mask => Sys2Proof.Machine.execVrsqrtAcc vd va mask s
  | .vtanhAcc vd va mask => Sys2Proof.Machine.execVtanhAcc vd va mask s
  | .vsigmAcc vd va mask => Sys2Proof.Machine.execVsigmAcc vd va mask s
  | .vgeluAcc vd va mask => Sys2Proof.Machine.execVgeluAcc vd va mask s
  | .vsiluAcc vd va mask => Sys2Proof.Machine.execVsiluAcc vd va mask s
  | .vredsumOrd vd va vb mask => Sys2Proof.Machine.execVredsumOrd vd va vb mask s
  | .vredsumTree vd va vb mask => Sys2Proof.Machine.execVredsumTree vd va vb mask s
  | .vredmax vd va vb mask => Sys2Proof.Machine.execVredmax vd va vb mask s
  | .vredmin vd va vb mask => Sys2Proof.Machine.execVredmin vd va vb mask s
  | .vredsumw vd va vb mask => Sys2Proof.Machine.execVredsumw vd va vb mask s
  | .vredand vd va vb mask => Sys2Proof.Machine.execVredand vd va vb mask s
  | .vredor vd va vb mask => Sys2Proof.Machine.execVredor vd va vb mask s
  | .vredxor vd va vb mask => Sys2Proof.Machine.execVredxor vd va vb mask s
  | .vpopc xd ma mask => Sys2Proof.Machine.execVpopc xd ma mask s
  | .vfirst xd ma mask => Sys2Proof.Machine.execVfirst xd ma mask s
  | .mand md ma mb => Sys2Proof.Machine.execMand md ma mb s
  | .mor md ma mb => Sys2Proof.Machine.execMor md ma mb s
  | .mxor md ma mb => Sys2Proof.Machine.execMxor md ma mb s
  | .mnot md ma => Sys2Proof.Machine.execMnot md ma s
  | .mandn md ma mb => Sys2Proof.Machine.execMandn md ma mb s
  | .mset md => Sys2Proof.Machine.execMset md s
  | .vslideup vd va xb mask => Sys2Proof.Machine.execVslideup vd va xb mask s
  | .vslidedn vd va xb mask => Sys2Proof.Machine.execVslidedn vd va xb mask s
  | .vrot vd va xb mask => Sys2Proof.Machine.execVrot vd va xb mask s
  | .vperm vd va vb mask => Sys2Proof.Machine.execVperm vd va vb mask s
  | .vcompress vd va mask => Sys2Proof.Machine.execVcompress vd va mask s
  | .vexpand vd va mask => Sys2Proof.Machine.execVexpand vd va mask s
  | .vzip vd va vb mask => Sys2Proof.Machine.execVzip vd va vb mask s
  | .vunzip vd va vb mask => Sys2Proof.Machine.execVunzip vd va vb mask s
  | .vtrans vd va mask => Sys2Proof.Machine.execVtrans vd va mask s
  | .vmerge vd va vb mask => Sys2Proof.Machine.execVmerge vd va vb mask s
  | .vmv vd va mask => Sys2Proof.Machine.execVmv vd va mask s
  | .vtidx vd va entry => Sys2Proof.Machine.execVtidx vd va entry s
  | .vid vd => Sys2Proof.Machine.execVid vd s
  | .vquant vd va tag mask => Sys2Proof.Machine.execVquant vd va tag mask s
  | .vdeq vd va tag mask => Sys2Proof.Machine.execVdeq vd va tag mask s
  | .vhaar vd va lev mask => Sys2Proof.Machine.execVhaar vd va lev mask s
  | .vihaar vd va mask => Sys2Proof.Machine.execVihaar vd va mask s
  | .vthr vd va mask => Sys2Proof.Machine.execVthr vd va mask s
  | .vsig md va mask => Sys2Proof.Machine.execVsig md va mask s
  | .vdom xd va => Sys2Proof.Machine.execVdom xd va s
  | .vstw vs xb lev thr mask ord scope evict => Sys2Proof.Machine.execVstw vs xb lev thr mask ord scope evict s
  | .tclr tile exp slot set wait => Sys2Proof.Machine.execTclr tile exp slot set wait s
  | .bpacc tile va vb am bm slot set wait => Sys2Proof.Machine.execBpacc tile va vb am bm slot set wait s
  | .bpsub tile va vb am bm slot set wait => Sys2Proof.Machine.execBpsub tile va vb am bm slot set wait s
  | .mrd vd tile xb slot set wait => Sys2Proof.Machine.execMrd vd tile xb slot set wait s
  | .mcol vd tile xb slot set wait => Sys2Proof.Machine.execMcol vd tile xb slot set wait s
  | .mwr tile va xb slot set wait => Sys2Proof.Machine.execMwr tile va xb slot set wait s
  | .mld tile xa xb slot set wait => Sys2Proof.Machine.execMld tile xa xb slot set wait s
  | .mst tile xa xb slot set wait => Sys2Proof.Machine.execMst tile xa xb slot set wait s
  | .mwait slot wait => Sys2Proof.Machine.execMwait slot wait s
  | .hbind vd va vb mask => Sys2Proof.Machine.execHbind vd va vb mask s
  | .hbundle vd va mask => Sys2Proof.Machine.execHbundle vd va mask s
  | .hmaj vd va vb mask => Sys2Proof.Machine.execHmaj vd va vb mask s
  | .hperm vd va xb mask => Sys2Proof.Machine.execHperm vd va xb mask s
  | .hsim xd va vb mask => Sys2Proof.Machine.execHsim xd va vb mask s
  | .hrand vd xb mask => Sys2Proof.Machine.execHrand vd xb mask s
  | .hclean xd va xb xn => Sys2Proof.Machine.execHclean xd va xb xn s
  | .hfact xd va xb xn => Sys2Proof.Machine.execHfact xd va xb xn s
  | .cpy xd xs xn chunk chan cm bar xbar ord scope evict => Sys2Proof.Machine.execCpy xd xs xn chunk chan cm bar xbar ord scope evict s
  | .cpyz xd xn chunk chan cm bar xbar ord scope evict => Sys2Proof.Machine.execCpyz xd xn chunk chan cm bar xbar ord scope evict s
  | .cmask cm => Sys2Proof.Machine.execCmask cm s
  | .collRed vd va gk op mask => Sys2Proof.Machine.execCollRed vd va gk op mask s
  | .collGat vd va gk mask => Sys2Proof.Machine.execCollGat vd va gk mask s
  | .collSct vd va gk xroot mask => Sys2Proof.Machine.execCollSct vd va gk xroot mask s
  | .collBc vd va gk xroot mask => Sys2Proof.Machine.execCollBc vd va gk xroot mask s
  | .collA2a vd va gk mask => Sys2Proof.Machine.execCollA2a vd va gk mask s
  | .gset gk xa => Sys2Proof.Machine.execGset gk xa s
  | .li rd imm => Sys2Proof.Machine.execLi rd imm s
  | .liHi rd imm => Sys2Proof.Machine.execLiHi rd imm s
  | .hAddi rd imm => Sys2Proof.Machine.execHAddi rd imm s
  | .hLi rd imm => Sys2Proof.Machine.execHLi rd imm s
  | .hMv rd ra => Sys2Proof.Machine.execHMv rd ra s
  | .hAdd rd ra => Sys2Proof.Machine.execHAdd rd ra s
  | .hSub rd ra => Sys2Proof.Machine.execHSub rd ra s
  | .hLdD rd rb imm => Sys2Proof.Machine.execHLdD rd rb imm s
  | .hStD rs rb imm => Sys2Proof.Machine.execHStD rs rb imm s
  | .hLdW rd rb imm => Sys2Proof.Machine.execHLdW rd rb imm s
  | .hStW rs rb imm => Sys2Proof.Machine.execHStW rs rb imm s
  | .hBeqz ra off => Sys2Proof.Machine.execHBeqz ra off s
  | .hBnez ra off => Sys2Proof.Machine.execHBnez ra off s
  | .hJ off => Sys2Proof.Machine.execHJ off s
  | .hLoopnext off => Sys2Proof.Machine.execHLoopnext off s
  | .hVadd vd va => Sys2Proof.Machine.execHVadd vd va s
  | .hNop => Sys2Proof.Machine.execHNop s
  | .hBrk imm => Sys2Proof.Machine.execHBrk imm s
  | .bwphaseWrite k v => Sys2Proof.Machine.execBwphaseWrite k v s
  | .hartExitComplete k => Sys2Proof.Machine.execHartExitComplete k s
  | .barWaitComplete k => Sys2Proof.Machine.execBarWaitComplete k s
  | .tkwaitComplete k => Sys2Proof.Machine.execTkwaitComplete k s
  | .matrixComplete k n => Sys2Proof.Machine.execMatrixComplete k n s
  | .copyChunk k xfer chunk => Sys2Proof.Machine.execCopyChunk k xfer chunk s
  | .copyTransferFinish k xfer => Sys2Proof.Machine.execCopyTransferFinish k xfer s
  | .collectiveComplete k => Sys2Proof.Machine.execCollectiveComplete k s
  | .takeTrap k => Sys2Proof.Machine.execTakeTrap k s
  | .faultRecordWrite part => Sys2Proof.Machine.execFaultRecordWrite part s
  | .faultQueueHeadWrite part v => Sys2Proof.Machine.execFaultQueueHeadWrite part v s
  | .registerPoison k site => Sys2Proof.Machine.execRegisterPoison k site s
  | .contextKill k pa sub => Sys2Proof.Machine.execContextKill k pa sub s
  | .dispatchDecision part => Sys2Proof.Machine.execDispatchDecision part s
  | .preempt part => Sys2Proof.Machine.execPreempt part s
  | .contextSaveEnd k => Sys2Proof.Machine.execContextSaveEnd k s
  | .hostLaunch part rec => Sys2Proof.Machine.execHostLaunch part rec s
  | .taskEnd part task => Sys2Proof.Machine.execTaskEnd part task s
  | .completionRecordWrite part => Sys2Proof.Machine.execCompletionRecordWrite part s
  | .cqheadWrite part v => Sys2Proof.Machine.execCqheadWrite part v s
  | .hostKill part v => Sys2Proof.Machine.execHostKill part v s
  | .hostShootdown part v => Sys2Proof.Machine.execHostShootdown part v s
  | .responderShootdown core => Sys2Proof.Machine.execResponderShootdown core s
  | .shootdownComplete part => Sys2Proof.Machine.execShootdownComplete part s
  | .pteInsert part t f v => Sys2Proof.Machine.execPteInsert part t f v s
  | .pteRemove part t f v => Sys2Proof.Machine.execPteRemove part t f v s
  | .migrationStart part t f v => Sys2Proof.Machine.execMigrationStart part t f v s
  | .migrationLineCopy t f => Sys2Proof.Machine.execMigrationLineCopy t f s
  | .migrationSwitch t f => Sys2Proof.Machine.execMigrationSwitch t f s
  | .migrationEnd t f => Sys2Proof.Machine.execMigrationEnd t f s
  | .linePrefetch k addr => Sys2Proof.Machine.execLinePrefetch k addr s
  | .lineWriteback line => Sys2Proof.Machine.execLineWriteback line s
  | .bankIdleStandby bank => Sys2Proof.Machine.execBankIdleStandby bank s
  | .bankIdleRetention bank => Sys2Proof.Machine.execBankIdleRetention bank s
  | .bankWake bank => Sys2Proof.Machine.execBankWake bank s
  | .bankPowerOff bank => Sys2Proof.Machine.execBankPowerOff bank s
  | .bankWakeForAllocation bank => Sys2Proof.Machine.execBankWakeForAllocation bank s
  | .phaseAcknowledge k => Sys2Proof.Machine.execPhaseAcknowledge k s
  | .phaseWithdraw bank => Sys2Proof.Machine.execPhaseWithdraw bank s
  | .thermalEmergency => Sys2Proof.Machine.execThermalEmergency s
  | .bankRetireRequest bank => Sys2Proof.Machine.execBankRetireRequest bank s
  | .remappingStep bank => Sys2Proof.Machine.execRemappingStep bank s
  | .segmodeWrite part hi v => Sys2Proof.Machine.execSegmodeWrite part hi v s
  | .segmentModeChangeComplete part seg => Sys2Proof.Machine.execSegmentModeChangeComplete part seg s
  | .partitionEnable part frames => Sys2Proof.Machine.execPartitionEnable part frames s
  | .columnRemove part map => Sys2Proof.Machine.execColumnRemove part map s
  | .columnAdd part map => Sys2Proof.Machine.execColumnAdd part map s
  | .columnDrainComplete part col => Sys2Proof.Machine.execColumnDrainComplete part col s
  | .channelDrop part map => Sys2Proof.Machine.execChannelDrop part map s
  | .channelAdd part map => Sys2Proof.Machine.execChannelAdd part map s
  | .shareWrite part x v => Sys2Proof.Machine.execShareWrite part x v s
  | .configRegisterWrite part phys off v => Sys2Proof.Machine.execConfigRegisterWrite part phys off v s
  | .hostBar2Access part p w => Sys2Proof.Machine.execHostBar2Access part p w s
  | .tokenBucketRefill bucket n => Sys2Proof.Machine.execTokenBucketRefill bucket n s
  | .powerThrottle stage => Sys2Proof.Machine.execPowerThrottle stage s
  | .blufoldDLinkFailure link => Sys2Proof.Machine.execBlufoldDLinkFailure link s
  | .flitReplayRequest port r => Sys2Proof.Machine.execFlitReplayRequest port r s
  | .portDown port => Sys2Proof.Machine.execPortDown port s
  | .portUp p => Sys2Proof.Machine.execPortUp p s
  | .readRequest p => Sys2Proof.Machine.execReadRequest p s
  | .readResponse p => Sys2Proof.Machine.execReadResponse p s
  | .write p => Sys2Proof.Machine.execWrite p s
  | .writeAcknowledgement p => Sys2Proof.Machine.execWriteAcknowledgement p s
  | .atomic p => Sys2Proof.Machine.execAtomic p s
  | .atomicResponse p => Sys2Proof.Machine.execAtomicResponse p s
  | .collectiveContribution p c => Sys2Proof.Machine.execCollectiveContribution p c s
  | .collectiveResult p => Sys2Proof.Machine.execCollectiveResult p s
  | .linkControl p => Sys2Proof.Machine.execLinkControl p s
  | .requestResend tag => Sys2Proof.Machine.execRequestResend tag s
  | .compressorOn port => Sys2Proof.Machine.execCompressorOn port s
  | .compressorOff port => Sys2Proof.Machine.execCompressorOff port s
  | .refresh bank => Sys2Proof.Machine.execRefresh bank s
  | .refreshManagement bank => Sys2Proof.Machine.execRefreshManagement bank s
  | .emberQuiesce bus => Sys2Proof.Machine.execEmberQuiesce bus s
  | .emberDemandPreempt bus => Sys2Proof.Machine.execEmberDemandPreempt bus s
  | .emberLaneFailure bus group lane => Sys2Proof.Machine.execEmberLaneFailure bus group lane s
  | .spareLaneRemap bus group => Sys2Proof.Machine.execSpareLaneRemap bus group s
  | .deviceReset => Sys2Proof.Machine.execDeviceReset s
  | .imageVerify stage source img => Sys2Proof.Machine.execImageVerify stage source img s
  | .recoveryWindowWrite off bytes => Sys2Proof.Machine.execRecoveryWindowWrite off bytes s
  | .recgo len => Sys2Proof.Machine.execRecgo len s
  | .qgo v => Sys2Proof.Machine.execQgo v s
  | .quoteRequest nonce => Sys2Proof.Machine.execQuoteRequest nonce s
  | .quoteSign => Sys2Proof.Machine.execQuoteSign s
  | .stewardWatchdogExpiry core => Sys2Proof.Machine.execStewardWatchdogExpiry core s
  | .deviceFatalError cause ukind unit => Sys2Proof.Machine.execDeviceFatalError cause ukind unit s
  | .dumpComplete part => Sys2Proof.Machine.execDumpComplete part s
  | .dumpRelease v => Sys2Proof.Machine.execDumpRelease v s
  | .hotReset => Sys2Proof.Machine.execHotReset s
  | .uncorrectableMemoryError tagNibble pa => Sys2Proof.Machine.execUncorrectableMemoryError tagNibble pa s
  | .powerFailure => Sys2Proof.Machine.execPowerFailure s
  | .coreClockCycle core => Sys2Proof.Machine.execCoreClockCycle core s
  | .dirtySectorWriteback core sector => Sys2Proof.Machine.execDirtySectorWriteback core sector s
  | .blufoldDFlitRetry link => Sys2Proof.Machine.execBlufoldDFlitRetry link s
  | .imageFetchFailure => Sys2Proof.Machine.execImageFetchFailure s

end Sys2Proof.Machine
end

