-- ==== Sys2Proof/Machine/Fetch.lean ====
section
/-! DEFINITION. Fetching an instruction, parcel by parcel (R56, R57). -/

namespace Sys2Proof.Machine

/-- What a fetch gives: a state that executes nothing (a trap, a kill, or a wait for another device), or the length
and the bits of an instruction. -/
inductive Fetched where
  | stop (s : State)
  | got (len n : Nat) (s : State)

/-- The byte that a fetch sees: the current one, or one that a later store superseded and `cachectl synci` has not yet
put aside (R57, R98; a free choice, DESIGN CHOICE, log entry 13). -/
def State.fetchByte (s : State) (pa : Nat) : Byte × State :=
  let now := s.coreByte s.cur.core.toNat pa
  match overlayGet s.cur.ifetch pa with
  | none => (now, s)
  | some old => let (n, s1) := s.draw; (if n % 2 = 1 then old else now, s1)

/-- The number of the first request of a fetch (DESIGN CHOICE, log entry 25). -/
def fetchSlot : Nat := 2 ^ 39

/-- The two bytes of parcel `k` from its place. -/
def State.fetchPlace (s : State) (k : Nat) (p : Piece1) : MemRes Nat :=
  match p.loc with
  | .pkg pa =>
    match s.poisonedByte s.cur.core.toNat pa 2 with
    | some a => .kill (memTrap 2 a) s
    | none =>
      let (b0, s1) := s.fetchByte pa
      let (b1, s2) := s1.fetchByte (pa + 1)
      .ok (leNat [b0, b1]) (s2.activate [paBank pa])
  | .device d a =>
    match s.cur.answer (fetchSlot + k) with
    | none => .wait (s.sendReq (fetchSlot + k) ⟨0, d, a, reqPayload 2 []⟩)
    | some r =>
      match r.fault with
      | some j => .trap { cause := cPAGE, erec1 := addrValue (addrIdx s.cur.pc) (p.off + j : Nat) } s
      | none => .ok (leNat (r.data.take 2)) s
  | _ => .ok (leNat (s.pieceBytes 0 p)) s

/-- Parcel `k` of the instruction at the PC (R57): checked with the execute right, translated, read. -/
def State.fetchParcel (s : State) (k : Nat) : MemRes Nat :=
  (s.reachOne ⟨addrIdx s.cur.pc, .exec, false, true, false⟩ (scalarUnit s.cur.pc (2 * k) 2)).bind fun (_, ps) s1 =>
    match ps with
    | p :: _ => s1.fetchPlace k p
    | [] => .ok 0 s1

/-- `k` parcels from parcel `j` up, as one number. -/
def State.fetchParcels (s : State) : Nat → Nat → MemRes Nat
  | _, 0 => .ok 0 s
  | j, k + 1 =>
    (s.fetchParcel j).bind fun a s1 => (s1.fetchParcels (j + 1) k).bind fun b s2 => .ok (a + 2 ^ 16 * b) s2

/-- A fetch that ends without an instruction; a skip would step over `len` bytes (R320). -/
def MemRes.stopFetch (len : Nat) : MemRes Nat → Fetched
  | .trap t s => .stop (takeTrap t len s)
  | .kill t s => .stop (s.killCur t)
  | .wait s => .stop (s.setCur { s.cur with status := .waiting .remote })
  | .gone s => .stop s
  | .ok n s => .got len n s

/-- The instruction at the PC (R57): parcel 0 decides the length; a reserved length traps `ILL`. -/
def State.fetch (s : State) : Fetched :=
  match s.fetchParcel 0 with
  | .ok p s1 =>
    let len := lengthOf p
    if len = 0 then .stop (takeTrap (trapILL p) 2 s1)
    else
      ((s1.fetchParcels 1 (len / 2 - 1)).bind fun n s2 => .ok (p + 2 ^ 16 * n) s2).stopFetch len
  | r => r.stopFetch 2

end Sys2Proof.Machine
end

