-- ==== Sys2Proof/Machine/Step.lean ====
section
/-! DEFINITION. One step of the module: which agent moves (DESIGN CHOICE, log entry 1), and the instruction that a hart fetches. -/

namespace Sys2Proof.Machine

/-- Whether an instruction term is a step of another agent: no hart executes it. -/
def isEvent (i : Instr) : Bool := (encode? i).isNone

/-- Whether a context issues instructions. -/
def Hart.issues (h : Hart) : Bool := h.status == .running

/-! ## The module's own steps

Each step that may be due stands at a place: the agent that takes it, and the place among that agent's steps. The module
takes the next place after its last one and begins again at the first, so that no step waits for ever for another agent's
(R228, R273: a write performs in the end; the order is a DESIGN CHOICE, log entry 1). -/

/-- Steps in the places of agent `a` of kind `kind`. -/
def placedAt (kind a : Nat) (is : List (Nat × Instr)) : List (Nat × Instr) :=
  is.map fun x => (kind * 2 ^ 120 + a * 2 ^ 72 + x.1, x.2)

/-- The steps of the transfers of a context: a chunk moved, the transfer ended, a write in flight performed (R216, R228). -/
noncomputable def Hart.copyDue (h : Hart) : List (Nat × Instr) :=
  (h.xfers.flatMap fun x =>
    [(3 * x.id, Instr.copyChunk h.key x.id (((List.range x.count).find? fun j => !x.finished.getLsbD j).getD 0)),
      (3 * x.id + 1, Instr.copyTransferFinish h.key x.id)]) ++
    h.flights.map fun f => (3 * f.xfer + 2, Instr.copyChunk h.key f.xfer 16384)

/-- The steps that a context may be due (R97, R102, R168, R207, R211, R216, R224, R265, R315, R325). -/
noncomputable def Hart.due (h : Hart) : List (Nat × Instr) :=
  let k := h.key
  let own := match h.status with
    | .stopping _ => [Instr.takeTrap k]
    | .saving _ => [Instr.contextSaveEnd k]
    | .waiting .exit => [Instr.hartExitComplete k]
    | .waiting (.barrier _ _ _ _) => [Instr.barWaitComplete k]
    | .waiting .task => [Instr.tkwaitComplete k]
    | .waiting (.coll _ _ _ _) => [Instr.collectiveComplete k]
    | .waiting (.ctxSave c) => [Instr.contextSaveEnd ⟨h.part, c⟩]
    | _ => []
  placedAt 0 (h.part * 2 ^ 32 + h.ctxid.toNat) (own.map (fun i => (0, i))
    ++ (if h.request.isSome then [(1, Instr.takeTrap k)] else [])
    ++ (if h.raise.isSome then [(2, Instr.phaseAcknowledge k)] else [])
    ++ (if h.matq.isEmpty then [] else [(3, Instr.matrixComplete k 0)])
    ++ h.copyDue.map fun x => (4 + x.1, x.2))

/-- The steps that a partition may be due (R262, R289, R290, R303, R304, R308, R310, R318, R350). -/
noncomputable def Partition.due (p : Partition) (n : Nat) : List (Nat × Instr) :=
  placedAt 3 n ([(0, Instr.faultRecordWrite n), (1, Instr.completionRecordWrite n), (2, Instr.dispatchDecision n),
      (3, Instr.preempt n), (4, Instr.collectiveComplete ⟨n, 0⟩)]
    ++ (((List.range 128).filter p.segPending.getLsbD).map fun g => (5 + g, Instr.segmentModeChangeComplete n g))
    ++ (((List.range 32).filter p.draining.getLsbD).map fun c => (133 + c, Instr.columnDrainComplete n c))
    ++ (p.tasks.filter fun x => !x.2.ended).map (fun x => (165 + x.1, Instr.taskEnd n (BitVec.ofNat 64 x.1))))

/-- The steps of other agents that the device may be due, at their places (R228, R273, R334, R349; DESIGN CHOICE, log
entry 1). -/
noncomputable def State.due (s : State) : List (Nat × Instr) :=
  s.harts.flatMap Hart.due
    ++ s.shoots.flatMap (fun d => placedAt 1 d.part
      (d.cores.map (fun c => (c, Instr.responderShootdown c)) ++ [(256, Instr.shootdownComplete d.part)]))
    ++ s.migrations.flatMap (fun m => placedAt 2 (m.t * 2 ^ 21 + m.src)
      [(0, Instr.migrationLineCopy m.t m.src), (1, Instr.migrationSwitch m.t m.src), (2, Instr.migrationEnd m.t m.src)])
    ++ s.parts.flatMap (fun x => x.2.due x.1)
    ++ placedAt 4 0 ((if s.sec.requests.isEmpty then [] else [(0, Instr.quoteSign)])
      ++ (if s.dump.fatal.isSome then [(1, Instr.dumpComplete false)] else []))
    ++ s.stalled.flatMap (fun x => placedAt 5 x.1 [(0, Instr.tokenBucketRefill x.1 256)])
    ++ (s.sent.filter Sent.stale).flatMap (fun x => placedAt 6 x.tag [(0, Instr.requestResend x.tag)])
    ++ s.cores.flatMap fun x => placedAt 7 x.1 (x.2.l1.map fun c => (c.1 / 64, Instr.dirtySectorWriteback x.1 (c.1 / 64)))

/-- Whether a step of another agent would change the state. -/
noncomputable def State.changes (s : State) (i : Instr) : Bool :=
  match exec i s with
  | .next t => decide (t ≠ s)
  | _ => false

/-- The first place of a list. -/
def firstPlace (is : List (Nat × Instr)) : Option (Nat × Instr) :=
  is.foldl (fun a x => match a with
    | none => some x
    | some y => if x.1 < y.1 then some x else a) none

/-- The step of another agent that the device takes when nothing else is on the agenda: of those that would change the
state, the next after its last one (DESIGN CHOICE, log entry 1). -/
noncomputable def State.ownEvent (s : State) : Option (Nat × Instr) :=
  let is := s.due.filter fun x => s.changes x.2
  (firstPlace (is.filter fun x => decide (s.sweep < x.1))).or (firstPlace is)

/-- The running context gives way to the next one that issues; empty slots are not kept (DESIGN CHOICE, log entry 1). -/
def State.rotate (s : State) : State :=
  let full := s.rest.filter fun h => h.status ≠ .vacant
  let old := if s.cur.status = .vacant then [] else [s.cur]
  match full.find? Hart.issues with
  | none => s
  | some h =>
    let before := full.takeWhile fun x => !x.issues
    let after := full.drop (before.length + 1)
    { s with cur := h, rest := after ++ before ++ old }

/-- The context `k` made the running one. -/
def State.focus (s : State) (k : CtxKey) : State :=
  if s.cur.isKey k then s
  else
    match s.rest.find? (·.isKey k) with
    | none => s
    | some h =>
      let old := if s.cur.status = .vacant then [] else [s.cur]
      { s with cur := h, rest := s.rest.filter (fun x => !x.isKey k) ++ old }

/-- The instruction that the running context fetches is executed (R57, R58). -/
noncomputable def State.runFetched (s : State) : Out :=
  match s.fetch with
  | .stop s1 => .next s1
  | .got len n s1 =>
    match decodeBits len n with
    | .ok i => exec i s1
    | .error _ => .next (takeTrap (trapILL n) len s1)

/-- The running context moves, when it issues: one that has been asked to stop, and has no instruction under way, stops
at this boundary (R325). -/
noncomputable def State.runCur (s : State) : Out :=
  if !s.cur.issues then .next s
  else if s.cur.settle.issues then State.runFetched { s with devTurn := true }
  else .next { s with cur := s.cur.settle, devTurn := true }

/-- A device step, or nothing when there is none. -/
noncomputable def State.runOwn (s : State) : Option Out :=
  s.ownEvent.map fun x => exec x.2 { s.rotate with devTurn := false, sweep := x.1 }

/-- One step: the head of the agenda; else, in turn, a device step and an instruction (DESIGN CHOICE, log entry 1). -/
noncomputable def step (s : State) : Host.Outcome State Fault Refusal :=
  match s.agenda with
  | .event i :: ts => if isEvent i then exec i { s with agenda := ts } else .fault .notAnEvent
  | .hart k :: ts => (State.focus { s with agenda := ts } k).runCur
  | [] =>
    if !s.devTurn && s.cur.issues then s.runCur
    else
      match s.runOwn with
      | some o => o
      | none => s.rotate.runCur

/-! ## Placing an instruction (DESIGN CHOICE, log entry 9) -/

/-- The buffer of the placed instruction: index 5, the first that a loader uses (R255). -/
def placedIdx : Nat := 5

/-- The entry of a `CODE` buffer of one page with the read and execute rights (R254). -/
def placedEntry : Nat → Nat
  | 0 => 2 ^ 31 + 4 * 2 ^ 27 + 1
  | 1 => 10 * 2 ^ 18
  | _ => 0

/-- Bytes written so that every core sees them: no copy above memory hides them, and their frame is not compressed. -/
def State.place (s0 : State) (pa : Nat) (bs : List Byte) : State :=
  let s := s0.setFrame (paTable pa) (paFrame pa) .reset
  let n := bs.length
  { s with
    mem := Memory.write s.mem pa bs
    home := overlayDrop s.home pa (pa + n)
    cores := s.cores.map fun c => (c.1, { c.2 with l1 := overlayDrop c.2.l1 pa (pa + n) })
    poison := s.poison.filter fun g => g < pa / 128 || (pa + n) / 128 < g }

/-- The state with an instruction of `nbits` bits `w` placed where the next step fetches it (DESIGN CHOICE, log entry 9): the
partition's initial table of one page, with one `CODE` buffer on one DRAM-tier frame to which the core is admitted (R347), a
running context at the start of that buffer, and no other agent's turn before it. -/
def State.withFetchWord (s : State) (nbits w : Nat) : State :=
  let h := s.cur
  let p := s.part h.part
  let core := h.core.toNat
  let p1 : Partition := { p with en := true, chmap := dramMask &&& 1, table := [(0, 0, 0)], btcount := 1024, rwtcount := 0 }
  let pc : Word := BitVec.ofNat 64 (placedIdx * 2 ^ 40)
  let s1 : State := { s.setPart h.part p1 with
    cur := { h with
      status := .running, code := BitVec.ofNat 24 placedIdx, pc := pc, utlb := [], ifetch := [], request := none,
      answers := [], csr := { h.csr with btbase := 0x0000_0400_0000_0000 } }
    migrations := s.migrations.filter fun m => m.t != 0
    access := [16, 0].foldl (fun a t => tset .reset a (accessKey t (core / 8)) ⟨h.part, true, true, true⟩) s.access
    agenda := []
    devTurn := false }
  let s2 := s1.setCore core { s1.core core with gtlb := [], bufs := [] }
  let pte : Pte := ⟨BitVec.ofNat 64 (1 + h.part * 8 + placedIdx * 2 ^ 8), 0, 0⟩
  let s3 := { s2 with ptes := s2.ptes.filter fun e => e.1 / 2 ^ 21 != 0 }.setPte 0 1 pte
  let entry := (List.range 4).flatMap fun j => leBytes 8 (placedEntry j)
  (s3.place (physAddr 0 0 (32 * placedIdx)) entry).place (physAddr 0 1 0) (leBytes 8 (w % 2 ^ nbits))

end Sys2Proof.Machine
end

