-- ==== Sys2Proof/Safety.lean ====
section
/-! DEFINITION. What counts as a safe state of a run. -/

namespace Sys2Proof.Safety

open Sys2Proof.Machine

/-- The memories of the module are in canonical form (Table.lean). -/
def memoryWf (s : State) : Bool := Memory.wf s.mem && Memory.wf s.host

/-- A step that neither faults nor refuses. -/
def runs (s : State) : Prop := ∃ t, step s = .next t

end Sys2Proof.Safety
end

