-- ==== Sys2Proof/Certificates/Slice0/Obligations.lean ====
section
/-! DEFINITION. The statements for the provers: what the rules of the spec say the machine does. -/

namespace Sys2Proof.Claims

open Sys2Proof Sys2Proof.Machine

/-! ## Frames -/

/-- `INSTRET` of the running context's core counts one more instruction; of every core everything else stays (R30). -/
def Counts (s t : State) : Prop :=
  ∀ c, t.core c = if c = s.cur.core.toNat then { s.core c with instret := (s.core c).instret + 1 } else s.core c

/-- Outside the running context and the cores nothing changes: every byte of memory, partition, bank, table and link. -/
def OnlyHart (s t : State) : Prop := { t with cur := s.cur, cores := s.cores } = s

/-- An instruction of `len` bytes retires; it leaves the running context as `h` but for the PC, which moves on. The
answers of other devices that outlive an instruction are those of copy transfers (DESIGN CHOICE, log entry 25). -/
def Retires (len : Nat) (h : Hart) (s t : State) : Prop :=
  t.cur = { h with pc := s.cur.pc + BitVec.ofNat 64 len, answers := keepAnswers h.answers } ∧ Counts s t ∧ OnlyHart s t

/-- A control transfer to `pc` retires; it leaves the running context as `h` otherwise. -/
def Transfers (pc : Word) (h : Hart) (s t : State) : Prop :=
  t.cur = { h with pc := pc, answers := keepAnswers h.answers } ∧ Counts s t ∧ OnlyHart s t

/-- The scalar registers after a write of `v` to `rd`: `x0` stays 0, every other one stays; the written one holds no
poisoned word (R17, R322). -/
def WritesX (rd : BitVec 5) (v : Word) (s t : State) : Prop :=
  (∀ q, t.readX q = if q = 0#5 then 0 else if q = rd then v else s.readX q) ∧
    ∀ q, t.cur.xPoisoned q = (decide (q ≠ rd) && s.cur.xPoisoned q)

/-- An instruction of `len` bytes that writes `v` to `rd` and changes nothing else: no other register, flag, special
register or byte of memory. -/
def ScalarStep (len : Nat) (rd : BitVec 5) (v : Word) (s t : State) : Prop :=
  WritesX rd v s t ∧ t.cur.pc = s.cur.pc + BitVec.ofNat 64 len ∧
    { t.cur with x := s.cur.x, xPoison := s.cur.xPoison, pc := s.cur.pc, answers := s.cur.answers } = s.cur ∧
    Counts s t ∧ OnlyHart s t

/-- The instruction completes as a `ScalarStep`. -/
def Computes (i : Instr) (len : Nat) (rd : BitVec 5) (v : Word) (s : State) : Prop :=
  ∃ t, exec i s = .next t ∧ ScalarStep len rd v s t

/-- None of these registers holds a poisoned word (R322). -/
def Clean (h : Hart) (rs : List (BitVec 5)) : Prop := ∀ r ∈ rs, h.xPoisoned r = false

/-- The trap `e` of the instruction of `len` bytes at the PC (R315): the context stops with the record in `EPC`,
`ECAUSE` and `EREC0` to `EREC3`; every other register and all of memory stay, and nothing is counted. -/
def Traps (i : Instr) (len : Nat) (e : Trap) (s : State) : Prop :=
  ∃ t, exec i s = .next t ∧
    t.cur = { s.cur with
      status := .stopping .trap, request := none, answers := keepAnswers s.cur.answers, held := none, woken := []
      skipLen := len, skipExit := none
      csr := { s.cur.csr with
        epc := s.cur.pc, ecause := e.ecause, erec0 := e.erec0, erec1 := BitVec.ofNat 64 e.erec1, erec2 := e.erec2
        erec3 := e.erec3 } } ∧
    { t with cur := s.cur } = s

/-! ## Scalar computing (R79-R84, R66, R67) -/

/-- A word from an exact integer, modulo `2^64`. -/
def word (z : Int) : Word := BitVec.ofInt 64 z

/-- The quotient of R81 for signed patterns, before it is taken modulo `2^64`. -/
def quotient (sa sb : Int) : Int :=
  if sb = 0 then 0 else if sa = -2 ^ 63 ∧ sb = -1 then -2 ^ 63
  else sa.sign * sb.sign * (sa.natAbs / sb.natAbs : Nat)

/-- The remainder of R81 for signed patterns. -/
def remainder (sa sb : Int) : Int :=
  if sb = 0 then sa else if sa = -2 ^ 63 ∧ sb = -1 then 0 else sa - sb * quotient sa sb

/-- The two-operand functions of R80 and R81, on the source patterns. -/
def aluRow : Instr → Option (BitVec 5 × BitVec 5 × BitVec 5 × (Word → Word → Word))
  | .add d a b => some (d, a, b, fun x y => word (x.toInt + y.toInt))
  | .sub d a b => some (d, a, b, fun x y => word (x.toInt - y.toInt))
  | .and d a b => some (d, a, b, fun x y => x &&& y)
  | .or d a b => some (d, a, b, fun x y => x ||| y)
  | .xor d a b => some (d, a, b, fun x y => x ^^^ y)
  | .andn d a b => some (d, a, b, fun x y => x &&& ~~~y)
  | .sll d a b => some (d, a, b, fun x y => word (x.toNat * 2 ^ (y.toNat % 64) : Nat))
  | .srl d a b => some (d, a, b, fun x y => word (x.toNat / 2 ^ (y.toNat % 64) : Nat))
  | .sra d a b => some (d, a, b, fun x y => word (x.toInt / 2 ^ (y.toNat % 64)))
  | .slt d a b => some (d, a, b, fun x y => if x.toInt < y.toInt then 1 else 0)
  | .sltu d a b => some (d, a, b, fun x y => if x.toNat < y.toNat then 1 else 0)
  | .min d a b => some (d, a, b, fun x y => word (min x.toInt y.toInt))
  | .max d a b => some (d, a, b, fun x y => word (max x.toInt y.toInt))
  | .minu d a b => some (d, a, b, fun x y => word (min x.toNat y.toNat : Nat))
  | .maxu d a b => some (d, a, b, fun x y => word (max x.toNat y.toNat : Nat))
  | .mul d a b => some (d, a, b, fun x y => word (x.toInt * y.toInt))
  | .mulh d a b => some (d, a, b, fun x y => word (x.toInt * y.toInt / 2 ^ 64))
  | .mulhu d a b => some (d, a, b, fun x y => word (x.toNat * y.toNat / 2 ^ 64 : Nat))
  | .div d a b => some (d, a, b, fun x y => word (quotient x.toInt y.toInt))
  | .divu d a b => some (d, a, b, fun x y => if y = 0 then 0 else word (x.toNat / y.toNat : Nat))
  | .rem d a b => some (d, a, b, fun x y => word (remainder x.toInt y.toInt))
  | .remu d a b => some (d, a, b, fun x y => if y = 0 then x else word (x.toNat % y.toNat : Nat))
  | _ => none

/-- `n` is the number of zero bits of `a` from one end, `place` giving the bit at each distance from that end. -/
def ZeroRun (a : Word) (place : Nat → Nat) (n : Nat) : Prop :=
  n ≤ 64 ∧ (∀ k < n, a.getLsbD (place k) = false) ∧ (n < 64 → a.getLsbD (place n) = true)

/-- The immediate, upper and 16-bit forms: length, destination, registers read, value (R82-R84, R66, R67). -/
def immRow (s : State) : Instr → Option (Nat × BitVec 5 × List (BitVec 5) × Word)
  | .addi d a i => some (4, d, [a], word ((s.readX a).toInt + i.toInt))
  | .andi d a i => some (4, d, [a], s.readX a &&& i.signExtend 64)
  | .ori d a i => some (4, d, [a], s.readX a ||| i.signExtend 64)
  | .xori d a i => some (4, d, [a], s.readX a ^^^ i.signExtend 64)
  | .slti d a i => some (4, d, [a], if (s.readX a).toInt < i.toInt then 1 else 0)
  | .sltiu d a i => some (4, d, [a], if (s.readX a).toNat < (i.signExtend 64).toNat then 1 else 0)
  | .slli d a k => some (4, d, [a], word ((s.readX a).toNat * 2 ^ k.toNat : Nat))
  | .srli d a k => some (4, d, [a], word ((s.readX a).toNat / 2 ^ k.toNat : Nat))
  | .srai d a k => some (4, d, [a], word ((s.readX a).toInt / 2 ^ k.toNat))
  | .lui d i => some (4, d, [], word (i.toInt * 2 ^ 14))
  | .ldpc d i => some (4, d, [], word (s.cur.pc.toInt + i.toInt * 2))
  | .li d i => some (8, d, [], word i.toInt)
  | .liHi d i => some (8, d, [d], word (i.toNat * 2 ^ 14 + (s.readX d).toNat % 2 ^ 14 : Nat))
  | .hAddi d i => some (2, d, [d], word ((s.readX d).toInt + i.toInt))
  | .hLi d i => some (2, d, [], word i.toInt)
  | .hMv d a => some (2, d, [a], s.readX a)
  | .hAdd d a => some (2, d, [d, a], word ((s.readX d).toInt + (s.readX a).toInt))
  | .hSub d a => some (2, d, [d, a], word ((s.readX d).toInt - (s.readX a).toInt))
  | .hNop => some (2, 0, [], 0)
  | _ => none

/-! ## Control (R89-R94) -/

/-- The conditional branches (R89, R67): length, registers compared, condition, offset in halfwords. -/
def branchRow (s : State) : Instr → Option (Nat × List (BitVec 5) × Prop × Int)
  | .beq a b o => some (4, [a, b], s.readX a = s.readX b, o.toInt)
  | .bne a b o => some (4, [a, b], s.readX a ≠ s.readX b, o.toInt)
  | .blt a b o => some (4, [a, b], (s.readX a).toInt < (s.readX b).toInt, o.toInt)
  | .bge a b o => some (4, [a, b], (s.readX b).toInt ≤ (s.readX a).toInt, o.toInt)
  | .bltu a b o => some (4, [a, b], (s.readX a).toNat < (s.readX b).toNat, o.toInt)
  | .bgeu a b o => some (4, [a, b], (s.readX b).toNat ≤ (s.readX a).toNat, o.toInt)
  | .hBeqz a o => some (2, [a], s.readX a = 0, o.toInt)
  | .hBnez a o => some (2, [a], s.readX a ≠ 0, o.toInt)
  | _ => none

/-- The place `o` halfwords from the PC. -/
def place (s : State) (o : Int) : Word := word (s.cur.pc.toInt + o * 2)

/-- Whether an address value names the buffer of the PC (R13). -/
def SameBuffer (s : State) (a : Word) : Prop := a.toNat / 2 ^ 40 = s.cur.pc.toNat / 2 ^ 40

/-- The jumps (R90, R67): length, link register, registers read, target. -/
def jumpRow (s : State) : Instr → Option (Nat × BitVec 5 × List (BitVec 5) × Word)
  | .jal d o => some (4, d, [], place s o.toInt)
  | .jalr d a i => some (4, d, [a], word ((s.readX a).toInt + i.toInt))
  | .hJ o => some (2, 0, [], place s o.toInt)
  | _ => none

/-- `loop.next` and its 16-bit form: length and offset in halfwords (R92, R67). -/
def nextRow : Instr → Option (Nat × Int)
  | .loopNext o => some (4, o.toInt)
  | .hLoopnext o => some (2, o.toInt)
  | _ => none

/-- The running context with its loop registers (R30, R91). -/
def looped (h : Hart) (lctr lrem vl : Nat) : Hart :=
  { h with csr := { h.csr with lctr := BitVec.ofNat 48 lctr, lrem := BitVec.ofNat 48 lrem, vl := BitVec.ofNat 15 vl } }

/-- The running context with its policies (R31). -/
def policies (h : Hart) (tp mp : BitVec 1) : Hart := { h with csr := { h.csr with tp := tp == 1, mp := mp == 1 } }

end Sys2Proof.Claims

open Sys2Proof Sys2Proof.Machine Sys2Proof.Claims

/-- R80: every two-operand function, the divisions of R81 among them, writes its result to `rd` and changes nothing else;
`clz` and `ctz` count the zero bits from their end, 0 to 64; `popc` counts the one bits. -/
def Obligations.ScalarArithmetic : Prop :=
  (∀ (i : Instr) (d a b : BitVec 5) (f : Word → Word → Word) (s : State),
     aluRow i = some (d, a, b, f) → Clean s.cur [a, b] → Computes i 4 d (f (s.readX a) (s.readX b)) s) ∧
  ∀ (d a : BitVec 5) (s : State), Clean s.cur [a] →
    (∀ n, ZeroRun (s.readX a) (63 - ·) n → Computes (.clz d a) 4 d (BitVec.ofNat 64 n) s) ∧
    (∀ n, ZeroRun (s.readX a) id n → Computes (.ctz d a) 4 d (BitVec.ofNat 64 n) s) ∧
    Computes (.popc d a) 4 d (BitVec.ofNat 64 ((List.range 64).countP (s.readX a).getLsbD)) s

/-- R81: the divisions, and what quotient and remainder are to each other. The identity of quotient and remainder is modulo `2^64`, as results are (R80). -/
def Obligations.ScalarDivision : Prop :=
  (∀ (d a b : BitVec 5) (s : State), Clean s.cur [a, b] →
    let x := s.readX a
    let y := s.readX b
    Computes (.div d a b) 4 d (word (quotient x.toInt y.toInt)) s ∧
    Computes (.rem d a b) 4 d (word (remainder x.toInt y.toInt)) s ∧
    Computes (.divu d a b) 4 d (if y = 0 then 0 else word (x.toNat / y.toNat : Nat)) s ∧
    Computes (.remu d a b) 4 d (if y = 0 then x else word (x.toNat % y.toNat : Nat)) s) ∧
  ∀ x y : Word,
    word (quotient x.toInt y.toInt) * y + word (remainder x.toInt y.toInt) = x ∧
    (if y = 0 then 0 else word (x.toNat / y.toNat : Nat)) * y + (if y = 0 then x else word (x.toNat % y.toNat : Nat)) = x ∧
    (remainder x.toInt y.toInt = 0 ∨ (remainder x.toInt y.toInt).sign = x.toInt.sign)


/-- R82 to R84, R66, R67: the immediate, upper, long and 16-bit forms. -/
def Obligations.Immediates : Prop :=
  ∀ (i : Instr) (len : Nat) (d : BitVec 5) (rs : List (BitVec 5)) (v : Word) (s : State),
    immRow s i = some (len, d, rs, v) → Clean s.cur rs → Computes i len d v s

/-- R89, R67: a branch that is not taken goes to the next instruction, a taken one to its target, both without any other
change; a target in another buffer traps `RIGHT`. -/
def Obligations.Branches : Prop :=
  ∀ (i : Instr) (len : Nat) (rs : List (BitVec 5)) (c : Prop) (o : Int) (s : State),
    branchRow s i = some (len, rs, c, o) → Clean s.cur rs →
      (¬c → ∃ t, exec i s = .next t ∧ Retires len s.cur s t) ∧
      (c → SameBuffer s (place s o) → ∃ t, exec i s = .next t ∧ Transfers (place s o) s.cur s t) ∧
      (c → ¬SameBuffer s (place s o) → Traps i len { cause := cRIGHT, erec1 := (place s o).toNat } s)

/-- R90, R67: a jump writes the address of the next instruction and goes to its target; an odd target of `jalr` traps
`ALIGN`, a target in another buffer `RIGHT`, and a trapped jump writes no register. -/
def Obligations.Jumps : Prop :=
  ∀ (i : Instr) (len : Nat) (d : BitVec 5) (rs : List (BitVec 5)) (a : Word) (s : State),
    jumpRow s i = some (len, d, rs, a) → Clean s.cur rs →
      (SameBuffer s a → (a.getLsbD 0 = false ∨ rs = []) →
        ∃ t, exec i s = .next t ∧ WritesX d (s.cur.pc + BitVec.ofNat 64 len) s t ∧ t.cur.pc = a ∧
          { t.cur with x := s.cur.x, xPoison := s.cur.xPoison, pc := s.cur.pc, answers := s.cur.answers } = s.cur ∧
          Counts s t ∧ OnlyHart s t) ∧
      (a.getLsbD 0 = true → rs ≠ [] → Traps i len { cause := cALIGN, erec1 := a.toNat } s) ∧
      (¬SameBuffer s a → (a.getLsbD 0 = false ∨ rs = []) → Traps i len { cause := cRIGHT, erec1 := a.toNat } s)

namespace Sys2Proof.Claims

/-! ## Farms (R93) -/

/-- The running context after `TakeStrip` from a farm as it stood: a strip's registers, or no strip left. -/
def tookStrip (h : Hart) (f : Farm) : Hart :=
  let start := f.ctr * f.width
  let len := min f.width (f.n - start)
  if start < f.n then looped h start len len else { h with csr := { h.csr with lrem := 0 } }

/-- The state with the farm `k` of the running context's task replaced. -/
def withFarm (s : State) (k : Nat) (f : Farm) : State :=
  s.setCurTask { s.curTask with farms := tset .reset s.curTask.farms k f }

/-- The farm `k` of the running context's task. -/
def farmOf (s : State) (k : Nat) : Farm := tget .reset s.curTask.farms k

/-! ## Control and status registers (R9, R30, R95) -/

/-- The width of a CSR's read-write field for a context of a level (R30, R31); none where no field takes a write. -/
def csrWidth (supv : Bool) (n : Nat) : Option Nat :=
  if 0x030 ≤ n ∧ n ≤ 0x036 then some 32
  else if n = 0x001 then some 8
  else if n = 0x004 then some 2
  else if n = 0x044 then some 15
  else if n = 0x037 ∨ n = 0x038 ∨ (0x061 ≤ n ∧ n ≤ 0x064) then some 64
  else if (n = 0x060 ∨ n = 0x110) ∧ supv = true then some 64
  else none

/-- The instructions that write a CSR (R95): number, destination, registers read, and the new value from the old one;
none where nothing is written. -/
def csrRow (s : State) : Instr → Option (BitVec 10 × BitVec 5 × List (BitVec 5) × (Word → Option Word))
  | .csrw d n a => some (n, d, [a], fun _ => some (s.readX a))
  | .csrs d n a => some (n, d, [a], fun old => if a = 0#5 then none else some (old ||| s.readX a))
  | .csrc d n a => some (n, d, [a], fun old => if a = 0#5 then none else some (old &&& ~~~(s.readX a)))
  | _ => none

/-- What a write leaves in a CSR that held `old`: the fields that take it, and nothing else (R9). -/
def csrAfter (supv : Bool) (n : Nat) (old : Word) (new : Option Word) : Word :=
  match csrWidth supv n, new with
  | some w, some v => BitVec.ofNat 64 (v.toNat % 2 ^ w)
  | _, _ => old

/-- Every byte of memory as the running context's core reads it, its home, the host's memory and the scratchpad stay. -/
def MemorySame (s t : State) : Prop :=
  (∀ c a, t.coreByte c a = s.coreByte c a) ∧ (∀ a, t.homeByte a = s.homeByte a) ∧ t.host = s.host ∧
    t.cur.spad = s.cur.spad

/-! ## Supervisor instructions (R16) -/

/-- The instructions that only a supervisor context may execute, with their bits (R16, R63, R30). -/
def supervisorBits : Instr → Option (BitVec 64)
  | .eret => some (Instr.eret).bits
  | .tlbinv k a => some (Instr.tlbinv k a).bits
  | .ctxResumeRetry a => some (Instr.ctxResumeRetry a).bits
  | .ctxResumeSkip a => some (Instr.ctxResumeSkip a).bits
  | .ctxSave a => some (Instr.ctxSave a).bits
  | .csrr d n => if 0x100 ≤ n.toNat ∧ n.toNat ≤ 0x111 then some (Instr.csrr d n).bits else none
  | .csrw d n a => if 0x100 ≤ n.toNat ∧ n.toNat ≤ 0x111 then some (Instr.csrw d n a).bits else none
  | .csrs d n a => if 0x100 ≤ n.toNat ∧ n.toNat ≤ 0x111 then some (Instr.csrs d n a).bits else none
  | .csrc d n a => if 0x100 ≤ n.toNat ∧ n.toNat ≤ 0x111 then some (Instr.csrc d n a).bits else none
  | _ => none

end Sys2Proof.Claims

/-- R91, R92, R94: `loop.set` opens the first strip of a loop and leaves a farm; a tag of `NONE` traps `TAG`. `loop.next`
outside a farm counts a strip and branches while elements remain; a target in another buffer traps `RIGHT` before
anything changes. R93, R94: `farm.set` creates its farm or joins it, sets the policies and takes a strip; a member whose
operands differ traps `BAR`, a tag of `NONE` traps `TAG`. `loop.next` inside a farm takes the next strip and branches,
or leaves the farm and falls through with `VL` and `LCTR` as they were. -/
def Obligations.LoopsAndFarms : Prop :=
  ((∀ (ra : BitVec 5) (tag : Tag) (grp : BitVec 2) (tp mp : BitVec 1) (s : State),
      let i := Instr.loopSet ra tag grp tp mp
      let n := (s.readX ra).toNat % 2 ^ 48
      let vlm := min 16384 (2 ^ grp.toNat * tagCap tag)
      (tag = .none → Traps i 4 { cause := cTAG, erec1 := i.bits.toNat } s) ∧
      (tag ≠ .none → Clean s.cur [ra] →
        ∃ t, exec i s = .next t ∧ Retires 4 (policies { looped s.cur 0 n (min n vlm) with farm := none } tp mp) s t)) ∧
   ∀ (i : Instr) (len : Nat) (o : Int) (s : State), nextRow i = some (len, o) →
     (¬SameBuffer s (place s o) → Traps i len { cause := cRIGHT, erec1 := (place s o).toNat } s) ∧
     (SameBuffer s (place s o) → s.cur.farm = none →
       let vl := s.cur.csr.vl.toNat
       let ctr := s.cur.csr.lctr.toNat + vl
       let rem := s.cur.csr.lrem.toNat - vl
       ∃ t, exec i s = .next t ∧
         if rem = 0 then Retires len (looped s.cur ctr 0 vl) s t
         else Transfers (place s o) (looped s.cur ctr rem (min rem vl)) s t)) ∧
  (∀ (ra : BitVec 5) (tag : Tag) (grp : BitVec 2) (tp mp : BitVec 1) (s : State),
     let i := Instr.farmSet ra tag grp tp mp
     let n := (s.readX ra).toNat % 2 ^ 48
     let k := s.cur.farmSets
     let f := farmOf s k
     let new : Farm := ⟨n, tag, grp, min 16384 (2 ^ grp.toNat * tagCap tag), 0⟩
     let joined : Hart := policies { s.cur with farm := some k, farmSets := k + 1 } tp mp
     (tag = .none → Traps i 4 { cause := cTAG, erec1 := i.bits.toNat } s) ∧
     (tag ≠ .none → Clean s.cur [ra] →
       (f = .reset → ∃ t, exec i s = .next t ∧
         Retires 4 (tookStrip joined new) (withFarm s k { new with ctr := 1 }) t) ∧
       (f ≠ .reset → f.n = n → f.tag = tag → f.grp = grp → ∃ t, exec i s = .next t ∧
         Retires 4 (tookStrip joined f) (withFarm s k { f with ctr := f.ctr + 1 }) t) ∧
       (f ≠ .reset → (f.n ≠ n ∨ f.tag ≠ tag ∨ f.grp ≠ grp) →
         Traps i 4 { cause := cBAR, erec1 := (s.readX ra).toNat } s))) ∧
  ∀ (i : Instr) (len : Nat) (o : Int) (k : Nat) (s : State), nextRow i = some (len, o) →
    SameBuffer s (place s o) → s.cur.farm = some k →
    let f := farmOf s k
    let s1 := withFarm s k { f with ctr := f.ctr + 1 }
    ∃ t, exec i s = .next t ∧
      if f.ctr * f.width < f.n then Transfers (place s o) (tookStrip s.cur f) s1 t
      else Retires len { s.cur with csr := { s.cur.csr with lrem := 0 }, farm := none } s1 t


/-- R95, R33: `csrr` reads a CSR that its level may read and changes nothing but `rd`; `CYCLE` has moved on by some
number of cycles (DESIGN CHOICE, log entry 4). R95, R9, R30: `csrw`, `csrs` and `csrc` give `rd` the old value and write
the fields that take a write; another CSR changes only where the write of `BWPHASE` acknowledges a phase (`PHACK`) and
where the instruction is counted. A write of `BTBASE` under an acknowledged `STREAM` or `BURST` moves the context's pins
(R265). -/
def Obligations.CsrAccess : Prop :=
  ((∀ (d : BitVec 5) (n : BitVec 10) (s : State), n.toNat ≠ 0x020 →
     (0x100 ≤ n.toNat → n.toNat ≤ 0x111 → s.cur.supv = true) →
     Computes (.csrr d n) 4 d (s.readCsr n.toNat) s) ∧
   ∀ (d : BitVec 5) (s : State), ∃ t k, exec (.csrr d 0x020) s = .next t ∧
     let now := (s.core s.cur.core.toNat).cycle + BitVec.ofNat 64 k
     WritesX d now s t ∧ (t.core s.cur.core.toNat).cycle = now ∧ t.cur.pc = s.cur.pc + 4 ∧ MemorySame s t) ∧
  ∀ (i : Instr) (n : BitVec 10) (d : BitVec 5) (rs : List (BitVec 5)) (new : Word → Option Word) (s : State),
    csrRow s i = some (n, d, rs, new) → n.toNat ≠ 0x020 → Clean s.cur rs →
    (0x100 ≤ n.toNat → n.toNat ≤ 0x111 → s.cur.supv = true) →
    ∃ t, exec i s = .next t ∧
      let old := s.readCsr n.toNat
      WritesX d old s t ∧ t.cur.pc = s.cur.pc + 4 ∧
      (n.toNat ≠ 0x021 → t.readCsr n.toNat = csrAfter s.cur.supv n.toNat old (new old)) ∧
      (∀ m, m ≠ n.toNat → m ≠ 0x021 → ¬(n.toNat = 0x004 ∧ m = 0x005) → t.readCsr m = s.readCsr m) ∧
      t.readCsr 0x021 = s.readCsr 0x021 + 1 ∧ MemorySame s t ∧
      { t.cur with
        x := s.cur.x, xPoison := s.cur.xPoison, pc := s.cur.pc, answers := s.cur.answers, csr := s.cur.csr
        raise := s.cur.raise } = s.cur ∧
      { t with cur := s.cur, cores := s.cores, banks := s.banks } = s ∧
      (n.toNat ≠ 0x004 → (n.toNat ≠ 0x110 ∨ s.cur.pins = false) → t.banks = s.banks)


/-- R96, R67: `svc`, `brk` and `h.brk` take their traps, with the immediate in `EREC1`. R16, R59: a user context that
executes a supervisor instruction, or accesses a CSR without user access, traps `PRIV` with the instruction bits; so it
does before any other check of the instruction. R97: `exit` with no copy or matrix work left ends the issue of the hart,
performs the writes that its transfers still have in flight, and keeps `x[ra]`; when the end follows (HART_EXIT_COMPLETE),
the hart's bytes are at their home, its value and trigger are recorded in its task, and its slot is free. -/
def Obligations.CallsAndExit : Prop :=
  ((∀ (imm : BitVec 10) (s : State),
      Traps (.svc imm) 4 { cause := 0x0D, erec1 := imm.toNat } s ∧
      Traps (.brk imm) 4 { cause := 0x0E, erec1 := imm.toNat } s ∧
      Traps (.hBrk imm) 2 { cause := 0x0E, erec1 := imm.toNat } s) ∧
   ∀ (i : Instr) (bits : BitVec 64) (s : State), supervisorBits i = some bits → s.cur.supv = false →
     Traps i 4 { cause := 0x0F, erec1 := bits.toNat } s) ∧
  (∀ (ra : BitVec 5) (s : State), s.cur.status = .running → s.cur.xfers = [] → s.cur.matq = [] → Clean s.cur [ra] →
    ∃ t, exec (.exit ra) s = .next t ∧
      t.cur = { s.cur with status := .waiting .exit, exitVal := s.readX ra, flights := [] } ∧
      (s.cur.flights = [] → { t with cur := s.cur } = s)) ∧
  ∀ (k : CtxKey) (s : State), s.cur.status = .waiting .exit → s.cur.key = k →
    (∀ h ∈ s.harts, h.status ≠ .waiting (.ctxSave k.ctx)) →
    let h := s.cur
    ∃ t, exec (.hartExitComplete k) s = .next t ∧ t.cur = .reset ∧ t.rest = s.rest ∧
      (∀ a, t.homeByte a = s.coreByte h.core.toNat a) ∧ t.mem = s.mem ∧ t.host = s.host ∧
      (t.core h.core.toNat).instret = (s.core h.core.toNat).instret + 1 ∧
      (t.part h.part).task h.task.toNat =
        { s.curTask with
          trig := insertNat s.curTask.trig h.member, exited := insertNat s.curTask.exited h.member
          exit0 := if h.member = 0 then h.exitVal else s.curTask.exit0, exitor := s.curTask.exitor ||| h.exitVal } ∧
      ∀ b, k ∉ (t.bank b).pins

namespace Sys2Proof.Claims

/-! ## Accesses to memory (R85-R88, R112, R259-R264, R271-R273, R288) -/

/-- Whether a list of bits holds an odd number of ones. -/
def odd (l : List Bool) : Bool := l.foldl xor false

/-- The compute stack of a channel (R256, R260). -/
def stackOf (ch : Nat) : Nat := if ch < 64 then ch / 16 else if ch < 192 then (ch - 64) / 32 else (ch - 192) / 64

/-- Granules of `g` bytes go to the channels `l` in turn: the channel and channel offset of an offset (R259). -/
def InTurn (l : List Nat) (g off : Nat) (r : Nat × Nat) : Prop :=
  r.1 = l.getD (off / g % l.length) 0 ∧ r.2 = off / g / l.length * g + off % g

/-- The placement of an offset of a buffer (R259): by the whole set, or for `ACT` by the channels of one stack. -/
def Placed (b : BufInfo) (off : Nat) : Prop :=
  let g := off / 4096 % 2 ^ 28
  let on (s : Nat) : List Nat := (List.range 448).filter fun ch => b.chans.getLsbD ch && stackOf ch == s
  let hash := (odd ((List.range 14).map fun j => g.testBit (2 * j))).toNat
    + 2 * (odd ((List.range 14).map fun j => g.testBit (2 * j + 1))).toNat
  (b.cls ≠ 2 → InTurn ((List.range 448).filter b.chans.getLsbD) (256 * 2 ^ b.gran) off (b.locate off)) ∧
  (b.cls = 2 → 1 ≤ b.place → b.place ≤ 4 → InTurn (on (b.place - 1)) (256 * 2 ^ b.gran) off (b.locate off)) ∧
  (b.cls = 2 → b.place = 0 → InTurn (on hash) (256 * 2 ^ b.gran) (g / 4 * 4096 + off % 4096) (b.locate off))

/-- The access table of a target admits the running context's core to an access of kind `k` (R347). -/
def Admitted (s : State) (target : Nat) (k : Kind) : Prop :=
  let a := tget .reset s.access (128 * target + s.cur.core.toNat / 8)
  (a.part = s.cur.part ∨ a.part = 33) ∧ (match k with
    | .write => a.wr
    | .atomic => a.atom
    | _ => a.rd) = true

/-- The core of the running context. -/
def own (s : State) : Nat := s.cur.core.toNat

/-- The unit `u` of an access of kind `k` to the buffer of `a` passes its checks and has a translation: it lies in one
line, at the physical address `pa`, in the space `sp`. -/
def Reaches (s : State) (k : Kind) (dword code : Bool) (a : Word) (u : UnitAcc) (pa : Nat) (sp : Space) : Prop :=
  ∃ lc s1, s.reachOne ⟨addrIdx a, k, dword, code, false⟩ u = .ok (sp, [⟨u.off.toNat, u.n, .pkg pa, lc, u.coords⟩]) s1

/-- No granule that `n` bytes from `pa` touch is poisoned (R283). -/
def Unpoisoned (s : State) (pa n : Nat) : Prop := ∀ a, pa ≤ a → a < pa + n → a / 128 ∉ s.poison

/-- The number that `n` bytes from `pa` hold, little-endian, as the running context's core reads them (R10). -/
def valueAt (s : State) (pa n : Nat) : Nat :=
  ((List.range n).map fun i => (s.coreByte (own s) (pa + i)).toNat * 256 ^ i).sum

/-- What any access to memory leaves unchanged. It may change: cached buffer entries and translations; the A and D bits
of page table entries; the power state and activation count of the banks it touches, and their buses, which it releases; the
pins of the context's own phase, when it has one (R265); bytes in the core's own L1 and at their home (each statement says
which); bytes that a hart may still fetch after a store to code; where the free values stand; and `INSTRET`. -/
structure Touches (s t : State) : Prop where
  rest : { t with
    cur := s.cur, rest := s.rest, cores := s.cores, home := s.home, ptes := s.ptes, banks := s.banks, raa := s.raa
    buses := s.buses, fresh := s.fresh } = s
  entries : ∀ p f, (t.pte p f).dw1 = (s.pte p f).dw1 ∧ (t.pte p f).dw2 = (s.pte p f).dw2 ∧
    (t.pte p f).dw0 ||| 6 = (s.pte p f).dw0 ||| 6
  banks : (s.cur.pins = false ∨ twf .reset s.banks = true) → ∀ b,
    { t.bank b with power := .act, pins := [] } = { s.bank b with power := .act, pins := [] } ∧
      (∀ k, k ≠ s.cur.key → (k ∈ (t.bank b).pins ↔ k ∈ (s.bank b).pins)) ∧
      (s.cur.pins = false → (t.bank b).pins = (s.bank b).pins)
  buses : ∀ n, t.bus n = s.bus n ∨ t.bus n = { s.bus n with quiesced := false }
  harts : t.rest.map (fun h => { h with ifetch := [] }) = s.rest.map fun h => { h with ifetch := [] }
  others : ∀ c, c ≠ own s → t.core c = s.core c
  self : { t.core (own s) with
    l1 := (s.core (own s)).l1, gtlb := (s.core (own s)).gtlb, bufs := (s.core (own s)).bufs
    instret := (s.core (own s)).instret } = s.core (own s)

/-- The running context is unchanged but for scalar registers, the PC, its own cached translations, bytes that it may
still fetch, and the four counters of accesses with the banks that they await (R261, R264, R281). -/
def AccessHart (s t : State) : Prop :=
  { t.cur with
    x := s.cur.x, xPoison := s.cur.xPoison, pc := s.cur.pc, answers := s.cur.answers, utlb := s.cur.utlb
    ifetch := s.cur.ifetch, woken := s.cur.woken
    csr := { t.cur.csr with
      reqloc := s.cur.csr.reqloc, reqrem := s.cur.csr.reqrem, wakes := s.cur.csr.wakes, rmwc := s.cur.csr.rmwc } } =
    s.cur

/-- An access instruction of `len` bytes retires. -/
def AccessStep (len : Nat) (s t : State) : Prop :=
  Touches s t ∧ AccessHart s t ∧ t.cur.pc = s.cur.pc + BitVec.ofNat 64 len ∧
    (t.core (own s)).instret = (s.core (own s)).instret + 1

/-- The state with the bytes of the banks, their poison, and what the metadata of frames says of them, as in `s`. -/
def sameStore (s t : State) : State := { t with frames := s.frames, mem := s.mem, poison := s.poison }

/-- What a write to memory leaves unchanged besides: it may show its frame to be one of a line-compressed buffer, and its
eviction may send its bytes on to the banks, under other codes (R274, R278, R281, R283). The tag copies of frames stay, and
no granule becomes poisoned. -/
def TouchesStore (s t : State) : Prop :=
  Touches s (sameStore s t) ∧ (∀ k f, (t.frame k f).tags = (s.frame k f).tags) ∧ ∀ g ∈ t.poison, g ∈ s.poison

/-- No byte of the banks and no poison mark changes. -/
def BanksSame (s t : State) : Prop := t.mem = s.mem ∧ t.poison = s.poison

/-- An instruction of `len` bytes that writes memory retires. -/
def StoreStep (len : Nat) (s t : State) : Prop := TouchesStore s t ∧ AccessStep len s (sameStore s t)

/-- No scalar register changes. -/
def KeepsX (s t : State) : Prop := t.cur.x = s.cur.x ∧ t.cur.xPoison = s.cur.xPoison

/-- Every byte reads as before, to the running context's core. -/
def BytesSame (s t : State) : Prop := ∀ a, t.coreByte (own s) a = s.coreByte (own s) a

/-- The `n` bytes from `pa` are those of `v`, little-endian; every other byte reads as before, to the running context's
core. -/
def BytesPut (s : State) (pa n v : Nat) (t : State) : Prop :=
  ∀ a, t.coreByte (own s) a =
    if pa ≤ a ∧ a < pa + n then BitVec.ofNat 8 (v / 256 ^ (a - pa)) else s.coreByte (own s) a

/-- Whether an access is a release at `stack` or wider (R117, R273). -/
def releasesAt (o : Ord) (sc : Scope) : Bool := (o == .rel || o == .ar) && !(sc == .hart || sc == .core)

/-- Whether an access is an acquire at `stack` or wider (R236, R239). -/
def acquiresAt (o : Ord) (sc : Scope) : Bool := (o == .acq || o == .ar) && !(sc == .hart || sc == .core)

/-- The 64-byte sectors that `n` bytes from `pa` touch (R272). -/
def InSectors (pa n a : Nat) : Prop := pa / 64 ≤ a / 64 ∧ a / 64 ≤ (pa + n - 1) / 64

/-- Where a byte lies at home before an access to `n` bytes from `pa` acts: a release at `stack` or wider has brought
every byte of the core home (R273), an acquire those of the sectors that it reads (R239; DESIGN CHOICE, log entry 2). -/
def HomeBefore (s : State) (o : Ord) (sc : Scope) (pa n a : Nat) (b : Byte) : Prop :=
  (releasesAt o sc = true → b = s.coreByte (own s) a) ∧
  (releasesAt o sc = false → acquiresAt o sc = true → InSectors pa n a → b = s.coreByte (own s) a) ∧
  (releasesAt o sc = false → ¬(acquiresAt o sc = true ∧ InSectors pa n a) → b = s.homeByte a)

/-- Whether a store brings its bytes to their home: by its eviction (R274), as an acquire (R236), or where the
scratchpad shares leave the core no L1 (R269). -/
def goesHome (s : State) (o : Ord) (sc : Scope) (evict : BitVec 3) : Bool :=
  decide (5 ≤ evict.toNat) || acquiresAt o sc || decide (8 ≤
    ((s.harts.filter fun h => h.placed && h.core == s.cur.core).map Hart.spadUnits).sum)

/-- The scalar loads (R85, R86, R67): length of the instruction, bytes, whether zero-extended, registers, offset,
ordering. -/
structure LoadRow where
  len : Nat
  n : Nat
  uns : Bool
  rd : BitVec 5
  rb : BitVec 5
  off : Nat
  ord : Ord
  scope : Scope

/-- The row of a scalar load. -/
def loadRow : Instr → Option LoadRow
  | .ldB d b o sc _ i => some ⟨4, 1, false, d, b, i.toNat, o, sc⟩
  | .ldBu d b o sc _ i => some ⟨4, 1, true, d, b, i.toNat, o, sc⟩
  | .ldH d b o sc _ i => some ⟨4, 2, false, d, b, 2 * i.toNat, o, sc⟩
  | .ldHu d b o sc _ i => some ⟨4, 2, true, d, b, 2 * i.toNat, o, sc⟩
  | .ldW d b o sc _ i => some ⟨4, 4, false, d, b, 4 * i.toNat, o, sc⟩
  | .ldWu d b o sc _ i => some ⟨4, 4, true, d, b, 4 * i.toNat, o, sc⟩
  | .ldD d b o sc _ i => some ⟨4, 8, false, d, b, 8 * i.toNat, o, sc⟩
  | .hLdD d b i => some ⟨2, 8, false, d, b, 8 * i.toNat, .pl, .hart⟩
  | .hLdW d b i => some ⟨2, 4, false, d, b, 4 * i.toNat, .pl, .hart⟩
  | _ => none

/-- The scalar stores (R85, R86, R67). -/
structure StoreRow where
  len : Nat
  n : Nat
  rs : BitVec 5
  rb : BitVec 5
  off : Nat
  ord : Ord
  scope : Scope
  evict : BitVec 3

/-- The row of a scalar store. -/
def storeRow : Instr → Option StoreRow
  | .stB x b o sc e i => some ⟨4, 1, x, b, i.toNat, o, sc, e⟩
  | .stH x b o sc e i => some ⟨4, 2, x, b, 2 * i.toNat, o, sc, e⟩
  | .stW x b o sc e i => some ⟨4, 4, x, b, 4 * i.toNat, o, sc, e⟩
  | .stD x b o sc e i => some ⟨4, 8, x, b, 8 * i.toNat, o, sc, e⟩
  | .hStD x b i => some ⟨2, 8, x, b, 8 * i.toNat, .pl, .hart, 0⟩
  | .hStW x b i => some ⟨2, 4, x, b, 4 * i.toNat, .pl, .hart, 0⟩
  | _ => none

/-- A loaded number of `n` bytes as a register holds it (R86). -/
def extended (n : Nat) (uns : Bool) (v : Nat) : Word :=
  if uns then BitVec.ofNat 64 v else (BitVec.ofNat (8 * n) v).signExtend 64

/-- The state of a context that takes a trap (R315). -/
def stoppedAt (len : Nat) (e : Trap) (h : Hart) : Hart :=
  { h with
    status := .stopping .trap, request := none, answers := keepAnswers h.answers, held := none, woken := []
    skipLen := len, skipExit := none
    csr := { h.csr with
      epc := h.pc, ecause := e.ecause, erec0 := e.erec0, erec1 := BitVec.ofNat 64 e.erec1, erec2 := e.erec2
      erec3 := e.erec3 } }

/-- The cached translations that an access of this kind may use for a key (R288). -/
def copiesOf (s : State) (gather : Bool) (k : PageKey) : List TlbEntry :=
  ((if gather then [] else s.cur.utlb) ++ (s.core (own s)).gtlb).filter fun e => e.has k

/-! ## Atomics (R198-R200) -/

/-- The new value of an atomic from its operand `x`, its compare value `c` and the old value. -/
abbrev AmoFn := Word → Word → Word → Word

/-- The atomics (R198): function number of the port, registers, ordering, registers read, new value. -/
def amoRow : Instr → Option (BitVec 5 × BitVec 5 × BitVec 5 × Ord × Scope × List (BitVec 5) × AmoFn)
  | .amoAdd d a b o sc => some (d, a, b, o, sc, [b, a], fun x _ old => word (old.toInt + x.toInt))
  | .amoAnd d a b o sc => some (d, a, b, o, sc, [b, a], fun x _ old => old &&& x)
  | .amoOr d a b o sc => some (d, a, b, o, sc, [b, a], fun x _ old => old ||| x)
  | .amoXor d a b o sc => some (d, a, b, o, sc, [b, a], fun x _ old => old ^^^ x)
  | .amoMin d a b o sc => some (d, a, b, o, sc, [b, a], fun x _ old => word (min old.toInt x.toInt))
  | .amoMax d a b o sc => some (d, a, b, o, sc, [b, a], fun x _ old => word (max old.toInt x.toInt))
  | .amoMinu d a b o sc => some (d, a, b, o, sc, [b, a], fun x _ old => word (min old.toNat x.toNat : Nat))
  | .amoMaxu d a b o sc => some (d, a, b, o, sc, [b, a], fun x _ old => word (max old.toNat x.toNat : Nat))
  | .amoSwap d a b o sc => some (d, a, b, o, sc, [b, a], fun x _ _ => x)
  | .amoCas d a b o sc => some (d, a, b, o, sc, [b, a, d], fun x c old => if old = c then x else old)
  | _ => none

/-! ## Barriers (R205-R208) -/

/-- A barrier word that an arrival or a wait accepts (R205). -/
def Armed (w : Nat) : Prop := w % 2 ^ 16 ≠ 0 ∧ w % 2 ^ 16 ≤ w / 2 ^ 16 % 2 ^ 16

/-- `PHASE` of a barrier word (R205). -/
def phaseOf (w : Nat) : Nat := w / 2 ^ 32 % 2

/-- The word after an arrival (R207): the last arrival of a phase flips the parity and restores the count. -/
def arrived (w : Nat) : Nat :=
  if w % 2 ^ 16 = 1 then w / 2 ^ 33 * 2 ^ 33 + (1 - phaseOf w) * 2 ^ 32 + w / 2 ^ 16 % 2 ^ 16 * (2 ^ 16 + 1) else w - 1

/-- The `BAR` trap at a barrier word (R205, R316). -/
def barTrap (a : Word) : Trap := { cause := cBAR, erec1 := a.toNat }

/-- The barrier word at `a` is reached, unpoisoned, at the physical address `pa`. -/
def AtWord (s : State) (a : Word) (pa : Nat) (sp : Space) : Prop :=
  Reaches s .atomic false false a (scalarUnit a 0 8) pa sp ∧ Unpoisoned s pa 8

/-- As `AccessHart`, with the status and the remembered arrival free too. -/
def BarHart (s t : State) : Prop :=
  AccessHart s { t with cur := { t.cur with status := s.cur.status, wstate := s.cur.wstate } }

/-- What a wait does when it looks at its word (R207): a word that is not armed traps `BAR`; a parity other than `q`
ends the wait, with `q` in the destination of a `bar.arvwait`; the parity `q` makes the context wait on, with the word's
bank awake (R264). -/
def Looks (out : Out) (a : Word) (q : Bool) (rd : Option (BitVec 5)) (sc : Scope) (pa : Nat) (s : State) : Prop :=
  let w := valueAt s pa 8
  (¬Armed w → out = .next { s with cur := stoppedAt 4 (barTrap a) s.cur }) ∧
  (Armed w → phaseOf w ≠ q.toNat → ∃ t, out = .next t ∧ Touches s t ∧ BarHart s t ∧ BytesSame s t ∧
    t.cur.pc = s.cur.pc + 4 ∧ t.cur.status = .running ∧ t.cur.wstate = none ∧
    (t.core (own s)).instret = (s.core (own s)).instret + 1 ∧
    match rd with
    | some r => WritesX r (BitVec.ofNat 64 q.toNat) s t
    | none => KeepsX s t) ∧
  (Armed w → phaseOf w = q.toNat → ∃ t, out = .next t ∧ Touches s t ∧ t.cur = { s.cur with
      status := .waiting (.barrier a q rd sc), answers := keepAnswers s.cur.answers, woken := t.cur.woken } ∧
    { t with cur := s.cur, banks := s.banks, raa := s.raa, buses := s.buses } = s ∧ (t.bank (paBank pa)).power = .act)

end Sys2Proof.Claims

/-- R259: the placement of a buffer offset. Granules of `256 · 2^GRAN` bytes go to the channels of the set in turn; `ACT`
with placement 0 sends each 4 KiB granule first to the stack that its hash names. R85, R288: an aligned access within one
line of an ordinary buffer that is long enough, grants the right and has a mapped page reaches exactly the byte that the
placement gives, in the frame that the page table gives, when the access tables of its home's L2 and of its memory admit
the core's column; else its refusal is logged and told, and it reaches nothing (R347; targets and masters are numbered by
DESIGN CHOICE, log entry 21). The access by itself changes only what `Touches` names. R85, R112, R316: a scalar load from
an ordinary buffer traps at the first check that fails: `ALIGN`, then `BOUND` at the first byte beyond, then `RIGHT`;
through the null buffer it always traps `BOUND`. -/
def Obligations.AccessChecks : Prop :=
  ((∀ (b : BufInfo) (off : Nat), Placed b off) ∧
   ∀ (p : AccSpec) (u : UnitAcc) (off f : Nat) (b : BufInfo) (s s0 : State),
     s.space p.idx = (.mem b, s0) → u.off = (off : Int) → 0 < u.n → off / 256 = (off + u.n - 1) / 256 →
     off % u.align = 0 → off + u.n ≤ b.len → b.allows s.cur.ctxid.toNat p.kind = true → (p.codeOk = true ∨ b.cls ≠ 4) →
     let ch := (b.locate off).1
     let coff := (b.locate off).2
     let k : PageKey := ⟨s.cur.part, b.owner, p.idx, ch, coff / 2 ^ 16⟩
     s0.walk k = some f → (∀ e ∈ copiesOf s0 p.gather k, e.f = f) →
     (∀ m ∈ s.migrations, m.t = chanTable ch → m.src ≠ f) →
     let piece (l : Loc) : Space × List Piece1 := (.mem b, [⟨off, u.n, l, b.lc, u.coords⟩])
     let t := chanTable ch
     ((Admitted s (16 + tableStack t) p.kind ∧ Admitted s t p.kind) →
       ∃ s1, s.reachOne p u = .ok (piece (.pkg (t * 2 ^ 37 + f * 2 ^ 16 + coff % 2 ^ 16))) s1 ∧
         Touches s s1 ∧ { s1.cur with utlb := s.cur.utlb } = s.cur ∧ s1.home = s.home ∧ s1.rest = s.rest ∧
         ∀ c, (s1.core c).l1 = (s.core c).l1) ∧
     (¬(Admitted s (16 + tableStack t) p.kind ∧ Admitted s t p.kind) →
       ∃ s1, s.reachOne p u = .ok (piece .refused) s1 ∧ s1.log = s.log ++ [.refusal (s.cur.core.toNat / 8)] ∧
         s1.signals = s.signals ++ [.pf 3, .vf s.cur.part 3] ∧
         Touches s { s1 with log := s.log, signals := s.signals })) ∧
  ∀ (i : Instr) (r : LoadRow) (sp : Space) (off : Nat) (s s0 : State), loadRow i = some r → Clean s.cur [r.rb] →
    let idx := (s.readX r.rb).toNat / 2 ^ 40
    s.space idx = (sp, s0) → off = (s.readX r.rb).toNat % 2 ^ 40 + r.off → off < 2 ^ 40 →
    let trap (c o : Nat) : Prop :=
      exec i s = .next { s0 with cur := stoppedAt r.len { cause := c, erec1 := idx * 2 ^ 40 + o % 2 ^ 40 } s.cur }
    (∀ b, sp = .mem b →
      (off % r.n ≠ 0 → trap cALIGN off) ∧
      (off % r.n = 0 → b.len < off + r.n → trap cBOUND (max off b.len)) ∧
      (off % r.n = 0 → off + r.n ≤ b.len → b.allows s.cur.ctxid.toNat .read = false → trap cRIGHT off)) ∧
    (sp = .null → off % r.n = 0 → trap cBOUND off)

/-- R85, R86, R87, R67: a scalar load reads the bytes at its address, extends them and changes no byte; a release brings
the core's dirty bytes home, an acquire those of its sectors, and no other load moves one. Bytes of a moved chunk that are
still in flight are not read (R238; log entry 87). -/
def Obligations.Loads : Prop :=
  ∀ (i : Instr) (r : LoadRow) (pa : Nat) (sp : Space) (s : State), loadRow i = some r →
    Reaches s .read (r.n == 8) true (s.readX r.rb) (scalarUnit (s.readX r.rb) r.off r.n) pa sp →
    Clean s.cur [r.rb] → Unpoisoned s pa r.n →
    ∃ t, exec i s = .next t ∧ AccessStep r.len s t ∧ WritesX r.rd (extended r.n r.uns (valueAt s pa r.n)) s t ∧
      BytesSame s t ∧ ∀ a, HomeBefore s r.ord r.scope pa r.n a (t.homeByte a)

/-- R85, R86, R273, R274, R67: a scalar store puts the low bytes of its register at its address and changes no other
byte; with an eviction of 5 or more, as an acquire at `stack` or wider (R236), and where the core has no L1 (R269), the
bytes reach their home. R274, R283: an eviction of 6 or 7 may send them on to the banks, where a part of a poisoned granule
is lost; the granule stays poisoned. -/
def Obligations.Stores : Prop :=
  ∀ (i : Instr) (r : StoreRow) (pa : Nat) (sp : Space) (s : State), storeRow i = some r →
    Reaches s .write (r.n == 8) true (s.readX r.rb) (scalarUnit (s.readX r.rb) r.off r.n) pa sp →
    Clean s.cur [r.rs, r.rb] →
    ∃ t, exec i s = .next t ∧ StoreStep r.len s t ∧ KeepsX s t ∧
      (r.evict.toNat < 6 → BanksSame s t) ∧
      ((r.evict.toNat < 6 ∨ Unpoisoned s pa r.n) → t.poison = s.poison ∧ BytesPut s pa r.n (s.readX r.rs).toNat t ∧
        ∀ a, if goesHome s r.ord r.scope r.evict = true ∧ pa ≤ a ∧ a < pa + r.n
          then t.homeByte a = t.coreByte (own s) a
          else HomeBefore s r.ord r.scope pa r.n a (t.homeByte a))

/-- No transfer of the context into its scratchpad is under way (R241). -/
def Unchained (h : Hart) : Prop := ∀ x ∈ h.xfers, x.stopped ≠ none ∨ x.dst.toNat / 2 ^ 40 ≠ 0xFFFFFF

/-- R85, R86, R270: a scalar load or store in the scratchpad, aligned and within it, reads or writes exactly its bytes
there; no byte of memory changes. R241: a load of bytes that a zeroing transfer of the context is still to write gives
0. -/
def Obligations.Scratchpad : Prop :=
  (∀ (i : Instr) (r : LoadRow) (off : Nat) (s : State), loadRow i = some r → Clean s.cur [r.rb] →
    (s.readX r.rb).toNat / 2 ^ 40 = 0xFFFFFF → off = (s.readX r.rb).toNat % 2 ^ 40 + r.off →
    off % r.n = 0 → off + r.n ≤ s.cur.spadUnits * 2 ^ 18 → Unchained s.cur →
    ∃ t, exec i s = .next t ∧ AccessStep r.len s t ∧ BytesSame s t ∧
      WritesX r.rd (extended r.n r.uns
        ((List.range r.n).map fun j => (Memory.get s.cur.spad (off + j)).toNat * 256 ^ j).sum) s t) ∧
  (∀ (i : Instr) (r : LoadRow) (off d : Nat) (x : Xfer) (s : State), loadRow i = some r → Clean s.cur [r.rb] →
    (s.readX r.rb).toNat / 2 ^ 40 = 0xFFFFFF → off = (s.readX r.rb).toNat % 2 ^ 40 + r.off →
    off % r.n = 0 → s.cur.xfers = [x] → x.zero = true → x.stopped = none → x.dst.toNat / 2 ^ 40 = 0xFFFFFF →
    d = x.dst.toNat % 2 ^ 40 → x.n.toNat ≤ copyMax x.chunk → d + x.n.toNat ≤ s.cur.spadUnits * 2 ^ 18 →
    d ≤ off → off + r.n ≤ d + x.n.toNat →
    (∀ k < x.count, off < d + (k + 1) * x.size → d + k * x.size < off + r.n → x.finished.getLsbD k = false) →
    s.cur.flights = [] → s.cur.answers = [] → (∀ y ∈ s.sent, y.who ≠ s.cur.key) →
    ∃ t, exec i s = .next t ∧ t.cur.pc = s.cur.pc + BitVec.ofNat 64 r.len ∧ WritesX r.rd 0 s t ∧ BytesSame s t) ∧
  ∀ (i : Instr) (r : StoreRow) (off : Nat) (s : State), storeRow i = some r → Clean s.cur [r.rs, r.rb] →
    (s.readX r.rb).toNat / 2 ^ 40 = 0xFFFFFF → off = (s.readX r.rb).toNat % 2 ^ 40 + r.off →
    off % r.n = 0 → off + r.n ≤ s.cur.spadUnits * 2 ^ 18 →
    ∃ t, exec i s = .next t ∧ Touches s t ∧ KeepsX s t ∧ BytesSame s t ∧ t.cur.pc = s.cur.pc + BitVec.ofNat 64 r.len ∧
      (∀ a, Memory.get t.cur.spad a =
        if off ≤ a ∧ a < off + r.n then BitVec.ofNat 8 ((s.readX r.rs).toNat / 256 ^ (a - off))
        else Memory.get s.cur.spad a) ∧
      AccessHart s { t with cur := { t.cur with spad := s.cur.spad, spadPages := s.cur.spadPages } }


/-- R198, R199, R200, R273: an atomic gives `rd` the old doubleword and leaves its new value at the home; no other byte
changes to its core, and a failed compare changes none. -/
def Obligations.Atomics : Prop :=
  ∀ (i : Instr) (d a b : BitVec 5) (o : Ord) (sc : Scope) (rs : List (BitVec 5)) (f : AmoFn) (pa : Nat) (sp : Space)
    (s : State), amoRow i = some (d, a, b, o, sc, rs, f) → Clean s.cur rs →
    Reaches s .atomic false false (s.readX b) (scalarUnit (s.readX b) 0 8) pa sp → Unpoisoned s pa 8 →
    let old : Word := BitVec.ofNat 64 (valueAt s pa 8)
    ∃ t, exec i s = .next t ∧ StoreStep 4 s t ∧ BanksSame s t ∧ WritesX d old s t ∧
      BytesPut s pa 8 (f (s.readX a) (s.readX d) old).toNat t ∧
      ∀ x, pa ≤ x → x < pa + 8 → t.homeByte x = t.coreByte (own s) x

/-- R205, R207, R208: `bar.init` writes a word with parity 0 whose count and pending count are the operand; a count of 0
or above 65,535 traps `BAR`. An arrival counts the pending count down, the last one flips the parity and restores the
count, and `rd` gets the parity before it; a word that is not armed traps `BAR` (its `WR` is 0, DEDUCED, log entry 47)
and nothing changes. R207, R208, R209: `bar.wait` looks at its word, and a context that waits looks again at each
BAR_WAIT_COMPLETE, with the same outcomes. `bar.arvwait` arrives once, remembers the parity of the phase it arrived in,
and then waits for the end of that phase; a context that has arrived does not arrive again. -/
def Obligations.Barriers : Prop :=
  ((∀ (rb ra : BitVec 5) (sc : Scope) (s : State), Clean s.cur [ra, rb] →
      let c := (s.readX ra).toNat
      ((c = 0 ∨ 65535 < c) → Traps (.barInit rb ra sc) 4 { cause := cBAR, erec1 := c } s) ∧
      (0 < c → c ≤ 65535 → ∀ pa sp,
        Reaches s .atomic false false (s.readX rb) (scalarUnit (s.readX rb) 0 8) pa sp →
        ∃ t, exec (.barInit rb ra sc) s = .next t ∧ StoreStep 4 s t ∧ BanksSame s t ∧ KeepsX s t ∧
          BytesPut s pa 8 (c * 2 ^ 16 + c) t)) ∧
   ∀ (rd rb : BitVec 5) (sc : Scope) (pa : Nat) (sp : Space) (s : State), Clean s.cur [rb] →
     Reaches s .atomic false false (s.readX rb) (scalarUnit (s.readX rb) 0 8) pa sp → Unpoisoned s pa 8 →
     let w := valueAt s pa 8
     (Armed w → ∃ t, exec (.barArv rd rb sc) s = .next t ∧ StoreStep 4 s t ∧ BanksSame s t ∧
       WritesX rd (BitVec.ofNat 64 (phaseOf w)) s t ∧ BytesPut s pa 8 (arrived w) t) ∧
     (¬Armed w → Traps (.barArv rd rb sc) 4 (barTrap (s.readX rb)) s)) ∧
  (∀ (pa : Nat) (sp : Space) (s : State),
     (∀ rb ra sc, Clean s.cur [ra, rb] → s.cur.status = .running → AtWord s (s.readX rb) pa sp →
       Looks (exec (.barWait rb ra sc) s) (s.readX rb) ((s.readX ra).getLsbD 0) none sc pa s) ∧
     ∀ a q rd sc, s.cur.status = .waiting (.barrier a q rd sc) → AtWord s a pa sp →
       Looks (exec (.barWaitComplete s.cur.key) s) a q rd sc pa s) ∧
  ∀ (rd rb : BitVec 5) (sc : Scope) (pa : Nat) (sp : Space) (s : State), Clean s.cur [rb] →
    AtWord s (s.readX rb) pa sp →
    let w := valueAt s pa 8
    (s.cur.wstate = none → ¬Armed w → Traps (.barArvwait rd rb sc) 4 (barTrap (s.readX rb)) s) ∧
    (s.cur.wstate = none → Armed w → ∃ u, TouchesStore s u ∧ BanksSame s u ∧ BarHart s u ∧ KeepsX s u ∧ BytesPut s pa 8 (arrived w) u ∧
      u.cur.pc = s.cur.pc ∧ u.cur.status = s.cur.status ∧ u.cur.wstate = some (phaseOf w == 1) ∧
      exec (.barArvwait rd rb sc) s = exec (.barArvwait rd rb sc) u) ∧
    ∀ q, s.cur.wstate = some q → s.cur.status = .running →
      Looks (exec (.barArvwait rd rb sc) s) (s.readX rb) q (some rd) sc pa s


/-- R98: the six cache operations. `synci` makes later fetches read the line's current bytes; `wb` and `wbinv` write its
dirty bytes home; the prefetches change at most `PFDROP`; `zero` stores 256 zero bytes. -/
def Obligations.CacheControl : Prop :=
  ∀ (ra : BitVec 5) (s : State), Clean s.cur [ra] →
    let a := s.readX ra
    let u : UnitAcc := ⟨0, [], (a.toNat % 2 ^ 40 / 256 * 256 : Nat), 256, 1⟩
    (∀ pa sp, Reaches s .exec false true a u pa sp →
      ∃ t, exec (.cachectlSynci ra) s = .next t ∧ AccessStep 4 s t ∧ KeepsX s t ∧ BytesSame s t ∧
        ∀ x, overlayGet t.cur.ifetch x = if pa ≤ x ∧ x < pa + 256 then none else overlayGet s.cur.ifetch x) ∧
    (∀ pa sp i, i = .cachectlWb ra ∨ i = .cachectlWbinv ra → a.toNat / 2 ^ 40 ≠ 0xFFFFFF →
      Reaches s .wb false true a u pa sp →
      ∃ t, exec i s = .next t ∧ AccessStep 4 s t ∧ KeepsX s t ∧ BytesSame s t ∧
        ∀ x, pa ≤ x → x < pa + 256 → t.homeByte x = s.coreByte (own s) x) ∧
    (∀ i, i = .cachectlWb ra ∨ i = .cachectlWbinv ra ∨ i = .cachectlPf1 ra ∨ i = .cachectlPf2 ra →
      a.toNat / 2 ^ 40 = 0xFFFFFF → ∃ t, exec i s = .next t ∧ Retires 4 s.cur s t) ∧
    (∀ i, i = .cachectlPf1 ra ∨ i = .cachectlPf2 ra → ∃ t, exec i s = .next t ∧ t.cur.pc = s.cur.pc + 4 ∧
      OnlyHart s t ∧ { t.cur with pc := s.cur.pc, answers := s.cur.answers } = s.cur ∧
      (∀ c, { t.core c with pfdrop := 0, instret := 0 } = { s.core c with pfdrop := 0, instret := 0 }) ∧
      ((t.core (own s)).pfdrop = (s.core (own s)).pfdrop ∨ (t.core (own s)).pfdrop = (s.core (own s)).pfdrop + 1)) ∧
    (∀ pa sp, Reaches s .write false true a u pa sp →
      ∃ t, exec (.cachectlZero ra) s = .next t ∧ StoreStep 4 s t ∧ BanksSame s t ∧ KeepsX s t ∧ BytesPut s pa 256 0 t)


namespace Sys2Proof.Claims

/-! ## Vector operands and results (R19, R21, R24, R50, R105, R125) -/

/-- No register of the context holds a poisoned word (R322), no copy transfer of it holds a fault (R217), and none has a
write in flight (R238). -/
def Healthy (h : Hart) : Prop :=
  h.xPoison = 0 ∧ (∀ k, (h.vreg k).poison = 0) ∧ (∀ k, (h.m.getD k .reset).poison = 0) ∧
    (∀ x ∈ h.xfers, x.stopped = none) ∧ h.flights = []

/-- A register that names a vector operand of at least `len` elements (R19). -/
def VecOperand (h : Hart) (r : BitVec 6) (len : Nat) : Prop :=
  let o := h.opnd r
  r.toNat % 2 ^ o.grp = 0 ∧
    (∀ k < 2 ^ o.grp, let d := (h.vreg (r.toNat + k)).desc
      d.tag = o.tag ∧ d.dom.toNat = o.dom ∧ d.grp.toNat = o.grp) ∧
    o.tag ≠ .none ∧ len ≤ 2 ^ o.grp * tagCap o.tag

/-- A destination that takes `n` elements of tag `t` in a group of code `g` (R50): the smallest group that holds them,
aligned. -/
def VecDest (vd : BitVec 6) (t : Tag) (n g : Nat) : Prop := groupFor t n = some g ∧ vd.toNat % 2 ^ g = 0

/-- The length rule of an operand of domain `l` (R152). -/
def LengthFits (h : Hart) (l : Nat) : Prop := l ≠ 0 → h.csr.vl.toNat % (32 * 2 ^ l) = 0

/-- Element `i` is active under a mask selector (R24, R105): `m0` reads as ones. -/
def Active (h : Hart) (sel : BitVec 2) (i : Nat) : Prop := sel = 0 ∨ (h.m.getD sel.toNat .reset).bits.getLsbD i = true

/-- The registers of a result group hold its descriptor already (R50, R125). -/
def Holds (h : Hart) (o : Opnd) : Prop :=
  ∀ k < 2 ^ o.grp, let d := (h.vreg (o.base + k)).desc
    d.tag = o.tag ∧ d.dom.toNat = o.dom ∧ d.grp.toNat = o.grp

/-- The members of a group share its valid length by R21. -/
def Packed (h : Hart) (o : Opnd) : Prop :=
  ∀ k < 2 ^ o.grp, (h.vreg (o.base + k)).desc.valen.toNat = min (tagCap o.tag) (h.validLen o - k * tagCap o.tag)

/-- The registers of the group `o` hold its descriptor with a valid length of `len`, dirty; the other registers are as
they were. -/
def GroupHolds (h h' : Hart) (o : Opnd) (len : Nat) : Prop :=
  (∀ k < 2 ^ o.grp, (h'.vreg (o.base + k)).desc =
    ⟨o.tag, BitVec.ofNat 3 o.dom, BitVec.ofNat 2 o.grp, BitVec.ofNat 15 (min (tagCap o.tag) (len - k * tagCap o.tag)),
      true⟩) ∧
    ∀ k, (k < o.base ∨ o.base + 2 ^ o.grp ≤ k) → h'.vreg k = h.vreg k

/-- The group `o` is written with `n` elements (R21, R50): under `TA` its valid length is `n`; under `TU` an old valid
length of the same group stays when it is greater. -/
def GroupWritten (h h' : Hart) (o : Opnd) (n : Nat) : Prop :=
  (h.csr.tp = true → GroupHolds h h' o n) ∧
  (h.csr.tp = false → Holds h o → GroupHolds h h' o (max (h.validLen o) n)) ∧
  (h.csr.tp = false → ¬Holds h o → GroupHolds h h' o n)

/-- What a vector computation leaves unchanged: everything but vector registers, flags and the counters `RCNT` and
`ZCNT`; flags are only ever set, and the rounding fields of `FCSR` stay (R40). -/
def VectorFrame (h h' : Hart) : Prop :=
  { h' with v := h.v, csr := { h'.csr with fcsr := h.csr.fcsr, rcnt := h.csr.rcnt, zcnt := h.csr.zcnt } } = h ∧
    h'.csr.fcsr ||| h.csr.fcsr = h'.csr.fcsr ∧ h'.csr.fcsr >>> 5 = h.csr.fcsr >>> 5

/-- An instruction of `len` bytes that writes `n` elements of the group `o` and nothing else. -/
def VectorStep (i : Instr) (len : Nat) (o : Opnd) (n : Nat) (s : State) (h' : Hart) : Prop :=
  (∃ t, exec i s = .next t ∧ Retires len h' s t) ∧ GroupWritten s.cur h' o n ∧ VectorFrame s.cur h'

/-- The elements of a fixed-width result (R105, R125): an active element below `n` holds `f i`; an inactive one keeps
its contents under `MU` where the group was there before, and is zero else; the elements from `n` up stay under `TU`
and read as zero under `TA`. -/
def ElementsAre (h h' : Hart) (o : Opnd) (act : Nat → Prop) (n : Nat) (f : Nat → Nat) : Prop :=
  (∀ i < n, (act i → h'.unit o i = f i) ∧
    (¬act i → (h.csr.mp = false → Holds h o → h'.unit o i = h.unit o i) ∧
      ((h.csr.mp = true ∨ ¬Holds h o) → h'.unit o i = 0))) ∧
  ∀ i, n ≤ i → i < 2 ^ o.grp * tagCap o.tag →
    (h.csr.tp = false → Holds h o → Packed h o → h'.unit o i = h.unit o i) ∧
    ((h.csr.tp = true ∨ ¬Holds h o) → h'.unit o i = 0)

/-! ## Numbers as reals (R38, R39, R45, R46) -/

/-- The real number that a finite value is. -/
noncomputable def amount : Val → ℝ
  | .num n m e => (if n then -1 else 1) * (m : ℝ) * (2 : ℝ) ^ e
  | _ => 0

/-- A pattern of a float format that is a finite number (R37). -/
def FiniteIn (f : FloatFmt) (n : Nat) : Prop :=
  n < 2 ^ (f.ebits + f.prec) ∧ n / 2 ^ (f.prec - 1) % 2 ^ f.ebits ≠ 2 ^ f.ebits - 1

/-- The real number that a pattern stands for. -/
noncomputable def realOf (f : FloatFmt) (n : Nat) : ℝ := amount (f.decode false n)

/-- The pattern `r`, of the sign `neg`, is the real `x` rounded to a float format in a mode (R39): of the finite
patterns the nearest one, with the even pattern for a tie, or the nearest one in the mode's direction. -/
def RoundedTo (f : FloatFmt) (rm : Round) (neg : Bool) (x : ℝ) (r : Nat) : Prop :=
  FiniteIn f r ∧ r.testBit (f.ebits + f.prec - 1) = neg ∧
  match rm with
  | .rne => ∀ q, FiniteIn f q → |x - realOf f r| ≤ |x - realOf f q| ∧
      (|x - realOf f r| = |x - realOf f q| → realOf f q ≠ realOf f r → r % 2 = 0)
  | .rtz => |realOf f r| ≤ |x| ∧ ∀ q, FiniteIn f q → |realOf f q| ≤ |x| → |realOf f q| ≤ |realOf f r|
  | .rdn => realOf f r ≤ x ∧ ∀ q, FiniteIn f q → realOf f q ≤ x → realOf f q ≤ realOf f r
  | .rup => x ≤ realOf f r ∧ ∀ q, FiniteIn f q → x ≤ realOf f q → realOf f r ≤ realOf f q

/-- The greatest finite pattern of a format. -/
def greatest (f : FloatFmt) : Nat := (2 ^ f.ebits - 1) * 2 ^ (f.prec - 1) - 1

/-- A magnitude whose rounding as if the exponent range were unbounded is above the greatest finite number (R39). -/
def Overflows (f : FloatFmt) (rm : Round) (neg : Bool) (a : ℝ) : Prop :=
  let past : Prop := (2 : ℝ) ^ (f.bias + 1) ≤ a
  match rm with
  | .rne => (2 : ℝ) ^ (f.bias + 1) - (2 : ℝ) ^ (f.bias - f.prec) ≤ a
  | .rtz => past
  | .rdn => if neg then realOf f (greatest f) < a else past
  | .rup => if neg then past else realOf f (greatest f) < a

/-- The whole number `z` is the real `x` rounded in a mode (R39, R48). -/
def RoundedInt (rm : Round) (x : ℝ) (z : Int) : Prop :=
  match rm with
  | .rne => |x - z| ≤ 1 / 2 ∧ (|x - z| = 1 / 2 → Even z)
  | .rtz => |(z : ℝ)| ≤ |x| ∧ |x - z| < 1 ∧ 0 ≤ x * z
  | .rdn => z = ⌊x⌋
  | .rup => z = ⌈x⌉

/-- What enters the quantisation of a value (R45): a value that is not finite, and one below zero in an unsigned type,
as 0. -/
noncomputable def sourceOf (signed : Bool) (v : Val) : ℝ := if signed = false ∧ amount v < 0 then 0 else amount v

/-- Not a finite number. -/
def NotFinite (v : Val) : Prop := v.isNan = true ∨ ∃ n, v = .inf n

/-- Every value rounds to a mantissa of the block type at the scale `2^e` (R45). -/
def FitsAt (signed : Bool) (lo hi e : Int) (xs : List (Val × Bool)) : Prop :=
  ∀ x ∈ xs, ∀ z : Int, RoundedInt .rne (sourceOf signed x.1 * (2 : ℝ) ^ (-e)) z → lo ≤ z ∧ z ≤ hi

/-! ## Elementwise computations (R126-R136) -/

/-- The integer, float and block families. -/
def ifq : List Family := [.int, .float, .block]

/-- The elementwise instructions with a vector result (R128, R131, R136, R138, R67): their length, the tag families they
accept, whether they keep a domain (class K), and their operands. -/
def laneOf : Instr → Option (Nat × LaneSpec)
  | .vadd d a b m => some (4, ⟨ifq, true, a, .vec b, false, d, m⟩)
  | .vsub d a b m => some (4, ⟨ifq, true, a, .vec b, false, d, m⟩)
  | .vmul d a b m => some (4, ⟨ifq, false, a, .vec b, false, d, m⟩)
  | .vmin d a b m => some (4, ⟨ifq, false, a, .vec b, false, d, m⟩)
  | .vmax d a b m => some (4, ⟨ifq, false, a, .vec b, false, d, m⟩)
  | .vabs d a m => some (4, ⟨ifq, false, a, .none, false, d, m⟩)
  | .vneg d a m => some (4, ⟨ifq, true, a, .none, false, d, m⟩)
  | .vfma d a b m => some (4, ⟨ifq, false, a, .vec b, true, d, m⟩)
  | .vfms d a b m => some (4, ⟨ifq, false, a, .vec b, true, d, m⟩)
  | .vfnma d a b m => some (4, ⟨ifq, false, a, .vec b, true, d, m⟩)
  | .vdiv d a b m => some (4, ⟨[.int, .float], false, a, .vec b, false, d, m⟩)
  | .vsqrt d a m => some (4, ⟨[.float], false, a, .none, false, d, m⟩)
  | .vand d a b m => some (4, ⟨[.int, .hb], false, a, .vec b, false, d, m⟩)
  | .vor d a b m => some (4, ⟨[.int, .hb], false, a, .vec b, false, d, m⟩)
  | .vxor d a b m => some (4, ⟨[.int, .hb], false, a, .vec b, false, d, m⟩)
  | .vnot d a m => some (4, ⟨[.int, .hb], false, a, .none, false, d, m⟩)
  | .vsll d a b m => some (4, ⟨[.int], false, a, .amount b, false, d, m⟩)
  | .vsrl d a b m => some (4, ⟨[.int], false, a, .amount b, false, d, m⟩)
  | .vsra d a b m => some (4, ⟨[.int], false, a, .amount b, false, d, m⟩)
  | .vmulh d a b m => some (4, ⟨[.int], false, a, .vec b, false, d, m⟩)
  | .vmulr d a b m => some (4, ⟨ifq, true, a, .row b false, false, d, m⟩)
  | .vaddr d a b m => some (4, ⟨ifq, true, a, .row b true, false, d, m⟩)
  | .vrcps d a b m => some (4, ⟨[.float], false, a, .vec b, false, d, m⟩)
  | .vrsqs d a b m => some (4, ⟨[.float], false, a, .vec b, false, d, m⟩)
  | .vaddX d a x m => some (4, ⟨ifq, false, a, .scalar x false, false, d, m⟩)
  | .vsubX d a x m => some (4, ⟨ifq, false, a, .scalar x false, false, d, m⟩)
  | .vsubXRev d a x m => some (4, ⟨ifq, false, a, .scalar x true, false, d, m⟩)
  | .vmulX d a x m => some (4, ⟨ifq, true, a, .scalar x false, false, d, m⟩)
  | .vfmaX d a x m => some (4, ⟨ifq, false, a, .scalar x false, true, d, m⟩)
  | .vminX d a x m => some (4, ⟨ifq, false, a, .scalar x false, false, d, m⟩)
  | .vmaxX d a x m => some (4, ⟨ifq, false, a, .scalar x false, false, d, m⟩)
  | .vsllX d a x m => some (4, ⟨[.int], false, a, .scalarAmount x, false, d, m⟩)
  | .vsrlX d a x m => some (4, ⟨[.int], false, a, .scalarAmount x, false, d, m⟩)
  | .vsraX d a x m => some (4, ⟨[.int], false, a, .scalarAmount x, false, d, m⟩)
  | .vexpFast d a m => some (4, ⟨[.float], false, a, .none, false, d, m⟩)
  | .vexpAcc d a m => some (4, ⟨[.float], false, a, .none, false, d, m⟩)
  | .vlogFast d a m => some (4, ⟨[.float], false, a, .none, false, d, m⟩)
  | .vlogAcc d a m => some (4, ⟨[.float], false, a, .none, false, d, m⟩)
  | .vrcpFast d a m => some (4, ⟨[.float], false, a, .none, false, d, m⟩)
  | .vrcpAcc d a m => some (4, ⟨[.float], false, a, .none, false, d, m⟩)
  | .vrsqrtFast d a m => some (4, ⟨[.float], false, a, .none, false, d, m⟩)
  | .vrsqrtAcc d a m => some (4, ⟨[.float], false, a, .none, false, d, m⟩)
  | .vtanhFast d a m => some (4, ⟨[.float], false, a, .none, false, d, m⟩)
  | .vtanhAcc d a m => some (4, ⟨[.float], false, a, .none, false, d, m⟩)
  | .vsigmFast d a m => some (4, ⟨[.float], false, a, .none, false, d, m⟩)
  | .vsigmAcc d a m => some (4, ⟨[.float], false, a, .none, false, d, m⟩)
  | .vgeluFast d a m => some (4, ⟨[.float], false, a, .none, false, d, m⟩)
  | .vgeluAcc d a m => some (4, ⟨[.float], false, a, .none, false, d, m⟩)
  | .vsiluFast d a m => some (4, ⟨[.float], false, a, .none, false, d, m⟩)
  | .vsiluAcc d a m => some (4, ⟨[.float], false, a, .none, false, d, m⟩)
  | .hVadd d a => some (2, ⟨ifq, true, d.setWidth 6, .vec (a.setWidth 6), false, d.setWidth 6, 0⟩)
  | _ => none

/-- The quotient of integers of `w` bits (R129, R81). -/
def quotientAt (w : Nat) (a b : Int) : Int :=
  if b = 0 then 0 else if a = -2 ^ (w - 1) ∧ b = -1 then -2 ^ (w - 1) else a.sign * b.sign * (a.natAbs / b.natAbs : Nat)

/-- A function of integer elements, before it is taken modulo `2^w`: `num` reads a pattern by the signedness of the
type. -/
abbrev IntFn := (Nat → Int) → Nat → Nat → Nat → Nat → Int

/-- The elementwise instructions that take integers (R128, R129, R131, R136). -/
def intFn : Instr → Option IntFn
  | .vadd _ _ _ _ => some fun num _ a b _ => num a + num b
  | .vsub _ _ _ _ => some fun num _ a b _ => num a - num b
  | .vmul _ _ _ _ => some fun num _ a b _ => num a * num b
  | .vmin _ _ _ _ => some fun num _ a b _ => min (num a) (num b)
  | .vmax _ _ _ _ => some fun num _ a b _ => max (num a) (num b)
  | .vabs _ _ _ => some fun num _ a _ _ => ((num a).natAbs : Int)
  | .vneg _ _ _ => some fun num _ a _ _ => -num a
  | .vfma _ _ _ _ => some fun num _ a b c => num a * num b + num c
  | .vfms _ _ _ _ => some fun num _ a b c => num a * num b - num c
  | .vfnma _ _ _ _ => some fun num _ a b c => -(num a * num b) + num c
  | .vdiv _ _ _ _ => some fun num w a b _ => quotientAt w (num a) (num b)
  | .vand _ _ _ _ => some fun _ _ a b _ => ((a &&& b : Nat) : Int)
  | .vor _ _ _ _ => some fun _ _ a b _ => ((a ||| b : Nat) : Int)
  | .vxor _ _ _ _ => some fun _ _ a b _ => ((a ^^^ b : Nat) : Int)
  | .vnot _ _ _ => some fun _ _ a _ _ => -1 - (a : Int)
  | .vsll _ _ _ _ => some fun _ w a b _ => (a : Int) * 2 ^ (b % w)
  | .vsrl _ _ _ _ => some fun _ w a b _ => (a : Int) / 2 ^ (b % w)
  | .vsra _ _ _ _ => some fun _ w a b _ => signedOf w a / 2 ^ (b % w)
  | .vmulh _ _ _ _ => some fun num w a b _ => num a * num b / 2 ^ w
  | .vmulr _ _ _ _ => some fun num _ a b _ => num a * num b
  | .vaddr _ _ _ _ => some fun num _ a b _ => num a + num b
  | .vaddX _ _ _ _ => some fun num _ a b _ => num a + num b
  | .vsubX _ _ _ _ => some fun num _ a b _ => num a - num b
  | .vsubXRev _ _ _ _ => some fun num _ a b _ => num a - num b
  | .vmulX _ _ _ _ => some fun num _ a b _ => num a * num b
  | .vfmaX _ _ _ _ => some fun num _ a b c => num a * num b + num c
  | .vminX _ _ _ _ => some fun num _ a b _ => min (num a) (num b)
  | .vmaxX _ _ _ _ => some fun num _ a b _ => max (num a) (num b)
  | .vsllX _ _ _ _ => some fun _ w a b _ => (a : Int) * 2 ^ (b % w)
  | .vsrlX _ _ _ _ => some fun _ w a b _ => (a : Int) / 2 ^ (b % w)
  | .vsraX _ _ _ _ => some fun _ w a b _ => signedOf w a / 2 ^ (b % w)
  | .hVadd _ _ => some fun num _ a b _ => num a + num b
  | _ => none

/-- A function of float elements: the exact result and the flags it raises itself (R39). -/
abbrev FloatFn := Round → Val → Val → Val → Val × Flags

/-- The elementwise instructions that round an exact float result once (R128, R130, R131, R136). -/
def floatFn : Instr → Option FloatFn
  | .vadd _ _ _ _ => some fun rm a b _ => a.add rm b
  | .vsub _ _ _ _ => some fun rm a b _ => a.sub rm b
  | .vmul _ _ _ _ => some fun _ a b _ => a.mul b
  | .vmin _ _ _ _ => some fun _ a b _ => Val.minmax false a b
  | .vmax _ _ _ _ => some fun _ a b _ => Val.minmax true a b
  | .vfma _ _ _ _ => some fun rm a b c => Val.fma rm false false a b c
  | .vfms _ _ _ _ => some fun rm a b c => Val.fma rm false true a b c
  | .vfnma _ _ _ _ => some fun rm a b c => Val.fma rm true false a b c
  | .vdiv _ _ _ _ => some fun _ a b _ => a.div b
  | .vsqrt _ _ _ => some fun _ a _ _ => a.sqrt
  | .vmulr _ _ _ _ => some fun _ a b _ => a.mul b
  | .vaddr _ _ _ _ => some fun rm a b _ => a.add rm b
  | .vaddX _ _ _ _ => some fun rm a b _ => a.add rm b
  | .vsubX _ _ _ _ => some fun rm a b _ => a.sub rm b
  | .vsubXRev _ _ _ _ => some fun rm a b _ => a.sub rm b
  | .vmulX _ _ _ _ => some fun _ a b _ => a.mul b
  | .vfmaX _ _ _ _ => some fun rm a b c => Val.fma rm false false a b c
  | .vminX _ _ _ _ => some fun _ a b _ => Val.minmax false a b
  | .vmaxX _ _ _ _ => some fun _ a b _ => Val.minmax true a b
  | .hVadd _ _ => some fun rm a b _ => a.add rm b
  | _ => none

/-- A value with the sign 0. -/
def magnitude : Val → Val
  | .num _ m e => .num false m e
  | .inf _ => .inf false
  | v => v

/-- The refinements of R133: `b (2 - a b)` and `b (3 - a b b) / 2` exactly, once the cases of the table are out. -/
def refinement (rsq : Bool) (rm : Round) (a b : Val) : Val × Flags :=
  if a.isNan || b.isNan then (.nan false, if a.isSnan || b.isSnan then fNV else 0)
  else
    match b with
    | .num n (m + 1) e =>
      let v : Val := .num n (m + 1) e
      let p := if rsq then ((a.mul v).1.mul v).1 else (a.mul v).1
      match (v.mul ((Val.ofInt (if rsq then 3 else 2)).sub rm p).1).1 with
      | .num n' m' e' => (.num n' m' (if rsq then e' - (if m' = 0 then 0 else 1) else e'), 0)
      | w => (w, 0)
    | b => (b, 0)

/-- The refinements among the instructions. -/
def refineFn : Instr → Option FloatFn
  | .vrcps _ _ _ _ => some fun rm a b _ => refinement false rm a b
  | .vrsqs _ _ _ _ => some fun rm a b _ => refinement true rm a b
  | _ => none

/-- The instructions that change the sign bit of a float only (R130). -/
def signFn : Instr → Option (Nat → Nat → Nat)
  | .vabs _ _ _ => some fun w n => n % 2 ^ (w - 1)
  | .vneg _ _ _ => some fun w n => n ^^^ 2 ^ (w - 1)
  | _ => none

/-- The lesser or the greater of two elements of a block type; a NaN of either makes it one (DEDUCED, log entry 79). -/
def blockMinmax (mx : Bool) (a b : Val) : Val × Flags := if a.isNan || b.isNan then (.nan false, 0) else Val.minmax mx a b

/-- The elementwise instructions on elements of a block type: the exact results (R47, R127, R128, R136). -/
def blockFn : Instr → Option FloatFn
  | .vabs _ _ _ => some fun _ a _ _ => (magnitude a, 0)
  | .vneg _ _ _ => some fun _ a _ _ => (a.negate, 0)
  | .vmin _ _ _ _ => some fun _ a b _ => blockMinmax false a b
  | .vmax _ _ _ _ => some fun _ a b _ => blockMinmax true a b
  | .vminX _ _ _ _ => some fun _ a b _ => blockMinmax false a b
  | .vmaxX _ _ _ _ => some fun _ a b _ => blockMinmax true a b
  | i => floatFn i

/-- Every condition of a computation on `VL` elements holds (R19, R49, R50, R124, R126): its result has tag `t` in a
group of code `g`. -/
def LaneReady (p : LaneSpec) (h : Hart) (t : Tag) (g : Nat) : Prop :=
  let vl := h.csr.vl.toNat
  VecOperand h p.va vl ∧
  (match p.second with
    | .vec r | .amount r => VecOperand h r vl
    | .row r _ => VecOperand h r 32
    | _ => True) ∧
  (p.readsVd = true → VecOperand h p.vd vl ∧ tagFamily (h.opnd p.vd).tag ∈ p.fams) ∧
  p.type h = some t ∧ tagFamily t ∈ p.fams ∧ tagFamily (h.opnd p.va).tag ∈ p.fams ∧
  (∀ r x, (p.second = .vec r ∨ p.second = .row r x) → tagFamily (h.opnd r).tag ∈ p.fams) ∧
  (∀ r, p.second = .amount r → tagFamily (h.opnd r).tag = .int) ∧
  VecDest p.vd t vl g ∧
  (∀ l ∈ (p.doms h).list, LengthFits h l ∧ (p.keep = true → l = (h.opnd p.va).dom))

/-- The domain of the result (R126): kept, or spatial. -/
def LaneSpec.resultDom (p : LaneSpec) (h : Hart) : Nat := if p.keep then (h.opnd p.va).dom else 0

/-- Every vector operand is spatial and holds tag `t` already, shift amounts apart. -/
def Plain (p : LaneSpec) (h : Hart) (t : Tag) : Prop :=
  (h.opnd p.va).tag = t ∧ (h.opnd p.va).dom = 0 ∧
  (∀ r x, (p.second = .vec r ∨ p.second = .row r x) → (h.opnd r).tag = t ∧ (h.opnd r).dom = 0) ∧
  (∀ r, p.second = .amount r → (h.opnd r).dom = 0) ∧
  (p.readsVd = true → (h.opnd p.vd).tag = t ∧ (h.opnd p.vd).dom = 0)

/-- The patterns that meet at element `i`: first operand, second operand, old destination. -/
def LaneSpec.at (p : LaneSpec) (h : Hart) (t : Tag) (i : Nat) : Nat × Nat × Nat :=
  let a := h.unit (h.opnd p.va) i
  let c := h.unit (h.opnd p.vd) i
  match p.second with
  | .none => (a, 0, c)
  | .vec r | .amount r => (a, h.unit (h.opnd r) i, c)
  | .row r _ => (a, h.unit (h.opnd r) (i % 32), c)
  | .scalar x false => (a, (h.readX x).toNat % 2 ^ tagWidth t, c)
  | .scalar x true => ((h.readX x).toNat % 2 ^ tagWidth t, a, c)
  | .scalarAmount x => (a, (h.readX x).toNat, c)

/-- The rounding mode that `FCSR.RM` names (R31). -/
def modeOf (h : Hart) : Round :=
  match h.csr.fcsr.toNat / 32 % 4 with
  | 0 => .rne
  | 1 => .rtz
  | 2 => .rdn
  | _ => .rup

/-- `FCSR.FTZ` (R31). -/
def flushes (h : Hart) : Bool := h.csr.fcsr.getLsbD 7

/-- The flags of several elements taken together. -/
def allFlags (l : List Flags) : Flags := l.foldr (· ||| ·) 0

/-- Whether element `i` is active under mask register `k`, which reads as ones for `m0` (R24). -/
def maskBit (h : Hart) (k i : Nat) : Bool :=
  if k = 0 then decide (i < 16384) else (h.m.getD k .reset).bits.getLsbD i

/-- The active elements below `VL`, rising. -/
def actives (h : Hart) (sel : BitVec 2) : List Nat := (List.range h.csr.vl.toNat).filter (maskBit h sel.toNat)

/-- The float mode of a context (R31). -/
def fpModeOf (h : Hart) : FpMode := ⟨modeOf h, flushes h⟩

/-- The exact value of element `i` of an operand of a block type (R46, R47). -/
def blockElem (h : Hart) (o : Opnd) (i : Nat) : Val := (blockOf o.tag (h.unit o (i / 32))).vals.getD (i % 32) (.num false 0 0)

/-- The value that a pattern of a fixed-width tag, or of `HB`, stands for (R37, R39, R41). -/
def patternValue (h : Hart) (t : Tag) (n : Nat) : Val :=
  match tagFamily t with
  | .float => (tagFmt t).decode (flushes h) n
  | .hb => .num (n % 2 == 1) 1 0
  | _ => .ofInt (intOf t n)

/-- The value of element `i` of an operand. -/
def valueOf (h : Hart) (o : Opnd) (i : Nat) : Val :=
  if tagFamily o.tag = .block then blockElem h o i else patternValue h o.tag (h.unit o i)

/-- The values that meet at element `i` of a computation on operands of tag `t`; a scalar meets a block type as an `F32`
(R136). -/
def LaneSpec.valuesAt (p : LaneSpec) (h : Hart) (t : Tag) (i : Nat) : Val × Val × Val :=
  let a := valueOf h (h.opnd p.va) i
  let c := valueOf h (h.opnd p.vd) i
  let number (x : BitVec 5) : Val :=
    if tagFamily t = .block then fmtF32.decode (flushes h) ((h.readX x).toNat % 2 ^ 32)
    else patternValue h t ((h.readX x).toNat % 2 ^ tagWidth t)
  match p.second with
  | .vec r | .amount r => (a, valueOf h (h.opnd r) i, c)
  | .row r _ => (a, valueOf h (h.opnd r) (i % 32), c)
  | .scalar x false => (a, number x, c)
  | .scalar x true => (number x, a, c)
  | _ => (a, .num false 0 0, c)

/-- What an inactive element of a block of the group `o` counts as in the search of R45: kept, or zero; `there` says
that the group was there before. -/
def keptValue (h : Hart) (o : Opnd) (there : Bool) (n i : Nat) : Val :=
  if there && !(if i < n then h.csr.mp else h.csr.tp) then blockElem h o i else .num false 0 0

/-- Block `b` of a result of `n` elements, quantised once, with its flags (R45, R127). -/
def blockResult (h : Hart) (o : Opnd) (there : Bool) (act : Nat → Bool) (n : Nat) (val : Nat → Val) (b : Nat) :
    Block × Flags :=
  quantiseBlock (tagSigned o.tag) (tagWidth o.tag) ((List.range 32).map fun j =>
    let i := 32 * b + j
    if i < n && act i then (val i, true) else (keptValue h o there n i, false))

/-- The blocks of a result (R45, R105, R127). A block with an active element is quantised with what it keeps; one
without, below `n`, keeps its unit under `MU` where the group was there, and is zero else; blocks from `n` up go by the
tail policy. A block that straddles `n` without an active element is not stated (DESIGN CHOICE, log entry 83). -/
def BlocksAre (h h' : Hart) (o : Opnd) (there : Bool) (act : Nat → Bool) (n : Nat) (val : Nat → Val) : Prop :=
  (∀ b < (n + 31) / 32,
    ((∃ j < 32, 32 * b + j < n ∧ act (32 * b + j) = true) →
      h'.unit o b = rawOfBlock o.tag (blockResult h o there act n val b).1) ∧
    ((∀ j < 32, act (32 * b + j) = false) → 32 * b + 32 ≤ n →
      h'.unit o b = if there && !h.csr.mp then h.unit o b else zeroUnit o.tag)) ∧
  ∀ b, (n + 31) / 32 ≤ b → b < 2 ^ o.grp * (tagCap o.tag / 32) →
    (h.csr.tp = false → there = true → Packed h o → h'.unit o b = h.unit o b) ∧
    ((h.csr.tp = true ∨ there = false) → h'.unit o b = zeroUnit o.tag)

/-- The flags of the blocks that have an active element. -/
def blockFlags (h : Hart) (o : Opnd) (there : Bool) (act : Nat → Bool) (n : Nat) (val : Nat → Val) : Flags :=
  allFlags (((List.range ((n + 31) / 32)).filter fun b => (List.range 32).any fun j => 32 * b + j < n && act (32 * b + j)).map
    fun b => (blockResult h o there act n val b).2)

/-- What `VL` and the tail policy leave of a straddling block is settled: no element beyond `VL` is kept, or the kept
ones are those below the group's valid length. -/
def TailSettled (h : Hart) (o : Opnd) : Prop := h.csr.tp = true ∨ h.csr.vl.toNat % 32 = 0 ∨ Packed h o

/-! ## Special functions (R138-R141) -/

/-- The special functions: number of the function, whether accurate. -/
def specialFn : Instr → Option (Nat × Bool)
  | .vexpFast _ _ _ => some (0, false)
  | .vexpAcc _ _ _ => some (0, true)
  | .vlogFast _ _ _ => some (1, false)
  | .vlogAcc _ _ _ => some (1, true)
  | .vrcpFast _ _ _ => some (2, false)
  | .vrcpAcc _ _ _ => some (2, true)
  | .vrsqrtFast _ _ _ => some (3, false)
  | .vrsqrtAcc _ _ _ => some (3, true)
  | .vtanhFast _ _ _ => some (4, false)
  | .vtanhAcc _ _ _ => some (4, true)
  | .vsigmFast _ _ _ => some (5, false)
  | .vsigmAcc _ _ _ => some (5, true)
  | .vgeluFast _ _ _ => some (6, false)
  | .vgeluAcc _ _ _ => some (6, true)
  | .vsiluFast _ _ _ => some (7, false)
  | .vsiluAcc _ _ _ => some (7, true)
  | _ => none

/-- The result at a special input (R140, R141), and its flags; none where the input is an ordinary one. -/
def specialResult (fn : Nat) (v : Val) : Option (Val × Flags) :=
  let nan : Val := .nan false
  match v with
  | .nan sig => some (nan, if sig then fNV else 0)
  | .inf false => [(Val.inf false, 0), (.inf false, 0), (.num false 0 0, 0), (.num false 0 0, 0), (.num false 1 0, 0),
      (.num false 1 0, 0), (.inf false, 0), (.inf false, 0)][fn]?
  | .inf true => [(Val.num false 0 0, 0), (nan, fNV), (.num true 0 0, 0), (nan, fNV), (.num true 1 0, 0),
      (.num false 0 0, 0), (.num true 0 0, 0), (.num true 0 0, 0)][fn]?
  | .num n 0 _ => [(Val.num false 1 0, 0), (.inf true, fDZ), (.inf n, fDZ), (.inf n, fDZ), (.num n 0 0, 0),
      (.num false 1 (-1), 0), (.num n 0 0, 0), (.num n 0 0, 0)][fn]?
  | .num true (_ + 1) _ => if fn = 1 ∨ fn = 3 then some (nan, fNV) else none
  | .num false (m + 1) e => if fn = 1 ∧ (Val.num false (m + 1) e).cmp? (.num false 1 0) = some .eq
      then some (.num false 0 0, 0) else none

/-! ## Compares (R131, R134, R136) -/

/-- The compares: the mask register that takes the result, the operands, and the relation on ordered values. -/
def compareOf : Instr → Option (BitVec 3 × LaneSpec × (Ordering → Bool))
  | .vcmpEq d a b m => some (d, ⟨ifq, false, a, .vec b, false, 0, m⟩, (· == .eq))
  | .vcmpLt d a b m => some (d, ⟨ifq, false, a, .vec b, false, 0, m⟩, (· == .lt))
  | .vcmpLe d a b m => some (d, ⟨ifq, false, a, .vec b, false, 0, m⟩, (· != .gt))
  | .vcmpEqx d a x m => some (d, ⟨ifq, false, a, .scalar x false, false, 0, m⟩, (· == .eq))
  | .vcmpLtx d a x m => some (d, ⟨ifq, false, a, .scalar x false, false, 0, m⟩, (· == .lt))
  | .vcmpLex d a x m => some (d, ⟨ifq, false, a, .scalar x false, false, 0, m⟩, (· != .gt))
  | .vcmpLtxRev d a x m => some (d, ⟨ifq, false, a, .scalar x true, false, 0, m⟩, (· == .lt))
  | .vcmpLexRev d a x m => some (d, ⟨ifq, false, a, .scalar x true, false, 0, m⟩, (· != .gt))
  | _ => none

/-- The compares that raise no flag for a NaN (R134). -/
def quietCompare : Instr → Bool
  | .vcmpEq _ _ _ _ => true
  | .vcmpEqx _ _ _ _ => true
  | _ => false

/-- The conditions of a compare: those of a computation without a destination. -/
def CompareReady (p : LaneSpec) (h : Hart) (t : Tag) : Prop :=
  let vl := h.csr.vl.toNat
  VecOperand h p.va vl ∧ (∀ r, p.second = .vec r → VecOperand h r vl) ∧ p.type h = some t ∧ tagFamily t ∈ p.fams ∧
    ∀ l ∈ (p.doms h).list, LengthFits h l

/-- What an instruction that writes the mask `md` leaves unchanged: everything but that mask, flags and counters. -/
def MaskFrame (md : BitVec 3) (h h' : Hart) : Prop :=
  { h' with m := h.m, csr := { h'.csr with fcsr := h.csr.fcsr, rcnt := h.csr.rcnt } } = h ∧
    (∀ k, k ≠ md.toNat → h'.m.getD k .reset = h.m.getD k .reset) ∧
    h'.csr.fcsr ||| h.csr.fcsr = h'.csr.fcsr ∧ h'.csr.fcsr >>> 5 = h.csr.fcsr >>> 5

/-- The bits of a mask result (R125): active bits below `VL` from `f`, inactive ones kept under `MU` and cleared under
`MZ`, the tail kept under `TU` and cleared under `TA`. -/
def MaskIs (h h' : Hart) (md : BitVec 3) (act : Nat → Prop) (f : Nat → Bool) : Prop :=
  let old (i : Nat) : Bool := (h.m.getD md.toNat .reset).bits.getLsbD i
  ∀ i < 16384, let new := (h'.m.getD md.toNat .reset).bits.getLsbD i
    (i < h.csr.vl.toNat → act i → new = f i) ∧
    (i < h.csr.vl.toNat → ¬act i → new = (!h.csr.mp && old i)) ∧
    (h.csr.vl.toNat ≤ i → new = (!h.csr.tp && old i))

/-! ## Conversions (R135, R146) -/

/-- The conversions: destination, operand, tag, mask, and the rule on the two tags. -/
def convertOf : Instr → Option (BitVec 6 × BitVec 6 × Tag × BitVec 2 × (Tag → Bool))
  | .vcvt d a t m => some (d, a, t, m, fun _ => true)
  | .vwiden d a t m => some (d, a, t, m, fun u => tagWidth t == 2 * tagWidth u)
  | .vnarrow d a t m => some (d, a, t, m, fun u => 2 * tagWidth t == tagWidth u)
  | .vquant d a t m => some (d, a, t, m, fun _ => tagBlock t)
  | .vdeq d a t m => some (d, a, t, m, fun u => tagBlock u && (tagFamily t == .int || tagFamily t == .float))
  | _ => none

/-- A value written in a fixed-width tag or in `HB` (R48), with its flags; `n` is the source's pattern when that is
`HB`. -/
def written (md : FpMode) (src t : Tag) (v : Val) (n : Nat) : Nat × Flags :=
  match tagFamily t with
  | .float => (tagFmt t).round md v
  | .hb =>
    match v with
    | .nan _ => (0, fNV)
    | .inf neg => (if neg then 1 else 0, 0)
    | .num neg m _ => (if neg ∧ m ≠ 0 then 1 else 0, 0)
  | _ =>
    if tagFamily src = .hb ∧ tagSigned t = false then (1 - n % 2, 0)
    else
      let w := tagWidth t
      let lo : Int := if tagSigned t then -2 ^ (w - 1) else 0
      let hi : Int := if tagSigned t then 2 ^ (w - 1) - 1 else 2 ^ w - 1
      ((toIntSat md.rm lo hi v).1.toNat + (if (toIntSat md.rm lo hi v).1 < 0 then
        2 ^ w - (-(toIntSat md.rm lo hi v).1).toNat else 0), (toIntSat md.rm lo hi v).2)

/-- The least and the greatest integer of an integer tag (R37). -/
def intRange (t : Tag) : Int × Int :=
  if tagSigned t then (-2 ^ (tagWidth t - 1), 2 ^ (tagWidth t - 1) - 1) else (0, 2 ^ tagWidth t - 1)

end Sys2Proof.Claims

/-- R124 to R136, R138, R50: an elementwise instruction whose conditions hold completes; it writes its result group with
the tag of the result, changes no other register and only sets flags. -/
def Obligations.Lanes : Prop :=
  ∀ (i : Instr) (len : Nat) (p : LaneSpec) (t : Tag) (g : Nat) (s : State),
    laneOf i = some (len, p) → LaneReady p s.cur t g → Healthy s.cur →
    ∃ h', VectorStep i len ⟨p.vd.toNat, t, LaneSpec.resultDom p s.cur, g⟩ s.cur.csr.vl.toNat s h'

/-- R37 to R39, R45, R46, R48: what a rounding answers. A finite value that does not overflow becomes the finite pattern
that its mode names, with `NX` exactly when the two differ and `UF` when it is also below the normal numbers; one that
overflows gives infinity or the greatest number and `OF`, `NX`; `FTZ` flushes a subnormal result. Sums and products are
exact before they round; quotients and roots round as the exact ones do. A value made an integer is rounded and
saturated. A block is quantised at the least scale that holds every value. -/
def Obligations.Rounding : Prop :=
  (∀ f ∈ [fmtF16, fmtBF16, fmtF32], ∀ md : FpMode,
    (∀ sig, f.round md (.nan sig) =
      ((2 ^ f.ebits - 1) * 2 ^ (f.prec - 1) + 2 ^ (f.prec - 2), if sig then fNV else 0)) ∧
    (∀ n, f.round md (.inf n) =
      ((if n then 2 ^ (f.ebits + f.prec - 1) else 0) + (2 ^ f.ebits - 1) * 2 ^ (f.prec - 1), 0)) ∧
    (∀ n e, f.round md (.num n 0 e) = (if n then 2 ^ (f.ebits + f.prec - 1) else 0, 0)) ∧
    ∀ (n : Bool) (m : Nat) (e : Int), m ≠ 0 →
      let x := amount (.num n m e)
      let r := f.round md (.num n m e)
      (Overflows f md.rm n |x| → r.2 = fOF ||| fNX ∧ r.1 = (if n then 2 ^ (f.ebits + f.prec - 1) else 0) +
        if md.rm = .rne ∨ md.rm = .rdn ∧ n = true ∨ md.rm = .rup ∧ n = false then greatest f + 1 else greatest f) ∧
      (¬Overflows f md.rm n |x| →
        let r0 := f.round ⟨md.rm, false⟩ (.num n m e)
        RoundedTo f md.rm n x r0.1 ∧ (r0.2 &&& fNX = fNX ↔ realOf f r0.1 ≠ x) ∧ r0.2 &&& (fOF ||| fDZ ||| fNV) = 0 ∧
        ((2 : ℝ) ^ f.emin ≤ |x| → r0.2 &&& fUF = 0) ∧
        (|realOf f r0.1| < (2 : ℝ) ^ f.emin → (r0.2 &&& fUF = fUF ↔ realOf f r0.1 ≠ x)) ∧
        r = if md.ftz = true ∧ 0 < r0.1 % 2 ^ (f.ebits + f.prec - 1) ∧
          r0.1 % 2 ^ (f.ebits + f.prec - 1) < 2 ^ (f.prec - 1)
          then (if n then 2 ^ (f.ebits + f.prec - 1) else 0, fUF ||| fNX) else r0)) ∧
  (∀ (rm : Round) (n n' : Bool) (m m' : Nat) (e e' : Int),
    let a : Val := .num n m e
    let b : Val := .num n' m' e'
    (∃ k p d, a.add rm b = (.num k p d, 0) ∧ amount (.num k p d) = amount a + amount b ∧
      (p = 0 → k = if m = 0 ∧ m' = 0 ∧ n = n' then n else decide (rm = .rdn))) ∧
    (∃ p d, a.mul b = (.num (n != n') p d, 0) ∧ amount (.num (n != n') p d) = amount a * amount b) ∧
    ∀ f ∈ [fmtF16, fmtBF16, fmtF32], ∀ md : FpMode, md.ftz = false → m ≠ 0 →
      (m' ≠ 0 → let q := f.round md (a.div b).1
        (a.div b).2 = 0 ∧ (¬Overflows f md.rm (n != n') |amount a / amount b| →
          RoundedTo f md.rm (n != n') (amount a / amount b) q.1 ∧
          (q.2 &&& fNX = fNX ↔ realOf f q.1 ≠ amount a / amount b))) ∧
      (n = false → let q := f.round md a.sqrt.1
        a.sqrt.2 = 0 ∧ (¬Overflows f md.rm false (Real.sqrt (amount a)) →
          RoundedTo f md.rm false (Real.sqrt (amount a)) q.1 ∧
          (q.2 &&& fNX = fNX ↔ realOf f q.1 ≠ Real.sqrt (amount a))))) ∧
  (∀ (rm : Round) (lo hi : Int), lo ≤ hi →
    (∀ sig, toIntSat rm lo hi (.nan sig) = (0, fNV)) ∧
    (∀ n, toIntSat rm lo hi (.inf n) = (if n then lo else hi, fNV)) ∧
    ∀ n m e, let x := amount (.num n m e)
      ∃ z : Int, RoundedInt rm x z ∧
        (z < lo → toIntSat rm lo hi (.num n m e) = (lo, fNV)) ∧ (hi < z → toIntSat rm lo hi (.num n m e) = (hi, fNV)) ∧
        (lo ≤ z → z ≤ hi → (toIntSat rm lo hi (.num n m e)).1 = z ∧
          ((z : ℝ) = x → (toIntSat rm lo hi (.num n m e)).2 = 0) ∧
          ((z : ℝ) ≠ x → (toIntSat rm lo hi (.num n m e)).2 = fNX))) ∧
  ∀ (signed : Bool) (w : Nat) (xs : List (Val × Bool)), 1 ≤ w → w ≤ 16 → xs.length = 32 →
    let lo : Int := if signed then -2 ^ (w - 1) else 0
    let hi : Int := if signed then 2 ^ (w - 1) - 1 else 2 ^ w - 1
    let b := (quantiseBlock signed w xs).1
    let fl := (quantiseBlock signed w xs).2
    let step (x : Val × Bool) (z : Int) : Prop := RoundedInt .rne (sourceOf signed x.1 * (2 : ℝ) ^ (-b.e)) z
    b.e ≤ 511 ∧ -512 ≤ b.e ∧ (b.e < 511 → FitsAt signed lo hi b.e xs) ∧
    (∀ e, -512 ≤ e → e < b.e → ¬FitsAt signed lo hi e xs) ∧ (b.inv = true ↔ ∃ x ∈ xs, NotFinite x.1) ∧
    b.ms.length = 32 ∧
    (∀ j x, xs[j]? = some x → ∃ z, step x z ∧ b.ms.getD j 0 = max lo (min hi z)) ∧
    (fl &&& fNV = fNV ↔ ∃ x ∈ xs, x.2 = true ∧ NotFinite x.1) ∧
    (fl &&& fOF = fOF ↔ ∃ x ∈ xs, x.2 = true ∧ ∃ z, step x z ∧ (z < lo ∨ hi < z)) ∧
    (fl &&& fNX = fNX ↔ ∃ x ∈ xs, x.2 = true ∧ ((signed = false ∧ amount x.1 < 0) ∨
      ∃ z, step x z ∧ ((max lo (min hi z) : Int) : ℝ) * (2 : ℝ) ^ b.e ≠ sourceOf signed x.1)) ∧
    fl &&& (fDZ ||| fUF) = 0

/-- R128, R129, R131, R136, R105: the integer results, element by element and modulo `2^w`, and what the policies leave
in the other elements; the bitwise results of `HB`, of width 1, alike (R41). No such operation sets a flag. -/
def Obligations.IntegerLanes : Prop :=
  ∀ (i : Instr) (len : Nat) (p : LaneSpec) (f : IntFn) (t : Tag) (g : Nat) (s : State),
    laneOf i = some (len, p) → intFn i = some f → (tagFamily t = .int ∨ tagFamily t = .hb) →
    LaneReady p s.cur t g → Plain p s.cur t → Healthy s.cur →
    let o : Opnd := ⟨p.vd.toNat, t, 0, g⟩
    ∃ h', VectorStep i len o s.cur.csr.vl.toNat s h' ∧ h'.csr.fcsr = s.cur.csr.fcsr ∧
      ElementsAre s.cur h' o (Active s.cur p.mask) s.cur.csr.vl.toNat fun k =>
        let (a, b, c) := LaneSpec.at p s.cur t k
        (f (intOf t) (tagWidth t) a b c % 2 ^ tagWidth t).toNat

/-- R128, R130, R131, R133, R136, R39, R40: the float results: each active element is the exact result, or the
refinement of R133, rounded once by `FCSR.RM`, and the flags of exactly the active elements are set; `vabs` and `vneg`
change the sign bit only and set no flag. R45, R47, R127: the block results: the exact results quantised once, with the
elements that the policies keep (a block that straddles `VL` without an active element: DESIGN CHOICE, log entry 83; a
minimum with a NaN: DEDUCED, log entry 79). -/
def Obligations.FloatLanes : Prop :=
  ∀ (i : Instr) (len : Nat) (p : LaneSpec) (t : Tag) (g : Nat) (s : State), laneOf i = some (len, p) →
    LaneReady p s.cur t g → Plain p s.cur t → Healthy s.cur →
    let o : Opnd := ⟨p.vd.toNat, t, 0, g⟩
    let vl := s.cur.csr.vl.toNat
    let exact (f : FloatFn) (k : Nat) : Val × Flags :=
      f (modeOf s.cur) (LaneSpec.valuesAt p s.cur t k).1 (LaneSpec.valuesAt p s.cur t k).2.1
        (LaneSpec.valuesAt p s.cur t k).2.2
    (∀ f, (floatFn i = some f ∨ refineFn i = some f) → tagFamily t = .float →
      let rounded (k : Nat) : Nat × Flags := (tagFmt t).round (fpModeOf s.cur) (exact f k).1
      ∃ h', VectorStep i len o vl s h' ∧ ElementsAre s.cur h' o (Active s.cur p.mask) vl (fun k => (rounded k).1) ∧
        h'.csr.fcsr = s.cur.csr.fcsr |||
          (allFlags ((actives s.cur p.mask).map fun k => (exact f k).2 ||| (rounded k).2)).setWidth 8) ∧
    (∀ f, signFn i = some f → tagFamily t = .float → ∃ h', VectorStep i len o vl s h' ∧ h'.csr.fcsr = s.cur.csr.fcsr ∧
      ElementsAre s.cur h' o (Active s.cur p.mask) vl fun k => f (tagWidth t) (LaneSpec.at p s.cur t k).1) ∧
    ∀ f there, blockFn i = some f → tagFamily t = .block → TailSettled s.cur o → (there = true ↔ Holds s.cur o) →
      let act := maskBit s.cur p.mask.toNat
      ∃ h', VectorStep i len o vl s h' ∧ BlocksAre s.cur h' o there act vl (fun k => (exact f k).1) ∧
        h'.csr.fcsr = s.cur.csr.fcsr ||| (allFlags ((actives s.cur p.mask).map fun k => (exact f k).2) |||
          blockFlags s.cur o there act vl fun k => (exact f k).1).setWidth 8

/-- R138, R140, R141: a special function gives the stated result at every special input, in both grades; the fast grade
reads subnormals as zeros. -/
def Obligations.SpecialInputs : Prop :=
  ∀ (i : Instr) (len fn : Nat) (acc : Bool) (p : LaneSpec) (t : Tag) (g k : Nat) (r : Val) (fl : Flags) (s : State),
    laneOf i = some (len, p) → specialFn i = some (fn, acc) → tagFamily t = .float →
    LaneReady p s.cur t g → Plain p s.cur t → Healthy s.cur →
    k < s.cur.csr.vl.toNat → Active s.cur p.mask k →
    let ftz := !acc || flushes s.cur
    let o : Opnd := ⟨p.vd.toNat, t, 0, g⟩
    specialResult fn ((tagFmt t).decode ftz (s.cur.unit (s.cur.opnd p.va) k)) = some (r, fl) →
    ∃ h', VectorStep i len o s.cur.csr.vl.toNat s h' ∧ h'.unit o k = ((tagFmt t).round ⟨modeOf s.cur, ftz⟩ r).1 ∧
      h'.csr.fcsr ||| fl.setWidth 8 = h'.csr.fcsr

/-- R131, R134, R136, R125: a compare writes its mask and nothing else; on spatial operands of one tag each active bit
is the relation of the two values, 0 where one is a NaN, which sets `NV` but in the compares for equality; no other flag
is set. `m0` as a destination traps `ILL`. -/
def Obligations.Compares : Prop :=
  ∀ (i : Instr) (md : BitVec 3) (p : LaneSpec) (rel : Ordering → Bool) (s : State),
    compareOf i = some (md, p, rel) →
    (md = 0 → Traps i 4 { cause := cILL, erec1 := i.bits.toNat } s) ∧
    ∀ t, md ≠ 0 → CompareReady p s.cur t → Healthy s.cur →
      ∃ u h', exec i s = .next u ∧ Retires 4 h' s u ∧ MaskFrame md s.cur h' ∧
        (tagFamily t = .int → Plain p s.cur t → h'.csr.fcsr = s.cur.csr.fcsr ∧
          MaskIs s.cur h' md (Active s.cur p.mask) fun k =>
            let (a, b, _) := LaneSpec.at p s.cur t k
            rel (compare (intOf t a) (intOf t b))) ∧
        (tagFamily t ≠ .int → Plain p s.cur t →
          let met (k : Nat) : Option Ordering :=
            (LaneSpec.valuesAt p s.cur t k).1.cmp? (LaneSpec.valuesAt p s.cur t k).2.1
          MaskIs s.cur h' md (Active s.cur p.mask) (fun k => (met k).any rel) ∧
          h'.csr.fcsr = s.cur.csr.fcsr ||| (if !quietCompare i && (actives s.cur p.mask).any fun k => (met k).isNone
            then fNV else 0).setWidth 8)

/-- R135, R146, R48: a conversion writes its group with the given tag and the domain of its operand; from integers to
integers each active element is saturated to the range of the tag, and no flag is set (a wider unsigned tag too:
DEDUCED, log entry 82). Other values are rounded, saturated or given their sign bit as the tag wants (R38, R39, R41,
R46), and blocks are quantised with what they keep (R45, R127). -/
def Obligations.Conversions : Prop :=
  ∀ (i : Instr) (vd va : BitVec 6) (t : Tag) (m : BitVec 2) (ok : Tag → Bool) (g : Nat) (s : State),
    convertOf i = some (vd, va, t, m, ok) → Healthy s.cur →
    let src := s.cur.opnd va
    let vl := s.cur.csr.vl.toNat
    VecOperand s.cur va vl → VecDest vd t vl g → t ≠ .none → ok src.tag = true → LengthFits s.cur src.dom →
    (t = .hb → src.dom = 0) →
    let o : Opnd := ⟨vd.toNat, t, src.dom, g⟩
    ∃ h', VectorStep i 4 o vl s h' ∧
      (tagFamily src.tag = .int → tagFamily t = .int → h'.csr.fcsr = s.cur.csr.fcsr ∧
        ElementsAre s.cur h' o (Active s.cur m) vl fun k =>
          (max (intRange t).1 (min (intRange t).2 (intOf src.tag (s.cur.unit src k))) % 2 ^ tagWidth t).toNat) ∧
      (tagFamily t ≠ .block → ¬(tagFamily src.tag = .int ∧ tagFamily t = .int) →
        let out (k : Nat) : Nat × Flags :=
          written (fpModeOf s.cur) src.tag t (valueOf s.cur src k) (s.cur.unit src k)
        ElementsAre s.cur h' o (Active s.cur m) vl (fun k => (out k).1) ∧
        h'.csr.fcsr = s.cur.csr.fcsr ||| (allFlags ((actives s.cur m).map fun k => (out k).2)).setWidth 8) ∧
      ∀ there, tagFamily t = .block → TailSettled s.cur o → (there = true ↔ Holds s.cur o) →
        BlocksAre s.cur h' o there (maskBit s.cur m.toNat) vl (valueOf s.cur src) ∧
        h'.csr.fcsr = s.cur.csr.fcsr |||
          (blockFlags s.cur o there (maskBit s.cur m.toNat) vl (valueOf s.cur src)).setWidth 8

/-- R136, R137, R146: `vbcast` gives every active element the scalar; `vid` numbers the elements; `vmv.xv` reads one
stored element, zero beyond the valid length; `vmv.vx` writes one, and an index beyond the group writes nothing. -/
def Obligations.ElementMoves : Prop :=
  ∀ (vd va : BitVec 6) (xd xa xb : BitVec 5) (m : BitVec 2) (g : Nat) (s : State), Healthy s.cur →
    let t := (s.cur.opnd vd).tag
    let vl := s.cur.csr.vl.toNat
    let o : Opnd := ⟨vd.toNat, t, 0, g⟩
    let b := (s.readX xb).toNat
    (t ≠ .none → VecDest vd t vl g → ∃ h', VectorStep (.vbcast vd xb m) 4 o vl s h' ∧
      (tagBlock t = false → ElementsAre s.cur h' o (Active s.cur m) vl fun _ => b % 2 ^ tagWidth t)) ∧
    ((tagFamily t = .int ∨ tagFamily t = .float) → VecDest vd t vl g → ∃ h', VectorStep (.vid vd) 4 o vl s h' ∧
      (tagFamily t = .int → h'.csr.fcsr = s.cur.csr.fcsr ∧ ElementsAre s.cur h' o (fun _ => True) vl fun k =>
        (max (intRange t).1 (min (intRange t).2 (k : Int)) % 2 ^ tagWidth t).toNat)) ∧
    (VecOperand s.cur va 1 → let q := s.cur.opnd va
      ∃ u, exec (.vmvXv xd va xb) s = .next u ∧ u.cur.pc = s.cur.pc + 4 ∧ Counts s u ∧ OnlyHart s u ∧
        { u.cur with
          x := s.cur.x, xPoison := s.cur.xPoison, pc := s.cur.pc, answers := s.cur.answers
          csr := { u.cur.csr with fcsr := s.cur.csr.fcsr } } = s.cur ∧
        (tagBlock q.tag = false → WritesX xd
          (if b < 2 ^ q.grp * tagCap q.tag ∧ b < s.cur.validLen q then
            (if tagSigned q.tag then word (signedOf (tagWidth q.tag) (s.cur.unit q b))
            else BitVec.ofNat 64 (s.cur.unit q b)) else 0) s u)) ∧
    (VecOperand s.cur vd 1 → tagBlock t = false → let q := s.cur.opnd vd
      let j := (s.readX xa).toNat
      ∃ h', (∃ u, exec (.vmvVx vd xa xb) s = .next u ∧ Retires 4 h' s u) ∧ { h' with v := s.cur.v } = s.cur ∧
        (2 ^ q.grp * tagCap t ≤ j → h' = s.cur) ∧
        (j < 2 ^ q.grp * tagCap t → h'.unit q j = b % 2 ^ tagWidth t ∧
          (∀ k, (k < vd.toNat ∨ vd.toNat + 2 ^ q.grp ≤ k) → h'.vreg k = s.cur.vreg k) ∧
          (Packed s.cur q → h'.validLen q = max (s.cur.validLen q) (j + 1) ∧
            ∀ k, k ≠ j → k < 2 ^ q.grp * tagCap t → h'.unit q k = s.cur.unit q k)))

namespace Sys2Proof.Claims

/-! ## Masks, reductions, moves (R142-R148) -/

/-- A fold of integer elements: how the accumulator and how the elements are read as integers, then their patterns. -/
abbrev FoldFn := (Nat → Int) → (Nat → Int) → Nat → List Nat → Int

/-- The reductions (R142, R143): destination, vector, accumulator, mask, the result type, and the fold on integers. -/
def reduceOf (h : Hart) : Instr → Option (BitVec 6 × BitVec 6 × BitVec 6 × BitVec 2 × Option Tag × FoldFn)
  | .vredsumOrd d a b m => some (d, a, b, m, typeIn [.int, .float, .block] a b, sum)
  | .vredsumTree d a b m => some (d, a, b, m, typeIn [.int, .float, .block] a b, sum)
  | .vredmax d a b m => some (d, a, b, m, typeIn [.int, .float, .block] a b,
      fun acc num c xs => (xs.map num).foldl max (acc c))
  | .vredmin d a b m => some (d, a, b, m, typeIn [.int, .float, .block] a b,
      fun acc num c xs => (xs.map num).foldl min (acc c))
  | .vredsumw d a b m => some (d, a, b, m, wide (h.opnd a).tag, sum)
  | .vredand d a b m => some (d, a, b, m, typeIn [.int, .hb] a b, fun _ _ c xs => (xs.foldl (· &&& ·) c : Nat))
  | .vredor d a b m => some (d, a, b, m, typeIn [.int, .hb] a b, fun _ _ c xs => (xs.foldl (· ||| ·) c : Nat))
  | .vredxor d a b m => some (d, a, b, m, typeIn [.int, .hb] a b, fun _ _ c xs => (xs.foldl (· ^^^ ·) c : Nat))
  | _ => none
where
  /-- The sum. -/
  sum : FoldFn := fun acc num c xs => acc c + (xs.map num).sum
  /-- The type in which two operands meet, when its family is accepted (R49). -/
  typeIn (fams : List Family) (a b : BitVec 6) : Option Tag :=
    match promote (h.opnd a).tag (h.opnd b).tag with
    | some t => if tagFamily t ∈ fams then some t else none
    | none => none
  /-- The result type of the widening sum (R143). -/
  wide (t : Tag) : Option Tag :=
    if t = .f16 ∨ t = .bf16 then some .f32
    else if tagFamily t = .int then some (if tagSigned t then .s64 else .u64) else none

/-- The step of a reduction of floats or of elements of a block type (R51, R142, R143), but that of the tree order. -/
def stepOf (block : Bool) : Instr → Option (Round → Val → Val → Val × Flags)
  | .vredsumOrd _ _ _ _ => some fun rm a b => a.add rm b
  | .vredsumw _ _ _ _ => some fun rm a b => a.add rm b
  | .vredsumTree _ _ _ _ => if block then some fun rm a b => a.add rm b else none
  | .vredmax _ _ _ _ => some fun _ a b => if block then blockMinmax true a b else Val.minmax true a b
  | .vredmin _ _ _ _ => some fun _ a b => if block then blockMinmax false a b else Val.minmax false a b
  | _ => none

/-- A fold of float patterns that rounds after every step, with its flags (R51). -/
def floatFold (f : FloatFmt) (md : FpMode) (op : Round → Val → Val → Val × Flags) (acc : Nat) (xs : List Val) : Nat × Flags :=
  xs.foldl (fun (a, fl) x =>
    let r := op md.rm (f.decode md.ftz a) x
    ((f.round md r.1).1, fl ||| r.2 ||| (f.round md r.1).2)) (acc, 0)

/-- A fold of exact values, with its flags (R52). -/
def exactFold (rm : Round) (op : Round → Val → Val → Val × Flags) (acc : Val) (xs : List Val) : Val × Flags :=
  xs.foldl (fun (a, fl) x => ((op rm a x).1, fl ||| (op rm a x).2)) (acc, 0)

/-- The sum of two float patterns rounded once. -/
def floatSum (f : FloatFmt) (md : FpMode) (a b : Nat) : Nat × Flags :=
  let r := (f.decode md.ftz a).add md.rm (f.decode md.ftz b)
  ((f.round md r.1).1, r.2 ||| (f.round md r.1).2)

/-- The halvings of `2^k` patterns down to one (R51 `.tree`). -/
def halve (f : FloatFmt) (md : FpMode) : Nat → List Nat → Nat × Flags
  | 0, t => (t.headD 0, 0)
  | k + 1, t =>
    let sums := (List.range (2 ^ k)).map fun i => floatSum f md (t.getD i 0) (t.getD (i + 2 ^ k) 0)
    let r := halve f md k (sums.map Prod.fst)
    (r.1, allFlags (sums.map Prod.snd) ||| r.2)

/-- The mask logic (R144): destination, masks read, and the result bit by bit for a given `VL`. -/
def maskRow (h : Hart) : Instr → Option (BitVec 3 × (Nat → Bool))
  | .mand d a b => some (d, fun i => maskBit h a.toNat i && maskBit h b.toNat i)
  | .mor d a b => some (d, fun i => maskBit h a.toNat i || maskBit h b.toNat i)
  | .mxor d a b => some (d, fun i => maskBit h a.toNat i != maskBit h b.toNat i)
  | .mnot d a => some (d, fun i => !maskBit h a.toNat i)
  | .mandn d a b => some (d, fun i => maskBit h a.toNat i && !maskBit h b.toNat i)
  | .mset d => some (d, fun i => decide (i < h.csr.vl.toNat))
  | _ => none

/-- A permute (R146): operands, whether it keeps the domain, the accepted tags, the number of result elements, which of
them are active, and where each comes from. -/
structure PermuteRow where
  vd : BitVec 6
  va : BitVec 6
  vb : Option (BitVec 6) := none
  index : Option (BitVec 6) := none
  xs : List (BitVec 5) := []
  keep : Bool := false
  ok : Tag → Bool
  /-- the multiple of elements that a shift of a block type, and `VL`, have to meet -/
  shift : Nat := 0
  n : Nat
  act : Nat → Bool
  src : Nat → MoveSrc

/-- The number of active elements below `i`. -/
def rankOf (h : Hart) (sel : BitVec 2) (i : Nat) : Nat := ((List.range i).filter (maskBit h sel.toNat)).length

/-- The permutes of one element at a time (R146). -/
def permuteOf (h : Hart) : Instr → Option PermuteRow
  | .vslideup d a x m => let k := (h.readX x).toNat
    some { vd := d, va := a, xs := [x], ok := any, shift := k, n := vl, act := maskBit h m.toNat
           src := fun i => if k ≤ i then .a (i - k) else .stay }
  | .vslidedn d a x m => let k := (h.readX x).toNat
    some { vd := d, va := a, xs := [x], ok := any, shift := k, n := vl, act := maskBit h m.toNat
           src := fun i => if i + k < vl then .a (i + k) else .zero }
  | .vrot d a x m => let k := (h.readX x).toNat
    some { vd := d, va := a, xs := [x], ok := any, shift := k, n := vl, act := maskBit h m.toNat
           src := fun i => .a ((i + k) % vl) }
  | .vperm d a b m =>
    some { vd := d, va := a, index := some b, ok := single, n := vl, act := maskBit h m.toNat
           src := fun i => let j := intOf (h.opnd b).tag (h.unit (h.opnd b) i)
             if 0 ≤ j ∧ j < vl then .a j.toNat else .zero }
  | .vcompress d a m =>
    some { vd := d, va := a, ok := single, n := (actives h m).length, act := fun _ => true
           src := fun i => .a ((actives h m).getD i 0) }
  | .vexpand d a m =>
    some { vd := d, va := a, ok := single, n := vl, act := maskBit h m.toNat, src := fun i => .a (rankOf h m i) }
  | .vzip d a b m =>
    some { vd := d, va := a, vb := some b, ok := single, n := vl, act := maskBit h m.toNat
           src := fun i => if i % 2 = 0 then .a (i / 2) else .b (i / 2) }
  | .vunzip d a b m => let c := (vl + 1) / 2
    some { vd := d, va := a, vb := some b, ok := single, n := vl, act := maskBit h m.toNat
           src := fun i => if i < c then .a (2 * i) else .b (2 * (i - c) + 1) }
  | .vtrans d a m =>
    some { vd := d, va := a, ok := fun t => single t && decide (t ≠ .hb) && vl % 1024 == 0, n := vl
           act := maskBit h m.toNat
           src := fun i => .a (i / 1024 * 1024 + i % 32 * 32 + i / 32 % 32) }
  | .vmerge d a b m =>
    some { vd := d, va := a, vb := some b, keep := true, ok := any, n := vl, act := fun _ => true
           src := fun i => if maskBit h m.toNat i then .b i else .a i }
  | .vmv d a m => some { vd := d, va := a, keep := true, ok := any, n := vl, act := maskBit h m.toNat, src := .a }
  | _ => none
where
  /-- `VL` -/
  vl : Nat := h.csr.vl.toNat
  /-- any tag -/
  any (_ : Tag) : Bool := true
  /-- a tag that is not of a block type -/
  single (t : Tag) : Bool := tagFamily t != .block

/-- The domains of the vector operands of a permute. -/
def PermuteRow.doms (p : PermuteRow) (h : Hart) : List Nat :=
  (p.va :: (p.vb.toList ++ p.index.toList)).map fun r => (h.opnd r).dom

/-- Every condition of a permute holds (R19, R50, R124, R146, R147, R152); the group of its result. -/
def PermuteReady (p : PermuteRow) (h : Hart) (g : Nat) : Prop :=
  let vl := h.csr.vl.toNat
  let t := (h.opnd p.va).tag
  VecOperand h p.va vl ∧ (∀ r, (p.vb = some r ∨ p.index = some r) → VecOperand h r vl) ∧
    p.ok t = true ∧ (∀ r, p.vb = some r → (h.opnd r).tag = t) ∧
    (∀ r, p.index = some r → tagFamily (h.opnd r).tag = .int) ∧ VecDest p.vd t vl g ∧
    (tagFamily t = .block → vl % 32 = 0 ∧ p.shift % 32 = 0) ∧
    (∀ l ∈ p.doms h, LengthFits h l ∧ (p.keep = true → l = (h.opnd p.va).dom))

/-- The product of the first `j` extents of a shape. -/
def extentsBelow (es : List Extent) (j : Nat) : Nat := ((es.take j).map fun e => e.e.toNat).foldl (· * ·) 1

/-- Coordinate `j` of the index `q` in a shape (R148): the last one is not reduced. -/
def coordinate (es : List Extent) (q j : Nat) : Nat :=
  let k := q / extentsBelow es j
  if j + 1 < es.length then k % ((es[j]?).map fun e => e.e.toNat).getD 1 else k

/-! ## Haar instructions (R152, R158-R163) -/

/-- A Haar instruction with a vector result: registers, mask, the domain of its operand when it is accepted, levels, the
domain of its result. -/
def haarOf (h : Hart) : Instr → Option (BitVec 6 × BitVec 6 × BitVec 2 × Prop × Nat × Nat)
  | .vhaar d a l m => some (d, a, m, (h.opnd a).dom = 0, l.toNat, l.toNat)
  | .vihaar d a m => some (d, a, m, (h.opnd a).dom ≠ 0, (h.opnd a).dom, 0)
  | .vthr d a m => some (d, a, m, (h.opnd a).dom ≠ 0, (h.opnd a).dom, (h.opnd a).dom)
  | _ => none

/-- Column `ch` of Haar block `b` of an operand of `n` rows to a block, as it is stored. -/
def columnOf (h : Hart) (o : Opnd) (n b ch : Nat) : List Elem :=
  (List.range n).map fun k => .raw (h.unit o (32 * (n * b + k) + ch))

/-- Column `ch` of Haar block `b` of an operand of a block type, as exact values. -/
def columnExact (h : Hart) (o : Opnd) (n b ch : Nat) : List Elem :=
  (List.range n).map fun k => .exact (blockElem h o (32 * (n * b + k) + ch))

/-- The magnitude of `THRlev` (R157). -/
def thresholdOf (h : Hart) (lev : Nat) : Val := magnitude (fmtF32.decode false (h.csr.thr.getD (lev - 1) 0).toNat)

/-- `Mag` of R157 of an integer or float pattern. -/
def patternMag (t : Tag) (n : Nat) : Val :=
  if tagFamily t = .int then .num false (signedOf (tagWidth t) n).natAbs 0 else magnitude ((tagFmt t).decode false n)

/-- Whether `Threshold` clears the coefficient of row `k` of a Haar block of `l` levels (R157): a detail whose magnitude
lies below the threshold of its level. -/
def clears (h : Hart) (l k : Nat) (mag : Val) : Bool := k != 0 && mag.cmp? (thresholdOf h (l - k.log2)) == some .lt

/-- The row and the Haar block of element `i` (R152). -/
def rowOf (l i : Nat) : Nat := i / 32 % 2 ^ l
/-- The Haar block of element `i` (R152). -/
def haarBlockOf (l i : Nat) : Nat := i / (32 * 2 ^ l)

/-- The elements of active columns of an operand that is not of a block type (R152). -/
def columnActs (h : Hart) (m : BitVec 2) (l i : Nat) : Bool := maskBit h m.toNat (32 * 2 ^ l * haarBlockOf l i + i % 32)

/-- The blocks, one to a row, of the Haar blocks of `2^l` rows whose first element is active (R152): the rows `rows b k`,
quantised (R45, R54). -/
def HaarRows (h h' : Hart) (o : Opnd) (m : BitVec 2) (l : Nat) (rows : Nat → Nat → List Val) : Prop :=
  ∀ b k, b < h.csr.vl.toNat / (32 * 2 ^ l) → k < 2 ^ l → maskBit h m.toNat (32 * 2 ^ l * b) = true →
    h'.unit o (2 ^ l * b + k) = rawOfBlock o.tag
      (quantiseBlock (tagSigned o.tag) (tagWidth o.tag) ((rows b k).map fun v => (v, true))).1

/-- What the instruction does to a column (R53, R54, R157); the coefficients of `vthr` are stated apart. -/
def columnWork (h : Hart) (t : Tag) (l : Nat) : Instr → Option (List Elem → List Elem)
  | .vhaar _ _ _ _ => some fun c => (haarForward t ⟨modeOf h, flushes h⟩ l c).1
  | .vihaar _ _ _ => some fun c => (haarInverse t ⟨modeOf h, flushes h⟩ l c).1
  | _ => none

/-- Whether an integer or float pattern reads as zero (R162). -/
def readsZero (t : Tag) (n : Nat) : Bool :=
  if tagFamily t = .float then n % 2 ^ (tagWidth t - 1) == 0 else n == 0

end Sys2Proof.Claims

/-- R142, R143, R50: a reduction writes one spatial element and nothing else; on spatial integers of the result's tag,
and on `HB`, it is the fold of the accumulator and the active elements, modulo `2^w`, and it sets no flag. R51, R130: on
floats the fold rounds after every step, in element order or in the order of the tree. R47, R52: on a block type the
exact fold is quantised once (which accumulators of other types are taken, and how, is DEDUCED, log entry 42). -/
def Obligations.Reductions : Prop :=
  ∀ (i : Instr) (vd va vb : BitVec 6) (m : BitVec 2) (t : Tag) (f : FoldFn) (s : State),
    reduceOf s.cur i = some (vd, va, vb, m, some t, f) → Healthy s.cur →
    VecOperand s.cur va s.cur.csr.vl.toNat → VecOperand s.cur vb 1 → LengthFits s.cur (s.cur.opnd va).dom →
    let o : Opnd := ⟨vd.toNat, t, 0, 0⟩
    let a := s.cur.opnd va
    let c := s.cur.opnd vb
    ∃ h', VectorStep i 4 o 1 s h' ∧
      ((tagFamily t = .int ∨ tagFamily t = .hb) → c.tag = t → (a.tag = t ∨ ∃ d a b m, i = .vredsumw d a b m) →
        a.dom = 0 → c.dom = 0 →
        h'.csr.fcsr = s.cur.csr.fcsr ∧ ElementsAre s.cur h' o (fun _ => True) 1 fun _ =>
          (f (intOf t) (intOf a.tag) (s.cur.unit c 0) ((actives s.cur m).map (s.cur.unit a)) % 2 ^ tagWidth t).toNat) ∧
      (tagFamily t = .float → c.tag = t → a.dom = 0 → c.dom = 0 →
        let md := fpModeOf s.cur
        let xs := actives s.cur m
        (∀ op, stepOf false i = some op → (a.tag = t ∨ (a.tag = .f16 ∨ a.tag = .bf16) ∧ ∃ d a b m, i = .vredsumw d a b m) →
          let r := floatFold (tagFmt t) md op (s.cur.unit c 0) (xs.map (valueOf s.cur a))
          ElementsAre s.cur h' o (fun _ => True) 1 (fun _ => r.1) ∧ h'.csr.fcsr = s.cur.csr.fcsr ||| r.2.setWidth 8) ∧
        (i = .vredsumTree vd va vb m → a.tag = t → ∀ k, s.cur.csr.vl.toNat ≤ 2 ^ k → (k = 0 ∨ 2 ^ (k - 1) < s.cur.csr.vl.toNat) →
          let tree := halve (tagFmt t) md k ((List.range (2 ^ k)).map fun j => if j ∈ xs then s.cur.unit a j else 0)
          let r := floatSum (tagFmt t) md tree.1 (s.cur.unit c 0)
          (xs = [] → ElementsAre s.cur h' o (fun _ => True) 1 (fun _ => s.cur.unit c 0) ∧ h'.csr.fcsr = s.cur.csr.fcsr) ∧
          (xs ≠ [] → ElementsAre s.cur h' o (fun _ => True) 1 (fun _ => r.1) ∧
            h'.csr.fcsr = s.cur.csr.fcsr ||| (tree.2 ||| r.2).setWidth 8))) ∧
      ∀ op there, tagFamily t = .block → stepOf true i = some op → a.tag = t → c.tag = t → a.dom = 0 → c.dom = 0 →
        (s.cur.csr.tp = true ∨ Packed s.cur o) → (there = true ↔ Holds s.cur o) →
        let r := exactFold (modeOf s.cur) op (blockElem s.cur c 0) ((actives s.cur m).map (blockElem s.cur a))
        BlocksAre s.cur h' o there (fun _ => true) 1 (fun _ => r.1) ∧
        h'.csr.fcsr = s.cur.csr.fcsr ||| (r.2 ||| blockFlags s.cur o there (fun _ => true) 1 fun _ => r.1).setWidth 8

/-- R144: `vpopc` counts and `vfirst` finds the elements below `VL` that are set in both masks; mask logic writes every
bit of its mask, and `m0` as a destination traps `ILL`. -/
def Obligations.MaskInstructions : Prop :=
  ∀ (s : State), Healthy s.cur →
    (∀ (xd : BitVec 5) (ma : BitVec 3) (m : BitVec 2),
      let l := (actives s.cur m).filter (maskBit s.cur ma.toNat)
      Computes (.vpopc xd ma m) 4 xd (BitVec.ofNat 64 l.length) s ∧
      Computes (.vfirst xd ma m) 4 xd (match l with
        | [] => BitVec.allOnes 64
        | i :: _ => BitVec.ofNat 64 i) s) ∧
    ∀ (i : Instr) (md : BitVec 3) (f : Nat → Bool), maskRow s.cur i = some (md, f) →
      (md = 0 → Traps i 4 { cause := cILL, erec1 := i.bits.toNat } s) ∧
      (md ≠ 0 → ∃ u h', exec i s = .next u ∧ Retires 4 h' s u ∧ { h' with m := s.cur.m } = s.cur ∧
        (∀ k, k ≠ md.toNat → h'.m.getD k .reset = s.cur.m.getD k .reset) ∧
        ∀ k < 16384, (h'.m.getD md.toNat .reset).bits.getLsbD k = f k)

/-- R146, R147: a permute writes its group, with the tag of `va`, and nothing else; on spatial operands of one element
at a time each active element of the result holds its source. -/
def Obligations.Permutes : Prop :=
  ∀ (i : Instr) (p : PermuteRow) (g : Nat) (s : State), permuteOf s.cur i = some p → PermuteReady p s.cur g →
    Healthy s.cur →
    let a := s.cur.opnd p.va
    let o : Opnd := ⟨p.vd.toNat, a.tag, if p.keep then a.dom else 0, g⟩
    ∃ h', VectorStep i 4 o p.n s h' ∧
      (tagFamily a.tag ≠ .block → (∀ l ∈ p.doms s.cur, l = 0) → h'.csr = s.cur.csr ∧
        (∀ k < p.n, p.act k = true → (p.src k = .stay →
          (Holds s.cur o → h'.unit o k = s.cur.unit o k) ∧ (¬Holds s.cur o → h'.unit o k = 0))) ∧
        ElementsAre s.cur h' o (fun k => p.act k = true) p.n fun k => match p.src k with
          | .a j => s.cur.unit a j
          | .b j => s.cur.unit (s.cur.opnd (p.vb.getD 0)) j
          | .zero => 0
          | .stay => h'.unit o k)

/-- R103, R104, R106, R107: the vector configuration instructions, and the traps of `vcfg` and `vlreq`. -/
def Obligations.VectorConfig : Prop :=
  (∀ (vd : BitVec 6) (tag : Tag) (dom : BitVec 3) (grp : BitVec 2) (s : State),
    let i := Instr.vcfg vd tag dom grp
    let n := 2 ^ grp.toNat
    (vd.toNat % n ≠ 0 → Traps i 4 { cause := cILL, erec1 := i.bits.toNat } s) ∧
    (vd.toNat % n = 0 → dom ≠ 0 → (tag = .none ∨ tag = .hb) → Traps i 4 { cause := cTAG, erec1 := i.bits.toNat } s) ∧
    (vd.toNat % n = 0 → (dom = 0 ∨ (tag ≠ .none ∧ tag ≠ .hb)) →
      ∃ u h', exec i s = .next u ∧ Retires 4 h' s u ∧ { h' with v := s.cur.v } = s.cur ∧
        (∀ k, vd.toNat ≤ k → k < vd.toNat + n → (h'.vreg k).desc = ⟨tag, dom, grp, 0, true⟩) ∧
        (∀ k, (k < vd.toNat ∨ vd.toNat + n ≤ k) → h'.vreg k = s.cur.vreg k))) ∧
  (∀ (rd ra : BitVec 5) (tag : Tag) (grp : BitVec 2) (tp mp : BitVec 1) (s : State),
    let i := Instr.vlreq rd ra tag grp tp mp
    let n := min (s.readX ra).toNat (min 16384 (2 ^ grp.toNat * tagCap tag))
    (tag = .none → Traps i 4 { cause := cTAG, erec1 := i.bits.toNat } s) ∧
    (tag ≠ .none → Clean s.cur [ra] → ∃ u, exec i s = .next u ∧ WritesX rd (BitVec.ofNat 64 n) s u ∧
      u.cur.csr.vl.toNat = n ∧ u.cur.csr.tp = (tp == 1) ∧ u.cur.csr.mp = (mp == 1) ∧ u.cur.pc = s.cur.pc + 4 ∧
      Counts s u ∧ OnlyHart s u ∧
      { u.cur with
        x := s.cur.x, xPoison := s.cur.xPoison, pc := s.cur.pc, answers := s.cur.answers
        csr := { u.cur.csr with vl := s.cur.csr.vl, tp := s.cur.csr.tp, mp := s.cur.csr.mp } } = s.cur)) ∧
  (∀ (rd : BitVec 5) (va : BitVec 6) (s : State),
    let d := (s.cur.vreg va.toNat).desc
    Computes (.vtagr rd va) 4 rd (BitVec.ofNat 64
      (d.tag.code * 2 ^ 21 + d.dom.toNat * 2 ^ 18 + d.grp.toNat * 2 ^ 16 + d.valen.toNat * 2 + d.dirty.toNat)) s) ∧
  ∀ (dk : BitVec 3) (ra rb : BitVec 5) (s : State), Clean s.cur [ra, rb] →
    ∃ u h', exec (.vdim dk ra rb) s = .next u ∧ Retires 4 h' s u ∧ { h' with d := s.cur.d } = s.cur ∧
      ∀ k < 8, h'.d.getD k .reset = if k = dk.toNat then ⟨(s.readX rb).setWidth 32, (s.readX ra).setWidth 32⟩
        else s.cur.d.getD k .reset

/-- R152, R159, R160, R161: `vhaar`, `vihaar` and `vthr` write their group with the domain that the rules give; every
active column is the transform, or its inverse, of the stored column, on a block type with each row quantised once (R45,
R54). R157: `vthr` clears the details whose magnitude lies below the threshold of their level, counts in `ZCNT` those
that were not zero, keeps the other coefficients and sets no flag. R162, R163: `vsig` marks the active elements that do
not read as zero, as they are stored; `vdom` reports the rows of zeros and the domain. -/
def Obligations.HaarInstructions : Prop :=
  (∀ (i : Instr) (vd va : BitVec 6) (m : BitVec 2) (ok : Prop) (l dom g : Nat) (s : State),
     haarOf s.cur i = some (vd, va, m, ok, l, dom) → Healthy s.cur → ok →
     let a := s.cur.opnd va
     let vl := s.cur.csr.vl.toNat
     VecOperand s.cur va vl → tagFamily a.tag ∈ ifq → VecDest vd a.tag vl g → vl % (32 * 2 ^ l) = 0 →
     let o : Opnd := ⟨vd.toNat, a.tag, dom, g⟩
     ∃ h', VectorStep i 4 o vl s h' ∧
       (∀ work, columnWork s.cur a.tag l i = some work →
         (tagFamily a.tag = .int → h'.csr.fcsr = s.cur.csr.fcsr) ∧
         (tagFamily a.tag ≠ .block → ∀ b ch, b < vl / (32 * 2 ^ l) → ch < 32 →
           maskBit s.cur m.toNat (32 * 2 ^ l * b + ch) = true →
           columnOf h' o (2 ^ l) b ch = work (columnOf s.cur a (2 ^ l) b ch)) ∧
         (tagFamily a.tag = .block → HaarRows s.cur h' o m l fun b k => (List.range 32).map fun ch =>
           ((work (columnExact s.cur a (2 ^ l) b ch)).getD k (.raw 0)).val a.tag (flushes s.cur))) ∧
       (i = .vthr vd va m → h'.csr.fcsr = s.cur.csr.fcsr ∧
         (tagFamily a.tag ≠ .block →
           let gone (j : Nat) : Bool := clears s.cur l (rowOf l j) (patternMag a.tag (s.cur.unit a j))
           ElementsAre s.cur h' o (fun j => columnActs s.cur m l j = true) vl
             (fun j => if gone j then 0 else s.cur.unit a j) ∧
           h'.csr.zcnt = s.cur.csr.zcnt + BitVec.ofNat 64 (((List.range vl).filter fun j =>
             columnActs s.cur m l j && gone j && !readsZero a.tag (s.cur.unit a j)).length)) ∧
         (tagFamily a.tag = .block → HaarRows s.cur h' o m l fun b k => (List.range 32).map fun ch =>
           let v := blockElem s.cur a (32 * (2 ^ l * b + k) + ch)
           if clears s.cur l k (magnitude v) then .num false 0 0 else v))) ∧
  ∀ (va : BitVec 6) (s : State), Healthy s.cur →
    let a := s.cur.opnd va
    let vl := s.cur.csr.vl.toNat
    VecOperand s.cur va vl → tagFamily a.tag ∈ ifq →
    (∀ (md : BitVec 3) (m : BitVec 2), md ≠ 0 →
      ∃ u h', exec (.vsig md va m) s = .next u ∧ Retires 4 h' s u ∧ MaskFrame md s.cur h' ∧ h'.csr = s.cur.csr ∧
        (tagFamily a.tag ≠ .block → MaskIs s.cur h' md (Active s.cur m) fun k => !readsZero a.tag (s.cur.unit a k))) ∧
    (∀ xd : BitVec 5, vl % 32 = 0 → ∃ u n, exec (.vdom xd va) s = .next u ∧
      ScalarStep 4 xd (BitVec.ofNat 64 (n * 2 ^ 32 + a.dom)) s u ∧
      (tagFamily a.tag ≠ .block → n = ((List.range (vl / 32)).filter fun r =>
        (List.range 32).all fun c => readsZero a.tag (s.cur.unit a (32 * r + c))).length))

/-- R53, R54: for every integer type the inverse transform gives back every column exactly, of every depth. -/
def Obligations.HaarLossless : Prop :=
  ∀ (t : Tag) (md : FpMode) (l : Nat) (c : List Nat), tagFamily t = .int → c.length = 2 ^ l →
    (∀ x ∈ c, x < 2 ^ tagWidth t) →
    (haarInverse t md l (haarForward t md l (c.map .raw)).1).1 = c.map .raw

namespace Sys2Proof.Claims

/-! ## Vector accesses to memory (R109-R123) -/

/-- The units of an access of kind `k` to the buffer of `a`, in the space `sp`, pass their checks and have translations;
each lies in package memory, in the pieces given. -/
def UnitsFound (s : State) (k : Kind) (gather : Bool) (a : Word) (sp : Space) (us : List UnitAcc) (pss : List (List Piece1)) :
    Prop :=
  (∃ s1 s2, s.space (addrIdx a) = (sp, s1) ∧
    s1.reachUnits ⟨addrIdx a, k, false, false, gather⟩ sp noMore [] [] us = .ok pss s2) ∧
  ∀ ps ∈ pss, ∀ p ∈ ps, ∃ pa, p.loc = .pkg pa

/-- The same, for a buffer that is no `ACT` buffer; an indexed access takes an `ACT` buffer like any other (R122). -/
def UnitsReach (s : State) (k : Kind) (gather : Bool) (a : Word) (us : List UnitAcc) (pss : List (List Piece1)) : Prop :=
  ∃ sp, (sp.act? = none ∨ gather = true) ∧ UnitsFound s k gather a sp us pss

/-- The copy of the domain tag in the line of a physical address (R150, R279). -/
def tagCopy (s : State) (pa : Nat) : Nat :=
  (s.frame (paTable pa) (paFrame pa)).tags.toNat / 2 ^ (4 * (pa % 2 ^ 16 / 256)) % 8

/-- Every piece has the tag copy `l`. -/
def TagsAre (s : State) (pss : List (List Piece1)) (l : Nat) : Prop :=
  ∀ ps ∈ pss, ∀ p ∈ ps, ∀ pa, p.loc = .pkg pa → tagCopy s pa = l

/-- The tag copies of all lines but those of the pieces are as before. -/
def OtherTagsSame (s t : State) (pss : List (List Piece1)) : Prop :=
  ∀ a, (∀ ps ∈ pss, ∀ p ∈ ps, ∀ pa, p.loc = .pkg pa → pa / 256 ≠ a / 256) → tagCopy t a = tagCopy s a

/-- No granule that the pieces touch is poisoned (R283). -/
def PiecesSound (s : State) (pss : List (List Piece1)) : Prop :=
  ∀ ps ∈ pss, ∀ p ∈ ps, ∀ pa, p.loc = .pkg pa → Unpoisoned s pa p.n

/-- The bytes of pieces of package memory, as the running context's core reads them. -/
def bytesAt (s : State) (ps : List Piece1) : List Byte :=
  ps.flatMap fun p => match p.loc with
    | .pkg pa => (List.range p.n).map fun i => s.coreByte (own s) (pa + i)
    | _ => []

/-- The little-endian number of some bytes (R10). -/
def numberOf : List Byte → Nat
  | [] => 0
  | b :: bs => b.toNat + 256 * numberOf bs

/-- What the unit `k` of an access holds in memory. -/
def unitNumber (s : State) (us : List UnitAcc) (pss : List (List Piece1)) (k : Nat) : Nat :=
  (((us.zip pss).find? fun x => x.1.k == k).map fun x => numberOf (bytesAt s x.2)).getD 0

/-- A packed block of a tag (R42, R44, R113): the scale halfword, then the mantissas, each in its `w` bits. -/
def packedBlock (t : Tag) (n : Nat) : Block where
  e := signedOf 10 n
  inv := n.testBit 10
  ms := (List.range 32).map fun j =>
    let m := n / 2 ^ (16 + j * tagWidth t) % 2 ^ tagWidth t
    if tagSigned t then signedOf (tagWidth t) m else m

/-- The packed form of a block (R44, R114), as a little-endian number. -/
def packedNumber (t : Tag) (b : Block) : Nat :=
  (b.e % 2 ^ 10).toNat + (if b.inv then 2 ^ 10 else 0) +
    ((List.range 32).map fun j => (b.ms.getD j 0 % 2 ^ tagWidth t).toNat * 2 ^ (16 + j * tagWidth t)).sum

/-- What the units read leave in the group `o` of a load into tag `o.tag` (R105, R113): elements, `HB` bits or blocks. -/
def UnitsLoaded (s : State) (h' : Hart) (o : Opnd) (us : List UnitAcc) (pss : List (List Piece1)) : Prop :=
  let h := s.cur
  let vl := h.csr.vl.toNat
  (tagFamily o.tag = .int ∨ tagFamily o.tag = .float →
    ElementsAre h h' o (fun k => ∃ u ∈ us, u.k = k) vl (unitNumber s us pss)) ∧
  (tagFamily o.tag = .hb → ElementsAre h h' o (fun k => ∃ u ∈ us, u.k = k / 32) vl fun k =>
    unitNumber s us pss (k / 32) / 2 ^ (k % 32) % 2) ∧
  (tagFamily o.tag = .block → ∀ b < vl / 32,
    ((∃ u ∈ us, u.k = b) → blockOf o.tag (h'.unit o b) = packedBlock o.tag (unitNumber s us pss b)) ∧
    ((∀ u ∈ us, u.k ≠ b) →
      (h.csr.mp = false → Holds h o → h'.unit o b = h.unit o b) ∧
      ((h.csr.mp = true ∨ ¬Holds h o) → h'.unit o b = zeroUnit o.tag)))

/-- Where consecutive bytes land in pieces of package memory. -/
def cellsOf : List Piece1 → List Byte → List (Nat × Byte)
  | [], _ => []
  | p :: ps, bs =>
    (match p.loc with
      | .pkg pa => (List.range p.n).map fun i => (pa + i, bs.getD i 0)
      | _ => []) ++ cellsOf ps (bs.drop p.n)

/-- The byte at `a` after writes in order. -/
def lastAt (l : List (Nat × Byte)) (a : Nat) (old : Byte) : Byte :=
  ((l.reverse.find? fun c => c.1 == a).map Prod.snd).getD old

/-- The running context is unchanged but for vector registers, flags and counters, and what any access may change. -/
def VectorAccess (len : Nat) (s t : State) : Prop :=
  Touches s t ∧ KeepsX s t ∧ t.cur.pc = s.cur.pc + BitVec.ofNat 64 len ∧
    (t.core (own s)).instret = (s.core (own s)).instret + 1 ∧
    AccessHart s { t with cur := { t.cur with
      v := s.cur.v
      csr := { t.cur.csr with fcsr := s.cur.csr.fcsr, zcnt := s.cur.csr.zcnt } } }

/-- As `VectorAccess`, for an instruction that writes memory. -/
def VectorStored (len : Nat) (s t : State) : Prop := VectorAccess len s (sameStore s t) ∧ ∀ g ∈ t.poison, g ∈ s.poison

/-- A tag of the indexed accesses (R121). -/
def elementTag (t : Tag) : Bool := tagFamily t == .int || tagFamily t == .float

/-- A vector load into the group of `vd`: length, registers, kind of translation, units, and the conditions on the
registers (R109, R112, R118, R121). -/
structure VLoad where
  len : Nat
  vd : BitVec 6
  xb : BitVec 5
  gather : Bool
  us : List UnitAcc
  ok : Prop

/-- The vector loads of elements and blocks. -/
def vloadOf (s : State) : Instr → Option VLoad
  | .vld vd xb mode m _ _ _ => if mode = 7 then none else
    some ⟨4, vd, xb, false, s.cur.maskUnits m (unitShape (s.cur.opnd vd).tag false).q (s.vmPlaces vd xb mode.toNat),
      s.cur.csr.vl.toNat % (unitShape (s.cur.opnd vd).tag false).q = 0⟩
  | .vldc vd xb mode cm _ _ _ => if mode = 7 then none else
    some ⟨4, vd, xb, false, s.cur.arrivedUnits cm (addrIdx (s.readX xb)) (s.vmPlaces vd xb mode.toNat),
      s.cur.csr.vl.toNat % (unitShape (s.cur.opnd vd).tag false).q = 0⟩
  | .vldx vd vi xb scale m _ _ _ =>
    some ⟨8, vd, xb, true, s.indexedUnits vd vi xb scale m,
      elementTag (s.cur.opnd vd).tag = true ∧ (s.cur.opnd vd).dom = 0 ∧ VecOperand s.cur vi s.cur.csr.vl.toNat ∧
        tagFamily (s.cur.opnd vi).tag = .int ∧ (s.cur.opnd vi).dom = 0⟩
  | _ => none

/-- A vector store of the group of `vs` (R114, R121). -/
structure VStore where
  len : Nat
  vs : BitVec 6
  xb : BitVec 5
  gather : Bool
  whole : Bool
  us : List UnitAcc
  evict : BitVec 3
  ok : Prop

/-- The vector stores. -/
def vstoreOf (s : State) : Instr → Option VStore
  | .vst vs xb mode m _ _ e =>
    let all := s.vmPlaces vs xb mode.toNat
    let q := (unitShape (s.cur.opnd vs).tag false).q
    if mode = 7 then some ⟨4, vs, xb, false, true, all, e, True⟩
    else some ⟨4, vs, xb, false, false, s.cur.maskUnits m q all, e,
      s.cur.csr.vl.toNat % q = 0 ∧ LengthFits s.cur (s.cur.opnd vs).dom⟩
  | .vstx vs vi xb scale m _ _ e =>
    some ⟨8, vs, xb, true, false, s.indexedUnits vs vi xb scale m, e,
      elementTag (s.cur.opnd vs).tag = true ∧ (s.cur.opnd vs).dom = 0 ∧ VecOperand s.cur vi s.cur.csr.vl.toNat ∧
        tagFamily (s.cur.opnd vi).tag = .int ∧ (s.cur.opnd vi).dom = 0⟩
  | _ => none

/-- A group whose members agree, aligned (the first two checks of R19). -/
def WholeGroup (h : Hart) (r : BitVec 6) : Prop :=
  r.toNat % 2 ^ (h.opnd r).grp = 0 ∧ Holds h (h.opnd r)

/-- The bytes at their places after the units `us` are stored with `data`. -/
def UnitsPut (s t : State) (us : List UnitAcc) (pss : List (List Piece1)) (data : UnitAcc → List Byte) : Prop :=
  ∀ a, t.coreByte (own s) a =
    lastAt ((us.zip pss).flatMap fun x => cellsOf x.2 (data x.1)) a (s.coreByte (own s) a)

/-- No byte outside the pieces changes. -/
def OutsideSame (s t : State) (pss : List (List Piece1)) : Prop :=
  ∀ a, (∀ ps ∈ pss, ∀ p ∈ ps, ∀ pa, p.loc = .pkg pa → a < pa ∨ pa + p.n ≤ a) →
    t.coreByte (own s) a = s.coreByte (own s) a

/-! ## Matrix instructions (R167-R180) -/

/-- A pending `mld` whose reads have not performed, or `mst` (R240). -/
def ActsInMemory (o : MatOp) : Prop := (∃ es, o.write = .load es) ∨ ∃ ws, o.write = .store ws

/-- A pending `mst` that still writes memory. -/
def WritesMemory (o : MatOp) : Prop := ∃ ws, o.write = .store ws

/-- What the completion of matrix instructions leaves unchanged (R168, R240): all but tiles, the pending instructions and
the place of the free values; where an `mld` or `mst` completes, the banks that it finds, with `WAKES` (R264); and where an
`mst` does, what the core, the scratchpad, the host and the homes hold. -/
def CompletesOnly (s s1 : State) : Prop :=
  ((∀ o ∈ s.cur.matq, ¬ActsInMemory o) →
    { s1 with fresh := s.fresh, cur := { s1.cur with tiles := s.cur.tiles, matq := s.cur.matq } } = s) ∧
  ((∀ o ∈ s.cur.matq, ¬WritesMemory o) → s1.cores = s.cores ∧ s1.home = s.home ∧ s1.host = s.host ∧
    s1.cur.spad = s.cur.spad ∧ s1.cur.spadPages = s.cur.spadPages) ∧
  (∀ b, { s1.bank b with power := .act } = { s.bank b with power := .act }) ∧
  { s1 with
    fresh := s.fresh, cores := s.cores, home := s.home, host := s.host, banks := s.banks, raa := s.raa, buses := s.buses
    cur := { s1.cur with
      tiles := s.cur.tiles, matq := s.cur.matq, spad := s.cur.spad, spadPages := s.cur.spadPages
      csr := { s1.cur.csr with wakes := s.cur.csr.wakes } } } = s

/-- Slots of a wait mask: the matrix instructions counted there have completed (R168). -/
def Awaited (s s1 : State) (wait : BitVec 16) : Prop :=
  s1 = s.awaitSlots wait ∧ (∀ o ∈ s1.cur.matq, ∀ k : BitVec 4, o.slot = some k → wait.getLsbD k.toNat = false) ∧
    CompletesOnly s s1

/-- The matrix instructions but `mwait`: their tile and their wait mask (R171). -/
def tileRow : Instr → Option (BitVec 3 × BitVec 16)
  | .tclr t _ _ _ w => some (t, w)
  | .bpacc t _ _ _ _ _ _ w => some (t, w)
  | .bpsub t _ _ _ _ _ _ w => some (t, w)
  | .mrd _ t _ _ _ w => some (t, w)
  | .mcol _ t _ _ _ w => some (t, w)
  | .mwr t _ _ _ _ w => some (t, w)
  | .mld t _ _ _ _ w => some (t, w)
  | .mst t _ _ _ _ w => some (t, w)
  | _ => none

/-- The place of byte `i` of consecutive pieces of package memory. -/
def placeOf (pss : List (List Piece1)) (i : Nat) : Nat :=
  (pss.flatten.flatMap fun p => match p.loc with
    | .pkg pa => (List.range p.n).map (pa + ·)
    | _ => []).getD i 0

/-- The running context is unchanged but for its pending matrix instructions, flags, and what any access may change. -/
def MatrixHart (s t : State) : Prop :=
  AccessHart s { t with cur := { t.cur with
    matq := s.cur.matq, csr := { t.cur.csr with fcsr := s.cur.csr.fcsr } } }

/-- The slot that an instruction sets (R168). -/
def slotOf (slot : BitVec 4) (set : BitVec 1) : Option (BitVec 4) := if set = 1 then some slot else none

/-- A matrix instruction that issues a tile write leaves the running context as `h` with the write pending. -/
def Issues (i : Instr) (s s1 : State) (h : Hart) (tile : BitVec 3) (w : TileWrite) (slot : Option (BitVec 4)) : Prop :=
  ∃ t, exec i s = .next t ∧ Retires 8 { h with matq := s1.cur.matq ++ [⟨tile, w, slot⟩] } s1 t

/-- The running context is unchanged but for what any access may change, and for the clean-up registers (R30). -/
def CleanHart (s t : State) : Prop :=
  AccessHart s { t with cur := { t.cur with csr := { t.cur.csr with
    hcdist := s.cur.csr.hcdist, hcidx2 := s.cur.csr.hcidx2, hcdist2 := s.cur.csr.hcdist2
    hcflags := s.cur.csr.hcflags } } }

/-- Hypervector bit `i` of a register as R21 reads it. -/
def hyperBit (h : Hart) (r : BitVec 6) (i : Nat) : Nat := h.unit (h.opnd r) i

/-- A hypervector operand (R181). -/
def HyperOperand (h : Hart) (r : BitVec 6) : Prop := (h.vreg r.toNat).desc.tag = .hb ∧ (h.vreg r.toNat).desc.grp = 0

/-- A counter group (R185). -/
def CounterOperand (h : Hart) (r : BitVec 6) : Prop :=
  VecOperand h r 16384 ∧ (h.opnd r).tag = .s8 ∧ (h.opnd r).dom = 0

/-- The number of places where two bit patterns differ. -/
def distance (n : Nat) (a b : Nat) : Nat := ((List.range n).filter fun i => a.testBit i != b.testBit i).length

/-- Item `k` of a book is the nearest to `u`, the lowest index first (R190). -/
def Nearest (u : Nat) (book : List Nat) (k : Nat) : Prop :=
  k < book.length ∧ ∀ j < book.length, let d (i : Nat) : Nat := distance 16384 u (book.getD i 0)
    d k < d j ∨ d k = d j ∧ k ≤ j

/-- Another item is as near to `u` as item `k` (R190). -/
def TiesWith (u : Nat) (book : List Nat) (k : Nat) : Prop :=
  ∃ j < book.length, j ≠ k ∧ distance 16384 u (book.getD j 0) = distance 16384 u (book.getD k 0)

/-- The composite unbound by the items of the factors but `f` (R194). -/
def unbound (va : Nat) (books : List (List Nat)) (idx : List Nat) (f : Nat) : Nat :=
  (List.range books.length).foldl (fun u g => if g = f then u else u ^^^ (books.getD g []).getD (idx.getD g 0) 0) va

/-- The estimates that factor `f` of a sweep sees (R194): those of the factors before it are new. -/
def estimates (old new : List Nat) (f : Nat) : List Nat := new.take f ++ old.drop f

/-- One sweep takes the indices `old` to `new` (R194). -/
def Sweep (va : Nat) (books : List (List Nat)) (old new : List Nat) : Prop :=
  new.length = books.length ∧ ∀ f < books.length,
    Nearest (unbound va books (estimates old new f) f) (books.getD f []) (new.getD f 0)

/-- Some clean-up of a sweep tied (R194). -/
def SweepTies (va : Nat) (books : List (List Nat)) (old new : List Nat) : Prop :=
  ∃ f < books.length, TiesWith (unbound va books (estimates old new f) f) (books.getD f []) (new.getD f 0)

/-- A sweep ends the factorisation (R194): it changes no index, or its tuple recurs 2 to 16 sweeps later. -/
def Recurs (seq : Nat → List Nat) (n : Nat) : Prop := ∃ p, 2 ≤ p ∧ p ≤ 16 ∧ p ≤ n ∧ seq n = seq (n - p)

end Sys2Proof.Claims

/-- R105, R109 to R113, R118, R122: a vector load puts the units that it reads into their elements, `HB` bits or blocks
and changes no byte of memory; elements of units that it does not read follow the policies. R115, R150: a load of an
`ACT` buffer gives the register the tag of the granules that it reads, and traps `DOM` when they carry two. A load of
whole element groups gives every register of the group its 2048 bytes and its full length. -/
def Obligations.VectorLoads : Prop :=
  (∀ (i : Instr) (r : VLoad) (pss : List (List Piece1)) (s : State), vloadOf s i = some r → Healthy s.cur →
     VecOperand s.cur r.vd s.cur.csr.vl.toNat → r.ok → PiecesSound s pss →
     let o := s.cur.opnd r.vd
     (LengthFits s.cur o.dom → UnitsReach s .read r.gather (s.readX r.xb) r.us pss →
       ∃ t, exec i s = .next t ∧ VectorAccess r.len s t ∧ BytesSame s t ∧ GroupWritten s.cur t.cur o s.cur.csr.vl.toNat ∧
         UnitsLoaded s t.cur o r.us pss) ∧
     ∀ sp, r.gather = false → sp.act? ≠ none → r.us ≠ [] → UnitsFound s .read false (s.readX r.xb) sp r.us pss →
       (∀ l, LengthFits s.cur l → (o.tag = .hb → l = 0) → TagsAre s pss l →
         let o1 : Opnd := { o with dom := l }
         ∃ t, exec i s = .next t ∧ VectorAccess r.len s t ∧ BytesSame s t ∧
           GroupWritten s.cur t.cur o1 s.cur.csr.vl.toNat ∧ UnitsLoaded s t.cur o1 r.us pss) ∧
       (((∀ l, ¬TagsAre s pss l) ∨ o.tag = .hb ∧ ¬TagsAre s pss 0) → ∃ t, exec i s = .next t ∧ t.cur.status = .stopping .trap ∧ t.cur.csr.ecause = 0x03 ∧
         t.cur.v = s.cur.v ∧ BytesSame s t)) ∧
  ∀ (vd : BitVec 6) (xb : BitVec 5) (m : BitVec 2) (ord : Ord) (sc : Scope) (e : BitVec 3) (pss : List (List Piece1))
    (s : State), Healthy s.cur → WholeGroup s.cur vd →
    let o := s.cur.opnd vd
    let us := s.vmPlaces vd xb 7
    UnitsReach s .read false (s.readX xb) us pss → PiecesSound s pss →
    ∃ t, exec (.vld vd xb 7 m ord sc e) s = .next t ∧ VectorAccess 4 s t ∧ BytesSame s t ∧
      (o.tag = .none → t.cur.v = s.cur.v) ∧
      (o.tag ≠ .none → GroupHolds s.cur t.cur o (2 ^ o.grp * tagCap o.tag) ∧
        (tagFamily o.tag ≠ .block → ∀ k < 2 ^ o.grp, (t.cur.vreg (vd.toNat + k)).bits.toNat =
          numberOf (((bytesAt s pss.flatten).drop (2048 * k)).take 2048)))


/-- R114, R122, R274: a vector store puts the bytes of its units at their places, in order, and changes no other byte
and no register; the bytes of a unit are those of its element, `HB` word or packed block. R115, R150, R151: a store to
an `ACT` buffer puts its domain into the tag of every line that it writes, together with the bytes; one that would
change the tag of a granule that it does not write whole traps `DOM`. R274, R283: only an eviction of 6 or 7 reaches the
banks, where a part of a poisoned granule is lost. -/
def Obligations.VectorStores : Prop :=
  ∀ (i : Instr) (r : VStore) (pss : List (List Piece1)) (s : State), vstoreOf s i = some r → Healthy s.cur →
    (if r.whole then WholeGroup s.cur r.vs else VecOperand s.cur r.vs s.cur.csr.vl.toNat) → r.ok →
    let o := s.cur.opnd r.vs
    let data (u : UnitAcc) : List Byte := s.cur.unitBytes o r.whole u.k
    (r.whole = false → ∀ u ∈ r.us, numberOf (data u) =
      match tagFamily o.tag with
      | .block => packedNumber o.tag (blockOf o.tag (s.cur.unit o u.k))
      | .hb => ((List.range 32).map fun j => s.cur.unit o (32 * u.k + j) * 2 ^ j).sum
      | _ => s.cur.unit o u.k) ∧
    (UnitsReach s .write r.gather (s.readX r.xb) r.us pss →
      ∃ t, exec i s = .next t ∧ StoreStep r.len s t ∧ KeepsX s t ∧ (r.evict.toNat < 6 → BanksSame s t) ∧
        ((r.evict.toNat < 6 ∨ PiecesSound s pss) → UnitsPut s t r.us pss data)) ∧
    ∀ b s1 s2, r.gather = false → r.us ≠ [] → let idx := addrIdx (s.readX r.xb)
      s.space idx = (.mem b, s1) → b.cls = 2 →
      (s1.reachUnits ⟨idx, .write, false, false, false⟩ (.mem b) (storeTagCheck idx o.dom r.us) [] [] r.us = .ok pss s2 →
        (∀ ps ∈ pss, ∀ p ∈ ps, ∃ pa, p.loc = .pkg pa) →
        ∃ t, exec i s = .next t ∧ StoreStep r.len s { t with frames := s.frames } ∧ KeepsX s t ∧
          (r.evict.toNat < 6 → BanksSame s t) ∧ TagsAre t pss o.dom ∧ OtherTagsSame s t pss ∧
          ((r.evict.toNat < 6 ∨ PiecesSound s pss) → UnitsPut s t r.us pss data ∧
            ∀ ps ∈ pss, ∀ p ∈ ps, ∀ pa, p.loc = .pkg pa → ∀ j < p.n,
              t.homeByte (pa + j) = t.coreByte (own s) (pa + j))) ∧
      ∀ u p pa, r.us = [u] → pss = [[p]] → p.loc = .pkg pa → u.n < 4096 →
        UnitsFound s .write false (s.readX r.xb) (.mem b) r.us pss → tagCopy s pa ≠ o.dom →
        ∃ t, exec i s = .next t ∧ t.cur.status = .stopping .trap ∧ t.cur.csr.ecause = 0x03 ∧ BytesSame s t

/-- R164, R165: `vstw` leaves its register as it is, writes only inside its units, and stores a register of the stated
domain as it stands when it does not threshold; else each unit holds the coefficients of its columns, transformed where
the register is spatial and cleared by R157 where it thresholds, a row of a block type quantised once. R115, R150: every
line written carries the tag of the store's levels. R274, R283: an eviction of 6 or 7 reaches the banks, where a part of a
poisoned granule is lost. -/
def Obligations.WaveletStore : Prop :=
  ∀ (vs : BitVec 6) (xb : BitVec 5) (lev : BitVec 3) (thr : BitVec 1) (m : BitVec 2) (ord : Ord) (sc : Scope)
    (e : BitVec 3) (b : BufInfo) (pss : List (List Piece1)) (s s1 s2 : State), Healthy s.cur →
    let o := s.cur.opnd vs
    let l := lev.toNat
    let q := (unitShape o.tag false).q
    let us := (s.vmPlaces vs xb 0).filter fun u =>
      maskBit s.cur m.toNat (32 * 2 ^ l * (q * u.k / (32 * 2 ^ l)) + if tagBlock o.tag then 0 else q * u.k % 32)
    VecOperand s.cur vs s.cur.csr.vl.toNat → tagFamily o.tag ∈ ifq → (o.dom = 0 ∨ o.dom = l) →
    s.cur.csr.vl.toNat % (32 * 2 ^ l) = 0 → us ≠ [] →
    s.space (addrIdx (s.readX xb)) = (.mem b, s1) → b.cls = 2 →
    s1.reachUnits ⟨addrIdx (s.readX xb), .write, false, false, false⟩ (.mem b)
      (storeTagCheck (addrIdx (s.readX xb)) l us) [] [] us = .ok pss s2 →
    (∀ ps ∈ pss, ∀ p ∈ ps, ∃ pa, p.loc = .pkg pa) →
    let h := s.cur
    let coefficients (block : Bool) (b ch : Nat) : List Elem :=
      let c := if block then columnExact h o (2 ^ l) b ch else columnOf h o (2 ^ l) b ch
      if o.dom = 0 then (haarForward o.tag (fpModeOf h) l c).1 else c
    let kept (k : Nat) (mag : Val) : Bool := thr == 0 || !clears h l k mag
    ∃ t, exec (.vstw vs xb lev thr m ord sc e) s = .next t ∧ VectorStored 8 s t ∧
      t.cur.v = s.cur.v ∧ (e.toNat < 6 → BanksSame s t) ∧ TagsAre t pss l ∧ OtherTagsSame s t pss ∧
      ((e.toNat < 6 ∨ PiecesSound s pss) → OutsideSame s t pss ∧
      (o.dom = l → l ≠ 0 → thr = 0 → UnitsPut s t us pss fun u => s.cur.unitBytes o false u.k) ∧
      (tagFamily o.tag ≠ .block → UnitsPut s t us pss fun u =>
        let n := ((coefficients false (haarBlockOf l u.k) (u.k % 32)).getD (rowOf l u.k) (.raw 0)).bits
        (List.range (tagWidth o.tag / 8)).map fun j =>
          BitVec.ofNat 8 ((if kept (rowOf l u.k) (patternMag o.tag n) then n else 0) / 256 ^ j)) ∧
      (tagFamily o.tag = .block → (o.dom = 0 ∨ thr = 1) → UnitsPut s t us pss fun u =>
        let k := u.k % 2 ^ l
        let row := (List.range 32).map fun ch =>
          let v := ((coefficients true (u.k / 2 ^ l) ch).getD k (.raw 0)).val o.tag (flushes h)
          (if kept k (magnitude v) then v else .num false 0 0, true)
        let n := packedNumber o.tag (quantiseBlock (tagSigned o.tag) (tagWidth o.tag) row).1
        (List.range (2 + 4 * tagWidth o.tag)).map fun j => BitVec.ofNat 8 (n / 256 ^ j)))

/-- R121, R122, R123, R200: `vamoadd` changes memory only at its elements, and no register; one active integer element
adds to its place, modulo `2^w`. -/
def Obligations.VectorAtomicAdd : Prop :=
  ∀ (vs vi : BitVec 6) (xb : BitVec 5) (scale m : BitVec 2) (ord : Ord) (sc : Scope) (e : BitVec 3)
    (pss : List (List Piece1)) (s : State), Healthy s.cur →
    let o := s.cur.opnd vs
    let us := s.indexedUnits vs vi xb scale m
    VecOperand s.cur vs s.cur.csr.vl.toNat → VecOperand s.cur vi s.cur.csr.vl.toNat → o.dom = 0 →
    (s.cur.opnd vi).dom = 0 → tagFamily (s.cur.opnd vi).tag = .int →
    (o.tag = .s32 ∨ o.tag = .u32 ∨ o.tag = .s64 ∨ o.tag = .u64 ∨ o.tag = .f32) →
    UnitsReach s .atomic true (s.readX xb) us pss → PiecesSound s pss →
    ∃ t, exec (.vamoadd vs vi xb scale m ord sc e) s = .next t ∧ VectorStored 8 s t ∧ BanksSame s t ∧
      t.cur.v = s.cur.v ∧ OutsideSame s t pss ∧ (∀ a, tagCopy t a = tagCopy s a) ∧
      ∀ u p pa, us = [u] → pss = [[p]] → p.loc = .pkg pa → tagFamily o.tag = .int →
        BytesPut s pa p.n ((valueAt s pa p.n + s.cur.unit o u.k) % 2 ^ tagWidth o.tag) t

/-- R119: `vspill` writes the record of a register into the scratchpad, and `vfill` gives a register the contents and the
descriptor of a record; a descriptor that no register may hold traps `TAG`. -/
def Obligations.SpillRecords : Prop :=
  ∀ (vd : BitVec 6) (xb : BitVec 5) (imm : BitVec 12) (off : Nat) (s : State), Healthy s.cur →
    (s.readX xb).toNat / 2 ^ 40 = 0xFFFFFF → off = (s.readX xb).toNat % 2 ^ 40 + 128 * imm.toNat → off % 128 = 0 →
    off + 2176 ≤ s.cur.spadUnits * 2 ^ 18 → Unchained s.cur →
    let r := s.cur.vreg vd.toNat
    let d := r.desc
    let at_ (a n : Nat) : Nat := numberOf ((List.range n).map fun j => Memory.get s.cur.spad (off + a + j))
    (∃ t, exec (.vspill vd xb imm) s = .next t ∧ t.cur.pc = s.cur.pc + 4 ∧ t.cur.v = s.cur.v ∧ BytesSame s t ∧
      ∀ a, Memory.get t.cur.spad a =
        if off ≤ a ∧ a < off + 2048 then BitVec.ofNat 8 (r.image / 256 ^ (a - off))
        else if off + 2048 ≤ a ∧ a < off + 2052 then BitVec.ofNat 8
          ((d.tag.code * 2 ^ 21 + d.dom.toNat * 2 ^ 18 + d.grp.toNat * 2 ^ 16 + d.valen.toNat * 2)
            / 256 ^ (a - off - 2048))
        else if off + 2052 ≤ a ∧ a < off + 2176 then 0
        else Memory.get s.cur.spad a) ∧
    (descOk (at_ 2048 4 % 2 ^ 27) = true →
      ∃ t, exec (.vfill vd xb imm) s = .next t ∧ t.cur.pc = s.cur.pc + 4 ∧ t.cur.spad = s.cur.spad ∧ BytesSame s t ∧
        (∀ k, k ≠ vd.toNat → t.cur.vreg k = s.cur.vreg k) ∧
        let v := t.cur.vreg vd.toNat
        v.desc.tag.code * 2 ^ 21 + v.desc.dom.toNat * 2 ^ 18 + v.desc.grp.toNat * 2 ^ 16 + v.desc.valen.toNat * 2 =
          at_ 2048 4 % 2 ^ 27 / 2 * 2 ∧ v.desc.dirty = true ∧
        (v.desc.tag ≠ .none → tagFamily v.desc.tag ≠ .block → v.bits.toNat = at_ 0 2048)) ∧
    (descOk (at_ 2048 4 % 2 ^ 27) = false → ∃ t, exec (.vfill vd xb imm) s = .next t ∧
      t.cur.status = .stopping .trap ∧ t.cur.csr.ecause = 2 ∧ t.cur.v = s.cur.v)

/-- R168, R172 to R174, R178: an instruction that writes a tile waits for the slots of its mask, checks its operands and
issues its write; on every matrix instruction a tile that the hart does not have traps `ACC` (R28, R171). `mwait` only
waits: for its slots, or with an empty mask for all; and every earlier `mld` and `mst` performs (R240). R171, R177, R179:
`mrd` and `mcol` write a slice of their destination with the entries of a row or a column, and `mst` issues the writes of
the rows of a tile, when no write is pending; `mld` issues the reads of its rows. The model's choices: the waits for slots
end within the step (log entry 17); which pending writes a tile read sees is free (log entry 11), so the reads are stated
where none is pending; a held `OVF` raises `OF` only at a `VL` above 0 (log entry 41); a product onto a tile with poisoned
entries completes (log entry 88); a Haar B of a product has no length check (log entry 92). -/
def Obligations.Tiles : Prop :=
  (∀ (tile : BitVec 3) (slot : BitVec 4) (set : BitVec 1) (wait : BitVec 16) (s : State), Healthy s.cur →
     let s1 := s.awaitSlots wait
     let h := s1.cur
     let vl := h.csr.vl.toNat
     Awaited s s1 wait ∧
     (∃ t s2, exec (.mwait slot wait) s = .next t ∧ CompletesOnly s s2 ∧ Retires 8 s2.cur s2 t ∧
       (∀ o ∈ t.cur.matq, ¬ActsInMemory o ∧ ∀ k : BitVec 4, o.slot = some k → wait.getLsbD k.toNat = false) ∧
       (wait = 0 → t.cur.matq = []) ∧ (wait ≠ 0 → (∀ o ∈ s.cur.matq, ¬ActsInMemory o) → s2 = s1)) ∧
     (∀ exp, tile.toNat < h.ntiles →
       Issues (.tclr tile exp slot set wait) s s1 h tile (.clear exp) (slotOf slot set)) ∧
     (∀ i, tileRow i = some (tile, wait) → h.ntiles ≤ tile.toNat →
       exec i s = .next { s1 with cur := stoppedAt 8 { cause := cACC, erec1 := i.bits.toNat } h }) ∧
     (∀ (va vb : BitVec 6) (am bm : BitVec 2) (i : Instr) (neg : Bool),
       (i = .bpacc tile va vb am bm slot set wait ∧ neg = false ∨ i = .bpsub tile va vb am bm slot set wait ∧ neg = true) →
       tile.toNat < h.ntiles → VecOperand h va vl → VecOperand h vb 32 →
       (tagFamily (h.opnd va).tag = .block ∧ tagFamily (h.opnd vb).tag = .block ∨
         (h.opnd va).tag = .hb ∧ (h.opnd vb).tag = .hb) → vl % 32 = 0 → vl ≤ 4096 → (h.opnd va).dom = 0 →
       let row (k : Nat) : Bool := decide (k < vl / 32) && maskBit h am.toNat (32 * k)
       let n := 2 ^ (h.opnd vb).dom
       let col (k : Nat) : Bool := decide (k < 128) && maskBit h bm.toNat (32 * n * (k / n))
       let term (a b : Nat) : Int :=
         productTerm (h.productBlock (h.opnd va) a) (h.productBlock (h.opnd vb) b) (h.tileExp tile)
       ∃ ts fl, Issues i s s1 { h with csr := { h.csr with fcsr := fl } } tile (.add ts) (slotOf slot set) ∧
         (∀ a b z, b < 128 → ((128 * a + b, z) ∈ ts ↔ row a = true ∧ col b = true ∧ term a b ≠ 0 ∧
           z = if neg then -term a b else term a b)) ∧ (fl = h.csr.fcsr ∨ fl = h.csr.fcsr ||| 16)) ∧
     ∀ (va : BitVec 6) (xb : BitVec 5), tile.toNat < h.ntiles → VecOperand h va vl → vl ≤ 128 →
       LengthFits h (h.opnd va).dom →
       ∃ es ovf fl rc, Issues (.mwr tile va xb slot set wait) s s1
           { h with csr := { h.csr with fcsr := fl, rcnt := rc } } tile (.put es ovf) (slotOf slot set) ∧
         ((h.opnd va).dom = 0 → es.map Prod.fst = (List.range vl).map ((h.readX xb).toNat % 128 * 128 + ·)) ∧
         (tagFamily (h.opnd va).tag = .int → (h.opnd va).dom = 0 → h.tileExp tile = 0 → ∀ k < vl, es[k]? =
           some ((h.readX xb).toNat % 128 * 128 + k, BitVec.ofInt 48
             (max (-2 ^ 47) (min (2 ^ 47 - 1) (intOf (h.opnd va).tag (h.unit (h.opnd va) k))))))) ∧
  ∀ (tile : BitVec 3) (xb : BitVec 5) (slot : BitVec 4) (set : BitVec 1) (wait : BitVec 16) (s : State), Healthy s.cur →
    let s1 := s.awaitSlots wait
    let h := s1.cur
    let vl := h.csr.vl.toNat
    let t := h.tiles.getD tile.toNat .reset
    let entry (k : Nat) : Int := (tget (0 : BitVec 48) t.acc k).toInt
    tile.toNat < h.ntiles →
    (∀ (vd : BitVec 6) (g : Nat) (i : Instr) (place : Nat → Nat → Nat),
      (i = .mrd vd tile xb slot set wait ∧ place = (fun c k => 128 * c + k) ∨
        i = .mcol vd tile xb slot set wait ∧ place = fun c k => 128 * k + c) →
      h.matq = [] → t.poison = [] →
      let c := (h.readX xb).toNat % 128
      let start := 32 * ((h.readX xb).toNat / 2 ^ 16 % 128)
      let d := h.opnd vd
      let o : Opnd := ⟨vd.toNat, d.tag, d.dom, g⟩
      VecOperand h vd vl → start < vl → vl ≤ start + 128 → VecDest vd d.tag vl g → LengthFits h d.dom →
      ∃ u h', exec i s = .next u ∧ Retires 8 h' s1 u ∧ GroupWritten h h' o vl ∧ VectorFrame h h' ∧
        (t.ovf = true → h'.csr.fcsr ||| 4 = h'.csr.fcsr) ∧
        (tagFamily d.tag = .int → t.eT = 0 → ∀ k, start ≤ k → k < vl → h'.unit o k =
          (max (intRange d.tag).1 (min (intRange d.tag).2 (entry (place c (k - start)))) % 2 ^ tagWidth d.tag).toNat)) ∧
    (∀ (xa : BitVec 5) (pss : List (List Piece1)), vl % 128 = 0 →
      let us : List UnitAcc := (List.range (vl / 128)).map fun r =>
        ⟨r, [r], ((h.readX xa).toNat % 2 ^ 40 : Nat) + (r : Int) * (h.readX xb).toInt, 1024, 8⟩
      (UnitsReach s1 .read false (h.readX xa) us pss → PiecesSound s1 pss →
        ∃ u es, exec (.mld tile xa xb slot set wait) s = .next u ∧ Touches s1 u ∧ BytesSame s1 u ∧
          u.cur.pc = s.cur.pc + 8 ∧ AccessHart s1 { u with cur := { u.cur with matq := h.matq } } ∧
          u.cur.matq = h.matq ++ [⟨tile, .load es, slotOf slot set⟩] ∧
          ∀ k < vl, let pa := placeOf pss (8 * k)
            es[k]? = some (k, BitVec.ofNat 64 (valueAt s1 pa 8), .pkg pa)) ∧
      (UnitsReach s1 .write false (h.readX xa) us pss → h.matq = [] → h.held = none → t.poison = [] →
        ∃ u ws, exec (.mst tile xa xb slot set wait) s = .next u ∧ TouchesStore s1 u ∧ BanksSame s1 u ∧ BytesSame s1 u ∧
          u.cur.pc = s.cur.pc + 8 ∧ MatrixHart s1 u ∧
          u.cur.csr.fcsr = (if 0 < vl ∧ t.ovf = true then h.csr.fcsr ||| 4 else h.csr.fcsr) ∧
          u.cur.matq = [⟨tile, .store ws, slotOf slot set⟩] ∧
          ∀ k < vl, ws[k]? = some (.pkg (placeOf pss (8 * k)), word (entry k))))

/-- R172, R168: `tclr` clears its tile when it completes. The write that MATRIX_COMPLETE applies for a lone `tclr` sets
every entry to 0, `E_T` to `exp` and `OVF` to 0; that it clears the poison marks of the tile is the model's choice (log
entry 88). R179, R240: a lone `mst` brings its words to memory until it completes and
changes no other byte; a lone `mld` gives each of its entries the low 48 bits of its doubleword, as it stood at issue or
as it stands at completion (which of the two is free is the model's choice, log entry 11). -/
def Obligations.TileClear : Prop :=
  (∀ (tile : BitVec 3) (exp : BitVec 10) (slot : Option (BitVec 4)) (s : State), s.cur.status ≠ .vacant →
    s.cur.matq = [⟨tile, .clear exp, slot⟩] →
    exec (.matrixComplete s.cur.key 0) s = .next { s with cur := { s.cur with
      matq := [], tiles := s.cur.tiles.set tile.toNat ⟨[], exp, false, []⟩ tile.isLt } }) ∧
  (∀ (tile : BitVec 3) (ws : List (Nat × Word)) (slot : Option (BitVec 4)) (s : State), s.cur.status ≠ .vacant →
    s.cur.matq = [⟨tile, .store (ws.map fun x => (.pkg x.1, x.2)), slot⟩] →
    ∃ t, exec (.matrixComplete s.cur.key 0) s = .next t ∧ t.cur.matq = [] ∧ CompletesOnly s t ∧
      t.cur.tiles = s.cur.tiles ∧ t.cur.spad = s.cur.spad ∧ t.host = s.host ∧
      ((∀ x ∈ ws, (s.bank (paBank x.1)).power ≠ .ret) → t.cur.csr = s.cur.csr) ∧
      (∀ x ∈ ws, (t.bank (paBank x.1)).power = .act) ∧ (∀ c, c ≠ own s → t.core c = s.core c) ∧
      ∀ a, t.coreByte (own s) a = lastAt (ws.flatMap fun x => (List.range 8).map fun j =>
        (x.1 + j, BitVec.ofNat 8 (x.2.toNat / 256 ^ j))) a (s.coreByte (own s) a)) ∧
  ∀ (tile : BitVec 3) (es : List (Nat × Word × Nat)) (slot : Option (BitVec 4)) (s : State), s.cur.status ≠ .vacant →
    s.cur.matq = [⟨tile, .load (es.map fun x => (x.1, x.2.1, .pkg x.2.2)), slot⟩] → (es.map Prod.fst).Nodup →
    ∃ t, exec (.matrixComplete s.cur.key 0) s = .next t ∧ t.cur.matq = [] ∧ CompletesOnly s t ∧
      (∀ x ∈ es, (t.bank (paBank x.2.2)).power = .act) ∧
      (∀ k : Nat, k < 8 → k ≠ tile.toNat → t.cur.tiles.getD k .reset = s.cur.tiles.getD k .reset) ∧
      ∀ x ∈ es, let entry : BitVec 48 := tget 0 (t.cur.tiles.getD tile.toNat .reset).acc x.1
        entry = x.2.1.setWidth 48 ∨ entry = BitVec.ofNat 48 (valueAt s x.2.2 8)


/-- R187: `hsim` counts the active elements in which its operands differ. R181, R183 to R186, R188: the hypervector
instructions with a vector result, element by element (what a poisoned word of theirs does is not stated; log entries 90
and 91). -/
def Obligations.Hypervectors : Prop :=
  ∀ (vd va vb : BitVec 6) (xb : BitVec 5) (m : BitVec 2) (s : State), Healthy s.cur → s.cur.csr.vl.toNat = 16384 →
    let h := s.cur
    let o : Opnd := ⟨vd.toNat, .hb, 0, 0⟩
    let writes (i : Instr) (o : Opnd) (f : Nat → Nat) : Prop :=
      ∃ h', VectorStep i 4 o 16384 s h' ∧ h'.csr = h.csr ∧ ElementsAre h h' o (Active h m) 16384 f
    let x : Word := s.readX xb
    (HyperOperand h va → HyperOperand h vb →
      writes (.hbind vd va vb m) o fun k => (hyperBit h va k + hyperBit h vb k) % 2) ∧
    (HyperOperand h va → CounterOperand h vd → writes (.hbundle vd va m) ⟨vd.toNat, .s8, 0, 3⟩ fun k =>
      (min 127 (max (-128) (signedOf 8 (h.unit (h.opnd vd) k) + if hyperBit h va k = 0 then 1 else -1)) % 256).toNat) ∧
    (CounterOperand h va → HyperOperand h vb → writes (.hmaj vd va vb m) o fun k =>
      let c := signedOf 8 (h.unit (h.opnd va) k)
      if 0 < c then 0 else if c < 0 then 1 else hyperBit h vb k) ∧
    (HyperOperand h va → writes (.hperm vd va xb m) o fun k => hyperBit h va ((k + (16384 - x.toNat % 16384)) % 16384)) ∧
    ((h.opnd vd).tag ≠ .none → writes (.hrand vd xb m) o fun k =>
      (Nat.iterate (fun z : Word =>
        let a := z ^^^ (z <<< 13)
        let b := a ^^^ (a >>> 7)
        b ^^^ (b <<< 17)) (k / 64 + 1) x).toNat / 2 ^ (k % 64) % 2) ∧
    ∀ xd : BitVec 5, HyperOperand h va → HyperOperand h vb → Computes (.hsim xd va vb m) 4 xd
      (BitVec.ofNat 64 ((actives h m).filter fun i => hyperBit h va i != hyperBit h vb i).length) s

/-- R189, R190: `hclean` finds the nearest item, the lowest index first, and the runner-up, and reports distances, tie
and threshold; `n` = 0 or above 32,768 traps `ILL`. R193, R194, R195: when its table and codebooks are read, `hfact`
sweeps from the initial indices and stops at the first sweep that changes none, whose tuple recurs, or that is the last
allowed; it reports the outcome `CONV`, `NONCONV`, `CYCLE` or `TIE`, the indices, the residual, and whether a clean-up
of the last sweep tied. -/
def Obligations.HyperSearch : Prop :=
  (∀ (xd : BitVec 5) (va : BitVec 6) (xb xn : BitVec 5) (pss : List (List Piece1)) (s : State), Healthy s.cur →
     s.cur.csr.vl.toNat = 16384 → HyperOperand s.cur va →
     let i := Instr.hclean xd va xb xn
     let n := (s.readX xn).toNat
     let off := (s.readX xb).toNat % 2 ^ 40
     let us : List UnitAcc := (List.range n).flatMap fun k => (lineCuts (off + 2048 * k) 2048).map fun (o, c) =>
       ⟨k, [(o - (off + 2048 * k)) / 4, k], (o : Nat), c, 4⟩
     ((n = 0 ∨ 32768 < n) → Traps i 8 { cause := cILL, erec1 := i.bits.toNat } s) ∧
     (0 < n → n ≤ 32768 → UnitsReach s .read false (s.readX xb) us pss → PiecesSound s pss →
       let item (k : Nat) : Nat := numberOf (((bytesAt s pss.flatten).drop (2048 * k)).take 2048)
       let v := s.cur.hyperBits va
       let dist (k : Nat) : Nat := distance 16384 v (item k)
       ∃ t k1, exec i s = .next t ∧ Touches s t ∧ BytesSame s t ∧ t.cur.pc = s.cur.pc + 8 ∧ CleanHart s t ∧
         WritesX xd (BitVec.ofNat 64 k1) s t ∧ k1 < n ∧
         (∀ k < n, dist k1 < dist k ∨ dist k1 = dist k ∧ k1 ≤ k) ∧ t.cur.csr.hcdist.toNat = dist k1 ∧
         (n = 1 → t.cur.csr.hcidx2 = 0x7FFF ∧ t.cur.csr.hcdist2 = 0x7FFF) ∧
         (1 < n → ∃ k2, k2 < n ∧ k2 ≠ k1 ∧ t.cur.csr.hcidx2 = BitVec.ofNat 15 k2 ∧ t.cur.csr.hcdist2.toNat = dist k2 ∧
           ∀ k < n, k ≠ k1 → dist k2 < dist k ∨ dist k2 = dist k ∧ k2 ≤ k) ∧
         t.cur.csr.hcflags.getLsbD 0 = decide (1 < n ∧ t.cur.csr.hcdist2 = t.cur.csr.hcdist) ∧
         t.cur.csr.hcflags.getLsbD 1 = decide (s.cur.csr.hcthr.toNat < t.cur.csr.hcdist.toNat))) ∧
  ∀ (xd : BitVec 5) (va : BitVec 6) (xb xn : BitVec 5) (books : List (List Nat)) (init : List Nat) (s s1 : State),
    Healthy s.cur → Unchained s.cur → s.cur.csr.vl.toNat = 16384 → HyperOperand s.cur va →
    let i := Instr.hfact xd va xb xn
    let lim := (s.readX xn).toNat
    s.readFactors i.bits.toNat (s.readX xb) lim = .ok (books, init) s1 →
    let v := s.cur.hyperBits va
    let packed (l : List Nat) : Nat :=
      l.getD 0 0 % 2 ^ 15 + l.getD 1 0 % 2 ^ 15 * 2 ^ 15 + l.getD 2 0 % 2 ^ 15 * 2 ^ 30 + l.getD 3 0 % 2 ^ 15 * 2 ^ 45
    init.length = books.length ∧ 2 ≤ books.length ∧ books.length ≤ 4 ∧ (∀ b ∈ books, b ≠ []) ∧
    ∃ t n out, ∃ seq : Nat → List Nat,
      exec i s = .next t ∧ Touches s { t with log := s.log, signals := s.signals } ∧ BytesSame s t ∧
      t.cur.pc = s.cur.pc + 8 ∧ CleanHart s t ∧
      WritesX xd (BitVec.ofNat 64 (out * 2 ^ 60 + packed (seq n))) s t ∧
      seq 0 = init ∧ n ≤ lim ∧ (∀ j < n, Sweep v books (seq j) (seq (j + 1))) ∧
      (∀ j, 0 < j → j < n → seq j ≠ seq (j - 1) ∧ ¬Recurs seq j) ∧
      (let still : Prop := 0 < n ∧ seq n = seq (n - 1)
       let tie : Prop := 0 < n ∧ SweepTies v books (seq (n - 1)) (seq n)
       (out = 0 ↔ still ∧ ¬tie) ∧ (out = 3 ↔ still ∧ tie) ∧ (out = 2 ↔ 0 < n ∧ ¬still ∧ Recurs seq n) ∧
       (out = 1 ↔ n = lim ∧ ¬still ∧ ¬Recurs seq n) ∧ out ≤ 3 ∧ (t.cur.csr.hcflags.getLsbD 0 = true ↔ tie)) ∧
      t.cur.csr.hcdist.toNat = distance 16384 (unbound v books (seq n) books.length) 0 ∧
      t.cur.csr.hcflags.getLsbD 1 = decide (s.cur.csr.hcthr.toNat < t.cur.csr.hcdist.toNat) ∧
      (n = 0 → t.cur.csr.hcidx2 = 0x7FFF ∧ t.cur.csr.hcdist2 = 0x7FFF)


/-- R26, R108, R148: the constants of an extent divide every 32-bit index exactly; `shp.ld` loads a shape entry, which is
invalid when its record is; `vtidx` writes each coordinate of the low 32 bits of its elements to a group of its own. An
index of a narrow signed format counts with its bits as they stand, zero-extended: the model's choice (log entry 84). -/
def Obligations.Indices : Prop :=
  (∀ e q : Nat, 1 ≤ e → e < 2 ^ 32 → q < 2 ^ 32 → q * (Extent.ofWord e).c / 2 ^ (32 + (Extent.ofWord e).l) = q / e) ∧
  (∀ (k : BitVec 4) (ra : BitVec 5) (sp : Space) (ps : List Piece1) (s s1 : State), Clean s.cur [ra] →
    s.reachOne ⟨addrIdx (s.readX ra), .read, false, false, false⟩
      ⟨0, [], ((s.readX ra).toNat % 2 ^ 40 : Nat), 24, 4⟩ = .ok (sp, ps) s1 →
    (∀ p ∈ ps, ∃ pa, p.loc = .pkg pa ∧ Unpoisoned s pa p.n) →
    let w (j : Nat) : Nat := numberOf (((bytesAt s ps).drop (4 * j)).take 4)
    let n := w 0 % 8
    ∃ t, exec (.shpLd k ra) s = .next t ∧ KeepsX s t ∧ BytesSame s t ∧
      AccessStep 4 s { t with cur := { t.cur with shapes := s.cur.shapes } } ∧
      ∀ j < 16, t.cur.shapes.getD j [] = if j ≠ k.toNat then s.cur.shapes.getD j []
        else if 1 ≤ n ∧ n ≤ 5 ∧ ∀ i < n, 1 ≤ w (i + 1) then (List.range n).map fun i => Extent.ofWord (w (i + 1))
        else []) ∧
  ∀ (vd va : BitVec 6) (k : BitVec 4) (g : Nat) (s : State), Healthy s.cur →
    let es := s.cur.shapes.getD k.toNat []
    let a := s.cur.opnd va
    let vl := s.cur.csr.vl.toNat
    VecOperand s.cur va vl → tagFamily a.tag = .int → a.dom = 0 → es ≠ [] → VecDest vd .u32 vl g →
    vd.toNat + es.length * 2 ^ g ≤ 64 →
    (∀ e ∈ es, e = Extent.ofWord e.e.toNat ∧ 1 ≤ e.e.toNat) →
    ∃ u h', exec (.vtidx vd va k) s = .next u ∧ Retires 4 h' s u ∧ { h' with v := s.cur.v } = s.cur ∧
      (∀ r, (r < vd.toNat ∨ vd.toNat + es.length * 2 ^ g ≤ r) → h'.vreg r = s.cur.vreg r) ∧
      ∀ j < es.length, let o : Opnd := ⟨vd.toNat + j * 2 ^ g, .u32, 0, g⟩
        ∀ n < vl, h'.unit o n = coordinate es (s.cur.unit a n % 2 ^ 32) j

namespace Sys2Proof.Claims

/-! ## Supervisor instructions (R99-R102) -/

/-- The record registers cleared (R99). -/
def withoutRecord (h : Hart) : Hart :=
  { h with csr := { h.csr with epc := 0, ecause := 0, erec0 := 0, erec1 := 0, erec2 := 0, erec3 := 0 } }

/-- The context of the running one's partition that a register names (R101, R102). -/
def named (s : State) (a : BitVec 5) : CtxKey := ⟨s.cur.part, (s.readX a).setWidth 32⟩

/-- Nothing changes outside the contexts and the cores, but for the partitions. -/
def OnlyContexts (s t : State) : Prop :=
  { t with cur := s.cur, rest := s.rest, cores := s.cores, parts := s.parts } = s

/-- Whether a shoot-down of a kind and operand removes a translation of a partition (R100): of a page, with its channel
pages `pages`; of a buffer; of a context; of the partition. -/
def removes (part : Nat) (kind : BitVec 2) (v : Word) (pages : List (Nat × Nat)) (e : TlbEntry) : Prop :=
  e.part = part ∧
    (if kind = 0 then e.buf = v.toNat / 2 ^ 40 ∧ (e.ch, e.cp) ∈ pages
      else if kind = 1 then e.buf = v.toNat / 2 ^ 40
      else if kind = 2 then e.owner = v.setWidth 32
      else True)

/-! ## Copies (R214-R218) -/

/-- The copies (R216): the instruction's bits, the registers that it reads, and the transfer that it starts, but for its
number. -/
def copyRow (s : State) : Instr → Option (BitVec 64 × List (BitVec 5) × Xfer)
  | .cpy d a n c ch cm bar b o sc e => some ((Instr.cpy d a n c ch cm bar b o sc e).bits,
      [d, a, n] ++ (if bar = 1 then [b] else []),
      ⟨0, s.readX d, s.readX a, s.readX n, c, ch, sc, o, e, bar == 1, if bar = 1 then s.readX b else 0, cm, false,
        s.cur.pc.setWidth 40, 0, 0, none⟩)
  | .cpyz d n c ch cm bar b o sc e => some ((Instr.cpyz d n c ch cm bar b o sc e).bits,
      [d, n] ++ (if bar = 1 then [b] else []),
      ⟨0, s.readX d, 0, s.readX n, c, ch, sc, o, e, bar == 1, if bar = 1 then s.readX b else 0, cm, true,
        s.cur.pc.setWidth 40, 0, 0, none⟩)
  | _ => none

/-- The bytes of a chunk of a transfer (R214). -/
def chunkSize (x : Xfer) : Nat := 256 * 2 ^ x.chunk.toNat

/-- The number of chunks of a transfer (R215). -/
def chunkCount (x : Xfer) : Nat := (x.n.toNat + chunkSize x - 1) / chunkSize x

/-- Chunk `k` of one side of a transfer as an access (R216). -/
def chunkAccess (x : Xfer) (a : Word) (k : Nat) : UnitAcc :=
  ⟨0, [], (a.toNat % 2 ^ 40 + k * chunkSize x : Nat), min (chunkSize x) (x.n.toNat - k * chunkSize x), 1⟩

/-- The running context is unchanged but for its transfers, completion masks and bindings, and what any access may
change. -/
def CopyHart (s t : State) : Prop :=
  AccessHart s { t with
    cur := { t.cur with xfers := s.cur.xfers, m := s.cur.m, binds := s.cur.binds, flights := s.cur.flights } }

/-- The writes of a transfer that its moved chunks have in flight are of ordinary package memory (log entry 87). -/
def PlainFlights (s : State) (x : Xfer) : Prop :=
  ∀ f ∈ s.cur.flights, f.xfer = x.id → f.host = false ∧ f.tags = []

/-- What a transfer still has to write when a chunk with the writes `new` has moved. -/
def inFlight (s : State) (x : Xfer) (new : List (Nat × Byte)) : List (Nat × Byte) :=
  (s.cur.flights.filter fun f => decide (f.xfer = x.id)).flatMap Flight.cells ++ new

/-- Of the writes `cs` of transfer `x` each has performed, at its home, or is in flight with the byte as it was; nothing
else is written (R216, R228; DESIGN CHOICE, log entry 87). A part of a poisoned granule that an eviction of 6 or 7 sends on
is lost (R283): where that may be, no byte is claimed. -/
def Lands (s : State) (x : Xfer) (cs : List (Nat × Byte)) (t : State) : Prop :=
  (∀ f, f.xfer ≠ x.id → f.cells ≠ [] → (f ∈ t.cur.flights ↔ f ∈ s.cur.flights)) ∧
  (∀ f ∈ t.cur.flights, f.xfer = x.id → ∀ c ∈ f.cells, c ∈ cs) ∧
  ((x.evict.toNat < 6 ∧ ∀ f ∈ s.cur.flights, f.xfer = x.id → f.thru = false) → BanksSame s t) ∧
  ((x.evict.toNat < 6 ∧ ∀ f ∈ s.cur.flights, f.xfer = x.id → f.thru = false) ∨ (∀ c ∈ cs, c.1 / 128 ∉ s.poison) →
    (∀ a, (∀ c ∈ cs, c.1 ≠ a) → t.coreByte (own s) a = s.coreByte (own s) a) ∧
    ∀ a v, (a, v) ∈ cs → (∀ w, (a, w) ∈ cs → w = v) →
      (t.coreByte (own s) a = v ∧ t.homeByte a = v) ∨
      (t.coreByte (own s) a = s.coreByte (own s) a ∧ ∃ f ∈ t.cur.flights, f.xfer = x.id ∧ (a, v) ∈ f.cells))

/-- Chunk `k` of transfer `id` has finished: its bit in the transfer and in the completion mask (R216), and nothing else
of the two. -/
def Finishes (s t : State) (x : Xfer) (k : Nat) : Prop :=
  t.cur.xfers = s.cur.xfers.map (fun y => if y.id = x.id then { y with finished := y.finished ||| (1 <<< k) } else y) ∧
    (∀ j < 8, t.cur.m.getD j .reset = if j = x.cm.toNat + 4
      then ⟨(s.cur.m.getD j .reset).bits ||| (1 <<< k), (s.cur.m.getD j .reset).poison⟩ else s.cur.m.getD j .reset) ∧
    t.cur.binds = s.cur.binds

/-- The pending fault of a stopped transfer as a trap (R217, R316). -/
def copyTrap (x : Xfer) (f : XferFault) : Trap :=
  { cause := 0x0A, erec1 := f.addr.toNat, sub := f.sub, wr := f.wr, async := true, chunk := f.chunk, ipc := x.ipc.toNat }

/-! ## Tasks (R210-R213) -/

/-- A task has triggered (R211). -/
def HasTriggered (t : Task) : Prop := t.refused = 0 ∧ t.dead = false ∧ 0 < t.harts ∧ t.trig.length = t.harts

/-- A task can never trigger (R211): it was refused, or a hart of it was killed before it had triggered. -/
def CannotTrigger (t : Task) : Prop := t.refused ≠ 0 ∨ t.dead = true

/-- What a `tkwait` does when it looks at its producers (R211). -/
def LooksAtProducers (out : Out) (s : State) : Prop :=
  let st (w : Word) : Task := (s.part s.cur.part).task w.toNat
  let ws := s.curTask.producers
  (∀ w pre rest, ws = pre ++ w :: rest → (∀ p ∈ pre, ¬CannotTrigger (st p)) → CannotTrigger (st w) →
    out = .next { s with cur := stoppedAt 4 { cause := 0x0C, erec1 := w.toNat } s.cur }) ∧
  ((∀ w ∈ ws, HasTriggered (st w)) →
    ∃ t, out = .next t ∧ Retires 4 { s.cur with status := .running } s t) ∧
  ((∀ w ∈ ws, ¬CannotTrigger (st w)) → (∃ w ∈ ws, ¬HasTriggered (st w)) →
    out = .next { s with cur := { s.cur with status := .waiting .task } })

/-! ## Collectives (R219-R224) -/

/-- A collective as the text of R222 describes it: its bits, operands, group register, mask, function number of R219,
reduction, whether `VL` counts a part of each member, root register, and whether a tag is accepted. -/
structure CollRow where
  bits : BitVec 64
  vd : BitVec 6
  va : BitVec 6
  g : BitVec 3
  m : BitVec 2
  fn : Nat
  op : Nat
  parts : Bool
  root : Option (BitVec 5)
  tags : Tag → Prop

/-- The collectives (R222). -/
def collRow : Instr → Option CollRow
  | .collRed d a g op m => some ⟨(Instr.collRed d a g op m).bits, d, a, g, m, 0, op.toNat, false, none, fun t =>
      if op.toNat ≤ 2 then tagFamily t = .int ∨ tagFamily t = .float else tagFamily t = .int ∨ tagFamily t = .hb⟩
  | .collGat d a g m => some ⟨(Instr.collGat d a g m).bits, d, a, g, m, 1, 0, true, none, fun t => t ≠ .none⟩
  | .collSct d a g r m => some ⟨(Instr.collSct d a g r m).bits, d, a, g, m, 2, 0, true, some r, fun t => t ≠ .none⟩
  | .collBc d a g r m => some ⟨(Instr.collBc d a g r m).bits, d, a, g, m, 3, 0, false, some r, fun t => t ≠ .none⟩
  | .collA2a d a g m => some ⟨(Instr.collA2a d a g m).bits, d, a, g, m, 4, 0, true, none, fun t => t ≠ .none⟩
  | _ => none

/-- The group register that a collective names. -/
def groupOf (h : Hart) (g : BitVec 3) : Group := h.g.getD g.toNat .reset

/-- What the running context contributes to a collective (R222, R224). -/
def contributed (s : State) (r : CollRow) : Contribution :=
  let o := s.cur.opnd r.va
  let vl := s.cur.csr.vl.toNat
  ⟨r.fn, r.op, (r.root.map fun x => (s.readX x).toNat).getD 0, o.tag, vl,
    if r.parts then vl / ((groupOf s.cur r.g).sizem1.toNat + 1) else vl,
    (List.range (vl / if tagFamily o.tag = .block then 32 else 1)).map (s.cur.unit o)⟩

/-- The collective of a group register as it stands with a contribution of the running context (R339): the open one, or
a new one. -/
def joinedColl (s : State) (g : BitVec 3) (k : Contribution) : Coll :=
  let gr := groupOf s.cur g
  let x : Piece := ⟨gr.rank.toNat, 0, k⟩
  match ((s.closeColls s.cur.part).part s.cur.part).coll? gr.gid gr.seq with
  | some c => c.receive x
  | none => (Coll.mk gr.gid gr.seq (gr.sizem1.toNat + 1) [] [] false none []).receive x

/-- A group whose members all run on this device, with room for one more open collective there (R339). -/
def LocalGroup (s : State) (g : BitVec 3) : Prop :=
  let gr := groupOf s.cur g
  let size := gr.sizem1.toNat + 1
  let s1 := s.closeColls s.cur.part
  (∀ r ∈ s.ranks s.cur.part gr.gid size, r.dev = s.devid) ∧
    match (s1.part s.cur.part).coll? gr.gid gr.seq with
    | some c => c.size = size
    | none => (s1.parts.map fun x => x.2.colls.length).sum < 64

/-- The element `i` of the result for member `r` (R222), from the units `u` of the members: bits of a type of `w` bits,
read as integers by `num`. -/
def collElement (k : Contribution) (size r : Nat) (num : Nat → Int) (u : Nat → Nat → Nat) (i : Nat) : Nat :=
  let all := (List.range size).map fun m => u m i
  let w := tagWidth k.tag
  match k.fn with
  | 0 => match k.op with
    | 0 => all.sum % 2 ^ w
    | 1 => (((all.map num).tail.foldl min (num (all.headD 0))) % 2 ^ w).toNat
    | 2 => (((all.map num).tail.foldl max (num (all.headD 0))) % 2 ^ w).toNat
    | 3 => all.tail.foldl (· &&& ·) (all.headD 0)
    | 4 => all.tail.foldl (· ||| ·) (all.headD 0)
    | _ => all.tail.foldl (· ^^^ ·) (all.headD 0)
  | 1 => u (i / k.span) (i % k.span)
  | 2 => u k.root (r * k.span + i)
  | 3 => u k.root i
  | _ => u (i / k.span) (r * k.span + i % k.span)

/-- What a collective with contribution `k` on group register `g` does when it looks (R222, R224, R339). -/
def LooksAtColl (out : Out) (g : BitVec 3) (vd : BitVec 6) (m : BitVec 2) (k : Contribution) (s : State) : Prop :=
  let gr := groupOf s.cur g
  let c := joinedColl s g k
  let size := gr.sizem1.toNat + 1
  let r := gr.rank.toNat
  let n := if k.fn = 2 then k.span else k.vl
  let next : Group := { gr with seq := gr.seq + 1 }
  let lost : Prop := ∃ q j, (s.ranks s.cur.part gr.gid size)[j]? = some q ∧
    (q.member ∈ ((s.part s.cur.part).task q.task.toNat).killed ∨ (gr.gid, j) ∈ (s.part s.cur.part).lost) ∧
    ∀ x ∈ c.pieces, x.member ≠ j
  let e : Trap := { cause := 0x10, erec1 := gr.gid.toNat * 2 ^ 48 + gr.seq.toNat }
  ((c.ends = some .fails ∨ c.ends = none ∧ (c.bad = true ∨ lost)) → ∃ t, out = .next t ∧
    { t with parts := s.parts } = { s with cur := stoppedAt 8 e { s.cur with g := s.cur.g.set g.toNat next } }) ∧
  (c.ends = none → c.bad = false → ¬lost → c.complete = false → ∃ t, out = .next t ∧
    { t with parts := s.parts } = { s with cur := { s.cur with status := .waiting (.coll g vd m k) } } ∧
    (t.part s.cur.part).coll? gr.gid gr.seq = some c) ∧
  (((∃ tree, c.ends = some (.holds tree)) ∨ c.ends = none ∧ c.bad = false ∧ c.complete = true) →
    ∀ gc, VecDest vd k.tag n gc →
    let o : Opnd := ⟨vd.toNat, k.tag, 0, gc⟩
    ∃ t h', out = .next t ∧ Retires 8 h' s { t with parts := s.parts } ∧ GroupWritten s.cur h' o n ∧
      (∀ j < 8, h'.g.getD j .reset = if j = g.toNat then next else s.cur.g.getD j .reset) ∧
      ((k.fn ≠ 0 ∨ k.op ≠ 0 ∨ tagFamily k.tag ≠ .float) → h'.csr.epact = 0) ∧
      { h' with
        v := s.cur.v, g := s.cur.g, status := s.cur.status
        csr := { h'.csr with fcsr := s.cur.csr.fcsr, epact := s.cur.csr.epact } } = s.cur ∧ h'.status = .running ∧
      (tagFamily k.tag ≠ .block → k.tag ≠ .none →
        (k.fn = 0 → tagFamily k.tag = .int ∨ 3 ≤ k.op ∧ tagFamily k.tag = .hb) →
        ((k.fn = 1 ∨ 4 ≤ k.fn) → k.vl = size * k.span) → (∀ x ∈ c.pieces, ∀ y ∈ x.c.units, y < 2 ^ tagWidth k.tag) →
        ElementsAre s.cur h' o (Active s.cur m) n
          (collElement k size r (intOf k.tag) fun m i => (c.units m).getD i 0)))

end Sys2Proof.Claims

/-- R13, R16, R99: `eret` in a supervisor context goes to `EPC`, bit 0 as 0, and clears the record, and nothing else
changes; an `EPC` that names another buffer traps `RIGHT` and leaves the record unchanged (R99; log entry 16). R100, R255, R289, R290: `tlbinv` removes the translations that its kind names from
every core and hart of the partition, and for a buffer the cached entries; before that every byte of those cores has
reached its home (that it retires when every responder has acknowledged is DEDUCED, log entry 18; that `tlbinv page` looks
for its pages through every entry a core has used is the model's choice, DEDUCED, log entry 38). R101, R305:
`ctx.resume` puts a suspended context of the partition on the resume list of its priority with the choice of retry or
skip; a context held by `ctx.save` keeps its earlier choice; any other is left alone. R102, R325: `ctx.save` asks a
placed context to stop and waits, holds a saved one, and leaves its own and an unknown context alone. -/
def Obligations.SupervisorControl : Prop :=
  ((∀ s : State, s.cur.supv = true →
     (SameBuffer s s.cur.csr.epc →
       ∃ t, exec .eret s = .next t ∧ Transfers (s.cur.csr.epc &&& ~~~1) (withoutRecord s.cur) s t) ∧
     (¬SameBuffer s s.cur.csr.epc → exec .eret s = .next { s with
       cur := { stoppedAt 4 { cause := cRIGHT, erec1 := s.cur.csr.epc.toNat } s.cur with csr := s.cur.csr } })) ∧
   ∀ (kind : BitVec 2) (a : BitVec 5) (s : State), s.cur.supv = true → Clean s.cur [a] →
     let v := s.readX a
     let pages := (s.flushCore (own s)).pagesOf noCore s.cur.part s.cur.csr.btbase v.toNat
     let served (c : Nat) : Prop := c < 256 ∧ (s.part s.cur.part).colmap.getLsbD (c / 8) = true
     let core (k : CoreState) : CoreState := { k with l1 := [], gtlb := [], bufs := [], instret := 0 }
     (∀ h ∈ s.harts, h.flights = [] ∧ ∀ o ∈ h.matq, ¬ActsInMemory o) →
     ∃ t, exec (.tlbinv kind a) s = .next t ∧ t.cur.pc = s.cur.pc + 4 ∧
       { t with cur := s.cur, rest := s.rest, cores := s.cores, home := s.home } = s ∧
       { t.cur with pc := s.cur.pc, answers := s.cur.answers, utlb := s.cur.utlb } = s.cur ∧
       t.rest.map (fun h => { h with utlb := [] }) = s.rest.map (fun h => { h with utlb := [] }) ∧
       (∀ c, core (t.core c) = core (s.core c)) ∧ (∀ c, served c → (t.core c).l1 = []) ∧ (t.core (own s)).l1 = [] ∧
       (∀ c, ¬served c → c ≠ own s → (t.core c).l1 = (s.core c).l1) ∧
       (t.core (own s)).instret = (s.core (own s)).instret + 1 ∧
       (∀ x, (∀ c, served c → c ≠ own s → overlayGet (s.core c).l1 x = none) →
         t.homeByte x = s.coreByte (own s) x ∧ t.coreByte (own s) x = s.coreByte (own s) x) ∧
       (∀ c e, (e ∈ (t.core c).gtlb ↔ e ∈ (s.core c).gtlb ∧ ¬(served c ∧ removes s.cur.part kind v pages e))) ∧
       (∀ c e, (e ∈ (t.core c).bufs ↔ e ∈ (s.core c).bufs ∧
         ¬(served c ∧ kind = 1 ∧ e.part = s.cur.part ∧ e.idx = v.toNat / 2 ^ 40))) ∧
       (∀ e, e ∈ t.cur.utlb ↔ e ∈ s.cur.utlb ∧ ¬(served (own s) ∧ removes s.cur.part kind v pages e)) ∧
       ∀ h ∈ t.rest, ∀ e ∈ h.utlb, ¬(served h.core.toNat ∧ removes s.cur.part kind v pages e)) ∧
  (∀ (a : BitVec 5) (i : Instr) (skip : Bool) (s : State),
    (i = .ctxResumeRetry a ∧ skip = false ∨ i = .ctxResumeSkip a ∧ skip = true) → s.cur.supv = true →
    Clean s.cur [a] → s.cur.isKey (named s a) = false →
    let k := named s a
    (∀ h, s.rest.find? (·.isKey k) = some h → (h.status = .suspended ∨ h.status = .held) → h.prio < 4 →
      ∃ t, exec i s = .next t ∧ Counts s t ∧ OnlyContexts s t ∧
        t.cur = { s.cur with pc := s.cur.pc + 4, answers := keepAnswers s.cur.answers } ∧
        t.rest = s.rest.map (fun x => if x.isKey k then
          { x with status := .queued, skip := if h.status = .suspended then skip else x.skip } else x) ∧
        (∀ p, t.part p = if p = s.cur.part then
          { s.part p with resume := (t.part p).resume } else s.part p) ∧
        ∀ j < 4, (t.part s.cur.part).resume.getD j [] =
          (s.part s.cur.part).resume.getD j [] ++ if j = h.prio then [k.ctx] else []) ∧
    ((∀ h, s.rest.find? (·.isKey k) = some h → h.status ≠ .suspended ∧ h.status ≠ .held) →
      ∃ t, exec i s = .next t ∧ Retires 4 s.cur s t)) ∧
  ∀ (a : BitVec 5) (s : State), s.cur.supv = true → Clean s.cur [a] →
    let k := named s a
    ((k.ctx = s.cur.ctxid ∨ s.hart? k = none) → ∃ t, exec (.ctxSave a) s = .next t ∧ Retires 4 s.cur s t) ∧
    (∀ h, k.ctx ≠ s.cur.ctxid → s.rest.find? (·.isKey k) = some h → h.status = .queued →
      ∃ t, exec (.ctxSave a) s = .next t ∧ t.cur.pc = s.cur.pc + 4 ∧
        t.rest = s.rest.map (fun x => if x.isKey k then { x with status := .held } else x) ∧
        (∀ l ∈ (t.part s.cur.part).resume.toList, k.ctx ∉ l) ∧
        { t.cur with pc := s.cur.pc, answers := s.cur.answers } = s.cur) ∧
    ∀ h, k.ctx ≠ s.cur.ctxid → s.rest.find? (·.isKey k) = some h → h.status = .running → h.answers = [] →
      exec (.ctxSave a) s = .next { s with
        cur := { s.cur with status := .waiting (.ctxSave k.ctx) }
        rest := s.rest.map fun x => if x.isKey k then x.stopFor .ctxSave else x } ∧
      h.stopFor .ctxSave = { h with status := .stopping .ctxSave, request := none }


/-- R215, R216, R217: `cpy` and `cpyz` start a transfer with their operands when the channel has room, and bind the
mask; a length of more than 16,384 chunks traps `ILL`, and a pending fault of the mask traps `COPY`. R218: `cmask`
clears its mask and binding once no transfer of the mask is under way, and reports the fault of a stopped one. R203,
R204, R273: `fence` with no transfer under way and `MR` or `MW` in `pred` leaves no `mld` or `mst` pending (R203, R273; that
its own tile writes wait for it is DEDUCED, log entry 57); with `CR` or `CW` no write of a moved chunk stays in flight (that
they stay so is a DESIGN CHOICE, log entry 87); with `W` or `XW` at `stack` or wider it leaves the core's bytes at their
home. -/
def Obligations.Copies : Prop :=
  (∀ (i : Instr) (bits : BitVec 64) (rs : List (BitVec 5)) (x : Xfer) (s : State), copyRow s i = some (bits, rs, x) →
    (16384 * chunkSize x < x.n.toNat → Traps i 8 { cause := cILL, erec1 := bits.toNat } s) ∧
    (x.n.toNat ≤ 16384 * chunkSize x → Clean s.cur rs →
      (∀ y f, s.cur.xfers.find? (fun y => decide (y.cm = x.cm ∧ y.stopped ≠ none)) = some y → y.stopped = some f →
        Traps i 8 (copyTrap y f) s) ∧
      ((∀ y ∈ s.cur.xfers, y.cm = x.cm → y.stopped = none) → s.cur.status = .running →
        (s.cur.xfers.filter fun y => y.chan == x.chan).length < 16 →
        ∃ t id, exec i s = .next t ∧ t.cur.xfers = s.cur.xfers ++ [{ x with id := id }] ∧
          (∀ y ∈ s.cur.xfers, y.id ≠ id) ∧ (∀ f ∈ s.cur.flights, f.xfer ≠ id) ∧ t.cur.pc = s.cur.pc + 8 ∧ BytesSame s t ∧
          (releasesAt x.ord x.scope = true → ∀ a, t.homeByte a = s.coreByte (own s) a) ∧
          (((x.ord ≠ .rel ∧ x.ord ≠ .ar) ∨
              releasesAt x.ord x.scope = false ∧ (s.part s.cur.part).rwtcount = 0) →
            Counts s t ∧ t.home = s.home) ∧
          (∀ j < 4, t.cur.binds.getD j none =
            if j = x.cm.toNat then some ⟨x.dst, chunkSize x, x.n⟩ else s.cur.binds.getD j none) ∧
          { t with cur := s.cur, cores := s.cores, home := s.home } = s ∧
          { t.cur with
            pc := s.cur.pc, answers := s.cur.answers, xfers := s.cur.xfers, binds := s.cur.binds } = s.cur))) ∧
  (∀ (cm : BitVec 2) (s : State), s.cur.status = .running →
    ((∀ y ∈ s.cur.xfers, y.cm ≠ cm) → ∃ t h', exec (.cmask cm) s = .next t ∧ Retires 8 h' s t ∧
      { h' with m := s.cur.m, binds := s.cur.binds } = s.cur ∧
      (∀ j < 8, h'.m.getD j .reset = if j = cm.toNat + 4 then ⟨0, 0⟩ else s.cur.m.getD j .reset) ∧
      ∀ j < 4, h'.binds.getD j none = if j = cm.toNat then none else s.cur.binds.getD j none) ∧
    ∀ x f, s.cur.xfers = [x] → x.cm = cm → x.stopped = some f →
      (∀ k : Nat, x.started.getLsbD k = true → x.finished.getLsbD k = true) → Traps (.cmask cm) 8 (copyTrap x f) s) ∧
  ∀ (pred succ : BitVec 8) (sc : Scope) (s : State),
    ((pred = 0 ∨ succ = 0) → ∃ t, exec (.fence pred succ sc) s = .next t ∧ Retires 4 s.cur s t) ∧
    (s.cur.status = .running → s.cur.xfers = [] → pred ≠ 0 → succ ≠ 0 → ∃ t, exec (.fence pred succ sc) s = .next t ∧
      t.cur.pc = s.cur.pc + 4 ∧
      let matrix : Prop := pred.getLsbD 0 = true ∨ pred.getLsbD 1 = true
      let copies : Prop := pred.getLsbD 3 = true ∨ pred.getLsbD 2 = true
      (matrix → ∀ o ∈ t.cur.matq, ¬ActsInMemory o) ∧
      (¬matrix → t.cur.matq = s.cur.matq ∧ t.cur.tiles = s.cur.tiles) ∧
      t.cur.flights = (if copies then [] else s.cur.flights) ∧
      ((pred.getLsbD 6 = true ∨ pred.getLsbD 4 = true) → (sc ≠ .hart ∧ sc ≠ .core) →
        ∀ a, t.homeByte a = t.coreByte (own s) a) ∧
      ((¬matrix ∨ ∀ o ∈ s.cur.matq, ¬WritesMemory o) → (¬copies ∨ s.cur.flights = []) → BytesSame s t ∧
        { t with
          cur := s.cur, cores := s.cores, home := s.home, fresh := s.fresh, banks := s.banks, raa := s.raa
          buses := s.buses } = s ∧
        (∀ b, { t.bank b with power := .act } = { s.bank b with power := .act }) ∧
        { t.cur with
          pc := s.cur.pc, answers := s.cur.answers, tiles := s.cur.tiles, matq := s.cur.matq, flights := s.cur.flights
          csr := { t.cur.csr with wakes := s.cur.csr.wakes } } = s.cur ∧
        ((¬matrix ∨ ∀ o ∈ s.cur.matq, ¬ActsInMemory o) →
          t.banks = s.banks ∧ t.raa = s.raa ∧ t.buses = s.buses ∧ t.cur.csr = s.cur.csr)))

/-- R216, R217, R273: a chunk of a transfer between ordinary buffers is moved whole: its bits are set, each byte of its
destination takes the source's byte, or zero, at its home, at once or later (`Lands`; DESIGN CHOICE, log entry 87), and no
other byte changes; of a stopped transfer only a chunk that had started moves. Source and destination are checked before
anything is copied; one that fails a check stops the transfer with the chunk and the fault. A transfer with every chunk
finished ends, and arrives at its barrier once, after the writes of its chunks (R231). (The channel's accesses are those of
its own master in the access tables: `reachChan`; DESIGN CHOICE, log entry 21.) -/
def Obligations.CopyEngine : Prop :=
  (∀ (x : Xfer) (k : Nat) (b : BufInfo) (d : Found) (s s1 : State), s.cur.status ≠ .vacant →
    s.cur.xfers.find? (fun y => y.id == x.id) = some x → (x.stopped = none ∨ x.started.getLsbD k = true) →
    k < chunkCount x → x.finished.getLsbD k = false → s.asked (x.postSlot k) = false → x.zero = true →
    s.reachChan ⟨addrIdx x.dst, .write, false, false, true⟩ (chunkAccess x x.dst k) = .ok d s1 →
    d.sp = .mem b → b.cls ≠ 2 → (∀ p ∈ d.ps, ∃ pa, p.loc = .pkg pa) → PlainFlights s x →
    ∃ t, exec (.copyChunk s.cur.key x.id k) s = .next t ∧ TouchesStore s t ∧ CopyHart s (sameStore s t) ∧ KeepsX s t ∧
      t.cur.pc = s.cur.pc ∧ Finishes s t x k ∧
      Lands s x (inFlight s x (cellsOf d.ps (List.replicate (chunkAccess x x.dst k).n 0))) t) ∧
  (∀ (x : Xfer) (k : Nat) (b : BufInfo) (q d : Found) (s s1 s2 : State), s.cur.status ≠ .vacant →
    s.cur.xfers.find? (fun y => y.id == x.id) = some x → (x.stopped = none ∨ x.started.getLsbD k = true) →
    k < chunkCount x → x.finished.getLsbD k = false → s.asked (x.postSlot k) = false → x.zero = false →
    addrIdx x.src ≠ addrIdx x.dst →
    s.reachChan ⟨addrIdx x.src, .read, false, true, true⟩ (chunkAccess x x.src k) = .ok q s1 →
    (∀ p ∈ q.ps, ∃ pa, p.loc = .pkg pa ∧ Unpoisoned s pa p.n) →
    (s1.flushPieces q.ps).reachChan ⟨addrIdx x.dst, .write, false, false, true⟩ (chunkAccess x x.dst k) = .ok d s2 →
    d.sp = .mem b → b.cls ≠ 2 → (∀ p ∈ d.ps, ∃ pa, p.loc = .pkg pa) → PlainFlights s x →
    ∃ t, exec (.copyChunk s.cur.key x.id k) s = .next t ∧ TouchesStore s t ∧ CopyHart s (sameStore s t) ∧ KeepsX s t ∧
      t.cur.pc = s.cur.pc ∧ Finishes s t x k ∧ Lands s x (inFlight s x (cellsOf d.ps (bytesAt s q.ps))) t) ∧
  (∀ (x : Xfer) (k : Nat) (e : Trap) (s : State), s.cur.status ≠ .vacant →
    s.cur.xfers.find? (fun y => y.id == x.id) = some x → (∀ y ∈ s.cur.xfers, y.id = x.id → y = x) →
    k < chunkCount x → x.finished.getLsbD k = false → s.asked (x.postSlot k) = false →
    let held (wr : Bool) (s1 : State) : Prop := exec (.copyChunk s.cur.key x.id k) s = .next { s1 with
      cur := { s1.cur with xfers := s1.cur.xfers.map fun y => if y.id = x.id then
        { y with
          stopped := some ⟨k, e.cause, wr, BitVec.ofNat 64 e.erec1⟩
          started := y.started &&& ~~~(1#16384 <<< k) } else y } }
    (x.stopped ≠ none → x.started.getLsbD k = false → (∀ f ∈ s.cur.flights, f.xfer ≠ x.id) →
      exec (.copyChunk s.cur.key x.id k) s = .next s) ∧
    (x.stopped = none → x.zero = true → ∀ s1,
      s.reachChan ⟨addrIdx x.dst, .write, false, false, true⟩ (chunkAccess x x.dst k) = .trap e s1 → held true s1) ∧
    (x.stopped = none → x.zero = false → ∀ s1,
      s.reachChan ⟨addrIdx x.src, .read, false, true, true⟩ (chunkAccess x x.src k) = .trap e s1 → held false s1) ∧
    (x.stopped = none → x.zero = false → ∀ q s1 s2,
      s.reachChan ⟨addrIdx x.src, .read, false, true, true⟩ (chunkAccess x x.src k) = .ok q s1 →
      (∀ p ∈ q.ps, ∃ pa, p.loc = .pkg pa) →
      (s1.flushPieces q.ps).reachChan ⟨addrIdx x.dst, .write, false, false, true⟩ (chunkAccess x x.dst k) = .trap e s2 →
      held true s2)) ∧
  ∀ (x : Xfer) (s : State), s.cur.status ≠ .vacant → s.cur.xfers.find? (fun y => y.id == x.id) = some x →
    x.stopped = none → (∀ k < chunkCount x, x.finished.getLsbD k = true) →
    (x.bar = false → ∃ t, exec (.copyTransferFinish s.cur.key x.id) s = .next t ∧
      t.cur.xfers = s.cur.xfers.filter (fun y => y.id != x.id) ∧
      { t with cur := { t.cur with xfers := s.cur.xfers, answers := s.cur.answers } } = s) ∧
    let s1 := s.landAll fun f => f.xfer == x.id
    ∀ pa sp, x.bar = true → AtWord s1 x.xbar pa sp → Armed (valueAt s1 pa 8) →
      ∃ t, exec (.copyTransferFinish s.cur.key x.id) s = .next t ∧ TouchesStore s1 t ∧ BanksSame s1 t ∧
        CopyHart s1 (sameStore s1 t) ∧ KeepsX s t ∧
        t.cur.xfers = s.cur.xfers.filter (fun y => y.id != x.id) ∧ t.cur.m = s.cur.m ∧ t.cur.binds = s.cur.binds ∧
        t.cur.flights = s.cur.flights.filter (fun f => f.xfer != x.id) ∧
        t.cur.pc = s.cur.pc ∧ BytesPut s1 pa 8 (arrived (valueAt s1 pa 8)) t

/-- R211: `tkwait` retires when every producer has triggered, traps `BAR` with the first one that can never trigger, and
waits otherwise; a context that waits looks again at each TKWAIT_COMPLETE. `tktrig` with no transfer under way counts its
hart once, when the writes of its moved chunks have performed, with every byte of its core at the home. R212, R213: `task.spawn` reads its record and answers with the new task's
number, queued, or with a refusal code and nothing queued (that the record is read as a plain load, which `CODE`
refuses, is DEDUCED, log entry 48; the first task number is a DESIGN CHOICE, log entry 20). R308, R367: a task whose
harts have all exited or been killed ends once, and none after a device-fatal error. -/
def Obligations.Tasks : Prop :=
  (∀ s : State, LooksAtProducers (exec .tkwait s) s) ∧
  (∀ s : State, s.cur.status = .waiting .task → LooksAtProducers (exec (.tkwaitComplete s.cur.key) s) s) ∧
  (∀ s : State, s.cur.status = .running → s.cur.xfers = [] →
    let s1 := s.landAll fun _ => true
    ∃ t, exec .tktrig s = .next t ∧
    t.cur = { s.cur with
      pc := s.cur.pc + 4, answers := keepAnswers s.cur.answers, triggered := true, flights := [] } ∧
    (∀ a, t.homeByte a = s1.coreByte (own s) a) ∧ BytesSame s1 t ∧
    (∀ p, t.part p = if p = s.cur.part then { s.part p with tasks := (t.part p).tasks } else s.part p) ∧
    (∀ id, (t.part s.cur.part).task id = if id = s.cur.task.toNat
      then { s.curTask with trig := insertNat s.curTask.trig s.cur.member } else (s.part s.cur.part).task id) ∧
    { t with cur := s1.cur, cores := s1.cores, home := s1.home, parts := s1.parts } = s1) ∧
  (∀ (rd ra : BitVec 5) (pa : Nat) (sp : Space) (s : State), Clean s.cur [ra] →
    Reaches s .read false false (s.readX ra) ⟨0, [], ((s.readX ra).toNat % 2 ^ 40 : Nat), 64, 64⟩ pa sp →
    Unpoisoned s pa 64 → (s.part s.cur.part).nextTask < 2 ^ 63 →
    let p := s.part s.cur.part
    let field (o n : Nat) : Nat := valueAt s (pa + o) n
    ∃ t w, exec (.taskSpawn rd ra) s = .next t ∧ Touches s { t with parts := s.parts } ∧ AccessHart s t ∧
      WritesX rd w s t ∧ t.cur.pc = s.cur.pc + 4 ∧ BytesSame s t ∧ (∀ a, t.homeByte a = s.coreByte (own s) a) ∧
      (field 21 1 < 16 → 256 ≤ (p.queues.getD (field 21 1) []).length → w = 0x8000000000000001) ∧
      (w.getLsbD 63 = true → 1 ≤ w.toNat % 2 ^ 63 ∧ w.toNat % 2 ^ 63 ≤ 5 ∧ t.parts = s.parts) ∧
      (w.getLsbD 63 = false → w.toNat = p.nextTask ∧ (∀ q, q ≠ s.cur.part → t.part q = s.part q) ∧
        1 ≤ field 16 2 ∧ field 16 2 ≤ 8192 ∧ (s.cur.supv = false → field 20 1 / 2 % 2 = 0) ∧
        (t.part s.cur.part).nextTask = p.nextTask + 1 ∧
        (∀ q < 16, (t.part s.cur.part).queues.getD q [] = p.queues.getD q [] ++ if q = field 21 1 then [w] else []) ∧
        (t.part s.cur.part).task p.nextTask = { Task.reset with
          entry := BitVec.ofNat 64 (field 0 8), arg := BitVec.ofNat 64 (field 8 8), harts := field 16 2
          tiles := field 18 1, spad := field 19 1, wide := field 20 1 % 2 == 1, supv := field 20 1 / 2 % 2 == 1
          queue := field 21 1
          producers := ((List.range 4).map fun j => BitVec.ofNat 64 (field (24 + 8 * j) 8)).take (field 22 1) })) ∧
  ∀ (part : Nat) (id : Word) (s : State), part < 32 →
    let p := s.part part
    let task := p.task id.toNat
    (s.dump.fatal = none → task.placed = true → task.ended = false → task.exited.length + task.killed.length = task.harts →
      exec (.taskEnd part id) s = .next (s.setPart part
        { p.setTask id.toNat { task with ended := true } with done := p.done ++ [id] })) ∧
    ((s.dump.fatal ≠ none ∨ task.placed = false ∨ task.ended = true ∨
        task.exited.length + task.killed.length ≠ task.harts) →
      exec (.taskEnd part id) s = .next s)

/-- R27, R219 to R224, R339, R345: a collective on a group register that is not valid traps `GROUP` (with an `EREC1`
that no rule states, DESIGN CHOICE, log entry 27). On a group of this device it contributes once; it traps `GROUP` when
the contributions disagree or a member was killed before its own; it waits while one is missing, and looks again at each
COLLECTIVE_COMPLETE; else every member takes its result. `gset` clears a register, sets it to a group that the table
registers, or traps `GROUP`. -/
def Obligations.Collectives : Prop :=
  (∀ (i : Instr) (r : CollRow) (s : State), collRow i = some r → Healthy s.cur →
    ((groupOf s.cur r.g).val = false → ∃ n t, exec i s = .next t ∧
      { t with fresh := s.fresh } = { s with cur := stoppedAt 8 { cause := 0x10, erec1 := n } s.cur }) ∧
    ∀ gc, (groupOf s.cur r.g).val = true → LocalGroup s r.g →
      let o := s.cur.opnd r.va
      let vl := s.cur.csr.vl.toNat
      let size := (groupOf s.cur r.g).sizem1.toNat + 1
      let k := contributed s r
      VecOperand s.cur r.va vl → r.tags o.tag → (r.parts = true → vl % size = 0) →
      (tagFamily o.tag = .block → k.span % 32 = 0) → (∀ x, r.root = some x → k.root < size) → o.dom = 0 →
      VecDest r.vd o.tag (if r.fn = 2 then k.span else vl) gc → LooksAtColl (exec i s) r.g r.vd r.m k s) ∧
  (∀ (g : BitVec 3) (vd : BitVec 6) (m : BitVec 2) (k : Contribution) (s : State),
    s.cur.status = .waiting (.coll g vd m k) →
    (∀ c ∈ (s.part s.cur.part).colls, ∀ q ∈ s.ranks s.cur.part c.gid c.size, q.dev = s.devid) →
    let s1 := s.endColls s.cur.part
    { s1 with parts := s.parts } = s ∧
      (LocalGroup s1 g → LooksAtColl (exec (.collectiveComplete s.cur.key) s) g vd m k s1)) ∧
  ∀ (gk : BitVec 3) (xa : BitVec 5) (s : State), Clean s.cur [xa] →
    let v := s.readX xa
    let g : Group := ⟨BitVec.ofNat 16 (v.toNat / 2 ^ 48), BitVec.ofNat 12 (v.toNat / 2 ^ 36),
      BitVec.ofNat 12 (v.toNat / 2 ^ 24), BitVec.ofNat 16 (v.toNat / 2 ^ 8), true⟩
    let sets (g : Group) : Prop := ∃ t h', exec (.gset gk xa) s = .next t ∧ Retires 8 h' s t ∧
      { h' with g := s.cur.g } = s.cur ∧ ∀ j < 8, h'.g.getD j .reset = if j = gk.toNat then g else s.cur.g.getD j .reset
    (v = 0 → sets ⟨0, 0, 0, 0, false⟩) ∧ (v ≠ 0 → s.inGroup g = true → sets g) ∧
    (v ≠ 0 → s.inGroup g = false → Traps (.gset gk xa) 8 { cause := 0x10, erec1 := v.toNat } s)

namespace Sys2Proof.Claims

/-! ## Saving and reporting contexts (R315-R328) -/

/-- The number of `n` bytes that host memory holds from `a` up (R10). -/
def hostNumber (s : State) (a n : Nat) : Nat := numberOf ((List.range n).map fun j => Memory.get s.host (a + j))

/-- The place of a context's save slot in host memory (R326, R344). -/
def slotBase (s : State) : Nat := (s.part s.cur.part).svbase.toNat % 2 ^ 63 + s.cur.saveSlot * 2 ^ 22

/-- The CSRs of the save image from offset 0x100 on (R327). -/
def savedWords (h : Hart) : List Nat :=
  let c := h.csr
  [h.pc.toNat, c.mp.toNat * 2 ^ 17 + c.tp.toNat * 2 ^ 16 + c.vl.toNat, c.fcsr.toNat, c.lctr.toNat, c.lrem.toNat,
    c.bwphase.toNat] ++ c.thr.toList.map BitVec.toNat ++
    [c.zcnt.toNat, c.rcnt.toNat, c.hcdist.toNat, c.hcidx2.toNat, c.hcdist2.toNat, c.hcflags.toNat, c.hcthr.toNat,
      c.epact.toNat, c.reqloc.toNat, c.reqrem.toNat, c.wakes.toNat, c.rmwc.toNat, c.epc.toNat, c.ecause.toNat,
      c.erec0.toNat, c.erec1.toNat, c.erec2.toNat, c.erec3.toNat, c.btbase.toNat]

/-- Only the host's memory, the signals and partition `p` may change. -/
def OnlyReports (p : Nat) (s t : State) : Prop :=
  { t with host := s.host, signals := s.signals, parts := s.parts } = s ∧ ∀ q, q ≠ p → t.part q = s.part q

/-- Where a ring's next entry of `n` bytes stands: base, entries, and counter (R310, R318). -/
def ringPlace (base : Word) (n log : Nat) (i : BitVec 32) : Nat := base.toNat + n * (i.toNat % 2 ^ log)

/-- The phase tag of a ring entry: 1 in the first lap (R310, R318). -/
def phaseTag (log : Nat) (i : BitVec 32) : Nat := if i.toNat / 2 ^ log % 2 = 0 then 1 else 0

/-- A ring is full (R310, R319). -/
def RingFull (log : Nat) (head tail : BitVec 32) : Prop := tail = head + BitVec.ofNat 32 (2 ^ log)

/-- Whether the head of queue `q` can never fit (R213, R302): the columns of its partition have fewer hart places for its
tiles and its scratchpad than it has harts, or fewer save slots. -/
def NeverFits (p : Partition) (q : Nat) : Prop :=
  ∃ id ids, p.queues.getD q [] = id :: ids ∧
    let t := p.task id.toNat
    let each (need : Nat) : Nat := if need = 0 then 32 else 8 / need
    ((List.range 256).filter fun k => p.colmap.getLsbD (k / 8)).length * min 32 (min (each t.tiles) (each t.spad)) < t.harts ∨
      p.svslots < t.harts

/-- More completion records wait than the completion queue has free entries (R303, R310). -/
def RecordsWait (p : Partition) : Prop := 2 ^ p.cqlog - (p.cqtail - p.cqhead).toNat < p.done.length

/-- The priority of a queue (R296). -/
def prioOf (p : Partition) (q : Nat) : Nat := p.qprio.toNat / 4 ^ q % 4

/-- What a decision chooses among the heads that fit now (R303): a queue that has been passed over 64 times, the lowest
first; else at the highest priority the saved context at the head of its resume list before its queues, and of these the
first after the one chosen last. Queues are closed while records wait. -/
def Chooses (s : State) (part : Nat) (c : Option Pick) : Prop :=
  let p := s.part part
  let fits (q : Nat) : Prop := q < 16 ∧ ¬RecordsWait p ∧ s.headFits part q = true
  let aged (q : Nat) : Prop := fits q ∧ 64 ≤ p.passed.getD q 0
  let queued (prio q : Nat) : Prop := fits q ∧ prioOf p q = prio
  let resumes (prio : Nat) : Prop := (s.resumeOn part prio 0).isSome = true
  let after (prio q : Nat) : Nat := (q + 31 - p.rr.getD prio 15 % 16) % 16
  let above (prio : Nat) : Prop := ∀ h, prio < h → h < 4 → ¬resumes h ∧ ∀ r, ¬queued h r
  match c with
  | some (.queue q) => aged q ∧ (∀ r < q, ¬aged r) ∨
      (∀ r, ¬aged r) ∧ fits q ∧ above (prioOf p q) ∧ ¬resumes (prioOf p q) ∧
        ∀ r, queued (prioOf p q) r → after (prioOf p q) q ≤ after (prioOf p q) r
  | some (.resume prio) => (∀ r, ¬aged r) ∧ prio < 4 ∧ resumes prio ∧ above prio
  | none => (∀ r, ¬aged r) ∧ ∀ prio < 4, ¬resumes prio ∧ ∀ r, ¬queued prio r

/-- The contexts of a partition on a core, and their needs, are within the core's slots, tiles and scratchpad (R300). -/
def WithinCore (s : State) (part k : Nat) : Prop :=
  let on := s.harts.filter fun h => h.placed && h.part == part && h.core.toNat == k
  on.length ≤ 32 ∧ (on.map Hart.ntiles).sum ≤ 8 ∧ (on.map Hart.spadUnits).sum ≤ 8

/-- The contexts that a column of a partition holds (R298). -/
def inColumn (s : State) (part c : Nat) : Nat :=
  (s.harts.filter fun h => h.placed && h.part == part && h.core.toNat / 8 == c).length

/-- A head waits at a priority (R304): of a resume list, or of a queue while no completion record waits. -/
def HeadWaits (p : Partition) (prio : Nat) : Prop :=
  prio < 4 ∧ (p.resume.getD prio [] ≠ [] ∨ ¬RecordsWait p ∧ ∃ q < 16, prioOf p q = prio ∧ p.queues.getD q [] ≠ [])

/-- A hart that a pre-emption may stop for a head of priority `prio` (R304): of lower priority, not stopping or exiting
(that one at its end is none is the model's choice, DEDUCED, log entry 51), and no hart of a producer, not yet triggered, of
a placed task. -/
def MayStop (s : State) (part prio : Nat) (h : Hart) : Prop :=
  let p := s.part part
  h ∈ s.harts ∧ h.part = part ∧ h.placed = true ∧ h.prio < prio ∧ h.request = none ∧
    (h.status = .running ∨ ∃ w, h.status = .waiting w ∧ w ≠ .exit) ∧
    (HasTriggered (p.task h.task.toNat) ∨
      ∀ x ∈ p.tasks, x.2.placed = true → x.2.ended = false → h.task ∉ x.2.producers)

/-- The victim of a pre-emption (R304): every column of the partition is above threshold; of the columns that hold one
that may be stopped the least occupied, the lowest first, and there the lowest priority, then the latest placed. -/
def IsVictim (s : State) (part : Nat) (h : Hart) : Prop :=
  let p := s.part part
  ∃ prio, HeadWaits p prio ∧ (∀ q, prio < q → ¬HeadWaits p q) ∧ MayStop s part prio h ∧
    (∀ c < 32, p.colmap.getLsbD c = true → p.dthr < inColumn s part c) ∧
    p.colmap.getLsbD (h.core.toNat / 8) = true ∧
    ∀ k, MayStop s part prio k → p.colmap.getLsbD (k.core.toNat / 8) = true →
      let c := h.core.toNat / 8
      let d := k.core.toNat / 8
      (inColumn s part c < inColumn s part d ∨ inColumn s part c = inColumn s part d ∧ c ≤ d) ∧
      (d = c → h.prio < k.prio ∨ h.prio = k.prio ∧ k.stamp ≤ h.stamp)

/-- A pre-emption of the partition is under way (R304: one after another). -/
def Stopping (s : State) (part : Nat) : Prop :=
  ∃ h ∈ s.harts, h.placed = true ∧ h.part = part ∧ h.victim = true

/-- No other context has the running one's key. -/
def OnlyOne (s : State) : Prop := s.cur.status ≠ .vacant ∧ ∀ h ∈ s.rest, h.isKey s.cur.key = false

end Sys2Proof.Claims

/-- R315, R325 to R328: TAKE_TRAP on a stopped context with no transfer under way performs the writes of its moved chunks
(log entry 87) and completes its matrix work, and its save begins.
The end of the save (CONTEXT_SAVE_END) puts its scalar registers, CSRs and dirty vector registers into its slot of the
host's memory, its core's bytes at their home, drops its pins and puts it where its reason says. R318, R319, R342:
FAULT_RECORD_WRITE waits while no record is due or the queue is full; else it writes the oldest one into the next entry,
with the record registers of the context's image or of a killed context, advances `TAIL` and signals, and changes no
other byte of the host's memory but the `PEND` bit of the image; the context is suspended, or gone when it was killed.
R323, R324: CONTEXT_KILL ends a placed context at once, with its `MEM` record to come and its core's bytes at home
(R242, R308). R367: no record follows a device-fatal error. R322: REGISTER_POISON marks its word and changes no bits. -/
def Obligations.TrapsAndFaults : Prop :=
  ((∀ (r : Reason) (s : State), s.cur.status = .stopping r → s.cur.xfers = [] →
     ∃ t, exec (.takeTrap s.cur.key) s = .next t ∧ t.cur.status = .saving r ∧ t.cur.matq = [] ∧
       t.cur.flights = [] ∧
       (s.cur.flights = [] → (∀ o ∈ s.cur.matq, ¬WritesMemory o) →
         { t with cur := s.cur, fresh := s.fresh, banks := s.banks, raa := s.raa, buses := s.buses } = s ∧
         (∀ b, { t.bank b with power := .act } = { s.bank b with power := .act }) ∧
         { t.cur with
           status := s.cur.status, matq := s.cur.matq, tiles := s.cur.tiles
           csr := { t.cur.csr with wakes := s.cur.csr.wakes } } = s.cur)) ∧
   ∀ (r : Reason) (s : State), s.cur.status = .saving r → OnlyOne s →
     (∀ h ∈ s.rest, h.status ≠ .waiting (.ctxSave s.cur.ctxid)) →
     (s.part s.cur.part).svbase.getLsbD 63 = false → s.cur.prio < 4 →
     let h := s.cur
     let p := s.part h.part
     let a := slotBase s
     ∃ t, exec (.contextSaveEnd h.key) s = .next t ∧
       t.cur.status = (match r with
         | .preempt => .queued
         | .trap => .recording
         | .ctxSave => .held) ∧
       t.cur.key = h.key ∧ t.cur.task = h.task ∧ t.cur.member = h.member ∧ t.cur.saveSlot = h.saveSlot ∧ t.rest = s.rest ∧
       (∀ i : BitVec 5, hostNumber t (a + 8 * i.toNat) 8 = (h.readX i).toNat) ∧
       (∀ i w, (savedWords h)[i]? = some w → hostNumber t (a + 0x100 + 8 * i) 8 = w) ∧
       (∀ k < 64, (h.vreg k).desc.dirty = true → ∀ j < min 2048 (128 * (h.vreg k).groups),
         Memory.get t.host (a + 0x5800 + 2048 * k + j) = BitVec.ofNat 8 ((h.vreg k).image / 256 ^ j)) ∧
       (∀ x, (x < a ∨ a + 2 ^ 22 ≤ x) → h.ntiles ≤ 8 → h.xfers.length ≤ 64 → Memory.get t.host x = Memory.get s.host x) ∧
       (∀ x, t.homeByte x = s.coreByte (own s) x) ∧ (∀ b, h.key ∉ (t.bank b).pins) ∧
       (∀ q, q ≠ h.part → t.part q = s.part q) ∧
       (t.part h.part).faults = p.faults ++ (if r = .trap then [h.ctxid] else []) ∧
       ∀ j < 4, (t.part h.part).resume.getD j [] =
         p.resume.getD j [] ++ if r = .preempt ∧ j = h.prio then [h.ctxid] else []) ∧
  (∀ (part : Nat) (s : State), part < 32 → let p := s.part part
    ((s.dump.fatal ≠ none ∨ p.faults = [] ∨
        RingFull p.fqlog p.head p.tail ∧ (∀ c ∈ p.faults, s.hart? ⟨part, c⟩ ≠ none)) →
      exec (.faultRecordWrite part) s = .next s) ∧
    ∀ c cs h, s.dump.fatal = none → p.faults = c :: cs → s.hart? ⟨part, c⟩ = some h → ¬RingFull p.fqlog p.head p.tail →
      let a := ringPlace p.fqbase 64 p.fqlog p.tail
      let slot := p.svbase.toNat % 2 ^ 63 + h.saveSlot * 2 ^ 22
      let entry (t : State) (rec : List Nat) : Prop := ((List.range 8).map fun j => hostNumber t (a + 8 * j) 8) =
        [phaseTag p.fqlog p.tail * 2 ^ 63 + h.member % 2 ^ 13 * 2 ^ 32 + c.toNat, h.task.toNat] ++ rec
      ∃ t, exec (.faultRecordWrite part) s = .next t ∧ (t.part part).tail = p.tail + 1 ∧ (t.part part).faults = cs ∧
        t.signals = s.signals ++ [.vf part 0] ∧
        (h.status ≠ .killed →
          t.harts = s.harts.map (fun x => if x.isKey h.key then { x with status := .suspended } else x) ∧
          (p.svbase.getLsbD 63 = false → (slot + 0x288 ≤ a ∨ a + 64 ≤ slot + 0x280) →
            entry t ((List.range 6).map fun i => hostNumber s (slot + 0x1C8 + 8 * i) 8) ∧
            hostNumber t (slot + 0x280) 8 =
              hostNumber s (slot + 0x280) 8 - hostNumber s (slot + 0x280) 8 / 4 % 2 * 4 ∧
            (∀ x, (x < a ∨ a + 64 ≤ x) → (x < slot + 0x280 ∨ slot + 0x288 ≤ x) →
              Memory.get t.host x = Memory.get s.host x) ∧
            OnlyReports part s { t with cur := s.cur, rest := s.rest })) ∧
        (h.status = .killed →
          t.harts = s.harts.map (fun x => if x.isKey h.key then .reset else x) ∧
          entry t [h.csr.epc.toNat, h.csr.ecause.toNat, h.csr.erec0.toNat, h.csr.erec1.toNat, h.csr.erec2.toNat,
            h.csr.erec3.toNat] ∧
          (∀ x, (x < a ∨ a + 64 ≤ x) → Memory.get t.host x = Memory.get s.host x) ∧
          OnlyReports part s { t with
            cur := s.cur, rest := s.rest, ports := s.ports, buckets := s.buckets, stalled := s.stalled
            fresh := s.fresh } ∧
          (p.gtcount = 0 → OnlyReports part s { t with cur := s.cur, rest := s.rest }))) ∧
  (∀ (part : Nat) (v : Word) (s : State), part < 32 → exec (.faultQueueHeadWrite part v) s =
    .next (s.setPart part { s.part part with head := v.setWidth 32 })) ∧
  (∀ (pa sub : Nat) (s : State), s.cur.placed = true → sub < 4 →
    let h := s.cur
    let p := s.part h.part
    ∃ t, exec (.contextKill h.key pa sub) s = .next t ∧ t.cur.status = .killed ∧ t.cur.xfers = [] ∧ t.cur.matq = [] ∧
      t.cur.csr.epc = h.pc ∧ t.cur.csr.ecause = BitVec.ofNat 64 (sub * 2 ^ 8 + 0x12) ∧ t.cur.csr.erec0 = 0x212 ∧
      t.cur.csr.erec1 = BitVec.ofNat 64 (pa / 2 ^ 37 * 2 ^ 32 + pa % 2 ^ 16 / 256 * 2 ^ 21 + pa / 2 ^ 16 % 2 ^ 21) ∧
      (t.part h.part).faults = p.faults ++ [h.ctxid] ∧
      (∃ d, (HasTriggered s.curTask → d = false) ∧ (¬HasTriggered s.curTask → d = true) ∧
        (t.part h.part).task h.task.toNat =
          { s.curTask with killed := insertNat s.curTask.killed h.member, dead := d }) ∧
      (∀ b, h.key ∉ (t.bank b).pins) ∧ t.cur.x = h.x ∧ t.cur.v = h.v ∧ t.cur.flights = [] ∧
      (h.flights = [] →
        (∀ x, t.homeByte x = s.coreByte (own s) x ∧ t.coreByte (own s) x = s.coreByte (own s) x) ∧
        { t with
          cur := s.cur, parts := s.parts, banks := s.banks, fresh := s.fresh, cores := s.cores, home := s.home } = s)) ∧
  ∀ s : State, OnlyOne s → s.cur.placed = true →
    let h := s.cur
    (∀ r : BitVec 5, r ≠ 0#5 → exec (.registerPoison h.key (.scalar r)) s =
      .next { s with cur := { h with xPoison := h.xPoison ||| (1 <<< r.toNat) } }) ∧
    (∀ (r : BitVec 6) (w : BitVec 8), ∃ t, exec (.registerPoison h.key (.vreg r w)) s = .next t ∧
      { t with cur := { t.cur with v := h.v } } = s ∧
      ∀ k < 64, t.cur.vreg k = if k = r.toNat
        then { h.vreg k with poison := (h.vreg k).poison ||| (1 <<< w.toNat) } else h.vreg k) ∧
    (∀ (m : BitVec 3) (w : BitVec 8), m ≠ 0#3 → ∃ t, exec (.registerPoison h.key (.mask m w)) s = .next t ∧
      { t with cur := { t.cur with m := h.m } } = s ∧
      ∀ k < 8, t.cur.m.getD k .reset = if k = m.toNat
        then { h.m.getD k .reset with poison := (h.m.getD k .reset).poison ||| (1 <<< w.toNat) } else h.m.getD k .reset) ∧
    ∀ (k : BitVec 3) (e : BitVec 14), k.toNat < h.ntiles → ∃ t, exec (.registerPoison h.key (.tile k e)) s = .next t ∧
      { t with cur := { t.cur with tiles := h.tiles } } = s ∧
      ∀ j < 8, t.cur.tiles.getD j .reset = if j = k.toNat
        then { h.tiles.getD j .reset with poison := insertNat (h.tiles.getD j .reset).poison e.toNat }
        else h.tiles.getD j .reset


/-- R34, R298 to R303, R350: a decision of the dispatcher refuses a record that can never fit, places the head that it
chooses, with every hart of the task at its launch state on a core that has room, in a column that was not above
threshold and does not drain, resumes the head of a resume list (R305, R329; one whose consuming `exit` is skipped ends as that does, R320), or does
nothing; what it chooses, R303 says. R304: a pre-emption stops the victim that the rule names, or nothing. R343: the host's doorbell queues a record or
refuses it. R309, R310: a completion record goes into the next entry when there is room. R320: the host kills a
suspended context. R367: after a device-fatal error nothing is launched and no record is written. The model's choices: which
hart and save slots a placement takes is free (DESIGN CHOICE, log entry 20), an odd entry address launches at the even one
below it (DESIGN CHOICE, log entry 50), and a hart at its end is no victim (DEDUCED, log entry 51). -/
def Obligations.Dispatching : Prop :=
  (∀ (part : Nat) (s : State), part < 32 → let p := s.part part
    (p.en = false → exec (.dispatchDecision part) s = .next s) ∧
    Chooses s part (s.choose part) ∧
    (p.en = true → (∀ q < 16, ¬NeverFits p q) → s.choose part = none →
      exec (.dispatchDecision part) s = .next s) ∧
    (∀ prio, p.en = true → (∀ q < 16, ¬NeverFits p q) → s.choose part = some (.resume prio) →
      ∃ t c cs x, exec (.dispatchDecision part) s = .next t ∧ p.resume.getD prio [] = c :: cs ∧
        (∀ j < 4, (t.part part).resume.getD j [] = if j = prio then cs else p.resume.getD j []) ∧
        (t.part part).queues = p.queues ∧ t.hart? ⟨part, c⟩ = some x ∧
        (x.status = .running ∨ x.status = .waiting .phase ∨ x.status = .killed ∨
          x.status = .waiting .exit ∨ x.status = .stopping .trap) ∧
        p.colmap.getLsbD (x.core.toNat / 8) = true ∧ p.draining.getLsbD (x.core.toNat / 8) = false ∧
        inColumn s part (x.core.toNat / 8) ≤ p.dthr) ∧
    (∀ q id, p.en = true → q < 16 → NeverFits p q → (∀ r < q, ¬NeverFits p r) → p.headTask q = some id →
      ∃ t, exec (.dispatchDecision part) s = .next t ∧
        (t.part part).task id = { p.task id with refused := 5, ended := true } ∧
        (t.part part).queues.getD q [] = (p.queues.getD q []).tail ∧ (t.part part).done = p.done ++ [BitVec.ofNat 64 id] ∧
        { t with parts := s.parts } = s) ∧
    ∀ q id, p.en = true → (∀ q < 16, ¬NeverFits p q) → s.choose part = some (.queue q) →
      p.headTask q = some id →
      let task := p.task id
      ∃ t new, exec (.dispatchDecision part) s = .next t ∧ t.rest = s.rest ++ new ∧ new.length = task.harts ∧
        t.cur = s.cur ∧ (t.part part).task id = { task with placed := true } ∧
        (t.part part).queues.getD q [] = (p.queues.getD q []).tail ∧
        { t with
          rest := s.rest, parts := s.parts, clock := s.clock, fresh := s.fresh, cores := s.cores, home := s.home } = s ∧
        (task.spad = 0 → t.cores = s.cores ∧ t.home = s.home) ∧
        (∀ w ∈ task.producers, let u := p.task w.toNat
          u.placed = true ∨ HasTriggered u ∨ CannotTrigger u) ∧
        ∀ j h, new[j]? = some h → p.draining.getLsbD (h.core.toNat / 8) = false ∧
          inColumn s part (h.core.toNat / 8) ≤ p.dthr ∧ WithinCore t part h.core.toNat ∧
          h.status = .running ∧ h.part = part ∧ h.member = j ∧ h.harts = task.harts ∧
          h.task = BitVec.ofNat 64 id ∧ h.wide = task.wide ∧ h.supv = task.supv ∧ h.ntiles = task.tiles ∧
          h.spadUnits = task.spad ∧ p.colmap.getLsbD (h.core.toNat / 8) = true ∧
          h.pc.toNat = task.entry.toNat / 2 * 2 ∧
          (∀ r : BitVec 5, h.readX r = if r = 1#5 then BitVec.ofNat 64 (task.arg.toNat / 2 ^ 40 * 2 ^ 40)
            else if r = 2#5 then BitVec.ofNat 64 j else if r = 3#5 then BitVec.ofNat 64 task.harts else 0) ∧
          h.csr = .reset ∧ h.v = Hart.reset.v ∧ h.m = Hart.reset.m ∧ h.d = Hart.reset.d ∧
          h.shapes = Hart.reset.shapes ∧ h.g = Hart.reset.g ∧ h.tiles = Hart.reset.tiles ∧ h.xfers = [] ∧ h.spad = []) ∧
  (∀ (part : Nat) (s : State), part < 32 →
    let act : Prop := (s.part part).en = true ∧ ¬Stopping s part ∧ ∃ h, IsVictim s part h
    (act → ∃ h, IsVictim s part h ∧
      exec (.preempt part) s = .next (s.updHart h.key fun x => { x.stopFor .preempt with victim := true })) ∧
    (¬act → exec (.preempt part) s = .next s)) ∧
  (∀ (part : Nat) (rec : List Byte) (s : State), part < 32 → let p := s.part part
    ((rec.length ≠ 64 ∨ s.dump.fatal ≠ none) → exec (.hostLaunch part rec) s = .next s) ∧
    (rec.length = 64 → s.dump.fatal = none → let r := TaskRec.ofBytes rec
      ∃ t, exec (.hostLaunch part rec) s = .next t ∧ OnlyReports part s t ∧ t.signals = s.signals ∧
        (t.part part).nextTask = p.nextTask + 1 ∧
        (r.harts = 0 → p.nextTask < 2 ^ 63 → (t.part part).done = p.done ++ [BitVec.ofNat 64 p.nextTask] ∧
          (t.part part).queues = p.queues ∧ ((t.part part).task p.nextTask).ended = true ∧
          (r.last ≠ 0 → r.queue = 16 → hostNumber t r.last.toNat 8 = 2 ^ 63 + 2)) ∧
        (s.launchCode part false true r = 0 → p.nextTask < 2 ^ 63 → (t.part part).done = p.done ∧
          (∀ q < 16, (t.part part).queues.getD q [] =
            p.queues.getD q [] ++ if q = r.queue then [BitVec.ofNat 64 p.nextTask] else []) ∧
          (r.last ≠ 0 → hostNumber t r.last.toNat 8 = p.nextTask)))) ∧
  (∀ (part : Nat) (s : State), part < 32 → let p := s.part part
    ((s.dump.fatal ≠ none ∨ p.done = [] ∨ RingFull p.cqlog p.cqhead p.cqtail) →
      exec (.completionRecordWrite part) s = .next s) ∧
    ∀ id ids, s.dump.fatal = none → p.done = id :: ids → ¬RingFull p.cqlog p.cqhead p.cqtail →
      let task := p.task id.toNat
      let a := ringPlace p.cqbase 32 p.cqlog p.cqtail
      let tag := phaseTag p.cqlog p.cqtail * 2 ^ 53
      ∃ t, exec (.completionRecordWrite part) s = .next t ∧ OnlyReports part s t ∧ t.signals = s.signals ++ [.vf part 1] ∧
        t.part part = { p with done := ids, cqtail := p.cqtail + 1 } ∧
        (∀ x, (x < a ∨ a + 32 ≤ x) → Memory.get t.host x = Memory.get s.host x) ∧
        hostNumber t a 8 = id.toNat ∧
        (task.refused = 0 → hostNumber t (a + 16) 8 = task.exit0.toNat ∧ hostNumber t (a + 24) 8 = task.exitor.toNat ∧
          hostNumber t (a + 8) 8 = (if task.killed = [] then 0 else 2 ^ 54) + tag + task.killed.length % 2 ^ 14 * 2 ^ 16
            + task.killed.headD 0 % 2 ^ 13) ∧
        (task.refused ≠ 0 → task.refused < 2 ^ 8 → hostNumber t (a + 16) 8 = 0 ∧ hostNumber t (a + 24) 8 = 0 ∧
          hostNumber t (a + 8) 8 = task.refused * 2 ^ 56 + 2 ^ 55 + tag)) ∧
  (∀ (part : Nat) (v : Word) (s : State), part < 32 → exec (.cqheadWrite part v) s =
    .next (s.setPart part { s.part part with cqhead := v.setWidth 32 })) ∧
  ∀ (part : Nat) (v : Word) (s : State), part < 32 →
    let k : CtxKey := ⟨part, v.setWidth 32⟩
    ((∀ h, s.hart? k = some h → h.status ≠ .suspended ∧ h.status ≠ .held) → exec (.hostKill part v) s = .next s) ∧
    ∀ h, s.hart? k = some h → (h.status = .suspended ∨ h.status = .held) →
      ∃ t, exec (.hostKill part v) s = .next t ∧ t.harts = s.harts.map (fun x => if x.isKey k then .reset else x) ∧
        (∃ d, (HasTriggered ((s.part part).task h.task.toNat) → d = false) ∧
          (¬HasTriggered ((s.part part).task h.task.toNat) → d = true) ∧
          ∀ id, (t.part part).task id = if id = h.task.toNat
            then { (s.part part).task id with
              killed := insertNat ((s.part part).task id).killed h.member, dead := d }
            else (s.part part).task id) ∧
        { t with
          cur := s.cur, rest := s.rest, parts := s.parts, ports := s.ports, buckets := s.buckets, stalled := s.stalled
          fresh := s.fresh } = s

namespace Sys2Proof.Claims

/-! ## The device's own steps (R262-R267, R283-R293, R361-R365) -/

/-- A step that acts when `c` holds, as `P` says, and changes nothing else otherwise. -/
def ActsWhen (c : Prop) (i : Instr) (s : State) (P : State → Prop) : Prop :=
  (c → ∃ t, exec i s = .next t ∧ P t) ∧ (¬c → exec i s = .next s)

/-- Bank `b` has the power state `p`; every bank is as it was otherwise (R264). -/
def PowerIs (s t : State) (b : Nat) (p : Power) : Prop :=
  ∀ c, t.bank c = if c = b then { s.bank c with power := p } else s.bank c

/-- The activation count of a bank (R361). -/
def rowCount (s : State) (b : Nat) : Nat := tget 0 s.raa b

/-- A bank of SRAM, which has no activation count (R361). -/
def isSram (b : Nat) : Prop := 4096 ≤ b ∧ b < 6144

/-- The contexts `ks` have lost their acknowledged phases and pins (R266). -/
def Withdrawn (s t : State) (ks : List CtxKey) : Prop :=
  t.harts = s.harts.map (fun h => if h.status ≠ .vacant ∧ h.key ∈ ks ∧ 2 ≤ h.csr.phack.toNat
      then { h with csr := { h.csr with phack := 1 } } else h) ∧
    (∀ k ∈ ks, ∀ b, k ∉ (t.bank b).pins) ∧ { t with cur := s.cur, rest := s.rest, banks := s.banks } = s

/-- A page table entry maps a frame of a buffer of the running context's table that it may access (R265). -/
def Accessible (s : State) (e : Pte) : Prop :=
  e.val = true ∧ e.part = s.cur.part ∧ (e.kctx = 0 ∨ e.kctx = s.cur.ctxid.toNat) ∧
    ∃ i, (s.entryNow noCore s.cur.part s.cur.csr.btbase e.buf).info = some i ∧ i.owner = e.kctx

/-- A bank holds a mapped frame of a buffer of the running context's table that it may access, or the frame that such a one
migrates to (R263), or for a supervisor a frame of the partition's initial table (R265, R370). -/
def Covered (s : State) (b : Nat) : Prop :=
  (∃ x ∈ s.ptes, Accessible s x.2 ∧ frameBank (x.1 / 2 ^ 21) (x.1 % 2 ^ 21) = b) ∨
  (∃ m ∈ s.migrations, m.switched = false ∧ Accessible s (s.pte m.t m.src) ∧ frameBank m.t m.dst = b) ∨
  s.cur.supv = true ∧ ∃ x ∈ (s.part s.cur.part).table, frameBank x.2.1 x.2.2 = b

/-- The steps at a bank (R264 to R267, R361). -/
noncomputable def bankSteps (b : Nat) : List Instr :=
  [.bankIdleStandby b, .bankIdleRetention b, .bankWake b, .bankPowerOff b, .bankWakeForAllocation b, .phaseWithdraw b,
    .bankRetireRequest b, .remappingStep b, .refresh b, .refreshManagement b]

/-- A partition owns the channel of a frame's bank (R287). -/
def Owns (s : State) (part t f : Nat) : Prop := (s.part part).chmap.getLsbD (bankChan (frameBank t f)) = true

/-- `BUSY`, `ERR` and `ECODE` of a page table entry (R285). -/
def busy (e : Pte) : Prop := e.dw2.getLsbD 63 = true
/-- `ERR` (R285). -/
def failed (e : Pte) : Prop := e.dw2.getLsbD 62 = true
/-- `ECODE` (R285). -/
def errorCode (e : Pte) : Nat := e.dw2.toNat / 2 ^ 59 % 8
/-- `PROG` (R285, R293). -/
def progress (e : Pte) : Nat := e.dw2.toNat / 2 ^ 50 % 2 ^ 9

/-- An insert's reasons to be refused (R286), in the order that the model takes them: another entry of the table has its
key; its bank is retired, to be retired or reserved; its channel is no channel of the table that the partition has; a
reserved bit; the frame takes part in a migration (its code, and that of a reserved bank, are DESIGN CHOICE, log entry
15). -/
def insertFaults (s : State) (part t f : Nat) (v : Word) : List (Prop × Nat) :=
  let e := s.pte t f
  let b := s.bank (frameBank t f)
  let k : PageKey := ⟨part, v.toNat / 2 ^ 32, v.toNat / 2 ^ 8 % 2 ^ 24, e.ch, e.vpn⟩
  [(∃ x ∈ s.ptes, x.1 / 2 ^ 21 = t ∧ x.1 % 2 ^ 21 ≠ f ∧ x.2.has k = true, 1),
    (b.retired = true ∨ b.pending = true ∨ frameBank t f ∈ s.reserved, 2),
    (448 ≤ e.ch ∨ chanTable e.ch ≠ t ∨ (s.part part).chmap.getLsbD e.ch = false, 3),
    (e.dw1.toNat % 2 ^ 31 ≠ 0 ∨ e.dw2.toNat / 2 ^ 21 % 2 ^ 29 ≠ 0, 6),
    (∃ m ∈ s.migrations, m.t = t ∧ (m.dst = f ∨ m.src = f ∧ m.switched = true), 4)]

/-- A migration's reasons to be refused (R292): the entry is not valid, is busy or migrates; the destination does not
exist, is mapped, lies in a bank that takes no frame or that the partition does not own, or takes part in another one. -/
def migrationFaults (s : State) (part t f dst : Nat) : List (Prop × Nat) :=
  let e := s.pte t f
  let b := s.bank (frameBank t dst)
  [(e.val = false ∨ busy e ∨ ∃ m ∈ s.migrations, m.t = t ∧ m.src = f, 5),
    (tableFrames t ≤ dst ∨ (s.pte t dst).val = true ∨ b.retired = true ∨ b.pending = true ∨ b.power = .off ∨
      frameBank t dst ∈ s.reserved ∨ ¬Owns s part t dst ∨ ∃ m ∈ s.migrations, m.t = t ∧ (m.dst = dst ∨ m.src = dst), 4)]

/-- The first of some reasons that holds has the code `n`. -/
def FirstFault (l : List (Prop × Nat)) (n : Nat) : Prop :=
  ∃ pre post c, l = pre ++ (c, n) :: post ∧ c ∧ ∀ x ∈ pre, ¬x.1

/-- A frame that exists (R284). -/
def FrameOf (t f : Nat) : Prop := t < 16 ∧ f < tableFrames t

/-- Only page table entry `f` of table `t` and bank `b` may differ in their tables. -/
def OnlyEntry (s u : State) (t f b : Nat) : Prop :=
  (∀ t' f', t' < 16 → f' < 2 ^ 21 → (t' ≠ t ∨ f' ≠ f) → u.pte t' f' = s.pte t' f') ∧ ∀ c, c ≠ b → u.bank c = s.bank c

end Sys2Proof.Claims

/-- R265, R266: a write of `BWPHASE` below `STREAM` is acknowledged at once and drops the pins; a raise waits for
PHASE_ACKNOWLEDGE, which wakes and pins the banks that the context covers; from 3 to 2 the pins stay (DEDUCED, log entry
52). R262, R264, R266, R267, R361: the power states of a bank and what each change asks for, the pins being those of the
banks that each acknowledged phase covers (`repinAll`, R263, R265); none goes to `RET` while an earlier access has still to
find it (R266); a bank woken for allocation reads as zeros; retirement; and the activation counts. R364: a demand at a bank
releases its bus (which bank lies on which bus, and that each access is one activation, is a DESIGN CHOICE, log entry 24).
That a step at a bank that does not exist answers `noSuchUnit` is the model's choice (DESIGN CHOICE, log entry 72). -/
def Obligations.PhasesAndBanks : Prop :=
  ((∀ (v : Word) (s : State), s.cur.status ≠ .vacant →
     let p : BitVec 2 := v.setWidth 2
     let h := s.cur
     let i := Instr.bwphaseWrite h.key v
     (p.toNat ≤ 1 → ∃ t, exec i s = .next t ∧
       t.cur = { h with csr := { h.csr with bwphase := p, phack := p }, raise := none } ∧
       (∀ b, h.key ∉ (t.bank b).pins) ∧ { t with cur := s.cur, banks := s.banks } = s) ∧
     (1 < p.toNat → p.toNat ≤ h.csr.phack.toNat → exec i s = .next { s with
       cur := { h with csr := { h.csr with bwphase := p, phack := p }, raise := none } }) ∧
     (1 < p.toNat → h.csr.phack.toNat < p.toNat → exec i s = .next { s with
       cur := { h with csr := { h.csr with bwphase := p }, raise := some p } })) ∧
   ∀ s : State, s.cur.status ≠ .vacant →
     let h := s.cur
     (h.raise = none → exec (.phaseAcknowledge h.key) s = .next s) ∧
     ∀ p, h.raise = some p → ∃ t, exec (.phaseAcknowledge h.key) s = .next t ∧
       t.cur = { h with
         csr := { h.csr with phack := p }, raise := none
         status := if h.status = .waiting .phase then .running else h.status } ∧
       { t with cur := s.cur, banks := s.banks } = s ∧
       ∀ b, (Covered s b → h.key ∈ (t.bank b).pins ∧ (∀ k ∈ (s.bank b).pins, k ∈ (t.bank b).pins) ∧
           (t.bank b).power = (if p = 3#2 then .act else if (s.bank b).power = .act then .act else .stby) ∧
           (t.bank b).frames = (s.bank b).frames) ∧
         (¬Covered s b → t.bank b = s.bank b)) ∧
  (∀ (b : Nat) (s : State), b < 18432 →
    let k := s.bank b
    let s1 := s.repinAll
    let k1 := s1.bank b
    ActsWhen (k1.power = .act ∧ s1.burstOver b = false) (.bankIdleStandby b) s (fun t =>
      PowerIs s1 t b .stby ∧ { t with banks := s.banks } = s) ∧
    ActsWhen ((k1.power = .act ∨ k1.power = .stby) ∧ k1.pins = [] ∧ s.inCache b = false ∧ s.busyBank b = false)
      (.bankIdleRetention b) s (fun t =>
        PowerIs s1 t b .ret ∧ rowCount t b = 0 ∧ { t with banks := s.banks, raa := s.raa } = s) ∧
    (∀ h ∈ s.harts, ∀ o ∈ h.matq, ∀ ws pa w, o.write = .store ws → (.pkg pa, w) ∈ ws → paBank pa = b → s.busyBank b = true) ∧
    ActsWhen (k.power ≠ .off) (.bankWake b) s (fun t =>
      PowerIs s t b .act ∧ (∀ c, c ≠ b → rowCount t c = rowCount s c) ∧
      (¬isSram b → rowCount s b < s.raammt.getD (bankTable b) 0 → rowCount t b = rowCount s b + 1) ∧
      (∀ n, t.bus n = { s.bus n with quiesced := (s.bus n).quiesced && decide (n ≠ bankBus b) }) ∧
      { t with banks := s.banks, raa := s.raa, buses := s.buses } = s) ∧
    ActsWhen (k.frames = 0 ∧ s.inCache b = false ∧ b ∉ s.reserved) (.bankPowerOff b) s (fun t =>
      PowerIs s t b .off ∧ rowCount t b = 0 ∧ { t with banks := s.banks, raa := s.raa } = s) ∧
    ActsWhen (k.power = .off ∧ k.retired = false) (.bankWakeForAllocation b) s (fun t =>
      PowerIs s t b .stby ∧ (∀ f o, f < bankFrames (bankTable b) → o < 2 ^ 16 → ∀ c,
        t.coreByte c (physAddr (bankTable b) (bankFirst b + f) o) = 0) ∧
      (∀ x, (x < (bankSpan b).1 ∨ (bankSpan b).2 ≤ x) → t.homeByte x = s.homeByte x) ∧
      { t with banks := s.banks, mem := s.mem, home := s.home, cores := s.cores, poison := s.poison } = s) ∧
    ActsWhen (k.pending = true) (.phaseWithdraw b) s (fun t => Withdrawn s t k1.pins) ∧
    ActsWhen (k.retired = false) (.bankRetireRequest b) s (fun t =>
      (∀ c, t.bank c = if c = b then { k with pending := true } else s.bank c) ∧ { t with banks := s.banks } = s) ∧
    ActsWhen (k.pending = true ∧ k.frames = 0) (.remappingStep b) s (fun t =>
      (∀ c, t.bank c = if c = b then ⟨true, false, 0, .off, []⟩ else s.bank c) ∧ t.generation = s.generation + 1 ∧
      { t with banks := s.banks, raa := s.raa, generation := s.generation } = s) ∧
    ActsWhen (¬isSram b) (.refresh b) s (fun t =>
      (∀ c, rowCount t c = if c = b then rowCount s b - s.raaimt.getD (bankTable b) 0 else rowCount s c) ∧
      { t with raa := s.raa } = s) ∧
    ActsWhen (¬isSram b ∧ s.raaimt.getD (bankTable b) 0 ≤ rowCount s b) (.refreshManagement b) s (fun t =>
      (∀ c, rowCount t c = if c = b then rowCount s b - s.raaimt.getD (bankTable b) 0 else rowCount s c) ∧
      { t with raa := s.raa } = s)) ∧
  (∀ s : State, ∃ t ks, exec .thermalEmergency s = .next t ∧ Withdrawn s t ks ∧
    ∀ b, (t.bank b).pins = [] ∧ ∀ k, k ∈ (s.repinAll.bank b).pins → k ∈ ks) ∧
  (∀ s : State, twf .reset s.banks = true → ((s.harts.filter Hart.pins).map Hart.key).Nodup →
    { s.repinAll with banks := s.banks } = s ∧
    ∀ h ∈ s.harts, h.pins = true → ∀ b, h.key ∈ (s.repinAll.bank b).pins ↔ b ∈ s.coveredBanks h) ∧
  ∀ (b : Nat) (s : State), 18432 ≤ b → ∀ i ∈ bankSteps b, exec i s = .fault .noSuchUnit


/-- R363 to R365: Ember quiesces an idle bus and gives way to demand; during a pass a failing lane is logged once; in a
later quiesce the spare of its group takes the place of the first one, once; the second failing lane of a group retires
the banks that the bus reaches (which they are is a DESIGN CHOICE, log entry 24). The module has 56 buses; that a step at
another one answers `noSuchUnit` is the model's choice (DESIGN CHOICE, log entry 72). -/
def Obligations.Ember : Prop :=
  (∀ (n g l : Nat) (s : State), n < 56 →
    let b := s.bus n
    let put (t : State) (x : Bus) : Prop := ∀ k, t.bus k = if k = n then x else s.bus k
    (∃ t, exec (.emberQuiesce n) s = .next t ∧ { t with buses := s.buses } = s ∧
      (b.quiesced = true → put t b) ∧
      (b.quiesced = false → put t ⟨true, [], b.failed ++ b.found, b.spared⟩)) ∧
    (∃ t, exec (.emberDemandPreempt n) s = .next t ∧ put t { b with quiesced := false } ∧
      { t with buses := s.buses } = s) ∧
    ActsWhen (b.quiesced = true ∧ l < 33 ∧ (g, l) ∉ b.failed ∧ (g, l) ∉ b.found) (.emberLaneFailure n g l) s (fun t =>
      put t { b with found := b.found ++ [(g, l)] } ∧ t.log = s.log ++ [.lane n g l] ∧
      let second : Prop := g ∈ b.spared ∨ ∃ k, (g, k) ∈ b.failed ∨ (g, k) ∈ b.found
      (¬second → t.banks = s.banks) ∧
      (second → ∀ c, t.bank c = { s.bank c with
        pending := (s.bank c).pending || (decide (c < 18432 ∧ bankBus c = n) && !(s.bank c).retired) }) ∧
      { t with buses := s.buses, log := s.log, banks := s.banks } = s) ∧
    ((∀ x ∈ b.failed, x.1 ≠ g) → exec (.spareLaneRemap n g) s = .next s) ∧
    ∀ x, b.failed.find? (fun x => x.1 == g) = some x →
      ActsWhen (b.quiesced = true ∧ g ∉ b.spared) (.spareLaneRemap n g) s fun t =>
        put t { b with failed := b.failed.filter (· ≠ x), spared := insertNat b.spared g } ∧
        { t with buses := s.buses } = s) ∧
  ∀ (n g l : Nat) (s : State), 56 ≤ n → ∀ i ∈ [Instr.emberQuiesce n, .emberDemandPreempt n, .emberLaneFailure n g l,
    .spareLaneRemap n g], exec i s = .fault .noSuchUnit

/-- R279, R286, R287, R292: an entry inserted, refused with its code, updated or removed through its window, and a
migration started or refused with its code (a ninth one waits, DESIGN CHOICE, log entry 39). The frame of an `ACT` or
line-compressed buffer (which table says so is a DESIGN CHOICE, log entry 97) reads as zeros; that another one keeps its
bytes is DEDUCED (log entry 86), and the code for a bank in `OFF` free (DESIGN CHOICE, log entry 15). R263, R265: the bank counts the frame. R289 to R293: shoot-downs are
served core by core (the pages that one names are found by every entry that a core has used, DEDUCED, log entry 38),
each after the core's own writes, and complete when every core has acknowledged; a migration copies its lines, bytes and
tags, in order after its first shoot-down, switches the entries when all are copied, and ends with its second
shoot-down. -/
def Obligations.Translation : Prop :=
  ((∀ (part t f : Nat) (v : Word) (s : State), part < 32 → FrameOf t f →
     let e := s.pte t f
     let b := frameBank t f
     let i := Instr.pteInsert part t f v
     (¬Owns s part t f → exec i s = .next s) ∧
     (Owns s part t f → e.val = true → ∃ u, exec i s = .next u ∧ { u with ptes := s.ptes } = s ∧ OnlyEntry s u t f b ∧
       u.bank b = s.bank b ∧ (u.pte t f).val = true ∧ (u.pte t f).d = v.getLsbD 1 ∧ (u.pte t f).a = v.getLsbD 2 ∧
       (u.pte t f).dw0 >>> 3 = e.dw0 >>> 3 ∧ (u.pte t f).dw1 = e.dw1 ∧ (u.pte t f).dw2 = e.dw2) ∧
     (Owns s part t f → e.val = false → ∃ u, exec i s = .next u ∧ OnlyEntry s u t f b ∧ (u.pte t f).ch = e.ch ∧
       (u.pte t f).vpn = e.vpn ∧ u.cur = s.cur ∧ u.rest = s.rest ∧
       (∀ c, { u.core c with l1 := [] } = { s.core c with l1 := [] }) ∧
       (failed (u.pte t f) → (u.pte t f).val = false ∧ u.bank b = s.bank b ∧
         { u with ptes := s.ptes, fresh := s.fresh } = s) ∧
       (∀ n, FirstFault (insertFaults s part t f v) n → failed (u.pte t f) ∧ errorCode (u.pte t f) = n) ∧
       (¬failed (u.pte t f) → (u.pte t f).val = true ∧ (u.pte t f).part = part ∧
         (u.pte t f).buf = v.toNat / 2 ^ 8 % 2 ^ 24 ∧ (u.pte t f).kctx = v.toNat / 2 ^ 32 ∧
         (u.bank b).frames = (s.bank b).frames + 1 ∧
         (∀ c x, x / 2 ^ 16 ≠ physAddr t f 0 / 2 ^ 16 → u.coreByte c x = s.coreByte c x) ∧
         let coded : Prop := (4 ≤ t ∧ t < 8) ∨
           ∃ i, s.frameEntry part 0x40000000000 (v.toNat / 2 ^ 32) (v.toNat / 2 ^ 8 % 2 ^ 24) = some i ∧ i.lc = true
         (coded → ∀ c o, o < 2 ^ 16 → u.coreByte c (physAddr t f o) = 0) ∧
         (¬coded → ∀ c x, u.coreByte c x = s.coreByte c x)) ∧
       ((s.bank b).power = .off → failed (u.pte t f)))) ∧
   (∀ (part t f : Nat) (v : Word) (s : State), part < 32 → FrameOf t f →
     let e := s.pte t f
     let b := frameBank t f
     let i := Instr.pteRemove part t f v
     (¬Owns s part t f → exec i s = .next s) ∧
     (Owns s part t f → e.val = true → busy e → exec i s = .next s) ∧
     (Owns s part t f → e.val = true → ¬busy e → ∃ u, exec i s = .next u ∧ OnlyEntry s u t f b ∧
       (u.pte t f).val = false ∧ (u.pte t f).dw0 >>> 3 = e.dw0 >>> 3 ∧ (u.pte t f).dw1 = e.dw1 ∧
       { u.bank b with pins := (s.bank b).pins } = { s.bank b with frames := (s.bank b).frames - 1 } ∧
       (∀ k ∈ (u.bank b).pins, k ∈ (s.bank b).pins) ∧
       (s.cur.status ≠ .vacant → (s.cur.key ∈ (u.bank b).pins ↔ s.cur.key ∈ (s.bank b).pins ∧ Covered u b)) ∧
       { u with ptes := s.ptes, banks := s.banks } = s) ∧
     (Owns s part t f → e.val = false → ∃ u, exec i s = .next u ∧ OnlyEntry s u t f b ∧ u.bank b = s.bank b ∧
       (u.pte t f).val = false ∧ (u.pte t f).dw1 = e.dw1 ∧ (u.pte t f).dw2 = e.dw2 ∧ { u with ptes := s.ptes } = s)) ∧
   ∀ (part t f : Nat) (v : Word) (s : State), part < 32 → FrameOf t f → Owns s part t f →
     let e := s.pte t f
     let dst := v.toNat % 2 ^ 21
     let reasons := migrationFaults s part t f dst
     let b := frameBank t dst
     (∀ n, FirstFault reasons n → ∃ u, exec (.migrationStart part t f v) s = .next u ∧ { u with ptes := s.ptes } = s ∧
       OnlyEntry s u t f b ∧ (u.pte t f).dw2.toNat % 2 ^ 21 = dst ∧
       failed (u.pte t f) ∧ errorCode (u.pte t f) = n ∧ (u.pte t f).dw0 = e.dw0 ∧ (u.pte t f).dw1 = e.dw1) ∧
     ((∀ x ∈ reasons, ¬x.1) → ∃ u, exec (.migrationStart part t f v) s = .next u ∧
       OnlyEntry s u t f b ∧ (u.pte t f).dw2.toNat % 2 ^ 21 = dst ∧
       (∀ x, u.homeByte x = s.homeByte x ∨ x / 2 ^ 16 = physAddr t dst 0 / 2 ^ 16) ∧
       u.migrations = s.migrations ++ [⟨t, f, dst, e.part, e.ch, e.vpn, false⟩] ∧ busy (u.pte t f) ∧
       progress (u.pte t f) = 0 ∧ ¬failed (u.pte t f) ∧ (u.pte t f).dw0 = e.dw0 ∧ (u.pte t f).dw1 = e.dw1 ∧
       (u.bank b).frames = (s.bank b).frames + 1 ∧ (u.shoots.length = s.shoots.length + 1) ∧
       { u with
         ptes := s.ptes, banks := s.banks, migrations := s.migrations, shoots := s.shoots, frames := s.frames } = s)) ∧
  (∀ (part : Nat) (v : Word) (s : State), part < 32 →
    ActsWhen ((s.part part).shootBusy = false) (.hostShootdown part v) s fun t =>
      (t.part part).shootBusy = true ∧ (t.part part).shootKind = v.setWidth 2 ∧
      (∃ d, t.shoots = s.shoots ++ [d] ∧ d.part = part ∧ d.kind = v.setWidth 2 ∧ d.operand = (s.part part).shootv ∧
        d.host = true ∧ ∀ c, c ∈ d.cores ↔ c < 256 ∧ (s.part part).colmap.getLsbD (c / 8) = true) ∧
      { t with parts := s.parts, shoots := s.shoots } = s) ∧
  (∀ (c : Nat) (s : State), c < 256 → ((∀ d ∈ s.shoots, c ∉ d.cores) → exec (.responderShootdown c) s = .next s) ∧
    ∀ pre d post, s.shoots = pre ++ d :: post → (∀ x ∈ pre, c ∉ x.cores) → c ∈ d.cores →
      (∀ h ∈ s.harts, h.core.toNat = c → h.flights = [] ∧ ∀ o ∈ h.matq, ¬ActsInMemory o) →
      let gone := removes d.part d.kind d.operand d.pages
      ∃ t, exec (.responderShootdown c) s = .next t ∧
        t.shoots = pre ++ { d with cores := d.cores.filter (· ≠ c) } :: post ∧
        (∀ e, e ∈ (t.core c).gtlb ↔ e ∈ (s.core c).gtlb ∧ ¬gone e) ∧
        (∀ h ∈ t.harts, h.core.toNat = c → ∀ e ∈ h.utlb, ¬gone e) ∧
        (∀ k, k ≠ c → t.core k = s.core k) ∧ (t.core c).l1 = [] ∧ (∀ x, t.homeByte x = s.coreByte c x) ∧
        { t with cur := s.cur, rest := s.rest, cores := s.cores, home := s.home, shoots := s.shoots } = s) ∧
  (∀ (part : Nat) (s : State), part < 32 →
    ((∀ d ∈ s.shoots, d.part ≠ part ∨ d.cores ≠ []) → exec (.shootdownComplete part) s = .next s) ∧
    ∀ pre d post, s.shoots = pre ++ d :: post → (∀ x ∈ pre, x.part ≠ part ∨ x.cores ≠ []) → d.part = part →
      d.cores = [] → ∃ t, exec (.shootdownComplete part) s = .next t ∧ t.shoots = pre ++ post ∧
        (d.host = true → t.part part = { s.part part with shootBusy := false }) ∧ (d.host = false → t.parts = s.parts) ∧
        { t with parts := s.parts, shoots := s.shoots } = s) ∧
  ∀ (t f : Nat) (m : Migration) (s : State), FrameOf t f → s.migration? t f = some m → m.dst ≠ f → FrameOf t m.dst →
    let e := s.pte t f
    let n := progress e
    let from_ := physAddr t f (256 * n)
    ActsWhen (m.switched = false ∧ n < 256 ∧ s.migrationRuns m = true ∧ s.pageShooting m.part m.ch m.cp = false)
      (.migrationLineCopy t f) s (fun u =>
        progress (u.pte t f) = n + 1 ∧ u.migrations = s.migrations ∧
        (u.frame t m.dst).tags.toNat / 2 ^ (4 * n) % 8 = (s.frame t f).tags.toNat / 2 ^ (4 * n) % 8 ∧
        ((∀ c x, from_ ≤ x → x < from_ + 256 → overlayGet (s.core c).l1 x = none) → ∀ j < 256,
          u.homeByte (physAddr t m.dst (256 * n) + j) = s.homeByte (from_ + j))) ∧
    ActsWhen (m.switched = false ∧ 256 ≤ n) (.migrationSwitch t f) s (fun u =>
      (u.pte t m.dst).dw0 = e.dw0 ∧ (u.pte t m.dst).dw1 = e.dw1 ∧ (u.pte t f).val = false ∧ ¬busy (u.pte t f) ∧
      u.migrations = s.migrations.map (fun x => if x = m then { x with switched := true } else x) ∧
      (u.bank (frameBank t f)).frames = (s.bank (frameBank t f)).frames - 1 ∧
      u.shoots.length = s.shoots.length + 1 ∧ u.home = s.home ∧ ∀ x, u.homeByte x = s.homeByte x) ∧
    ActsWhen (m.switched = true ∧ s.pageShooting m.part m.ch m.cp = false) (.migrationEnd t f) s fun u =>
      u = { s with migrations := s.migrations.filter (· ≠ m) }


/-- R273, R281, R283, R295: lines written back keep every byte as it reads; an uncorrectable error poisons its granule,
or both granules of a line whose tags it hits; a prefetch or scout of the sequencer changes at most `PFDROP` (which kind of
read it is for is free, DESIGN CHOICE, log entry 93). -/
def Obligations.LineSteps : Prop :=
  (∀ (k : CtxKey) (a : Word) (s : State), ∃ t, exec (.linePrefetch k a) s = .next t ∧
    { t with cores := s.cores, fresh := s.fresh } = s ∧
    ∀ c, { t.core c with pfdrop := 0 } = { s.core c with pfdrop := 0 }) ∧
  (∀ (line : Nat) (s : State), 2 * line ∉ s.poison → 2 * line + 1 ∉ s.poison →
    ∃ t, exec (.lineWriteback line) s = .next t ∧ (∀ a, t.homeByte a = s.homeByte a) ∧
      (∀ a, a / 256 = line → overlayGet t.home a = none) ∧
      (∀ b, { t.bank b with power := .act } = { s.bank b with power := .act }) ∧
      { t with
        mem := s.mem, home := s.home, frames := s.frames, banks := s.banks, raa := s.raa, buses := s.buses } = s) ∧
  (∀ (core sector : Nat) (s : State), core < 256 → ∃ t, exec (.dirtySectorWriteback core sector) s = .next t ∧
    (∀ a, t.homeByte a = if a / 64 = sector then s.coreByte core a else s.homeByte a) ∧
    (∀ a, t.coreByte core a = s.coreByte core a) ∧ { t with cores := s.cores, home := s.home } = s) ∧
  ∀ (nibble : Bool) (pa : Nat) (s : State), ∃ t, exec (.uncorrectableMemoryError nibble pa) s = .next t ∧
    { t with poison := s.poison } = s ∧
    ∀ g, g ∈ t.poison ↔ g ∈ s.poison ∨ (if nibble then g / 2 = pa / 256 else g = pa / 128)

namespace Sys2Proof.Claims

/-! ## Partitions (R262, R341, R344, R348-R351, R370) -/

/-- Only partition `p`, and the signals and access tables, may change. -/
def OnlyPartition (p : Nat) (s t : State) : Prop :=
  { t with parts := s.parts, signals := s.signals, access := s.access } = s ∧ ∀ q, q ≠ p → t.part q = s.part q

/-- The share of injector `j` on the lines of Blufold-X, or of Blufold-D (R349): the 256 cores and their four copy channels
each (R227) act for the partition that owns their column, a function for its partition. -/
def shareOf (s : State) (j : Nat) (x : Bool) : Nat :=
  let share (p : Partition) : Nat := if x then p.bwx.toNat else p.bwd.toNat
  let core := if j < 256 then j else (j - 256) / 4
  if 1280 ≤ j then share (s.part (j - 1280))
  else ((s.parts.find? fun y => y.2.colmap.getLsbD (core / 8)).map fun y => share y.2).getD 0

/-- Segment `g` holds an allocated frame (R262). -/
def SegmentInUse (s : State) (g : Nat) : Prop := ∃ j < 16, (s.bank (4096 + 16 * g + j)).frames ≠ 0

/-- The two instructions that write a partition's `COLMAP`, and those that write its `CHMAP` (R350, R351). -/
def colmapWrite (part : Nat) (m : BitVec 32) (i : Instr) : Prop := i = .columnAdd part m ∨ i = .columnRemove part m
/-- The instructions that write `CHMAP` (R351). -/
def chmapWrite (part : Nat) (m : BitVec 448) (i : Instr) : Prop := i = .channelAdd part m ∨ i = .channelDrop part m

/-- The configuration registers that a partition's own function writes (R344): whether only while `EN` = 0, and what a
write leaves. -/
def cfgRow : Nat → Option (Bool × (Word → Partition → Partition))
  | 0x100 => some (false, fun v p => { p with qprio := v.setWidth 32 })
  | 0x108 => some (false, fun v p => { p with dthr := min 256 v.toNat })
  | 0x110 => some (true, fun v p => { p with fqbase := BitVec.ofNat 64 (v.toNat / 64 * 64) })
  | 0x118 => some (true, fun v p => { p with fqlog := max 4 (min 16 v.toNat) })
  | 0x120 => some (true, fun v p => { p with cqbase := BitVec.ofNat 64 (v.toNat / 32 * 32) })
  | 0x128 => some (true, fun v p => { p with cqlog := max 4 (min 16 v.toNat) })
  | 0x130 => some (false, fun v p => { p with cqhead := v.setWidth 32 })
  | 0x140 => some (true, fun v p => { p with svbase := v })
  | 0x148 => some (true, fun v p => { p with svslots := min 8192 v.toNat })
  | 0x158 => some (false, fun v p => { p with gtbase := v })
  | 0x160 => some (false, fun v p => { p with gtcount := min 256 v.toNat })
  | 0x168 => some (false, fun v p => { p with rwtbase := v })
  | 0x170 => some (false, fun v p => { p with rwtcount := min 64 v.toNat })
  | 0x178 => some (true, fun v p => { p with btcount := max 4 (min (2 ^ 24) v.toNat) })
  | 0x190 => some (false, fun v p => { p with shootv := v })
  | 0x198 => some (false, fun v p => { p with cstbase := v })
  | 0x200 => some (false, fun v p => { p with head := v.setWidth 32 })
  | _ => none

/-- A configuration register of a partition as it reads (R344): zero where only writes are served (R9). -/
def cfgReads (p : Partition) (part devid : Nat) : Nat → Nat
  | 0x000 => (p.number.map BitVec.toNat).getD part
  | 0x008 => p.en.toNat + 2 * p.rszBusy.toNat + 4 * p.rszErr.toNat + 8 * (decide (p.segPending ≠ 0)).toNat +
      16 * p.segErr.toNat
  | 0x010 => p.colmap.toNat
  | 0x050 => p.bwd.toNat
  | 0x058 => p.bwx.toNat
  | 0x060 => devid
  | 0x100 => p.qprio.toNat
  | 0x108 => p.dthr
  | 0x110 => p.fqbase.toNat
  | 0x118 => p.fqlog
  | 0x120 => p.cqbase.toNat
  | 0x128 => p.cqlog
  | 0x130 => p.cqhead.toNat
  | 0x138 => p.cqtail.toNat
  | 0x140 => p.svbase.toNat
  | 0x148 => p.svslots
  | 0x150 => p.mdsize.toNat
  | 0x158 => p.gtbase.toNat
  | 0x160 => p.gtcount
  | 0x168 => p.rwtbase.toNat
  | 0x170 => p.rwtcount
  | 0x178 => p.btcount
  | 0x188 => p.shootKind.toNat + 2 ^ 63 * p.shootBusy.toNat
  | 0x190 => p.shootv.toNat
  | 0x198 => p.cstbase.toNat
  | 0x200 => p.head.toNat
  | _ => 0

/-- A host access of `n` bytes reads `bs`, and changes nothing else. -/
def HostReads (i : Instr) (s : State) (n v : Nat) : Prop :=
  ∃ bs : List Byte, exec i s = .next { s with hostRead := bs } ∧ bs.length = n ∧ numberOf bs = v

/-- The sum of the other enabled partitions' shares (R349). -/
def otherShares (s : State) (part : Nat) (x : Bool) : Nat :=
  ((s.parts.filter fun y => y.1 != part && y.2.en).map fun y => if x then y.2.bwx.toNat else y.2.bwd.toNat).sum

/-! ## Boot, identity, fatal errors (R352-R369) -/

/-- A device reset: nothing of the machine is left but what fuses, the non-volatile store and the outside world hold. -/
def Restarted (s t : State) : Prop :=
  t.cur = .reset ∧ t.rest = [] ∧ t.parts = [] ∧ t.cores = [] ∧ t.mem = [] ∧ t.home = [] ∧ t.ptes = [] ∧ t.banks = [] ∧
    t.frames = [] ∧ t.poison = [] ∧ t.access = [] ∧ t.boot.stage = 0 ∧ t.boot.ready = false ∧ t.boot.waitrec = false ∧
    t.boot.err = 0 ∧ t.boot.source = 0 ∧ t.boot.mr = Vector.replicate 4 0 ∧ t.boot.fuseSvn = s.boot.fuseSvn ∧
    t.boot.keyRev = s.boot.keyRev ∧ t.boot.devSer = s.boot.devSer ∧ t.host = s.host ∧ t.dump.fatal = none ∧
    t.stalled = [] ∧ t.boot.images = []

/-- The source can supply these bytes as an image (R353): the host's are the first of its window. -/
def Supplied (s : State) (source : Nat) (img : List Byte) : Prop :=
  source = 17 → img.length ≤ 2 ^ 26 ∧ img = (List.range img.length).map (Memory.get s.boot.window)

/-- Vectors and queues of the physical function's dump (R368): the stack that holds the area when a core is the cause. -/
def coreDump (core : Nat) : Nat := if core < 64 then 7 else 0

/-! ## The fabric (R331-R339) -/

/-- A packet of type `type` for this device comes in on a live port with no reserved bit set (R333). -/
def Arrives (s : State) (p : Packet) (type : Nat) : Prop :=
  p.port < 16 ∧ p.part < 32 ∧ (s.port p.port).up = true ∧ Pk.reserved p = false ∧ Pk.type p = type ∧ Pk.dst p = s.devid

/-- Two ends are joined by a link that works (R331). -/
def LinkUp (s : State) (a b : Nat) : Prop :=
  ∃ k < 10, (s.link k).down = false ∧ (linkEnds k = (a, b) ∨ linkEnds k = (b, a))

/-- A failed link whose traffic has no way through a third stack (R331). -/
def CutOff (s : State) (k : Nat) : Prop :=
  k < 10 ∧ (s.link k).down = true ∧ ¬∃ c < 4, c ≠ (linkEnds k).1 ∧ c ≠ (linkEnds k).2 ∧ LinkUp s (linkEnds k).1 c ∧
    LinkUp s c (linkEnds k).2

/-- The flits that wait in a transmit queue (R335): each packet's header and payload. -/
def flitsIn (ps : List Packet) : Nat := (ps.map fun p => p.payload.length / 64 + 1).sum

/-- The routes are built anew (R332, R334): unanswered requests are to be sent again, and the packets of the ports that
are down stand in the queue of a live one, if there is one. -/
def Rerouted (s t : State) : Prop :=
  t.sent = s.sent.map (fun x => { x with stale := true }) ∧
    ((∀ j < 16, (t.port j).up = false) → ∀ j, (t.port j).queue = (s.port j).queue) ∧
    ((∃ j < 16, (t.port j).up = true) → ∃ m < 16, (t.port m).up = true ∧
      (∀ j < 16, j ≠ m → (t.port j).queue = if (t.port j).up then (s.port j).queue else []) ∧
      (t.port m).queue = (s.port m).queue ++ (((List.range 16).filter fun j => !(t.port j).up).flatMap fun j =>
        (s.port j).queue).map fun x => { x with port := m })

/-- Only what an injected packet changes has changed: queues, tokens, packets that wait for tokens (R335, R349). -/
def OnlySends (s t : State) : Prop :=
  { t with ports := s.ports, buckets := s.buckets, stalled := s.stalled, fresh := s.fresh } = s

/-- A packet on port `k`. -/
def onPort (r : Packet) (k : Nat) : Packet := { r with port := k }

/-- A packet stands in the queue of port `k`, or waits for tokens. -/
def QueuedAt (t : State) (r : Packet) (k : Nat) : Prop :=
  onPort r k ∈ (t.port k).queue ∨ ∃ b, (b, onPort r k) ∈ t.stalled

/-- A packet stands in the queue of a port, or waits for tokens. -/
def Queued (t : State) (r : Packet) : Prop := ∃ k < 16, QueuedAt t r k

/-- A context to which an answer may be delivered, with whether it is the one that asked: one that waits for another
device looks at its instruction again when it has the answer, or has no request out (R334). -/
def hears (h : Hart) (asked : Bool) (a : Answer) (out : List Sent) : Hart :=
  let h1 : Hart := if asked then { h with answers := h.answers ++ [a] } else h
  if h.status = .waiting .remote && (asked || out.all fun z => decide (z.who ≠ h.key)) then { h1 with status := .running } else h1

/-- A context that hears of the acknowledgement of a write or atomic that it sent when its instruction had had its effect:
with the last one, unless `more` are to come, it issues again (DESIGN CHOICE, log entry 25). -/
def issuesAgain (h : Hart) (asked more : Bool) (out : List Sent) : Hart :=
  if asked && !more && h.status = .waiting .acks then { h with status := .running }
  else if h.status = .waiting .remote && out.all fun z => decide (z.who ≠ h.key) then { h with status := .running } else h

/-- A request for an `F32` addition (R123; DESIGN CHOICE, log entry 25). -/
def asksSum (y : Sent) : Prop :=
  Pk.type y.packet = 4 ∧ numberOf (((Pk.data y.packet).drop 8).take 8) = 13

/-- The fault that a response of type `type` reports: the place, from the first byte asked for, of the byte that failed
(R346; DESIGN CHOICE, log entry 25). -/
def faultPlace (p : Packet) (y : Sent) (write : Bool) : Option Nat :=
  if (Pk.data p).length = (if write then 64 else 0) then some (Pk.addr p - Pk.addr y.packet) else none

/-- The steps that receive a packet, with its type (R333). -/
noncomputable def packetSteps (p : Packet) (c : Contribution) : List (Instr × Nat) :=
  [(.readRequest p, 0), (.readResponse p, 1), (.write p, 2), (.writeAcknowledgement p, 3), (.atomic p, 4),
    (.atomicResponse p, 5), (.collectiveContribution p c, 6), (.collectiveResult p, 7), (.linkControl p, 8)]

/-- The requests that this device serves, with the type of their response and how they are performed (R333, R334). -/
noncomputable def serveRow (p : Packet) : List (Instr × Nat × (State → Packet × State)) :=
  [(.readRequest p, 0, fun s => s.serveRead p), (.write p, 2, fun s => s.serveWrite p),
    (.atomic p, 4, fun s => s.serveAtomic p)]

/-- The responses that this device receives, with the type of the request that they answer (R333). -/
noncomputable def answerRow (p : Packet) : List (Instr × Nat × Nat) :=
  [(.readResponse p, 1, 0), (.writeAcknowledgement p, 3, 2), (.atomicResponse p, 5, 4)]

end Sys2Proof.Claims

/-- R262: a write of a mode register starts the changes of owned segments, and refuses a change to `CACHE` of a segment
that holds frames; a change completes by turning the segment's mode, and one to `CACHE` wakes the segment's banks but
for retired ones (DESIGN CHOICE, log entry 45). R348, R349, R370: enabling a partition is refused, as it is where the
shares of the enabled ones would exceed 256, or gives it its table.
Firmware turns the modes of segments that no partition owns (DESIGN CHOICE, log entry 30: number 32). R350, R351:
columns and channels are added at once; a removed column drains first, and channels that hold frames stay. R349: shares
stay within 256; a bucket takes tokens at its share's rate, up to 64 flits, and what waited there goes. R344: the other
registers, as written and as read (values out of range are clamped, a busy `SHOOT` keeps its value, and a refused resize
sets `RSZERR`: DESIGN CHOICE, log entry 43; `EN` is set by PARTITION_ENABLE alone: DEDUCED, log entry 66). Where a
bucket stands is a DESIGN CHOICE (log entry 22). R341, R347, R348: BAR accesses of the host (unlisted offsets and
unaligned accesses: DESIGN CHOICE, log entry 30; numbers of the access tables: log entry 21). That a step at a partition or
bucket beyond the last answers `noSuchUnit` is the model's choice (DESIGN CHOICE, log entry 72). -/
def Obligations.PartitionSteps : Prop :=
  (∀ (part : Nat) (hi : Bool) (v : Word) (s : State), part < 32 →
    let p := s.part part
    let lo := if hi then 64 else 0
    let change (g : Nat) : Prop := lo ≤ g ∧ g < lo + 64 ∧ p.chmap.getLsbD (64 + g) = true ∧
      v.getLsbD (g - lo) ≠ p.segs.getLsbD g
    let refused (g : Nat) : Prop := change g ∧ p.segs.getLsbD g = false ∧ SegmentInUse s g
    ∃ t, exec (.segmodeWrite part hi v) s = .next t ∧ OnlyPartition part s t ∧ t.access = s.access ∧
      { t.part part with segErr := p.segErr, segPending := p.segPending } = p ∧
      ((t.part part).segErr = true ↔ ∃ g, refused g) ∧
      (∀ g < 128, (t.part part).segPending.getLsbD g = true ↔ p.segPending.getLsbD g = true ∨ change g ∧ ¬refused g) ∧
      ((∃ g, refused g) → t.signals = s.signals ++ [.vf part 2]) ∧ ((∀ g, ¬refused g) → t.signals = s.signals)) ∧
  (∀ (part g : Nat) (s : State), part < 32 → g < 128 →
    let p := s.part part
    let refused : Prop := p.segs.getLsbD g = false ∧ SegmentInUse s g
    ActsWhen (p.segPending.getLsbD g = true) (.segmentModeChangeComplete part g) s fun t =>
      (∀ j < 128, (t.part part).segPending.getLsbD j = if j = g then false else p.segPending.getLsbD j) ∧
      (refused → (t.part part).segs = p.segs ∧ (t.part part).segErr = true) ∧
      (¬refused → (∀ j < 128, (t.part part).segs.getLsbD j = if j = g then !p.segs.getLsbD j else p.segs.getLsbD j) ∧
        (t.part part).segErr = p.segErr) ∧
      (p.segs.getLsbD g = false → ¬refused → ∀ j < 16, (t.bank (4096 + 16 * g + j)).power ≠ .ret ∧
        ((s.bank (4096 + 16 * g + j)).retired = false → (t.bank (4096 + 16 * g + j)).power ≠ .off))) ∧
  (∀ (g : Nat) (s : State), g < 128 →
    ActsWhen ((∀ x ∈ s.parts, x.2.chmap.getLsbD (64 + g) = false) ∧ (s.freeSegs.getLsbD g = true ∨ ¬SegmentInUse s g))
      (.segmentModeChangeComplete 32 g) s fun t =>
        (∀ j < 128, t.freeSegs.getLsbD j = if j = g then !s.freeSegs.getLsbD j else s.freeSegs.getLsbD j) ∧
        t.parts = s.parts ∧ t.signals = s.signals ∧
        (s.freeSegs.getLsbD g = false → ∀ j < 16, (t.bank (4096 + 16 * g + j)).power ≠ .ret)) ∧
  (∀ (part : Nat) (fs : List (Nat × Nat × Nat)) (s : State), part < 32 →
    let p := s.part part
    let i := Instr.partitionEnable part fs
    ((p.en = true ∨ s.boot.ready = false ∨ s.dump.fatal ≠ none) → exec i s = .next s) ∧
    (p.en = false → s.boot.ready = true → s.dump.fatal = none →
      (p.fqbase = 0 ∨ p.cqbase = 0 ∨ p.svslots = 0 ∨ 256 < otherShares s part false + p.bwd.toNat ∨
        256 < otherShares s part true + p.bwx.toNat) →
      exec i s = .next (s.setPart part { p with rszErr := true })) ∧
    (p.en = false → s.boot.ready = true → s.dump.fatal = none → p.enableRefused = false →
      otherShares s part false + p.bwd.toNat ≤ 256 → otherShares s part true + p.bwx.toNat ≤ 256 →
      s.tableOk part fs = true →
      ∃ t, exec i s = .next t ∧ (∀ q, q ≠ part → t.part q = s.part q) ∧
        t.part part = { p with
          en := true, rszErr := false, table := fs, nextCtx := 1, rr := Vector.replicate 4 15
          passed := Vector.replicate 16 0 } ∧ t.cur = s.cur ∧ t.rest = s.rest)) ∧
  (∀ (i : Instr) (part : Nat) (m : BitVec 32) (s : State), colmapWrite part m i → part < 32 →
    let p := s.part part
    let gone := p.colmap &&& ~~~m
    let bad : Prop := (gone ≠ 0 ∧ p.rszBusy = true) ∨ s.ownedElsewhere part (m &&& ~~~p.colmap) 0 = true
    (bad → ∃ t, exec i s = .next t ∧ OnlyPartition part s t ∧ t.part part = { p with rszErr := true } ∧
      t.signals = s.signals ++ [.vf part 2]) ∧
    (¬bad → ∃ t, exec i s = .next t ∧
      t.part part = { p with
        colmap := p.colmap ||| m, draining := p.draining ||| gone, rszBusy := p.rszBusy || decide (gone ≠ 0)
        rszErr := false } ∧
      t.harts = s.harts.map (fun h =>
        if h.placed && h.part == part && gone.getLsbD (h.core.toNat / 8) && h.stoppable then h.stopFor .preempt else h) ∧
      OnlyPartition part s { t with cur := s.cur, rest := s.rest })) ∧
  (∀ (part c : Nat) (s : State), part < 32 → c < 32 →
    let p := s.part part
    ActsWhen (p.draining.getLsbD c = true ∧ ∀ h ∈ s.harts, h.placed = true → h.part = part → h.core.toNat / 8 ≠ c)
      (.columnDrainComplete part c) s fun t => OnlyPartition part s t ∧
        (∀ j < 32, (t.part part).colmap.getLsbD j = if j = c then false else p.colmap.getLsbD j) ∧
        (∀ j < 32, (t.part part).draining.getLsbD j = if j = c then false else p.draining.getLsbD j) ∧
        (t.part part).rszBusy = decide ((t.part part).draining ≠ 0)) ∧
  (∀ (i : Instr) (part : Nat) (m : BitVec 448) (s : State), chmapWrite part m i → part < 32 →
    let p := s.part part
    let bad : Prop := s.channelUsed (p.chmap &&& ~~~m) = true ∨ s.ownedElsewhere part 0 (m &&& ~~~p.chmap) = true
    ∃ t, exec i s = .next t ∧ OnlyPartition part s { t with freeSegs := s.freeSegs } ∧
      t.signals = s.signals ++ [.vf part 2] ∧
      (bad → t.part part = { p with rszErr := true } ∧ t.freeSegs = s.freeSegs) ∧
      (¬bad → (t.part part).chmap = m ∧ (t.part part).rszErr = false ∧ ∀ g < 128,
        let had := p.chmap.getLsbD (64 + g)
        let has := m.getLsbD (64 + g)
        (t.part part).segs.getLsbD g =
          (p.segs.getLsbD g && !(had && !has) || has && !had && s.freeSegs.getLsbD g) ∧
        t.freeSegs.getLsbD g = (s.freeSegs.getLsbD g && !(has && !had)))) ∧
  (∀ (part : Nat) (x : Bool) (v : Word) (s : State), part < 32 →
    ActsWhen (v.toNat ≤ 256 ∧ ((s.part part).en = false ∨ otherShares s part x + v.toNat ≤ 256)) (.shareWrite part x v) s fun t => OnlyPartition part s t ∧
      (if x then (t.part part).bwx.toNat else (t.part part).bwd.toNat) = v.toNat ∧
      (if x then (t.part part).bwd = (s.part part).bwd else (t.part part).bwx = (s.part part).bwx)) ∧
  (∀ (part off : Nat) (phys : Bool) (v : Word) (guard : Bool) (f : Word → Partition → Partition) (s : State),
    part < 32 → cfgRow off = some (guard, f) →
    exec (.configRegisterWrite part phys off v) s = .next
      (if guard = true ∧ (s.part part).en = true then s else s.setPart part (f v (s.part part)))) ∧
  (∀ (part : Nat) (v : Word) (s : State), part < 32 →
    let p := s.part part
    let write (off : Nat) : Host.Outcome State Fault Refusal := exec (.configRegisterWrite part true off v) s
    write 0x000 = .next (s.setPart part { p with number := some (v.setWidth 5) }) ∧
    write 0x008 = .next (s.setPart part { p with en := p.en && v.getLsbD 0, rszErr := p.rszErr && v.getLsbD 2 }) ∧
    write 0x060 = .next { s with devid := v.setWidth 16 } ∧
    write 0x138 = .next (s.setPart part { p with cqtail := v.setWidth 32 }) ∧
    write 0x150 = .next (s.setPart part { p with mdsize := v }) ∧
    ∀ j < 7, write (0x018 + 8 * j) =
      exec (.channelAdd part (BitVec.ofNat 448 (setBits p.chmap.toNat (64 * j) 64 v.toNat))) s) ∧
  (∀ (k n : Nat) (s : State),
    let line := k % 32
    (¬(k / 32 < 1312 ∧ line < 26) → exec (.tokenBucketRefill k n) s = .fault .noSuchUnit) ∧
    (k / 32 < 1312 → line < 26 →
      let level := min (64 * 256) (tget 0 s.buckets k + (n * shareOf s (k / 32) (line < 16) : Nat))
      ((∀ x ∈ s.stalled, x.1 ≠ k) → ∃ t, exec (.tokenBucketRefill k n) s = .next t ∧ { t with buckets := s.buckets } = s ∧
        ∀ j, tget 0 t.buckets j = if j = k then level else tget 0 s.buckets j) ∧
      ∀ r : Packet, s.stalled = [(k, r)] → r.port < 16 → 256 ≤ level → ∃ t, exec (.tokenBucketRefill k n) s = .next t ∧
        t.stalled = [] ∧ r ∈ (t.port r.port).queue ∧ tget 0 t.buckets k = level - 256 * (r.payload.length / 64 + 1 : Nat) ∧
        OnlySends s t)) ∧
  (∀ (part off n : Nat) (bar0 : Bool) (w : Option Word) (s : State), 32 < part →
    exec (.hostBar2Access part ⟨bar0, off, n⟩ w) s = .fault .noSuchUnit) ∧
  (∀ (part off n : Nat) (w : Option Word) (s : State), part < 32 →
    let p := s.part part
    let i := Instr.hostBar2Access part ⟨false, off, n⟩ w
    let kind := if w = none then 0 else 1
    let admitted : Prop := ∀ x ∈ s.barTargets part off, s.admits x (69 + part) part kind = true
    ((p.en = false ∨ off % 8 ≠ 0 ∨ n ≠ 8) → exec i s =
      .next (if w = none then { s with hostRead := List.replicate n 0xFF } else s)) ∧
    (p.en = true → off % 8 = 0 → n = 8 →
      (¬admitted → ∃ t, exec i s = .next t ∧ t.log = s.log ++ [.refusal (69 + part)] ∧
        t.signals = s.signals ++ [.pf 3, .vf part 3] ∧ (w = none → t.hostRead = List.replicate 8 0) ∧
        { t with log := s.log, signals := s.signals, hostRead := s.hostRead } = s) ∧
      (admitted → w = none → off / 2 ^ 30 ≠ 3 → ∃ v, HostReads i s 8 v) ∧
      (admitted → off = 2 * 2 ^ 30 + 0x400000 → p.fqlog ≤ 16 → (w = none → HostReads i s 8 p.head.toNat) ∧
        ∀ v, w = some v → exec i s = .next (s.setPart part { p with head := v.setWidth 32 })))) ∧
  (∀ (part off n : Nat) (w : Option Word) (s : State), part ≤ 32 → (off % 8 ≠ 0 ∨ n ≠ 8) →
    exec (.hostBar2Access part ⟨true, off, n⟩ w) s =
      .next (if w = none then { s with hostRead := List.replicate n 0xFF } else s)) ∧
  (∀ (part j : Nat) (s : State), part < 32 → let off := 8 * j
    (∀ v, exec (.hostBar2Access part ⟨true, off, 8⟩ (some v)) s = exec (.configRegisterWrite part false off v) s) ∧
    (∀ v, off < 0x10000 → exec (.hostBar2Access 32 ⟨true, 0x10000 * (part + 1) + off, 8⟩ (some v)) s =
      exec (.configRegisterWrite part true off v) s) ∧
    ((off < 0x018 ∨ 0x048 < off) → off ≠ 0x1A0 → off ≠ 0x1A8 →
      let v := cfgReads (s.part part) part s.devid.toNat off % 2 ^ 64
      HostReads (.hostBar2Access part ⟨true, off, 8⟩ none) s 8 v ∧
      (off < 0x10000 → HostReads (.hostBar2Access 32 ⟨true, 0x10000 * (part + 1) + off, 8⟩ none) s 8 v)) ∧
    ∀ k < 7, off = 0x018 + 8 * k → HostReads (.hostBar2Access part ⟨true, off, 8⟩ none) s 8
      ((s.part part).chmap.toNat / 2 ^ (64 * k) % 2 ^ 64)) ∧
  ∀ (off n : Nat) (v : Word) (s : State),
    (off % 8 = 0 → off < 0x10000 → exec (.hostBar2Access 32 ⟨true, off, 8⟩ (some v)) s = exec (.configRegisterWrite 32 true off v) s) ∧
    (off % 8 = 0 → 0x210000 ≤ off → HostReads (.hostBar2Access 32 ⟨true, off, 8⟩ none) s 8 0) ∧
    HostReads (.hostBar2Access 32 ⟨true, 0, 8⟩ none) s 8 (s.boot.stage.toNat + 2 ^ 4 * s.boot.ready.toNat +
      2 ^ 5 * s.boot.waitrec.toNat + 2 ^ 8 * s.boot.err.toNat + 2 ^ 16 * s.boot.source.toNat) ∧
    HostReads (.hostBar2Access 32 ⟨true, 8, 8⟩ none) s 8 0 ∧ HostReads (.hostBar2Access 32 ⟨true, 0x228, 8⟩ none) s 8 0 ∧
    HostReads (.hostBar2Access 32 ⟨true, 0x28, 8⟩ none) s 8 (s.dump.finished.toNat + 2 * s.dump.incomplete.toNat) ∧
    (∀ m < 4, ∀ j < 8, HostReads (.hostBar2Access 32 ⟨true, 0x100 + 64 * m + 8 * j, 8⟩ none) s 8
      ((s.boot.mr.getD m 0).toNat / 2 ^ (64 * j) % 2 ^ 64)) ∧
    (4 ≤ n → n ≤ 512 → off % n = 0 → off + n ≤ 2 ^ 26 → exec (.hostBar2Access 32 ⟨false, off, n⟩ none) s =
      .next { s with hostRead := (List.range n).map fun j => Memory.get s.dump.area (dumpBase s.dump.stack + off + j) }) ∧
    (2 ^ 26 ≤ off → exec (.hostBar2Access 32 ⟨false, off, n⟩ none) s = .next { s with hostRead := List.replicate n 0xFF })

/-- R352 to R355, R360, R367: a reset leaves what fuses and the outside hold (log entry 6); an image is refused with its
code, and the next source is tried, or measured and started (the moments that the prose leaves open are DEDUCED, log
entry 67; the keys of the ROM are free, PRESUMED, log entry 10). R359, R360: a quote advances the leaf index in both
copies before it is signed; an index that is used up, or a bad address, gives its result code. R366 to R369: a
device-fatal error stops the device once, the dump ends in stage 15, and its release clears the state (when its parts
are written, and what the spec does not lay out, is a DESIGN CHOICE, log entry 29); firmware that starts sets the
thresholds of R361 and reserves 64 MiB of HBM4E stacks 0 and 7 for the dump (R368; which values and which banks: DESIGN
CHOICE, log entry 24). That a fatal error without a legal cause or unit kind answers `noSuchUnit` is the model's choice
(DESIGN CHOICE, log entry 72). R4, R6: a clock cycle counts, and a throttle stage is
logged. -/
def Obligations.DeviceSteps : Prop :=
  (∀ s : State, (∃ t, exec .deviceReset s = .next t ∧ Restarted s t ∧ t.dump.area = s.dump.area) ∧
    (∃ t, exec .hotReset s = .next t ∧ Restarted s t ∧ t.dump.area = s.dump.area) ∧
    ∃ t, exec .powerFailure s = .next t ∧ Restarted s t ∧ t.dump = .reset ∧
      (s.sec.requests = [] → t.sec.idxA = s.sec.idxA ∧ t.sec.idxB = s.sec.idxB)) ∧
  (∀ (stage source : Nat) (img : List Byte) (s : State), 1 ≤ stage → stage ≤ 3 → source ≤ 17 →
    let b := s.boot
    let i := Instr.imageVerify stage source img
    let code := b.imageCode stage img
    ((stage ≠ min 3 (b.stage.toNat + 1) ∨ source ≠ b.trying ∨ 2 < b.stage.toNat ∨ ¬Supplied s source img) →
      exec i s = .next s) ∧
    (stage = min 3 (b.stage.toNat + 1) → source = b.trying → b.stage.toNat ≤ 2 → Supplied s source img →
      (code ≠ 0 → ∃ t, exec i s = .next t ∧ t.boot.err = BitVec.ofNat 8 code ∧ t.boot.stage = b.stage ∧
        t.boot.mr = b.mr ∧ t.boot.fuseSvn = b.fuseSvn ∧ (t.boot.waitrec = true ↔ t.boot.trying = 17) ∧
        { t with boot := s.boot, signals := s.signals } = s) ∧
      (code = 0 → ∃ t, exec i s = .next t ∧ t.boot.source = BitVec.ofNat 8 source ∧ t.boot.window = [] ∧
        (stage = 1 → t.boot.stage = 1 ∧ t.reserved = reservedBanks) ∧
        (stage = 2 → t.boot.stage = 2 ∧ t.boot.ready = true) ∧
        t.boot.mr.getD stage 0 = extendMr (b.mr.getD stage 0) (BitVec.ofNat 512 (numberOf ((img.drop 24).take 64))) ∧
        (stage, img) ∈ t.boot.images ∧ (∀ k < 16, let im := t.raaimt.getD k 0
          16 ≤ im ∧ im ≤ 256 ∧ 2 * im ≤ t.raammt.getD k 0 ∧ t.raammt.getD k 0 ≤ 8 * im) ∧
        { t with
          boot := s.boot, signals := s.signals, reserved := s.reserved, banks := s.banks, raa := s.raa
          raaimt := s.raaimt, raammt := s.raammt, fresh := s.fresh } = s)) ∧
    (numberOf (img.take 8) ≠ 0x4547414D494B564F → code = 1)) ∧
  (∀ k x : Nat, (k = 0 ∨ k = 7) → dumpBase k ≤ x → x < dumpBase k + 2 ^ 26 → paTable x = 8 + k ∧ paBank x ∈ reservedBanks) ∧
  (∀ s : State, ActsWhen (s.boot.trying < 17 ∧ s.boot.stage.toNat ≤ 2) .imageFetchFailure s fun t =>
    s.boot.trying < t.boot.trying ∧ t.boot.trying ≤ 17 ∧
    (∀ j, s.boot.trying < j → j < t.boot.trying → (s.port (j - 1)).up = false) ∧
    (t.boot.waitrec = true ↔ t.boot.trying = 17) ∧ { t with boot := s.boot, signals := s.signals } = s) ∧
  (∀ (off : Nat) (bs : List Byte) (s : State), ActsWhen (s.boot.waitrec = true ∧ off % 4 = 0 ∧ bs.length % 4 = 0 ∧
      4 ≤ bs.length ∧ bs.length ≤ 512 ∧ off + bs.length ≤ 2 ^ 26) (.recoveryWindowWrite off bs) s fun t =>
    { t with boot := { t.boot with window := s.boot.window } } = s ∧
    ∀ a, Memory.get t.boot.window a = if off ≤ a ∧ a < off + bs.length then bs.getD (a - off) 0
      else Memory.get s.boot.window a) ∧
  (∀ (len : Word) (s : State), (s.boot.waitrec = false → exec (.recgo len) s = .next s) ∧
    (s.boot.waitrec = true → ∃ t, exec (.recgo len) s = .next t ∧ exec (.imageVerify (min 3 (s.boot.stage.toNat + 1)) 17
      ((List.range (min len.toNat (2 ^ 26))).map (Memory.get s.boot.window))) s = .next t)) ∧
  (∀ (v : Word) (s : State), ActsWhen (v = 1 ∧ s.sec.busy = false) (.qgo v) s fun t => t = { s with sec := { s.sec with
    busy := true, requests := s.sec.requests ++ [⟨s.sec.nonce, some s.sec.qaddr⟩] } }) ∧
  (∀ (nonce : BitVec 256) (s : State), exec (.quoteRequest nonce) s = .next { s with sec := { s.sec with
    requests := s.sec.requests ++ [⟨nonce, none⟩] } }) ∧
  (∀ s : State, (s.sec.requests = [] → exec .quoteSign s = .next s) ∧
    ∀ r rs, s.sec.requests = r :: rs →
      (∀ a : Word, r.addr = some a → a.toNat % 64 ≠ 0 → exec .quoteSign s = .next { s with
        sec := { s.sec with requests := rs, busy := false, result := 2 }, signals := s.signals ++ [.pf 1] }) ∧
      (∀ a : Word, r.addr = some a → a.toNat % 64 = 0 → s.sec.okA = true → s.sec.okB = true →
        (2 ^ 20 ≤ max s.sec.idxA s.sec.idxB → exec .quoteSign s = .next { s with
          sec := { s.sec with requests := rs, busy := false, result := 1 }, signals := s.signals ++ [.pf 1] }) ∧
        (max s.sec.idxA s.sec.idxB < 2 ^ 20 → ∃ t, exec .quoteSign s = .next t ∧
          t.sec = { s.sec with
            requests := rs, busy := false, result := 0, idxA := max s.sec.idxA s.sec.idxB + 1
            idxB := max s.sec.idxA s.sec.idxB + 1 } ∧
          hostNumber t a.toNat 8 = s.boot.devSer.toNat ∧ hostNumber t (a.toNat + 8) 32 = r.nonce.toNat ∧
          t.signals = s.signals ++ [.pf 1] ∧ { t with sec := s.sec, signals := s.signals, host := s.host } = s))) ∧
  (∀ (cause kind unit : Nat) (s : State),
    ((cause = 0 ∨ 7 < cause ∨ 5 < kind) → exec (.deviceFatalError cause kind unit) s = .fault .noSuchUnit) ∧
    (1 ≤ cause → cause ≤ 7 → kind ≤ 5 →
      (∀ f, s.dump.fatal = some f → exec (.deviceFatalError cause kind unit) s = .next { s with dump := { s.dump with
        fatal := some { f with second := f.second + 1 } } }) ∧
      (s.dump.fatal = none → ∃ t f, exec (.deviceFatalError cause kind unit) s = .next t ∧ t.dump.fatal = some f ∧
        f.cause = cause ∧ f.ukind = kind ∧ f.unit = unit ∧ f.second = 0 ∧ t.cur = .reset ∧ t.rest = [] ∧
        (∀ x ∈ t.parts, x.2.en = false) ∧ t.mem = s.mem ∧ t.host = s.host ∧ t.stalled = [] ∧ t.sent = [] ∧
        ((s.dump.finished || s.dump.incomplete) = true → t.dump.area = s.dump.area ∧ t.dump.stack = s.dump.stack) ∧
        ((s.dump.finished || s.dump.incomplete) = false → kind = 0 → t.dump.stack = coreDump unit)))) ∧
  (∀ (core : Nat) (s : State), core < 4 →
    ∃ t, exec (.stewardWatchdogExpiry core) s = .next t ∧ exec (.deviceFatalError 5 3 core) s = .next t) ∧
  (∀ (part : Bool) (s : State), ActsWhen (s.dump.fatal ≠ none ∧ s.boot.stage ≠ 15) (.dumpComplete part) s fun t =>
    t.boot = { s.boot with stage := 15, ready := false } ∧ t.signals = s.signals ++ [.pf 0, .pf 2] ∧
    (t.dump.finished = true ∨ t.dump.incomplete = true) ∧ t.dump.fatal = s.dump.fatal ∧
    { t with boot := s.boot, signals := s.signals, dump := s.dump } = s) ∧
  (∀ (v : Word) (s : State), ActsWhen (v.getLsbD 2 = true) (.dumpRelease v) s fun t =>
    t = { s with dump := { s.dump with finished := false, incomplete := false } }) ∧
  (∀ (core : Nat) (s : State), core < 256 → exec (.coreClockCycle core) s =
    .next (s.setCore core { s.core core with cycle := (s.core core).cycle + 1 })) ∧
  ∀ (stage : Nat) (s : State), stage ≤ 2 → exec (.powerThrottle stage) s =
    .next { s with throttle := stage, log := s.log ++ [.throttle stage] }

/-- R331, R332, R335: links that fail are rerouted or fatal (through which stacks is DEDUCED, log entry 68; the numbers
of links and the thresholds of compressors are a DESIGN CHOICE, log entry 24); a port goes down after 16 replays in a
row and comes up again, with new routes; its compressor follows its queue. R333, R334, R346: a packet that is reserved
is counted and discarded; a request is performed once, its response is remembered and a repeat of its sender and tag
gets it again (DEDUCED, log entry 34), until a link-control packet says that it has arrived (DESIGN CHOICE, log entry
25, as are the payloads' layouts); a response reaches the context that waits for it; a write from another device puts
its bytes where the partition's page tables say; an unanswered request is sent again on a live port. R353: an image is
served in pieces (DESIGN CHOICE, log entry 23). R332: a packet for another device goes on to a live port, whatever shares the
partitions have (DEDUCED, log entry 68). R224, R339: a contribution is counted once, a killed member is noted, and a
result is kept for its member, whose contributions' tags are released (R334). -/
def Obligations.FabricSteps : Prop :=
  (∀ (k : Nat) (s : State), k < 10 →
    exec (.blufoldDFlitRetry k) s = .next (s.setLink k { s.link k with retries := (s.link k).retries + 1 }) ∧
    let s1 : State := { s.setLink k { s.link k with down := true } with log := s.log ++ [.link k] }
    ((∀ j, ¬CutOff s1 j) → exec (.blufoldDLinkFailure k) s = .next s1) ∧
    (∀ j, CutOff s1 j → (∀ m < j, ¬CutOff s1 m) →
      exec (.blufoldDLinkFailure k) s = exec (.deviceFatalError 4 2 j) s1)) ∧
  (∀ (k seq onAt offAt : Nat) (ok : Bool) (peer : BitVec 16) (s : State), k < 16 →
    let p := s.port k
    exec (.flitReplayRequest k ⟨seq, ok⟩) s = .next (s.setPort k { p with replays :=
      if ok = true ∧ (p.seq - BitVec.ofNat 12 seq).toNat ≤ p.store.length then 0 else p.replays + 1 }) ∧
    ActsWhen (p.up = true ∧ 16 ≤ p.replays) (.portDown k) s (fun t =>
      { t.port k with queue := [] } = { p with up := false, replays := 0, queue := [] } ∧
      t.log = s.log ++ [.port k false] ∧ (∀ j, j ≠ k → { t.port j with queue := [] } = { s.port j with queue := [] }) ∧
      Rerouted s t ∧
      { t with ports := s.ports, log := s.log, routes := s.routes, sent := s.sent, fresh := s.fresh } = s) ∧
    ActsWhen (p.up = false ∧ peer ≠ s.devid ∧ offAt < onAt) (.portUp ⟨k, peer, onAt, offAt⟩) s (fun t =>
      { t.port k with queue := [] } = { p with
        up := true, peer := peer, seq := 0, store := [], replays := 0, onAt := onAt, offAt := offAt, queue := [] } ∧
      t.log = s.log ++ [.port k true] ∧ (∀ j, j ≠ k → { t.port j with queue := [] } = { s.port j with queue := [] }) ∧
      Rerouted s t ∧
      { t with ports := s.ports, log := s.log, routes := s.routes, sent := s.sent, fresh := s.fresh } = s) ∧
    ActsWhen (p.onAt < flitsIn p.queue) (.compressorOn k) s (fun t => t = s.setPort k { p with comp := true }) ∧
    (flitsIn p.queue < p.offAt → exec (.compressorOff k) s = .next (s.setPort k { p with comp := false })) ∧
    (p.up = false → p.offAt ≤ flitsIn p.queue → exec (.compressorOff k) s = .next s) ∧
    (p.up = true → 0 < p.offAt → ∃ t n, exec (.compressorOff k) s = .next t ∧ { t with ports := s.ports } = s ∧
      (t.port k).comp = false ∧ (t.port k).queue = p.queue.drop n ∧ flitsIn (t.port k).queue < p.offAt ∧
      (∀ m < n, p.offAt ≤ flitsIn (p.queue.drop m)) ∧ ∀ j, j ≠ k → t.port j = s.port j)) ∧
  (∀ (p : Packet) (c : Contribution) (s : State), p.port < 16 → p.part < 32 → ∀ x ∈ packetSteps p c,
    ((s.port p.port).up = false → exec x.1 s = .next s) ∧
    ((s.port p.port).up = true → Pk.reserved p = true →
      exec x.1 s = .next (s.setPort p.port { s.port p.port with errors := (s.port p.port).errors + 1 })) ∧
    ((s.port p.port).up = true → Pk.reserved p = false → Pk.type p ≠ x.2 → exec x.1 s = .next s) ∧
    ((s.port p.port).up = true → Pk.reserved p = false → Pk.type p = x.2 → Pk.dst p ≠ s.devid →
      ∃ t k, exec x.1 s = .next t ∧ k < 16 ∧ (s.port k).up = true ∧ onPort p k ∈ (t.port k).queue ∧
        { t with ports := s.ports, fresh := s.fresh } = s) ∧
    (Arrives s p 8 → let stage := Pk.addr p / 2 ^ 32
      (Pk.addr p = 0 → exec (.linkControl p) s = .next { s with
        completed := s.completed.filter fun d => !(d.src == Pk.src p && d.tag == Pk.tag p) }) ∧
      (Pk.addr p ≠ 0 → (p.payload ≠ [] ∨ s.boot.ready = false ∨ ∀ y ∈ s.boot.images, y.1 ≠ stage) →
        exec (.linkControl p) s = .next s) ∧
      ∀ img, Pk.addr p ≠ 0 → p.payload = [] → s.boot.ready = true → s.boot.images = [(stage, img)] →
        let part := (img.drop (Pk.addr p % 2 ^ 32)).take 4096
        ∃ t r, exec (.linkControl p) s = .next t ∧ { t with ports := s.ports, fresh := s.fresh } = s ∧
          r ∈ (t.port p.port).queue ∧ Pk.type r = 8 ∧ Pk.dst r = Pk.src p ∧ Pk.tag r = Pk.tag p ∧ Pk.addr r = Pk.addr p ∧
          r.payload.take part.length = part)) ∧
  (∀ (p : Packet) (s : State), ∀ x ∈ serveRow p, Arrives s p x.2.1 →
    (∀ d, s.completed.find? (fun d => d.src == Pk.src p && d.tag == Pk.tag p) = some d →
      ∃ t, exec x.1 s = .next t ∧ OnlySends s t ∧ ∀ r, d.response = [r] → Queued t r) ∧
    (s.completed.find? (fun d => d.src == Pk.src p && d.tag == Pk.tag p) = none →
      let r := (x.2.2 s).1
      ∃ t, exec x.1 s = .next t ∧ Queued t r ∧ OnlySends { (x.2.2 s).2 with
        completed := ⟨Pk.src p, Pk.tag p, p, [r]⟩ :: (x.2.2 s).2.completed } t)) ∧
  (∀ (p : Packet) (pa n : Nat) (s s1 : State), Arrives s p 2 → s.completed = [] → s.portAdmits p 1 [(pa, n)] = true →
    numberOf ((Pk.data p).take 8) < 2 ^ 63 → n = min 4096 (numberOf ((Pk.data p).take 8)) → 0 < n → 8 + n ≤ (Pk.data p).length →
    s.remotePlaces p.part (Pk.addr p) n .write = (.ok [(pa, n)], s1) →
    ∃ t, exec (.write p) s = .next t ∧
      ∀ a, t.homeByte a = if pa ≤ a ∧ a < pa + n then (Pk.data p).getD (8 + (a - pa)) 0 else s.homeByte a) ∧
  (∀ (p : Packet) (s : State), ∀ x ∈ answerRow p, Arrives s p x.2.1 →
    ((∀ y ∈ s.sent, y.answeredBy p x.2.2 = false) → exec x.1 s = .next s) ∧
    ∀ y, s.sent.find? (fun y => y.answeredBy p x.2.2) = some y → ∃ t, exec x.1 s = .next t ∧
      t.sent = s.sent.filter (fun y => !y.answeredBy p x.2.2) ∧
      (y.posted = false → t.harts = s.harts.map (fun h =>
        hears h (h.isKey y.who) ⟨y.slot, Pk.data p, faultPlace p y (x.2.2 == 2)⟩ t.sent)) ∧
      (y.posted = true →
        let more : Bool := t.sent.any fun z => decide (z.who = y.who) && z.posted
        let quiet (h : Hart) : Hart := { h with csr := { h.csr with fcsr := 0 } }
        t.harts.map quiet = s.harts.map (fun h => quiet (issuesAgain h (h.isKey y.who) more t.sent)) ∧
        (¬asksSum y → t.harts = s.harts.map (fun h => issuesAgain h (h.isKey y.who) more t.sent))) ∧
      (∃ r ∈ (t.port p.port).queue, Pk.type r = 8 ∧ Pk.addr r = 0 ∧ Pk.dst r = Pk.src p ∧ Pk.tag r = Pk.tag p) ∧
      { t with cur := s.cur, rest := s.rest, sent := s.sent, ports := s.ports, fresh := s.fresh } = s) ∧
  (∀ (tag : Nat) (s : State), ((∀ x ∈ s.sent, x.tag ≠ tag) → exec (.requestResend tag) s = .next s) ∧
    ∀ x, s.sent.find? (fun x => x.tag == tag) = some x →
      ((∀ k < 16, (s.port k).up = false) → exec (.requestResend tag) s = .next s) ∧
      ((∃ k < 16, (s.port k).up = true) → ∃ t k, exec (.requestResend tag) s = .next t ∧ k < 16 ∧
        (s.port k).up = true ∧
        t.sent = s.sent.map (fun z => if z.tag = tag
          then { x with sends := x.sends + 1, packet := onPort x.packet k, stale := false } else z) ∧
        QueuedAt t x.packet k ∧
        OnlySends s { t with sent := s.sent })) ∧
  (∀ (p : Packet) (c : Contribution) (size : Nat) (s : State), Arrives s p 6 →
    let i := Instr.collectiveContribution p c
    let repeated : Prop := ∃ d ∈ s.completed, d.src = Pk.src p ∧ d.tag = Pk.tag p
    (c.fn = 255 → ∃ t, exec i s = .next t ∧ (Pk.gid p, Pk.member p) ∈ (t.part p.part).lost) ∧
    (c.fn ≠ 255 → repeated → ∃ t, exec i s = .next t ∧ OnlySends s t) ∧
    (c.fn ≠ 255 → ¬repeated → s.groupSize p.part (Pk.gid p) = none → exec i s = .next s) ∧
    (c.fn ≠ 255 → ¬repeated → s.groupSize p.part (Pk.gid p) = some size →
      (s.part p.part).coll? (Pk.gid p) (Pk.seq p) = none → (s.parts.map fun x => x.2.colls.length).sum < 64 →
      ∃ t, exec i s = .next t ∧ (∃ k ∈ (t.part p.part).colls, k.gid = Pk.gid p ∧ k.seq = Pk.seq p ∧ k.size = size ∧
          k.pieces = [⟨Pk.member p, Pk.chunk p, c⟩] ∧ k.results = [] ∧ k.served = []) ∧
        (∀ r rs, s.ranks p.part (Pk.gid p) size = r :: rs → r.dev ≠ s.devid → (t.part p.part).colls =
            (s.part p.part).colls ++ [⟨Pk.gid p, Pk.seq p, size, [⟨Pk.member p, Pk.chunk p, c⟩], [], false, none, []⟩] ∧
          { t with parts := s.parts, completed := s.completed } = s))) ∧
  ∀ (p : Packet) (x : Coll) (s : State), Arrives s p 7 → (s.part p.part).colls = [x] → x.gid = Pk.gid p →
    x.seq = Pk.seq p → (∀ y ∈ x.results, y.1 ≠ Pk.member p ∨ y.2.1 ≠ Pk.chunk p) →
    ∃ t, exec (.collectiveResult p) s = .next t ∧
      (t.part p.part).colls = [{ x with results := x.results ++ [(Pk.member p, Pk.chunk p,
        ((Pk.data p).drop 8).take (numberOf ((Pk.data p).take 8)))] }] ∧
      { t with parts := s.parts, sent := s.sent, ports := s.ports, fresh := s.fresh } = s ∧
      let mine (y : Sent) : Bool := Pk.type y.packet == 6 && Pk.addr y.packet / 2 ^ 20 == Pk.addr p / 2 ^ 20
        && y.packet.part == p.part
      t.sent = s.sent.filter (fun y => !mine y) ∧
      ∀ y, s.sent.filter mine = [y] → ∃ r ∈ (t.port p.port).queue, Pk.type r = 8 ∧ Pk.addr r = 0 ∧
        Pk.dst r = Pk.dst y.packet ∧ Pk.tag r = Pk.tag y.packet

namespace Sys2Proof.Claims

/-- Words of instructions, built field by field from the layouts of R61 to R67: length in bytes, bits, instruction. -/
noncomputable def sampleWords : List (Nat × Nat × Instr) :=
  [(4, 0b000000000_00011_00010_00001_000000_01, .add 1 2 3),
    (4, 0b00000000000010_00000_00101_000001_01, .addi 5 0 2),
    (4, 0b000000_00_111111_00010_00001_000111_01, .slli 1 2 63),
    (4, 0b11111111110_000_00000_00110_001100_01, .beq 6 0 0x7FE),
    (4, 0b0000_0_1_11_010010_01100_000_00_001111_01, .loopSet 12 .f32 3 1 0),
    (4, 0b11111111110100_00000_000_01_001111_01, .loopNext 0x3FF4),
    (4, 0b0000000100_0001_00101_00000_010000_01, .csrw 0 4 5),
    (4, 0b00000_010_00000011_00000001_010001_01, .fence 1 3 .stack),
    (4, 0b0010_00_010000_010000_010000_100000_01, .vmul 16 16 16 0),
    (4, 0b1100_00_010010_001000_010000_100001_01, .vwiden 16 8 .f32 0),
    (4, 0b0010_00_0_01111_010000_010000_100010_01, .vmulX 16 16 15 0),
    (4, 0b1101_00_0_00000_011100_001111_100010_01, .vmvXv 15 28 0),
    (4, 0b1011_00_000000_011100_011100_100011_01, .vrsqrtAcc 28 28 0),
    (4, 0b0001_00_011001_010000_011001_100100_01, .vredsumTree 25 16 25 0),
    (4, 0b0000_00_011000_010001_011000_100111_01, .hbind 24 17 24 0),
    (4, 0b0100_00_011000_101000_001110_100111_01, .hsim 14 40 24 0),
    (4, 0b0101_00_001001_000000_101010_100111_01, .hrand 42 9 0),
    (8, 0b00_1111111111_0000000000000000_0_0000_00_00_000000_000000_101_0000_00000_011, .tclr 5 0x3FF 0 0 0),
    (8, 0b000000000000000000000000000000000_10000_01011_101010_01111_0_0_00110_011, .hclean 15 42 11 16),
    (2, 0b111111_00011_0000_0, .hAddi 3 0x3F),
    (2, 0b00000000000_1110_0, .hNop)]

/-- The state in which the instruction of `w` has been fetched from its place after reset: what a fetch leaves alone. -/
def AsPlaced (w : Nat) (nbits : Nat) (t : State) : Prop :=
  let s := State.reset.withFetchWord nbits w
  t.cur.pc = s.cur.pc ∧ t.cur.x = s.cur.x ∧ t.cur.v = s.cur.v ∧ t.cur.m = s.cur.m ∧ t.cur.csr = s.cur.csr ∧
    t.cur.tiles = s.cur.tiles ∧ t.cur.status = .running ∧ t.mem = s.mem ∧ t.home = s.home ∧ t.host = s.host ∧
    t.parts = s.parts ∧ t.rest = s.rest ∧ t.agenda = []

end Sys2Proof.Claims

/-- Sanity: words written out from the layouts of R61 to R67 decode to the instructions that they stand for. -/
def Obligations.DecodeWords : Prop := ∀ x ∈ sampleWords, decodeBits x.1 x.2.1 = .ok x.2.2

/-- R56, R58 to R67: what the encoder writes for a well-formed instruction, followed by any bytes, decodes to that
instruction with every operand, and leaves those bytes. -/
def Obligations.EncodeDecode : Prop :=
  ∀ (i : Instr) (c : Code) (rest : List Byte), encode? i = some c → i.illFormed = none →
    decode (c.bytes ++ rest) = .ok (i, rest)

/-- R57, R58, R325: a step of a context that issues fetches at its PC and executes the instruction that the bits decode
to; bits that decode to none trap `ILL`; a context that was asked to stop stops at this boundary instead. When it is not a
hart's turn, the next of the module's own steps that would change something runs, after the last one and then from the
first again, so that none waits for ever (R228, R273). The order of agents is the model's choice (DESIGN CHOICE, log entry
1). -/
def Obligations.StepRuns : Prop :=
  (∀ (s s1 : State) (len n : Nat), s.cur.status = .running → s.cur.request = none → s.agenda = [] → s.devTurn = false →
    State.fetch { s with devTurn := true } = .got len n s1 →
    (∀ i, decodeBits len n = .ok i → step s = exec i s1) ∧
    ∀ e, decodeBits len n = .error e → step s = .next (takeTrap (trapILL n) len s1)) ∧
  (∀ (s s1 : State), s.cur.status = .running → s.cur.request = none → s.agenda = [] → s.devTurn = false →
    State.fetch { s with devTurn := true } = .stop s1 → step s = .next s1) ∧
  (∀ (s : State) (r : Reason), s.cur.status = .running → s.cur.outstanding = false → s.cur.request = some r → s.agenda = [] → s.devTurn = false →
    ∃ t, step s = .next t ∧ t.cur.status = .stopping r ∧ t.cur.pc = s.cur.pc ∧
      { t with cur := s.cur, devTurn := false } = s) ∧
  (∀ (s : State) (x : Nat × Instr), s.agenda = [] → (s.devTurn = true ∨ s.cur.status ≠ .running) → s.ownEvent = some x →
    step s = exec x.2 { s.rotate with devTurn := false, sweep := x.1 } ∧ x ∈ s.due ∧
    (s.sweep < x.1 ∨ ∀ y ∈ s.due, s.changes y.2 = true → y.1 ≤ s.sweep) ∧
    ∀ y ∈ s.due, s.changes y.2 = true → s.sweep < y.1 ∨ x.1 ≤ s.sweep → x.1 ≤ y.1) ∧
  (∀ s : State, s.ownEvent = none → ∀ y ∈ s.due, s.changes y.2 = false) ∧
  ∀ (i : Instr) (ts : List Turn) (s : State), s.agenda = .event i :: ts → encode? i = none →
    step s = exec i { s with agenda := ts }

/-- R57: for every well-formed instruction, the step after reset with its words placed (DESIGN CHOICE, log entry 9)
executes it, in a state in which the fetch has left registers and memory alone. -/
def Obligations.PlacedRuns : Prop :=
  ∀ (i : Instr) (c : Code), encode? i = some c → i.illFormed = none →
    ∃ s, AsPlaced c.bits (8 * c.len) s ∧ step (State.reset.withFetchWord (8 * c.len) c.bits) = exec i s

/-- Every step keeps device memory and host memory in canonical form: addresses rising, no byte listed that an unlisted
one reads as. -/
def Obligations.MemoryCanonical : Prop :=
  ∀ s t : State, Safety.memoryWf s = true → step s = .next t → Safety.memoryWf t = true

/-- What device reset leaves. R344, R262: the registers of every partition, every segment in `HOME`. R352, R355, R356:
stage 0, `READY` 0, the measurement registers zero, no dump, no quote. R268: every bank `OFF`, live and with no frame,
the generation count 0. R30: the counters of every core 0. The memories are in canonical form, and the contents of what
the spec gives no reset value are the model's choice (DESIGN CHOICE, log entries 5 to 8), of which nothing is said here.
-/
def Obligations.ResetState : Prop :=
  let s := State.reset
  Safety.memoryWf s = true ∧ s.boot.stage = 0 ∧ s.boot.ready = false ∧ s.boot.waitrec = false ∧ s.sec.busy = false ∧
    s.sec.result = 0 ∧ s.sec.nonce = 0 ∧ s.sec.qaddr = 0 ∧ s.dump.fatal = none ∧ s.dump.finished = false ∧
    s.dump.incomplete = false ∧ (∀ k, s.boot.mr.getD k 0 = 0) ∧ s.generation = 0 ∧
    (∀ c, (s.core c).cycle = 0 ∧ (s.core c).instret = 0 ∧ (s.core c).pfdrop = 0) ∧
    (∀ b, (s.bank b).frames = 0 ∧ (s.bank b).power = .off ∧ (s.bank b).retired = false) ∧
    ∀ n, let p := s.part n
      p.en = false ∧ p.rszBusy = false ∧ p.rszErr = false ∧ p.segPending = 0 ∧ p.segErr = false ∧ p.colmap = 0 ∧ p.chmap = 0 ∧
      p.bwd = 0 ∧ p.bwx = 0 ∧ p.qprio = 0xFFAA5500 ∧ p.dthr = 224 ∧ p.fqbase = 0 ∧ p.fqlog = 4 ∧ p.cqbase = 0 ∧ p.cqlog = 4 ∧
      p.cqhead = 0 ∧ p.cqtail = 0 ∧ p.svbase = 0 ∧ p.svslots = 0 ∧ p.mdsize = 0 ∧ p.gtbase = 0 ∧ p.gtcount = 0 ∧ p.rwtbase = 0 ∧
      p.rwtcount = 0 ∧ p.btcount = 4 ∧ p.shootBusy = false ∧ p.shootv = 0 ∧ p.cstbase = 0 ∧ p.segs = 0 ∧ p.head = 0

/-- R56, R58 to R67: bytes that decode to an instruction begin with exactly what the encoder writes for it, and the
instruction is well formed: no bit is ignored, and no two encodings share an instruction. -/
def Obligations.DecodeEncode : Prop :=
  ∀ (bs rest : List Byte) (i : Instr), decode bs = .ok (i, rest) →
    i.illFormed = none ∧ ∃ c, encode? i = some c ∧ bs = c.bytes ++ rest
end

