-- ==== Sys2Proof/Laws/Decode.lean ====
section
/-! SUPPORT. What the decoder reads back from the words that the encoder writes: field by field, and from bytes. -/

namespace Sys2Proof

/-! ## Fields -/

theorem unpack_pack_cons (w : Nat) (ws : List Nat) (v : Nat) (vs : List Nat) :
    unpack (w :: ws) (pack (w :: ws) (v :: vs)) = v % 2 ^ w :: unpack ws (pack ws vs) := by
  simp only [unpack, pack]
  rw [Nat.add_mul_mod_self_left, Nat.mod_mod, Nat.add_mul_div_left _ _ (Nat.two_pow_pos w),
    Nat.div_eq_of_lt (Nat.mod_lt _ (Nat.two_pow_pos w)), Nat.zero_add]

@[simp] theorem unpack_nil (n : Nat) : unpack [] n = [] := rfl

/-- A packed number is below the power of two of its whole width. -/
theorem pack_lt (ws vs : List Nat) : pack ws vs < 2 ^ ws.sum := by
  induction ws generalizing vs with
  | nil => simp [pack]
  | cons w ws ih =>
    cases vs with
    | nil => simp [pack]
    | cons v vs =>
      have hm := Nat.mod_lt v (Nat.two_pow_pos w)
      have hp : 2 ^ w * (pack ws vs + 1) ≤ 2 ^ w * 2 ^ ws.sum := Nat.mul_le_mul_left _ (ih vs)
      simp only [pack, List.sum_cons, Nat.pow_add]
      rw [Nat.mul_add] at hp
      omega

/-- A field that holds several parts keeps them whole. -/
theorem pack_mod (k : Nat) (ws vs : List Nat) (h : ws.sum ≤ k) : pack ws vs % 2 ^ k = pack ws vs :=
  Nat.mod_eq_of_lt (Nat.lt_of_lt_of_le (pack_lt ws vs) (Nat.pow_le_pow_right (by decide) h))

theorem bitsAt_major (a m : Nat) (ws vs : List Nat) :
    bitsAt (pack (2 :: 6 :: ws) (a :: m :: vs)) 2 6 = m % 2 ^ 6 := by
  simp only [bitsAt, pack]
  rw [Nat.add_mul_div_left _ _ (Nat.two_pow_pos 2), Nat.div_eq_of_lt (Nat.mod_lt _ (Nat.two_pow_pos 2)), Nat.zero_add,
    Nat.add_mul_mod_self_left, Nat.mod_mod]

theorem bitsAt_class (a m : Nat) (ws vs : List Nat) :
    bitsAt (pack (3 :: 5 :: ws) (a :: m :: vs)) 3 5 = m % 2 ^ 5 := by
  simp only [bitsAt, pack]
  rw [Nat.add_mul_div_left _ _ (Nat.two_pow_pos 3), Nat.div_eq_of_lt (Nat.mod_lt _ (Nat.two_pow_pos 3)), Nat.zero_add,
    Nat.add_mul_mod_self_left, Nat.mod_mod]

theorem ofNat_mod (w : Nat) (x : BitVec w) : BitVec.ofNat w (x.toNat % 2 ^ w) = x := by simp

theorem withTag_code (t : Tag) (k : Tag → Raw) : withTag (t.code % 2 ^ 6) k = k t := by
  have h : Tag.ofCode? (t.code % 2 ^ 6) = some t := by
    cases t <;> try rfl
    all_goals (rename_i n; revert n; decide)
  simp only [withTag, h]

theorem withScope_code (t : Scope) (k : Scope → Raw) : withScope (t.code % 2 ^ 3) k = k t := by cases t <;> rfl

theorem ofCode_code (o : Ord) : Ord.ofCode (o.code % 2 ^ 2) = o := by cases o <;> rfl

/-! ## Lengths (R56) -/

theorem lengthOf_half (ws vs : List Nat) : lengthOf (pack (1 :: ws) (0 :: vs)) = 2 := by
  have h : pack (1 :: ws) (0 :: vs) % 2 = 0 := by simp only [pack]; omega
  simp [lengthOf, h]

theorem lengthOf_word (ws vs : List Nat) : lengthOf (pack (2 :: ws) (1 :: vs)) = 4 := by
  have h : pack (2 :: ws) (1 :: vs) % 4 = 1 := by simp only [pack]; omega
  have h2 : pack (2 :: ws) (1 :: vs) % 2 = 1 := by omega
  simp [lengthOf, h, h2]

theorem lengthOf_double (ws vs : List Nat) : lengthOf (pack (3 :: ws) (3 :: vs)) = 8 := by
  have h : pack (3 :: ws) (3 :: vs) % 8 = 3 := by simp only [pack]; omega
  have h2 : pack (3 :: ws) (3 :: vs) % 2 = 1 := by omega
  have h4 : pack (3 :: ws) (3 :: vs) % 4 = 3 := by omega
  simp [lengthOf, h, h2, h4]

/-- Only the low three bits of parcel 0 decide the length. -/
theorem lengthOf_mod (n k : Nat) (h : 8 ∣ k) : lengthOf (n % k) = lengthOf n := by
  have h2 : n % k % 2 = n % 2 := Nat.mod_mod_of_dvd n (Dvd.dvd.trans (by decide) h)
  have h4 : n % k % 4 = n % 4 := Nat.mod_mod_of_dvd n (Dvd.dvd.trans (by decide) h)
  have h8 : n % k % 8 = n % 8 := Nat.mod_mod_of_dvd n h
  simp only [lengthOf, h2, h4, h8]

/-! ## Bytes (R8) -/

theorem leBytes_length (k n : Nat) : (leBytes k n).length = k := by
  induction k generalizing n with
  | zero => rfl
  | succ k ih => simp [leBytes, ih]

theorem leNat_leBytes (k n : Nat) : leNat (leBytes k n) = n % 256 ^ k := by
  induction k generalizing n with
  | zero => simp [leBytes, leNat, Nat.mod_one]
  | succ k ih =>
    simp only [leBytes, leNat, ih, BitVec.toNat_ofNat]
    rw [show (2 : Nat) ^ 8 = 256 by decide, show (256 : Nat) ^ (k + 1) = 256 * 256 ^ k by rw [Nat.pow_succ, Nat.mul_comm],
      Nat.mod_mul]

/-- The first bytes of a little-endian number are those of the number itself. -/
theorem leBytes_take (j k n : Nat) (h : j ≤ k) : (leBytes k n).take j = leBytes j n := by
  induction j generalizing k n with
  | zero => rfl
  | succ j ih =>
    obtain ⟨k, rfl⟩ : ∃ m, k = m + 1 := ⟨k - 1, by omega⟩
    simp [leBytes, ih k (n / 256) (by omega)]

/-- The decoder reads whole bytes: words whose length parcel 0 announces decode to what their bits decode to. -/
theorem decode_bytes (c : Code) (rest : List Byte) (h1 : 2 ≤ c.len) (h2 : lengthOf c.bits = c.len)
    (h3 : c.bits < 256 ^ c.len) (i : Instr) (h : decodeBits c.len c.bits = .ok i) :
    decode (c.bytes ++ rest) = .ok (i, rest) := by
  obtain ⟨len, bits⟩ := c
  obtain ⟨k, rfl⟩ : ∃ m, len = m + 2 := ⟨len - 2, by simp at h1; omega⟩
  simp only at h2 h3 h
  have hb : Code.bytes ⟨k + 2, bits⟩ = BitVec.ofNat 8 bits :: BitVec.ofNat 8 (bits / 256) :: leBytes k (bits / 256 / 256) := rfl
  have hl : (Code.bytes ⟨k + 2, bits⟩).length = k + 2 := leBytes_length _ _
  have hp : leNat [BitVec.ofNat 8 bits, BitVec.ofNat 8 (bits / 256)] = bits % 65536 := leNat_leBytes 2 bits
  have hlen : lengthOf (leNat [BitVec.ofNat 8 bits, BitVec.ofNat 8 (bits / 256)]) = k + 2 := by
    rw [hp, lengthOf_mod _ _ (by decide), h2]
  have ht : (Code.bytes ⟨k + 2, bits⟩ ++ rest).take (k + 2) = leBytes (k + 2) bits := List.take_left' hl
  have hd : (Code.bytes ⟨k + 2, bits⟩ ++ rest).drop (k + 2) = rest := List.drop_left' hl
  have hn : leNat (leBytes (k + 2) bits) = bits := by rw [leNat_leBytes, Nat.mod_eq_of_lt h3]
  have hge : ¬ (Code.bytes ⟨k + 2, bits⟩ ++ rest).length < k + 2 := by simp [hl]
  rw [hb] at ht hd hge ⊢
  simp only [decode, List.cons_append] at ht hd hge ⊢
  rw [hlen, ht, hd, hn, h]
  simp only [beq_iff_eq, Nat.add_eq_zero_iff, OfNat.ofNat_ne_zero, and_false, if_false, if_neg hge]

end Sys2Proof
end

