-- ==== Sys2Proof/Laws/Table.lean ====
section
/-! SUPPORT. The laws of tables by key, of memories and of sparse byte sets: what a read after a write gives, and that
every operation keeps the canonical form. -/

namespace Sys2Proof.Machine

/-! ## Reads after writes -/

theorem tget_tput {α : Type} (d : α) (t : List (Nat × α)) (k j : Nat) (v : α) :
    tget d (tput t k v) j = if j = k then v else tget d t j := by
  induction t with
  | nil => simp only [tput, tget, eq_comm]
  | cons c t ih =>
    obtain ⟨i, u⟩ := c
    simp only [tput]
    split
    · simp only [tget, eq_comm]
    · split
      · rename_i hik
        subst hik
        simp only [tget]
        by_cases h : i = j
        · simp [h]
        · simp [h, Ne.symm h]
      · rename_i hik
        simp only [tget, ih]
        by_cases h : i = j
        · subst h; simp [hik]
        · simp [h]

theorem tget_filter_ne {α : Type} (d : α) (t : List (Nat × α)) (k j : Nat) :
    tget d (t.filter fun c => c.1 ≠ k) j = if j = k then d else tget d t j := by
  induction t with
  | nil => simp [tget]
  | cons c t ih =>
    obtain ⟨i, u⟩ := c
    by_cases hik : i = k
    · subst hik
      simp only [ne_eq, not_true_eq_false, decide_false, Bool.false_eq_true, not_false_eq_true,
        List.filter_cons_of_neg] at ih ⊢
      rw [ih]
      by_cases h : i = j
      · simp [h]
      · simp [tget, h, Ne.symm h]
    · simp only [ne_eq, hik, not_false_eq_true, decide_true, List.filter_cons_of_pos, tget] at ih ⊢
      rw [ih]
      by_cases h : i = j
      · subst h; simp [hik]
      · simp [h]

/-- A table reads at `k` what was written there, and elsewhere what it read before. -/
theorem tget_tset {α : Type} [DecidableEq α] (d : α) (t : List (Nat × α)) (k j : Nat) (v : α) :
    tget d (tset d t k v) j = if j = k then v else tget d t j := by
  unfold tset
  split
  · rename_i h; rw [tget_filter_ne, h]
  · exact tget_tput d t k j v

@[simp] theorem tget_tset_self {α : Type} [DecidableEq α] (d : α) (t : List (Nat × α)) (k : Nat) (v : α) :
    tget d (tset d t k v) k = v := by simp [tget_tset]

theorem tget_tset_ne {α : Type} [DecidableEq α] (d : α) (t : List (Nat × α)) {k j : Nat} (v : α) (h : j ≠ k) :
    tget d (tset d t k v) j = tget d t j := by simp [tget_tset, h]

/-! ## The canonical form of tables -/

theorem twfFrom_iff {α : Type} [DecidableEq α] (d : α) (lo : Option Nat) (t : List (Nat × α)) :
    twfFrom d lo t = true ↔
      (∀ c ∈ t, (∀ l ∈ lo, l < c.1) ∧ c.2 ≠ d) ∧ t.Pairwise fun a b => a.1 < b.1 := by
  induction t generalizing lo with
  | nil => simp [twfFrom]
  | cons c t ih =>
    obtain ⟨j, u⟩ := c
    simp only [twfFrom, Bool.and_eq_true, decide_eq_true_eq, ih, List.pairwise_cons, List.forall_mem_cons]
    constructor
    · rintro ⟨⟨hl, hu⟩, hall, hp⟩
      have hlj : ∀ l ∈ lo, l < j := by
        intro l hl'; cases lo <;> simp_all
      exact ⟨⟨⟨hlj, hu⟩, fun c hc => ⟨fun l hl' => Nat.lt_trans (hlj l hl') ((hall c hc).1 j rfl), (hall c hc).2⟩⟩,
        fun c hc => (hall c hc).1 j rfl, hp⟩
    · rintro ⟨⟨⟨hl, hu⟩, hall⟩, hj, hp⟩
      refine ⟨⟨?_, hu⟩, fun c hc => ⟨fun l hl' => ?_, (hall c hc).2⟩, hp⟩
      · cases lo <;> simp_all
      · cases hl'; exact hj c hc

theorem twf_iff {α : Type} [DecidableEq α] (d : α) (t : List (Nat × α)) :
    twf d t = true ↔ (∀ c ∈ t, c.2 ≠ d) ∧ t.Pairwise fun a b => a.1 < b.1 := by
  simp [twf, twfFrom_iff]

theorem mem_tput {α : Type} {t : List (Nat × α)} {k : Nat} {v : α} {c : Nat × α} (h : c ∈ tput t k v) :
    c = (k, v) ∨ c ∈ t := by
  induction t with
  | nil => simpa [tput] using h
  | cons e t ih =>
    obtain ⟨j, u⟩ := e
    simp only [tput] at h
    split at h
    · simpa using h
    · split at h
      · rcases List.mem_cons.1 h with h | h
        · exact .inl h
        · exact .inr (List.mem_cons_of_mem _ h)
      · rcases List.mem_cons.1 h with h | h
        · exact .inr (h ▸ List.mem_cons_self)
        · exact (ih h).imp id (List.mem_cons_of_mem _)

theorem pairwise_tput {α : Type} {t : List (Nat × α)} (k : Nat) (v : α) (h : t.Pairwise fun a b => a.1 < b.1) :
    (tput t k v).Pairwise fun a b => a.1 < b.1 := by
  induction t with
  | nil => simp [tput]
  | cons e t ih =>
    obtain ⟨j, u⟩ := e
    rw [List.pairwise_cons] at h
    simp only [tput]
    split
    · rename_i hk
      exact List.pairwise_cons.2 ⟨fun c hc => by
        rcases List.mem_cons.1 hc with rfl | hc
        · exact hk
        · exact Nat.lt_trans hk (h.1 c hc), List.pairwise_cons.2 h⟩
    · split
      · rename_i hk; subst hk; exact List.pairwise_cons.2 h
      · rename_i hk1 hk2
        refine List.pairwise_cons.2 ⟨fun c hc => ?_, ih h.2⟩
        rcases mem_tput hc with rfl | hc
        · exact Nat.lt_of_le_of_ne (Nat.le_of_not_lt hk1) hk2
        · exact h.1 c hc

/-- A write keeps the canonical form of a table. -/
theorem twf_tset {α : Type} [DecidableEq α] {d : α} {t : List (Nat × α)} (k : Nat) (v : α) (h : twf d t = true) :
    twf d (tset d t k v) = true := by
  rw [twf_iff] at h ⊢
  unfold tset
  split
  · exact ⟨fun c hc => h.1 c (List.mem_of_mem_filter hc), h.2.filter _⟩
  · rename_i hv
    refine ⟨fun c hc => ?_, pairwise_tput k v h.2⟩
    rcases mem_tput hc with rfl | hc
    · exact hv
    · exact h.1 c hc

/-- A part of a table in canonical form is in canonical form. -/
theorem twf_filter {α : Type} [DecidableEq α] {d : α} {t : List (Nat × α)} (p : Nat × α → Bool) (h : twf d t = true) :
    twf d (t.filter p) = true := by
  rw [twf_iff] at h ⊢
  exact ⟨fun c hc => h.1 c (List.mem_of_mem_filter hc), h.2.filter _⟩

/-- Two tables in canonical form that read alike everywhere are equal. -/
theorem twf_ext {α : Type} [DecidableEq α] {d : α} {t u : List (Nat × α)} (ht : twf d t = true) (hu : twf d u = true)
    (h : ∀ k, tget d t k = tget d u k) : t = u := by
  have key : ∀ (t : List (Nat × α)) (k : Nat) (v : α), (∀ c ∈ t, k < c.1) → tget d ((k, v) :: t) k = v ∧
      tget d t k = d := by
    intro t k v hk
    refine ⟨by simp [tget], ?_⟩
    induction t with
    | nil => rfl
    | cons c t ih =>
      have := hk c List.mem_cons_self
      simp only [tget]
      rw [if_neg (by omega)]
      exact ih fun c hc => hk c (List.mem_cons_of_mem _ hc)
  rw [twf_iff] at ht hu
  induction t generalizing u with
  | nil =>
    cases u with
    | nil => rfl
    | cons c u =>
      have := (key u c.1 c.2 (List.pairwise_cons.1 hu.2).1).1
      exact absurd ((h c.1).trans this).symm (hu.1 c List.mem_cons_self)
  | cons c t ih =>
    obtain ⟨htd, htp⟩ := ht
    obtain ⟨hud, hup⟩ := hu
    have htp' := List.pairwise_cons.1 htp
    have htk := key t c.1 c.2 htp'.1
    cases u with
    | nil => exact absurd ((h c.1).symm.trans htk.1).symm (htd c List.mem_cons_self)
    | cons e u =>
      have hup' := List.pairwise_cons.1 hup
      have huk := key u e.1 e.2 hup'.1
      have hke : c.1 = e.1 := by
        by_contra hne
        rcases Nat.lt_or_gt_of_ne hne with hlt | hlt
        · have h1 : tget d (e :: u) c.1 = d :=
            (key (e :: u) c.1 d (fun x hx => by
              rcases List.mem_cons.1 hx with rfl | hx
              · exact hlt
              · exact Nat.lt_trans hlt (hup'.1 x hx))).2
          exact htd c List.mem_cons_self (htk.1.symm.trans ((h c.1).trans h1))
        · have h1 : tget d (c :: t) e.1 = d :=
            (key (c :: t) e.1 d (fun x hx => by
              rcases List.mem_cons.1 hx with rfl | hx
              · exact hlt
              · exact Nat.lt_trans hlt (htp'.1 x hx))).2
          exact hud e List.mem_cons_self (huk.1.symm.trans ((h e.1).symm.trans h1))
      have hv : c.2 = e.2 := by
        have h0 := h c.1
        rw [show tget d (c :: t) c.1 = c.2 from htk.1] at h0
        rw [h0, hke]
        exact huk.1
      have hce : c = e := Prod.ext hke hv
      subst hce
      congr 1
      refine ih ⟨fun x hx => htd x (List.mem_cons_of_mem _ hx), htp'.2⟩
        ⟨fun x hx => hud x (List.mem_cons_of_mem _ hx), hup'.2⟩ fun k => ?_
      by_cases hk : k = c.1
      · subst hk
        rw [htk.2]
        exact (key u c.1 c.2 hup'.1).2.symm
      · have h0 := h k
        simp only [tget] at h0
        rwa [if_neg (Ne.symm hk), if_neg (Ne.symm hk)] at h0

/-! ## Memories -/

theorem Memory.get_set (m : List Host.Cell) (a i : Nat) (b : Byte) :
    Memory.get (Memory.set m a b) i = if i = a then b else Memory.get m i := tget_tset _ _ _ _ _

theorem Memory.wf_set {m : List Host.Cell} (a : Nat) (b : Byte) (h : Memory.wf m = true) :
    Memory.wf (Memory.set m a b) = true := twf_tset a b h

/-- A memory reads the written bytes at the written addresses, and elsewhere what it read before. -/
theorem Memory.get_write (m : List Host.Cell) (a i : Nat) (bs : List Byte) :
    Memory.get (Memory.write m a bs) i =
      if a ≤ i ∧ i < a + bs.length then bs.getD (i - a) 0 else Memory.get m i := by
  induction bs generalizing m a with
  | nil => simp [Memory.write]
  | cons b bs ih =>
    rw [Memory.write, ih, Memory.get_set]
    by_cases h : i = a
    · subst h; simp
    · by_cases h1 : a + 1 ≤ i ∧ i < a + 1 + bs.length
      · obtain ⟨k, rfl⟩ : ∃ k, i = a + 1 + k := ⟨i - (a + 1), by omega⟩
        rw [if_pos h1, if_pos (by simp only [List.length_cons]; omega), show a + 1 + k - a = k + 1 by omega,
          show a + 1 + k - (a + 1) = k by omega, List.getD_cons_succ]
      · rw [if_neg h1, if_neg h, if_neg (by simp only [List.length_cons]; omega)]

theorem Memory.wf_write {m : List Host.Cell} (a : Nat) (bs : List Byte) (h : Memory.wf m = true) :
    Memory.wf (Memory.write m a bs) = true := by
  induction bs generalizing m a with
  | nil => exact h
  | cons b bs ih => exact ih _ (Memory.wf_set a b h)

theorem Memory.read_length (m : List Host.Cell) (a n : Nat) : (Memory.read m a n).length = n := by
  induction n generalizing a with
  | zero => rfl
  | succ n ih => simp [Memory.read, ih]

theorem Memory.getD_read (m : List Host.Cell) (a n i : Nat) (h : i < n) :
    (Memory.read m a n).getD i 0 = Memory.get m (a + i) := by
  induction n generalizing a i with
  | zero => omega
  | succ n ih =>
    cases i with
    | zero => rfl
    | succ i => rw [Memory.read, List.getD_cons_succ, ih (a + 1) i (by omega), Nat.add_assoc, Nat.add_comm 1 i]

/-- A read of the bytes just written gives them. -/
theorem Memory.read_write (m : List Host.Cell) (a : Nat) (bs : List Byte) :
    Memory.read (Memory.write m a bs) a bs.length = bs := by
  apply List.ext_getElem (Memory.read_length _ _ _)
  intro i h1 h2
  have h3 := Memory.getD_read (Memory.write m a bs) a bs.length i h2
  rw [Memory.get_write, if_pos ⟨by omega, by omega⟩, show a + i - a = i by omega] at h3
  simpa [List.getD_eq_getElem?_getD, List.getElem?_eq_getElem h1, List.getElem?_eq_getElem h2] using h3

/-- A part of a memory in canonical form is in canonical form. -/
theorem Memory.wf_filter {m : List Host.Cell} (p : Host.Cell → Bool) (h : Memory.wf m = true) :
    Memory.wf (m.filter p) = true := twf_filter p h

/-- Two memories in canonical form that read alike everywhere are equal. -/
theorem Memory.wf_ext {m n : List Host.Cell} (hm : Memory.wf m = true) (hn : Memory.wf n = true)
    (h : ∀ a, Memory.get m a = Memory.get n a) : m = n := twf_ext hm hn h

/-! ## Sparse sets of bytes -/

theorem overlayGet_set (o : List Host.Cell) (a i : Nat) (b : Byte) :
    overlayGet (overlaySet o a b) i = if i = a then some b else overlayGet o i := by
  unfold overlaySet
  induction o with
  | nil => simp only [tput, overlayGet, eq_comm]
  | cons c o ih =>
    obtain ⟨j, u⟩ := c
    simp only [tput]
    split
    · simp only [overlayGet, eq_comm]
    · split
      · rename_i hj
        subst hj
        simp only [overlayGet]
        by_cases h : j = i
        · simp [h]
        · simp [h, Ne.symm h]
      · rename_i hj
        simp only [overlayGet, ih]
        by_cases h : j = i
        · subst h; simp [hj]
        · simp [h]

theorem overlayGet_drop (o : List Host.Cell) (lo hi i : Nat) :
    overlayGet (overlayDrop o lo hi) i = if lo ≤ i ∧ i < hi then none else overlayGet o i := by
  unfold overlayDrop
  induction o with
  | nil => simp [overlayGet]
  | cons c o ih =>
    obtain ⟨j, u⟩ := c
    by_cases hj : lo ≤ j ∧ j < hi
    · rw [List.filter_cons_of_neg (by simp [hj]), ih]
      by_cases h : j = i
      · subst h; simp [hj]
      · simp [overlayGet, h]
    · rw [List.filter_cons_of_pos (by simp; omega)]
      simp only [overlayGet, ih]
      by_cases h : j = i
      · subst h; simp [hj]
      · simp [h]

end Sys2Proof.Machine
end

