-- ==== Sys2Proof/Laws/State.lean ====
section
/-! SUPPORT. What each update of the state leaves and what it writes, field by field. -/

namespace Sys2Proof.Machine

/-! ### `State.setCur` -/

@[simp] theorem State.setCur_cur (s : State) (h : Hart) : (s.setCur h).cur = h := rfl
@[simp] theorem State.setCur_rest (s : State) (h : Hart) : (s.setCur h).rest = s.rest := rfl
@[simp] theorem State.setCur_cores (s : State) (h : Hart) : (s.setCur h).cores = s.cores := rfl
@[simp] theorem State.setCur_parts (s : State) (h : Hart) : (s.setCur h).parts = s.parts := rfl
@[simp] theorem State.setCur_mem (s : State) (h : Hart) : (s.setCur h).mem = s.mem := rfl
@[simp] theorem State.setCur_home (s : State) (h : Hart) : (s.setCur h).home = s.home := rfl
@[simp] theorem State.setCur_host (s : State) (h : Hart) : (s.setCur h).host = s.host := rfl
@[simp] theorem State.setCur_frames (s : State) (h : Hart) : (s.setCur h).frames = s.frames := rfl
@[simp] theorem State.setCur_poison (s : State) (h : Hart) : (s.setCur h).poison = s.poison := rfl
@[simp] theorem State.setCur_ptes (s : State) (h : Hart) : (s.setCur h).ptes = s.ptes := rfl
@[simp] theorem State.setCur_banks (s : State) (h : Hart) : (s.setCur h).banks = s.banks := rfl
@[simp] theorem State.setCur_reserved (s : State) (h : Hart) : (s.setCur h).reserved = s.reserved := rfl
@[simp] theorem State.setCur_freeSegs (s : State) (h : Hart) : (s.setCur h).freeSegs = s.freeSegs := rfl
@[simp] theorem State.setCur_generation (s : State) (h : Hart) : (s.setCur h).generation = s.generation := rfl
@[simp] theorem State.setCur_shoots (s : State) (h : Hart) : (s.setCur h).shoots = s.shoots := rfl
@[simp] theorem State.setCur_migrations (s : State) (h : Hart) : (s.setCur h).migrations = s.migrations := rfl
@[simp] theorem State.setCur_raa (s : State) (h : Hart) : (s.setCur h).raa = s.raa := rfl
@[simp] theorem State.setCur_raaimt (s : State) (h : Hart) : (s.setCur h).raaimt = s.raaimt := rfl
@[simp] theorem State.setCur_raammt (s : State) (h : Hart) : (s.setCur h).raammt = s.raammt := rfl
@[simp] theorem State.setCur_buses (s : State) (h : Hart) : (s.setCur h).buses = s.buses := rfl
@[simp] theorem State.setCur_links (s : State) (h : Hart) : (s.setCur h).links = s.links := rfl
@[simp] theorem State.setCur_ports (s : State) (h : Hart) : (s.setCur h).ports = s.ports := rfl
@[simp] theorem State.setCur_routes (s : State) (h : Hart) : (s.setCur h).routes = s.routes := rfl
@[simp] theorem State.setCur_sent (s : State) (h : Hart) : (s.setCur h).sent = s.sent := rfl
@[simp] theorem State.setCur_completed (s : State) (h : Hart) : (s.setCur h).completed = s.completed := rfl
@[simp] theorem State.setCur_buckets (s : State) (h : Hart) : (s.setCur h).buckets = s.buckets := rfl
@[simp] theorem State.setCur_stalled (s : State) (h : Hart) : (s.setCur h).stalled = s.stalled := rfl
@[simp] theorem State.setCur_throttle (s : State) (h : Hart) : (s.setCur h).throttle = s.throttle := rfl
@[simp] theorem State.setCur_access (s : State) (h : Hart) : (s.setCur h).access = s.access := rfl
@[simp] theorem State.setCur_signals (s : State) (h : Hart) : (s.setCur h).signals = s.signals := rfl
@[simp] theorem State.setCur_hostRead (s : State) (h : Hart) : (s.setCur h).hostRead = s.hostRead := rfl
@[simp] theorem State.setCur_devid (s : State) (h : Hart) : (s.setCur h).devid = s.devid := rfl
@[simp] theorem State.setCur_boot (s : State) (h : Hart) : (s.setCur h).boot = s.boot := rfl
@[simp] theorem State.setCur_sec (s : State) (h : Hart) : (s.setCur h).sec = s.sec := rfl
@[simp] theorem State.setCur_dump (s : State) (h : Hart) : (s.setCur h).dump = s.dump := rfl
@[simp] theorem State.setCur_log (s : State) (h : Hart) : (s.setCur h).log = s.log := rfl
@[simp] theorem State.setCur_agenda (s : State) (h : Hart) : (s.setCur h).agenda = s.agenda := rfl
@[simp] theorem State.setCur_devTurn (s : State) (h : Hart) : (s.setCur h).devTurn = s.devTurn := rfl
@[simp] theorem State.setCur_sweep (s : State) (h : Hart) : (s.setCur h).sweep = s.sweep := rfl
@[simp] theorem State.setCur_fresh (s : State) (h : Hart) : (s.setCur h).fresh = s.fresh := rfl
@[simp] theorem State.setCur_clock (s : State) (h : Hart) : (s.setCur h).clock = s.clock := rfl

/-! ### `State.setCore` -/

@[simp] theorem State.setCore_cur (s : State) (c : Nat) (v : CoreState) : (s.setCore c v).cur = s.cur := rfl
@[simp] theorem State.setCore_rest (s : State) (c : Nat) (v : CoreState) : (s.setCore c v).rest = s.rest := rfl
@[simp] theorem State.setCore_cores (s : State) (c : Nat) (v : CoreState) : (s.setCore c v).cores = tset .reset s.cores c v := rfl
@[simp] theorem State.setCore_parts (s : State) (c : Nat) (v : CoreState) : (s.setCore c v).parts = s.parts := rfl
@[simp] theorem State.setCore_mem (s : State) (c : Nat) (v : CoreState) : (s.setCore c v).mem = s.mem := rfl
@[simp] theorem State.setCore_home (s : State) (c : Nat) (v : CoreState) : (s.setCore c v).home = s.home := rfl
@[simp] theorem State.setCore_host (s : State) (c : Nat) (v : CoreState) : (s.setCore c v).host = s.host := rfl
@[simp] theorem State.setCore_frames (s : State) (c : Nat) (v : CoreState) : (s.setCore c v).frames = s.frames := rfl
@[simp] theorem State.setCore_poison (s : State) (c : Nat) (v : CoreState) : (s.setCore c v).poison = s.poison := rfl
@[simp] theorem State.setCore_ptes (s : State) (c : Nat) (v : CoreState) : (s.setCore c v).ptes = s.ptes := rfl
@[simp] theorem State.setCore_banks (s : State) (c : Nat) (v : CoreState) : (s.setCore c v).banks = s.banks := rfl
@[simp] theorem State.setCore_reserved (s : State) (c : Nat) (v : CoreState) : (s.setCore c v).reserved = s.reserved := rfl
@[simp] theorem State.setCore_freeSegs (s : State) (c : Nat) (v : CoreState) : (s.setCore c v).freeSegs = s.freeSegs := rfl
@[simp] theorem State.setCore_generation (s : State) (c : Nat) (v : CoreState) : (s.setCore c v).generation = s.generation := rfl
@[simp] theorem State.setCore_shoots (s : State) (c : Nat) (v : CoreState) : (s.setCore c v).shoots = s.shoots := rfl
@[simp] theorem State.setCore_migrations (s : State) (c : Nat) (v : CoreState) : (s.setCore c v).migrations = s.migrations := rfl
@[simp] theorem State.setCore_raa (s : State) (c : Nat) (v : CoreState) : (s.setCore c v).raa = s.raa := rfl
@[simp] theorem State.setCore_raaimt (s : State) (c : Nat) (v : CoreState) : (s.setCore c v).raaimt = s.raaimt := rfl
@[simp] theorem State.setCore_raammt (s : State) (c : Nat) (v : CoreState) : (s.setCore c v).raammt = s.raammt := rfl
@[simp] theorem State.setCore_buses (s : State) (c : Nat) (v : CoreState) : (s.setCore c v).buses = s.buses := rfl
@[simp] theorem State.setCore_links (s : State) (c : Nat) (v : CoreState) : (s.setCore c v).links = s.links := rfl
@[simp] theorem State.setCore_ports (s : State) (c : Nat) (v : CoreState) : (s.setCore c v).ports = s.ports := rfl
@[simp] theorem State.setCore_routes (s : State) (c : Nat) (v : CoreState) : (s.setCore c v).routes = s.routes := rfl
@[simp] theorem State.setCore_sent (s : State) (c : Nat) (v : CoreState) : (s.setCore c v).sent = s.sent := rfl
@[simp] theorem State.setCore_completed (s : State) (c : Nat) (v : CoreState) : (s.setCore c v).completed = s.completed := rfl
@[simp] theorem State.setCore_buckets (s : State) (c : Nat) (v : CoreState) : (s.setCore c v).buckets = s.buckets := rfl
@[simp] theorem State.setCore_stalled (s : State) (c : Nat) (v : CoreState) : (s.setCore c v).stalled = s.stalled := rfl
@[simp] theorem State.setCore_throttle (s : State) (c : Nat) (v : CoreState) : (s.setCore c v).throttle = s.throttle := rfl
@[simp] theorem State.setCore_access (s : State) (c : Nat) (v : CoreState) : (s.setCore c v).access = s.access := rfl
@[simp] theorem State.setCore_signals (s : State) (c : Nat) (v : CoreState) : (s.setCore c v).signals = s.signals := rfl
@[simp] theorem State.setCore_hostRead (s : State) (c : Nat) (v : CoreState) : (s.setCore c v).hostRead = s.hostRead := rfl
@[simp] theorem State.setCore_devid (s : State) (c : Nat) (v : CoreState) : (s.setCore c v).devid = s.devid := rfl
@[simp] theorem State.setCore_boot (s : State) (c : Nat) (v : CoreState) : (s.setCore c v).boot = s.boot := rfl
@[simp] theorem State.setCore_sec (s : State) (c : Nat) (v : CoreState) : (s.setCore c v).sec = s.sec := rfl
@[simp] theorem State.setCore_dump (s : State) (c : Nat) (v : CoreState) : (s.setCore c v).dump = s.dump := rfl
@[simp] theorem State.setCore_log (s : State) (c : Nat) (v : CoreState) : (s.setCore c v).log = s.log := rfl
@[simp] theorem State.setCore_agenda (s : State) (c : Nat) (v : CoreState) : (s.setCore c v).agenda = s.agenda := rfl
@[simp] theorem State.setCore_devTurn (s : State) (c : Nat) (v : CoreState) : (s.setCore c v).devTurn = s.devTurn := rfl
@[simp] theorem State.setCore_sweep (s : State) (c : Nat) (v : CoreState) : (s.setCore c v).sweep = s.sweep := rfl
@[simp] theorem State.setCore_fresh (s : State) (c : Nat) (v : CoreState) : (s.setCore c v).fresh = s.fresh := rfl
@[simp] theorem State.setCore_clock (s : State) (c : Nat) (v : CoreState) : (s.setCore c v).clock = s.clock := rfl

/-! ### `State.setPart` -/

@[simp] theorem State.setPart_cur (s : State) (p : Nat) (v : Partition) : (s.setPart p v).cur = s.cur := rfl
@[simp] theorem State.setPart_rest (s : State) (p : Nat) (v : Partition) : (s.setPart p v).rest = s.rest := rfl
@[simp] theorem State.setPart_cores (s : State) (p : Nat) (v : Partition) : (s.setPart p v).cores = s.cores := rfl
@[simp] theorem State.setPart_parts (s : State) (p : Nat) (v : Partition) : (s.setPart p v).parts = tset .reset s.parts p v := rfl
@[simp] theorem State.setPart_mem (s : State) (p : Nat) (v : Partition) : (s.setPart p v).mem = s.mem := rfl
@[simp] theorem State.setPart_home (s : State) (p : Nat) (v : Partition) : (s.setPart p v).home = s.home := rfl
@[simp] theorem State.setPart_host (s : State) (p : Nat) (v : Partition) : (s.setPart p v).host = s.host := rfl
@[simp] theorem State.setPart_frames (s : State) (p : Nat) (v : Partition) : (s.setPart p v).frames = s.frames := rfl
@[simp] theorem State.setPart_poison (s : State) (p : Nat) (v : Partition) : (s.setPart p v).poison = s.poison := rfl
@[simp] theorem State.setPart_ptes (s : State) (p : Nat) (v : Partition) : (s.setPart p v).ptes = s.ptes := rfl
@[simp] theorem State.setPart_banks (s : State) (p : Nat) (v : Partition) : (s.setPart p v).banks = s.banks := rfl
@[simp] theorem State.setPart_reserved (s : State) (p : Nat) (v : Partition) : (s.setPart p v).reserved = s.reserved := rfl
@[simp] theorem State.setPart_freeSegs (s : State) (p : Nat) (v : Partition) : (s.setPart p v).freeSegs = s.freeSegs := rfl
@[simp] theorem State.setPart_generation (s : State) (p : Nat) (v : Partition) : (s.setPart p v).generation = s.generation := rfl
@[simp] theorem State.setPart_shoots (s : State) (p : Nat) (v : Partition) : (s.setPart p v).shoots = s.shoots := rfl
@[simp] theorem State.setPart_migrations (s : State) (p : Nat) (v : Partition) : (s.setPart p v).migrations = s.migrations := rfl
@[simp] theorem State.setPart_raa (s : State) (p : Nat) (v : Partition) : (s.setPart p v).raa = s.raa := rfl
@[simp] theorem State.setPart_raaimt (s : State) (p : Nat) (v : Partition) : (s.setPart p v).raaimt = s.raaimt := rfl
@[simp] theorem State.setPart_raammt (s : State) (p : Nat) (v : Partition) : (s.setPart p v).raammt = s.raammt := rfl
@[simp] theorem State.setPart_buses (s : State) (p : Nat) (v : Partition) : (s.setPart p v).buses = s.buses := rfl
@[simp] theorem State.setPart_links (s : State) (p : Nat) (v : Partition) : (s.setPart p v).links = s.links := rfl
@[simp] theorem State.setPart_ports (s : State) (p : Nat) (v : Partition) : (s.setPart p v).ports = s.ports := rfl
@[simp] theorem State.setPart_routes (s : State) (p : Nat) (v : Partition) : (s.setPart p v).routes = s.routes := rfl
@[simp] theorem State.setPart_sent (s : State) (p : Nat) (v : Partition) : (s.setPart p v).sent = s.sent := rfl
@[simp] theorem State.setPart_completed (s : State) (p : Nat) (v : Partition) : (s.setPart p v).completed = s.completed := rfl
@[simp] theorem State.setPart_buckets (s : State) (p : Nat) (v : Partition) : (s.setPart p v).buckets = s.buckets := rfl
@[simp] theorem State.setPart_stalled (s : State) (p : Nat) (v : Partition) : (s.setPart p v).stalled = s.stalled := rfl
@[simp] theorem State.setPart_throttle (s : State) (p : Nat) (v : Partition) : (s.setPart p v).throttle = s.throttle := rfl
@[simp] theorem State.setPart_access (s : State) (p : Nat) (v : Partition) : (s.setPart p v).access = s.access := rfl
@[simp] theorem State.setPart_signals (s : State) (p : Nat) (v : Partition) : (s.setPart p v).signals = s.signals := rfl
@[simp] theorem State.setPart_hostRead (s : State) (p : Nat) (v : Partition) : (s.setPart p v).hostRead = s.hostRead := rfl
@[simp] theorem State.setPart_devid (s : State) (p : Nat) (v : Partition) : (s.setPart p v).devid = s.devid := rfl
@[simp] theorem State.setPart_boot (s : State) (p : Nat) (v : Partition) : (s.setPart p v).boot = s.boot := rfl
@[simp] theorem State.setPart_sec (s : State) (p : Nat) (v : Partition) : (s.setPart p v).sec = s.sec := rfl
@[simp] theorem State.setPart_dump (s : State) (p : Nat) (v : Partition) : (s.setPart p v).dump = s.dump := rfl
@[simp] theorem State.setPart_log (s : State) (p : Nat) (v : Partition) : (s.setPart p v).log = s.log := rfl
@[simp] theorem State.setPart_agenda (s : State) (p : Nat) (v : Partition) : (s.setPart p v).agenda = s.agenda := rfl
@[simp] theorem State.setPart_devTurn (s : State) (p : Nat) (v : Partition) : (s.setPart p v).devTurn = s.devTurn := rfl
@[simp] theorem State.setPart_sweep (s : State) (p : Nat) (v : Partition) : (s.setPart p v).sweep = s.sweep := rfl
@[simp] theorem State.setPart_fresh (s : State) (p : Nat) (v : Partition) : (s.setPart p v).fresh = s.fresh := rfl
@[simp] theorem State.setPart_clock (s : State) (p : Nat) (v : Partition) : (s.setPart p v).clock = s.clock := rfl

/-! ### `State.setBank` -/

@[simp] theorem State.setBank_cur (s : State) (b : Nat) (v : Bank) : (s.setBank b v).cur = s.cur := rfl
@[simp] theorem State.setBank_rest (s : State) (b : Nat) (v : Bank) : (s.setBank b v).rest = s.rest := rfl
@[simp] theorem State.setBank_cores (s : State) (b : Nat) (v : Bank) : (s.setBank b v).cores = s.cores := rfl
@[simp] theorem State.setBank_parts (s : State) (b : Nat) (v : Bank) : (s.setBank b v).parts = s.parts := rfl
@[simp] theorem State.setBank_mem (s : State) (b : Nat) (v : Bank) : (s.setBank b v).mem = s.mem := rfl
@[simp] theorem State.setBank_home (s : State) (b : Nat) (v : Bank) : (s.setBank b v).home = s.home := rfl
@[simp] theorem State.setBank_host (s : State) (b : Nat) (v : Bank) : (s.setBank b v).host = s.host := rfl
@[simp] theorem State.setBank_frames (s : State) (b : Nat) (v : Bank) : (s.setBank b v).frames = s.frames := rfl
@[simp] theorem State.setBank_poison (s : State) (b : Nat) (v : Bank) : (s.setBank b v).poison = s.poison := rfl
@[simp] theorem State.setBank_ptes (s : State) (b : Nat) (v : Bank) : (s.setBank b v).ptes = s.ptes := rfl
@[simp] theorem State.setBank_banks (s : State) (b : Nat) (v : Bank) : (s.setBank b v).banks = tset .reset s.banks b v := rfl
@[simp] theorem State.setBank_reserved (s : State) (b : Nat) (v : Bank) : (s.setBank b v).reserved = s.reserved := rfl
@[simp] theorem State.setBank_freeSegs (s : State) (b : Nat) (v : Bank) : (s.setBank b v).freeSegs = s.freeSegs := rfl
@[simp] theorem State.setBank_generation (s : State) (b : Nat) (v : Bank) : (s.setBank b v).generation = s.generation := rfl
@[simp] theorem State.setBank_shoots (s : State) (b : Nat) (v : Bank) : (s.setBank b v).shoots = s.shoots := rfl
@[simp] theorem State.setBank_migrations (s : State) (b : Nat) (v : Bank) : (s.setBank b v).migrations = s.migrations := rfl
@[simp] theorem State.setBank_raa (s : State) (b : Nat) (v : Bank) : (s.setBank b v).raa = s.raa := rfl
@[simp] theorem State.setBank_raaimt (s : State) (b : Nat) (v : Bank) : (s.setBank b v).raaimt = s.raaimt := rfl
@[simp] theorem State.setBank_raammt (s : State) (b : Nat) (v : Bank) : (s.setBank b v).raammt = s.raammt := rfl
@[simp] theorem State.setBank_buses (s : State) (b : Nat) (v : Bank) : (s.setBank b v).buses = s.buses := rfl
@[simp] theorem State.setBank_links (s : State) (b : Nat) (v : Bank) : (s.setBank b v).links = s.links := rfl
@[simp] theorem State.setBank_ports (s : State) (b : Nat) (v : Bank) : (s.setBank b v).ports = s.ports := rfl
@[simp] theorem State.setBank_routes (s : State) (b : Nat) (v : Bank) : (s.setBank b v).routes = s.routes := rfl
@[simp] theorem State.setBank_sent (s : State) (b : Nat) (v : Bank) : (s.setBank b v).sent = s.sent := rfl
@[simp] theorem State.setBank_completed (s : State) (b : Nat) (v : Bank) : (s.setBank b v).completed = s.completed := rfl
@[simp] theorem State.setBank_buckets (s : State) (b : Nat) (v : Bank) : (s.setBank b v).buckets = s.buckets := rfl
@[simp] theorem State.setBank_stalled (s : State) (b : Nat) (v : Bank) : (s.setBank b v).stalled = s.stalled := rfl
@[simp] theorem State.setBank_throttle (s : State) (b : Nat) (v : Bank) : (s.setBank b v).throttle = s.throttle := rfl
@[simp] theorem State.setBank_access (s : State) (b : Nat) (v : Bank) : (s.setBank b v).access = s.access := rfl
@[simp] theorem State.setBank_signals (s : State) (b : Nat) (v : Bank) : (s.setBank b v).signals = s.signals := rfl
@[simp] theorem State.setBank_hostRead (s : State) (b : Nat) (v : Bank) : (s.setBank b v).hostRead = s.hostRead := rfl
@[simp] theorem State.setBank_devid (s : State) (b : Nat) (v : Bank) : (s.setBank b v).devid = s.devid := rfl
@[simp] theorem State.setBank_boot (s : State) (b : Nat) (v : Bank) : (s.setBank b v).boot = s.boot := rfl
@[simp] theorem State.setBank_sec (s : State) (b : Nat) (v : Bank) : (s.setBank b v).sec = s.sec := rfl
@[simp] theorem State.setBank_dump (s : State) (b : Nat) (v : Bank) : (s.setBank b v).dump = s.dump := rfl
@[simp] theorem State.setBank_log (s : State) (b : Nat) (v : Bank) : (s.setBank b v).log = s.log := rfl
@[simp] theorem State.setBank_agenda (s : State) (b : Nat) (v : Bank) : (s.setBank b v).agenda = s.agenda := rfl
@[simp] theorem State.setBank_devTurn (s : State) (b : Nat) (v : Bank) : (s.setBank b v).devTurn = s.devTurn := rfl
@[simp] theorem State.setBank_sweep (s : State) (b : Nat) (v : Bank) : (s.setBank b v).sweep = s.sweep := rfl
@[simp] theorem State.setBank_fresh (s : State) (b : Nat) (v : Bank) : (s.setBank b v).fresh = s.fresh := rfl
@[simp] theorem State.setBank_clock (s : State) (b : Nat) (v : Bank) : (s.setBank b v).clock = s.clock := rfl

/-! ### `State.setPte` -/

@[simp] theorem State.setPte_cur (s : State) (t f : Nat) (v : Pte) : (s.setPte t f v).cur = s.cur := rfl
@[simp] theorem State.setPte_rest (s : State) (t f : Nat) (v : Pte) : (s.setPte t f v).rest = s.rest := rfl
@[simp] theorem State.setPte_cores (s : State) (t f : Nat) (v : Pte) : (s.setPte t f v).cores = s.cores := rfl
@[simp] theorem State.setPte_parts (s : State) (t f : Nat) (v : Pte) : (s.setPte t f v).parts = s.parts := rfl
@[simp] theorem State.setPte_mem (s : State) (t f : Nat) (v : Pte) : (s.setPte t f v).mem = s.mem := rfl
@[simp] theorem State.setPte_home (s : State) (t f : Nat) (v : Pte) : (s.setPte t f v).home = s.home := rfl
@[simp] theorem State.setPte_host (s : State) (t f : Nat) (v : Pte) : (s.setPte t f v).host = s.host := rfl
@[simp] theorem State.setPte_frames (s : State) (t f : Nat) (v : Pte) : (s.setPte t f v).frames = s.frames := rfl
@[simp] theorem State.setPte_poison (s : State) (t f : Nat) (v : Pte) : (s.setPte t f v).poison = s.poison := rfl
@[simp] theorem State.setPte_ptes (s : State) (t f : Nat) (v : Pte) : (s.setPte t f v).ptes = tset .reset s.ptes (frameKey t f) v := rfl
@[simp] theorem State.setPte_banks (s : State) (t f : Nat) (v : Pte) : (s.setPte t f v).banks = s.banks := rfl
@[simp] theorem State.setPte_reserved (s : State) (t f : Nat) (v : Pte) : (s.setPte t f v).reserved = s.reserved := rfl
@[simp] theorem State.setPte_freeSegs (s : State) (t f : Nat) (v : Pte) : (s.setPte t f v).freeSegs = s.freeSegs := rfl
@[simp] theorem State.setPte_generation (s : State) (t f : Nat) (v : Pte) : (s.setPte t f v).generation = s.generation := rfl
@[simp] theorem State.setPte_shoots (s : State) (t f : Nat) (v : Pte) : (s.setPte t f v).shoots = s.shoots := rfl
@[simp] theorem State.setPte_migrations (s : State) (t f : Nat) (v : Pte) : (s.setPte t f v).migrations = s.migrations := rfl
@[simp] theorem State.setPte_raa (s : State) (t f : Nat) (v : Pte) : (s.setPte t f v).raa = s.raa := rfl
@[simp] theorem State.setPte_raaimt (s : State) (t f : Nat) (v : Pte) : (s.setPte t f v).raaimt = s.raaimt := rfl
@[simp] theorem State.setPte_raammt (s : State) (t f : Nat) (v : Pte) : (s.setPte t f v).raammt = s.raammt := rfl
@[simp] theorem State.setPte_buses (s : State) (t f : Nat) (v : Pte) : (s.setPte t f v).buses = s.buses := rfl
@[simp] theorem State.setPte_links (s : State) (t f : Nat) (v : Pte) : (s.setPte t f v).links = s.links := rfl
@[simp] theorem State.setPte_ports (s : State) (t f : Nat) (v : Pte) : (s.setPte t f v).ports = s.ports := rfl
@[simp] theorem State.setPte_routes (s : State) (t f : Nat) (v : Pte) : (s.setPte t f v).routes = s.routes := rfl
@[simp] theorem State.setPte_sent (s : State) (t f : Nat) (v : Pte) : (s.setPte t f v).sent = s.sent := rfl
@[simp] theorem State.setPte_completed (s : State) (t f : Nat) (v : Pte) : (s.setPte t f v).completed = s.completed := rfl
@[simp] theorem State.setPte_buckets (s : State) (t f : Nat) (v : Pte) : (s.setPte t f v).buckets = s.buckets := rfl
@[simp] theorem State.setPte_stalled (s : State) (t f : Nat) (v : Pte) : (s.setPte t f v).stalled = s.stalled := rfl
@[simp] theorem State.setPte_throttle (s : State) (t f : Nat) (v : Pte) : (s.setPte t f v).throttle = s.throttle := rfl
@[simp] theorem State.setPte_access (s : State) (t f : Nat) (v : Pte) : (s.setPte t f v).access = s.access := rfl
@[simp] theorem State.setPte_signals (s : State) (t f : Nat) (v : Pte) : (s.setPte t f v).signals = s.signals := rfl
@[simp] theorem State.setPte_hostRead (s : State) (t f : Nat) (v : Pte) : (s.setPte t f v).hostRead = s.hostRead := rfl
@[simp] theorem State.setPte_devid (s : State) (t f : Nat) (v : Pte) : (s.setPte t f v).devid = s.devid := rfl
@[simp] theorem State.setPte_boot (s : State) (t f : Nat) (v : Pte) : (s.setPte t f v).boot = s.boot := rfl
@[simp] theorem State.setPte_sec (s : State) (t f : Nat) (v : Pte) : (s.setPte t f v).sec = s.sec := rfl
@[simp] theorem State.setPte_dump (s : State) (t f : Nat) (v : Pte) : (s.setPte t f v).dump = s.dump := rfl
@[simp] theorem State.setPte_log (s : State) (t f : Nat) (v : Pte) : (s.setPte t f v).log = s.log := rfl
@[simp] theorem State.setPte_agenda (s : State) (t f : Nat) (v : Pte) : (s.setPte t f v).agenda = s.agenda := rfl
@[simp] theorem State.setPte_devTurn (s : State) (t f : Nat) (v : Pte) : (s.setPte t f v).devTurn = s.devTurn := rfl
@[simp] theorem State.setPte_sweep (s : State) (t f : Nat) (v : Pte) : (s.setPte t f v).sweep = s.sweep := rfl
@[simp] theorem State.setPte_fresh (s : State) (t f : Nat) (v : Pte) : (s.setPte t f v).fresh = s.fresh := rfl
@[simp] theorem State.setPte_clock (s : State) (t f : Nat) (v : Pte) : (s.setPte t f v).clock = s.clock := rfl

/-! ### `State.setFrame` -/

@[simp] theorem State.setFrame_cur (s : State) (t f : Nat) (v : FrameMeta) : (s.setFrame t f v).cur = s.cur := rfl
@[simp] theorem State.setFrame_rest (s : State) (t f : Nat) (v : FrameMeta) : (s.setFrame t f v).rest = s.rest := rfl
@[simp] theorem State.setFrame_cores (s : State) (t f : Nat) (v : FrameMeta) : (s.setFrame t f v).cores = s.cores := rfl
@[simp] theorem State.setFrame_parts (s : State) (t f : Nat) (v : FrameMeta) : (s.setFrame t f v).parts = s.parts := rfl
@[simp] theorem State.setFrame_mem (s : State) (t f : Nat) (v : FrameMeta) : (s.setFrame t f v).mem = s.mem := rfl
@[simp] theorem State.setFrame_home (s : State) (t f : Nat) (v : FrameMeta) : (s.setFrame t f v).home = s.home := rfl
@[simp] theorem State.setFrame_host (s : State) (t f : Nat) (v : FrameMeta) : (s.setFrame t f v).host = s.host := rfl
@[simp] theorem State.setFrame_frames (s : State) (t f : Nat) (v : FrameMeta) : (s.setFrame t f v).frames = tset .reset s.frames (frameKey t f) v := rfl
@[simp] theorem State.setFrame_poison (s : State) (t f : Nat) (v : FrameMeta) : (s.setFrame t f v).poison = s.poison := rfl
@[simp] theorem State.setFrame_ptes (s : State) (t f : Nat) (v : FrameMeta) : (s.setFrame t f v).ptes = s.ptes := rfl
@[simp] theorem State.setFrame_banks (s : State) (t f : Nat) (v : FrameMeta) : (s.setFrame t f v).banks = s.banks := rfl
@[simp] theorem State.setFrame_reserved (s : State) (t f : Nat) (v : FrameMeta) : (s.setFrame t f v).reserved = s.reserved := rfl
@[simp] theorem State.setFrame_freeSegs (s : State) (t f : Nat) (v : FrameMeta) : (s.setFrame t f v).freeSegs = s.freeSegs := rfl
@[simp] theorem State.setFrame_generation (s : State) (t f : Nat) (v : FrameMeta) : (s.setFrame t f v).generation = s.generation := rfl
@[simp] theorem State.setFrame_shoots (s : State) (t f : Nat) (v : FrameMeta) : (s.setFrame t f v).shoots = s.shoots := rfl
@[simp] theorem State.setFrame_migrations (s : State) (t f : Nat) (v : FrameMeta) : (s.setFrame t f v).migrations = s.migrations := rfl
@[simp] theorem State.setFrame_raa (s : State) (t f : Nat) (v : FrameMeta) : (s.setFrame t f v).raa = s.raa := rfl
@[simp] theorem State.setFrame_raaimt (s : State) (t f : Nat) (v : FrameMeta) : (s.setFrame t f v).raaimt = s.raaimt := rfl
@[simp] theorem State.setFrame_raammt (s : State) (t f : Nat) (v : FrameMeta) : (s.setFrame t f v).raammt = s.raammt := rfl
@[simp] theorem State.setFrame_buses (s : State) (t f : Nat) (v : FrameMeta) : (s.setFrame t f v).buses = s.buses := rfl
@[simp] theorem State.setFrame_links (s : State) (t f : Nat) (v : FrameMeta) : (s.setFrame t f v).links = s.links := rfl
@[simp] theorem State.setFrame_ports (s : State) (t f : Nat) (v : FrameMeta) : (s.setFrame t f v).ports = s.ports := rfl
@[simp] theorem State.setFrame_routes (s : State) (t f : Nat) (v : FrameMeta) : (s.setFrame t f v).routes = s.routes := rfl
@[simp] theorem State.setFrame_sent (s : State) (t f : Nat) (v : FrameMeta) : (s.setFrame t f v).sent = s.sent := rfl
@[simp] theorem State.setFrame_completed (s : State) (t f : Nat) (v : FrameMeta) : (s.setFrame t f v).completed = s.completed := rfl
@[simp] theorem State.setFrame_buckets (s : State) (t f : Nat) (v : FrameMeta) : (s.setFrame t f v).buckets = s.buckets := rfl
@[simp] theorem State.setFrame_stalled (s : State) (t f : Nat) (v : FrameMeta) : (s.setFrame t f v).stalled = s.stalled := rfl
@[simp] theorem State.setFrame_throttle (s : State) (t f : Nat) (v : FrameMeta) : (s.setFrame t f v).throttle = s.throttle := rfl
@[simp] theorem State.setFrame_access (s : State) (t f : Nat) (v : FrameMeta) : (s.setFrame t f v).access = s.access := rfl
@[simp] theorem State.setFrame_signals (s : State) (t f : Nat) (v : FrameMeta) : (s.setFrame t f v).signals = s.signals := rfl
@[simp] theorem State.setFrame_hostRead (s : State) (t f : Nat) (v : FrameMeta) : (s.setFrame t f v).hostRead = s.hostRead := rfl
@[simp] theorem State.setFrame_devid (s : State) (t f : Nat) (v : FrameMeta) : (s.setFrame t f v).devid = s.devid := rfl
@[simp] theorem State.setFrame_boot (s : State) (t f : Nat) (v : FrameMeta) : (s.setFrame t f v).boot = s.boot := rfl
@[simp] theorem State.setFrame_sec (s : State) (t f : Nat) (v : FrameMeta) : (s.setFrame t f v).sec = s.sec := rfl
@[simp] theorem State.setFrame_dump (s : State) (t f : Nat) (v : FrameMeta) : (s.setFrame t f v).dump = s.dump := rfl
@[simp] theorem State.setFrame_log (s : State) (t f : Nat) (v : FrameMeta) : (s.setFrame t f v).log = s.log := rfl
@[simp] theorem State.setFrame_agenda (s : State) (t f : Nat) (v : FrameMeta) : (s.setFrame t f v).agenda = s.agenda := rfl
@[simp] theorem State.setFrame_devTurn (s : State) (t f : Nat) (v : FrameMeta) : (s.setFrame t f v).devTurn = s.devTurn := rfl
@[simp] theorem State.setFrame_sweep (s : State) (t f : Nat) (v : FrameMeta) : (s.setFrame t f v).sweep = s.sweep := rfl
@[simp] theorem State.setFrame_fresh (s : State) (t f : Nat) (v : FrameMeta) : (s.setFrame t f v).fresh = s.fresh := rfl
@[simp] theorem State.setFrame_clock (s : State) (t f : Nat) (v : FrameMeta) : (s.setFrame t f v).clock = s.clock := rfl

/-! ### `State.setRaa` -/

@[simp] theorem State.setRaa_cur (s : State) (b n : Nat) : (s.setRaa b n).cur = s.cur := rfl
@[simp] theorem State.setRaa_rest (s : State) (b n : Nat) : (s.setRaa b n).rest = s.rest := rfl
@[simp] theorem State.setRaa_cores (s : State) (b n : Nat) : (s.setRaa b n).cores = s.cores := rfl
@[simp] theorem State.setRaa_parts (s : State) (b n : Nat) : (s.setRaa b n).parts = s.parts := rfl
@[simp] theorem State.setRaa_mem (s : State) (b n : Nat) : (s.setRaa b n).mem = s.mem := rfl
@[simp] theorem State.setRaa_home (s : State) (b n : Nat) : (s.setRaa b n).home = s.home := rfl
@[simp] theorem State.setRaa_host (s : State) (b n : Nat) : (s.setRaa b n).host = s.host := rfl
@[simp] theorem State.setRaa_frames (s : State) (b n : Nat) : (s.setRaa b n).frames = s.frames := rfl
@[simp] theorem State.setRaa_poison (s : State) (b n : Nat) : (s.setRaa b n).poison = s.poison := rfl
@[simp] theorem State.setRaa_ptes (s : State) (b n : Nat) : (s.setRaa b n).ptes = s.ptes := rfl
@[simp] theorem State.setRaa_banks (s : State) (b n : Nat) : (s.setRaa b n).banks = s.banks := rfl
@[simp] theorem State.setRaa_reserved (s : State) (b n : Nat) : (s.setRaa b n).reserved = s.reserved := rfl
@[simp] theorem State.setRaa_freeSegs (s : State) (b n : Nat) : (s.setRaa b n).freeSegs = s.freeSegs := rfl
@[simp] theorem State.setRaa_generation (s : State) (b n : Nat) : (s.setRaa b n).generation = s.generation := rfl
@[simp] theorem State.setRaa_shoots (s : State) (b n : Nat) : (s.setRaa b n).shoots = s.shoots := rfl
@[simp] theorem State.setRaa_migrations (s : State) (b n : Nat) : (s.setRaa b n).migrations = s.migrations := rfl
@[simp] theorem State.setRaa_raa (s : State) (b n : Nat) : (s.setRaa b n).raa = tset 0 s.raa b n := rfl
@[simp] theorem State.setRaa_raaimt (s : State) (b n : Nat) : (s.setRaa b n).raaimt = s.raaimt := rfl
@[simp] theorem State.setRaa_raammt (s : State) (b n : Nat) : (s.setRaa b n).raammt = s.raammt := rfl
@[simp] theorem State.setRaa_buses (s : State) (b n : Nat) : (s.setRaa b n).buses = s.buses := rfl
@[simp] theorem State.setRaa_links (s : State) (b n : Nat) : (s.setRaa b n).links = s.links := rfl
@[simp] theorem State.setRaa_ports (s : State) (b n : Nat) : (s.setRaa b n).ports = s.ports := rfl
@[simp] theorem State.setRaa_routes (s : State) (b n : Nat) : (s.setRaa b n).routes = s.routes := rfl
@[simp] theorem State.setRaa_sent (s : State) (b n : Nat) : (s.setRaa b n).sent = s.sent := rfl
@[simp] theorem State.setRaa_completed (s : State) (b n : Nat) : (s.setRaa b n).completed = s.completed := rfl
@[simp] theorem State.setRaa_buckets (s : State) (b n : Nat) : (s.setRaa b n).buckets = s.buckets := rfl
@[simp] theorem State.setRaa_stalled (s : State) (b n : Nat) : (s.setRaa b n).stalled = s.stalled := rfl
@[simp] theorem State.setRaa_throttle (s : State) (b n : Nat) : (s.setRaa b n).throttle = s.throttle := rfl
@[simp] theorem State.setRaa_access (s : State) (b n : Nat) : (s.setRaa b n).access = s.access := rfl
@[simp] theorem State.setRaa_signals (s : State) (b n : Nat) : (s.setRaa b n).signals = s.signals := rfl
@[simp] theorem State.setRaa_hostRead (s : State) (b n : Nat) : (s.setRaa b n).hostRead = s.hostRead := rfl
@[simp] theorem State.setRaa_devid (s : State) (b n : Nat) : (s.setRaa b n).devid = s.devid := rfl
@[simp] theorem State.setRaa_boot (s : State) (b n : Nat) : (s.setRaa b n).boot = s.boot := rfl
@[simp] theorem State.setRaa_sec (s : State) (b n : Nat) : (s.setRaa b n).sec = s.sec := rfl
@[simp] theorem State.setRaa_dump (s : State) (b n : Nat) : (s.setRaa b n).dump = s.dump := rfl
@[simp] theorem State.setRaa_log (s : State) (b n : Nat) : (s.setRaa b n).log = s.log := rfl
@[simp] theorem State.setRaa_agenda (s : State) (b n : Nat) : (s.setRaa b n).agenda = s.agenda := rfl
@[simp] theorem State.setRaa_devTurn (s : State) (b n : Nat) : (s.setRaa b n).devTurn = s.devTurn := rfl
@[simp] theorem State.setRaa_sweep (s : State) (b n : Nat) : (s.setRaa b n).sweep = s.sweep := rfl
@[simp] theorem State.setRaa_fresh (s : State) (b n : Nat) : (s.setRaa b n).fresh = s.fresh := rfl
@[simp] theorem State.setRaa_clock (s : State) (b n : Nat) : (s.setRaa b n).clock = s.clock := rfl

/-! ### `State.setBus` -/

@[simp] theorem State.setBus_cur (s : State) (n : Nat) (b : Bus) : (s.setBus n b).cur = s.cur := rfl
@[simp] theorem State.setBus_rest (s : State) (n : Nat) (b : Bus) : (s.setBus n b).rest = s.rest := rfl
@[simp] theorem State.setBus_cores (s : State) (n : Nat) (b : Bus) : (s.setBus n b).cores = s.cores := rfl
@[simp] theorem State.setBus_parts (s : State) (n : Nat) (b : Bus) : (s.setBus n b).parts = s.parts := rfl
@[simp] theorem State.setBus_mem (s : State) (n : Nat) (b : Bus) : (s.setBus n b).mem = s.mem := rfl
@[simp] theorem State.setBus_home (s : State) (n : Nat) (b : Bus) : (s.setBus n b).home = s.home := rfl
@[simp] theorem State.setBus_host (s : State) (n : Nat) (b : Bus) : (s.setBus n b).host = s.host := rfl
@[simp] theorem State.setBus_frames (s : State) (n : Nat) (b : Bus) : (s.setBus n b).frames = s.frames := rfl
@[simp] theorem State.setBus_poison (s : State) (n : Nat) (b : Bus) : (s.setBus n b).poison = s.poison := rfl
@[simp] theorem State.setBus_ptes (s : State) (n : Nat) (b : Bus) : (s.setBus n b).ptes = s.ptes := rfl
@[simp] theorem State.setBus_banks (s : State) (n : Nat) (b : Bus) : (s.setBus n b).banks = s.banks := rfl
@[simp] theorem State.setBus_reserved (s : State) (n : Nat) (b : Bus) : (s.setBus n b).reserved = s.reserved := rfl
@[simp] theorem State.setBus_freeSegs (s : State) (n : Nat) (b : Bus) : (s.setBus n b).freeSegs = s.freeSegs := rfl
@[simp] theorem State.setBus_generation (s : State) (n : Nat) (b : Bus) : (s.setBus n b).generation = s.generation := rfl
@[simp] theorem State.setBus_shoots (s : State) (n : Nat) (b : Bus) : (s.setBus n b).shoots = s.shoots := rfl
@[simp] theorem State.setBus_migrations (s : State) (n : Nat) (b : Bus) : (s.setBus n b).migrations = s.migrations := rfl
@[simp] theorem State.setBus_raa (s : State) (n : Nat) (b : Bus) : (s.setBus n b).raa = s.raa := rfl
@[simp] theorem State.setBus_raaimt (s : State) (n : Nat) (b : Bus) : (s.setBus n b).raaimt = s.raaimt := rfl
@[simp] theorem State.setBus_raammt (s : State) (n : Nat) (b : Bus) : (s.setBus n b).raammt = s.raammt := rfl
@[simp] theorem State.setBus_buses (s : State) (n : Nat) (b : Bus) : (s.setBus n b).buses = tset .reset s.buses n b := rfl
@[simp] theorem State.setBus_links (s : State) (n : Nat) (b : Bus) : (s.setBus n b).links = s.links := rfl
@[simp] theorem State.setBus_ports (s : State) (n : Nat) (b : Bus) : (s.setBus n b).ports = s.ports := rfl
@[simp] theorem State.setBus_routes (s : State) (n : Nat) (b : Bus) : (s.setBus n b).routes = s.routes := rfl
@[simp] theorem State.setBus_sent (s : State) (n : Nat) (b : Bus) : (s.setBus n b).sent = s.sent := rfl
@[simp] theorem State.setBus_completed (s : State) (n : Nat) (b : Bus) : (s.setBus n b).completed = s.completed := rfl
@[simp] theorem State.setBus_buckets (s : State) (n : Nat) (b : Bus) : (s.setBus n b).buckets = s.buckets := rfl
@[simp] theorem State.setBus_stalled (s : State) (n : Nat) (b : Bus) : (s.setBus n b).stalled = s.stalled := rfl
@[simp] theorem State.setBus_throttle (s : State) (n : Nat) (b : Bus) : (s.setBus n b).throttle = s.throttle := rfl
@[simp] theorem State.setBus_access (s : State) (n : Nat) (b : Bus) : (s.setBus n b).access = s.access := rfl
@[simp] theorem State.setBus_signals (s : State) (n : Nat) (b : Bus) : (s.setBus n b).signals = s.signals := rfl
@[simp] theorem State.setBus_hostRead (s : State) (n : Nat) (b : Bus) : (s.setBus n b).hostRead = s.hostRead := rfl
@[simp] theorem State.setBus_devid (s : State) (n : Nat) (b : Bus) : (s.setBus n b).devid = s.devid := rfl
@[simp] theorem State.setBus_boot (s : State) (n : Nat) (b : Bus) : (s.setBus n b).boot = s.boot := rfl
@[simp] theorem State.setBus_sec (s : State) (n : Nat) (b : Bus) : (s.setBus n b).sec = s.sec := rfl
@[simp] theorem State.setBus_dump (s : State) (n : Nat) (b : Bus) : (s.setBus n b).dump = s.dump := rfl
@[simp] theorem State.setBus_log (s : State) (n : Nat) (b : Bus) : (s.setBus n b).log = s.log := rfl
@[simp] theorem State.setBus_agenda (s : State) (n : Nat) (b : Bus) : (s.setBus n b).agenda = s.agenda := rfl
@[simp] theorem State.setBus_devTurn (s : State) (n : Nat) (b : Bus) : (s.setBus n b).devTurn = s.devTurn := rfl
@[simp] theorem State.setBus_sweep (s : State) (n : Nat) (b : Bus) : (s.setBus n b).sweep = s.sweep := rfl
@[simp] theorem State.setBus_fresh (s : State) (n : Nat) (b : Bus) : (s.setBus n b).fresh = s.fresh := rfl
@[simp] theorem State.setBus_clock (s : State) (n : Nat) (b : Bus) : (s.setBus n b).clock = s.clock := rfl

/-! ### `State.hostWrite` -/

@[simp] theorem State.hostWrite_cur (s : State) (a : Nat) (bs : List Byte) : (s.hostWrite a bs).cur = s.cur := rfl
@[simp] theorem State.hostWrite_rest (s : State) (a : Nat) (bs : List Byte) : (s.hostWrite a bs).rest = s.rest := rfl
@[simp] theorem State.hostWrite_cores (s : State) (a : Nat) (bs : List Byte) : (s.hostWrite a bs).cores = s.cores := rfl
@[simp] theorem State.hostWrite_parts (s : State) (a : Nat) (bs : List Byte) : (s.hostWrite a bs).parts = s.parts := rfl
@[simp] theorem State.hostWrite_mem (s : State) (a : Nat) (bs : List Byte) : (s.hostWrite a bs).mem = s.mem := rfl
@[simp] theorem State.hostWrite_home (s : State) (a : Nat) (bs : List Byte) : (s.hostWrite a bs).home = s.home := rfl
@[simp] theorem State.hostWrite_host (s : State) (a : Nat) (bs : List Byte) : (s.hostWrite a bs).host = Memory.write s.host a bs := rfl
@[simp] theorem State.hostWrite_frames (s : State) (a : Nat) (bs : List Byte) : (s.hostWrite a bs).frames = s.frames := rfl
@[simp] theorem State.hostWrite_poison (s : State) (a : Nat) (bs : List Byte) : (s.hostWrite a bs).poison = s.poison := rfl
@[simp] theorem State.hostWrite_ptes (s : State) (a : Nat) (bs : List Byte) : (s.hostWrite a bs).ptes = s.ptes := rfl
@[simp] theorem State.hostWrite_banks (s : State) (a : Nat) (bs : List Byte) : (s.hostWrite a bs).banks = s.banks := rfl
@[simp] theorem State.hostWrite_reserved (s : State) (a : Nat) (bs : List Byte) : (s.hostWrite a bs).reserved = s.reserved := rfl
@[simp] theorem State.hostWrite_freeSegs (s : State) (a : Nat) (bs : List Byte) : (s.hostWrite a bs).freeSegs = s.freeSegs := rfl
@[simp] theorem State.hostWrite_generation (s : State) (a : Nat) (bs : List Byte) : (s.hostWrite a bs).generation = s.generation := rfl
@[simp] theorem State.hostWrite_shoots (s : State) (a : Nat) (bs : List Byte) : (s.hostWrite a bs).shoots = s.shoots := rfl
@[simp] theorem State.hostWrite_migrations (s : State) (a : Nat) (bs : List Byte) : (s.hostWrite a bs).migrations = s.migrations := rfl
@[simp] theorem State.hostWrite_raa (s : State) (a : Nat) (bs : List Byte) : (s.hostWrite a bs).raa = s.raa := rfl
@[simp] theorem State.hostWrite_raaimt (s : State) (a : Nat) (bs : List Byte) : (s.hostWrite a bs).raaimt = s.raaimt := rfl
@[simp] theorem State.hostWrite_raammt (s : State) (a : Nat) (bs : List Byte) : (s.hostWrite a bs).raammt = s.raammt := rfl
@[simp] theorem State.hostWrite_buses (s : State) (a : Nat) (bs : List Byte) : (s.hostWrite a bs).buses = s.buses := rfl
@[simp] theorem State.hostWrite_links (s : State) (a : Nat) (bs : List Byte) : (s.hostWrite a bs).links = s.links := rfl
@[simp] theorem State.hostWrite_ports (s : State) (a : Nat) (bs : List Byte) : (s.hostWrite a bs).ports = s.ports := rfl
@[simp] theorem State.hostWrite_routes (s : State) (a : Nat) (bs : List Byte) : (s.hostWrite a bs).routes = s.routes := rfl
@[simp] theorem State.hostWrite_sent (s : State) (a : Nat) (bs : List Byte) : (s.hostWrite a bs).sent = s.sent := rfl
@[simp] theorem State.hostWrite_completed (s : State) (a : Nat) (bs : List Byte) : (s.hostWrite a bs).completed = s.completed := rfl
@[simp] theorem State.hostWrite_buckets (s : State) (a : Nat) (bs : List Byte) : (s.hostWrite a bs).buckets = s.buckets := rfl
@[simp] theorem State.hostWrite_stalled (s : State) (a : Nat) (bs : List Byte) : (s.hostWrite a bs).stalled = s.stalled := rfl
@[simp] theorem State.hostWrite_throttle (s : State) (a : Nat) (bs : List Byte) : (s.hostWrite a bs).throttle = s.throttle := rfl
@[simp] theorem State.hostWrite_access (s : State) (a : Nat) (bs : List Byte) : (s.hostWrite a bs).access = s.access := rfl
@[simp] theorem State.hostWrite_signals (s : State) (a : Nat) (bs : List Byte) : (s.hostWrite a bs).signals = s.signals := rfl
@[simp] theorem State.hostWrite_hostRead (s : State) (a : Nat) (bs : List Byte) : (s.hostWrite a bs).hostRead = s.hostRead := rfl
@[simp] theorem State.hostWrite_devid (s : State) (a : Nat) (bs : List Byte) : (s.hostWrite a bs).devid = s.devid := rfl
@[simp] theorem State.hostWrite_boot (s : State) (a : Nat) (bs : List Byte) : (s.hostWrite a bs).boot = s.boot := rfl
@[simp] theorem State.hostWrite_sec (s : State) (a : Nat) (bs : List Byte) : (s.hostWrite a bs).sec = s.sec := rfl
@[simp] theorem State.hostWrite_dump (s : State) (a : Nat) (bs : List Byte) : (s.hostWrite a bs).dump = s.dump := rfl
@[simp] theorem State.hostWrite_log (s : State) (a : Nat) (bs : List Byte) : (s.hostWrite a bs).log = s.log := rfl
@[simp] theorem State.hostWrite_agenda (s : State) (a : Nat) (bs : List Byte) : (s.hostWrite a bs).agenda = s.agenda := rfl
@[simp] theorem State.hostWrite_devTurn (s : State) (a : Nat) (bs : List Byte) : (s.hostWrite a bs).devTurn = s.devTurn := rfl
@[simp] theorem State.hostWrite_sweep (s : State) (a : Nat) (bs : List Byte) : (s.hostWrite a bs).sweep = s.sweep := rfl
@[simp] theorem State.hostWrite_fresh (s : State) (a : Nat) (bs : List Byte) : (s.hostWrite a bs).fresh = s.fresh := rfl
@[simp] theorem State.hostWrite_clock (s : State) (a : Nat) (bs : List Byte) : (s.hostWrite a bs).clock = s.clock := rfl

/-! ### `State.draw` -/

@[simp] theorem State.draw_cur (s : State) : (s.draw.2).cur = s.cur := rfl
@[simp] theorem State.draw_rest (s : State) : (s.draw.2).rest = s.rest := rfl
@[simp] theorem State.draw_cores (s : State) : (s.draw.2).cores = s.cores := rfl
@[simp] theorem State.draw_parts (s : State) : (s.draw.2).parts = s.parts := rfl
@[simp] theorem State.draw_mem (s : State) : (s.draw.2).mem = s.mem := rfl
@[simp] theorem State.draw_home (s : State) : (s.draw.2).home = s.home := rfl
@[simp] theorem State.draw_host (s : State) : (s.draw.2).host = s.host := rfl
@[simp] theorem State.draw_frames (s : State) : (s.draw.2).frames = s.frames := rfl
@[simp] theorem State.draw_poison (s : State) : (s.draw.2).poison = s.poison := rfl
@[simp] theorem State.draw_ptes (s : State) : (s.draw.2).ptes = s.ptes := rfl
@[simp] theorem State.draw_banks (s : State) : (s.draw.2).banks = s.banks := rfl
@[simp] theorem State.draw_reserved (s : State) : (s.draw.2).reserved = s.reserved := rfl
@[simp] theorem State.draw_freeSegs (s : State) : (s.draw.2).freeSegs = s.freeSegs := rfl
@[simp] theorem State.draw_generation (s : State) : (s.draw.2).generation = s.generation := rfl
@[simp] theorem State.draw_shoots (s : State) : (s.draw.2).shoots = s.shoots := rfl
@[simp] theorem State.draw_migrations (s : State) : (s.draw.2).migrations = s.migrations := rfl
@[simp] theorem State.draw_raa (s : State) : (s.draw.2).raa = s.raa := rfl
@[simp] theorem State.draw_raaimt (s : State) : (s.draw.2).raaimt = s.raaimt := rfl
@[simp] theorem State.draw_raammt (s : State) : (s.draw.2).raammt = s.raammt := rfl
@[simp] theorem State.draw_buses (s : State) : (s.draw.2).buses = s.buses := rfl
@[simp] theorem State.draw_links (s : State) : (s.draw.2).links = s.links := rfl
@[simp] theorem State.draw_ports (s : State) : (s.draw.2).ports = s.ports := rfl
@[simp] theorem State.draw_routes (s : State) : (s.draw.2).routes = s.routes := rfl
@[simp] theorem State.draw_sent (s : State) : (s.draw.2).sent = s.sent := rfl
@[simp] theorem State.draw_completed (s : State) : (s.draw.2).completed = s.completed := rfl
@[simp] theorem State.draw_buckets (s : State) : (s.draw.2).buckets = s.buckets := rfl
@[simp] theorem State.draw_stalled (s : State) : (s.draw.2).stalled = s.stalled := rfl
@[simp] theorem State.draw_throttle (s : State) : (s.draw.2).throttle = s.throttle := rfl
@[simp] theorem State.draw_access (s : State) : (s.draw.2).access = s.access := rfl
@[simp] theorem State.draw_signals (s : State) : (s.draw.2).signals = s.signals := rfl
@[simp] theorem State.draw_hostRead (s : State) : (s.draw.2).hostRead = s.hostRead := rfl
@[simp] theorem State.draw_devid (s : State) : (s.draw.2).devid = s.devid := rfl
@[simp] theorem State.draw_boot (s : State) : (s.draw.2).boot = s.boot := rfl
@[simp] theorem State.draw_sec (s : State) : (s.draw.2).sec = s.sec := rfl
@[simp] theorem State.draw_dump (s : State) : (s.draw.2).dump = s.dump := rfl
@[simp] theorem State.draw_log (s : State) : (s.draw.2).log = s.log := rfl
@[simp] theorem State.draw_agenda (s : State) : (s.draw.2).agenda = s.agenda := rfl
@[simp] theorem State.draw_devTurn (s : State) : (s.draw.2).devTurn = s.devTurn := rfl
@[simp] theorem State.draw_sweep (s : State) : (s.draw.2).sweep = s.sweep := rfl
@[simp] theorem State.draw_fresh (s : State) : (s.draw.2).fresh = s.fresh + 1 := rfl
@[simp] theorem State.draw_clock (s : State) : (s.draw.2).clock = s.clock := rfl

/-! ### `State.writeX` -/

@[simp] theorem State.writeX_cur (s : State) (r : BitVec 5) (v : Word) : (s.writeX r v).cur = s.cur.writeX r v := rfl
@[simp] theorem State.writeX_rest (s : State) (r : BitVec 5) (v : Word) : (s.writeX r v).rest = s.rest := rfl
@[simp] theorem State.writeX_cores (s : State) (r : BitVec 5) (v : Word) : (s.writeX r v).cores = s.cores := rfl
@[simp] theorem State.writeX_parts (s : State) (r : BitVec 5) (v : Word) : (s.writeX r v).parts = s.parts := rfl
@[simp] theorem State.writeX_mem (s : State) (r : BitVec 5) (v : Word) : (s.writeX r v).mem = s.mem := rfl
@[simp] theorem State.writeX_home (s : State) (r : BitVec 5) (v : Word) : (s.writeX r v).home = s.home := rfl
@[simp] theorem State.writeX_host (s : State) (r : BitVec 5) (v : Word) : (s.writeX r v).host = s.host := rfl
@[simp] theorem State.writeX_frames (s : State) (r : BitVec 5) (v : Word) : (s.writeX r v).frames = s.frames := rfl
@[simp] theorem State.writeX_poison (s : State) (r : BitVec 5) (v : Word) : (s.writeX r v).poison = s.poison := rfl
@[simp] theorem State.writeX_ptes (s : State) (r : BitVec 5) (v : Word) : (s.writeX r v).ptes = s.ptes := rfl
@[simp] theorem State.writeX_banks (s : State) (r : BitVec 5) (v : Word) : (s.writeX r v).banks = s.banks := rfl
@[simp] theorem State.writeX_reserved (s : State) (r : BitVec 5) (v : Word) : (s.writeX r v).reserved = s.reserved := rfl
@[simp] theorem State.writeX_freeSegs (s : State) (r : BitVec 5) (v : Word) : (s.writeX r v).freeSegs = s.freeSegs := rfl
@[simp] theorem State.writeX_generation (s : State) (r : BitVec 5) (v : Word) : (s.writeX r v).generation = s.generation := rfl
@[simp] theorem State.writeX_shoots (s : State) (r : BitVec 5) (v : Word) : (s.writeX r v).shoots = s.shoots := rfl
@[simp] theorem State.writeX_migrations (s : State) (r : BitVec 5) (v : Word) : (s.writeX r v).migrations = s.migrations := rfl
@[simp] theorem State.writeX_raa (s : State) (r : BitVec 5) (v : Word) : (s.writeX r v).raa = s.raa := rfl
@[simp] theorem State.writeX_raaimt (s : State) (r : BitVec 5) (v : Word) : (s.writeX r v).raaimt = s.raaimt := rfl
@[simp] theorem State.writeX_raammt (s : State) (r : BitVec 5) (v : Word) : (s.writeX r v).raammt = s.raammt := rfl
@[simp] theorem State.writeX_buses (s : State) (r : BitVec 5) (v : Word) : (s.writeX r v).buses = s.buses := rfl
@[simp] theorem State.writeX_links (s : State) (r : BitVec 5) (v : Word) : (s.writeX r v).links = s.links := rfl
@[simp] theorem State.writeX_ports (s : State) (r : BitVec 5) (v : Word) : (s.writeX r v).ports = s.ports := rfl
@[simp] theorem State.writeX_routes (s : State) (r : BitVec 5) (v : Word) : (s.writeX r v).routes = s.routes := rfl
@[simp] theorem State.writeX_sent (s : State) (r : BitVec 5) (v : Word) : (s.writeX r v).sent = s.sent := rfl
@[simp] theorem State.writeX_completed (s : State) (r : BitVec 5) (v : Word) : (s.writeX r v).completed = s.completed := rfl
@[simp] theorem State.writeX_buckets (s : State) (r : BitVec 5) (v : Word) : (s.writeX r v).buckets = s.buckets := rfl
@[simp] theorem State.writeX_stalled (s : State) (r : BitVec 5) (v : Word) : (s.writeX r v).stalled = s.stalled := rfl
@[simp] theorem State.writeX_throttle (s : State) (r : BitVec 5) (v : Word) : (s.writeX r v).throttle = s.throttle := rfl
@[simp] theorem State.writeX_access (s : State) (r : BitVec 5) (v : Word) : (s.writeX r v).access = s.access := rfl
@[simp] theorem State.writeX_signals (s : State) (r : BitVec 5) (v : Word) : (s.writeX r v).signals = s.signals := rfl
@[simp] theorem State.writeX_hostRead (s : State) (r : BitVec 5) (v : Word) : (s.writeX r v).hostRead = s.hostRead := rfl
@[simp] theorem State.writeX_devid (s : State) (r : BitVec 5) (v : Word) : (s.writeX r v).devid = s.devid := rfl
@[simp] theorem State.writeX_boot (s : State) (r : BitVec 5) (v : Word) : (s.writeX r v).boot = s.boot := rfl
@[simp] theorem State.writeX_sec (s : State) (r : BitVec 5) (v : Word) : (s.writeX r v).sec = s.sec := rfl
@[simp] theorem State.writeX_dump (s : State) (r : BitVec 5) (v : Word) : (s.writeX r v).dump = s.dump := rfl
@[simp] theorem State.writeX_log (s : State) (r : BitVec 5) (v : Word) : (s.writeX r v).log = s.log := rfl
@[simp] theorem State.writeX_agenda (s : State) (r : BitVec 5) (v : Word) : (s.writeX r v).agenda = s.agenda := rfl
@[simp] theorem State.writeX_devTurn (s : State) (r : BitVec 5) (v : Word) : (s.writeX r v).devTurn = s.devTurn := rfl
@[simp] theorem State.writeX_sweep (s : State) (r : BitVec 5) (v : Word) : (s.writeX r v).sweep = s.sweep := rfl
@[simp] theorem State.writeX_fresh (s : State) (r : BitVec 5) (v : Word) : (s.writeX r v).fresh = s.fresh := rfl
@[simp] theorem State.writeX_clock (s : State) (r : BitVec 5) (v : Word) : (s.writeX r v).clock = s.clock := rfl

/-! ### `takeTrapWith` -/

@[simp] theorem takeTrapWith_cur (t : Trap) (len : Nat) (r : Option (BitVec 5)) (s : State) : (takeTrapWith t len r s).cur = { s.cur with
      status := .stopping .trap, csr := recordTrap t s.cur.pc s.cur.csr, request := none
      answers := keepAnswers s.cur.answers, held := none, woken := [], skipLen := len, skipExit := r } := rfl
@[simp] theorem takeTrapWith_rest (t : Trap) (len : Nat) (r : Option (BitVec 5)) (s : State) : (takeTrapWith t len r s).rest = s.rest := rfl
@[simp] theorem takeTrapWith_cores (t : Trap) (len : Nat) (r : Option (BitVec 5)) (s : State) : (takeTrapWith t len r s).cores = s.cores := rfl
@[simp] theorem takeTrapWith_parts (t : Trap) (len : Nat) (r : Option (BitVec 5)) (s : State) : (takeTrapWith t len r s).parts = s.parts := rfl
@[simp] theorem takeTrapWith_mem (t : Trap) (len : Nat) (r : Option (BitVec 5)) (s : State) : (takeTrapWith t len r s).mem = s.mem := rfl
@[simp] theorem takeTrapWith_home (t : Trap) (len : Nat) (r : Option (BitVec 5)) (s : State) : (takeTrapWith t len r s).home = s.home := rfl
@[simp] theorem takeTrapWith_host (t : Trap) (len : Nat) (r : Option (BitVec 5)) (s : State) : (takeTrapWith t len r s).host = s.host := rfl
@[simp] theorem takeTrapWith_frames (t : Trap) (len : Nat) (r : Option (BitVec 5)) (s : State) : (takeTrapWith t len r s).frames = s.frames := rfl
@[simp] theorem takeTrapWith_poison (t : Trap) (len : Nat) (r : Option (BitVec 5)) (s : State) : (takeTrapWith t len r s).poison = s.poison := rfl
@[simp] theorem takeTrapWith_ptes (t : Trap) (len : Nat) (r : Option (BitVec 5)) (s : State) : (takeTrapWith t len r s).ptes = s.ptes := rfl
@[simp] theorem takeTrapWith_banks (t : Trap) (len : Nat) (r : Option (BitVec 5)) (s : State) : (takeTrapWith t len r s).banks = s.banks := rfl
@[simp] theorem takeTrapWith_reserved (t : Trap) (len : Nat) (r : Option (BitVec 5)) (s : State) : (takeTrapWith t len r s).reserved = s.reserved := rfl
@[simp] theorem takeTrapWith_freeSegs (t : Trap) (len : Nat) (r : Option (BitVec 5)) (s : State) : (takeTrapWith t len r s).freeSegs = s.freeSegs := rfl
@[simp] theorem takeTrapWith_generation (t : Trap) (len : Nat) (r : Option (BitVec 5)) (s : State) : (takeTrapWith t len r s).generation = s.generation := rfl
@[simp] theorem takeTrapWith_shoots (t : Trap) (len : Nat) (r : Option (BitVec 5)) (s : State) : (takeTrapWith t len r s).shoots = s.shoots := rfl
@[simp] theorem takeTrapWith_migrations (t : Trap) (len : Nat) (r : Option (BitVec 5)) (s : State) : (takeTrapWith t len r s).migrations = s.migrations := rfl
@[simp] theorem takeTrapWith_raa (t : Trap) (len : Nat) (r : Option (BitVec 5)) (s : State) : (takeTrapWith t len r s).raa = s.raa := rfl
@[simp] theorem takeTrapWith_raaimt (t : Trap) (len : Nat) (r : Option (BitVec 5)) (s : State) : (takeTrapWith t len r s).raaimt = s.raaimt := rfl
@[simp] theorem takeTrapWith_raammt (t : Trap) (len : Nat) (r : Option (BitVec 5)) (s : State) : (takeTrapWith t len r s).raammt = s.raammt := rfl
@[simp] theorem takeTrapWith_buses (t : Trap) (len : Nat) (r : Option (BitVec 5)) (s : State) : (takeTrapWith t len r s).buses = s.buses := rfl
@[simp] theorem takeTrapWith_links (t : Trap) (len : Nat) (r : Option (BitVec 5)) (s : State) : (takeTrapWith t len r s).links = s.links := rfl
@[simp] theorem takeTrapWith_ports (t : Trap) (len : Nat) (r : Option (BitVec 5)) (s : State) : (takeTrapWith t len r s).ports = s.ports := rfl
@[simp] theorem takeTrapWith_routes (t : Trap) (len : Nat) (r : Option (BitVec 5)) (s : State) : (takeTrapWith t len r s).routes = s.routes := rfl
@[simp] theorem takeTrapWith_sent (t : Trap) (len : Nat) (r : Option (BitVec 5)) (s : State) : (takeTrapWith t len r s).sent = s.sent := rfl
@[simp] theorem takeTrapWith_completed (t : Trap) (len : Nat) (r : Option (BitVec 5)) (s : State) : (takeTrapWith t len r s).completed = s.completed := rfl
@[simp] theorem takeTrapWith_buckets (t : Trap) (len : Nat) (r : Option (BitVec 5)) (s : State) : (takeTrapWith t len r s).buckets = s.buckets := rfl
@[simp] theorem takeTrapWith_stalled (t : Trap) (len : Nat) (r : Option (BitVec 5)) (s : State) : (takeTrapWith t len r s).stalled = s.stalled := rfl
@[simp] theorem takeTrapWith_throttle (t : Trap) (len : Nat) (r : Option (BitVec 5)) (s : State) : (takeTrapWith t len r s).throttle = s.throttle := rfl
@[simp] theorem takeTrapWith_access (t : Trap) (len : Nat) (r : Option (BitVec 5)) (s : State) : (takeTrapWith t len r s).access = s.access := rfl
@[simp] theorem takeTrapWith_signals (t : Trap) (len : Nat) (r : Option (BitVec 5)) (s : State) : (takeTrapWith t len r s).signals = s.signals := rfl
@[simp] theorem takeTrapWith_hostRead (t : Trap) (len : Nat) (r : Option (BitVec 5)) (s : State) : (takeTrapWith t len r s).hostRead = s.hostRead := rfl
@[simp] theorem takeTrapWith_devid (t : Trap) (len : Nat) (r : Option (BitVec 5)) (s : State) : (takeTrapWith t len r s).devid = s.devid := rfl
@[simp] theorem takeTrapWith_boot (t : Trap) (len : Nat) (r : Option (BitVec 5)) (s : State) : (takeTrapWith t len r s).boot = s.boot := rfl
@[simp] theorem takeTrapWith_sec (t : Trap) (len : Nat) (r : Option (BitVec 5)) (s : State) : (takeTrapWith t len r s).sec = s.sec := rfl
@[simp] theorem takeTrapWith_dump (t : Trap) (len : Nat) (r : Option (BitVec 5)) (s : State) : (takeTrapWith t len r s).dump = s.dump := rfl
@[simp] theorem takeTrapWith_log (t : Trap) (len : Nat) (r : Option (BitVec 5)) (s : State) : (takeTrapWith t len r s).log = s.log := rfl
@[simp] theorem takeTrapWith_agenda (t : Trap) (len : Nat) (r : Option (BitVec 5)) (s : State) : (takeTrapWith t len r s).agenda = s.agenda := rfl
@[simp] theorem takeTrapWith_devTurn (t : Trap) (len : Nat) (r : Option (BitVec 5)) (s : State) : (takeTrapWith t len r s).devTurn = s.devTurn := rfl
@[simp] theorem takeTrapWith_sweep (t : Trap) (len : Nat) (r : Option (BitVec 5)) (s : State) : (takeTrapWith t len r s).sweep = s.sweep := rfl
@[simp] theorem takeTrapWith_fresh (t : Trap) (len : Nat) (r : Option (BitVec 5)) (s : State) : (takeTrapWith t len r s).fresh = s.fresh := rfl
@[simp] theorem takeTrapWith_clock (t : Trap) (len : Nat) (r : Option (BitVec 5)) (s : State) : (takeTrapWith t len r s).clock = s.clock := rfl

/-! ### `takeTrap` -/

@[simp] theorem takeTrap_cur (t : Trap) (len : Nat) (s : State) : (takeTrap t len s).cur = { s.cur with
      status := .stopping .trap, csr := recordTrap t s.cur.pc s.cur.csr, request := none
      answers := keepAnswers s.cur.answers, held := none, woken := [], skipLen := len, skipExit := none } := rfl
@[simp] theorem takeTrap_rest (t : Trap) (len : Nat) (s : State) : (takeTrap t len s).rest = s.rest := rfl
@[simp] theorem takeTrap_cores (t : Trap) (len : Nat) (s : State) : (takeTrap t len s).cores = s.cores := rfl
@[simp] theorem takeTrap_parts (t : Trap) (len : Nat) (s : State) : (takeTrap t len s).parts = s.parts := rfl
@[simp] theorem takeTrap_mem (t : Trap) (len : Nat) (s : State) : (takeTrap t len s).mem = s.mem := rfl
@[simp] theorem takeTrap_home (t : Trap) (len : Nat) (s : State) : (takeTrap t len s).home = s.home := rfl
@[simp] theorem takeTrap_host (t : Trap) (len : Nat) (s : State) : (takeTrap t len s).host = s.host := rfl
@[simp] theorem takeTrap_frames (t : Trap) (len : Nat) (s : State) : (takeTrap t len s).frames = s.frames := rfl
@[simp] theorem takeTrap_poison (t : Trap) (len : Nat) (s : State) : (takeTrap t len s).poison = s.poison := rfl
@[simp] theorem takeTrap_ptes (t : Trap) (len : Nat) (s : State) : (takeTrap t len s).ptes = s.ptes := rfl
@[simp] theorem takeTrap_banks (t : Trap) (len : Nat) (s : State) : (takeTrap t len s).banks = s.banks := rfl
@[simp] theorem takeTrap_reserved (t : Trap) (len : Nat) (s : State) : (takeTrap t len s).reserved = s.reserved := rfl
@[simp] theorem takeTrap_freeSegs (t : Trap) (len : Nat) (s : State) : (takeTrap t len s).freeSegs = s.freeSegs := rfl
@[simp] theorem takeTrap_generation (t : Trap) (len : Nat) (s : State) : (takeTrap t len s).generation = s.generation := rfl
@[simp] theorem takeTrap_shoots (t : Trap) (len : Nat) (s : State) : (takeTrap t len s).shoots = s.shoots := rfl
@[simp] theorem takeTrap_migrations (t : Trap) (len : Nat) (s : State) : (takeTrap t len s).migrations = s.migrations := rfl
@[simp] theorem takeTrap_raa (t : Trap) (len : Nat) (s : State) : (takeTrap t len s).raa = s.raa := rfl
@[simp] theorem takeTrap_raaimt (t : Trap) (len : Nat) (s : State) : (takeTrap t len s).raaimt = s.raaimt := rfl
@[simp] theorem takeTrap_raammt (t : Trap) (len : Nat) (s : State) : (takeTrap t len s).raammt = s.raammt := rfl
@[simp] theorem takeTrap_buses (t : Trap) (len : Nat) (s : State) : (takeTrap t len s).buses = s.buses := rfl
@[simp] theorem takeTrap_links (t : Trap) (len : Nat) (s : State) : (takeTrap t len s).links = s.links := rfl
@[simp] theorem takeTrap_ports (t : Trap) (len : Nat) (s : State) : (takeTrap t len s).ports = s.ports := rfl
@[simp] theorem takeTrap_routes (t : Trap) (len : Nat) (s : State) : (takeTrap t len s).routes = s.routes := rfl
@[simp] theorem takeTrap_sent (t : Trap) (len : Nat) (s : State) : (takeTrap t len s).sent = s.sent := rfl
@[simp] theorem takeTrap_completed (t : Trap) (len : Nat) (s : State) : (takeTrap t len s).completed = s.completed := rfl
@[simp] theorem takeTrap_buckets (t : Trap) (len : Nat) (s : State) : (takeTrap t len s).buckets = s.buckets := rfl
@[simp] theorem takeTrap_stalled (t : Trap) (len : Nat) (s : State) : (takeTrap t len s).stalled = s.stalled := rfl
@[simp] theorem takeTrap_throttle (t : Trap) (len : Nat) (s : State) : (takeTrap t len s).throttle = s.throttle := rfl
@[simp] theorem takeTrap_access (t : Trap) (len : Nat) (s : State) : (takeTrap t len s).access = s.access := rfl
@[simp] theorem takeTrap_signals (t : Trap) (len : Nat) (s : State) : (takeTrap t len s).signals = s.signals := rfl
@[simp] theorem takeTrap_hostRead (t : Trap) (len : Nat) (s : State) : (takeTrap t len s).hostRead = s.hostRead := rfl
@[simp] theorem takeTrap_devid (t : Trap) (len : Nat) (s : State) : (takeTrap t len s).devid = s.devid := rfl
@[simp] theorem takeTrap_boot (t : Trap) (len : Nat) (s : State) : (takeTrap t len s).boot = s.boot := rfl
@[simp] theorem takeTrap_sec (t : Trap) (len : Nat) (s : State) : (takeTrap t len s).sec = s.sec := rfl
@[simp] theorem takeTrap_dump (t : Trap) (len : Nat) (s : State) : (takeTrap t len s).dump = s.dump := rfl
@[simp] theorem takeTrap_log (t : Trap) (len : Nat) (s : State) : (takeTrap t len s).log = s.log := rfl
@[simp] theorem takeTrap_agenda (t : Trap) (len : Nat) (s : State) : (takeTrap t len s).agenda = s.agenda := rfl
@[simp] theorem takeTrap_devTurn (t : Trap) (len : Nat) (s : State) : (takeTrap t len s).devTurn = s.devTurn := rfl
@[simp] theorem takeTrap_sweep (t : Trap) (len : Nat) (s : State) : (takeTrap t len s).sweep = s.sweep := rfl
@[simp] theorem takeTrap_fresh (t : Trap) (len : Nat) (s : State) : (takeTrap t len s).fresh = s.fresh := rfl
@[simp] theorem takeTrap_clock (t : Trap) (len : Nat) (s : State) : (takeTrap t len s).clock = s.clock := rfl

/-! ### `takeTrapUnrecorded` -/

@[simp] theorem takeTrapUnrecorded_cur (t : Trap) (len : Nat) (s : State) : (takeTrapUnrecorded t len s).cur = { s.cur with
      status := .stopping .trap, request := none
      answers := keepAnswers s.cur.answers, held := none, woken := [], skipLen := len, skipExit := none } := rfl
@[simp] theorem takeTrapUnrecorded_rest (t : Trap) (len : Nat) (s : State) : (takeTrapUnrecorded t len s).rest = s.rest := rfl
@[simp] theorem takeTrapUnrecorded_cores (t : Trap) (len : Nat) (s : State) : (takeTrapUnrecorded t len s).cores = s.cores := rfl
@[simp] theorem takeTrapUnrecorded_parts (t : Trap) (len : Nat) (s : State) : (takeTrapUnrecorded t len s).parts = s.parts := rfl
@[simp] theorem takeTrapUnrecorded_mem (t : Trap) (len : Nat) (s : State) : (takeTrapUnrecorded t len s).mem = s.mem := rfl
@[simp] theorem takeTrapUnrecorded_home (t : Trap) (len : Nat) (s : State) : (takeTrapUnrecorded t len s).home = s.home := rfl
@[simp] theorem takeTrapUnrecorded_host (t : Trap) (len : Nat) (s : State) : (takeTrapUnrecorded t len s).host = s.host := rfl
@[simp] theorem takeTrapUnrecorded_frames (t : Trap) (len : Nat) (s : State) : (takeTrapUnrecorded t len s).frames = s.frames := rfl
@[simp] theorem takeTrapUnrecorded_poison (t : Trap) (len : Nat) (s : State) : (takeTrapUnrecorded t len s).poison = s.poison := rfl
@[simp] theorem takeTrapUnrecorded_ptes (t : Trap) (len : Nat) (s : State) : (takeTrapUnrecorded t len s).ptes = s.ptes := rfl
@[simp] theorem takeTrapUnrecorded_banks (t : Trap) (len : Nat) (s : State) : (takeTrapUnrecorded t len s).banks = s.banks := rfl
@[simp] theorem takeTrapUnrecorded_reserved (t : Trap) (len : Nat) (s : State) : (takeTrapUnrecorded t len s).reserved = s.reserved := rfl
@[simp] theorem takeTrapUnrecorded_freeSegs (t : Trap) (len : Nat) (s : State) : (takeTrapUnrecorded t len s).freeSegs = s.freeSegs := rfl
@[simp] theorem takeTrapUnrecorded_generation (t : Trap) (len : Nat) (s : State) : (takeTrapUnrecorded t len s).generation = s.generation := rfl
@[simp] theorem takeTrapUnrecorded_shoots (t : Trap) (len : Nat) (s : State) : (takeTrapUnrecorded t len s).shoots = s.shoots := rfl
@[simp] theorem takeTrapUnrecorded_migrations (t : Trap) (len : Nat) (s : State) : (takeTrapUnrecorded t len s).migrations = s.migrations := rfl
@[simp] theorem takeTrapUnrecorded_raa (t : Trap) (len : Nat) (s : State) : (takeTrapUnrecorded t len s).raa = s.raa := rfl
@[simp] theorem takeTrapUnrecorded_raaimt (t : Trap) (len : Nat) (s : State) : (takeTrapUnrecorded t len s).raaimt = s.raaimt := rfl
@[simp] theorem takeTrapUnrecorded_raammt (t : Trap) (len : Nat) (s : State) : (takeTrapUnrecorded t len s).raammt = s.raammt := rfl
@[simp] theorem takeTrapUnrecorded_buses (t : Trap) (len : Nat) (s : State) : (takeTrapUnrecorded t len s).buses = s.buses := rfl
@[simp] theorem takeTrapUnrecorded_links (t : Trap) (len : Nat) (s : State) : (takeTrapUnrecorded t len s).links = s.links := rfl
@[simp] theorem takeTrapUnrecorded_ports (t : Trap) (len : Nat) (s : State) : (takeTrapUnrecorded t len s).ports = s.ports := rfl
@[simp] theorem takeTrapUnrecorded_routes (t : Trap) (len : Nat) (s : State) : (takeTrapUnrecorded t len s).routes = s.routes := rfl
@[simp] theorem takeTrapUnrecorded_sent (t : Trap) (len : Nat) (s : State) : (takeTrapUnrecorded t len s).sent = s.sent := rfl
@[simp] theorem takeTrapUnrecorded_completed (t : Trap) (len : Nat) (s : State) : (takeTrapUnrecorded t len s).completed = s.completed := rfl
@[simp] theorem takeTrapUnrecorded_buckets (t : Trap) (len : Nat) (s : State) : (takeTrapUnrecorded t len s).buckets = s.buckets := rfl
@[simp] theorem takeTrapUnrecorded_stalled (t : Trap) (len : Nat) (s : State) : (takeTrapUnrecorded t len s).stalled = s.stalled := rfl
@[simp] theorem takeTrapUnrecorded_throttle (t : Trap) (len : Nat) (s : State) : (takeTrapUnrecorded t len s).throttle = s.throttle := rfl
@[simp] theorem takeTrapUnrecorded_access (t : Trap) (len : Nat) (s : State) : (takeTrapUnrecorded t len s).access = s.access := rfl
@[simp] theorem takeTrapUnrecorded_signals (t : Trap) (len : Nat) (s : State) : (takeTrapUnrecorded t len s).signals = s.signals := rfl
@[simp] theorem takeTrapUnrecorded_hostRead (t : Trap) (len : Nat) (s : State) : (takeTrapUnrecorded t len s).hostRead = s.hostRead := rfl
@[simp] theorem takeTrapUnrecorded_devid (t : Trap) (len : Nat) (s : State) : (takeTrapUnrecorded t len s).devid = s.devid := rfl
@[simp] theorem takeTrapUnrecorded_boot (t : Trap) (len : Nat) (s : State) : (takeTrapUnrecorded t len s).boot = s.boot := rfl
@[simp] theorem takeTrapUnrecorded_sec (t : Trap) (len : Nat) (s : State) : (takeTrapUnrecorded t len s).sec = s.sec := rfl
@[simp] theorem takeTrapUnrecorded_dump (t : Trap) (len : Nat) (s : State) : (takeTrapUnrecorded t len s).dump = s.dump := rfl
@[simp] theorem takeTrapUnrecorded_log (t : Trap) (len : Nat) (s : State) : (takeTrapUnrecorded t len s).log = s.log := rfl
@[simp] theorem takeTrapUnrecorded_agenda (t : Trap) (len : Nat) (s : State) : (takeTrapUnrecorded t len s).agenda = s.agenda := rfl
@[simp] theorem takeTrapUnrecorded_devTurn (t : Trap) (len : Nat) (s : State) : (takeTrapUnrecorded t len s).devTurn = s.devTurn := rfl
@[simp] theorem takeTrapUnrecorded_sweep (t : Trap) (len : Nat) (s : State) : (takeTrapUnrecorded t len s).sweep = s.sweep := rfl
@[simp] theorem takeTrapUnrecorded_fresh (t : Trap) (len : Nat) (s : State) : (takeTrapUnrecorded t len s).fresh = s.fresh := rfl
@[simp] theorem takeTrapUnrecorded_clock (t : Trap) (len : Nat) (s : State) : (takeTrapUnrecorded t len s).clock = s.clock := rfl

/-! ### `retire` -/

@[simp] theorem retire_cur (len : Nat) (s : State) : (retire len s).cur = { s.cur with
      pc := s.cur.pc + BitVec.ofNat 64 len, answers := keepAnswers s.cur.answers } := rfl
@[simp] theorem retire_rest (len : Nat) (s : State) : (retire len s).rest = s.rest := rfl
@[simp] theorem retire_cores (len : Nat) (s : State) : (retire len s).cores = tset .reset s.cores s.cur.core.toNat
      { s.core s.cur.core.toNat with instret := (s.core s.cur.core.toNat).instret + 1 } := rfl
@[simp] theorem retire_parts (len : Nat) (s : State) : (retire len s).parts = s.parts := rfl
@[simp] theorem retire_mem (len : Nat) (s : State) : (retire len s).mem = s.mem := rfl
@[simp] theorem retire_home (len : Nat) (s : State) : (retire len s).home = s.home := rfl
@[simp] theorem retire_host (len : Nat) (s : State) : (retire len s).host = s.host := rfl
@[simp] theorem retire_frames (len : Nat) (s : State) : (retire len s).frames = s.frames := rfl
@[simp] theorem retire_poison (len : Nat) (s : State) : (retire len s).poison = s.poison := rfl
@[simp] theorem retire_ptes (len : Nat) (s : State) : (retire len s).ptes = s.ptes := rfl
@[simp] theorem retire_banks (len : Nat) (s : State) : (retire len s).banks = s.banks := rfl
@[simp] theorem retire_reserved (len : Nat) (s : State) : (retire len s).reserved = s.reserved := rfl
@[simp] theorem retire_freeSegs (len : Nat) (s : State) : (retire len s).freeSegs = s.freeSegs := rfl
@[simp] theorem retire_generation (len : Nat) (s : State) : (retire len s).generation = s.generation := rfl
@[simp] theorem retire_shoots (len : Nat) (s : State) : (retire len s).shoots = s.shoots := rfl
@[simp] theorem retire_migrations (len : Nat) (s : State) : (retire len s).migrations = s.migrations := rfl
@[simp] theorem retire_raa (len : Nat) (s : State) : (retire len s).raa = s.raa := rfl
@[simp] theorem retire_raaimt (len : Nat) (s : State) : (retire len s).raaimt = s.raaimt := rfl
@[simp] theorem retire_raammt (len : Nat) (s : State) : (retire len s).raammt = s.raammt := rfl
@[simp] theorem retire_buses (len : Nat) (s : State) : (retire len s).buses = s.buses := rfl
@[simp] theorem retire_links (len : Nat) (s : State) : (retire len s).links = s.links := rfl
@[simp] theorem retire_ports (len : Nat) (s : State) : (retire len s).ports = s.ports := rfl
@[simp] theorem retire_routes (len : Nat) (s : State) : (retire len s).routes = s.routes := rfl
@[simp] theorem retire_sent (len : Nat) (s : State) : (retire len s).sent = s.sent := rfl
@[simp] theorem retire_completed (len : Nat) (s : State) : (retire len s).completed = s.completed := rfl
@[simp] theorem retire_buckets (len : Nat) (s : State) : (retire len s).buckets = s.buckets := rfl
@[simp] theorem retire_stalled (len : Nat) (s : State) : (retire len s).stalled = s.stalled := rfl
@[simp] theorem retire_throttle (len : Nat) (s : State) : (retire len s).throttle = s.throttle := rfl
@[simp] theorem retire_access (len : Nat) (s : State) : (retire len s).access = s.access := rfl
@[simp] theorem retire_signals (len : Nat) (s : State) : (retire len s).signals = s.signals := rfl
@[simp] theorem retire_hostRead (len : Nat) (s : State) : (retire len s).hostRead = s.hostRead := rfl
@[simp] theorem retire_devid (len : Nat) (s : State) : (retire len s).devid = s.devid := rfl
@[simp] theorem retire_boot (len : Nat) (s : State) : (retire len s).boot = s.boot := rfl
@[simp] theorem retire_sec (len : Nat) (s : State) : (retire len s).sec = s.sec := rfl
@[simp] theorem retire_dump (len : Nat) (s : State) : (retire len s).dump = s.dump := rfl
@[simp] theorem retire_log (len : Nat) (s : State) : (retire len s).log = s.log := rfl
@[simp] theorem retire_agenda (len : Nat) (s : State) : (retire len s).agenda = s.agenda := rfl
@[simp] theorem retire_devTurn (len : Nat) (s : State) : (retire len s).devTurn = s.devTurn := rfl
@[simp] theorem retire_sweep (len : Nat) (s : State) : (retire len s).sweep = s.sweep := rfl
@[simp] theorem retire_fresh (len : Nat) (s : State) : (retire len s).fresh = s.fresh := rfl
@[simp] theorem retire_clock (len : Nat) (s : State) : (retire len s).clock = s.clock := rfl

/-! ### `retireTo` -/

@[simp] theorem retireTo_cur (pc : Word) (s : State) : (retireTo pc s).cur = { s.cur with
      pc := pc, answers := keepAnswers s.cur.answers } := rfl
@[simp] theorem retireTo_rest (pc : Word) (s : State) : (retireTo pc s).rest = s.rest := rfl
@[simp] theorem retireTo_cores (pc : Word) (s : State) : (retireTo pc s).cores = tset .reset s.cores s.cur.core.toNat
      { s.core s.cur.core.toNat with instret := (s.core s.cur.core.toNat).instret + 1 } := rfl
@[simp] theorem retireTo_parts (pc : Word) (s : State) : (retireTo pc s).parts = s.parts := rfl
@[simp] theorem retireTo_mem (pc : Word) (s : State) : (retireTo pc s).mem = s.mem := rfl
@[simp] theorem retireTo_home (pc : Word) (s : State) : (retireTo pc s).home = s.home := rfl
@[simp] theorem retireTo_host (pc : Word) (s : State) : (retireTo pc s).host = s.host := rfl
@[simp] theorem retireTo_frames (pc : Word) (s : State) : (retireTo pc s).frames = s.frames := rfl
@[simp] theorem retireTo_poison (pc : Word) (s : State) : (retireTo pc s).poison = s.poison := rfl
@[simp] theorem retireTo_ptes (pc : Word) (s : State) : (retireTo pc s).ptes = s.ptes := rfl
@[simp] theorem retireTo_banks (pc : Word) (s : State) : (retireTo pc s).banks = s.banks := rfl
@[simp] theorem retireTo_reserved (pc : Word) (s : State) : (retireTo pc s).reserved = s.reserved := rfl
@[simp] theorem retireTo_freeSegs (pc : Word) (s : State) : (retireTo pc s).freeSegs = s.freeSegs := rfl
@[simp] theorem retireTo_generation (pc : Word) (s : State) : (retireTo pc s).generation = s.generation := rfl
@[simp] theorem retireTo_shoots (pc : Word) (s : State) : (retireTo pc s).shoots = s.shoots := rfl
@[simp] theorem retireTo_migrations (pc : Word) (s : State) : (retireTo pc s).migrations = s.migrations := rfl
@[simp] theorem retireTo_raa (pc : Word) (s : State) : (retireTo pc s).raa = s.raa := rfl
@[simp] theorem retireTo_raaimt (pc : Word) (s : State) : (retireTo pc s).raaimt = s.raaimt := rfl
@[simp] theorem retireTo_raammt (pc : Word) (s : State) : (retireTo pc s).raammt = s.raammt := rfl
@[simp] theorem retireTo_buses (pc : Word) (s : State) : (retireTo pc s).buses = s.buses := rfl
@[simp] theorem retireTo_links (pc : Word) (s : State) : (retireTo pc s).links = s.links := rfl
@[simp] theorem retireTo_ports (pc : Word) (s : State) : (retireTo pc s).ports = s.ports := rfl
@[simp] theorem retireTo_routes (pc : Word) (s : State) : (retireTo pc s).routes = s.routes := rfl
@[simp] theorem retireTo_sent (pc : Word) (s : State) : (retireTo pc s).sent = s.sent := rfl
@[simp] theorem retireTo_completed (pc : Word) (s : State) : (retireTo pc s).completed = s.completed := rfl
@[simp] theorem retireTo_buckets (pc : Word) (s : State) : (retireTo pc s).buckets = s.buckets := rfl
@[simp] theorem retireTo_stalled (pc : Word) (s : State) : (retireTo pc s).stalled = s.stalled := rfl
@[simp] theorem retireTo_throttle (pc : Word) (s : State) : (retireTo pc s).throttle = s.throttle := rfl
@[simp] theorem retireTo_access (pc : Word) (s : State) : (retireTo pc s).access = s.access := rfl
@[simp] theorem retireTo_signals (pc : Word) (s : State) : (retireTo pc s).signals = s.signals := rfl
@[simp] theorem retireTo_hostRead (pc : Word) (s : State) : (retireTo pc s).hostRead = s.hostRead := rfl
@[simp] theorem retireTo_devid (pc : Word) (s : State) : (retireTo pc s).devid = s.devid := rfl
@[simp] theorem retireTo_boot (pc : Word) (s : State) : (retireTo pc s).boot = s.boot := rfl
@[simp] theorem retireTo_sec (pc : Word) (s : State) : (retireTo pc s).sec = s.sec := rfl
@[simp] theorem retireTo_dump (pc : Word) (s : State) : (retireTo pc s).dump = s.dump := rfl
@[simp] theorem retireTo_log (pc : Word) (s : State) : (retireTo pc s).log = s.log := rfl
@[simp] theorem retireTo_agenda (pc : Word) (s : State) : (retireTo pc s).agenda = s.agenda := rfl
@[simp] theorem retireTo_devTurn (pc : Word) (s : State) : (retireTo pc s).devTurn = s.devTurn := rfl
@[simp] theorem retireTo_sweep (pc : Word) (s : State) : (retireTo pc s).sweep = s.sweep := rfl
@[simp] theorem retireTo_fresh (pc : Word) (s : State) : (retireTo pc s).fresh = s.fresh := rfl
@[simp] theorem retireTo_clock (pc : Word) (s : State) : (retireTo pc s).clock = s.clock := rfl

/-! ### Updates of a hart -/

@[simp] theorem Hart.writeX_status (h : Hart) (r : BitVec 5) (v : Word) : (h.writeX r v).status = h.status := by
  unfold Hart.writeX; split <;> rfl
@[simp] theorem Hart.writeX_part (h : Hart) (r : BitVec 5) (v : Word) : (h.writeX r v).part = h.part := by
  unfold Hart.writeX; split <;> rfl
@[simp] theorem Hart.writeX_ctxid (h : Hart) (r : BitVec 5) (v : Word) : (h.writeX r v).ctxid = h.ctxid := by
  unfold Hart.writeX; split <;> rfl
@[simp] theorem Hart.writeX_core (h : Hart) (r : BitVec 5) (v : Word) : (h.writeX r v).core = h.core := by
  unfold Hart.writeX; split <;> rfl
@[simp] theorem Hart.writeX_slot (h : Hart) (r : BitVec 5) (v : Word) : (h.writeX r v).slot = h.slot := by
  unfold Hart.writeX; split <;> rfl
@[simp] theorem Hart.writeX_cluster (h : Hart) (r : BitVec 5) (v : Word) : (h.writeX r v).cluster = h.cluster := by
  unfold Hart.writeX; split <;> rfl
@[simp] theorem Hart.writeX_wide (h : Hart) (r : BitVec 5) (v : Word) : (h.writeX r v).wide = h.wide := by
  unfold Hart.writeX; split <;> rfl
@[simp] theorem Hart.writeX_supv (h : Hart) (r : BitVec 5) (v : Word) : (h.writeX r v).supv = h.supv := by
  unfold Hart.writeX; split <;> rfl
@[simp] theorem Hart.writeX_ntiles (h : Hart) (r : BitVec 5) (v : Word) : (h.writeX r v).ntiles = h.ntiles := by
  unfold Hart.writeX; split <;> rfl
@[simp] theorem Hart.writeX_spadUnits (h : Hart) (r : BitVec 5) (v : Word) : (h.writeX r v).spadUnits = h.spadUnits := by
  unfold Hart.writeX; split <;> rfl
@[simp] theorem Hart.writeX_task (h : Hart) (r : BitVec 5) (v : Word) : (h.writeX r v).task = h.task := by
  unfold Hart.writeX; split <;> rfl
@[simp] theorem Hart.writeX_member (h : Hart) (r : BitVec 5) (v : Word) : (h.writeX r v).member = h.member := by
  unfold Hart.writeX; split <;> rfl
@[simp] theorem Hart.writeX_harts (h : Hart) (r : BitVec 5) (v : Word) : (h.writeX r v).harts = h.harts := by
  unfold Hart.writeX; split <;> rfl
@[simp] theorem Hart.writeX_prio (h : Hart) (r : BitVec 5) (v : Word) : (h.writeX r v).prio = h.prio := by
  unfold Hart.writeX; split <;> rfl
@[simp] theorem Hart.writeX_stamp (h : Hart) (r : BitVec 5) (v : Word) : (h.writeX r v).stamp = h.stamp := by
  unfold Hart.writeX; split <;> rfl
@[simp] theorem Hart.writeX_saveSlot (h : Hart) (r : BitVec 5) (v : Word) : (h.writeX r v).saveSlot = h.saveSlot := by
  unfold Hart.writeX; split <;> rfl
@[simp] theorem Hart.writeX_code (h : Hart) (r : BitVec 5) (v : Word) : (h.writeX r v).code = h.code := by
  unfold Hart.writeX; split <;> rfl
@[simp] theorem Hart.writeX_pc (h : Hart) (r : BitVec 5) (v : Word) : (h.writeX r v).pc = h.pc := by
  unfold Hart.writeX; split <;> rfl
@[simp] theorem Hart.writeX_v (h : Hart) (r : BitVec 5) (v : Word) : (h.writeX r v).v = h.v := by
  unfold Hart.writeX; split <;> rfl
@[simp] theorem Hart.writeX_m (h : Hart) (r : BitVec 5) (v : Word) : (h.writeX r v).m = h.m := by
  unfold Hart.writeX; split <;> rfl
@[simp] theorem Hart.writeX_d (h : Hart) (r : BitVec 5) (v : Word) : (h.writeX r v).d = h.d := by
  unfold Hart.writeX; split <;> rfl
@[simp] theorem Hart.writeX_shapes (h : Hart) (r : BitVec 5) (v : Word) : (h.writeX r v).shapes = h.shapes := by
  unfold Hart.writeX; split <;> rfl
@[simp] theorem Hart.writeX_g (h : Hart) (r : BitVec 5) (v : Word) : (h.writeX r v).g = h.g := by
  unfold Hart.writeX; split <;> rfl
@[simp] theorem Hart.writeX_tiles (h : Hart) (r : BitVec 5) (v : Word) : (h.writeX r v).tiles = h.tiles := by
  unfold Hart.writeX; split <;> rfl
@[simp] theorem Hart.writeX_matq (h : Hart) (r : BitVec 5) (v : Word) : (h.writeX r v).matq = h.matq := by
  unfold Hart.writeX; split <;> rfl
@[simp] theorem Hart.writeX_csr (h : Hart) (r : BitVec 5) (v : Word) : (h.writeX r v).csr = h.csr := by
  unfold Hart.writeX; split <;> rfl
@[simp] theorem Hart.writeX_raise (h : Hart) (r : BitVec 5) (v : Word) : (h.writeX r v).raise = h.raise := by
  unfold Hart.writeX; split <;> rfl
@[simp] theorem Hart.writeX_farm (h : Hart) (r : BitVec 5) (v : Word) : (h.writeX r v).farm = h.farm := by
  unfold Hart.writeX; split <;> rfl
@[simp] theorem Hart.writeX_farmSets (h : Hart) (r : BitVec 5) (v : Word) : (h.writeX r v).farmSets = h.farmSets := by
  unfold Hart.writeX; split <;> rfl
@[simp] theorem Hart.writeX_binds (h : Hart) (r : BitVec 5) (v : Word) : (h.writeX r v).binds = h.binds := by
  unfold Hart.writeX; split <;> rfl
@[simp] theorem Hart.writeX_xfers (h : Hart) (r : BitVec 5) (v : Word) : (h.writeX r v).xfers = h.xfers := by
  unfold Hart.writeX; split <;> rfl
@[simp] theorem Hart.writeX_spad (h : Hart) (r : BitVec 5) (v : Word) : (h.writeX r v).spad = h.spad := by
  unfold Hart.writeX; split <;> rfl
@[simp] theorem Hart.writeX_spadPages (h : Hart) (r : BitVec 5) (v : Word) : (h.writeX r v).spadPages = h.spadPages := by
  unfold Hart.writeX; split <;> rfl
@[simp] theorem Hart.writeX_vpres (h : Hart) (r : BitVec 5) (v : Word) : (h.writeX r v).vpres = h.vpres := by
  unfold Hart.writeX; split <;> rfl
@[simp] theorem Hart.writeX_sppres (h : Hart) (r : BitVec 5) (v : Word) : (h.writeX r v).sppres = h.sppres := by
  unfold Hart.writeX; split <;> rfl
@[simp] theorem Hart.writeX_utlb (h : Hart) (r : BitVec 5) (v : Word) : (h.writeX r v).utlb = h.utlb := by
  unfold Hart.writeX; split <;> rfl
@[simp] theorem Hart.writeX_ifetch (h : Hart) (r : BitVec 5) (v : Word) : (h.writeX r v).ifetch = h.ifetch := by
  unfold Hart.writeX; split <;> rfl
@[simp] theorem Hart.writeX_wstate (h : Hart) (r : BitVec 5) (v : Word) : (h.writeX r v).wstate = h.wstate := by
  unfold Hart.writeX; split <;> rfl
@[simp] theorem Hart.writeX_exitVal (h : Hart) (r : BitVec 5) (v : Word) : (h.writeX r v).exitVal = h.exitVal := by
  unfold Hart.writeX; split <;> rfl
@[simp] theorem Hart.writeX_triggered (h : Hart) (r : BitVec 5) (v : Word) : (h.writeX r v).triggered = h.triggered := by
  unfold Hart.writeX; split <;> rfl
@[simp] theorem Hart.writeX_request (h : Hart) (r : BitVec 5) (v : Word) : (h.writeX r v).request = h.request := by
  unfold Hart.writeX; split <;> rfl
@[simp] theorem Hart.writeX_skip (h : Hart) (r : BitVec 5) (v : Word) : (h.writeX r v).skip = h.skip := by
  unfold Hart.writeX; split <;> rfl
@[simp] theorem Hart.writeX_skipLen (h : Hart) (r : BitVec 5) (v : Word) : (h.writeX r v).skipLen = h.skipLen := by
  unfold Hart.writeX; split <;> rfl
@[simp] theorem Hart.writeX_skipExit (h : Hart) (r : BitVec 5) (v : Word) : (h.writeX r v).skipExit = h.skipExit := by
  unfold Hart.writeX; split <;> rfl
@[simp] theorem Hart.writeX_answers (h : Hart) (r : BitVec 5) (v : Word) : (h.writeX r v).answers = h.answers := by
  unfold Hart.writeX; split <;> rfl
@[simp] theorem Hart.writeX_held (h : Hart) (r : BitVec 5) (v : Word) : (h.writeX r v).held = h.held := by
  unfold Hart.writeX; split <;> rfl
@[simp] theorem Hart.writeX_flights (h : Hart) (r : BitVec 5) (v : Word) : (h.writeX r v).flights = h.flights := by
  unfold Hart.writeX; split <;> rfl
@[simp] theorem Hart.writeX_victim (h : Hart) (r : BitVec 5) (v : Word) : (h.writeX r v).victim = h.victim := by
  unfold Hart.writeX; split <;> rfl
@[simp] theorem Hart.writeX_woken (h : Hart) (r : BitVec 5) (v : Word) : (h.writeX r v).woken = h.woken := by
  unfold Hart.writeX; split <;> rfl

@[simp] theorem Hart.setV_status (h : Hart) (n : Nat) (r : VReg) : (h.setV n r).status = h.status := rfl
@[simp] theorem Hart.setV_part (h : Hart) (n : Nat) (r : VReg) : (h.setV n r).part = h.part := rfl
@[simp] theorem Hart.setV_ctxid (h : Hart) (n : Nat) (r : VReg) : (h.setV n r).ctxid = h.ctxid := rfl
@[simp] theorem Hart.setV_core (h : Hart) (n : Nat) (r : VReg) : (h.setV n r).core = h.core := rfl
@[simp] theorem Hart.setV_slot (h : Hart) (n : Nat) (r : VReg) : (h.setV n r).slot = h.slot := rfl
@[simp] theorem Hart.setV_cluster (h : Hart) (n : Nat) (r : VReg) : (h.setV n r).cluster = h.cluster := rfl
@[simp] theorem Hart.setV_wide (h : Hart) (n : Nat) (r : VReg) : (h.setV n r).wide = h.wide := rfl
@[simp] theorem Hart.setV_supv (h : Hart) (n : Nat) (r : VReg) : (h.setV n r).supv = h.supv := rfl
@[simp] theorem Hart.setV_ntiles (h : Hart) (n : Nat) (r : VReg) : (h.setV n r).ntiles = h.ntiles := rfl
@[simp] theorem Hart.setV_spadUnits (h : Hart) (n : Nat) (r : VReg) : (h.setV n r).spadUnits = h.spadUnits := rfl
@[simp] theorem Hart.setV_task (h : Hart) (n : Nat) (r : VReg) : (h.setV n r).task = h.task := rfl
@[simp] theorem Hart.setV_member (h : Hart) (n : Nat) (r : VReg) : (h.setV n r).member = h.member := rfl
@[simp] theorem Hart.setV_harts (h : Hart) (n : Nat) (r : VReg) : (h.setV n r).harts = h.harts := rfl
@[simp] theorem Hart.setV_prio (h : Hart) (n : Nat) (r : VReg) : (h.setV n r).prio = h.prio := rfl
@[simp] theorem Hart.setV_stamp (h : Hart) (n : Nat) (r : VReg) : (h.setV n r).stamp = h.stamp := rfl
@[simp] theorem Hart.setV_saveSlot (h : Hart) (n : Nat) (r : VReg) : (h.setV n r).saveSlot = h.saveSlot := rfl
@[simp] theorem Hart.setV_code (h : Hart) (n : Nat) (r : VReg) : (h.setV n r).code = h.code := rfl
@[simp] theorem Hart.setV_pc (h : Hart) (n : Nat) (r : VReg) : (h.setV n r).pc = h.pc := rfl
@[simp] theorem Hart.setV_x (h : Hart) (n : Nat) (r : VReg) : (h.setV n r).x = h.x := rfl
@[simp] theorem Hart.setV_xPoison (h : Hart) (n : Nat) (r : VReg) : (h.setV n r).xPoison = h.xPoison := rfl
@[simp] theorem Hart.setV_m (h : Hart) (n : Nat) (r : VReg) : (h.setV n r).m = h.m := rfl
@[simp] theorem Hart.setV_d (h : Hart) (n : Nat) (r : VReg) : (h.setV n r).d = h.d := rfl
@[simp] theorem Hart.setV_shapes (h : Hart) (n : Nat) (r : VReg) : (h.setV n r).shapes = h.shapes := rfl
@[simp] theorem Hart.setV_g (h : Hart) (n : Nat) (r : VReg) : (h.setV n r).g = h.g := rfl
@[simp] theorem Hart.setV_tiles (h : Hart) (n : Nat) (r : VReg) : (h.setV n r).tiles = h.tiles := rfl
@[simp] theorem Hart.setV_matq (h : Hart) (n : Nat) (r : VReg) : (h.setV n r).matq = h.matq := rfl
@[simp] theorem Hart.setV_csr (h : Hart) (n : Nat) (r : VReg) : (h.setV n r).csr = h.csr := rfl
@[simp] theorem Hart.setV_raise (h : Hart) (n : Nat) (r : VReg) : (h.setV n r).raise = h.raise := rfl
@[simp] theorem Hart.setV_farm (h : Hart) (n : Nat) (r : VReg) : (h.setV n r).farm = h.farm := rfl
@[simp] theorem Hart.setV_farmSets (h : Hart) (n : Nat) (r : VReg) : (h.setV n r).farmSets = h.farmSets := rfl
@[simp] theorem Hart.setV_binds (h : Hart) (n : Nat) (r : VReg) : (h.setV n r).binds = h.binds := rfl
@[simp] theorem Hart.setV_xfers (h : Hart) (n : Nat) (r : VReg) : (h.setV n r).xfers = h.xfers := rfl
@[simp] theorem Hart.setV_spad (h : Hart) (n : Nat) (r : VReg) : (h.setV n r).spad = h.spad := rfl
@[simp] theorem Hart.setV_spadPages (h : Hart) (n : Nat) (r : VReg) : (h.setV n r).spadPages = h.spadPages := rfl
@[simp] theorem Hart.setV_vpres (h : Hart) (n : Nat) (r : VReg) : (h.setV n r).vpres = h.vpres := rfl
@[simp] theorem Hart.setV_sppres (h : Hart) (n : Nat) (r : VReg) : (h.setV n r).sppres = h.sppres := rfl
@[simp] theorem Hart.setV_utlb (h : Hart) (n : Nat) (r : VReg) : (h.setV n r).utlb = h.utlb := rfl
@[simp] theorem Hart.setV_ifetch (h : Hart) (n : Nat) (r : VReg) : (h.setV n r).ifetch = h.ifetch := rfl
@[simp] theorem Hart.setV_wstate (h : Hart) (n : Nat) (r : VReg) : (h.setV n r).wstate = h.wstate := rfl
@[simp] theorem Hart.setV_exitVal (h : Hart) (n : Nat) (r : VReg) : (h.setV n r).exitVal = h.exitVal := rfl
@[simp] theorem Hart.setV_triggered (h : Hart) (n : Nat) (r : VReg) : (h.setV n r).triggered = h.triggered := rfl
@[simp] theorem Hart.setV_request (h : Hart) (n : Nat) (r : VReg) : (h.setV n r).request = h.request := rfl
@[simp] theorem Hart.setV_skip (h : Hart) (n : Nat) (r : VReg) : (h.setV n r).skip = h.skip := rfl
@[simp] theorem Hart.setV_skipLen (h : Hart) (n : Nat) (r : VReg) : (h.setV n r).skipLen = h.skipLen := rfl
@[simp] theorem Hart.setV_skipExit (h : Hart) (n : Nat) (r : VReg) : (h.setV n r).skipExit = h.skipExit := rfl
@[simp] theorem Hart.setV_answers (h : Hart) (n : Nat) (r : VReg) : (h.setV n r).answers = h.answers := rfl
@[simp] theorem Hart.setV_held (h : Hart) (n : Nat) (r : VReg) : (h.setV n r).held = h.held := rfl
@[simp] theorem Hart.setV_flights (h : Hart) (n : Nat) (r : VReg) : (h.setV n r).flights = h.flights := rfl
@[simp] theorem Hart.setV_victim (h : Hart) (n : Nat) (r : VReg) : (h.setV n r).victim = h.victim := rfl
@[simp] theorem Hart.setV_woken (h : Hart) (n : Nat) (r : VReg) : (h.setV n r).woken = h.woken := rfl

@[simp] theorem Hart.addFlags_status (h : Hart) (f : Flags) : (h.addFlags f).status = h.status := rfl
@[simp] theorem Hart.addFlags_part (h : Hart) (f : Flags) : (h.addFlags f).part = h.part := rfl
@[simp] theorem Hart.addFlags_ctxid (h : Hart) (f : Flags) : (h.addFlags f).ctxid = h.ctxid := rfl
@[simp] theorem Hart.addFlags_core (h : Hart) (f : Flags) : (h.addFlags f).core = h.core := rfl
@[simp] theorem Hart.addFlags_slot (h : Hart) (f : Flags) : (h.addFlags f).slot = h.slot := rfl
@[simp] theorem Hart.addFlags_cluster (h : Hart) (f : Flags) : (h.addFlags f).cluster = h.cluster := rfl
@[simp] theorem Hart.addFlags_wide (h : Hart) (f : Flags) : (h.addFlags f).wide = h.wide := rfl
@[simp] theorem Hart.addFlags_supv (h : Hart) (f : Flags) : (h.addFlags f).supv = h.supv := rfl
@[simp] theorem Hart.addFlags_ntiles (h : Hart) (f : Flags) : (h.addFlags f).ntiles = h.ntiles := rfl
@[simp] theorem Hart.addFlags_spadUnits (h : Hart) (f : Flags) : (h.addFlags f).spadUnits = h.spadUnits := rfl
@[simp] theorem Hart.addFlags_task (h : Hart) (f : Flags) : (h.addFlags f).task = h.task := rfl
@[simp] theorem Hart.addFlags_member (h : Hart) (f : Flags) : (h.addFlags f).member = h.member := rfl
@[simp] theorem Hart.addFlags_harts (h : Hart) (f : Flags) : (h.addFlags f).harts = h.harts := rfl
@[simp] theorem Hart.addFlags_prio (h : Hart) (f : Flags) : (h.addFlags f).prio = h.prio := rfl
@[simp] theorem Hart.addFlags_stamp (h : Hart) (f : Flags) : (h.addFlags f).stamp = h.stamp := rfl
@[simp] theorem Hart.addFlags_saveSlot (h : Hart) (f : Flags) : (h.addFlags f).saveSlot = h.saveSlot := rfl
@[simp] theorem Hart.addFlags_code (h : Hart) (f : Flags) : (h.addFlags f).code = h.code := rfl
@[simp] theorem Hart.addFlags_pc (h : Hart) (f : Flags) : (h.addFlags f).pc = h.pc := rfl
@[simp] theorem Hart.addFlags_x (h : Hart) (f : Flags) : (h.addFlags f).x = h.x := rfl
@[simp] theorem Hart.addFlags_xPoison (h : Hart) (f : Flags) : (h.addFlags f).xPoison = h.xPoison := rfl
@[simp] theorem Hart.addFlags_v (h : Hart) (f : Flags) : (h.addFlags f).v = h.v := rfl
@[simp] theorem Hart.addFlags_m (h : Hart) (f : Flags) : (h.addFlags f).m = h.m := rfl
@[simp] theorem Hart.addFlags_d (h : Hart) (f : Flags) : (h.addFlags f).d = h.d := rfl
@[simp] theorem Hart.addFlags_shapes (h : Hart) (f : Flags) : (h.addFlags f).shapes = h.shapes := rfl
@[simp] theorem Hart.addFlags_g (h : Hart) (f : Flags) : (h.addFlags f).g = h.g := rfl
@[simp] theorem Hart.addFlags_tiles (h : Hart) (f : Flags) : (h.addFlags f).tiles = h.tiles := rfl
@[simp] theorem Hart.addFlags_matq (h : Hart) (f : Flags) : (h.addFlags f).matq = h.matq := rfl
@[simp] theorem Hart.addFlags_raise (h : Hart) (f : Flags) : (h.addFlags f).raise = h.raise := rfl
@[simp] theorem Hart.addFlags_farm (h : Hart) (f : Flags) : (h.addFlags f).farm = h.farm := rfl
@[simp] theorem Hart.addFlags_farmSets (h : Hart) (f : Flags) : (h.addFlags f).farmSets = h.farmSets := rfl
@[simp] theorem Hart.addFlags_binds (h : Hart) (f : Flags) : (h.addFlags f).binds = h.binds := rfl
@[simp] theorem Hart.addFlags_xfers (h : Hart) (f : Flags) : (h.addFlags f).xfers = h.xfers := rfl
@[simp] theorem Hart.addFlags_spad (h : Hart) (f : Flags) : (h.addFlags f).spad = h.spad := rfl
@[simp] theorem Hart.addFlags_spadPages (h : Hart) (f : Flags) : (h.addFlags f).spadPages = h.spadPages := rfl
@[simp] theorem Hart.addFlags_vpres (h : Hart) (f : Flags) : (h.addFlags f).vpres = h.vpres := rfl
@[simp] theorem Hart.addFlags_sppres (h : Hart) (f : Flags) : (h.addFlags f).sppres = h.sppres := rfl
@[simp] theorem Hart.addFlags_utlb (h : Hart) (f : Flags) : (h.addFlags f).utlb = h.utlb := rfl
@[simp] theorem Hart.addFlags_ifetch (h : Hart) (f : Flags) : (h.addFlags f).ifetch = h.ifetch := rfl
@[simp] theorem Hart.addFlags_wstate (h : Hart) (f : Flags) : (h.addFlags f).wstate = h.wstate := rfl
@[simp] theorem Hart.addFlags_exitVal (h : Hart) (f : Flags) : (h.addFlags f).exitVal = h.exitVal := rfl
@[simp] theorem Hart.addFlags_triggered (h : Hart) (f : Flags) : (h.addFlags f).triggered = h.triggered := rfl
@[simp] theorem Hart.addFlags_request (h : Hart) (f : Flags) : (h.addFlags f).request = h.request := rfl
@[simp] theorem Hart.addFlags_skip (h : Hart) (f : Flags) : (h.addFlags f).skip = h.skip := rfl
@[simp] theorem Hart.addFlags_skipLen (h : Hart) (f : Flags) : (h.addFlags f).skipLen = h.skipLen := rfl
@[simp] theorem Hart.addFlags_skipExit (h : Hart) (f : Flags) : (h.addFlags f).skipExit = h.skipExit := rfl
@[simp] theorem Hart.addFlags_answers (h : Hart) (f : Flags) : (h.addFlags f).answers = h.answers := rfl
@[simp] theorem Hart.addFlags_held (h : Hart) (f : Flags) : (h.addFlags f).held = h.held := rfl
@[simp] theorem Hart.addFlags_flights (h : Hart) (f : Flags) : (h.addFlags f).flights = h.flights := rfl
@[simp] theorem Hart.addFlags_victim (h : Hart) (f : Flags) : (h.addFlags f).victim = h.victim := rfl
@[simp] theorem Hart.addFlags_woken (h : Hart) (f : Flags) : (h.addFlags f).woken = h.woken := rfl

@[simp] theorem Hart.addRcnt_status (h : Hart) (n : Nat) : (h.addRcnt n).status = h.status := rfl
@[simp] theorem Hart.addRcnt_part (h : Hart) (n : Nat) : (h.addRcnt n).part = h.part := rfl
@[simp] theorem Hart.addRcnt_ctxid (h : Hart) (n : Nat) : (h.addRcnt n).ctxid = h.ctxid := rfl
@[simp] theorem Hart.addRcnt_core (h : Hart) (n : Nat) : (h.addRcnt n).core = h.core := rfl
@[simp] theorem Hart.addRcnt_slot (h : Hart) (n : Nat) : (h.addRcnt n).slot = h.slot := rfl
@[simp] theorem Hart.addRcnt_cluster (h : Hart) (n : Nat) : (h.addRcnt n).cluster = h.cluster := rfl
@[simp] theorem Hart.addRcnt_wide (h : Hart) (n : Nat) : (h.addRcnt n).wide = h.wide := rfl
@[simp] theorem Hart.addRcnt_supv (h : Hart) (n : Nat) : (h.addRcnt n).supv = h.supv := rfl
@[simp] theorem Hart.addRcnt_ntiles (h : Hart) (n : Nat) : (h.addRcnt n).ntiles = h.ntiles := rfl
@[simp] theorem Hart.addRcnt_spadUnits (h : Hart) (n : Nat) : (h.addRcnt n).spadUnits = h.spadUnits := rfl
@[simp] theorem Hart.addRcnt_task (h : Hart) (n : Nat) : (h.addRcnt n).task = h.task := rfl
@[simp] theorem Hart.addRcnt_member (h : Hart) (n : Nat) : (h.addRcnt n).member = h.member := rfl
@[simp] theorem Hart.addRcnt_harts (h : Hart) (n : Nat) : (h.addRcnt n).harts = h.harts := rfl
@[simp] theorem Hart.addRcnt_prio (h : Hart) (n : Nat) : (h.addRcnt n).prio = h.prio := rfl
@[simp] theorem Hart.addRcnt_stamp (h : Hart) (n : Nat) : (h.addRcnt n).stamp = h.stamp := rfl
@[simp] theorem Hart.addRcnt_saveSlot (h : Hart) (n : Nat) : (h.addRcnt n).saveSlot = h.saveSlot := rfl
@[simp] theorem Hart.addRcnt_code (h : Hart) (n : Nat) : (h.addRcnt n).code = h.code := rfl
@[simp] theorem Hart.addRcnt_pc (h : Hart) (n : Nat) : (h.addRcnt n).pc = h.pc := rfl
@[simp] theorem Hart.addRcnt_x (h : Hart) (n : Nat) : (h.addRcnt n).x = h.x := rfl
@[simp] theorem Hart.addRcnt_xPoison (h : Hart) (n : Nat) : (h.addRcnt n).xPoison = h.xPoison := rfl
@[simp] theorem Hart.addRcnt_v (h : Hart) (n : Nat) : (h.addRcnt n).v = h.v := rfl
@[simp] theorem Hart.addRcnt_m (h : Hart) (n : Nat) : (h.addRcnt n).m = h.m := rfl
@[simp] theorem Hart.addRcnt_d (h : Hart) (n : Nat) : (h.addRcnt n).d = h.d := rfl
@[simp] theorem Hart.addRcnt_shapes (h : Hart) (n : Nat) : (h.addRcnt n).shapes = h.shapes := rfl
@[simp] theorem Hart.addRcnt_g (h : Hart) (n : Nat) : (h.addRcnt n).g = h.g := rfl
@[simp] theorem Hart.addRcnt_tiles (h : Hart) (n : Nat) : (h.addRcnt n).tiles = h.tiles := rfl
@[simp] theorem Hart.addRcnt_matq (h : Hart) (n : Nat) : (h.addRcnt n).matq = h.matq := rfl
@[simp] theorem Hart.addRcnt_raise (h : Hart) (n : Nat) : (h.addRcnt n).raise = h.raise := rfl
@[simp] theorem Hart.addRcnt_farm (h : Hart) (n : Nat) : (h.addRcnt n).farm = h.farm := rfl
@[simp] theorem Hart.addRcnt_farmSets (h : Hart) (n : Nat) : (h.addRcnt n).farmSets = h.farmSets := rfl
@[simp] theorem Hart.addRcnt_binds (h : Hart) (n : Nat) : (h.addRcnt n).binds = h.binds := rfl
@[simp] theorem Hart.addRcnt_xfers (h : Hart) (n : Nat) : (h.addRcnt n).xfers = h.xfers := rfl
@[simp] theorem Hart.addRcnt_spad (h : Hart) (n : Nat) : (h.addRcnt n).spad = h.spad := rfl
@[simp] theorem Hart.addRcnt_spadPages (h : Hart) (n : Nat) : (h.addRcnt n).spadPages = h.spadPages := rfl
@[simp] theorem Hart.addRcnt_vpres (h : Hart) (n : Nat) : (h.addRcnt n).vpres = h.vpres := rfl
@[simp] theorem Hart.addRcnt_sppres (h : Hart) (n : Nat) : (h.addRcnt n).sppres = h.sppres := rfl
@[simp] theorem Hart.addRcnt_utlb (h : Hart) (n : Nat) : (h.addRcnt n).utlb = h.utlb := rfl
@[simp] theorem Hart.addRcnt_ifetch (h : Hart) (n : Nat) : (h.addRcnt n).ifetch = h.ifetch := rfl
@[simp] theorem Hart.addRcnt_wstate (h : Hart) (n : Nat) : (h.addRcnt n).wstate = h.wstate := rfl
@[simp] theorem Hart.addRcnt_exitVal (h : Hart) (n : Nat) : (h.addRcnt n).exitVal = h.exitVal := rfl
@[simp] theorem Hart.addRcnt_triggered (h : Hart) (n : Nat) : (h.addRcnt n).triggered = h.triggered := rfl
@[simp] theorem Hart.addRcnt_request (h : Hart) (n : Nat) : (h.addRcnt n).request = h.request := rfl
@[simp] theorem Hart.addRcnt_skip (h : Hart) (n : Nat) : (h.addRcnt n).skip = h.skip := rfl
@[simp] theorem Hart.addRcnt_skipLen (h : Hart) (n : Nat) : (h.addRcnt n).skipLen = h.skipLen := rfl
@[simp] theorem Hart.addRcnt_skipExit (h : Hart) (n : Nat) : (h.addRcnt n).skipExit = h.skipExit := rfl
@[simp] theorem Hart.addRcnt_answers (h : Hart) (n : Nat) : (h.addRcnt n).answers = h.answers := rfl
@[simp] theorem Hart.addRcnt_held (h : Hart) (n : Nat) : (h.addRcnt n).held = h.held := rfl
@[simp] theorem Hart.addRcnt_flights (h : Hart) (n : Nat) : (h.addRcnt n).flights = h.flights := rfl
@[simp] theorem Hart.addRcnt_victim (h : Hart) (n : Nat) : (h.addRcnt n).victim = h.victim := rfl
@[simp] theorem Hart.addRcnt_woken (h : Hart) (n : Nat) : (h.addRcnt n).woken = h.woken := rfl

@[simp] theorem Hart.addZcnt_status (h : Hart) (n : Nat) : (h.addZcnt n).status = h.status := rfl
@[simp] theorem Hart.addZcnt_part (h : Hart) (n : Nat) : (h.addZcnt n).part = h.part := rfl
@[simp] theorem Hart.addZcnt_ctxid (h : Hart) (n : Nat) : (h.addZcnt n).ctxid = h.ctxid := rfl
@[simp] theorem Hart.addZcnt_core (h : Hart) (n : Nat) : (h.addZcnt n).core = h.core := rfl
@[simp] theorem Hart.addZcnt_slot (h : Hart) (n : Nat) : (h.addZcnt n).slot = h.slot := rfl
@[simp] theorem Hart.addZcnt_cluster (h : Hart) (n : Nat) : (h.addZcnt n).cluster = h.cluster := rfl
@[simp] theorem Hart.addZcnt_wide (h : Hart) (n : Nat) : (h.addZcnt n).wide = h.wide := rfl
@[simp] theorem Hart.addZcnt_supv (h : Hart) (n : Nat) : (h.addZcnt n).supv = h.supv := rfl
@[simp] theorem Hart.addZcnt_ntiles (h : Hart) (n : Nat) : (h.addZcnt n).ntiles = h.ntiles := rfl
@[simp] theorem Hart.addZcnt_spadUnits (h : Hart) (n : Nat) : (h.addZcnt n).spadUnits = h.spadUnits := rfl
@[simp] theorem Hart.addZcnt_task (h : Hart) (n : Nat) : (h.addZcnt n).task = h.task := rfl
@[simp] theorem Hart.addZcnt_member (h : Hart) (n : Nat) : (h.addZcnt n).member = h.member := rfl
@[simp] theorem Hart.addZcnt_harts (h : Hart) (n : Nat) : (h.addZcnt n).harts = h.harts := rfl
@[simp] theorem Hart.addZcnt_prio (h : Hart) (n : Nat) : (h.addZcnt n).prio = h.prio := rfl
@[simp] theorem Hart.addZcnt_stamp (h : Hart) (n : Nat) : (h.addZcnt n).stamp = h.stamp := rfl
@[simp] theorem Hart.addZcnt_saveSlot (h : Hart) (n : Nat) : (h.addZcnt n).saveSlot = h.saveSlot := rfl
@[simp] theorem Hart.addZcnt_code (h : Hart) (n : Nat) : (h.addZcnt n).code = h.code := rfl
@[simp] theorem Hart.addZcnt_pc (h : Hart) (n : Nat) : (h.addZcnt n).pc = h.pc := rfl
@[simp] theorem Hart.addZcnt_x (h : Hart) (n : Nat) : (h.addZcnt n).x = h.x := rfl
@[simp] theorem Hart.addZcnt_xPoison (h : Hart) (n : Nat) : (h.addZcnt n).xPoison = h.xPoison := rfl
@[simp] theorem Hart.addZcnt_v (h : Hart) (n : Nat) : (h.addZcnt n).v = h.v := rfl
@[simp] theorem Hart.addZcnt_m (h : Hart) (n : Nat) : (h.addZcnt n).m = h.m := rfl
@[simp] theorem Hart.addZcnt_d (h : Hart) (n : Nat) : (h.addZcnt n).d = h.d := rfl
@[simp] theorem Hart.addZcnt_shapes (h : Hart) (n : Nat) : (h.addZcnt n).shapes = h.shapes := rfl
@[simp] theorem Hart.addZcnt_g (h : Hart) (n : Nat) : (h.addZcnt n).g = h.g := rfl
@[simp] theorem Hart.addZcnt_tiles (h : Hart) (n : Nat) : (h.addZcnt n).tiles = h.tiles := rfl
@[simp] theorem Hart.addZcnt_matq (h : Hart) (n : Nat) : (h.addZcnt n).matq = h.matq := rfl
@[simp] theorem Hart.addZcnt_raise (h : Hart) (n : Nat) : (h.addZcnt n).raise = h.raise := rfl
@[simp] theorem Hart.addZcnt_farm (h : Hart) (n : Nat) : (h.addZcnt n).farm = h.farm := rfl
@[simp] theorem Hart.addZcnt_farmSets (h : Hart) (n : Nat) : (h.addZcnt n).farmSets = h.farmSets := rfl
@[simp] theorem Hart.addZcnt_binds (h : Hart) (n : Nat) : (h.addZcnt n).binds = h.binds := rfl
@[simp] theorem Hart.addZcnt_xfers (h : Hart) (n : Nat) : (h.addZcnt n).xfers = h.xfers := rfl
@[simp] theorem Hart.addZcnt_spad (h : Hart) (n : Nat) : (h.addZcnt n).spad = h.spad := rfl
@[simp] theorem Hart.addZcnt_spadPages (h : Hart) (n : Nat) : (h.addZcnt n).spadPages = h.spadPages := rfl
@[simp] theorem Hart.addZcnt_vpres (h : Hart) (n : Nat) : (h.addZcnt n).vpres = h.vpres := rfl
@[simp] theorem Hart.addZcnt_sppres (h : Hart) (n : Nat) : (h.addZcnt n).sppres = h.sppres := rfl
@[simp] theorem Hart.addZcnt_utlb (h : Hart) (n : Nat) : (h.addZcnt n).utlb = h.utlb := rfl
@[simp] theorem Hart.addZcnt_ifetch (h : Hart) (n : Nat) : (h.addZcnt n).ifetch = h.ifetch := rfl
@[simp] theorem Hart.addZcnt_wstate (h : Hart) (n : Nat) : (h.addZcnt n).wstate = h.wstate := rfl
@[simp] theorem Hart.addZcnt_exitVal (h : Hart) (n : Nat) : (h.addZcnt n).exitVal = h.exitVal := rfl
@[simp] theorem Hart.addZcnt_triggered (h : Hart) (n : Nat) : (h.addZcnt n).triggered = h.triggered := rfl
@[simp] theorem Hart.addZcnt_request (h : Hart) (n : Nat) : (h.addZcnt n).request = h.request := rfl
@[simp] theorem Hart.addZcnt_skip (h : Hart) (n : Nat) : (h.addZcnt n).skip = h.skip := rfl
@[simp] theorem Hart.addZcnt_skipLen (h : Hart) (n : Nat) : (h.addZcnt n).skipLen = h.skipLen := rfl
@[simp] theorem Hart.addZcnt_skipExit (h : Hart) (n : Nat) : (h.addZcnt n).skipExit = h.skipExit := rfl
@[simp] theorem Hart.addZcnt_answers (h : Hart) (n : Nat) : (h.addZcnt n).answers = h.answers := rfl
@[simp] theorem Hart.addZcnt_held (h : Hart) (n : Nat) : (h.addZcnt n).held = h.held := rfl
@[simp] theorem Hart.addZcnt_flights (h : Hart) (n : Nat) : (h.addZcnt n).flights = h.flights := rfl
@[simp] theorem Hart.addZcnt_victim (h : Hart) (n : Nat) : (h.addZcnt n).victim = h.victim := rfl
@[simp] theorem Hart.addZcnt_woken (h : Hart) (n : Nat) : (h.addZcnt n).woken = h.woken := rfl

@[simp] theorem Hart.addFlags_csr_vl (h : Hart) (f : Flags) : (h.addFlags f).csr.vl = h.csr.vl := rfl
@[simp] theorem Hart.addFlags_csr_tp (h : Hart) (f : Flags) : (h.addFlags f).csr.tp = h.csr.tp := rfl
@[simp] theorem Hart.addFlags_csr_mp (h : Hart) (f : Flags) : (h.addFlags f).csr.mp = h.csr.mp := rfl
@[simp] theorem Hart.addFlags_csr_lctr (h : Hart) (f : Flags) : (h.addFlags f).csr.lctr = h.csr.lctr := rfl
@[simp] theorem Hart.addFlags_csr_lrem (h : Hart) (f : Flags) : (h.addFlags f).csr.lrem = h.csr.lrem := rfl
@[simp] theorem Hart.addFlags_csr_bwphase (h : Hart) (f : Flags) : (h.addFlags f).csr.bwphase = h.csr.bwphase := rfl
@[simp] theorem Hart.addFlags_csr_phack (h : Hart) (f : Flags) : (h.addFlags f).csr.phack = h.csr.phack := rfl
@[simp] theorem Hart.addFlags_csr_thr (h : Hart) (f : Flags) : (h.addFlags f).csr.thr = h.csr.thr := rfl
@[simp] theorem Hart.addFlags_csr_zcnt (h : Hart) (f : Flags) : (h.addFlags f).csr.zcnt = h.csr.zcnt := rfl
@[simp] theorem Hart.addFlags_csr_rcnt (h : Hart) (f : Flags) : (h.addFlags f).csr.rcnt = h.csr.rcnt := rfl
@[simp] theorem Hart.addFlags_csr_hcdist (h : Hart) (f : Flags) : (h.addFlags f).csr.hcdist = h.csr.hcdist := rfl
@[simp] theorem Hart.addFlags_csr_hcidx2 (h : Hart) (f : Flags) : (h.addFlags f).csr.hcidx2 = h.csr.hcidx2 := rfl
@[simp] theorem Hart.addFlags_csr_hcdist2 (h : Hart) (f : Flags) : (h.addFlags f).csr.hcdist2 = h.csr.hcdist2 := rfl
@[simp] theorem Hart.addFlags_csr_hcflags (h : Hart) (f : Flags) : (h.addFlags f).csr.hcflags = h.csr.hcflags := rfl
@[simp] theorem Hart.addFlags_csr_hcthr (h : Hart) (f : Flags) : (h.addFlags f).csr.hcthr = h.csr.hcthr := rfl
@[simp] theorem Hart.addFlags_csr_epact (h : Hart) (f : Flags) : (h.addFlags f).csr.epact = h.csr.epact := rfl
@[simp] theorem Hart.addFlags_csr_reqloc (h : Hart) (f : Flags) : (h.addFlags f).csr.reqloc = h.csr.reqloc := rfl
@[simp] theorem Hart.addFlags_csr_reqrem (h : Hart) (f : Flags) : (h.addFlags f).csr.reqrem = h.csr.reqrem := rfl
@[simp] theorem Hart.addFlags_csr_wakes (h : Hart) (f : Flags) : (h.addFlags f).csr.wakes = h.csr.wakes := rfl
@[simp] theorem Hart.addFlags_csr_rmwc (h : Hart) (f : Flags) : (h.addFlags f).csr.rmwc = h.csr.rmwc := rfl
@[simp] theorem Hart.addFlags_csr_epc (h : Hart) (f : Flags) : (h.addFlags f).csr.epc = h.csr.epc := rfl
@[simp] theorem Hart.addFlags_csr_ecause (h : Hart) (f : Flags) : (h.addFlags f).csr.ecause = h.csr.ecause := rfl
@[simp] theorem Hart.addFlags_csr_erec0 (h : Hart) (f : Flags) : (h.addFlags f).csr.erec0 = h.csr.erec0 := rfl
@[simp] theorem Hart.addFlags_csr_erec1 (h : Hart) (f : Flags) : (h.addFlags f).csr.erec1 = h.csr.erec1 := rfl
@[simp] theorem Hart.addFlags_csr_erec2 (h : Hart) (f : Flags) : (h.addFlags f).csr.erec2 = h.csr.erec2 := rfl
@[simp] theorem Hart.addFlags_csr_erec3 (h : Hart) (f : Flags) : (h.addFlags f).csr.erec3 = h.csr.erec3 := rfl
@[simp] theorem Hart.addFlags_csr_btbase (h : Hart) (f : Flags) : (h.addFlags f).csr.btbase = h.csr.btbase := rfl
@[simp] theorem Hart.addRcnt_csr_vl (h : Hart) (n : Nat) : (h.addRcnt n).csr.vl = h.csr.vl := rfl
@[simp] theorem Hart.addRcnt_csr_tp (h : Hart) (n : Nat) : (h.addRcnt n).csr.tp = h.csr.tp := rfl
@[simp] theorem Hart.addRcnt_csr_mp (h : Hart) (n : Nat) : (h.addRcnt n).csr.mp = h.csr.mp := rfl
@[simp] theorem Hart.addRcnt_csr_fcsr (h : Hart) (n : Nat) : (h.addRcnt n).csr.fcsr = h.csr.fcsr := rfl
@[simp] theorem Hart.addRcnt_csr_lctr (h : Hart) (n : Nat) : (h.addRcnt n).csr.lctr = h.csr.lctr := rfl
@[simp] theorem Hart.addRcnt_csr_lrem (h : Hart) (n : Nat) : (h.addRcnt n).csr.lrem = h.csr.lrem := rfl
@[simp] theorem Hart.addRcnt_csr_bwphase (h : Hart) (n : Nat) : (h.addRcnt n).csr.bwphase = h.csr.bwphase := rfl
@[simp] theorem Hart.addRcnt_csr_phack (h : Hart) (n : Nat) : (h.addRcnt n).csr.phack = h.csr.phack := rfl
@[simp] theorem Hart.addRcnt_csr_thr (h : Hart) (n : Nat) : (h.addRcnt n).csr.thr = h.csr.thr := rfl
@[simp] theorem Hart.addRcnt_csr_zcnt (h : Hart) (n : Nat) : (h.addRcnt n).csr.zcnt = h.csr.zcnt := rfl
@[simp] theorem Hart.addRcnt_csr_hcdist (h : Hart) (n : Nat) : (h.addRcnt n).csr.hcdist = h.csr.hcdist := rfl
@[simp] theorem Hart.addRcnt_csr_hcidx2 (h : Hart) (n : Nat) : (h.addRcnt n).csr.hcidx2 = h.csr.hcidx2 := rfl
@[simp] theorem Hart.addRcnt_csr_hcdist2 (h : Hart) (n : Nat) : (h.addRcnt n).csr.hcdist2 = h.csr.hcdist2 := rfl
@[simp] theorem Hart.addRcnt_csr_hcflags (h : Hart) (n : Nat) : (h.addRcnt n).csr.hcflags = h.csr.hcflags := rfl
@[simp] theorem Hart.addRcnt_csr_hcthr (h : Hart) (n : Nat) : (h.addRcnt n).csr.hcthr = h.csr.hcthr := rfl
@[simp] theorem Hart.addRcnt_csr_epact (h : Hart) (n : Nat) : (h.addRcnt n).csr.epact = h.csr.epact := rfl
@[simp] theorem Hart.addRcnt_csr_reqloc (h : Hart) (n : Nat) : (h.addRcnt n).csr.reqloc = h.csr.reqloc := rfl
@[simp] theorem Hart.addRcnt_csr_reqrem (h : Hart) (n : Nat) : (h.addRcnt n).csr.reqrem = h.csr.reqrem := rfl
@[simp] theorem Hart.addRcnt_csr_wakes (h : Hart) (n : Nat) : (h.addRcnt n).csr.wakes = h.csr.wakes := rfl
@[simp] theorem Hart.addRcnt_csr_rmwc (h : Hart) (n : Nat) : (h.addRcnt n).csr.rmwc = h.csr.rmwc := rfl
@[simp] theorem Hart.addRcnt_csr_epc (h : Hart) (n : Nat) : (h.addRcnt n).csr.epc = h.csr.epc := rfl
@[simp] theorem Hart.addRcnt_csr_ecause (h : Hart) (n : Nat) : (h.addRcnt n).csr.ecause = h.csr.ecause := rfl
@[simp] theorem Hart.addRcnt_csr_erec0 (h : Hart) (n : Nat) : (h.addRcnt n).csr.erec0 = h.csr.erec0 := rfl
@[simp] theorem Hart.addRcnt_csr_erec1 (h : Hart) (n : Nat) : (h.addRcnt n).csr.erec1 = h.csr.erec1 := rfl
@[simp] theorem Hart.addRcnt_csr_erec2 (h : Hart) (n : Nat) : (h.addRcnt n).csr.erec2 = h.csr.erec2 := rfl
@[simp] theorem Hart.addRcnt_csr_erec3 (h : Hart) (n : Nat) : (h.addRcnt n).csr.erec3 = h.csr.erec3 := rfl
@[simp] theorem Hart.addRcnt_csr_btbase (h : Hart) (n : Nat) : (h.addRcnt n).csr.btbase = h.csr.btbase := rfl
@[simp] theorem Hart.addZcnt_csr_vl (h : Hart) (n : Nat) : (h.addZcnt n).csr.vl = h.csr.vl := rfl
@[simp] theorem Hart.addZcnt_csr_tp (h : Hart) (n : Nat) : (h.addZcnt n).csr.tp = h.csr.tp := rfl
@[simp] theorem Hart.addZcnt_csr_mp (h : Hart) (n : Nat) : (h.addZcnt n).csr.mp = h.csr.mp := rfl
@[simp] theorem Hart.addZcnt_csr_fcsr (h : Hart) (n : Nat) : (h.addZcnt n).csr.fcsr = h.csr.fcsr := rfl
@[simp] theorem Hart.addZcnt_csr_lctr (h : Hart) (n : Nat) : (h.addZcnt n).csr.lctr = h.csr.lctr := rfl
@[simp] theorem Hart.addZcnt_csr_lrem (h : Hart) (n : Nat) : (h.addZcnt n).csr.lrem = h.csr.lrem := rfl
@[simp] theorem Hart.addZcnt_csr_bwphase (h : Hart) (n : Nat) : (h.addZcnt n).csr.bwphase = h.csr.bwphase := rfl
@[simp] theorem Hart.addZcnt_csr_phack (h : Hart) (n : Nat) : (h.addZcnt n).csr.phack = h.csr.phack := rfl
@[simp] theorem Hart.addZcnt_csr_thr (h : Hart) (n : Nat) : (h.addZcnt n).csr.thr = h.csr.thr := rfl
@[simp] theorem Hart.addZcnt_csr_rcnt (h : Hart) (n : Nat) : (h.addZcnt n).csr.rcnt = h.csr.rcnt := rfl
@[simp] theorem Hart.addZcnt_csr_hcdist (h : Hart) (n : Nat) : (h.addZcnt n).csr.hcdist = h.csr.hcdist := rfl
@[simp] theorem Hart.addZcnt_csr_hcidx2 (h : Hart) (n : Nat) : (h.addZcnt n).csr.hcidx2 = h.csr.hcidx2 := rfl
@[simp] theorem Hart.addZcnt_csr_hcdist2 (h : Hart) (n : Nat) : (h.addZcnt n).csr.hcdist2 = h.csr.hcdist2 := rfl
@[simp] theorem Hart.addZcnt_csr_hcflags (h : Hart) (n : Nat) : (h.addZcnt n).csr.hcflags = h.csr.hcflags := rfl
@[simp] theorem Hart.addZcnt_csr_hcthr (h : Hart) (n : Nat) : (h.addZcnt n).csr.hcthr = h.csr.hcthr := rfl
@[simp] theorem Hart.addZcnt_csr_epact (h : Hart) (n : Nat) : (h.addZcnt n).csr.epact = h.csr.epact := rfl
@[simp] theorem Hart.addZcnt_csr_reqloc (h : Hart) (n : Nat) : (h.addZcnt n).csr.reqloc = h.csr.reqloc := rfl
@[simp] theorem Hart.addZcnt_csr_reqrem (h : Hart) (n : Nat) : (h.addZcnt n).csr.reqrem = h.csr.reqrem := rfl
@[simp] theorem Hart.addZcnt_csr_wakes (h : Hart) (n : Nat) : (h.addZcnt n).csr.wakes = h.csr.wakes := rfl
@[simp] theorem Hart.addZcnt_csr_rmwc (h : Hart) (n : Nat) : (h.addZcnt n).csr.rmwc = h.csr.rmwc := rfl
@[simp] theorem Hart.addZcnt_csr_epc (h : Hart) (n : Nat) : (h.addZcnt n).csr.epc = h.csr.epc := rfl
@[simp] theorem Hart.addZcnt_csr_ecause (h : Hart) (n : Nat) : (h.addZcnt n).csr.ecause = h.csr.ecause := rfl
@[simp] theorem Hart.addZcnt_csr_erec0 (h : Hart) (n : Nat) : (h.addZcnt n).csr.erec0 = h.csr.erec0 := rfl
@[simp] theorem Hart.addZcnt_csr_erec1 (h : Hart) (n : Nat) : (h.addZcnt n).csr.erec1 = h.csr.erec1 := rfl
@[simp] theorem Hart.addZcnt_csr_erec2 (h : Hart) (n : Nat) : (h.addZcnt n).csr.erec2 = h.csr.erec2 := rfl
@[simp] theorem Hart.addZcnt_csr_erec3 (h : Hart) (n : Nat) : (h.addZcnt n).csr.erec3 = h.csr.erec3 := rfl
@[simp] theorem Hart.addZcnt_csr_btbase (h : Hart) (n : Nat) : (h.addZcnt n).csr.btbase = h.csr.btbase := rfl

/-! ### Tables of the state -/

theorem State.core_setCore (s : State) (k j : Nat) (v : CoreState) :
    (s.setCore k v).core j = if j = k then v else s.core j := tget_tset _ _ _ _ _
@[simp] theorem State.core_setCore_self (s : State) (k : Nat) (v : CoreState) : (s.setCore k v).core k = v :=
  tget_tset_self _ _ _ _

theorem State.part_setPart (s : State) (k j : Nat) (v : Partition) :
    (s.setPart k v).part j = if j = k then v else s.part j := tget_tset _ _ _ _ _
@[simp] theorem State.part_setPart_self (s : State) (k : Nat) (v : Partition) : (s.setPart k v).part k = v :=
  tget_tset_self _ _ _ _

theorem State.bank_setBank (s : State) (k j : Nat) (v : Bank) :
    (s.setBank k v).bank j = if j = k then v else s.bank j := tget_tset _ _ _ _ _
@[simp] theorem State.bank_setBank_self (s : State) (k : Nat) (v : Bank) : (s.setBank k v).bank k = v :=
  tget_tset_self _ _ _ _

theorem State.bus_setBus (s : State) (k j : Nat) (v : Bus) : (s.setBus k v).bus j = if j = k then v else s.bus j :=
  tget_tset _ _ _ _ _
@[simp] theorem State.core_setCur (s : State) (h : Hart) (k : Nat) : (s.setCur h).core k = s.core k := rfl
@[simp] theorem State.part_setCur (s : State) (h : Hart) (k : Nat) : (s.setCur h).part k = s.part k := rfl
@[simp] theorem State.bank_setCur (s : State) (h : Hart) (k : Nat) : (s.setCur h).bank k = s.bank k := rfl
@[simp] theorem State.core_setPart (s : State) (p : Nat) (v : Partition) (k : Nat) : (s.setPart p v).core k = s.core k := rfl
@[simp] theorem State.bank_setPart (s : State) (p : Nat) (v : Partition) (k : Nat) : (s.setPart p v).bank k = s.bank k := rfl
@[simp] theorem State.core_setBank (s : State) (b : Nat) (v : Bank) (k : Nat) : (s.setBank b v).core k = s.core k := rfl
@[simp] theorem State.part_setBank (s : State) (b : Nat) (v : Bank) (k : Nat) : (s.setBank b v).part k = s.part k := rfl
@[simp] theorem State.core_setPte (s : State) (t f : Nat) (v : Pte) (k : Nat) : (s.setPte t f v).core k = s.core k := rfl
@[simp] theorem State.part_setPte (s : State) (t f : Nat) (v : Pte) (k : Nat) : (s.setPte t f v).part k = s.part k := rfl
@[simp] theorem State.bank_setPte (s : State) (t f : Nat) (v : Pte) (k : Nat) : (s.setPte t f v).bank k = s.bank k := rfl
@[simp] theorem State.core_setFrame (s : State) (t f : Nat) (v : FrameMeta) (k : Nat) : (s.setFrame t f v).core k = s.core k := rfl
@[simp] theorem State.part_setFrame (s : State) (t f : Nat) (v : FrameMeta) (k : Nat) : (s.setFrame t f v).part k = s.part k := rfl
@[simp] theorem State.bank_setFrame (s : State) (t f : Nat) (v : FrameMeta) (k : Nat) : (s.setFrame t f v).bank k = s.bank k := rfl
@[simp] theorem State.core_setRaa (s : State) (b n : Nat) (k : Nat) : (s.setRaa b n).core k = s.core k := rfl
@[simp] theorem State.part_setRaa (s : State) (b n : Nat) (k : Nat) : (s.setRaa b n).part k = s.part k := rfl
@[simp] theorem State.bank_setRaa (s : State) (b n : Nat) (k : Nat) : (s.setRaa b n).bank k = s.bank k := rfl
@[simp] theorem State.core_setBus (s : State) (m : Nat) (v : Bus) (k : Nat) : (s.setBus m v).core k = s.core k := rfl
@[simp] theorem State.part_setBus (s : State) (m : Nat) (v : Bus) (k : Nat) : (s.setBus m v).part k = s.part k := rfl
@[simp] theorem State.bank_setBus (s : State) (m : Nat) (v : Bus) (k : Nat) : (s.setBus m v).bank k = s.bank k := rfl
@[simp] theorem State.core_hostWrite (s : State) (a : Nat) (bs : List Byte) (k : Nat) : (s.hostWrite a bs).core k = s.core k := rfl
@[simp] theorem State.part_hostWrite (s : State) (a : Nat) (bs : List Byte) (k : Nat) : (s.hostWrite a bs).part k = s.part k := rfl
@[simp] theorem State.bank_hostWrite (s : State) (a : Nat) (bs : List Byte) (k : Nat) : (s.hostWrite a bs).bank k = s.bank k := rfl
@[simp] theorem State.core_writeX (s : State) (r : BitVec 5) (v : Word) (k : Nat) : (s.writeX r v).core k = s.core k := rfl
@[simp] theorem State.part_writeX (s : State) (r : BitVec 5) (v : Word) (k : Nat) : (s.writeX r v).part k = s.part k := rfl
@[simp] theorem State.bank_writeX (s : State) (r : BitVec 5) (v : Word) (k : Nat) : (s.writeX r v).bank k = s.bank k := rfl
@[simp] theorem State.part_setCore (s : State) (c : Nat) (v : CoreState) (k : Nat) : (s.setCore c v).part k = s.part k := rfl
@[simp] theorem State.bank_setCore (s : State) (c : Nat) (v : CoreState) (k : Nat) : (s.setCore c v).bank k = s.bank k := rfl

end Sys2Proof.Machine
end

