-- ==== Sys2Proof/Laws/Memory.lean ====
section
/-! SUPPORT. The laws of the memory of the module: what a byte written at its home, in L1 or in host memory reads as, and
that every operation that touches device memory or host memory keeps the canonical form of both. -/

namespace Sys2Proof.Machine

/-! ## The operations that leave device memory and host memory alone -/

@[simp] theorem State.writeL1_mem (s : State) (core pa : Nat) (b : Byte) : (s.writeL1 core pa b).mem = s.mem := rfl
@[simp] theorem State.writeL1_host (s : State) (core pa : Nat) (b : Byte) : (s.writeL1 core pa b).host = s.host := rfl
@[simp] theorem State.writeHome_mem (s : State) (core pa : Nat) (b : Byte) : (s.writeHome core pa b).mem = s.mem := rfl
@[simp] theorem State.writeHome_host (s : State) (core pa : Nat) (b : Byte) : (s.writeHome core pa b).host = s.host := rfl
@[simp] theorem State.flushL1_mem (s : State) (core lo hi : Nat) : (s.flushL1 core lo hi).mem = s.mem := rfl
@[simp] theorem State.flushL1_host (s : State) (core lo hi : Nat) : (s.flushL1 core lo hi).host = s.host := rfl
@[simp] theorem State.flushCore_mem (s : State) (core : Nat) : (s.flushCore core).mem = s.mem := rfl
@[simp] theorem State.flushCore_host (s : State) (core : Nat) : (s.flushCore core).host = s.host := rfl

@[simp] theorem State.writeBytes_mem (s : State) (h : Bool) (core pa : Nat) (bs : List Byte) :
    (s.writeBytes h core pa bs).mem = s.mem := by
  induction bs generalizing s pa with
  | nil => rfl
  | cons b bs ih => rw [State.writeBytes, ih]; cases h <;> rfl

@[simp] theorem State.writeBytes_host (s : State) (h : Bool) (core pa : Nat) (bs : List Byte) :
    (s.writeBytes h core pa bs).host = s.host := by
  induction bs generalizing s pa with
  | nil => rfl
  | cons b bs ih => rw [State.writeBytes, ih]; cases h <;> rfl

@[simp] theorem State.flushSectors_mem (s : State) (core pa n : Nat) : (s.flushSectors core pa n).mem = s.mem := by
  unfold State.flushSectors; split <;> rfl

@[simp] theorem State.flushSectors_host (s : State) (core pa n : Nat) : (s.flushSectors core pa n).host = s.host := by
  unfold State.flushSectors; split <;> rfl

/-- A fold of steps that keep a part of the state keeps it. -/
theorem foldl_keeps {α β γ : Type} (p : β → γ) (f : β → α → β) (h : ∀ b a, p (f b a) = p b) (l : List α) (b : β) :
    p (l.foldl f b) = p b := by
  induction l generalizing b with
  | nil => rfl
  | cons a l ih => rw [List.foldl_cons, ih, h]

@[simp] theorem State.flushAll_mem (s : State) (lo hi : Nat) : (s.flushAll lo hi).mem = s.mem :=
  foldl_keeps State.mem (fun s c => s.flushL1 c lo hi) (fun _ _ => rfl) _ s

@[simp] theorem State.flushAll_host (s : State) (lo hi : Nat) : (s.flushAll lo hi).host = s.host :=
  foldl_keeps State.host (fun s c => s.flushL1 c lo hi) (fun _ _ => rfl) _ s

theorem State.activate_keeps {γ : Type} (p : State → γ) (hb : ∀ s b v, p (State.setBank s b v) = p s)
    (hr : ∀ s b, p (State.addRaa s b) = p s) (hq : ∀ s b, p (State.releaseBus s b) = p s) (s : State) (bs : List Nat) :
    p (s.activate bs) = p s := by
  refine foldl_keeps p _ (fun s b => ?_) bs s
  dsimp only
  rw [hq, hr]
  split
  · rfl
  · rw [hb]

@[simp] theorem State.addRaa_mem (s : State) (b : Nat) : (s.addRaa b).mem = s.mem := by
  unfold State.addRaa; dsimp only; split <;> rfl
@[simp] theorem State.addRaa_host (s : State) (b : Nat) : (s.addRaa b).host = s.host := by
  unfold State.addRaa; dsimp only; split <;> rfl
@[simp] theorem State.releaseBus_mem (s : State) (b : Nat) : (s.releaseBus b).mem = s.mem := by
  unfold State.releaseBus; dsimp only; split <;> rfl
@[simp] theorem State.releaseBus_host (s : State) (b : Nat) : (s.releaseBus b).host = s.host := by
  unfold State.releaseBus; dsimp only; split <;> rfl

@[simp] theorem State.activate_mem (s : State) (bs : List Nat) : (s.activate bs).mem = s.mem :=
  s.activate_keeps State.mem (fun _ _ _ => rfl) State.addRaa_mem State.releaseBus_mem bs
@[simp] theorem State.activate_host (s : State) (bs : List Nat) : (s.activate bs).host = s.host :=
  s.activate_keeps State.host (fun _ _ _ => rfl) State.addRaa_host State.releaseBus_host bs

@[simp] theorem State.wakeMore_mem (s : State) (bs : List Nat) : (s.wakeMore bs).mem = s.mem := s.activate_mem bs
@[simp] theorem State.wakeMore_host (s : State) (bs : List Nat) : (s.wakeMore bs).host = s.host := s.activate_host bs

@[simp] theorem State.setLineTag_mem (s : State) (pa v : Nat) : (s.setLineTag pa v).mem = s.mem := by
  unfold State.setLineTag; exact State.setFrame_mem ..
@[simp] theorem State.setLineTag_host (s : State) (pa v : Nat) : (s.setLineTag pa v).host = s.host := by
  unfold State.setLineTag; exact State.setFrame_host ..

@[simp] theorem State.setTags_mem (s : State) (tags : List (Nat × Nat)) : (s.setTags tags).mem = s.mem := by
  induction tags generalizing s with
  | nil => rfl
  | cons t ts ih => exact (ih (s.setLineTag t.1 t.2)).trans (s.setLineTag_mem t.1 t.2)
@[simp] theorem State.setTags_host (s : State) (tags : List (Nat × Nat)) : (s.setTags tags).host = s.host := by
  induction tags generalizing s with
  | nil => rfl
  | cons t ts ih => exact (ih (s.setLineTag t.1 t.2)).trans (s.setLineTag_host t.1 t.2)

/-! ## The canonical form -/

/-- Whether device memory and host memory are in canonical form. -/
abbrev State.memWf (s : State) : Prop := Memory.wf s.mem = true ∧ Memory.wf s.host = true

/-- A fold of steps that keep a property keeps it. -/
theorem foldl_preserves {α β : Type} (p : β → Prop) (f : β → α → β) (h : ∀ b a, p b → p (f b a)) (l : List α) {b : β}
    (hb : p b) : p (l.foldl f b) := by
  induction l generalizing b with
  | nil => exact hb
  | cons a l ih => exact ih (h b a hb)

theorem Memory.wf_drop {m : List Host.Cell} (lo hi : Nat) (h : Memory.wf m = true) :
    Memory.wf (overlayDrop m lo hi) = true := Memory.wf_filter _ h

theorem Memory.wf_copyBytes {m : List Host.Cell} (lo dst n : Nat) (h : Memory.wf m = true) :
    Memory.wf (copyBytes m lo dst n) = true := Memory.wf_write dst _ h

theorem Memory.wf_reset : Memory.wf State.reset.mem = true ∧ Memory.wf State.reset.host = true := ⟨rfl, rfl⟩

theorem State.wf_hostWrite {s : State} (a : Nat) (bs : List Byte) (h : Memory.wf s.host = true) :
    Memory.wf (s.hostWrite a bs).host = true := Memory.wf_write a bs h

theorem State.wf_zeroFrame {s : State} (t f : Nat) (h : Memory.wf s.mem = true) :
    Memory.wf (s.zeroFrame t f).mem = true := Memory.wf_drop _ _ h

theorem State.wf_zeroBank {s : State} (b : Nat) (h : Memory.wf s.mem = true) : Memory.wf (s.zeroBank b).mem = true :=
  Memory.wf_drop _ _ h

theorem State.wf_moveLine {s : State} (lo dst : Nat) (h : Memory.wf s.mem = true) :
    Memory.wf (s.moveLine lo dst).mem = true := by
  simp only [State.moveLine]
  apply Memory.wf_copyBytes
  apply Memory.wf_copyBytes
  rw [State.flushAll_mem]
  exact h

theorem State.wf_mergeGranule {s : State} (g : Nat) (h : Memory.wf s.mem = true) :
    Memory.wf (s.mergeGranule g).mem = true := by
  unfold State.mergeGranule
  dsimp only
  split
  · exact h
  · split
    · exact (State.activate_mem ..).symm ▸ h
    · exact Memory.wf_write _ _ ((State.activate_mem ..).symm ▸ h)

@[simp] theorem State.mergeGranule_host (s : State) (g : Nat) : (s.mergeGranule g).host = s.host := by
  unfold State.mergeGranule
  dsimp only
  split
  · rfl
  · split <;> exact State.activate_host ..

theorem State.memWf_sendThrough {s : State} (as : List Nat) (h : s.memWf) : (s.sendThrough as).memWf :=
  foldl_preserves State.memWf State.mergeGranule
    (fun t g ht => ⟨t.wf_mergeGranule g ht.1, (t.mergeGranule_host g).symm ▸ ht.2⟩) _ h

theorem State.memWf_landBytes {s : State} (f : Flight) (h : s.memWf) : (s.landBytes f).memWf := by
  unfold State.landBytes
  split
  · exact foldl_preserves State.memWf (fun s (c : Host.Cell) => s.hostWrite c.1 [c.2])
      (fun t c ht => ⟨ht.1, State.wf_hostWrite _ _ ht.2⟩) _ h
  · have hw : (f.cells.foldl (fun s c => s.writeBytes true s.cur.core.toNat c.1 [c.2]) s).memWf :=
      foldl_preserves State.memWf (fun s (c : Host.Cell) => s.writeBytes true s.cur.core.toNat c.1 [c.2])
        (fun t c ht => ht) _ h
    have ht : ((f.cells.foldl (fun s c => s.writeBytes true s.cur.core.toNat c.1 [c.2]) s).setTags f.tags).memWf :=
      ⟨(State.setTags_mem ..).symm ▸ hw.1, (State.setTags_host ..).symm ▸ hw.2⟩
    dsimp only
    split
    · exact State.memWf_sendThrough _ ht
    · exact ht

theorem State.memWf_landList {s : State} (fs : List Flight) (h : s.memWf) : (s.landList fs).memWf := by
  unfold State.landList
  split
  · exact h
  · have hl := foldl_preserves State.memWf State.landBytes (fun _ f ht => State.memWf_landBytes f ht) fs h
    exact ⟨(State.activate_mem ..).symm ▸ hl.1, (State.activate_host ..).symm ▸ hl.2⟩

theorem State.memWf_landAll {s : State} (sel : Flight → Bool) (h : s.memWf) : (s.landAll sel).memWf := by
  unfold State.landAll
  dsimp only
  split
  · exact h
  · exact State.memWf_landList _ h

theorem State.memWf_landSome {s : State} (sel : Flight → Bool) (h : s.memWf) : (s.landSome sel).memWf := by
  unfold State.landSome
  split
  · exact h
  · exact State.memWf_landList (s := s.draw.2) _ h

theorem State.memWf_matWrite {s : State} (x : MatSite × Word) (h : s.memWf) : (s.matWrite x).memWf := by
  obtain ⟨site, w⟩ := x
  cases site with
  | pkg pa => exact ⟨(State.writeBytes_mem ..).symm ▸ h.1, (State.writeBytes_host ..).symm ▸ h.2⟩
  | scratch o => exact h
  | host a => exact ⟨h.1, State.wf_hostWrite _ _ h.2⟩
  | done => exact h

theorem State.memWf_writeWords {s : State} (ws : List (MatSite × Word)) (h : s.memWf) : (s.writeWords ws).memWf := by
  unfold State.writeWords
  split
  · exact h
  · have hw := foldl_preserves State.memWf State.matWrite (fun _ x ht => State.memWf_matWrite x ht) ws h
    exact ⟨(State.wakeMore_mem ..).symm ▸ hw.1, (State.wakeMore_host ..).symm ▸ hw.2⟩

theorem State.wf_plainFrame {s : State} (t f : Nat) (h : Memory.wf s.mem = true) :
    Memory.wf (s.plainFrame t f).mem = true := by
  simp only [State.plainFrame]
  generalize List.filter _ (List.range 512) = gs
  exact foldl_preserves (fun m => Memory.wf m = true)
    (fun m g => Memory.write m (physAddr t f 0 + 128 * g) (s.granule (physAddr t f 0 / 128 + g)))
    (fun _ _ hm => Memory.wf_write _ _ hm) gs h

@[simp] theorem State.plainFrame_host (s : State) (t f : Nat) : (s.plainFrame t f).host = s.host := by
  have hf (u : State) (m : List Host.Cell) : ({ u with mem := m } : State).host = u.host := rfl
  unfold State.plainFrame
  exact (hf _ _).trans (State.setFrame_host s t f .reset)

theorem State.memWf_insertPte {s : State} (part : Nat) (base : Word) (t f : Nat) (e : Pte) (h : s.memWf) :
    (s.insertPte part base t f e).memWf := by
  unfold State.insertPte
  dsimp only
  generalize s.insertCode part t f _ = c
  generalize ((s.bank (frameBank t f)).power == Power.off) = off
  have hm : (if (decide (c = 0) && off) = true then (s.draw.1 % 8, s.draw.2) else (c, s)).2.memWf := by
    split <;> exact h
  revert hm
  generalize (if (decide (c = 0) && off) = true then (s.draw.1 % 8, s.draw.2) else (c, s)) = q
  obtain ⟨code, u⟩ := q
  intro hm
  dsimp only at hm ⊢
  split
  · exact hm
  · split
    · rw [State.memWf, State.setPte_mem, State.setPte_host, State.setFrame_mem, State.setFrame_host]
      exact ⟨State.wf_zeroFrame t f hm.1, hm.2⟩
    · rw [State.memWf, State.setPte_mem, State.setPte_host]
      exact ⟨State.wf_plainFrame t f hm.1, (State.plainFrame_host ..).symm ▸ hm.2⟩

theorem State.memWf_windowWrite {s : State} (part : Nat) (base : Word) (t f j : Nat) (v : Word) (h : s.memWf) :
    (s.windowWrite part base t f j v).memWf := by
  unfold State.windowWrite
  dsimp only
  split
  · exact h
  · split
    · split
      · split
        · exact State.memWf_insertPte part base t f _ h
        · exact h
      · split
        · unfold State.removePte; dsimp only; split <;> exact h
        · exact h
    · split
      · split <;> exact h
      · unfold State.commandPte
        dsimp only
        split
        · exact h
        · split
          · exact h
          · simp only [State.shootPage, State.takeFrame, State.memWf, State.setPte_mem, State.setFrame_mem, State.setBank_mem,
              State.setPte_host, State.setFrame_host, State.setBank_host]
            exact h

@[simp] theorem State.noteLc_mem (s : State) (p : Piece1) : (s.noteLc p).mem = s.mem := by
  unfold State.noteLc
  split
  · dsimp only; split <;> rfl
  · rfl
@[simp] theorem State.noteLc_host (s : State) (p : Piece1) : (s.noteLc p).host = s.host := by
  unfold State.noteLc
  split
  · dsimp only; split <;> rfl
  · rfl

theorem State.memWf_writePiece {s : State} (atHome : Bool) (p : Piece1) (bs : List Byte) (h : s.memWf) :
    (s.writePiece atHome p bs).memWf := by
  unfold State.writePiece
  split
  · exact h
  · simpa [State.memWf] using h
  · exact h
  · exact State.memWf_windowWrite _ _ _ _ _ _ h
  · unfold State.faultqWrite; split <;> exact h
  · exact ⟨h.1, State.wf_hostWrite _ _ h.2⟩
  · exact h
  · exact h

theorem State.memWf_writePieces {s : State} (atHome : Bool) (ps : List Piece1) (bs : List Byte) (h : s.memWf) :
    (s.writePieces atHome ps bs).memWf := by
  induction ps generalizing s bs with
  | nil => exact h
  | cons p ps ih => exact ih _ (State.memWf_writePiece atHome p _ h)

theorem State.memWf_storePieces {s : State} (atHome : Bool) (evict : BitVec 3) (ps : List Piece1) (bs : List Byte)
    (h : s.memWf) : (s.storePieces atHome evict ps bs).memWf := by
  unfold State.storePieces
  dsimp only
  split
  · exact State.memWf_sendThrough _ (State.memWf_writePieces atHome ps bs h)
  · exact State.memWf_writePieces atHome ps bs h

theorem State.wf_place {s : State} (pa : Nat) (bs : List Byte) (h : Memory.wf s.mem = true) :
    Memory.wf (s.place pa bs).mem = true := by
  unfold State.place
  exact Memory.wf_write pa bs ((State.setFrame_mem ..).symm ▸ h)

/-! ## Reads after writes -/

theorem State.homeByte_writeHome (s : State) (core pa a : Nat) (b : Byte) :
    (s.writeHome core pa b).homeByte a = if a = pa then b else s.homeByte a := by
  show (overlayGet (overlaySet s.home pa b) a).getD _ = _
  rw [overlayGet_set]
  split <;> rfl

theorem State.homeByte_writeBytes (s : State) (core pa a : Nat) (bs : List Byte) :
    (s.writeBytes true core pa bs).homeByte a =
      if pa ≤ a ∧ a < pa + bs.length then bs.getD (a - pa) 0 else s.homeByte a := by
  induction bs generalizing s pa with
  | nil =>
    rw [if_neg (by simp)]
    rfl
  | cons b bs ih =>
    rw [State.writeBytes, if_pos rfl, ih, State.homeByte_writeHome]
    by_cases h1 : a = pa
    · subst h1
      rw [if_neg (by omega), if_pos rfl, if_pos ⟨Nat.le_refl _, by simp⟩]
      simp
    · by_cases h2 : pa + 1 ≤ a ∧ a < pa + 1 + bs.length
      · rw [if_pos h2, if_pos ⟨by omega, by simp; omega⟩]
        rw [show a - pa = (a - (pa + 1)) + 1 by omega, List.getD_cons_succ]
      · rw [if_neg h2, if_neg h1, if_neg (by simp; omega)]

end Sys2Proof.Machine
end

