-- ==== Sys2Proof/Laws/Ops.lean ====
section
/-! SUPPORT. What the shared operations can do: scalar registers, checks, the ends of instructions. -/

namespace Sys2Proof.Machine

/-! ## Scalar registers (R17) -/

@[simp] theorem Hart.readX_zero (h : Hart) : h.readX 0#5 = 0#64 := by simp [Hart.readX]
@[simp] theorem Hart.writeX_zero (h : Hart) (v : Word) : h.writeX 0#5 v = h := by simp [Hart.writeX]

theorem Hart.readX_of_ne (h : Hart) {r : BitVec 5} (hr : r ≠ 0#5) : h.readX r = h.x[r.toNat]'r.isLt := if_neg hr

theorem Hart.writeX_of_ne (h : Hart) {r : BitVec 5} (v : Word) (hr : r ≠ 0#5) :
    h.writeX r v = { h with
      x := h.x.set r.toNat v r.isLt
      xPoison := h.xPoison &&& ~~~(1#32 <<< r.toNat) } := if_neg hr

/-- A scalar register reads what was written to it, unless it is `x0`; the others read as before. -/
theorem Hart.readX_writeX (h : Hart) (r q : BitVec 5) (v : Word) :
    (h.writeX r v).readX q = if q = r then (if r = 0#5 then 0#64 else v) else h.readX q := by
  by_cases hr : r = 0#5
  · subst hr
    by_cases hq : q = 0#5
    · subst hq; simp
    · simp [hq]
  · rw [Hart.writeX_of_ne h v hr]
    by_cases hq : q = r
    · subst hq
      rw [Hart.readX_of_ne _ hr, if_pos rfl, if_neg hr]
      exact Vector.getElem_set_self ..
    · have hn : r.toNat ≠ q.toNat := fun h => hq (BitVec.eq_of_toNat_eq h.symm)
      rw [if_neg hq]
      by_cases hz : q = 0#5
      · subst hz; simp
      · rw [Hart.readX_of_ne _ hz, Hart.readX_of_ne _ hz]
        exact Vector.getElem_set_ne r.isLt q.isLt hn

/-- A write to a scalar register replaces a poisoned word there, and no other (R322). -/
theorem Hart.xPoisoned_writeX (h : Hart) (r q : BitVec 5) (v : Word) :
    (h.writeX r v).xPoisoned q = (decide (q ≠ r) && h.xPoisoned q) := by
  by_cases hr : r = 0#5
  · subst hr
    by_cases hq : q = 0#5 <;> simp [Hart.xPoisoned, hq]
  · rw [Hart.writeX_of_ne h v hr]
    by_cases hq : q = r
    · subst hq
      simp [Hart.xPoisoned]
    · have hn : ¬ q.toNat = r.toNat := fun h => hq (BitVec.eq_of_toNat_eq h)
      have hne : q.toNat < r.toNat ∨ q.toNat - r.toNat ≠ 0 := by omega
      have key : ((h.xPoison &&& ~~~(1#32 <<< r.toNat)).getLsbD q.toNat) = h.xPoison.getLsbD q.toNat := by
        have := q.isLt
        rcases hne with hlt | hne
        · simp [hlt]; omega
        · simp [hne]; omega
      simp only [Hart.xPoisoned, key]
      simp [hq]

@[simp] theorem State.readX_writeX_self (s : State) (r : BitVec 5) (v : Word) (h : r ≠ 0#5) :
    (s.writeX r v).readX r = v := by simp [State.readX, Hart.readX_writeX, h]

/-! ## Checks -/

@[simp] theorem failIf_eq_none (c : Bool) (t : Trap) : failIf c t = none ↔ c = false := by
  cases c <;> simp [failIf]

/-- The first failing check is none when no check fails. -/
theorem firstTrap_eq_none (l : List (Option Trap)) : firstTrap l = none ↔ ∀ c ∈ l, c = none := by
  induction l with
  | nil => simp [firstTrap]
  | cons c l ih => cases c <;> simp [firstTrap, ih]

@[simp] theorem firstTrap_nil : firstTrap [] = none := rfl
@[simp] theorem firstTrap_none (l : List (Option Trap)) : firstTrap (none :: l) = firstTrap l := rfl
@[simp] theorem firstTrap_some (t : Trap) (l : List (Option Trap)) : firstTrap (some t :: l) = some t := rfl

/-- No named register is poisoned exactly when the check of scalar operands passes. -/
theorem Hart.scalarPoison_eq_none (h : Hart) (rs : List (BitVec 5)) :
    h.scalarPoison rs = none ↔ ∀ r ∈ rs, h.xPoisoned r = false := by
  have key : rs.filter h.xPoisoned = [] ↔ ∀ r ∈ rs, h.xPoisoned r = false := by
    simp [List.filter_eq_nil_iff]
  rw [← key, Hart.scalarPoison]
  cases rs.filter h.xPoisoned <;> simp

/-- Without a poisoned word the check of scalar operands passes. -/
theorem Hart.scalarPoison_clean (h : Hart) (rs : List (BitVec 5)) (hp : h.xPoison = 0) : h.scalarPoison rs = none := by
  rw [Hart.scalarPoison_eq_none]
  intro r _
  simp [Hart.xPoisoned, hp]

/-! ## The ends of instructions -/

theorem finish_none (len : Nat) (s s' : State) : finish len none s s' = .next (retire len s') := rfl
theorem finish_some (len : Nat) (t : Trap) (s s' : State) : finish len (some t) s s' = .next (takeTrap t len s) := rfl

/-- An instruction that ends by `finish` traps or retires. -/
theorem finish_cases (len : Nat) (chk : Option Trap) (s s' : State) :
    (∃ t, chk = some t ∧ finish len chk s s' = .next (takeTrap t len s)) ∨
      (chk = none ∧ finish len chk s s' = .next (retire len s')) := by
  cases chk with
  | none => exact .inr ⟨rfl, rfl⟩
  | some t => exact .inl ⟨t, rfl, rfl⟩

/-- Retiring counts the instruction on its core and on no other. -/
theorem retire_core (len : Nat) (s : State) (c : Nat) :
    (retire len s).core c =
      if c = s.cur.core.toNat then { s.core c with instret := (s.core c).instret + 1 } else s.core c := by
  unfold State.core
  rw [retire_cores, tget_tset]
  by_cases h : c = s.cur.core.toNat
  · subst h; simp [State.core]
  · simp [h]

theorem retireTo_core (pc : Word) (s : State) (c : Nat) :
    (retireTo pc s).core c =
      if c = s.cur.core.toNat then { s.core c with instret := (s.core c).instret + 1 } else s.core c := by
  unfold State.core
  rw [retireTo_cores, tget_tset]
  by_cases h : c = s.cur.core.toNat
  · subst h; simp [State.core]
  · simp [h]

@[simp] theorem retire_readX (len : Nat) (s : State) (r : BitVec 5) : (retire len s).readX r = s.readX r := rfl
@[simp] theorem retireTo_readX (pc : Word) (s : State) (r : BitVec 5) : (retireTo pc s).readX r = s.readX r := rfl

/-- What taking a trap records (R315, R316). -/
theorem takeTrap_record (t : Trap) (len : Nat) (s : State) :
    (takeTrap t len s).cur.csr.epc = s.cur.pc ∧ (takeTrap t len s).cur.csr.ecause = t.ecause ∧
      (takeTrap t len s).cur.csr.erec0 = t.erec0 ∧ (takeTrap t len s).cur.csr.erec1 = BitVec.ofNat 64 t.erec1 ∧
      (takeTrap t len s).cur.csr.erec2 = t.erec2 ∧ (takeTrap t len s).cur.csr.erec3 = t.erec3 ∧
      (takeTrap t len s).cur.status = .stopping .trap ∧ (takeTrap t len s).cur.pc = s.cur.pc :=
  ⟨rfl, rfl, rfl, rfl, rfl, rfl, rfl, rfl⟩

/-! ## Operands (R19, R50) -/

/-- The checks of R19 pass exactly on a well-formed operand that holds `len` elements. -/
theorem Hart.opndCheck_eq_none (h : Hart) (bits : Nat) (r : BitVec 6) (len : Nat) :
    h.opndCheck bits r len = none ↔
      (h.opnd r).base % (h.opnd r).g = 0 ∧
      (∀ k < (h.opnd r).g, (h.opnd r).agrees (h.vreg ((h.opnd r).base + k)).desc = true) ∧
      (h.opnd r).tag ≠ .none ∧ len ≤ (h.opnd r).g * tagCap (h.opnd r).tag := by
  simp [Hart.opndCheck, firstTrap_eq_none]

/-- The check of a destination passes exactly when a group size exists and the register is aligned to it. -/
theorem destCheck_eq_none (bits : Nat) (vd : BitVec 6) (t : Tag) (n : Nat) :
    destCheck bits vd t n = none ↔ ∃ g, groupFor t n = some g ∧ vd.toNat % 2 ^ g = 0 := by
  unfold destCheck
  cases groupFor t n <;> simp

end Sys2Proof.Machine
end

