-- ==== Sys2Proof/Laws/PerInstr.lean ====
section
/-! SUPPORT. Statements made instruction by instruction. -/

namespace Sys2Proof.Laws.RoundTrip

set_option Elab.async false

/-- What the encoder writes for `i`, if `i` is well formed, decodes to `i`, and its length is the one that parcel 0
announces (R56, R58-R67). -/
def Statement (i : Instr) : Prop :=
  ∀ c, encode? i = some c → i.illFormed = none →
    decodeBits c.len c.bits = .ok i ∧ lengthOf c.bits = c.len ∧ 2 ≤ c.len ∧ c.bits < 256 ^ c.len

theorem of_none {i : Instr} (h : encode? i = none) : Statement i := by
  intro c hc
  rw [h] at hc
  cases hc

theorem of_half {i : Instr} {ws vs : List Nat} (h : encode? i = some ⟨2, pack (1 :: ws) (0 :: vs)⟩)
    (hs : (1 :: ws).sum ≤ 16) (hd : i.illFormed = none → decHalf (pack (1 :: ws) (0 :: vs)) = .ok i) : Statement i := by
  intro c hc hw
  rw [h] at hc
  cases hc
  exact ⟨by simp only [decodeBits, rawBits, hd hw, legal, hw], lengthOf_half _ _, Nat.le_refl 2,
    Nat.lt_of_lt_of_le (pack_lt _ _) (Nat.pow_le_pow_right (by decide) hs)⟩

theorem of_word {i : Instr} {ws vs : List Nat} (h : encode? i = some ⟨4, pack (2 :: ws) (1 :: vs)⟩)
    (hs : (2 :: ws).sum ≤ 32) (hd : i.illFormed = none → decWord (pack (2 :: ws) (1 :: vs)) = .ok i) : Statement i := by
  intro c hc hw
  rw [h] at hc
  cases hc
  exact ⟨by simp only [decodeBits, rawBits, hd hw, legal, hw], lengthOf_word _ _, show 2 ≤ 4 by decide,
    Nat.lt_of_lt_of_le (pack_lt _ _) (Nat.pow_le_pow_right (by decide) hs)⟩

theorem of_double {i : Instr} {ws vs : List Nat} (h : encode? i = some ⟨8, pack (3 :: ws) (3 :: vs)⟩)
    (hs : (3 :: ws).sum ≤ 64) (hd : i.illFormed = none → decDouble (pack (3 :: ws) (3 :: vs)) = .ok i) :
    Statement i := by
  intro c hc hw
  rw [h] at hc
  cases hc
  exact ⟨by simp only [decodeBits, rawBits, hd hw, legal, hw], lengthOf_double _ _, show 2 ≤ 8 by decide,
    Nat.lt_of_lt_of_le (pack_lt _ _) (Nat.pow_le_pow_right (by decide) hs)⟩

theorem add (rd : BitVec 5) (ra : BitVec 5) (rb : BitVec 5) : Statement (.add rd ra rb) := of_word rfl (by decide) fun _ => by
  simp only [decWord, bitsAt_major, decMajor00, unpack_pack_cons, unpack_nil, ofNat_mod]
  rfl
theorem sub (rd : BitVec 5) (ra : BitVec 5) (rb : BitVec 5) : Statement (.sub rd ra rb) := of_word rfl (by decide) fun _ => by
  simp only [decWord, bitsAt_major, decMajor00, unpack_pack_cons, unpack_nil, ofNat_mod]
  rfl
theorem and (rd : BitVec 5) (ra : BitVec 5) (rb : BitVec 5) : Statement (.and rd ra rb) := of_word rfl (by decide) fun _ => by
  simp only [decWord, bitsAt_major, decMajor00, unpack_pack_cons, unpack_nil, ofNat_mod]
  rfl
theorem or (rd : BitVec 5) (ra : BitVec 5) (rb : BitVec 5) : Statement (.or rd ra rb) := of_word rfl (by decide) fun _ => by
  simp only [decWord, bitsAt_major, decMajor00, unpack_pack_cons, unpack_nil, ofNat_mod]
  rfl
theorem xor (rd : BitVec 5) (ra : BitVec 5) (rb : BitVec 5) : Statement (.xor rd ra rb) := of_word rfl (by decide) fun _ => by
  simp only [decWord, bitsAt_major, decMajor00, unpack_pack_cons, unpack_nil, ofNat_mod]
  rfl
theorem andn (rd : BitVec 5) (ra : BitVec 5) (rb : BitVec 5) : Statement (.andn rd ra rb) := of_word rfl (by decide) fun _ => by
  simp only [decWord, bitsAt_major, decMajor00, unpack_pack_cons, unpack_nil, ofNat_mod]
  rfl
theorem sll (rd : BitVec 5) (ra : BitVec 5) (rb : BitVec 5) : Statement (.sll rd ra rb) := of_word rfl (by decide) fun _ => by
  simp only [decWord, bitsAt_major, decMajor00, unpack_pack_cons, unpack_nil, ofNat_mod]
  rfl
theorem srl (rd : BitVec 5) (ra : BitVec 5) (rb : BitVec 5) : Statement (.srl rd ra rb) := of_word rfl (by decide) fun _ => by
  simp only [decWord, bitsAt_major, decMajor00, unpack_pack_cons, unpack_nil, ofNat_mod]
  rfl
theorem sra (rd : BitVec 5) (ra : BitVec 5) (rb : BitVec 5) : Statement (.sra rd ra rb) := of_word rfl (by decide) fun _ => by
  simp only [decWord, bitsAt_major, decMajor00, unpack_pack_cons, unpack_nil, ofNat_mod]
  rfl
theorem slt (rd : BitVec 5) (ra : BitVec 5) (rb : BitVec 5) : Statement (.slt rd ra rb) := of_word rfl (by decide) fun _ => by
  simp only [decWord, bitsAt_major, decMajor00, unpack_pack_cons, unpack_nil, ofNat_mod]
  rfl
theorem sltu (rd : BitVec 5) (ra : BitVec 5) (rb : BitVec 5) : Statement (.sltu rd ra rb) := of_word rfl (by decide) fun _ => by
  simp only [decWord, bitsAt_major, decMajor00, unpack_pack_cons, unpack_nil, ofNat_mod]
  rfl
theorem min (rd : BitVec 5) (ra : BitVec 5) (rb : BitVec 5) : Statement (.min rd ra rb) := of_word rfl (by decide) fun _ => by
  simp only [decWord, bitsAt_major, decMajor00, unpack_pack_cons, unpack_nil, ofNat_mod]
  rfl
theorem max (rd : BitVec 5) (ra : BitVec 5) (rb : BitVec 5) : Statement (.max rd ra rb) := of_word rfl (by decide) fun _ => by
  simp only [decWord, bitsAt_major, decMajor00, unpack_pack_cons, unpack_nil, ofNat_mod]
  rfl
theorem minu (rd : BitVec 5) (ra : BitVec 5) (rb : BitVec 5) : Statement (.minu rd ra rb) := of_word rfl (by decide) fun _ => by
  simp only [decWord, bitsAt_major, decMajor00, unpack_pack_cons, unpack_nil, ofNat_mod]
  rfl
theorem maxu (rd : BitVec 5) (ra : BitVec 5) (rb : BitVec 5) : Statement (.maxu rd ra rb) := of_word rfl (by decide) fun _ => by
  simp only [decWord, bitsAt_major, decMajor00, unpack_pack_cons, unpack_nil, ofNat_mod]
  rfl
theorem mul (rd : BitVec 5) (ra : BitVec 5) (rb : BitVec 5) : Statement (.mul rd ra rb) := of_word rfl (by decide) fun _ => by
  simp only [decWord, bitsAt_major, decMajor00, unpack_pack_cons, unpack_nil, ofNat_mod]
  rfl
theorem mulh (rd : BitVec 5) (ra : BitVec 5) (rb : BitVec 5) : Statement (.mulh rd ra rb) := of_word rfl (by decide) fun _ => by
  simp only [decWord, bitsAt_major, decMajor00, unpack_pack_cons, unpack_nil, ofNat_mod]
  rfl
theorem mulhu (rd : BitVec 5) (ra : BitVec 5) (rb : BitVec 5) : Statement (.mulhu rd ra rb) := of_word rfl (by decide) fun _ => by
  simp only [decWord, bitsAt_major, decMajor00, unpack_pack_cons, unpack_nil, ofNat_mod]
  rfl
theorem div (rd : BitVec 5) (ra : BitVec 5) (rb : BitVec 5) : Statement (.div rd ra rb) := of_word rfl (by decide) fun _ => by
  simp only [decWord, bitsAt_major, decMajor00, unpack_pack_cons, unpack_nil, ofNat_mod]
  rfl
theorem divu (rd : BitVec 5) (ra : BitVec 5) (rb : BitVec 5) : Statement (.divu rd ra rb) := of_word rfl (by decide) fun _ => by
  simp only [decWord, bitsAt_major, decMajor00, unpack_pack_cons, unpack_nil, ofNat_mod]
  rfl
theorem rem (rd : BitVec 5) (ra : BitVec 5) (rb : BitVec 5) : Statement (.rem rd ra rb) := of_word rfl (by decide) fun _ => by
  simp only [decWord, bitsAt_major, decMajor00, unpack_pack_cons, unpack_nil, ofNat_mod]
  rfl
theorem remu (rd : BitVec 5) (ra : BitVec 5) (rb : BitVec 5) : Statement (.remu rd ra rb) := of_word rfl (by decide) fun _ => by
  simp only [decWord, bitsAt_major, decMajor00, unpack_pack_cons, unpack_nil, ofNat_mod]
  rfl
theorem clz (rd : BitVec 5) (ra : BitVec 5) : Statement (.clz rd ra) := of_word rfl (by decide) fun _ => by
  simp only [decWord, bitsAt_major, decMajor00, unpack_pack_cons, unpack_nil, ofNat_mod]
  rfl
theorem ctz (rd : BitVec 5) (ra : BitVec 5) : Statement (.ctz rd ra) := of_word rfl (by decide) fun _ => by
  simp only [decWord, bitsAt_major, decMajor00, unpack_pack_cons, unpack_nil, ofNat_mod]
  rfl
theorem popc (rd : BitVec 5) (ra : BitVec 5) : Statement (.popc rd ra) := of_word rfl (by decide) fun _ => by
  simp only [decWord, bitsAt_major, decMajor00, unpack_pack_cons, unpack_nil, ofNat_mod]
  rfl
theorem addi (rd : BitVec 5) (ra : BitVec 5) (imm : BitVec 14) : Statement (.addi rd ra imm) := of_word rfl (by decide) fun _ => by
  simp only [decWord, bitsAt_major, decMajor01, unpack_pack_cons, unpack_nil, ofNat_mod]
  rfl
theorem andi (rd : BitVec 5) (ra : BitVec 5) (imm : BitVec 14) : Statement (.andi rd ra imm) := of_word rfl (by decide) fun _ => by
  simp only [decWord, bitsAt_major, decMajor02, unpack_pack_cons, unpack_nil, ofNat_mod]
  rfl
theorem ori (rd : BitVec 5) (ra : BitVec 5) (imm : BitVec 14) : Statement (.ori rd ra imm) := of_word rfl (by decide) fun _ => by
  simp only [decWord, bitsAt_major, decMajor03, unpack_pack_cons, unpack_nil, ofNat_mod]
  rfl
theorem xori (rd : BitVec 5) (ra : BitVec 5) (imm : BitVec 14) : Statement (.xori rd ra imm) := of_word rfl (by decide) fun _ => by
  simp only [decWord, bitsAt_major, decMajor04, unpack_pack_cons, unpack_nil, ofNat_mod]
  rfl
theorem slti (rd : BitVec 5) (ra : BitVec 5) (imm : BitVec 14) : Statement (.slti rd ra imm) := of_word rfl (by decide) fun _ => by
  simp only [decWord, bitsAt_major, decMajor05, unpack_pack_cons, unpack_nil, ofNat_mod]
  rfl
theorem sltiu (rd : BitVec 5) (ra : BitVec 5) (imm : BitVec 14) : Statement (.sltiu rd ra imm) := of_word rfl (by decide) fun _ => by
  simp only [decWord, bitsAt_major, decMajor06, unpack_pack_cons, unpack_nil, ofNat_mod]
  rfl
theorem slli (rd : BitVec 5) (ra : BitVec 5) (sh : BitVec 6) : Statement (.slli rd ra sh) := of_word rfl (by decide) fun _ => by
  simp only [decWord, bitsAt_major, decMajor07, unpack_pack_cons, unpack_nil, ofNat_mod]
  rfl
theorem srli (rd : BitVec 5) (ra : BitVec 5) (sh : BitVec 6) : Statement (.srli rd ra sh) := of_word rfl (by decide) fun _ => by
  simp only [decWord, bitsAt_major, decMajor07, unpack_pack_cons, unpack_nil, ofNat_mod]
  rfl
theorem srai (rd : BitVec 5) (ra : BitVec 5) (sh : BitVec 6) : Statement (.srai rd ra sh) := of_word rfl (by decide) fun _ => by
  simp only [decWord, bitsAt_major, decMajor07, unpack_pack_cons, unpack_nil, ofNat_mod]
  rfl
theorem lui (rd : BitVec 5) (imm : BitVec 19) : Statement (.lui rd imm) := of_word rfl (by decide) fun _ => by
  simp only [decWord, bitsAt_major, decMajor08, unpack_pack_cons, unpack_nil, ofNat_mod]
  rfl
theorem ldpc (rd : BitVec 5) (imm : BitVec 19) : Statement (.ldpc rd imm) := of_word rfl (by decide) fun _ => by
  simp only [decWord, bitsAt_major, decMajor09, unpack_pack_cons, unpack_nil, ofNat_mod]
  rfl
theorem ldB (rd : BitVec 5) (rb : BitVec 5) (ord : Ord) (scope : Scope) (evict : BitVec 3) (imm : BitVec 3) : Statement (.ldB rd rb ord scope evict imm) := of_word rfl (by decide) fun _ => by
  simp only [decWord, bitsAt_major, decMajor0A, unpack_pack_cons, unpack_nil, ofNat_mod, withScope_code, ofCode_code]
  rfl
theorem ldBu (rd : BitVec 5) (rb : BitVec 5) (ord : Ord) (scope : Scope) (evict : BitVec 3) (imm : BitVec 3) : Statement (.ldBu rd rb ord scope evict imm) := of_word rfl (by decide) fun _ => by
  simp only [decWord, bitsAt_major, decMajor0A, unpack_pack_cons, unpack_nil, ofNat_mod, withScope_code, ofCode_code]
  rfl
theorem ldH (rd : BitVec 5) (rb : BitVec 5) (ord : Ord) (scope : Scope) (evict : BitVec 3) (imm : BitVec 3) : Statement (.ldH rd rb ord scope evict imm) := of_word rfl (by decide) fun _ => by
  simp only [decWord, bitsAt_major, decMajor0A, unpack_pack_cons, unpack_nil, ofNat_mod, withScope_code, ofCode_code]
  rfl
theorem ldHu (rd : BitVec 5) (rb : BitVec 5) (ord : Ord) (scope : Scope) (evict : BitVec 3) (imm : BitVec 3) : Statement (.ldHu rd rb ord scope evict imm) := of_word rfl (by decide) fun _ => by
  simp only [decWord, bitsAt_major, decMajor0A, unpack_pack_cons, unpack_nil, ofNat_mod, withScope_code, ofCode_code]
  rfl
theorem ldW (rd : BitVec 5) (rb : BitVec 5) (ord : Ord) (scope : Scope) (evict : BitVec 3) (imm : BitVec 3) : Statement (.ldW rd rb ord scope evict imm) := of_word rfl (by decide) fun _ => by
  simp only [decWord, bitsAt_major, decMajor0A, unpack_pack_cons, unpack_nil, ofNat_mod, withScope_code, ofCode_code]
  rfl
theorem ldWu (rd : BitVec 5) (rb : BitVec 5) (ord : Ord) (scope : Scope) (evict : BitVec 3) (imm : BitVec 3) : Statement (.ldWu rd rb ord scope evict imm) := of_word rfl (by decide) fun _ => by
  simp only [decWord, bitsAt_major, decMajor0A, unpack_pack_cons, unpack_nil, ofNat_mod, withScope_code, ofCode_code]
  rfl
theorem ldD (rd : BitVec 5) (rb : BitVec 5) (ord : Ord) (scope : Scope) (evict : BitVec 3) (imm : BitVec 3) : Statement (.ldD rd rb ord scope evict imm) := of_word rfl (by decide) fun _ => by
  simp only [decWord, bitsAt_major, decMajor0A, unpack_pack_cons, unpack_nil, ofNat_mod, withScope_code, ofCode_code]
  rfl
theorem stB (rs : BitVec 5) (rb : BitVec 5) (ord : Ord) (scope : Scope) (evict : BitVec 3) (imm : BitVec 3) : Statement (.stB rs rb ord scope evict imm) := of_word rfl (by decide) fun _ => by
  simp only [decWord, bitsAt_major, decMajor0B, unpack_pack_cons, unpack_nil, ofNat_mod, withScope_code, ofCode_code]
  rfl
theorem stH (rs : BitVec 5) (rb : BitVec 5) (ord : Ord) (scope : Scope) (evict : BitVec 3) (imm : BitVec 3) : Statement (.stH rs rb ord scope evict imm) := of_word rfl (by decide) fun _ => by
  simp only [decWord, bitsAt_major, decMajor0B, unpack_pack_cons, unpack_nil, ofNat_mod, withScope_code, ofCode_code]
  rfl
theorem stW (rs : BitVec 5) (rb : BitVec 5) (ord : Ord) (scope : Scope) (evict : BitVec 3) (imm : BitVec 3) : Statement (.stW rs rb ord scope evict imm) := of_word rfl (by decide) fun _ => by
  simp only [decWord, bitsAt_major, decMajor0B, unpack_pack_cons, unpack_nil, ofNat_mod, withScope_code, ofCode_code]
  rfl
theorem stD (rs : BitVec 5) (rb : BitVec 5) (ord : Ord) (scope : Scope) (evict : BitVec 3) (imm : BitVec 3) : Statement (.stD rs rb ord scope evict imm) := of_word rfl (by decide) fun _ => by
  simp only [decWord, bitsAt_major, decMajor0B, unpack_pack_cons, unpack_nil, ofNat_mod, withScope_code, ofCode_code]
  rfl
theorem beq (ra : BitVec 5) (rb : BitVec 5) (off : BitVec 11) : Statement (.beq ra rb off) := of_word rfl (by decide) fun _ => by
  simp only [decWord, bitsAt_major, decMajor0C, unpack_pack_cons, unpack_nil, ofNat_mod]
  rfl
theorem bne (ra : BitVec 5) (rb : BitVec 5) (off : BitVec 11) : Statement (.bne ra rb off) := of_word rfl (by decide) fun _ => by
  simp only [decWord, bitsAt_major, decMajor0C, unpack_pack_cons, unpack_nil, ofNat_mod]
  rfl
theorem blt (ra : BitVec 5) (rb : BitVec 5) (off : BitVec 11) : Statement (.blt ra rb off) := of_word rfl (by decide) fun _ => by
  simp only [decWord, bitsAt_major, decMajor0C, unpack_pack_cons, unpack_nil, ofNat_mod]
  rfl
theorem bge (ra : BitVec 5) (rb : BitVec 5) (off : BitVec 11) : Statement (.bge ra rb off) := of_word rfl (by decide) fun _ => by
  simp only [decWord, bitsAt_major, decMajor0C, unpack_pack_cons, unpack_nil, ofNat_mod]
  rfl
theorem bltu (ra : BitVec 5) (rb : BitVec 5) (off : BitVec 11) : Statement (.bltu ra rb off) := of_word rfl (by decide) fun _ => by
  simp only [decWord, bitsAt_major, decMajor0C, unpack_pack_cons, unpack_nil, ofNat_mod]
  rfl
theorem bgeu (ra : BitVec 5) (rb : BitVec 5) (off : BitVec 11) : Statement (.bgeu ra rb off) := of_word rfl (by decide) fun _ => by
  simp only [decWord, bitsAt_major, decMajor0C, unpack_pack_cons, unpack_nil, ofNat_mod]
  rfl
theorem jal (rd : BitVec 5) (off : BitVec 19) : Statement (.jal rd off) := of_word rfl (by decide) fun _ => by
  simp only [decWord, bitsAt_major, decMajor0D, unpack_pack_cons, unpack_nil, ofNat_mod]
  rfl
theorem jalr (rd : BitVec 5) (ra : BitVec 5) (imm : BitVec 14) : Statement (.jalr rd ra imm) := of_word rfl (by decide) fun _ => by
  simp only [decWord, bitsAt_major, decMajor0E, unpack_pack_cons, unpack_nil, ofNat_mod]
  rfl
theorem loopSet (ra : BitVec 5) (tag : Tag) (grp : BitVec 2) (tp : BitVec 1) (mp : BitVec 1) : Statement (.loopSet ra tag grp tp mp) := of_word rfl (by decide) fun _ => by
  simp (disch := decide) only [decWord, bitsAt_major, decMajor0F, unpack_pack_cons, unpack_nil, ofNat_mod, withTag_code, pack_mod]
  rfl
theorem loopNext (off : BitVec 14) : Statement (.loopNext off) := of_word rfl (by decide) fun _ => by
  simp only [decWord, bitsAt_major, decMajor0F, unpack_pack_cons, unpack_nil, ofNat_mod]
  rfl
theorem farmSet (ra : BitVec 5) (tag : Tag) (grp : BitVec 2) (tp : BitVec 1) (mp : BitVec 1) : Statement (.farmSet ra tag grp tp mp) := of_word rfl (by decide) fun _ => by
  simp (disch := decide) only [decWord, bitsAt_major, decMajor0F, unpack_pack_cons, unpack_nil, ofNat_mod, withTag_code, pack_mod]
  rfl
theorem csrr (rd : BitVec 5) (csr : BitVec 10) : Statement (.csrr rd csr) := of_word rfl (by decide) fun _ => by
  simp only [decWord, bitsAt_major, decMajor10, unpack_pack_cons, unpack_nil, ofNat_mod]
  rfl
theorem csrw (rd : BitVec 5) (csr : BitVec 10) (ra : BitVec 5) : Statement (.csrw rd csr ra) := of_word rfl (by decide) fun _ => by
  simp only [decWord, bitsAt_major, decMajor10, unpack_pack_cons, unpack_nil, ofNat_mod]
  rfl
theorem csrs (rd : BitVec 5) (csr : BitVec 10) (ra : BitVec 5) : Statement (.csrs rd csr ra) := of_word rfl (by decide) fun _ => by
  simp only [decWord, bitsAt_major, decMajor10, unpack_pack_cons, unpack_nil, ofNat_mod]
  rfl
theorem csrc (rd : BitVec 5) (csr : BitVec 10) (ra : BitVec 5) : Statement (.csrc rd csr ra) := of_word rfl (by decide) fun _ => by
  simp only [decWord, bitsAt_major, decMajor10, unpack_pack_cons, unpack_nil, ofNat_mod]
  rfl
theorem svc (imm : BitVec 10) : Statement (.svc imm) := of_word rfl (by decide) fun _ => by
  simp only [decWord, bitsAt_major, decMajor10, unpack_pack_cons, unpack_nil, ofNat_mod]
  rfl
theorem brk (imm : BitVec 10) : Statement (.brk imm) := of_word rfl (by decide) fun _ => by
  simp only [decWord, bitsAt_major, decMajor10, unpack_pack_cons, unpack_nil, ofNat_mod]
  rfl
theorem exit (ra : BitVec 5) : Statement (.exit ra) := of_word rfl (by decide) fun _ => by
  simp only [decWord, bitsAt_major, decMajor10, unpack_pack_cons, unpack_nil, ofNat_mod]
  rfl
theorem cachectlSynci (ra : BitVec 5) : Statement (.cachectlSynci ra) := of_word rfl (by decide) fun _ => by
  simp only [decWord, bitsAt_major, decMajor10, unpack_pack_cons, unpack_nil, ofNat_mod]
  rfl
theorem cachectlWb (ra : BitVec 5) : Statement (.cachectlWb ra) := of_word rfl (by decide) fun _ => by
  simp only [decWord, bitsAt_major, decMajor10, unpack_pack_cons, unpack_nil, ofNat_mod]
  rfl
theorem cachectlWbinv (ra : BitVec 5) : Statement (.cachectlWbinv ra) := of_word rfl (by decide) fun _ => by
  simp only [decWord, bitsAt_major, decMajor10, unpack_pack_cons, unpack_nil, ofNat_mod]
  rfl
theorem cachectlPf1 (ra : BitVec 5) : Statement (.cachectlPf1 ra) := of_word rfl (by decide) fun _ => by
  simp only [decWord, bitsAt_major, decMajor10, unpack_pack_cons, unpack_nil, ofNat_mod]
  rfl
theorem cachectlPf2 (ra : BitVec 5) : Statement (.cachectlPf2 ra) := of_word rfl (by decide) fun _ => by
  simp only [decWord, bitsAt_major, decMajor10, unpack_pack_cons, unpack_nil, ofNat_mod]
  rfl
theorem cachectlZero (ra : BitVec 5) : Statement (.cachectlZero ra) := of_word rfl (by decide) fun _ => by
  simp only [decWord, bitsAt_major, decMajor10, unpack_pack_cons, unpack_nil, ofNat_mod]
  rfl
theorem eret : Statement .eret := of_word rfl (by decide) fun _ => by
  simp only [decWord, bitsAt_major, decMajor10, unpack_pack_cons, unpack_nil, ofNat_mod]
  rfl
theorem tlbinv (kind : BitVec 2) (ra : BitVec 5) : Statement (.tlbinv kind ra) := of_word rfl (by decide) fun _ => by
  simp (disch := decide) only [decWord, bitsAt_major, decMajor10, unpack_pack_cons, unpack_nil, ofNat_mod, pack_mod]
  rfl
theorem ctxResumeRetry (ra : BitVec 5) : Statement (.ctxResumeRetry ra) := of_word rfl (by decide) fun _ => by
  simp only [decWord, bitsAt_major, decMajor10, unpack_pack_cons, unpack_nil, ofNat_mod]
  rfl
theorem ctxResumeSkip (ra : BitVec 5) : Statement (.ctxResumeSkip ra) := of_word rfl (by decide) fun _ => by
  simp only [decWord, bitsAt_major, decMajor10, unpack_pack_cons, unpack_nil, ofNat_mod]
  rfl
theorem ctxSave (ra : BitVec 5) : Statement (.ctxSave ra) := of_word rfl (by decide) fun _ => by
  simp only [decWord, bitsAt_major, decMajor10, unpack_pack_cons, unpack_nil, ofNat_mod]
  rfl
theorem fence (pred : BitVec 8) (succ : BitVec 8) (scope : Scope) : Statement (.fence pred succ scope) := of_word rfl (by decide) fun _ => by
  simp only [decWord, bitsAt_major, decMajor11, unpack_pack_cons, unpack_nil, ofNat_mod, withScope_code]
  rfl
theorem amoAdd (rd : BitVec 5) (ra : BitVec 5) (rb : BitVec 5) (ord : Ord) (scope : Scope) : Statement (.amoAdd rd ra rb ord scope) := of_word rfl (by decide) fun _ => by
  simp only [decWord, bitsAt_major, decMajor12, unpack_pack_cons, unpack_nil, ofNat_mod, withScope_code, ofCode_code]
  rfl
theorem amoAnd (rd : BitVec 5) (ra : BitVec 5) (rb : BitVec 5) (ord : Ord) (scope : Scope) : Statement (.amoAnd rd ra rb ord scope) := of_word rfl (by decide) fun _ => by
  simp only [decWord, bitsAt_major, decMajor12, unpack_pack_cons, unpack_nil, ofNat_mod, withScope_code, ofCode_code]
  rfl
theorem amoOr (rd : BitVec 5) (ra : BitVec 5) (rb : BitVec 5) (ord : Ord) (scope : Scope) : Statement (.amoOr rd ra rb ord scope) := of_word rfl (by decide) fun _ => by
  simp only [decWord, bitsAt_major, decMajor12, unpack_pack_cons, unpack_nil, ofNat_mod, withScope_code, ofCode_code]
  rfl
theorem amoXor (rd : BitVec 5) (ra : BitVec 5) (rb : BitVec 5) (ord : Ord) (scope : Scope) : Statement (.amoXor rd ra rb ord scope) := of_word rfl (by decide) fun _ => by
  simp only [decWord, bitsAt_major, decMajor12, unpack_pack_cons, unpack_nil, ofNat_mod, withScope_code, ofCode_code]
  rfl
theorem amoMin (rd : BitVec 5) (ra : BitVec 5) (rb : BitVec 5) (ord : Ord) (scope : Scope) : Statement (.amoMin rd ra rb ord scope) := of_word rfl (by decide) fun _ => by
  simp only [decWord, bitsAt_major, decMajor12, unpack_pack_cons, unpack_nil, ofNat_mod, withScope_code, ofCode_code]
  rfl
theorem amoMax (rd : BitVec 5) (ra : BitVec 5) (rb : BitVec 5) (ord : Ord) (scope : Scope) : Statement (.amoMax rd ra rb ord scope) := of_word rfl (by decide) fun _ => by
  simp only [decWord, bitsAt_major, decMajor12, unpack_pack_cons, unpack_nil, ofNat_mod, withScope_code, ofCode_code]
  rfl
theorem amoMinu (rd : BitVec 5) (ra : BitVec 5) (rb : BitVec 5) (ord : Ord) (scope : Scope) : Statement (.amoMinu rd ra rb ord scope) := of_word rfl (by decide) fun _ => by
  simp only [decWord, bitsAt_major, decMajor12, unpack_pack_cons, unpack_nil, ofNat_mod, withScope_code, ofCode_code]
  rfl
theorem amoMaxu (rd : BitVec 5) (ra : BitVec 5) (rb : BitVec 5) (ord : Ord) (scope : Scope) : Statement (.amoMaxu rd ra rb ord scope) := of_word rfl (by decide) fun _ => by
  simp only [decWord, bitsAt_major, decMajor12, unpack_pack_cons, unpack_nil, ofNat_mod, withScope_code, ofCode_code]
  rfl
theorem amoSwap (rd : BitVec 5) (ra : BitVec 5) (rb : BitVec 5) (ord : Ord) (scope : Scope) : Statement (.amoSwap rd ra rb ord scope) := of_word rfl (by decide) fun _ => by
  simp only [decWord, bitsAt_major, decMajor12, unpack_pack_cons, unpack_nil, ofNat_mod, withScope_code, ofCode_code]
  rfl
theorem amoCas (rd : BitVec 5) (ra : BitVec 5) (rb : BitVec 5) (ord : Ord) (scope : Scope) : Statement (.amoCas rd ra rb ord scope) := of_word rfl (by decide) fun _ => by
  simp only [decWord, bitsAt_major, decMajor12, unpack_pack_cons, unpack_nil, ofNat_mod, withScope_code, ofCode_code]
  rfl
theorem barInit (rb : BitVec 5) (ra : BitVec 5) (scope : Scope) : Statement (.barInit rb ra scope) := of_word rfl (by decide) fun _ => by
  simp only [decWord, bitsAt_major, decMajor13, unpack_pack_cons, unpack_nil, ofNat_mod, withScope_code]
  rfl
theorem barArv (rd : BitVec 5) (rb : BitVec 5) (scope : Scope) : Statement (.barArv rd rb scope) := of_word rfl (by decide) fun _ => by
  simp only [decWord, bitsAt_major, decMajor13, unpack_pack_cons, unpack_nil, ofNat_mod, withScope_code]
  rfl
theorem barWait (rb : BitVec 5) (ra : BitVec 5) (scope : Scope) : Statement (.barWait rb ra scope) := of_word rfl (by decide) fun _ => by
  simp only [decWord, bitsAt_major, decMajor13, unpack_pack_cons, unpack_nil, ofNat_mod, withScope_code]
  rfl
theorem barArvwait (rd : BitVec 5) (rb : BitVec 5) (scope : Scope) : Statement (.barArvwait rd rb scope) := of_word rfl (by decide) fun _ => by
  simp only [decWord, bitsAt_major, decMajor13, unpack_pack_cons, unpack_nil, ofNat_mod, withScope_code]
  rfl
theorem tkwait : Statement .tkwait := of_word rfl (by decide) fun _ => by
  simp only [decWord, bitsAt_major, decMajor14, unpack_pack_cons, unpack_nil, ofNat_mod]
  rfl
theorem tktrig : Statement .tktrig := of_word rfl (by decide) fun _ => by
  simp only [decWord, bitsAt_major, decMajor14, unpack_pack_cons, unpack_nil, ofNat_mod]
  rfl
theorem taskSpawn (rd : BitVec 5) (ra : BitVec 5) : Statement (.taskSpawn rd ra) := of_word rfl (by decide) fun _ => by
  simp only [decWord, bitsAt_major, decMajor14, unpack_pack_cons, unpack_nil, ofNat_mod]
  rfl
theorem vcfg (vd : BitVec 6) (tag : Tag) (dom : BitVec 3) (grp : BitVec 2) : Statement (.vcfg vd tag dom grp) := of_word rfl (by decide) fun _ => by
  simp (disch := decide) only [decWord, bitsAt_major, decMajor18, unpack_pack_cons, unpack_nil, ofNat_mod, withTag_code, pack_mod]
  rfl
theorem vlreq (rd : BitVec 5) (ra : BitVec 5) (tag : Tag) (grp : BitVec 2) (tp : BitVec 1) (mp : BitVec 1) : Statement (.vlreq rd ra tag grp tp mp) := of_word rfl (by decide) fun _ => by
  simp (disch := decide) only [decWord, bitsAt_major, decMajor18, unpack_pack_cons, unpack_nil, ofNat_mod, withTag_code, pack_mod]
  rfl
theorem vtagr (rd : BitVec 5) (va : BitVec 6) : Statement (.vtagr rd va) := of_word rfl (by decide) fun _ => by
  simp (disch := decide) only [decWord, bitsAt_major, decMajor18, unpack_pack_cons, unpack_nil, ofNat_mod, pack_mod]
  rfl
theorem vdim (dk : BitVec 3) (ra : BitVec 5) (rb : BitVec 5) : Statement (.vdim dk ra rb) := of_word rfl (by decide) fun _ => by
  simp (disch := decide) only [decWord, bitsAt_major, decMajor18, unpack_pack_cons, unpack_nil, ofNat_mod, pack_mod]
  rfl
theorem shpLd (entry : BitVec 4) (ra : BitVec 5) : Statement (.shpLd entry ra) := of_word rfl (by decide) fun _ => by
  simp (disch := decide) only [decWord, bitsAt_major, decMajor18, unpack_pack_cons, unpack_nil, ofNat_mod, pack_mod]
  rfl
theorem vld (vd : BitVec 6) (xb : BitVec 5) (mode : BitVec 3) (mask : BitVec 2) (ord : Ord) (scope : Scope) (evict : BitVec 3) : Statement (.vld vd xb mode mask ord scope evict) := of_word rfl (by decide) fun _ => by
  simp only [decWord, bitsAt_major, decMajor19, unpack_pack_cons, unpack_nil, ofNat_mod, withScope_code, ofCode_code]
  rfl
theorem vst (vs : BitVec 6) (xb : BitVec 5) (mode : BitVec 3) (mask : BitVec 2) (ord : Ord) (scope : Scope) (evict : BitVec 3) : Statement (.vst vs xb mode mask ord scope evict) := of_word rfl (by decide) fun _ => by
  simp only [decWord, bitsAt_major, decMajor1A, unpack_pack_cons, unpack_nil, ofNat_mod, withScope_code, ofCode_code]
  rfl
theorem vldc (vd : BitVec 6) (xb : BitVec 5) (mode : BitVec 3) (cm : BitVec 2) (ord : Ord) (scope : Scope) (evict : BitVec 3) : Statement (.vldc vd xb mode cm ord scope evict) := of_word rfl (by decide) fun _ => by
  simp only [decWord, bitsAt_major, decMajor1B, unpack_pack_cons, unpack_nil, ofNat_mod, withScope_code, ofCode_code]
  rfl
theorem vspill (vd : BitVec 6) (xb : BitVec 5) (imm : BitVec 12) : Statement (.vspill vd xb imm) := of_word rfl (by decide) fun _ => by
  simp only [decWord, bitsAt_major, decMajor1C, unpack_pack_cons, unpack_nil, ofNat_mod]
  rfl
theorem vfill (vd : BitVec 6) (xb : BitVec 5) (imm : BitVec 12) : Statement (.vfill vd xb imm) := of_word rfl (by decide) fun _ => by
  simp only [decWord, bitsAt_major, decMajor1C, unpack_pack_cons, unpack_nil, ofNat_mod]
  rfl
theorem vldx (vd : BitVec 6) (vi : BitVec 6) (xb : BitVec 5) (scale : BitVec 2) (mask : BitVec 2) (ord : Ord) (scope : Scope) (evict : BitVec 3) : Statement (.vldx vd vi xb scale mask ord scope evict) := of_double rfl (by decide) fun _ => by
  simp only [decDouble, bitsAt_class, decClass01, unpack_pack_cons, unpack_nil, ofNat_mod, withScope_code, ofCode_code]
  rfl
theorem vstx (vs : BitVec 6) (vi : BitVec 6) (xb : BitVec 5) (scale : BitVec 2) (mask : BitVec 2) (ord : Ord) (scope : Scope) (evict : BitVec 3) : Statement (.vstx vs vi xb scale mask ord scope evict) := of_double rfl (by decide) fun _ => by
  simp only [decDouble, bitsAt_class, decClass01, unpack_pack_cons, unpack_nil, ofNat_mod, withScope_code, ofCode_code]
  rfl
theorem vamoadd (vs : BitVec 6) (vi : BitVec 6) (xb : BitVec 5) (scale : BitVec 2) (mask : BitVec 2) (ord : Ord) (scope : Scope) (evict : BitVec 3) : Statement (.vamoadd vs vi xb scale mask ord scope evict) := of_double rfl (by decide) fun _ => by
  simp only [decDouble, bitsAt_class, decClass01, unpack_pack_cons, unpack_nil, ofNat_mod, withScope_code, ofCode_code]
  rfl
theorem vadd (vd : BitVec 6) (va : BitVec 6) (vb : BitVec 6) (mask : BitVec 2) : Statement (.vadd vd va vb mask) := of_word rfl (by decide) fun _ => by
  simp only [decWord, bitsAt_major, decMajor20, unpack_pack_cons, unpack_nil, ofNat_mod]
  rfl
theorem vsub (vd : BitVec 6) (va : BitVec 6) (vb : BitVec 6) (mask : BitVec 2) : Statement (.vsub vd va vb mask) := of_word rfl (by decide) fun _ => by
  simp only [decWord, bitsAt_major, decMajor20, unpack_pack_cons, unpack_nil, ofNat_mod]
  rfl
theorem vmul (vd : BitVec 6) (va : BitVec 6) (vb : BitVec 6) (mask : BitVec 2) : Statement (.vmul vd va vb mask) := of_word rfl (by decide) fun _ => by
  simp only [decWord, bitsAt_major, decMajor20, unpack_pack_cons, unpack_nil, ofNat_mod]
  rfl
theorem vmin (vd : BitVec 6) (va : BitVec 6) (vb : BitVec 6) (mask : BitVec 2) : Statement (.vmin vd va vb mask) := of_word rfl (by decide) fun _ => by
  simp only [decWord, bitsAt_major, decMajor20, unpack_pack_cons, unpack_nil, ofNat_mod]
  rfl
theorem vmax (vd : BitVec 6) (va : BitVec 6) (vb : BitVec 6) (mask : BitVec 2) : Statement (.vmax vd va vb mask) := of_word rfl (by decide) fun _ => by
  simp only [decWord, bitsAt_major, decMajor20, unpack_pack_cons, unpack_nil, ofNat_mod]
  rfl
theorem vabs (vd : BitVec 6) (va : BitVec 6) (mask : BitVec 2) : Statement (.vabs vd va mask) := of_word rfl (by decide) fun _ => by
  simp only [decWord, bitsAt_major, decMajor20, unpack_pack_cons, unpack_nil, ofNat_mod]
  rfl
theorem vneg (vd : BitVec 6) (va : BitVec 6) (mask : BitVec 2) : Statement (.vneg vd va mask) := of_word rfl (by decide) fun _ => by
  simp only [decWord, bitsAt_major, decMajor20, unpack_pack_cons, unpack_nil, ofNat_mod]
  rfl
theorem vfma (vd : BitVec 6) (va : BitVec 6) (vb : BitVec 6) (mask : BitVec 2) : Statement (.vfma vd va vb mask) := of_word rfl (by decide) fun _ => by
  simp only [decWord, bitsAt_major, decMajor20, unpack_pack_cons, unpack_nil, ofNat_mod]
  rfl
theorem vfms (vd : BitVec 6) (va : BitVec 6) (vb : BitVec 6) (mask : BitVec 2) : Statement (.vfms vd va vb mask) := of_word rfl (by decide) fun _ => by
  simp only [decWord, bitsAt_major, decMajor20, unpack_pack_cons, unpack_nil, ofNat_mod]
  rfl
theorem vfnma (vd : BitVec 6) (va : BitVec 6) (vb : BitVec 6) (mask : BitVec 2) : Statement (.vfnma vd va vb mask) := of_word rfl (by decide) fun _ => by
  simp only [decWord, bitsAt_major, decMajor20, unpack_pack_cons, unpack_nil, ofNat_mod]
  rfl
theorem vdiv (vd : BitVec 6) (va : BitVec 6) (vb : BitVec 6) (mask : BitVec 2) : Statement (.vdiv vd va vb mask) := of_word rfl (by decide) fun _ => by
  simp only [decWord, bitsAt_major, decMajor20, unpack_pack_cons, unpack_nil, ofNat_mod]
  rfl
theorem vsqrt (vd : BitVec 6) (va : BitVec 6) (mask : BitVec 2) : Statement (.vsqrt vd va mask) := of_word rfl (by decide) fun _ => by
  simp only [decWord, bitsAt_major, decMajor20, unpack_pack_cons, unpack_nil, ofNat_mod]
  rfl
theorem vand (vd : BitVec 6) (va : BitVec 6) (vb : BitVec 6) (mask : BitVec 2) : Statement (.vand vd va vb mask) := of_word rfl (by decide) fun _ => by
  simp only [decWord, bitsAt_major, decMajor20, unpack_pack_cons, unpack_nil, ofNat_mod]
  rfl
theorem vor (vd : BitVec 6) (va : BitVec 6) (vb : BitVec 6) (mask : BitVec 2) : Statement (.vor vd va vb mask) := of_word rfl (by decide) fun _ => by
  simp only [decWord, bitsAt_major, decMajor20, unpack_pack_cons, unpack_nil, ofNat_mod]
  rfl
theorem vxor (vd : BitVec 6) (va : BitVec 6) (vb : BitVec 6) (mask : BitVec 2) : Statement (.vxor vd va vb mask) := of_word rfl (by decide) fun _ => by
  simp only [decWord, bitsAt_major, decMajor20, unpack_pack_cons, unpack_nil, ofNat_mod]
  rfl
theorem vnot (vd : BitVec 6) (va : BitVec 6) (mask : BitVec 2) : Statement (.vnot vd va mask) := of_word rfl (by decide) fun _ => by
  simp only [decWord, bitsAt_major, decMajor20, unpack_pack_cons, unpack_nil, ofNat_mod]
  rfl
theorem vsll (vd : BitVec 6) (va : BitVec 6) (vb : BitVec 6) (mask : BitVec 2) : Statement (.vsll vd va vb mask) := of_word rfl (by decide) fun _ => by
  simp only [decWord, bitsAt_major, decMajor21, unpack_pack_cons, unpack_nil, ofNat_mod]
  rfl
theorem vsrl (vd : BitVec 6) (va : BitVec 6) (vb : BitVec 6) (mask : BitVec 2) : Statement (.vsrl vd va vb mask) := of_word rfl (by decide) fun _ => by
  simp only [decWord, bitsAt_major, decMajor21, unpack_pack_cons, unpack_nil, ofNat_mod]
  rfl
theorem vsra (vd : BitVec 6) (va : BitVec 6) (vb : BitVec 6) (mask : BitVec 2) : Statement (.vsra vd va vb mask) := of_word rfl (by decide) fun _ => by
  simp only [decWord, bitsAt_major, decMajor21, unpack_pack_cons, unpack_nil, ofNat_mod]
  rfl
theorem vmulh (vd : BitVec 6) (va : BitVec 6) (vb : BitVec 6) (mask : BitVec 2) : Statement (.vmulh vd va vb mask) := of_word rfl (by decide) fun _ => by
  simp only [decWord, bitsAt_major, decMajor21, unpack_pack_cons, unpack_nil, ofNat_mod]
  rfl
theorem vmulr (vd : BitVec 6) (va : BitVec 6) (vb : BitVec 6) (mask : BitVec 2) : Statement (.vmulr vd va vb mask) := of_word rfl (by decide) fun _ => by
  simp only [decWord, bitsAt_major, decMajor21, unpack_pack_cons, unpack_nil, ofNat_mod]
  rfl
theorem vaddr (vd : BitVec 6) (va : BitVec 6) (vb : BitVec 6) (mask : BitVec 2) : Statement (.vaddr vd va vb mask) := of_word rfl (by decide) fun _ => by
  simp only [decWord, bitsAt_major, decMajor21, unpack_pack_cons, unpack_nil, ofNat_mod]
  rfl
theorem vrcps (vd : BitVec 6) (va : BitVec 6) (vb : BitVec 6) (mask : BitVec 2) : Statement (.vrcps vd va vb mask) := of_word rfl (by decide) fun _ => by
  simp only [decWord, bitsAt_major, decMajor21, unpack_pack_cons, unpack_nil, ofNat_mod]
  rfl
theorem vrsqs (vd : BitVec 6) (va : BitVec 6) (vb : BitVec 6) (mask : BitVec 2) : Statement (.vrsqs vd va vb mask) := of_word rfl (by decide) fun _ => by
  simp only [decWord, bitsAt_major, decMajor21, unpack_pack_cons, unpack_nil, ofNat_mod]
  rfl
theorem vcmpEq (md : BitVec 3) (va : BitVec 6) (vb : BitVec 6) (mask : BitVec 2) : Statement (.vcmpEq md va vb mask) := of_word rfl (by decide) fun _ => by
  simp (disch := decide) only [decWord, bitsAt_major, decMajor21, unpack_pack_cons, unpack_nil, ofNat_mod, pack_mod]
  rfl
theorem vcmpLt (md : BitVec 3) (va : BitVec 6) (vb : BitVec 6) (mask : BitVec 2) : Statement (.vcmpLt md va vb mask) := of_word rfl (by decide) fun _ => by
  simp (disch := decide) only [decWord, bitsAt_major, decMajor21, unpack_pack_cons, unpack_nil, ofNat_mod, pack_mod]
  rfl
theorem vcmpLe (md : BitVec 3) (va : BitVec 6) (vb : BitVec 6) (mask : BitVec 2) : Statement (.vcmpLe md va vb mask) := of_word rfl (by decide) fun _ => by
  simp (disch := decide) only [decWord, bitsAt_major, decMajor21, unpack_pack_cons, unpack_nil, ofNat_mod, pack_mod]
  rfl
theorem vcvt (vd : BitVec 6) (va : BitVec 6) (tag : Tag) (mask : BitVec 2) : Statement (.vcvt vd va tag mask) := of_word rfl (by decide) fun _ => by
  simp only [decWord, bitsAt_major, decMajor21, unpack_pack_cons, unpack_nil, ofNat_mod, withTag_code]
  rfl
theorem vwiden (vd : BitVec 6) (va : BitVec 6) (tag : Tag) (mask : BitVec 2) : Statement (.vwiden vd va tag mask) := of_word rfl (by decide) fun _ => by
  simp only [decWord, bitsAt_major, decMajor21, unpack_pack_cons, unpack_nil, ofNat_mod, withTag_code]
  rfl
theorem vnarrow (vd : BitVec 6) (va : BitVec 6) (tag : Tag) (mask : BitVec 2) : Statement (.vnarrow vd va tag mask) := of_word rfl (by decide) fun _ => by
  simp only [decWord, bitsAt_major, decMajor21, unpack_pack_cons, unpack_nil, ofNat_mod, withTag_code]
  rfl
theorem vaddX (vd : BitVec 6) (va : BitVec 6) (xb : BitVec 5) (mask : BitVec 2) : Statement (.vaddX vd va xb mask) := of_word rfl (by decide) fun _ => by
  simp only [decWord, bitsAt_major, decMajor22, unpack_pack_cons, unpack_nil, ofNat_mod]
  rfl
theorem vsubX (vd : BitVec 6) (va : BitVec 6) (xb : BitVec 5) (mask : BitVec 2) : Statement (.vsubX vd va xb mask) := of_word rfl (by decide) fun _ => by
  simp only [decWord, bitsAt_major, decMajor22, unpack_pack_cons, unpack_nil, ofNat_mod]
  rfl
theorem vsubXRev (vd : BitVec 6) (va : BitVec 6) (xb : BitVec 5) (mask : BitVec 2) : Statement (.vsubXRev vd va xb mask) := of_word rfl (by decide) fun _ => by
  simp only [decWord, bitsAt_major, decMajor22, unpack_pack_cons, unpack_nil, ofNat_mod]
  rfl
theorem vmulX (vd : BitVec 6) (va : BitVec 6) (xb : BitVec 5) (mask : BitVec 2) : Statement (.vmulX vd va xb mask) := of_word rfl (by decide) fun _ => by
  simp only [decWord, bitsAt_major, decMajor22, unpack_pack_cons, unpack_nil, ofNat_mod]
  rfl
theorem vfmaX (vd : BitVec 6) (va : BitVec 6) (xb : BitVec 5) (mask : BitVec 2) : Statement (.vfmaX vd va xb mask) := of_word rfl (by decide) fun _ => by
  simp only [decWord, bitsAt_major, decMajor22, unpack_pack_cons, unpack_nil, ofNat_mod]
  rfl
theorem vminX (vd : BitVec 6) (va : BitVec 6) (xb : BitVec 5) (mask : BitVec 2) : Statement (.vminX vd va xb mask) := of_word rfl (by decide) fun _ => by
  simp only [decWord, bitsAt_major, decMajor22, unpack_pack_cons, unpack_nil, ofNat_mod]
  rfl
theorem vmaxX (vd : BitVec 6) (va : BitVec 6) (xb : BitVec 5) (mask : BitVec 2) : Statement (.vmaxX vd va xb mask) := of_word rfl (by decide) fun _ => by
  simp only [decWord, bitsAt_major, decMajor22, unpack_pack_cons, unpack_nil, ofNat_mod]
  rfl
theorem vbcast (vd : BitVec 6) (xb : BitVec 5) (mask : BitVec 2) : Statement (.vbcast vd xb mask) := of_word rfl (by decide) fun _ => by
  simp only [decWord, bitsAt_major, decMajor22, unpack_pack_cons, unpack_nil, ofNat_mod]
  rfl
theorem vsllX (vd : BitVec 6) (va : BitVec 6) (xb : BitVec 5) (mask : BitVec 2) : Statement (.vsllX vd va xb mask) := of_word rfl (by decide) fun _ => by
  simp only [decWord, bitsAt_major, decMajor22, unpack_pack_cons, unpack_nil, ofNat_mod]
  rfl
theorem vsrlX (vd : BitVec 6) (va : BitVec 6) (xb : BitVec 5) (mask : BitVec 2) : Statement (.vsrlX vd va xb mask) := of_word rfl (by decide) fun _ => by
  simp only [decWord, bitsAt_major, decMajor22, unpack_pack_cons, unpack_nil, ofNat_mod]
  rfl
theorem vsraX (vd : BitVec 6) (va : BitVec 6) (xb : BitVec 5) (mask : BitVec 2) : Statement (.vsraX vd va xb mask) := of_word rfl (by decide) fun _ => by
  simp only [decWord, bitsAt_major, decMajor22, unpack_pack_cons, unpack_nil, ofNat_mod]
  rfl
theorem vcmpEqx (md : BitVec 3) (va : BitVec 6) (xb : BitVec 5) (mask : BitVec 2) : Statement (.vcmpEqx md va xb mask) := of_word rfl (by decide) fun _ => by
  simp (disch := decide) only [decWord, bitsAt_major, decMajor22, unpack_pack_cons, unpack_nil, ofNat_mod, pack_mod]
  rfl
theorem vcmpLtx (md : BitVec 3) (va : BitVec 6) (xb : BitVec 5) (mask : BitVec 2) : Statement (.vcmpLtx md va xb mask) := of_word rfl (by decide) fun _ => by
  simp (disch := decide) only [decWord, bitsAt_major, decMajor22, unpack_pack_cons, unpack_nil, ofNat_mod, pack_mod]
  rfl
theorem vcmpLtxRev (md : BitVec 3) (va : BitVec 6) (xb : BitVec 5) (mask : BitVec 2) : Statement (.vcmpLtxRev md va xb mask) := of_word rfl (by decide) fun _ => by
  simp (disch := decide) only [decWord, bitsAt_major, decMajor22, unpack_pack_cons, unpack_nil, ofNat_mod, pack_mod]
  rfl
theorem vcmpLex (md : BitVec 3) (va : BitVec 6) (xb : BitVec 5) (mask : BitVec 2) : Statement (.vcmpLex md va xb mask) := of_word rfl (by decide) fun _ => by
  simp (disch := decide) only [decWord, bitsAt_major, decMajor22, unpack_pack_cons, unpack_nil, ofNat_mod, pack_mod]
  rfl
theorem vcmpLexRev (md : BitVec 3) (va : BitVec 6) (xb : BitVec 5) (mask : BitVec 2) : Statement (.vcmpLexRev md va xb mask) := of_word rfl (by decide) fun _ => by
  simp (disch := decide) only [decWord, bitsAt_major, decMajor22, unpack_pack_cons, unpack_nil, ofNat_mod, pack_mod]
  rfl
theorem vmvXv (xd : BitVec 5) (va : BitVec 6) (xb : BitVec 5) : Statement (.vmvXv xd va xb) := of_word rfl (by decide) fun _ => by
  simp (disch := decide) only [decWord, bitsAt_major, decMajor22, unpack_pack_cons, unpack_nil, ofNat_mod, pack_mod]
  rfl
theorem vmvVx (vd : BitVec 6) (xa : BitVec 5) (xb : BitVec 5) : Statement (.vmvVx vd xa xb) := of_word rfl (by decide) fun _ => by
  simp (disch := decide) only [decWord, bitsAt_major, decMajor22, unpack_pack_cons, unpack_nil, ofNat_mod, pack_mod]
  rfl
theorem vexpFast (vd : BitVec 6) (va : BitVec 6) (mask : BitVec 2) : Statement (.vexpFast vd va mask) := of_word rfl (by decide) fun _ => by
  simp only [decWord, bitsAt_major, decMajor23, unpack_pack_cons, unpack_nil, ofNat_mod]
  rfl
theorem vlogFast (vd : BitVec 6) (va : BitVec 6) (mask : BitVec 2) : Statement (.vlogFast vd va mask) := of_word rfl (by decide) fun _ => by
  simp only [decWord, bitsAt_major, decMajor23, unpack_pack_cons, unpack_nil, ofNat_mod]
  rfl
theorem vrcpFast (vd : BitVec 6) (va : BitVec 6) (mask : BitVec 2) : Statement (.vrcpFast vd va mask) := of_word rfl (by decide) fun _ => by
  simp only [decWord, bitsAt_major, decMajor23, unpack_pack_cons, unpack_nil, ofNat_mod]
  rfl
theorem vrsqrtFast (vd : BitVec 6) (va : BitVec 6) (mask : BitVec 2) : Statement (.vrsqrtFast vd va mask) := of_word rfl (by decide) fun _ => by
  simp only [decWord, bitsAt_major, decMajor23, unpack_pack_cons, unpack_nil, ofNat_mod]
  rfl
theorem vtanhFast (vd : BitVec 6) (va : BitVec 6) (mask : BitVec 2) : Statement (.vtanhFast vd va mask) := of_word rfl (by decide) fun _ => by
  simp only [decWord, bitsAt_major, decMajor23, unpack_pack_cons, unpack_nil, ofNat_mod]
  rfl
theorem vsigmFast (vd : BitVec 6) (va : BitVec 6) (mask : BitVec 2) : Statement (.vsigmFast vd va mask) := of_word rfl (by decide) fun _ => by
  simp only [decWord, bitsAt_major, decMajor23, unpack_pack_cons, unpack_nil, ofNat_mod]
  rfl
theorem vgeluFast (vd : BitVec 6) (va : BitVec 6) (mask : BitVec 2) : Statement (.vgeluFast vd va mask) := of_word rfl (by decide) fun _ => by
  simp only [decWord, bitsAt_major, decMajor23, unpack_pack_cons, unpack_nil, ofNat_mod]
  rfl
theorem vsiluFast (vd : BitVec 6) (va : BitVec 6) (mask : BitVec 2) : Statement (.vsiluFast vd va mask) := of_word rfl (by decide) fun _ => by
  simp only [decWord, bitsAt_major, decMajor23, unpack_pack_cons, unpack_nil, ofNat_mod]
  rfl
theorem vexpAcc (vd : BitVec 6) (va : BitVec 6) (mask : BitVec 2) : Statement (.vexpAcc vd va mask) := of_word rfl (by decide) fun _ => by
  simp only [decWord, bitsAt_major, decMajor23, unpack_pack_cons, unpack_nil, ofNat_mod]
  rfl
theorem vlogAcc (vd : BitVec 6) (va : BitVec 6) (mask : BitVec 2) : Statement (.vlogAcc vd va mask) := of_word rfl (by decide) fun _ => by
  simp only [decWord, bitsAt_major, decMajor23, unpack_pack_cons, unpack_nil, ofNat_mod]
  rfl
theorem vrcpAcc (vd : BitVec 6) (va : BitVec 6) (mask : BitVec 2) : Statement (.vrcpAcc vd va mask) := of_word rfl (by decide) fun _ => by
  simp only [decWord, bitsAt_major, decMajor23, unpack_pack_cons, unpack_nil, ofNat_mod]
  rfl
theorem vrsqrtAcc (vd : BitVec 6) (va : BitVec 6) (mask : BitVec 2) : Statement (.vrsqrtAcc vd va mask) := of_word rfl (by decide) fun _ => by
  simp only [decWord, bitsAt_major, decMajor23, unpack_pack_cons, unpack_nil, ofNat_mod]
  rfl
theorem vtanhAcc (vd : BitVec 6) (va : BitVec 6) (mask : BitVec 2) : Statement (.vtanhAcc vd va mask) := of_word rfl (by decide) fun _ => by
  simp only [decWord, bitsAt_major, decMajor23, unpack_pack_cons, unpack_nil, ofNat_mod]
  rfl
theorem vsigmAcc (vd : BitVec 6) (va : BitVec 6) (mask : BitVec 2) : Statement (.vsigmAcc vd va mask) := of_word rfl (by decide) fun _ => by
  simp only [decWord, bitsAt_major, decMajor23, unpack_pack_cons, unpack_nil, ofNat_mod]
  rfl
theorem vgeluAcc (vd : BitVec 6) (va : BitVec 6) (mask : BitVec 2) : Statement (.vgeluAcc vd va mask) := of_word rfl (by decide) fun _ => by
  simp only [decWord, bitsAt_major, decMajor23, unpack_pack_cons, unpack_nil, ofNat_mod]
  rfl
theorem vsiluAcc (vd : BitVec 6) (va : BitVec 6) (mask : BitVec 2) : Statement (.vsiluAcc vd va mask) := of_word rfl (by decide) fun _ => by
  simp only [decWord, bitsAt_major, decMajor23, unpack_pack_cons, unpack_nil, ofNat_mod]
  rfl
theorem vredsumOrd (vd : BitVec 6) (va : BitVec 6) (vb : BitVec 6) (mask : BitVec 2) : Statement (.vredsumOrd vd va vb mask) := of_word rfl (by decide) fun _ => by
  simp only [decWord, bitsAt_major, decMajor24, unpack_pack_cons, unpack_nil, ofNat_mod]
  rfl
theorem vredsumTree (vd : BitVec 6) (va : BitVec 6) (vb : BitVec 6) (mask : BitVec 2) : Statement (.vredsumTree vd va vb mask) := of_word rfl (by decide) fun _ => by
  simp only [decWord, bitsAt_major, decMajor24, unpack_pack_cons, unpack_nil, ofNat_mod]
  rfl
theorem vredmax (vd : BitVec 6) (va : BitVec 6) (vb : BitVec 6) (mask : BitVec 2) : Statement (.vredmax vd va vb mask) := of_word rfl (by decide) fun _ => by
  simp only [decWord, bitsAt_major, decMajor24, unpack_pack_cons, unpack_nil, ofNat_mod]
  rfl
theorem vredmin (vd : BitVec 6) (va : BitVec 6) (vb : BitVec 6) (mask : BitVec 2) : Statement (.vredmin vd va vb mask) := of_word rfl (by decide) fun _ => by
  simp only [decWord, bitsAt_major, decMajor24, unpack_pack_cons, unpack_nil, ofNat_mod]
  rfl
theorem vredsumw (vd : BitVec 6) (va : BitVec 6) (vb : BitVec 6) (mask : BitVec 2) : Statement (.vredsumw vd va vb mask) := of_word rfl (by decide) fun _ => by
  simp only [decWord, bitsAt_major, decMajor24, unpack_pack_cons, unpack_nil, ofNat_mod]
  rfl
theorem vredand (vd : BitVec 6) (va : BitVec 6) (vb : BitVec 6) (mask : BitVec 2) : Statement (.vredand vd va vb mask) := of_word rfl (by decide) fun _ => by
  simp only [decWord, bitsAt_major, decMajor24, unpack_pack_cons, unpack_nil, ofNat_mod]
  rfl
theorem vredor (vd : BitVec 6) (va : BitVec 6) (vb : BitVec 6) (mask : BitVec 2) : Statement (.vredor vd va vb mask) := of_word rfl (by decide) fun _ => by
  simp only [decWord, bitsAt_major, decMajor24, unpack_pack_cons, unpack_nil, ofNat_mod]
  rfl
theorem vredxor (vd : BitVec 6) (va : BitVec 6) (vb : BitVec 6) (mask : BitVec 2) : Statement (.vredxor vd va vb mask) := of_word rfl (by decide) fun _ => by
  simp only [decWord, bitsAt_major, decMajor24, unpack_pack_cons, unpack_nil, ofNat_mod]
  rfl
theorem vpopc (xd : BitVec 5) (ma : BitVec 3) (mask : BitVec 2) : Statement (.vpopc xd ma mask) := of_word rfl (by decide) fun _ => by
  simp (disch := decide) only [decWord, bitsAt_major, decMajor24, unpack_pack_cons, unpack_nil, ofNat_mod, pack_mod]
  rfl
theorem vfirst (xd : BitVec 5) (ma : BitVec 3) (mask : BitVec 2) : Statement (.vfirst xd ma mask) := of_word rfl (by decide) fun _ => by
  simp (disch := decide) only [decWord, bitsAt_major, decMajor24, unpack_pack_cons, unpack_nil, ofNat_mod, pack_mod]
  rfl
theorem mand (md : BitVec 3) (ma : BitVec 3) (mb : BitVec 3) : Statement (.mand md ma mb) := of_word rfl (by decide) fun _ => by
  simp (disch := decide) only [decWord, bitsAt_major, decMajor24, unpack_pack_cons, unpack_nil, ofNat_mod, pack_mod]
  rfl
theorem mor (md : BitVec 3) (ma : BitVec 3) (mb : BitVec 3) : Statement (.mor md ma mb) := of_word rfl (by decide) fun _ => by
  simp (disch := decide) only [decWord, bitsAt_major, decMajor24, unpack_pack_cons, unpack_nil, ofNat_mod, pack_mod]
  rfl
theorem mxor (md : BitVec 3) (ma : BitVec 3) (mb : BitVec 3) : Statement (.mxor md ma mb) := of_word rfl (by decide) fun _ => by
  simp (disch := decide) only [decWord, bitsAt_major, decMajor24, unpack_pack_cons, unpack_nil, ofNat_mod, pack_mod]
  rfl
theorem mnot (md : BitVec 3) (ma : BitVec 3) : Statement (.mnot md ma) := of_word rfl (by decide) fun _ => by
  simp (disch := decide) only [decWord, bitsAt_major, decMajor24, unpack_pack_cons, unpack_nil, ofNat_mod, pack_mod]
  rfl
theorem mandn (md : BitVec 3) (ma : BitVec 3) (mb : BitVec 3) : Statement (.mandn md ma mb) := of_word rfl (by decide) fun _ => by
  simp (disch := decide) only [decWord, bitsAt_major, decMajor24, unpack_pack_cons, unpack_nil, ofNat_mod, pack_mod]
  rfl
theorem mset (md : BitVec 3) : Statement (.mset md) := of_word rfl (by decide) fun _ => by
  simp (disch := decide) only [decWord, bitsAt_major, decMajor24, unpack_pack_cons, unpack_nil, ofNat_mod, pack_mod]
  rfl
theorem vslideup (vd : BitVec 6) (va : BitVec 6) (xb : BitVec 5) (mask : BitVec 2) : Statement (.vslideup vd va xb mask) := of_word rfl (by decide) fun _ => by
  simp (disch := decide) only [decWord, bitsAt_major, decMajor25, unpack_pack_cons, unpack_nil, ofNat_mod, pack_mod]
  rfl
theorem vslidedn (vd : BitVec 6) (va : BitVec 6) (xb : BitVec 5) (mask : BitVec 2) : Statement (.vslidedn vd va xb mask) := of_word rfl (by decide) fun _ => by
  simp (disch := decide) only [decWord, bitsAt_major, decMajor25, unpack_pack_cons, unpack_nil, ofNat_mod, pack_mod]
  rfl
theorem vrot (vd : BitVec 6) (va : BitVec 6) (xb : BitVec 5) (mask : BitVec 2) : Statement (.vrot vd va xb mask) := of_word rfl (by decide) fun _ => by
  simp (disch := decide) only [decWord, bitsAt_major, decMajor25, unpack_pack_cons, unpack_nil, ofNat_mod, pack_mod]
  rfl
theorem vperm (vd : BitVec 6) (va : BitVec 6) (vb : BitVec 6) (mask : BitVec 2) : Statement (.vperm vd va vb mask) := of_word rfl (by decide) fun _ => by
  simp only [decWord, bitsAt_major, decMajor25, unpack_pack_cons, unpack_nil, ofNat_mod]
  rfl
theorem vcompress (vd : BitVec 6) (va : BitVec 6) (mask : BitVec 2) : Statement (.vcompress vd va mask) := of_word rfl (by decide) fun _ => by
  simp only [decWord, bitsAt_major, decMajor25, unpack_pack_cons, unpack_nil, ofNat_mod]
  rfl
theorem vexpand (vd : BitVec 6) (va : BitVec 6) (mask : BitVec 2) : Statement (.vexpand vd va mask) := of_word rfl (by decide) fun _ => by
  simp only [decWord, bitsAt_major, decMajor25, unpack_pack_cons, unpack_nil, ofNat_mod]
  rfl
theorem vzip (vd : BitVec 6) (va : BitVec 6) (vb : BitVec 6) (mask : BitVec 2) : Statement (.vzip vd va vb mask) := of_word rfl (by decide) fun _ => by
  simp only [decWord, bitsAt_major, decMajor25, unpack_pack_cons, unpack_nil, ofNat_mod]
  rfl
theorem vunzip (vd : BitVec 6) (va : BitVec 6) (vb : BitVec 6) (mask : BitVec 2) : Statement (.vunzip vd va vb mask) := of_word rfl (by decide) fun _ => by
  simp only [decWord, bitsAt_major, decMajor25, unpack_pack_cons, unpack_nil, ofNat_mod]
  rfl
theorem vtrans (vd : BitVec 6) (va : BitVec 6) (mask : BitVec 2) : Statement (.vtrans vd va mask) := of_word rfl (by decide) fun _ => by
  simp only [decWord, bitsAt_major, decMajor25, unpack_pack_cons, unpack_nil, ofNat_mod]
  rfl
theorem vmerge (vd : BitVec 6) (va : BitVec 6) (vb : BitVec 6) (mask : BitVec 2) : Statement (.vmerge vd va vb mask) := of_word rfl (by decide) fun _ => by
  simp only [decWord, bitsAt_major, decMajor25, unpack_pack_cons, unpack_nil, ofNat_mod]
  rfl
theorem vmv (vd : BitVec 6) (va : BitVec 6) (mask : BitVec 2) : Statement (.vmv vd va mask) := of_word rfl (by decide) fun _ => by
  simp only [decWord, bitsAt_major, decMajor25, unpack_pack_cons, unpack_nil, ofNat_mod]
  rfl
theorem vtidx (vd : BitVec 6) (va : BitVec 6) (entry : BitVec 4) : Statement (.vtidx vd va entry) := of_word rfl (by decide) fun _ => by
  simp (disch := decide) only [decWord, bitsAt_major, decMajor25, unpack_pack_cons, unpack_nil, ofNat_mod, pack_mod]
  rfl
theorem vid (vd : BitVec 6) : Statement (.vid vd) := of_word rfl (by decide) fun _ => by
  simp only [decWord, bitsAt_major, decMajor25, unpack_pack_cons, unpack_nil, ofNat_mod]
  rfl
theorem vquant (vd : BitVec 6) (va : BitVec 6) (tag : Tag) (mask : BitVec 2) : Statement (.vquant vd va tag mask) := of_word rfl (by decide) fun _ => by
  simp only [decWord, bitsAt_major, decMajor25, unpack_pack_cons, unpack_nil, ofNat_mod, withTag_code]
  rfl
theorem vdeq (vd : BitVec 6) (va : BitVec 6) (tag : Tag) (mask : BitVec 2) : Statement (.vdeq vd va tag mask) := of_word rfl (by decide) fun _ => by
  simp only [decWord, bitsAt_major, decMajor25, unpack_pack_cons, unpack_nil, ofNat_mod, withTag_code]
  rfl
theorem vhaar (vd : BitVec 6) (va : BitVec 6) (lev : BitVec 3) (mask : BitVec 2) : Statement (.vhaar vd va lev mask) := of_word rfl (by decide) fun _ => by
  simp (disch := decide) only [decWord, bitsAt_major, decMajor26, unpack_pack_cons, unpack_nil, ofNat_mod, pack_mod]
  rfl
theorem vihaar (vd : BitVec 6) (va : BitVec 6) (mask : BitVec 2) : Statement (.vihaar vd va mask) := of_word rfl (by decide) fun _ => by
  simp only [decWord, bitsAt_major, decMajor26, unpack_pack_cons, unpack_nil, ofNat_mod]
  rfl
theorem vthr (vd : BitVec 6) (va : BitVec 6) (mask : BitVec 2) : Statement (.vthr vd va mask) := of_word rfl (by decide) fun _ => by
  simp only [decWord, bitsAt_major, decMajor26, unpack_pack_cons, unpack_nil, ofNat_mod]
  rfl
theorem vsig (md : BitVec 3) (va : BitVec 6) (mask : BitVec 2) : Statement (.vsig md va mask) := of_word rfl (by decide) fun _ => by
  simp (disch := decide) only [decWord, bitsAt_major, decMajor26, unpack_pack_cons, unpack_nil, ofNat_mod, pack_mod]
  rfl
theorem vdom (xd : BitVec 5) (va : BitVec 6) : Statement (.vdom xd va) := of_word rfl (by decide) fun _ => by
  simp (disch := decide) only [decWord, bitsAt_major, decMajor26, unpack_pack_cons, unpack_nil, ofNat_mod, pack_mod]
  rfl
theorem vstw (vs : BitVec 6) (xb : BitVec 5) (lev : BitVec 3) (thr : BitVec 1) (mask : BitVec 2) (ord : Ord) (scope : Scope) (evict : BitVec 3) : Statement (.vstw vs xb lev thr mask ord scope evict) := of_double rfl (by decide) fun _ => by
  simp only [decDouble, bitsAt_class, decClass02, unpack_pack_cons, unpack_nil, ofNat_mod, withScope_code, ofCode_code]
  rfl
theorem tclr (tile : BitVec 3) (exp : BitVec 10) (slot : BitVec 4) (set : BitVec 1) (wait : BitVec 16) : Statement (.tclr tile exp slot set wait) := of_double rfl (by decide) fun _ => by
  simp only [decDouble, bitsAt_class, decClass00, unpack_pack_cons, unpack_nil, ofNat_mod]
  rfl
theorem bpacc (tile : BitVec 3) (va : BitVec 6) (vb : BitVec 6) (am : BitVec 2) (bm : BitVec 2) (slot : BitVec 4) (set : BitVec 1) (wait : BitVec 16) : Statement (.bpacc tile va vb am bm slot set wait) := of_double rfl (by decide) fun _ => by
  simp only [decDouble, bitsAt_class, decClass00, unpack_pack_cons, unpack_nil, ofNat_mod]
  rfl
theorem bpsub (tile : BitVec 3) (va : BitVec 6) (vb : BitVec 6) (am : BitVec 2) (bm : BitVec 2) (slot : BitVec 4) (set : BitVec 1) (wait : BitVec 16) : Statement (.bpsub tile va vb am bm slot set wait) := of_double rfl (by decide) fun _ => by
  simp only [decDouble, bitsAt_class, decClass00, unpack_pack_cons, unpack_nil, ofNat_mod]
  rfl
theorem mrd (vd : BitVec 6) (tile : BitVec 3) (xb : BitVec 5) (slot : BitVec 4) (set : BitVec 1) (wait : BitVec 16) : Statement (.mrd vd tile xb slot set wait) := of_double rfl (by decide) fun _ => by
  simp (disch := decide) only [decDouble, bitsAt_class, decClass00, unpack_pack_cons, unpack_nil, ofNat_mod, pack_mod]
  rfl
theorem mcol (vd : BitVec 6) (tile : BitVec 3) (xb : BitVec 5) (slot : BitVec 4) (set : BitVec 1) (wait : BitVec 16) : Statement (.mcol vd tile xb slot set wait) := of_double rfl (by decide) fun _ => by
  simp (disch := decide) only [decDouble, bitsAt_class, decClass00, unpack_pack_cons, unpack_nil, ofNat_mod, pack_mod]
  rfl
theorem mwr (tile : BitVec 3) (va : BitVec 6) (xb : BitVec 5) (slot : BitVec 4) (set : BitVec 1) (wait : BitVec 16) : Statement (.mwr tile va xb slot set wait) := of_double rfl (by decide) fun _ => by
  simp (disch := decide) only [decDouble, bitsAt_class, decClass00, unpack_pack_cons, unpack_nil, ofNat_mod, pack_mod]
  rfl
theorem mld (tile : BitVec 3) (xa : BitVec 5) (xb : BitVec 5) (slot : BitVec 4) (set : BitVec 1) (wait : BitVec 16) : Statement (.mld tile xa xb slot set wait) := of_double rfl (by decide) fun _ => by
  simp (disch := decide) only [decDouble, bitsAt_class, decClass00, unpack_pack_cons, unpack_nil, ofNat_mod, pack_mod]
  rfl
theorem mst (tile : BitVec 3) (xa : BitVec 5) (xb : BitVec 5) (slot : BitVec 4) (set : BitVec 1) (wait : BitVec 16) : Statement (.mst tile xa xb slot set wait) := of_double rfl (by decide) fun _ => by
  simp (disch := decide) only [decDouble, bitsAt_class, decClass00, unpack_pack_cons, unpack_nil, ofNat_mod, pack_mod]
  rfl
theorem mwait (slot : BitVec 4) (wait : BitVec 16) : Statement (.mwait slot wait) := of_double rfl (by decide) fun _ => by
  simp only [decDouble, bitsAt_class, decClass00, unpack_pack_cons, unpack_nil, ofNat_mod]
  rfl
theorem hbind (vd : BitVec 6) (va : BitVec 6) (vb : BitVec 6) (mask : BitVec 2) : Statement (.hbind vd va vb mask) := of_word rfl (by decide) fun _ => by
  simp only [decWord, bitsAt_major, decMajor27, unpack_pack_cons, unpack_nil, ofNat_mod]
  rfl
theorem hbundle (vd : BitVec 6) (va : BitVec 6) (mask : BitVec 2) : Statement (.hbundle vd va mask) := of_word rfl (by decide) fun _ => by
  simp only [decWord, bitsAt_major, decMajor27, unpack_pack_cons, unpack_nil, ofNat_mod]
  rfl
theorem hmaj (vd : BitVec 6) (va : BitVec 6) (vb : BitVec 6) (mask : BitVec 2) : Statement (.hmaj vd va vb mask) := of_word rfl (by decide) fun _ => by
  simp only [decWord, bitsAt_major, decMajor27, unpack_pack_cons, unpack_nil, ofNat_mod]
  rfl
theorem hperm (vd : BitVec 6) (va : BitVec 6) (xb : BitVec 5) (mask : BitVec 2) : Statement (.hperm vd va xb mask) := of_word rfl (by decide) fun _ => by
  simp (disch := decide) only [decWord, bitsAt_major, decMajor27, unpack_pack_cons, unpack_nil, ofNat_mod, pack_mod]
  rfl
theorem hsim (xd : BitVec 5) (va : BitVec 6) (vb : BitVec 6) (mask : BitVec 2) : Statement (.hsim xd va vb mask) := of_word rfl (by decide) fun _ => by
  simp (disch := decide) only [decWord, bitsAt_major, decMajor27, unpack_pack_cons, unpack_nil, ofNat_mod, pack_mod]
  rfl
theorem hrand (vd : BitVec 6) (xb : BitVec 5) (mask : BitVec 2) : Statement (.hrand vd xb mask) := of_word rfl (by decide) fun _ => by
  simp (disch := decide) only [decWord, bitsAt_major, decMajor27, unpack_pack_cons, unpack_nil, ofNat_mod, pack_mod]
  rfl
theorem hclean (xd : BitVec 5) (va : BitVec 6) (xb : BitVec 5) (xn : BitVec 5) : Statement (.hclean xd va xb xn) := of_double rfl (by decide) fun _ => by
  simp only [decDouble, bitsAt_class, decClass06, unpack_pack_cons, unpack_nil, ofNat_mod]
  rfl
theorem hfact (xd : BitVec 5) (va : BitVec 6) (xb : BitVec 5) (xn : BitVec 5) : Statement (.hfact xd va xb xn) := of_double rfl (by decide) fun _ => by
  simp only [decDouble, bitsAt_class, decClass06, unpack_pack_cons, unpack_nil, ofNat_mod]
  rfl
theorem cpy (xd : BitVec 5) (xs : BitVec 5) (xn : BitVec 5) (chunk : BitVec 3) (chan : BitVec 2) (cm : BitVec 2) (bar : BitVec 1) (xbar : BitVec 5) (ord : Ord) (scope : Scope) (evict : BitVec 3) : Statement (.cpy xd xs xn chunk chan cm bar xbar ord scope evict) := of_double rfl (by decide) fun _ => by
  simp only [decDouble, bitsAt_class, decClass03, unpack_pack_cons, unpack_nil, ofNat_mod, withScope_code, ofCode_code]
  rfl
theorem cpyz (xd : BitVec 5) (xn : BitVec 5) (chunk : BitVec 3) (chan : BitVec 2) (cm : BitVec 2) (bar : BitVec 1) (xbar : BitVec 5) (ord : Ord) (scope : Scope) (evict : BitVec 3) : Statement (.cpyz xd xn chunk chan cm bar xbar ord scope evict) := of_double rfl (by decide) fun _ => by
  simp only [decDouble, bitsAt_class, decClass03, unpack_pack_cons, unpack_nil, ofNat_mod, withScope_code, ofCode_code]
  rfl
theorem cmask (cm : BitVec 2) : Statement (.cmask cm) := of_double rfl (by decide) fun _ => by
  simp only [decDouble, bitsAt_class, decClass03, unpack_pack_cons, unpack_nil, ofNat_mod]
  rfl
theorem collRed (vd : BitVec 6) (va : BitVec 6) (gk : BitVec 3) (op : BitVec 4) (mask : BitVec 2) : Statement (.collRed vd va gk op mask) := of_double rfl (by decide) fun _ => by
  simp only [decDouble, bitsAt_class, decClass04, unpack_pack_cons, unpack_nil, ofNat_mod]
  rfl
theorem collGat (vd : BitVec 6) (va : BitVec 6) (gk : BitVec 3) (mask : BitVec 2) : Statement (.collGat vd va gk mask) := of_double rfl (by decide) fun _ => by
  simp only [decDouble, bitsAt_class, decClass04, unpack_pack_cons, unpack_nil, ofNat_mod]
  rfl
theorem collSct (vd : BitVec 6) (va : BitVec 6) (gk : BitVec 3) (xroot : BitVec 5) (mask : BitVec 2) : Statement (.collSct vd va gk xroot mask) := of_double rfl (by decide) fun _ => by
  simp only [decDouble, bitsAt_class, decClass04, unpack_pack_cons, unpack_nil, ofNat_mod]
  rfl
theorem collBc (vd : BitVec 6) (va : BitVec 6) (gk : BitVec 3) (xroot : BitVec 5) (mask : BitVec 2) : Statement (.collBc vd va gk xroot mask) := of_double rfl (by decide) fun _ => by
  simp only [decDouble, bitsAt_class, decClass04, unpack_pack_cons, unpack_nil, ofNat_mod]
  rfl
theorem collA2a (vd : BitVec 6) (va : BitVec 6) (gk : BitVec 3) (mask : BitVec 2) : Statement (.collA2a vd va gk mask) := of_double rfl (by decide) fun _ => by
  simp only [decDouble, bitsAt_class, decClass04, unpack_pack_cons, unpack_nil, ofNat_mod]
  rfl
theorem gset (gk : BitVec 3) (xa : BitVec 5) : Statement (.gset gk xa) := of_double rfl (by decide) fun _ => by
  simp (disch := decide) only [decDouble, bitsAt_class, decClass04, unpack_pack_cons, unpack_nil, ofNat_mod, pack_mod]
  rfl
theorem li (rd : BitVec 5) (imm : BitVec 50) : Statement (.li rd imm) := of_double rfl (by decide) fun _ => by
  simp only [decDouble, bitsAt_class, decClass05, unpack_pack_cons, unpack_nil, ofNat_mod]
  rfl
theorem liHi (rd : BitVec 5) (imm : BitVec 50) : Statement (.liHi rd imm) := of_double rfl (by decide) fun _ => by
  simp only [decDouble, bitsAt_class, decClass05, unpack_pack_cons, unpack_nil, ofNat_mod]
  rfl
theorem hAddi (rd : BitVec 5) (imm : BitVec 6) : Statement (.hAddi rd imm) := of_half rfl (by decide) fun _ => by
  simp (disch := decide) only [decHalf, unpack_pack_cons, unpack_nil, ofNat_mod, pack_mod]
  rfl
theorem hLi (rd : BitVec 5) (imm : BitVec 6) : Statement (.hLi rd imm) := of_half rfl (by decide) fun _ => by
  simp (disch := decide) only [decHalf, unpack_pack_cons, unpack_nil, ofNat_mod, pack_mod]
  rfl
theorem hMv (rd : BitVec 5) (ra : BitVec 5) : Statement (.hMv rd ra) := of_half rfl (by decide) fun _ => by
  simp (disch := decide) only [decHalf, unpack_pack_cons, unpack_nil, ofNat_mod, pack_mod]
  rfl
theorem hAdd (rd : BitVec 5) (ra : BitVec 5) : Statement (.hAdd rd ra) := of_half rfl (by decide) fun _ => by
  simp (disch := decide) only [decHalf, unpack_pack_cons, unpack_nil, ofNat_mod, pack_mod]
  rfl
theorem hSub (rd : BitVec 5) (ra : BitVec 5) : Statement (.hSub rd ra) := of_half rfl (by decide) fun _ => by
  simp (disch := decide) only [decHalf, unpack_pack_cons, unpack_nil, ofNat_mod, pack_mod]
  rfl
theorem hLdD (rd : BitVec 5) (rb : BitVec 5) (imm : BitVec 1) : Statement (.hLdD rd rb imm) := of_half rfl (by decide) fun _ => by
  simp (disch := decide) only [decHalf, unpack_pack_cons, unpack_nil, ofNat_mod, pack_mod]
  rfl
theorem hStD (rs : BitVec 5) (rb : BitVec 5) (imm : BitVec 1) : Statement (.hStD rs rb imm) := of_half rfl (by decide) fun _ => by
  simp (disch := decide) only [decHalf, unpack_pack_cons, unpack_nil, ofNat_mod, pack_mod]
  rfl
theorem hLdW (rd : BitVec 5) (rb : BitVec 5) (imm : BitVec 1) : Statement (.hLdW rd rb imm) := of_half rfl (by decide) fun _ => by
  simp (disch := decide) only [decHalf, unpack_pack_cons, unpack_nil, ofNat_mod, pack_mod]
  rfl
theorem hStW (rs : BitVec 5) (rb : BitVec 5) (imm : BitVec 1) : Statement (.hStW rs rb imm) := of_half rfl (by decide) fun _ => by
  simp (disch := decide) only [decHalf, unpack_pack_cons, unpack_nil, ofNat_mod, pack_mod]
  rfl
theorem hBeqz (ra : BitVec 5) (off : BitVec 6) : Statement (.hBeqz ra off) := of_half rfl (by decide) fun _ => by
  simp (disch := decide) only [decHalf, unpack_pack_cons, unpack_nil, ofNat_mod, pack_mod]
  rfl
theorem hBnez (ra : BitVec 5) (off : BitVec 6) : Statement (.hBnez ra off) := of_half rfl (by decide) fun _ => by
  simp (disch := decide) only [decHalf, unpack_pack_cons, unpack_nil, ofNat_mod, pack_mod]
  rfl
theorem hJ (off : BitVec 11) : Statement (.hJ off) := of_half rfl (by decide) fun _ => by
  simp (disch := decide) only [decHalf, unpack_pack_cons, unpack_nil, ofNat_mod, pack_mod]
  rfl
theorem hLoopnext (off : BitVec 11) : Statement (.hLoopnext off) := of_half rfl (by decide) fun _ => by
  simp (disch := decide) only [decHalf, unpack_pack_cons, unpack_nil, ofNat_mod, pack_mod]
  rfl
theorem hVadd (vd : BitVec 5) (va : BitVec 5) : Statement (.hVadd vd va) := of_half rfl (by decide) fun _ => by
  simp (disch := decide) only [decHalf, unpack_pack_cons, unpack_nil, ofNat_mod, pack_mod]
  rfl
theorem hNop : Statement .hNop := of_half rfl (by decide) fun _ => by
  simp (disch := decide) only [decHalf, unpack_pack_cons, unpack_nil, ofNat_mod, pack_mod]
  rfl
theorem hBrk (imm : BitVec 10) : Statement (.hBrk imm) := of_half rfl (by decide) fun _ => by
  simp (disch := decide) only [decHalf, unpack_pack_cons, unpack_nil, ofNat_mod, pack_mod]
  rfl
theorem bwphaseWrite (k : CtxKey) (v : Word) : Statement (.bwphaseWrite k v) := of_none rfl
theorem hartExitComplete (k : CtxKey) : Statement (.hartExitComplete k) := of_none rfl
theorem barWaitComplete (k : CtxKey) : Statement (.barWaitComplete k) := of_none rfl
theorem tkwaitComplete (k : CtxKey) : Statement (.tkwaitComplete k) := of_none rfl
theorem matrixComplete (k : CtxKey) (n : Nat) : Statement (.matrixComplete k n) := of_none rfl
theorem copyChunk (k : CtxKey) (xfer chunk : Nat) : Statement (.copyChunk k xfer chunk) := of_none rfl
theorem copyTransferFinish (k : CtxKey) (xfer : Nat) : Statement (.copyTransferFinish k xfer) := of_none rfl
theorem collectiveComplete (k : CtxKey) : Statement (.collectiveComplete k) := of_none rfl
theorem takeTrap (k : CtxKey) : Statement (.takeTrap k) := of_none rfl
theorem faultRecordWrite (part : Nat) : Statement (.faultRecordWrite part) := of_none rfl
theorem faultQueueHeadWrite (part : Nat) (v : Word) : Statement (.faultQueueHeadWrite part v) := of_none rfl
theorem registerPoison (k : CtxKey) (site : PoisonSite) : Statement (.registerPoison k site) := of_none rfl
theorem contextKill (k : CtxKey) (pa sub : Nat) : Statement (.contextKill k pa sub) := of_none rfl
theorem dispatchDecision (part : Nat) : Statement (.dispatchDecision part) := of_none rfl
theorem preempt (part : Nat) : Statement (.preempt part) := of_none rfl
theorem contextSaveEnd (k : CtxKey) : Statement (.contextSaveEnd k) := of_none rfl
theorem hostLaunch (part : Nat) (rec : List Byte) : Statement (.hostLaunch part rec) := of_none rfl
theorem taskEnd (part : Nat) (task : Word) : Statement (.taskEnd part task) := of_none rfl
theorem completionRecordWrite (part : Nat) : Statement (.completionRecordWrite part) := of_none rfl
theorem cqheadWrite (part : Nat) (v : Word) : Statement (.cqheadWrite part v) := of_none rfl
theorem hostKill (part : Nat) (v : Word) : Statement (.hostKill part v) := of_none rfl
theorem hostShootdown (part : Nat) (v : Word) : Statement (.hostShootdown part v) := of_none rfl
theorem responderShootdown (core : Nat) : Statement (.responderShootdown core) := of_none rfl
theorem shootdownComplete (part : Nat) : Statement (.shootdownComplete part) := of_none rfl
theorem pteInsert (part t f : Nat) (v : Word) : Statement (.pteInsert part t f v) := of_none rfl
theorem pteRemove (part t f : Nat) (v : Word) : Statement (.pteRemove part t f v) := of_none rfl
theorem migrationStart (part t f : Nat) (v : Word) : Statement (.migrationStart part t f v) := of_none rfl
theorem migrationLineCopy (t f : Nat) : Statement (.migrationLineCopy t f) := of_none rfl
theorem migrationSwitch (t f : Nat) : Statement (.migrationSwitch t f) := of_none rfl
theorem migrationEnd (t f : Nat) : Statement (.migrationEnd t f) := of_none rfl
theorem linePrefetch (k : CtxKey) (addr : Word) : Statement (.linePrefetch k addr) := of_none rfl
theorem lineWriteback (line : Nat) : Statement (.lineWriteback line) := of_none rfl
theorem bankIdleStandby (bank : Nat) : Statement (.bankIdleStandby bank) := of_none rfl
theorem bankIdleRetention (bank : Nat) : Statement (.bankIdleRetention bank) := of_none rfl
theorem bankWake (bank : Nat) : Statement (.bankWake bank) := of_none rfl
theorem bankPowerOff (bank : Nat) : Statement (.bankPowerOff bank) := of_none rfl
theorem bankWakeForAllocation (bank : Nat) : Statement (.bankWakeForAllocation bank) := of_none rfl
theorem phaseAcknowledge (k : CtxKey) : Statement (.phaseAcknowledge k) := of_none rfl
theorem phaseWithdraw (bank : Nat) : Statement (.phaseWithdraw bank) := of_none rfl
theorem thermalEmergency : Statement .thermalEmergency := of_none rfl
theorem bankRetireRequest (bank : Nat) : Statement (.bankRetireRequest bank) := of_none rfl
theorem remappingStep (bank : Nat) : Statement (.remappingStep bank) := of_none rfl
theorem segmodeWrite (part : Nat) (hi : Bool) (v : Word) : Statement (.segmodeWrite part hi v) := of_none rfl
theorem segmentModeChangeComplete (part seg : Nat) : Statement (.segmentModeChangeComplete part seg) := of_none rfl
theorem partitionEnable (part : Nat) (frames : List (Nat × Nat × Nat)) : Statement (.partitionEnable part frames) := of_none rfl
theorem columnRemove (part : Nat) (map : BitVec 32) : Statement (.columnRemove part map) := of_none rfl
theorem columnAdd (part : Nat) (map : BitVec 32) : Statement (.columnAdd part map) := of_none rfl
theorem columnDrainComplete (part col : Nat) : Statement (.columnDrainComplete part col) := of_none rfl
theorem channelDrop (part : Nat) (map : BitVec 448) : Statement (.channelDrop part map) := of_none rfl
theorem channelAdd (part : Nat) (map : BitVec 448) : Statement (.channelAdd part map) := of_none rfl
theorem shareWrite (part : Nat) (x : Bool) (v : Word) : Statement (.shareWrite part x v) := of_none rfl
theorem configRegisterWrite (part : Nat) (phys : Bool) (off : Nat) (v : Word) : Statement (.configRegisterWrite part phys off v) := of_none rfl
theorem hostBar2Access (part : Nat) (p : HostPlace) (w : Option Word) : Statement (.hostBar2Access part p w) := of_none rfl
theorem tokenBucketRefill (bucket n : Nat) : Statement (.tokenBucketRefill bucket n) := of_none rfl
theorem powerThrottle (stage : Nat) : Statement (.powerThrottle stage) := of_none rfl
theorem blufoldDLinkFailure (link : Nat) : Statement (.blufoldDLinkFailure link) := of_none rfl
theorem flitReplayRequest (port : Nat) (r : Replay) : Statement (.flitReplayRequest port r) := of_none rfl
theorem portDown (port : Nat) : Statement (.portDown port) := of_none rfl
theorem portUp (p : PortSetup) : Statement (.portUp p) := of_none rfl
theorem readRequest (p : Packet) : Statement (.readRequest p) := of_none rfl
theorem readResponse (p : Packet) : Statement (.readResponse p) := of_none rfl
theorem write (p : Packet) : Statement (.write p) := of_none rfl
theorem writeAcknowledgement (p : Packet) : Statement (.writeAcknowledgement p) := of_none rfl
theorem atomic (p : Packet) : Statement (.atomic p) := of_none rfl
theorem atomicResponse (p : Packet) : Statement (.atomicResponse p) := of_none rfl
theorem collectiveContribution (p : Packet) (c : Contribution) : Statement (.collectiveContribution p c) := of_none rfl
theorem collectiveResult (p : Packet) : Statement (.collectiveResult p) := of_none rfl
theorem linkControl (p : Packet) : Statement (.linkControl p) := of_none rfl
theorem requestResend (tag : Nat) : Statement (.requestResend tag) := of_none rfl
theorem compressorOn (port : Nat) : Statement (.compressorOn port) := of_none rfl
theorem compressorOff (port : Nat) : Statement (.compressorOff port) := of_none rfl
theorem refresh (bank : Nat) : Statement (.refresh bank) := of_none rfl
theorem refreshManagement (bank : Nat) : Statement (.refreshManagement bank) := of_none rfl
theorem emberQuiesce (bus : Nat) : Statement (.emberQuiesce bus) := of_none rfl
theorem emberDemandPreempt (bus : Nat) : Statement (.emberDemandPreempt bus) := of_none rfl
theorem emberLaneFailure (bus group lane : Nat) : Statement (.emberLaneFailure bus group lane) := of_none rfl
theorem spareLaneRemap (bus group : Nat) : Statement (.spareLaneRemap bus group) := of_none rfl
theorem deviceReset : Statement .deviceReset := of_none rfl
theorem imageVerify (stage source : Nat) (img : List Byte) : Statement (.imageVerify stage source img) := of_none rfl
theorem recoveryWindowWrite (off : Nat) (bytes : List Byte) : Statement (.recoveryWindowWrite off bytes) := of_none rfl
theorem recgo (len : Word) : Statement (.recgo len) := of_none rfl
theorem qgo (v : Word) : Statement (.qgo v) := of_none rfl
theorem quoteRequest (nonce : BitVec 256) : Statement (.quoteRequest nonce) := of_none rfl
theorem quoteSign : Statement .quoteSign := of_none rfl
theorem stewardWatchdogExpiry (core : Nat) : Statement (.stewardWatchdogExpiry core) := of_none rfl
theorem deviceFatalError (cause ukind unit : Nat) : Statement (.deviceFatalError cause ukind unit) := of_none rfl
theorem dumpComplete (part : Bool) : Statement (.dumpComplete part) := of_none rfl
theorem dumpRelease (v : Word) : Statement (.dumpRelease v) := of_none rfl
theorem hotReset : Statement .hotReset := of_none rfl
theorem uncorrectableMemoryError (tagNibble : Bool) (pa : Nat) : Statement (.uncorrectableMemoryError tagNibble pa) := of_none rfl
theorem powerFailure : Statement .powerFailure := of_none rfl
theorem coreClockCycle (core : Nat) : Statement (.coreClockCycle core) := of_none rfl
theorem dirtySectorWriteback (core sector : Nat) : Statement (.dirtySectorWriteback core sector) := of_none rfl
theorem blufoldDFlitRetry (link : Nat) : Statement (.blufoldDFlitRetry link) := of_none rfl
theorem imageFetchFailure : Statement .imageFetchFailure := of_none rfl

end Sys2Proof.Laws.RoundTrip
end

