-- ==== Sys2Proof/Tests/Slice0.lean ====
section
/-! SUPPORT. Tests: terms that are not well formed are refused, words decode as the layouts say, one step of an instruction gives
what a rule or a worked example states, and for every statement of Obligations.lean a state and operands that meet its
hypotheses. Expected results come from the rules named in the comments, worked by hand. -/

namespace Sys2Proof.Tests

set_option Elab.async false

open Sys2Proof Sys2Proof.Machine Sys2Proof.Claims

/-! ## Well-formedness (R24, R30, R58, R60, R64-R66) -/

theorem test_illformed_ord : (Instr.ldD 1 2 .ar .hart 0 0).illFormed = some .reservedOrd := by decide
theorem test_illformed_copy_ord : (Instr.cpy 1 2 3 0 0 0 0 0 .acq .hart 0).illFormed = some .reservedOrd := by decide
theorem test_illformed_csr : (Instr.csrr 1 0x006).illFormed = some .unlistedCsr := by decide
theorem test_illformed_mask : (Instr.vcmpEq 0 1 2 0).illFormed = some .maskZero := by decide
theorem test_illformed_levels : (Instr.vstw 8 1 0 0 0 .pl .hart 0).illFormed = some .levelsZero := by decide
theorem test_illformed_vldc : (Instr.vldc 8 1 7 0 .pl .hart 0).illFormed = some .vldcWhole := by decide
theorem test_illformed_barrier : (Instr.cpy 1 2 3 0 0 0 0 4 .pl .hart 0).illFormed = some .barrierField := by decide
theorem test_illformed_event : encode? (.deviceReset) = none := by decide

/-! ## Decoding (R56-R67) -/

theorem test_decode_words : ∀ x ∈ sampleWords, decodeBits x.1 x.2.1 = .ok x.2.2 := by decide +kernel

/-- `addi x5, zr, 2` as bytes in memory. -/
theorem test_decode_bytes : decode [0x05, 0x05, 0x08, 0x00, 0xFF] = .ok (.addi 5 0 2, [0xFF]) := by decide +kernel

/-- R67: zeros never execute. -/
theorem test_decode_zeros : decode [0, 0, 0, 0] = .error .reservedParcel := by decide +kernel

/-- R56: bits 2:0 = 111. -/
theorem test_decode_length : decode [0x07, 0, 0, 0] = .error .reservedLength := by decide +kernel

/-- R58: a field marked 0 that is not 0 (`clz` with `rb` = 1). -/
theorem test_decode_fixed : decodeBits 4 0b000010110_00001_00010_00001_000000_01 = .error .nonzeroField := by decide +kernel

/-- R65: a reserved function of major 0x26. -/
theorem test_decode_function : decodeBits 4 0b0101_00_000000_000000_000000_100110_01 = .error .reservedFunction := by
  decide +kernel

theorem test_table_word : decodeTableWord 32 0x00080505 = some (.addi 5 0 2) := by decide +kernel

/-! ## States -/

/-- A running user context with one tile set and two scratchpad units, after reset. -/
def hart0 : Hart := { Hart.reset with
  status := .running, ctxid := 1, core := 3, ntiles := 8, spadUnits := 1, code := 5, pc := 5 * 2 ^ 40, harts := 1 }

/-- The same as the running context of a machine without memory. -/
def bare : State := { State.reset with cur := hart0 }

/-- A machine in which partition 0 has the initial table in one frame, a `CODE` buffer 5 in a second one, and in a third one
the `GEN` buffer 6 of one page, with all rights; `x12` holds its address value and `x10` that of its byte 64. -/
def lab : State :=
  let s := { bare with boot := { bare.boot with ready := true } }.withFetchWord 32 0x00080505
  let s1 := s.setPte 0 2 ⟨BitVec.ofNat 64 (1 + 6 * 2 ^ 8), 0, 0⟩
  let s2 := s1.place (physAddr 0 0 (32 * 6)) (leBytes 8 (2 ^ 31 + 1) ++ leBytes 8 (13 * 2 ^ 18))
  (s2.writeX 10 (6 * 2 ^ 40 + 64)).writeX 12 (6 * 2 ^ 40)

/-- The physical address of byte 64 of buffer 6. -/
def dataPa : Nat := 2 * 2 ^ 16 + 64

/-- The same machine with the bytes of a number at `x10`. -/
def labWith (v : Nat) : State := lab.place dataPa (leBytes 8 v)

/-- Whether a unit reaches one place. -/
def reachTest (s : State) (k : Kind) (dword code : Bool) (a : Word) (u : UnitAcc) (pa : Nat) (sp : Space) : Bool :=
  match s.reachOne ⟨addrIdx a, k, dword, code, false⟩ u with
  | .ok (sp1, [p]) _ => decide (sp1 = sp) && decide ({ p with lc := false } = ⟨u.off.toNat, u.n, .pkg pa, false, u.coords⟩)
  | _ => false

theorem reaches_of (s : State) (k : Kind) (dword code : Bool) (a : Word) (u : UnitAcc) (pa : Nat) (sp : Space)
    (h : reachTest s k dword code a u pa sp = true) : Reaches s k dword code a u pa sp := by
  unfold reachTest at h
  split at h
  · rename_i sp1 p s1 he
    simp only [Bool.and_eq_true, decide_eq_true_eq] at h
    obtain ⟨rfl, hp⟩ := h
    refine ⟨p.lc, s1, ?_⟩
    rw [he]
    obtain ⟨o, n, l, c, cs⟩ := p
    simp only [Piece1.mk.injEq] at hp
    obtain ⟨rfl, rfl, rfl, -, rfl⟩ := hp
    rfl
  · cases h

theorem clean_of (h : Hart) (rs : List (BitVec 5)) (hp : h.xPoison = 0) : Clean h rs := by
  intro r _
  simp [Hart.xPoisoned, hp]

theorem unpoisoned_of (s : State) (pa n : Nat) (hp : s.poison = []) : Unpoisoned s pa n := by
  intro a _ _
  simp [hp]

/-- What buffer 6 of `lab` is. -/
def dataBuf : BufInfo := ⟨65536, 0, 0, 0, false, 13, 0, 0, 1⟩

theorem lab_clean (v : Nat) (rs : List (BitVec 5)) : Clean (labWith v).cur rs := clean_of _ _ rfl
theorem lab_unpoisoned (v pa n : Nat) : Unpoisoned (labWith v) pa n := unpoisoned_of _ _ _ rfl

theorem lab_reaches_read : Reaches (labWith 7) .read true true (6 * 2 ^ 40 + 64) (scalarUnit (6 * 2 ^ 40 + 64) 0 8) dataPa
    (.mem dataBuf) := reaches_of _ _ _ _ _ _ _ _ (by decide +kernel)

/-! ## One step of the scalar instructions -/

/-- `bare` with two numbers in `x2` and `x3`. -/
def two (a b : Word) : State := (bare.writeX 2 a).writeX 3 b

/-- What an execution leaves in a scalar register. -/
def xAfter (o : Out) (r : BitVec 5) : Option Word :=
  match o with
  | .next t => some (t.readX r)
  | _ => none

/-- The PC after an execution. -/
def pcAfter (o : Out) : Option Word :=
  match o with
  | .next t => some t.cur.pc
  | _ => none

/-- The trap that an execution takes: cause and `EREC1`. -/
def trapAfter (o : Out) : Option (Nat × Nat) :=
  match o with
  | .next t => if t.cur.status = .stopping .trap then some (t.cur.csr.ecause.toNat % 256, t.cur.csr.erec1.toNat) else none
  | _ => none

/-- R80: sums are modulo `2^64`. -/
theorem test_add_wraps : xAfter (exec (.add 1 2 3) (two (-1) 2)) 1 = some 1 := by decide +kernel
/-- R17: `x0` discards its write, and the PC moves on. -/
theorem test_add_x0 : xAfter (exec (.add 0 2 3) (two 5 6)) 0 = some 0 ∧
    pcAfter (exec (.add 0 2 3) (two 5 6)) = some (5 * 2 ^ 40 + 4) := by decide +kernel
theorem test_sub : xAfter (exec (.sub 1 2 3) (two 1 2)) 1 = some (-1) := by decide +kernel
/-- R80: `andn` clears the bits of `rb`. -/
theorem test_andn : xAfter (exec (.andn 1 2 3) (two 0xFF 0x0F)) 1 = some 0xF0 := by decide +kernel
/-- R80: a shift takes the low 6 bits of `rb`. -/
theorem test_sra : xAfter (exec (.sra 1 2 3) (two (-16) 66)) 1 = some (-4) := by decide +kernel
theorem test_sltu : xAfter (exec (.sltu 1 2 3) (two 1 (-1))) 1 = some 1 := by decide +kernel
theorem test_slt : xAfter (exec (.slt 1 2 3) (two 1 (-1))) 1 = some 0 := by decide +kernel
theorem test_mulh : xAfter (exec (.mulh 1 2 3) (two (-1) 2)) 1 = some (-1) := by decide +kernel
theorem test_mulhu : xAfter (exec (.mulhu 1 2 3) (two (-1) 2)) 1 = some 1 := by decide +kernel
/-- R81: rounded toward zero; a divisor of 0 gives quotient 0 and the dividend as remainder. -/
theorem test_div : xAfter (exec (.div 1 2 3) (two (-7) 2)) 1 = some (-3) := by decide +kernel
theorem test_rem_zero : xAfter (exec (.rem 1 2 3) (two (-7) 0)) 1 = some (-7) := by decide +kernel
theorem test_clz : xAfter (exec (.clz 1 2) (two 1 0)) 1 = some 63 := by decide +kernel
theorem test_ctz_zero : xAfter (exec (.ctz 1 2) (two 0 0)) 1 = some 64 := by decide +kernel
/-- R83: `lui` shifts its immediate by 14. -/
theorem test_lui : xAfter (exec (.lui 1 1) bare) 1 = some 0x4000 := by decide +kernel
theorem test_li_hi : xAfter (exec (.liHi 2 1) (two 5 0)) 2 = some 0x4005 := by decide +kernel
/-- R67: a 16-bit form moves the PC by 2. -/
theorem test_h_addi : xAfter (exec (.hAddi 2 0x3F) (two 5 0)) 2 = some 4 ∧
    pcAfter (exec (.hAddi 2 0x3F) (two 5 0)) = some (5 * 2 ^ 40 + 2) := by decide +kernel
theorem test_beq_taken : pcAfter (exec (.beq 2 3 4) (two 5 5)) = some (5 * 2 ^ 40 + 8) := by decide +kernel
/-- R89, R13: a target in another buffer. -/
theorem test_beq_leaves : trapAfter (exec (.beq 2 3 0x7FE) (two 5 5)) = some (cRIGHT, 5 * 2 ^ 40 - 4) := by decide +kernel
theorem test_jalr_odd : trapAfter (exec (.jalr 1 2 0) (two (5 * 2 ^ 40 + 1) 0)) = some (cALIGN, 5 * 2 ^ 40 + 1) := by
  decide +kernel
/-- R91, R19: a group of 8 registers of 2048 bytes holds 4096 elements of 32 bits; `VL` is the smaller number. -/
theorem test_loop_set : (match exec (.loopSet 2 .f32 3 0 0) (two 10000 0) with
    | .next t => some (t.cur.csr.lrem.toNat, t.cur.csr.vl.toNat)
    | _ => none) = some (10000, 4096) := by decide +kernel
theorem test_csrw_fcsr : (match exec (.csrw 1 1 2) (two (-1) 0) with
    | .next t => some (t.readCsr 1)
    | _ => none) = some 0xFF := by decide +kernel
theorem test_svc : trapAfter (exec (.svc 3) bare) = some (0x0D, 3) := by decide +kernel
/-- R16: a user context. -/
theorem test_eret_user : trapAfter (exec .eret bare) = some (0x0F, (Instr.eret).bits.toNat) := by decide +kernel

/-! ## Witnesses: scalar instructions and control -/

theorem witness_ScalarArithmetic : aluRow (.add 1 2 3) = some (1, 2, 3, fun x y => word (x.toInt + y.toInt)) ∧
    Clean (two 1 0).cur [2, 3] ∧ ZeroRun ((two 1 0).readX 2) (63 - ·) 63 ∧ ZeroRun ((two 1 0).readX 2) id 0 ∧
    ZeroRun ((two 1 0).readX 3) id 64 :=
  ⟨rfl, clean_of _ _ (by decide), by unfold ZeroRun; decide +kernel, by unfold ZeroRun; decide +kernel,
    by unfold ZeroRun; decide +kernel⟩

theorem witness_ScalarDivision : Clean (two (-7) 2).cur [2, 3] := clean_of _ _ (by decide)

theorem witness_Immediates : immRow bare (.addi 0 2 0x2000) = some (4, 0, [2], word ((bare.readX 2).toInt + -8192)) ∧
    Clean bare.cur [2] := ⟨by decide +kernel, clean_of _ _ rfl⟩

/-- A branch that is taken, one that is not, and one whose target lies below the buffer. -/
theorem witness_Branches :
    (∃ c, branchRow (two 5 5) (.beq 2 3 4) = some (4, [2, 3], c, 4) ∧ c ∧ SameBuffer (two 5 5) (place (two 5 5) 4)) ∧
    (∃ c, branchRow (two 5 6) (.beq 2 3 4) = some (4, [2, 3], c, 4) ∧ ¬c) ∧
    (∃ c, branchRow (two 5 5) (.beq 2 3 0x7FE) = some (4, [2, 3], c, -2) ∧ c ∧
      ¬SameBuffer (two 5 5) (place (two 5 5) (-2))) ∧ Clean (two 5 5).cur [2, 3] ∧ Clean (two 5 6).cur [2, 3] :=
  ⟨⟨_, rfl, by decide, by unfold SameBuffer; decide +kernel⟩, ⟨_, rfl, by decide⟩,
    ⟨_, rfl, by decide, by unfold SameBuffer; decide +kernel⟩, clean_of _ _ (by decide), clean_of _ _ (by decide)⟩

/-- A jump in its buffer, an odd target, and a target in another buffer. -/
theorem witness_Jumps :
    (jumpRow bare (.jal 1 2) = some (4, 1, [], 5 * 2 ^ 40 + 4) ∧ SameBuffer bare (5 * 2 ^ 40 + 4)) ∧
    (jumpRow (two (5 * 2 ^ 40 + 1) 0) (.jalr 1 2 0) = some (4, 1, [2], 5 * 2 ^ 40 + 1) ∧
      (5 * 2 ^ 40 + 1 : Word).getLsbD 0 = true) ∧
    (jumpRow (two 8 0) (.jalr 1 2 0) = some (4, 1, [2], 8) ∧ ¬SameBuffer (two 8 0) 8) ∧ Clean (two 8 0).cur [2] := by
  refine ⟨⟨by decide +kernel, ?_⟩, ⟨by decide +kernel, by decide⟩, ⟨by decide +kernel, ?_⟩, clean_of _ _ (by decide)⟩ <;>
    unfold SameBuffer <;> decide +kernel

/-- `bare` in farm 0, which holds ten elements in strips of 4. -/
def farmed : State := { withFarm bare 0 ⟨10, .f32, 0, 4, 1⟩ with cur := { hart0 with farm := some 0, farmSets := 0 } }

theorem witness_LoopsAndFarms :
    (nextRow (.loopNext 0x3FF4) = some (4, -12) ∧ ¬SameBuffer bare (place bare (-12))) ∧
    (nextRow (.hLoopnext 2) = some (2, 2) ∧ SameBuffer bare (place bare 2) ∧ bare.cur.farm = none) ∧
    farmOf bare 0 = .reset ∧
    (farmOf farmed 0 ≠ .reset ∧ (farmOf farmed 0).n = 10 ∧ (farmOf farmed 0).tag = .f32 ∧ (farmOf farmed 0).grp = 0) ∧
    farmed.cur.farm = some 0 ∧ SameBuffer farmed (place farmed 2) ∧ Clean farmed.cur [2] := by
  refine ⟨⟨rfl, ?_⟩, ⟨rfl, ?_, rfl⟩, ?_, ?_, rfl, ?_, clean_of _ _ rfl⟩ <;> (try unfold SameBuffer) <;> decide +kernel

/-- A supervisor. -/
def sup : State := { bare with cur := { hart0 with supv := true } }

theorem witness_CsrAccess : (0x112 : BitVec 10).toNat ≠ 0x020 ∧ sup.cur.supv = true ∧
    csrRow bare (.csrs 1 0x004 0) = some (0x004, 1, [0], fun _ => none) ∧ Clean bare.cur [0] :=
  ⟨by decide, rfl, rfl, clean_of _ _ rfl⟩

/-- A context that waits for its end. -/
def ending : State := { bare with cur := { hart0 with status := .waiting .exit, exitVal := 9 } }

theorem witness_CallsAndExit : supervisorBits .eret = some (Instr.eret).bits ∧
    supervisorBits (.csrr 1 0x100) = some (Instr.csrr 1 0x100).bits ∧ bare.cur.supv = false ∧
    (bare.cur.status = .running ∧ bare.cur.xfers = [] ∧ bare.cur.matq = [] ∧ Clean bare.cur [2]) ∧
    (ending.cur.status = .waiting .exit ∧ ending.cur.key = ⟨0, 1⟩ ∧
      ∀ h ∈ ending.harts, h.status ≠ .waiting (.ctxSave 1)) :=
  ⟨rfl, rfl, rfl, ⟨rfl, rfl, rfl, clean_of _ _ rfl⟩, rfl, rfl, by decide +kernel⟩

/-! ## Memory -/

/-- R85, R86: a signed byte. -/
theorem test_ld_b : xAfter (exec (.ldB 1 10 .pl .hart 0 0) (labWith 0x80)) 1 = some (-128) := by decide +kernel
/-- R85: the offset is scaled by the size. -/
theorem test_ld_hu : xAfter (exec (.ldHu 1 10 .pl .hart 0 1) (labWith 0x8765_4321)) 1 = some 0x8765 := by decide +kernel
/-- R112: `ALIGN` before `BOUND`. -/
theorem test_ld_align : trapAfter (exec (.ldD 1 10 .pl .hart 0 0) (lab.writeX 10 (6 * 2 ^ 40 + 65533))) =
    some (cALIGN, 6 * 2 ^ 40 + 65533) := by decide +kernel
theorem test_ld_bound : trapAfter (exec (.ldW 1 10 .pl .hart 0 1) (lab.writeX 10 (6 * 2 ^ 40 + 65532))) =
    some (cBOUND, 6 * 2 ^ 40 + 65536) := by decide +kernel
/-- R85: a halfword stored is read back by the same core. -/
theorem test_st_h : (match exec (.stH 10 10 .pl .hart 0 0) (labWith (-1 : BitVec 64).toNat) with
    | .next t => some (t.coreBytes 3 dataPa 3)
    | _ => none) = some [0x40, 0x00, 0xFF] := by decide +kernel
/-- R198: the old value, and the sum at the home. -/
theorem test_amo_add : (match exec (.amoAdd 1 10 10 .pl .hart) (labWith 1) with
    | .next t => some (t.readX 1, leNat ((List.range 8).map fun j => t.homeByte (dataPa + j)))
    | _ => none) = some (1, 6 * 2 ^ 40 + 65) := by decide +kernel
/-- R207: the last arrival flips the parity and restores the count. -/
theorem test_bar_arv : (match exec (.barArv 1 10 .hart) (labWith 0x0003_0001) with
    | .next t => some (t.readX 1, leNat ((List.range 8).map fun j => t.homeByte (dataPa + j)))
    | _ => none) = some (0, 0x1_0003_0003) := by decide +kernel

theorem witness_Loads : loadRow (.ldD 1 10 .ar .sys 0 0) = some ⟨4, 8, false, 1, 10, 0, .ar, .sys⟩ ∧
    releasesAt .ar .sys = true ∧ releasesAt .pl .hart = false ∧ acquiresAt .ar .sys = true ∧
    Reaches (labWith 7) .read true true ((labWith 7).readX 10) (scalarUnit ((labWith 7).readX 10) 0 8) dataPa (.mem dataBuf) ∧
    Clean (labWith 7).cur [10] ∧ Unpoisoned (labWith 7) dataPa 8 :=
  ⟨rfl, rfl, rfl, rfl, reaches_of _ _ _ _ _ _ _ _ (by decide +kernel), lab_clean _ _, lab_unpoisoned _ _ _⟩

theorem witness_Stores : storeRow (.stW 1 10 .pl .hart 5 1) = some ⟨4, 4, 1, 10, 4, .pl, .hart, 5⟩ ∧
    Reaches lab .write false true (lab.readX 10) (scalarUnit (lab.readX 10) 4 4) (dataPa + 4) (.mem dataBuf) ∧
    Clean lab.cur [1, 10] :=
  ⟨rfl, reaches_of _ _ _ _ _ _ _ _ (by decide +kernel), clean_of _ _ rfl⟩

/-- A register that addresses the last doubleword of the scratchpad's unit. -/
def pad : State := bare.writeX 10 (0xFFFFFF * 2 ^ 40 + 0x3FFF8)

/-- A byte of the scratchpad that a transfer is to make zero. -/
def chained : State :=
  let s := pad.writeX 10 (0xFFFFFF * 2 ^ 40)
  { s with cur := { s.cur.writeSpad 0 [7] with
      xfers := [⟨0, 0xFFFFFF * 2 ^ 40, 0, 256, 0, 0, .hart, .pl, 0, false, 0, 1, true, 0, 0, 0, none⟩] } }

/-- R241: a scratchpad load waits for the chunk that it reads. -/
theorem test_ld_chain : xAfter (exec (.ldD 1 10 .pl .hart 0 0) chained) 1 = some 0 := by decide +kernel

theorem witness_Scratchpad : loadRow (.ldD 1 10 .pl .hart 0 0) = some ⟨4, 8, false, 1, 10, 0, .pl, .hart⟩ ∧
    storeRow (.stD 1 10 .pl .hart 0 0) = some ⟨4, 8, 1, 10, 0, .pl, .hart, 0⟩ ∧ Clean pad.cur [1, 10] ∧
    (pad.readX 10).toNat / 2 ^ 40 = 0xFFFFFF ∧ (pad.readX 10).toNat % 2 ^ 40 = 0x3FFF8 ∧ 0x3FFF8 % 8 = 0 ∧
    0x3FFF8 + 8 ≤ pad.cur.spadUnits * 2 ^ 18 ∧ Unchained pad.cur ∧
    (Clean chained.cur [10] ∧ (chained.readX 10).toNat = 0xFFFFFF * 2 ^ 40 ∧ ∃ x, chained.cur.xfers = [x] ∧ x.zero = true ∧
      x.stopped = none ∧ x.dst.toNat = 0xFFFFFF * 2 ^ 40 ∧ x.n.toNat = 256 ∧ 256 ≤ copyMax x.chunk ∧
      256 ≤ chained.cur.spadUnits * 2 ^ 18 ∧ x.count = 1 ∧ x.finished.getLsbD 0 = false) :=
  ⟨rfl, rfl, clean_of _ _ (by decide), by decide +kernel, by decide +kernel, by decide, by decide +kernel,
    (by intro x h; cases h), clean_of _ _ (by decide), by decide +kernel, _, rfl, rfl, rfl, by decide +kernel, by decide +kernel,
    by decide +kernel, by decide +kernel, by decide +kernel, by decide +kernel⟩

/-- An access of the lab that reaches its place, one that the access tables refuse (R347), and addresses that fail each check
in turn. -/
theorem witness_AccessChecks :
    ((lab.space 6).1 = .mem dataBuf ∧ dataBuf.allows lab.cur.ctxid.toNat .read = true ∧
      (lab.space 6).2.walk ⟨0, 0, 6, (dataBuf.locate 64).1, (dataBuf.locate 64).2 / 2 ^ 16⟩ = some 2 ∧
      copiesOf (lab.space 6).2 false ⟨0, 0, 6, (dataBuf.locate 64).1, 0⟩ = [] ∧ lab.migrations = []) ∧
    (Admitted lab (16 + tableStack 0) .read ∧ Admitted lab 0 .read) ∧ ¬Admitted { lab with access := [] } 0 .read ∧
    loadRow (.ldD 1 10 .pl .hart 0 0) = some ⟨4, 8, false, 1, 10, 0, .pl, .hart⟩ ∧ 65533 % 8 ≠ 0 ∧
    dataBuf.len < 65536 + 8 ∧ (lab.space 5).1 = .mem ⟨65536, 0, 4, 0, false, 10, 0, 0, 1⟩ ∧
    (⟨65536, 0, 4, 0, false, 10, 0, 0, 1⟩ : BufInfo).allows 1 .write = false ∧ (lab.space 9).1 = .null ∧
    Clean lab.cur [10] :=
  ⟨⟨by decide +kernel, by decide +kernel, by decide +kernel, by decide +kernel, rfl⟩,
    ⟨by unfold Admitted; decide +kernel, by unfold Admitted; decide +kernel⟩, by unfold Admitted; decide +kernel, rfl,
    by decide, by decide,
    by decide +kernel, by decide +kernel, by decide +kernel, clean_of _ _ rfl⟩

theorem witness_Atomics : amoRow (.amoCas 1 2 10 .rel .stack) = some (1, 2, 10, .rel, .stack, [10, 2, 1],
      fun x c old => if old = c then x else old) ∧ Clean lab.cur [10, 2, 1] ∧ Unpoisoned lab dataPa 8 ∧
    Reaches lab .atomic false false (lab.readX 10) (scalarUnit (lab.readX 10) 0 8) dataPa (.mem dataBuf) :=
  ⟨rfl, clean_of _ _ rfl, unpoisoned_of _ _ _ rfl, reaches_of _ _ _ _ _ _ _ _ (by decide +kernel)⟩

theorem at_word (v : Nat) (h : reachTest (labWith v) .atomic false false ((labWith v).readX 10)
    (scalarUnit ((labWith v).readX 10) 0 8) dataPa (.mem dataBuf) = true) :
    AtWord (labWith v) ((labWith v).readX 10) dataPa (.mem dataBuf) :=
  ⟨reaches_of _ _ _ _ _ _ _ _ h, lab_unpoisoned _ _ _⟩

/-- An armed word in either parity, one that is not armed, and the counts that `bar.init` takes and refuses. -/
theorem witness_Barriers :
    AtWord (labWith 0x0003_0001) ((labWith 0x0003_0001).readX 10) dataPa (.mem dataBuf) ∧
    AtWord (labWith 0x0003_0004) ((labWith 0x0003_0004).readX 10) dataPa (.mem dataBuf) ∧
    (valueAt (labWith 0x0003_0001) dataPa 8 = 0x0003_0001 ∧ Armed 0x0003_0001 ∧ phaseOf 0x0003_0001 = 0) ∧
    (Armed 0x1_0003_0003 ∧ phaseOf 0x1_0003_0003 = 1) ∧ (valueAt (labWith 0x0003_0004) dataPa 8 = 0x0003_0004 ∧
    ¬Armed 0x0003_0004) ∧ Clean (labWith 0x0003_0001).cur [10] ∧ (labWith 0x0003_0001).cur.status = .running ∧
    (labWith 0x0003_0001).cur.wstate = none ∧ ((two 0 65535).readX 2).toNat = 0 ∧ ((two 0 65535).readX 3).toNat = 65535 := by
  refine ⟨at_word _ (by decide +kernel), at_word _ (by decide +kernel), ⟨by decide +kernel, ?_, by decide⟩, ⟨?_, by decide⟩,
    ⟨by decide +kernel, ?_⟩, lab_clean _ _, rfl, rfl, by decide +kernel, by decide +kernel⟩ <;> unfold Armed <;> decide

theorem witness_CacheControl : Clean lab.cur [10] ∧ (lab.readX 10).toNat / 2 ^ 40 ≠ 0xFFFFFF ∧
    (pad.readX 10).toNat / 2 ^ 40 = 0xFFFFFF ∧
    Reaches lab .wb false true (lab.readX 10) ⟨0, [], 0, 256, 1⟩ (2 * 2 ^ 16) (.mem dataBuf) ∧
    Reaches lab .write false true (lab.readX 10) ⟨0, [], 0, 256, 1⟩ (2 * 2 ^ 16) (.mem dataBuf) ∧
    Reaches lab .exec false true (5 * 2 ^ 40) ⟨0, [], 0, 256, 1⟩ (2 ^ 16)
      (.mem ⟨65536, 0, 4, 0, false, 10, 0, 0, 1⟩) :=
  ⟨clean_of _ _ rfl, by decide +kernel, by decide +kernel, reaches_of _ _ _ _ _ _ _ _ (by decide +kernel),
    reaches_of _ _ _ _ _ _ _ _ (by decide +kernel), reaches_of _ _ _ _ _ _ _ _ (by decide +kernel)⟩

/-! ## Vector states -/

/-- A vector register of words in `w`-bit elements. -/
def vreg (t : Tag) (dom grp valen : Nat) (bits : BitVec 16384) : VReg :=
  ⟨bits, ⟨t, BitVec.ofNat 3 dom, BitVec.ofNat 2 grp, BitVec.ofNat 15 valen, false⟩, 0⟩

/-- A context with `VL` elements, the tag of all of `v8` to `v11`, and the bits of `v8` and `v9`. -/
def vhart (t : Tag) (dom vl : Nat) (a b : BitVec 16384) : Hart := { hart0 with
  csr := { hart0.csr with vl := BitVec.ofNat 15 vl }
  v := (((hart0.v.setIfInBounds 8 (vreg t dom 0 vl a)).setIfInBounds 9 (vreg t dom 0 vl b)).setIfInBounds 10
    (vreg t dom 0 vl a)).setIfInBounds 11 (vreg t dom 0 vl b) }

/-- `bare` with these registers. -/
def vstate (t : Tag) (dom vl : Nat) (a b : BitVec 16384) : State := { bare with cur := vhart t dom vl a b }

/-- An element of a register after an execution. -/
def elemAfter (o : Out) (r : BitVec 6) (k : Nat) : Option Nat :=
  match o with
  | .next t => some (t.cur.unit (t.cur.opnd r) k)
  | _ => none

theorem healthy_of (h : Hart) (hx : h.xPoison = 0) (hv : ∀ k < 64, (h.vreg k).poison = 0)
    (hm : ∀ k < 8, (h.m.getD k .reset).poison = 0) (hc : h.xfers = []) (hl : h.flights = [] := by rfl) : Healthy h := by
  refine ⟨hx, fun k => ?_, fun k => ?_, fun x hm => ?_, hl⟩
  · by_cases hk : k < 64
    · exact hv k hk
    · show (h.v.toArray.getD k .reset).poison = 0
      rw [Array.getD, dif_neg (by simpa using hk)]
      rfl
  · by_cases hk : k < 8
    · exact hm k hk
    · show (h.m.toArray.getD k .reset).poison = 0
      rw [Array.getD, dif_neg (by simpa using hk)]
      rfl
  · rw [hc] at hm
    cases hm

theorem vhart_healthy (t : Tag) (dom vl : Nat) (a b : BitVec 16384)
    (hv : ∀ k < 64, ((vhart t dom vl a b).vreg k).poison = 0) : Healthy (vhart t dom vl a b) :=
  healthy_of _ rfl hv (show ∀ k < 8, (hart0.m.getD k .reset).poison = 0 by decide +kernel) rfl

/-! ## One step of the vector instructions -/

/-- R129: integers modulo `2^w`. -/
theorem test_vadd : elemAfter (exec (.vadd 10 8 9 0) (vstate .u8 0 2 0xFF 2)) 10 0 = some 1 := by decide +kernel
theorem test_vsub : elemAfter (exec (.vsub 10 8 9 0) (vstate .s16 0 2 5 7)) 10 0 = some 0xFFFE := by decide +kernel
/-- R128: `vfma` adds the old destination: 3 · 2 + 3. -/
theorem test_vfma : elemAfter (exec (.vfma 10 8 9 0) (vstate .s32 0 1 3 2)) 10 0 = some 9 := by decide +kernel
/-- R130: 1.0 + 1.0 = 2.0 in F32. -/
theorem test_vadd_f32 : elemAfter (exec (.vadd 10 8 9 0) (vstate .f32 0 1 0x3F800000 0x3F800000)) 10 0 =
    some 0x40000000 := by decide +kernel
/-- R128: 1.0 / 0 is infinite and sets `DZ`. -/
theorem test_vdiv_f32 : elemAfter (exec (.vdiv 10 8 9 0) (vstate .f32 0 1 0x3F800000 0)) 10 0 = some 0x7F800000 := by
  decide +kernel
/-- R136: `x - va`. -/
theorem test_vsub_x_rev : elemAfter (exec (.vsubXRev 10 8 2 0) { vstate .s32 0 1 3 0 with
    cur := (vhart .s32 0 1 3 0).writeX 2 10 }) 10 0 = some 7 := by decide +kernel
/-- R134, R22: 3 < 2 is false; element 1 lies in the next lane's word, and 3 < 5 is true. -/
theorem test_vcmp_lt : (match exec (.vcmpLt 1 8 9 0) (vstate .u8 0 2 0x3_0000_0003 0x5_0000_0002) with
    | .next t => some ((t.cur.m.getD 1 .reset).bits.toNat)
    | _ => none) = some 2 := by decide +kernel
/-- R135: 300 as an unsigned byte saturates. -/
theorem test_vcvt : elemAfter (exec (.vcvt 10 8 .u8 0) (vstate .s32 0 1 300 0)) 10 0 = some 255 := by decide +kernel
/-- R143: 1 + 2 + 3 + 4 and the accumulator 10. -/
theorem test_vredsum : elemAfter (exec (.vredsumOrd 10 8 9 0) (vstate .s32 0 4 0x4_0000_0003_0000_0002_0000_0001 10)) 10 0 =
    some 20 := by decide +kernel
/-- R146: element 0 of the result is element 1 of the source. -/
theorem test_vslidedn : elemAfter (exec (.vslidedn 10 8 2 0) { vstate .s32 0 2 0x7_0000_0005 0 with
    cur := (vhart .s32 0 2 0x7_0000_0005 0).writeX 2 1 }) 10 0 = some 7 := by decide +kernel
theorem test_vpopc : xAfter (exec (.vpopc 1 0 0) (vstate .s32 0 5 0 0)) 1 = some 5 := by decide +kernel
/-- R103: a register that is not aligned to the group. -/
theorem test_vcfg_odd : trapAfter (exec (.vcfg 9 .f32 0 1) bare) = some (cILL, (Instr.vcfg 9 .f32 0 1).bits.toNat) := by
  decide +kernel
/-- R104: `VL` is the smaller of the request and the group. -/
theorem test_vlreq : xAfter (exec (.vlreq 1 2 .f32 0 0 0) (two 1000 0)) 1 = some 512 := by decide +kernel

/-! ## Witnesses: vectors -/

theorem vec_operand (h : Hart) (r : BitVec 6) (len : Nat)
    (hd : decide (r.toNat % 2 ^ (h.opnd r).grp = 0 ∧
      (∀ k < 2 ^ (h.opnd r).grp, (h.vreg (r.toNat + k)).desc.tag = (h.opnd r).tag ∧
        (h.vreg (r.toNat + k)).desc.dom.toNat = (h.opnd r).dom ∧ (h.vreg (r.toNat + k)).desc.grp.toNat = (h.opnd r).grp) ∧
      (h.opnd r).tag ≠ .none ∧ len ≤ 2 ^ (h.opnd r).grp * tagCap (h.opnd r).tag) = true) : VecOperand h r len := by
  unfold VecOperand
  exact of_decide_eq_true hd

/-- The conditions of a computation on spatial registers, `r` the second one, without the old destination. -/
theorem ready_of (p : LaneSpec) (h : Hart) (t : Tag) (g : Nat) (hr : p.readsVd = false) (hl : ∀ l ∈ (p.doms h).list, l = 0)
    (hd : (h.opnd p.va).dom = 0) (ha : VecOperand h p.va h.csr.vl.toNat)
    (hs : match p.second with
      | .vec r => VecOperand h r h.csr.vl.toNat ∧ tagFamily (h.opnd r).tag ∈ p.fams
      | .none => True
      | _ => False)
    (hc : decide (p.type h = some t ∧ tagFamily t ∈ p.fams ∧ tagFamily (h.opnd p.va).tag ∈ p.fams ∧
      groupFor t h.csr.vl.toNat = some g ∧ p.vd.toNat % 2 ^ g = 0) = true) : LaneReady p h t g := by
  obtain ⟨h1, h2, h3, h4, h5⟩ := of_decide_eq_true hc
  refine ⟨ha, ?_, by rw [hr]; nofun, h1, h2, h3, fun r x e => ?_, fun r e => ?_, ⟨h4, h5⟩,
    fun l m => ⟨fun n => absurd (hl l m) n, fun _ => (hl l m).trans hd.symm⟩⟩
  · cases e : p.second <;> rw [e] at hs <;> first | exact hs.1 | trivial
  · rcases e with e | e <;> rw [e] at hs
    · exact hs.2
    · exact hs.elim
  · rw [e] at hs
    exact hs.elim

/-- Every register of a computation without the old destination is spatial and holds the tag. -/
theorem plain_of (p : LaneSpec) (h : Hart) (t : Tag) (hr : p.readsVd = false)
    (hc : decide ((h.opnd p.va).tag = t ∧ (h.opnd p.va).dom = 0) = true)
    (hs : match p.second with
      | .vec r => (h.opnd r).tag = t ∧ (h.opnd r).dom = 0
      | .none => True
      | _ => False) : Plain p h t := by
  obtain ⟨h1, h2⟩ := of_decide_eq_true hc
  refine ⟨h1, h2, fun r x e => ?_, fun r e => ?_, by rw [hr]; nofun⟩
  · rcases e with e | e <;> rw [e] at hs
    · exact hs
    · exact hs.elim
  · rw [e] at hs
    exact hs.elim

/-- The operands of `vadd v10, v8, v9`, of `vrcps`, and of an instruction on `v8` alone. -/
def laneTwo : LaneSpec := ⟨ifq, true, 8, .vec 9, false, 10, 0⟩
/-- The operands of `vrcps v10, v8, v9`. -/
def laneRefine : LaneSpec := ⟨[.float], false, 8, .vec 9, false, 10, 0⟩
/-- The operands of `vneg v10, v8`. -/
def laneOne : LaneSpec := ⟨ifq, true, 8, .none, false, 10, 0⟩

theorem ready_two (t : Tag) (vl : Nat) (ha : VecOperand (vhart t 0 vl 3 5) 8 (vhart t 0 vl 3 5).csr.vl.toNat)
    (hb : VecOperand (vhart t 0 vl 3 5) 9 (vhart t 0 vl 3 5).csr.vl.toNat) (p : LaneSpec) (hp : p = laneTwo ∨ p = laneRefine)
    (hl : (p.doms (vhart t 0 vl 3 5)).list = [0, 0])
    (hd : decide (((vhart t 0 vl 3 5).opnd 8).dom = 0 ∧ tagFamily ((vhart t 0 vl 3 5).opnd 9).tag ∈ p.fams) = true)
    (hc : decide (p.type (vhart t 0 vl 3 5) = some t ∧ tagFamily t ∈ p.fams ∧
      tagFamily ((vhart t 0 vl 3 5).opnd p.va).tag ∈ p.fams ∧
      groupFor t (vhart t 0 vl 3 5).csr.vl.toNat = some 0 ∧ p.vd.toNat % 2 ^ 0 = 0) = true) :
    LaneReady p (vhart t 0 vl 3 5) t 0 := by
  obtain ⟨h0, h1⟩ := of_decide_eq_true hd
  have hz : ∀ l ∈ (p.doms (vhart t 0 vl 3 5)).list, l = 0 := by
    rw [hl]
    simp
  rcases hp with rfl | rfl
  · exact ready_of _ _ _ _ rfl hz h0 ha ⟨hb, h1⟩ hc
  · exact ready_of _ _ _ _ rfl hz h0 ha ⟨hb, h1⟩ hc

/-- An integer computation of two registers, ready. -/
theorem ready_int : LaneReady laneTwo (vhart .s32 0 64 3 5) .s32 0 :=
  ready_two _ _ (vec_operand _ _ _ (by decide +kernel)) (vec_operand _ _ _ (by decide +kernel)) _ (.inl rfl)
    (by decide +kernel) (by decide +kernel) (by decide +kernel)

/-- A float computation of two registers, ready. -/
theorem ready_float (p : LaneSpec) (hp : p = laneTwo ∨ p = laneRefine) : LaneReady p (vhart .f32 0 64 3 5) .f32 0 := by
  refine ready_two _ _ (vec_operand _ _ _ (by decide +kernel)) (vec_operand _ _ _ (by decide +kernel)) _ hp ?_ ?_ ?_ <;>
  · rcases hp with rfl | rfl <;> decide +kernel

theorem plain_two (p : LaneSpec) (hp : p = laneTwo ∨ p = laneRefine) (t : Tag) (vl : Nat)
    (h8 : decide (((vhart t 0 vl 3 5).opnd 8).tag = t ∧ ((vhart t 0 vl 3 5).opnd 8).dom = 0) = true)
    (h9 : ((vhart t 0 vl 3 5).opnd 9).tag = t ∧ ((vhart t 0 vl 3 5).opnd 9).dom = 0) : Plain p (vhart t 0 vl 3 5) t := by
  rcases hp with rfl | rfl <;> exact plain_of _ _ _ rfl h8 h9

theorem plain_int : Plain laneTwo (vhart .s32 0 64 3 5) .s32 :=
  plain_two _ (.inl rfl) _ _ (by decide +kernel) (by decide +kernel)

theorem witness_Lanes : laneOf (.vadd 10 8 9 0) = some (4, laneTwo) ∧
    LaneReady laneTwo (vstate .s32 0 64 3 5).cur .s32 0 ∧
    Healthy (vstate .s32 0 64 3 5).cur := ⟨rfl, ready_int, vhart_healthy _ _ _ _ _ (by decide +kernel)⟩

/-- A tie of `BF16`, a format with a greatest pattern, and a list of values for a block. -/
theorem witness_Rounding : fmtBF16 ∈ [fmtF16, fmtBF16, fmtF32] ∧ (257 : Nat) ≠ 0 ∧
    fmtBF16.round ⟨.rne, false⟩ (.num false 257 0) = (0x4380, fNX) ∧
    (fmtF32.round ⟨.rne, false⟩ (.num false 1 128)).2 = fOF ||| fNX ∧ (-128 : Int) ≤ 127 ∧
    toIntSat .rne (-128) 127 (.num false 5 (-1)) = (2, fNX) ∧
    (List.replicate 32 (Val.num true 35 (-2), true)).length = 32 ∧
    (quantiseBlock true 4 (List.replicate 32 (Val.num true 35 (-2), true))).1 = ⟨1, false, List.replicate 32 (-4)⟩ := by
  decide +kernel

theorem witness_IntegerLanes : laneOf (.vadd 10 8 9 0) = some (4, laneTwo) ∧
    (intFn (.vadd 10 8 9 0)).isSome = true ∧ tagFamily .s32 = .int ∧
    LaneReady laneTwo (vstate .s32 0 64 3 5).cur .s32 0 ∧
    Plain laneTwo (vstate .s32 0 64 3 5).cur .s32 ∧ Healthy (vstate .s32 0 64 3 5).cur :=
  ⟨rfl, rfl, rfl, ready_int, plain_int, vhart_healthy _ _ _ _ _ (by decide +kernel)⟩

/-- A sum, a refinement and a change of sign of floats, and a sum of blocks whose group holds its tag already. -/
theorem witness_FloatLanes :
    (laneOf (.vadd 10 8 9 0) = some (4, laneTwo) ∧ (floatFn (.vadd 10 8 9 0)).isSome = true ∧ tagFamily .f32 = .float ∧
      LaneReady laneTwo (vstate .f32 0 64 3 5).cur .f32 0 ∧ Plain laneTwo (vstate .f32 0 64 3 5).cur .f32 ∧
      Healthy (vstate .f32 0 64 3 5).cur) ∧
    (laneOf (.vrcps 10 8 9 0) = some (4, laneRefine) ∧ (refineFn (.vrcps 10 8 9 0)).isSome = true ∧
      LaneReady laneRefine (vstate .f32 0 64 3 5).cur .f32 0 ∧ Plain laneRefine (vstate .f32 0 64 3 5).cur .f32) ∧
    (laneOf (.vneg 10 8 0) = some (4, laneOne) ∧ (signFn (.vneg 10 8 0)).isSome = true ∧
      LaneReady laneOne (vstate .f32 0 64 3 5).cur .f32 0 ∧ Plain laneOne (vstate .f32 0 64 3 5).cur .f32) ∧
    ((blockFn (.vadd 10 8 9 0)).isSome = true ∧ tagFamily (.q 7) = .block ∧
      LaneReady laneTwo (vstate (.q 7) 0 64 3 5).cur (.q 7) 0 ∧ Plain laneTwo (vstate (.q 7) 0 64 3 5).cur (.q 7) ∧
      Healthy (vstate (.q 7) 0 64 3 5).cur ∧ TailSettled (vstate (.q 7) 0 64 3 5).cur ⟨10, .q 7, 0, 0⟩ ∧
      Holds (vstate (.q 7) 0 64 3 5).cur ⟨10, .q 7, 0, 0⟩) := by
  refine ⟨⟨rfl, rfl, rfl, ready_float _ (.inl rfl), plain_two _ (.inl rfl) _ _ (by decide +kernel) (by decide +kernel),
      vhart_healthy _ _ _ _ _ (by decide +kernel)⟩,
    ⟨rfl, rfl, ready_float _ (.inr rfl), plain_two _ (.inr rfl) _ _ (by decide +kernel) (by decide +kernel)⟩,
    ⟨rfl, rfl, ready_of _ _ _ _ rfl ?_ (by decide +kernel) (vec_operand _ _ _ (by decide +kernel)) trivial (by decide +kernel),
      plain_of _ _ _ rfl (by decide +kernel) trivial⟩,
    ⟨rfl, rfl, ready_two _ _ (vec_operand _ _ _ (by decide +kernel)) (vec_operand _ _ _ (by decide +kernel)) _ (.inl rfl)
        (by decide +kernel) (by decide +kernel) (by decide +kernel),
      plain_two _ (.inl rfl) _ _ (by decide +kernel) (by decide +kernel), vhart_healthy _ _ _ _ _ (by decide +kernel),
      Or.inr (Or.inl (by decide +kernel)), ?_⟩⟩
  · rw [show (laneOne.doms (vstate .f32 0 64 3 5).cur).list = [0] by decide +kernel]
    simp
  · unfold Holds
    decide +kernel

/-- `vlog.acc` of a negative zero is minus infinity. -/
theorem witness_SpecialInputs : laneOf (.vlogAcc 10 8 0) = some (4, ⟨[.float], false, 8, .none, false, 10, 0⟩) ∧
    specialFn (.vlogAcc 10 8 0) = some (1, true) ∧
    LaneReady ⟨[.float], false, 8, .none, false, 10, 0⟩ (vstate .f32 0 1 0x80000000 0).cur .f32 0 ∧
    Plain ⟨[.float], false, 8, .none, false, 10, 0⟩ (vstate .f32 0 1 0x80000000 0).cur .f32 ∧
    Healthy (vstate .f32 0 1 0x80000000 0).cur ∧
    specialResult 1 ((tagFmt .f32).decode false ((vhart .f32 0 1 0x80000000 0).unit ((vhart .f32 0 1 0x80000000 0).opnd 8) 0)) =
      some (.inf true, fDZ) := by
  refine ⟨rfl, rfl, ready_of _ _ _ _ rfl ?_ (by decide +kernel) (vec_operand _ _ _ (by decide +kernel)) trivial
      (by decide +kernel), plain_of _ _ _ rfl (by decide +kernel) trivial, vhart_healthy _ _ _ _ _ (by decide +kernel),
    by decide +kernel⟩
  rw [show (LaneSpec.doms ⟨[.float], false, 8, .none, false, 10, 0⟩ (vstate .f32 0 1 0x80000000 0).cur).list = [0] by
    decide +kernel]
  simp

/-- The operands of `vcmp.lt m1, v8, v9`. -/
def compareTwo : LaneSpec := ⟨ifq, false, 8, .vec 9, false, 0, 0⟩

theorem compare_ready (h : Hart) (t : Tag) (ha : VecOperand h 8 h.csr.vl.toNat) (hb : VecOperand h 9 h.csr.vl.toNat)
    (hd : decide (LaneSpec.type compareTwo h = some t ∧ tagFamily t ∈ ifq ∧ (LaneSpec.doms compareTwo h).list = [0, 0]) = true) :
    CompareReady compareTwo h t := by
  obtain ⟨h1, h2, h3⟩ := of_decide_eq_true hd
  refine ⟨ha, fun r e => by cases e; exact hb, h1, h2, ?_⟩
  rw [h3]
  intro l hl
  simp only [List.mem_cons, List.not_mem_nil, or_false, or_self] at hl
  subst hl
  exact fun n => absurd rfl n

/-- Integers, floats and blocks that meet. -/
theorem witness_Compares : (∃ rel, compareOf (.vcmpLt 1 8 9 0) = some (1, compareTwo, rel)) ∧
    (CompareReady compareTwo (vstate .s32 0 64 3 5).cur .s32 ∧ Plain compareTwo (vstate .s32 0 64 3 5).cur .s32) ∧
    (CompareReady compareTwo (vstate .f32 0 64 3 5).cur .f32 ∧ Plain compareTwo (vstate .f32 0 64 3 5).cur .f32) ∧
    (CompareReady compareTwo (vstate (.q 7) 0 64 3 5).cur (.q 7) ∧ Plain compareTwo (vstate (.q 7) 0 64 3 5).cur (.q 7)) ∧
    Healthy (vstate .s32 0 64 3 5).cur ∧ Healthy (vstate .f32 0 64 3 5).cur ∧ Healthy (vstate (.q 7) 0 64 3 5).cur :=
  ⟨⟨_, rfl⟩,
    ⟨compare_ready _ _ (vec_operand _ _ _ (by decide +kernel)) (vec_operand _ _ _ (by decide +kernel)) (by decide +kernel),
      plain_of _ _ _ rfl (by decide +kernel) (show _ ∧ _ by decide +kernel)⟩,
    ⟨compare_ready _ _ (vec_operand _ _ _ (by decide +kernel)) (vec_operand _ _ _ (by decide +kernel)) (by decide +kernel),
      plain_of _ _ _ rfl (by decide +kernel) (show _ ∧ _ by decide +kernel)⟩,
    ⟨compare_ready _ _ (vec_operand _ _ _ (by decide +kernel)) (vec_operand _ _ _ (by decide +kernel)) (by decide +kernel),
      plain_of _ _ _ rfl (by decide +kernel) (show _ ∧ _ by decide +kernel)⟩,
    vhart_healthy _ _ _ _ _ (by decide +kernel), vhart_healthy _ _ _ _ _ (by decide +kernel),
    vhart_healthy _ _ _ _ _ (by decide +kernel)⟩

/-- Integers made bytes, floats made integers, and integers made blocks. -/
theorem witness_Conversions : (∃ ok, convertOf (.vcvt 10 8 .u8 0) = some (10, 8, .u8, 0, ok) ∧ ok .s32 = true) ∧
    VecOperand (vstate .s32 0 64 3 5).cur 8 64 ∧ VecDest 10 .u8 64 0 ∧ LengthFits (vstate .s32 0 64 3 5).cur 0 ∧
    ((vstate .s32 0 64 3 5).cur.opnd 8).dom = 0 ∧ Healthy (vstate .s32 0 64 3 5).cur ∧
    (VecOperand (vstate .f32 0 64 3 5).cur 8 64 ∧ ((vstate .f32 0 64 3 5).cur.opnd 8) = ⟨8, .f32, 0, 0⟩ ∧
      VecDest 10 .s8 64 0 ∧ Healthy (vstate .f32 0 64 3 5).cur) ∧
    ((∃ ok, convertOf (.vquant 10 8 (.q 7) 0) = some (10, 8, .q 7, 0, ok) ∧ ok .s32 = true) ∧ VecDest 10 (.q 7) 64 0 ∧
      TailSettled (vstate .s32 0 64 3 5).cur ⟨10, .q 7, 0, 0⟩ ∧ ¬Holds (vstate .s32 0 64 3 5).cur ⟨10, .q 7, 0, 0⟩) := by
  refine ⟨⟨_, rfl, rfl⟩, vec_operand _ _ _ (by decide +kernel), ⟨by decide +kernel, by decide⟩, fun h => absurd rfl h,
    by decide +kernel, vhart_healthy _ _ _ _ _ (by decide +kernel),
    ⟨vec_operand _ _ _ (by decide +kernel), by decide +kernel, ⟨by decide +kernel, by decide⟩,
      vhart_healthy _ _ _ _ _ (by decide +kernel)⟩,
    ⟨⟨_, rfl, rfl⟩, ⟨by decide +kernel, by decide⟩, Or.inr (Or.inl (by decide +kernel)), ?_⟩⟩
  unfold Holds
  decide +kernel

theorem witness_ElementMoves : VecDest 10 .s32 64 0 ∧ VecOperand (vstate .s32 0 64 3 5).cur 8 1 ∧
    ((vstate .s32 0 64 3 5).cur.opnd 10).tag = .s32 ∧ VecOperand (vstate .s32 0 64 3 5).cur 10 1 ∧
    Healthy (vstate .s32 0 64 3 5).cur :=
  ⟨⟨by decide +kernel, by decide⟩, vec_operand _ _ _ (by decide +kernel), by decide +kernel,
    vec_operand _ _ _ (by decide +kernel), vhart_healthy _ _ _ _ _ (by decide +kernel)⟩

/-- Sums of integers, of floats in both orders, and of blocks; the widening sum; and the conjunction of bits. -/
theorem witness_Reductions :
    (∃ f, reduceOf (vstate .s32 0 64 3 5).cur (.vredsumTree 10 8 9 0) = some (10, 8, 9, 0, some .s32, f)) ∧
    (VecOperand (vstate .s32 0 64 3 5).cur 8 64 ∧ VecOperand (vstate .s32 0 64 3 5).cur 9 1 ∧
      LengthFits (vstate .s32 0 64 3 5).cur 0 ∧ ((vstate .s32 0 64 3 5).cur.opnd 8) = ⟨8, .s32, 0, 0⟩ ∧
      ((vstate .s32 0 64 3 5).cur.opnd 9) = ⟨9, .s32, 0, 0⟩ ∧ Healthy (vstate .s32 0 64 3 5).cur) ∧
    ((∃ f, reduceOf (vstate .f32 0 64 3 5).cur (.vredsumOrd 10 8 9 0) = some (10, 8, 9, 0, some .f32, f)) ∧
      (∃ f, reduceOf (vstate .f32 0 64 3 5).cur (.vredsumTree 10 8 9 0) = some (10, 8, 9, 0, some .f32, f)) ∧
      (∃ op, stepOf false (.vredsumOrd 10 8 9 0) = some op) ∧ (64 : Nat) ≤ 2 ^ 6 ∧ 2 ^ (6 - 1) < (64 : Nat) ∧
      actives (vstate .f32 0 64 3 5).cur 0 ≠ [] ∧ actives (vstate .f32 0 64 3 5).cur 1 = [] ∧
      VecOperand (vstate .f32 0 64 3 5).cur 8 64 ∧ VecOperand (vstate .f32 0 64 3 5).cur 9 1 ∧
      ((vstate .f32 0 64 3 5).cur.opnd 8) = ⟨8, .f32, 0, 0⟩ ∧ ((vstate .f32 0 64 3 5).cur.opnd 9) = ⟨9, .f32, 0, 0⟩ ∧
      Healthy (vstate .f32 0 64 3 5).cur) ∧
    (∃ f, reduceOf (vstate .hb 0 64 3 5).cur (.vredand 10 8 9 0) = some (10, 8, 9, 0, some .hb, f)) ∧
    (∃ f, reduceOf (vstate .f16 0 64 3 5).cur (.vredsumw 10 8 9 0) = some (10, 8, 9, 0, some .f32, f)) ∧
    ((∃ f, reduceOf (vstate (.q 7) 0 64 3 5).cur (.vredmax 10 8 9 0) = some (10, 8, 9, 0, some (.q 7), f)) ∧
      (∃ op, stepOf true (.vredmax 10 8 9 0) = some op) ∧ VecOperand (vstate (.q 7) 0 64 3 5).cur 8 64 ∧
      VecOperand (vstate (.q 7) 0 64 3 5).cur 9 1 ∧ ((vstate (.q 7) 0 64 3 5).cur.opnd 8) = ⟨8, .q 7, 0, 0⟩ ∧
      ((vstate (.q 7) 0 64 3 5).cur.opnd 9) = ⟨9, .q 7, 0, 0⟩ ∧ Holds (vstate (.q 7) 0 64 3 5).cur ⟨10, .q 7, 0, 0⟩ ∧
      Packed (vstate (.q 7) 0 64 3 5).cur ⟨10, .q 7, 0, 0⟩ ∧ Healthy (vstate (.q 7) 0 64 3 5).cur) := by
  refine ⟨⟨_, rfl⟩, ⟨vec_operand _ _ _ (by decide +kernel), vec_operand _ _ _ (by decide +kernel),
      fun h => absurd rfl h, by decide +kernel, by decide +kernel, vhart_healthy _ _ _ _ _ (by decide +kernel)⟩,
    ⟨⟨_, rfl⟩, ⟨_, rfl⟩, ⟨_, rfl⟩, by decide, by decide, by decide +kernel, by decide +kernel,
      vec_operand _ _ _ (by decide +kernel), vec_operand _ _ _ (by decide +kernel), by decide +kernel, by decide +kernel,
      vhart_healthy _ _ _ _ _ (by decide +kernel)⟩, ⟨_, rfl⟩, ⟨_, rfl⟩,
    ⟨⟨_, rfl⟩, ⟨_, rfl⟩, vec_operand _ _ _ (by decide +kernel), vec_operand _ _ _ (by decide +kernel), by decide +kernel,
      by decide +kernel, ?_, ?_, vhart_healthy _ _ _ _ _ (by decide +kernel)⟩⟩
  · unfold Holds
    decide +kernel
  · unfold Packed
    decide +kernel

theorem witness_MaskInstructions : Healthy bare.cur ∧ (∃ f, maskRow bare.cur (.mand 1 0 2) = some (1, f)) ∧
    ∃ f, maskRow bare.cur (.mset 0) = some (0, f) :=
  ⟨healthy_of _ rfl (by decide +kernel) (by decide +kernel) rfl, ⟨_, rfl⟩, _, rfl⟩

/-- `vrot`: 1024 elements of `v8` alone. -/
theorem witness_Permutes : ∃ p, permuteOf (vstate .s32 0 64 3 5).cur (.vrot 10 8 2 0) = some p ∧
    PermuteReady p (vstate .s32 0 64 3 5).cur 0 ∧ Healthy (vstate .s32 0 64 3 5).cur ∧
    ∀ l ∈ p.doms (vstate .s32 0 64 3 5).cur, l = 0 := by
  have hd : ((vhart .s32 0 64 3 5).opnd 8).dom = 0 := by decide +kernel
  refine ⟨_, rfl, ⟨vec_operand _ _ _ (by decide +kernel), fun r h => ?_, rfl, nofun, nofun,
    ⟨by decide +kernel, by decide⟩, fun h => ?_, fun l hl => ?_⟩, vhart_healthy _ _ _ _ _ (by decide +kernel), fun l hl => ?_⟩
  · simp at h
  · exact absurd h (by decide +kernel)
  · simp only [PermuteRow.doms, Option.toList, List.append_nil, List.map_cons, List.map_nil, List.mem_singleton] at hl
    exact ⟨fun h => absurd (hl.trans hd) h, nofun⟩
  · simp only [PermuteRow.doms, Option.toList, List.append_nil, List.map_cons, List.map_nil, List.mem_singleton] at hl
    exact hl.trans hd

theorem witness_VectorConfig : (9 : BitVec 6).toNat % 2 ^ (1 : BitVec 2).toNat ≠ 0 ∧
    (8 : BitVec 6).toNat % 2 ^ (1 : BitVec 2).toNat = 0 ∧ Clean (two 1000 0).cur [2] := ⟨by decide, by decide, clean_of _ _ (by decide)⟩

/-- One Haar block of two levels, of integers and of blocks; and a thresholding of a wavelet operand. -/
theorem witness_HaarInstructions :
    ((∃ ok, haarOf (vstate .s32 0 128 3 5).cur (.vhaar 10 8 2 0) = some (10, 8, 0, ok, 2, 2) ∧ ok) ∧
      (∃ w, columnWork (vstate .s32 0 128 3 5).cur .s32 2 (.vhaar 10 8 2 0) = some w) ∧
      VecOperand (vstate .s32 0 128 3 5).cur 8 128 ∧ tagFamily .s32 ∈ ifq ∧ VecDest 10 .s32 128 0 ∧ 128 % (32 * 2 ^ 2) = 0 ∧
      maskBit (vstate .s32 0 128 3 5).cur 0 0 = true ∧ Healthy (vstate .s32 0 128 3 5).cur) ∧
    ((∃ ok, haarOf (vstate (.q 7) 0 128 3 5).cur (.vhaar 10 8 2 0) = some (10, 8, 0, ok, 2, 2) ∧ ok) ∧
      VecOperand (vstate (.q 7) 0 128 3 5).cur 8 128 ∧ tagFamily (.q 7) = .block ∧ VecDest 10 (.q 7) 128 0 ∧
      ((vstate (.q 7) 0 128 3 5).cur.opnd 8).tag = .q 7 ∧ Healthy (vstate (.q 7) 0 128 3 5).cur) ∧
    ((∃ ok, haarOf (vstate .s32 1 64 3 5).cur (.vthr 10 8 0) = some (10, 8, 0, ok, 1, 1) ∧ ok) ∧
      VecOperand (vstate .s32 1 64 3 5).cur 8 64 ∧ 64 % (32 * 2 ^ 1) = 0 ∧ Healthy (vstate .s32 1 64 3 5).cur) ∧
    (2 : BitVec 3) ≠ 0 ∧ 128 % 32 = 0 :=
  ⟨⟨⟨_, rfl, by decide +kernel⟩, ⟨_, rfl⟩, vec_operand _ _ _ (by decide +kernel), by decide, ⟨by decide +kernel, by decide⟩,
      by decide, by decide +kernel, vhart_healthy _ _ _ _ _ (by decide +kernel)⟩,
    ⟨⟨_, rfl, by decide +kernel⟩, vec_operand _ _ _ (by decide +kernel), rfl, ⟨by decide +kernel, by decide⟩, by decide +kernel,
      vhart_healthy _ _ _ _ _ (by decide +kernel)⟩,
    ⟨⟨_, rfl, by decide +kernel⟩, vec_operand _ _ _ (by decide +kernel), by decide,
      vhart_healthy _ _ _ _ _ (by decide +kernel)⟩, by decide, by decide⟩

theorem witness_HaarLossless : tagFamily .u8 = .int ∧ [255, 0].length = 2 ^ 1 ∧ ∀ x ∈ [255, 0], x < 2 ^ tagWidth .u8 := by
  decide

/-! ## Witnesses: vector memory, matrix, hypervectors -/

/-- `lab` with the vector registers of `vhart`. -/
def labV (t : Tag) (dom vl : Nat) (a b : BitVec 16384) : State :=
  { lab with cur := { lab.cur with
    v := (vhart t dom vl a b).v, csr := { lab.cur.csr with vl := BitVec.ofNat 15 vl } } }

/-- Whether units reach pieces of package memory that pass a further test. -/
def foundTest (s : State) (k : Kind) (gather : Bool) (a : Word) (us : List UnitAcc)
    (more : State → List (List Piece1) → UnitAcc → List Piece1 → Option Trap) (f : List (List Piece1) → Bool) : Bool :=
  let (sp, s1) := s.space (addrIdx a)
  match s1.reachUnits ⟨addrIdx a, k, false, false, gather⟩ sp more [] [] us with
    | .ok pss _ => f pss && pss.all fun ps => ps.all fun p => match p.loc with
      | .pkg _ => true
      | _ => false
    | _ => false

theorem all_pkg (pss : List (List Piece1)) (h : (pss.all fun ps => ps.all fun p => match p.loc with
    | .pkg _ => true
    | _ => false) = true) : ∀ ps ∈ pss, ∀ p ∈ ps, ∃ pa, p.loc = .pkg pa := by
  intro ps hps p hpp
  have := List.all_eq_true.1 (List.all_eq_true.1 h ps hps) p hpp
  split at this
  · rename_i pa hl
    exact ⟨pa, hl⟩
  · cases this

theorem checked_of (s : State) (k : Kind) (gather : Bool) (a : Word) (us : List UnitAcc)
    (more : State → List (List Piece1) → UnitAcc → List Piece1 → Option Trap) (f : List (List Piece1) → Bool)
    (hp : s.poison = []) (h : foundTest s k gather a us more f = true) :
    ∃ pss s2, (s.space (addrIdx a)).2.reachUnits ⟨addrIdx a, k, false, false, gather⟩ (s.space (addrIdx a)).1 more [] [] us =
        .ok pss s2 ∧ (∀ ps ∈ pss, ∀ p ∈ ps, ∃ pa, p.loc = .pkg pa) ∧ PiecesSound s pss ∧ f pss = true := by
  unfold foundTest at h
  simp only at h
  split at h
  · rename_i pss s2 he
    simp only [Bool.and_eq_true] at h
    exact ⟨pss, s2, he, all_pkg _ h.2, fun ps _ p _ pa _ => unpoisoned_of _ _ _ hp, h.1⟩
  · cases h

theorem found_of (s : State) (k : Kind) (gather : Bool) (a : Word) (us : List UnitAcc) (f : List (List Piece1) → Bool)
    (hp : s.poison = []) (h : foundTest s k gather a us noMore f = true) :
    ∃ pss, UnitsFound s k gather a (s.space (addrIdx a)).1 us pss ∧ PiecesSound s pss ∧ f pss = true := by
  obtain ⟨pss, s2, h1, h2, h3, h4⟩ := checked_of s k gather a us noMore f hp h
  exact ⟨pss, ⟨⟨_, s2, rfl, h1⟩, h2⟩, h3, h4⟩

theorem units_of (s : State) (k : Kind) (gather : Bool) (a : Word) (us : List UnitAcc) (hp : s.poison = [])
    (ha : (s.space (addrIdx a)).1.act? = none ∨ gather = true)
    (h : foundTest s k gather a us noMore (fun _ => true) = true) :
    ∃ pss, UnitsReach s k gather a us pss ∧ PiecesSound s pss := by
  obtain ⟨pss, h1, h2, -⟩ := found_of s k gather a us _ hp h
  exact ⟨pss, ⟨_, ha, h1⟩, h2⟩

/-- Whether all pieces have the tag copy `l`. -/
def tagsTest (s : State) (l : Nat) (pss : List (List Piece1)) : Bool :=
  pss.all fun ps => ps.all fun p => match p.loc with
    | .pkg pa => tagCopy s pa == l
    | _ => true

theorem tags_iff (s : State) (l : Nat) (pss : List (List Piece1)) : tagsTest s l pss = true ↔ TagsAre s pss l := by
  unfold tagsTest TagsAre
  simp only [List.all_eq_true]
  refine forall₂_congr fun ps _ => forall₂_congr fun p _ => ⟨fun h pa e => ?_, fun h => ?_⟩
  · simpa [e] using h
  · split
    · rename_i pa e
      simpa using h pa e
    · rfl

theorem labV_healthy (t : Tag) (dom vl : Nat) (a b : BitVec 16384)
    (hv : ∀ k < 64, ((labV t dom vl a b).cur.vreg k).poison = 0)
    (hm : ∀ k < 8, ((labV t dom vl a b).cur.m.getD k .reset).poison = 0) : Healthy (labV t dom vl a b).cur :=
  healthy_of _ rfl hv hm rfl

/-- `labV` with an `ACT` buffer 7 on stack 0's SRAM tier as well, to which the core is admitted, at `x11`; its domain tags are
1. -/
def labA (t : Tag) (dom vl : Nat) : State :=
  let s := labV t dom vl 3 5
  let p := s.part 0
  let s1 := ({ s with access := tset .reset s.access (accessKey 4 0) ⟨0, true, true, true⟩ }.setPart 0
    { p with chmap := p.chmap ||| (1 <<< 64) }).setPte 4 0 ⟨BitVec.ofNat 64 (1 + 7 * 2 ^ 8), BitVec.ofNat 64 (64 * 2 ^ 31), 0⟩
  ((s1.setFrame 4 0 (freshMeta false true 1)).place (physAddr 0 0 (32 * 7))
    (leBytes 8 (2 ^ 31 + 2 * 2 ^ 27 + 1) ++ leBytes 8 (12 * 2 ^ 18 + 2 ^ 15))).writeX 11 (7 * 2 ^ 40)

/-- What buffer 7 of `labA` is. -/
def actBuf : BufInfo := ⟨65536, 0, 2, 0, false, 12, 1, 0, 1 <<< 64⟩

/-- The units of a load or store of `v8` at `x11`. -/
abbrev actUnits (s : State) : List UnitAcc :=
  s.cur.maskUnits 0 (unitShape (s.cur.opnd 8).tag false).q (s.vmPlaces 8 11 (0 : BitVec 3).toNat)

/-- Two elements of `x10`'s buffer, the whole register `v8`, bits, and a block; of the `ACT` buffer a register of domain 1, and
bits, which may not have one. -/
theorem witness_VectorLoads :
    (∃ r, vloadOf (labV .s32 0 2 3 5) (.vld 8 10 0 0 .pl .hart 0) = some r ∧ r.ok ∧ LengthFits (labV .s32 0 2 3 5).cur 0 ∧ ∃ pss,
      UnitsReach (labV .s32 0 2 3 5) .read r.gather ((labV .s32 0 2 3 5).readX r.xb) r.us pss ∧
        PiecesSound (labV .s32 0 2 3 5) pss) ∧
    (VecOperand (labV .s32 0 2 3 5).cur 8 2 ∧ Healthy (labV .s32 0 2 3 5).cur ∧ WholeGroup (labV .s32 0 2 3 5).cur 8 ∧
      ∃ pss, UnitsReach (labV .s32 0 2 3 5) .read false ((labV .s32 0 2 3 5).readX 12) ((labV .s32 0 2 3 5).vmPlaces 8 12 7) pss ∧
        PiecesSound (labV .s32 0 2 3 5) pss) ∧
    (∃ r, vloadOf (labV .hb 0 32 3 5) (.vld 8 10 0 0 .pl .hart 0) = some r ∧ r.ok ∧ ∃ pss,
      UnitsReach (labV .hb 0 32 3 5) .read r.gather ((labV .hb 0 32 3 5).readX r.xb) r.us pss) ∧
    (∃ r, vloadOf (labV (.q 7) 0 32 3 5) (.vld 8 10 0 0 .pl .hart 0) = some r ∧ r.ok ∧ ∃ pss,
      UnitsReach (labV (.q 7) 0 32 3 5) .read r.gather ((labV (.q 7) 0 32 3 5).readX r.xb) r.us pss) ∧
    (∃ r, vloadOf (labA .s32 0 64) (.vld 8 11 0 0 .pl .hart 0) = some r ∧ r.ok ∧ r.gather = false ∧ r.us ≠ [] ∧
      ((labA .s32 0 64).space (addrIdx ((labA .s32 0 64).readX r.xb))).1.act? ≠ none ∧ LengthFits (labA .s32 0 64).cur 1 ∧
      VecOperand (labA .s32 0 64).cur r.vd 64 ∧ Healthy (labA .s32 0 64).cur ∧ ∃ pss,
      UnitsFound (labA .s32 0 64) .read false ((labA .s32 0 64).readX r.xb)
          ((labA .s32 0 64).space (addrIdx ((labA .s32 0 64).readX r.xb))).1 r.us pss ∧
        PiecesSound (labA .s32 0 64) pss ∧ TagsAre (labA .s32 0 64) pss 1) ∧
    (∃ r, vloadOf (labA .hb 0 64) (.vld 8 11 0 0 .pl .hart 0) = some r ∧ ((labA .hb 0 64).cur.opnd r.vd).tag = .hb ∧ ∃ pss,
      UnitsFound (labA .hb 0 64) .read false ((labA .hb 0 64).readX r.xb)
          ((labA .hb 0 64).space (addrIdx ((labA .hb 0 64).readX r.xb))).1 r.us pss ∧ ¬TagsAre (labA .hb 0 64) pss 0) := by
  refine ⟨⟨_, rfl, by decide +kernel, fun h => absurd rfl h, units_of _ _ _ _ _ rfl (.inl (by decide +kernel))
      (by decide +kernel)⟩,
    ⟨vec_operand _ _ _ (by decide +kernel), labV_healthy _ _ _ _ _ (by decide +kernel) (by decide +kernel), ?_,
      units_of _ _ _ _ _ rfl (.inl (by decide +kernel)) (by decide +kernel)⟩,
    ⟨_, rfl, by decide +kernel, (units_of _ _ _ _ _ rfl (.inl (by decide +kernel)) (by decide +kernel)).imp fun _ h => h.1⟩,
    ⟨_, rfl, by decide +kernel, (units_of _ _ _ _ _ rfl (.inl (by decide +kernel)) (by decide +kernel)).imp fun _ h => h.1⟩,
    ⟨_, rfl, by decide +kernel, rfl, by decide +kernel, by decide +kernel, fun _ => by decide +kernel,
      vec_operand _ _ _ (by decide +kernel),
      healthy_of _ (by decide +kernel) (by decide +kernel) (by decide +kernel) (by decide +kernel) (by decide +kernel), ?_⟩,
    ⟨_, rfl, by decide +kernel, ?_⟩⟩
  · unfold WholeGroup Holds
    decide +kernel
  · obtain ⟨pss, h1, h2, h3⟩ := found_of (labA .s32 0 64) .read false ((labA .s32 0 64).readX 11) (actUnits (labA .s32 0 64))
      (tagsTest (labA .s32 0 64) 1) (by decide +kernel) (by decide +kernel)
    dsimp only
    exact ⟨pss, h1, h2, (tags_iff _ _ _).1 h3⟩
  · obtain ⟨pss, h1, -, h3⟩ := found_of (labA .hb 0 64) .read false ((labA .hb 0 64).readX 11) (actUnits (labA .hb 0 64))
      (fun l => !tagsTest (labA .hb 0 64) 0 l) (by decide +kernel) (by decide +kernel)
    dsimp only
    exact ⟨pss, h1, fun h => by rw [(tags_iff _ _ _).2 h] at h3; cases h3⟩

/-- Elements and whole registers; a register of the `ACT` buffer's domain, and an element of another one. -/
theorem witness_VectorStores :
    (∃ r, vstoreOf (labV .s32 0 2 3 5) (.vst 8 10 0 0 .pl .hart 0) = some r ∧ r.whole = false ∧ r.ok ∧ ∃ pss,
      UnitsReach (labV .s32 0 2 3 5) .write r.gather ((labV .s32 0 2 3 5).readX r.xb) r.us pss ∧
        PiecesSound (labV .s32 0 2 3 5) pss) ∧
    (∃ r, vstoreOf (labV .s32 0 2 3 5) (.vst 8 10 7 0 .pl .hart 0) = some r ∧ r.whole = true ∧ r.ok) ∧
    VecOperand (labV .s32 0 2 3 5).cur 8 2 ∧ Healthy (labV .s32 0 2 3 5).cur ∧
    (((labA .s32 1 64).space 7).1 = .mem actBuf ∧ actBuf.cls = 2 ∧ Healthy (labA .s32 1 64).cur ∧
      VecOperand (labA .s32 1 64).cur 8 64 ∧ ((labA .s32 1 64).cur.opnd 8).dom = 1 ∧
      ∃ r, vstoreOf (labA .s32 1 64) (.vst 8 11 0 0 .pl .hart 0) = some r ∧ r.ok ∧ r.gather = false ∧ r.us ≠ [] ∧
        addrIdx ((labA .s32 1 64).readX r.xb) = 7 ∧ ∃ pss s2,
        ((labA .s32 1 64).space 7).2.reachUnits ⟨7, .write, false, false, false⟩ ((labA .s32 1 64).space 7).1
            (storeTagCheck 7 1 r.us) [] [] r.us = .ok pss s2 ∧
          (∀ ps ∈ pss, ∀ p ∈ ps, ∃ pa, p.loc = .pkg pa)) ∧
    (((labA .s32 0 1).cur.opnd 8).dom = 0 ∧ ∃ r, vstoreOf (labA .s32 0 1) (.vst 8 11 0 0 .pl .hart 0) = some r ∧ r.ok ∧
      ∃ u p pa, r.us = [u] ∧ p.loc = .pkg pa ∧ u.n < 4096 ∧
        UnitsFound (labA .s32 0 1) .write false (7 * 2 ^ 40) ((labA .s32 0 1).space 7).1 r.us [[p]] ∧
        tagCopy (labA .s32 0 1) pa ≠ 0) := by
  refine ⟨⟨_, rfl, rfl, ⟨by decide +kernel, fun h => absurd ?_ h⟩, units_of _ _ _ _ _ rfl (.inl (by decide +kernel))
      (by decide +kernel)⟩,
    ⟨_, rfl, rfl, trivial⟩, vec_operand _ _ _ (by decide +kernel),
    labV_healthy _ _ _ _ _ (by decide +kernel) (by decide +kernel),
    ⟨by decide +kernel, rfl,
      healthy_of _ (by decide +kernel) (by decide +kernel) (by decide +kernel) (by decide +kernel) (by decide +kernel),
      vec_operand _ _ _ (by decide +kernel), by decide +kernel, _, rfl, ⟨by decide +kernel, fun _ => by decide +kernel⟩, rfl,
      by decide +kernel, by decide +kernel, ?_⟩,
    by decide +kernel, _, rfl, ⟨by decide +kernel, fun h => absurd ?_ h⟩, ?_⟩
  · decide +kernel
  · obtain ⟨pss, s2, h1, h2, -, -⟩ := checked_of (labA .s32 1 64) .write false (7 * 2 ^ 40) (actUnits (labA .s32 1 64))
      (storeTagCheck 7 1 (actUnits (labA .s32 1 64))) (fun _ => true) (by decide +kernel)
      (by decide +kernel)
    dsimp only
    exact ⟨pss, s2, h1, h2⟩
  · decide +kernel
  · refine ⟨⟨0, [0], 0, 4, 4⟩, ⟨0, 4, .pkg (4 * 2 ^ 37), false, [0]⟩, 4 * 2 ^ 37, by decide +kernel, rfl, by decide,
      ?_, by decide +kernel⟩
    obtain ⟨pss, h1, -, h3⟩ := found_of (labA .s32 0 1) .write false (7 * 2 ^ 40) (actUnits (labA .s32 0 1))
      (fun l => decide (l = [[⟨0, 4, .pkg (4 * 2 ^ 37), false, [0]⟩]])) (by decide +kernel) (by decide +kernel)
    rw [of_decide_eq_true h3] at h1
    dsimp only
    exact h1

/-- The units of a `vstw` of `lev` levels of `v8` at `x11`. -/
def waveUnits (s : State) (lev : Nat) : List UnitAcc :=
  let q := (unitShape (s.cur.opnd 8).tag false).q
  (s.vmPlaces 8 11 0).filter fun u =>
    maskBit s.cur 0 (32 * 2 ^ lev * (q * u.k / (32 * 2 ^ lev)) + if tagBlock (s.cur.opnd 8).tag then 0 else q * u.k % 32)

/-- What `witness_WaveletStore` says of a register's tag and domain. -/
def WaveReady (t : Tag) (dom : Nat) : Prop :=
  let s := labA t dom 64
  VecOperand s.cur 8 64 ∧ (s.cur.opnd 8) = ⟨8, t, dom, 0⟩ ∧ s.cur.csr.vl.toNat = 64 ∧ 64 % (32 * 2 ^ 1) = 0 ∧
    waveUnits s 1 ≠ [] ∧ (s.space (addrIdx (s.readX 11))).1 = .mem actBuf ∧ actBuf.cls = 2 ∧ tagFamily t ∈ ifq ∧ ∃ pss s2,
    (s.space 7).2.reachUnits ⟨7, .write, false, false, false⟩ (s.space 7).1 (storeTagCheck 7 1 (waveUnits s 1)) [] []
        (waveUnits s 1) = .ok pss s2 ∧
      ∀ ps ∈ pss, ∀ p ∈ ps, ∃ pa, p.loc = .pkg pa

theorem wave_of (t : Tag) (dom : Nat) (hv : VecOperand (labA t dom 64).cur 8 64) (hp : (labA t dom 64).poison = [])
    (hf : tagFamily t ∈ ifq)
    (hc : decide ((labA t dom 64).cur.opnd 8 = ⟨8, t, dom, 0⟩ ∧ (labA t dom 64).cur.csr.vl.toNat = 64 ∧
      waveUnits (labA t dom 64) 1 ≠ [] ∧ ((labA t dom 64).space (addrIdx ((labA t dom 64).readX 11))).1 = .mem actBuf) = true)
    (ht : foundTest (labA t dom 64) .write false (7 * 2 ^ 40) (waveUnits (labA t dom 64) 1)
      (storeTagCheck 7 1 (waveUnits (labA t dom 64) 1)) (fun _ => true) = true) :
    WaveReady t dom := by
  obtain ⟨h1, h2, h3, h4⟩ := of_decide_eq_true hc
  obtain ⟨pss, s2, e1, e2, -, -⟩ := checked_of _ _ _ _ _ _ _ hp ht
  exact ⟨hv, h1, h2, by decide, h3, h4, rfl, hf, pss, s2, e1, e2⟩

theorem witness_WaveletStore : WaveReady .s32 0 ∧ WaveReady .s32 1 ∧ WaveReady (.q 7) 0 ∧ Healthy (labA .s32 0 64).cur := by
  refine ⟨wave_of _ _ (vec_operand _ _ _ (by decide +kernel)) (by decide +kernel) (by decide) (by decide +kernel)
      (by decide +kernel),
    wave_of _ _ (vec_operand _ _ _ (by decide +kernel)) (by decide +kernel) (by decide) (by decide +kernel) (by decide +kernel),
    wave_of _ _ (vec_operand _ _ _ (by decide +kernel)) (by decide +kernel) (by decide) (by decide +kernel) (by decide +kernel),
    healthy_of _ (by decide +kernel) (by decide +kernel) (by decide +kernel) (by decide +kernel) (by decide +kernel)⟩

/-- One element: the index 3 in `v9` on the doublewords of `x10`'s buffer. -/
theorem witness_VectorAtomicAdd :
    VecOperand (labV .s32 0 1 7 3).cur 8 1 ∧ VecOperand (labV .s32 0 1 7 3).cur 9 1 ∧
    ((labV .s32 0 1 7 3).cur.opnd 8) = ⟨8, .s32, 0, 0⟩ ∧ ((labV .s32 0 1 7 3).cur.opnd 9) = ⟨9, .s32, 0, 0⟩ ∧
    ((labV .s32 0 1 7 3).indexedUnits 8 9 10 2 0).length = 1 ∧ Healthy (labV .s32 0 1 7 3).cur ∧ ∃ pss,
      UnitsReach (labV .s32 0 1 7 3) .atomic true ((labV .s32 0 1 7 3).readX 10)
        ((labV .s32 0 1 7 3).indexedUnits 8 9 10 2 0) pss ∧ PiecesSound (labV .s32 0 1 7 3) pss :=
  ⟨vec_operand _ _ _ (by decide +kernel), vec_operand _ _ _ (by decide +kernel), by decide +kernel, by decide +kernel,
    by decide +kernel, labV_healthy _ _ _ _ _ (by decide +kernel) (by decide +kernel),
    units_of _ _ _ _ _ rfl (.inr rfl) (by decide +kernel)⟩

/-- R123: 7 added to 2. -/
theorem test_vamoadd : (match exec (.vamoadd 8 9 10 2 0 .pl .hart 0) ((labV .s32 0 1 7 3).place (dataPa + 12) [2]) with
    | .next t => some (t.homeByte (dataPa + 12))
    | _ => none) = some 9 := by decide +kernel
theorem test_vld : elemAfter (exec (.vld 8 10 0 0 .pl .hart 0) ((labV .s32 0 2 3 5).place (dataPa + 4) [9])) 8 1 = some 9 := by
  decide +kernel
theorem test_vst : (match exec (.vst 8 10 0 0 .pl .hart 0) (labV .s32 0 2 0x9_0000_0003 5) with
    | .next t => some (t.coreByte 3 (dataPa + 4))
    | _ => none) = some 9 := by decide +kernel

/-- A record of zeros describes an empty register; a `DOM` on a tag of `NONE` is refused. -/
theorem witness_SpillRecords : (pad.writeX 10 (0xFFFFFF * 2 ^ 40)).readX 10 = 0xFFFFFF * 2 ^ 40 ∧ 0 % 128 = 0 ∧
    0 + 2176 ≤ pad.cur.spadUnits * 2 ^ 18 ∧ descOk 0 = true ∧ descOk (2 ^ 18) = false ∧ Healthy pad.cur ∧
    Unchained pad.cur :=
  ⟨by decide +kernel, rfl, by decide +kernel, by decide, by decide, healthy_of _ (by decide) (by decide +kernel)
    (by decide +kernel) rfl, (by intro x h; cases h)⟩

/-- A block operand of 32 elements, a hypervector of 32, a tile that the hart has, and one that it has not. -/
theorem witness_Tiles : ((0 : BitVec 3).toNat < (vstate (.q 7) 0 32 3 5).cur.ntiles ∧
      ({ hart0 with ntiles := 2 } : Hart).ntiles ≤ (2 : BitVec 3).toNat ∧ tileRow (.mrd 8 2 0 0 0 1) = some (2, 1)) ∧
    (VecOperand (vstate (.q 7) 0 32 3 5).cur 8 32 ∧ VecOperand (vstate (.q 7) 0 32 3 5).cur 9 32 ∧
      tagFamily (.q 7) = .block ∧ (vstate (.q 7) 0 32 3 5).cur.csr.vl.toNat = 32 ∧
      ((vstate (.q 7) 0 32 3 5).cur.opnd 8).dom = 0 ∧ Healthy (vstate (.q 7) 0 32 3 5).cur) ∧
    (VecOperand (vstate .hb 0 32 3 5).cur 8 32 ∧ VecOperand (vstate .hb 0 32 3 5).cur 9 32 ∧
      (vstate .hb 0 32 3 5).cur.csr.vl.toNat = 32 ∧ ((vstate .hb 0 32 3 5).cur.opnd 8).dom = 0) ∧
    (VecOperand (vstate .s32 0 128 3 5).cur 8 128 ∧ VecDest 8 .s32 128 0 ∧ (vstate .s32 0 128 3 5).cur.matq = [] ∧
      ((vstate .s32 0 128 3 5).cur.tiles.getD 0 .reset).poison = [] ∧ 32 * ((0 : Word).toNat / 2 ^ 16 % 128) < 128 ∧
      LengthFits (vstate .s32 0 128 3 5).cur 0) ∧
    (((labV .s32 0 128 3 5).awaitSlots 0 = labV .s32 0 128 3 5) ∧ (labV .s32 0 128 3 5).cur.held = none ∧
      (labV .s32 0 128 3 5).cur.matq = [] ∧ ((labV .s32 0 128 3 5).cur.tiles.getD 0 .reset).poison = [] ∧
      let us := (List.range 1).map fun r => ⟨r, [r], ((64 : Nat) : Int) + (r : Int) * 0, 1024, 8⟩
      (∃ pss, UnitsReach (labV .s32 0 128 3 5) .write false ((labV .s32 0 128 3 5).readX 10) us pss) ∧
      ∃ pss, UnitsReach (labV .s32 0 128 3 5) .read false ((labV .s32 0 128 3 5).readX 10) us pss ∧
        PiecesSound (labV .s32 0 128 3 5) pss) :=
  ⟨⟨by decide +kernel, by decide, rfl⟩,
    ⟨vec_operand _ _ _ (by decide +kernel), vec_operand _ _ _ (by decide +kernel), rfl,
      by decide +kernel, by decide +kernel, vhart_healthy _ _ _ _ _ (by decide +kernel)⟩,
    ⟨vec_operand _ _ _ (by decide +kernel), vec_operand _ _ _ (by decide +kernel), by decide +kernel, by decide +kernel⟩,
    ⟨vec_operand _ _ _ (by decide +kernel), ⟨by decide +kernel, by decide⟩, rfl, by decide +kernel, by decide,
      fun h => absurd rfl h⟩,
    ⟨by decide +kernel, rfl, rfl, by decide +kernel,
      (units_of _ _ _ _ _ rfl (.inl (by decide +kernel)) (by decide +kernel)).imp fun _ h => h.1,
      units_of _ _ _ _ _ rfl (.inl (by decide +kernel)) (by decide +kernel)⟩⟩

/-- `bare` with one matrix instruction pending. -/
def pendingTile (w : TileWrite) : State := { bare with cur := { hart0 with matq := [⟨1, w, none⟩] } }

/-- `bare` with one `tclr` pending. -/
def clearing : State := pendingTile (.clear 5)

/-- A lone `tclr`, `mst` and `mld`. -/
theorem witness_TileClear : (clearing.cur.status ≠ .vacant ∧ clearing.cur.matq = [⟨1, .clear 5, none⟩]) ∧
    (pendingTile (.store [(.pkg 64, 9)])).cur.matq = [⟨1, .store ([(64, 9)].map fun x => (.pkg x.1, x.2)), none⟩] ∧
    (pendingTile (.load [(3, 7, .pkg 64)])).cur.matq =
      [⟨1, .load ([(3, 7, 64)].map fun x => (x.1, x.2.1, .pkg x.2.2)), none⟩] ∧
    ([(3, (7 : Word), 64)].map Prod.fst).Nodup := ⟨⟨by decide, rfl⟩, rfl, rfl, by decide⟩

/-- R172: the tile's exponent after the completion. -/
theorem test_tclr : (match exec (.matrixComplete clearing.cur.key 0) clearing with
    | .next t => some ((t.cur.tiles.getD 1 .reset).eT, t.cur.matq.length)
    | _ => none) = some (5, 0) := by decide +kernel

/-- Hypervectors in `v8` and `v9`. -/
def hv : State := vstate .hb 0 16384 0b101 0b011

/-- A counter group of eight registers at `v8`. -/
def counters : Hart :=
  let r : VReg := ⟨0, ⟨.s8, 0, 3, 2048, false⟩, 0⟩
  { hart0 with
    csr := { hart0.csr with vl := 16384 }
    v := Vector.ofFn fun k : Fin 64 => if 8 ≤ k.val ∧ k.val < 16 then r else .reset }

theorem witness_Hypervectors : hv.cur.csr.vl.toNat = 16384 ∧ HyperOperand hv.cur 8 ∧ HyperOperand hv.cur 9 ∧ Healthy hv.cur ∧
    counters.csr.vl.toNat = 16384 ∧ CounterOperand counters 8 ∧ (hv.cur.opnd 10).tag ≠ .none :=
  ⟨by decide +kernel, ⟨by decide +kernel, by decide +kernel⟩, ⟨by decide +kernel, by decide +kernel⟩,
    vhart_healthy _ _ _ _ _ (by decide +kernel), by decide +kernel,
    ⟨vec_operand _ _ _ (by decide +kernel), by decide +kernel, by decide +kernel⟩, by decide +kernel⟩

/-- A hypervector in `v8`, and at `x12` a factor table of two codebooks of one item each. -/
def labH : State :=
  let s := labV .hb 0 16384 0b101 0b011
  let line (k : Nat) : List Byte := leBytes 8 (6 * 2 ^ 40 + 4096 * k) ++ leBytes 4 1 ++ leBytes 4 0
  s.place (2 * 2 ^ 16) (leBytes 8 2 ++ line 1 ++ line 2)

theorem witness_HyperSearch : labH.cur.csr.vl.toNat = 16384 ∧ HyperOperand labH.cur 8 ∧ Healthy labH.cur ∧
    (labH.readX 0).toNat = 0 ∧ (∃ pss, UnitsReach labH .read false (labH.readX 12)
      ((List.range 1).flatMap fun k => (lineCuts (0 + 2048 * k) 2048).map fun (o, c) =>
        ⟨k, [(o - (0 + 2048 * k)) / 4, k], (o : Nat), c, 4⟩) pss ∧ PiecesSound labH pss) ∧
    (∀ lim ∈ [0, 1], (match labH.readFactors 0 (labH.readX 12) lim with
      | .ok (books, init) _ => decide (books.length = 2 ∧ init = [0, 0])
      | _ => false) = true) ∧ Unchained labH.cur :=
  ⟨by decide +kernel, ⟨by decide +kernel, by decide +kernel⟩,
    healthy_of _ (by decide +kernel) (by decide +kernel) (by decide +kernel) (by decide +kernel) (by decide +kernel),
    by decide +kernel, units_of _ _ _ _ _ rfl (.inl (by decide +kernel)) (by decide +kernel), by decide +kernel, by
      unfold Unchained
      rw [show labH.cur.xfers = [] by decide +kernel]
      intro x h; cases h⟩

theorem witness_Indices :
    Reaches (labWith 0x5_0000_0001) .read false false (6 * 2 ^ 40) ⟨0, [], (64 : Nat), 24, 4⟩ dataPa (.mem dataBuf) ∧
    Clean (labWith 0x5_0000_0001).cur [10] ∧ Unpoisoned (labWith 0x5_0000_0001) dataPa 24 ∧
    VecOperand (vstate .u32 0 64 3 5).cur 8 64 ∧ VecDest 10 .u32 64 0 ∧ (10 : BitVec 6).toNat + 2 * 2 ^ 0 ≤ 64 ∧
    ∀ e ∈ [Extent.ofWord 5, Extent.ofWord 7], e = Extent.ofWord e.e.toNat ∧ 1 ≤ e.e.toNat :=
  ⟨reaches_of _ _ _ _ _ _ _ _ (by decide +kernel), lab_clean _ _, lab_unpoisoned _ _ _,
    vec_operand _ _ _ (by decide +kernel), ⟨by decide +kernel, by decide⟩, by decide, by decide +kernel⟩

/-! ## Witnesses: supervisors, copies, tasks, collectives -/

/-- A supervisor with a saved context and one that waits on its resume list. -/
def supTwo : State :=
  let other : Hart := { hart0 with ctxid := 2, status := .suspended }
  let third : Hart := { hart0 with ctxid := 3, status := .queued }
  let fourth : Hart := { hart0 with ctxid := 4 }
  { sup with cur := { (sup.cur.writeX 2 2).writeX 3 3 with csr := { sup.cur.csr with epc := 5 * 2 ^ 40 + 64 } } |>.writeX 4 4
             rest := [other, third, fourth] }

theorem witness_SupervisorControl : supTwo.cur.supv = true ∧ SameBuffer supTwo supTwo.cur.csr.epc ∧
    ¬SameBuffer sup sup.cur.csr.epc ∧ Clean supTwo.cur [2, 3, 4] ∧ supTwo.cur.isKey (named supTwo 2) = false ∧
    (∃ h, supTwo.rest.find? (·.isKey (named supTwo 2)) = some h ∧ h.status = .suspended ∧ h.prio < 4) ∧
    (∃ h, supTwo.rest.find? (·.isKey (named supTwo 3)) = some h ∧ h.status = .queued ∧
      (named supTwo 3).ctx ≠ supTwo.cur.ctxid) ∧
    (∃ h, supTwo.rest.find? (·.isKey (named supTwo 4)) = some h ∧ h.status = .running ∧ h.answers = [] ∧
      (named supTwo 4).ctx ≠ supTwo.cur.ctxid) ∧
    supTwo.hart? (named supTwo 0) = none ∧ (∀ h ∈ supTwo.harts, h.flights = [] ∧ h.matq = []) := by
  refine ⟨by decide +kernel, ?_, ?_, clean_of _ _ (by decide +kernel), by decide +kernel,
    ⟨{ hart0 with ctxid := 2, status := .suspended }, by decide +kernel, rfl, by decide⟩,
    ⟨{ hart0 with ctxid := 3, status := .queued }, by decide +kernel, rfl, by decide +kernel⟩,
    ⟨{ hart0 with ctxid := 4 }, by decide +kernel, rfl, rfl, by decide +kernel⟩, by decide +kernel, by decide +kernel⟩ <;>
  · unfold SameBuffer
    decide +kernel

/-- A transfer of one chunk of zeros to `x12`'s buffer, and one whose chunk has finished. -/
def zeroing : Xfer := ⟨0, 6 * 2 ^ 40, 0, 256, 0, 0, .hart, .pl, 0, false, 0, 1, true, 0, 0, 0, none⟩

/-- The same from the buffer 6 to the buffer 8, and stopped by a fault. -/
def moving : Xfer := { zeroing with zero := false, src := 8 * 2 ^ 40 }
/-- A transfer stopped by a fault. -/
def stuck : Xfer := { zeroing with stopped := some ⟨0, 4, true, 6 * 2 ^ 40⟩ }

/-- `lab` with transfers, a second `GEN` buffer 8, and the core's channels admitted (master 32, R347). -/
def labX (l : List Xfer) : State :=
  let s := (lab.setPte 0 3 ⟨BitVec.ofNat 64 (1 + 8 * 2 ^ 8), 0, 0⟩).place (physAddr 0 0 (32 * 8))
    (leBytes 8 (2 ^ 31 + 1) ++ leBytes 8 (13 * 2 ^ 18))
  { s with
    cur := { s.cur with xfers := l }
    access := [16, 0].foldl (fun a t => tset .reset a (accessKey t 32) ⟨0, true, true, true⟩) s.access }

/-- Whether a channel's access to a chunk reaches pieces of package memory in buffer `b`, and the state and pieces pass a
test. -/
def chanTest (s : State) (k : Kind) (code : Bool) (u : UnitAcc) (idx : Nat) (f : State → List Piece1 → Bool) : Bool :=
  match s.reachChan ⟨idx, k, false, code, true⟩ u with
  | .ok a s1 => decide (a.sp = .mem dataBuf) && f s1 a.ps && a.ps.all fun p => match p.loc with
    | .pkg _ => true
    | _ => false
  | _ => false

/-- Whether it traps. -/
def chanTraps (s : State) (k : Kind) (code : Bool) (u : UnitAcc) (idx : Nat) : Bool :=
  match s.reachChan ⟨idx, k, false, code, true⟩ u with
  | .trap _ _ => true
  | _ => false

/-- The transfer that `cpyz` on channel 0 and mask `m5` starts with a length of `n` bytes. -/
def starting (n : Word) : Xfer := ⟨0, 0, 0, n, 0, 0, .hart, .pl, 0, false, 0, 1, true, hart0.pc.setWidth 40, 0, 0, none⟩

theorem witness_Copies :
    (copyRow (two (2 ^ 22) 0) (.cpyz 0 2 0 0 1 0 0 .pl .hart 0) = some ((Instr.cpyz 0 2 0 0 1 0 0 .pl .hart 0).bits, [0, 2],
        starting (2 ^ 22)) ∧ (starting (2 ^ 22)).n.toNat ≤ 16384 * chunkSize (starting (2 ^ 22)) ∧
      Clean (two (2 ^ 22) 0).cur [0, 2] ∧ (two (2 ^ 22) 0).cur.xfers = [] ∧ (two (2 ^ 22) 0).cur.status = .running) ∧
    (copyRow (two (2 ^ 22 + 1) 0) (.cpyz 0 2 0 0 1 0 0 .pl .hart 0) = some ((Instr.cpyz 0 2 0 0 1 0 0 .pl .hart 0).bits, [0, 2],
        starting (2 ^ 22 + 1)) ∧ 16384 * chunkSize (starting (2 ^ 22 + 1)) < (starting (2 ^ 22 + 1)).n.toNat) ∧
    ((labX [stuck]).cur.xfers.find? (fun y => decide (y.cm = 1 ∧ y.stopped ≠ none)) = some stuck ∧
      stuck.stopped = some ⟨0, 4, true, 6 * 2 ^ 40⟩ ∧ (labX [stuck]).cur.xfers = [stuck] ∧
      ∀ k : Nat, stuck.started.getLsbD k = true → stuck.finished.getLsbD k = true) ∧
    (releasesAt .rel .sys = true ∧ (0x40 : BitVec 8).getLsbD 6 = true ∧ (0x02 : BitVec 8).getLsbD 1 = true ∧
      bare.cur.status = .running ∧ bare.cur.xfers = [] ∧ bare.cur.matq = [] ∧ bare.cur.flights = []) :=
  ⟨⟨by decide +kernel, by decide +kernel, clean_of _ _ (by decide +kernel), by decide +kernel, by decide +kernel⟩,
    ⟨by decide +kernel, by decide +kernel⟩, ⟨by decide +kernel, rfl, rfl, fun k h => by simp [stuck, zeroing] at h⟩,
    by decide, by decide, by decide, rfl, rfl, rfl, rfl⟩

/-- A transfer from the buffer 6 to the buffer 5, which no hart may write, and one from the buffer 9, which is no buffer. -/
def barred : Xfer := { moving with src := 6 * 2 ^ 40, dst := 5 * 2 ^ 40 }
/-- `lab` with one write of transfer 0 in flight, to package memory or to host memory. -/
def flying (host : Bool) : State :=
  { lab with cur := { lab.cur with flights := [⟨0, host, false, [(2 * 2 ^ 16 + 1, 9)], []⟩] } }

/-- A transfer whose source is no buffer. -/
def sourceless : Xfer := { moving with src := 9 * 2 ^ 40 }

/-- A transfer of a chunk of zeros to the start of the scratchpad, which holds `m`. -/
def spadX (m : List Host.Cell) : State :=
  let s := labX [{ zeroing with dst := 0xFFFFFF * 2 ^ 40 }]
  { s with cur := { s.cur with spad := m } }

theorem witness_CopyEngine :
    ((labX [zeroing]).cur.xfers.find? (fun y => y.id == 0) = some zeroing ∧ zeroing.stopped = none ∧ 0 < chunkCount zeroing ∧
      chanTest (labX [zeroing]) .write false (chunkAccess zeroing zeroing.dst 0) 6 (fun _ _ => true) = true ∧
      dataBuf.cls ≠ 2 ∧ (labX [zeroing]).asked (zeroing.postSlot 0) = false ∧ (labX [zeroing]).cur.flights = [] ∧
      zeroing.evict.toNat < 6) ∧
    ((labX [moving]).cur.xfers.find? (fun y => y.id == 0) = some moving ∧ addrIdx moving.src ≠ addrIdx moving.dst ∧
      chanTest (labX [moving]) .read true (chunkAccess moving moving.src 0) 8 (fun s1 qs =>
        chanTest (s1.flushPieces qs) .write false (chunkAccess moving moving.dst 0) 6
          (fun _ _ => true)) = true ∧ (labX [moving]).poison = [] ∧ (labX [moving]).asked (moving.postSlot 0) = false ∧
      (labX [moving]).cur.flights = []) ∧
    (¬PlainFlights (flying true) zeroing ∧ PlainFlights (flying false) zeroing ∧ (flying false).cur.flights ≠ []) ∧
    (stuck.stopped ≠ none ∧ stuck.started.getLsbD 0 = false ∧ ({ stuck with started := 1 } : Xfer).started.getLsbD 0 = true) ∧
    (∀ y ∈ (labX [barred]).cur.xfers, y.id = barred.id → y = barred) ∧
    chanTraps (labX [{ zeroing with dst := 5 * 2 ^ 40 }]) .write false
      (chunkAccess { zeroing with dst := 5 * 2 ^ 40 } (5 * 2 ^ 40) 0) 5 = true ∧
    chanTraps (labX [sourceless]) .read true (chunkAccess sourceless sourceless.src 0) 9 = true ∧
    chanTest (labX [barred]) .read true (chunkAccess barred barred.src 0) 6 (fun s1 qs =>
      chanTraps (s1.flushPieces qs) .write false (chunkAccess barred barred.dst 0) 5) = true ∧
    (∀ k < chunkCount { zeroing with finished := 1 }, ({ zeroing with finished := 1 } : Xfer).finished.getLsbD k = true) ∧
    (AtWord (labWith 0x0003_0001) ((labWith 0x0003_0001).readX 10) dataPa (.mem dataBuf) ∧ Armed 0x0003_0001 ∧
      (labWith 0x0003_0001).cur.flights = []) := by
  refine ⟨⟨by decide +kernel, rfl, by decide, by decide +kernel, by decide, by decide +kernel, by decide +kernel, by decide⟩,
    ⟨by decide +kernel, by decide, by decide +kernel, rfl, by decide +kernel, by decide +kernel⟩, ⟨?_, ?_, ?_⟩,
    ⟨by decide, by decide +kernel, by decide +kernel⟩, by simp [labX], by decide +kernel, by decide +kernel, by decide +kernel,
    by decide +kernel, at_word _ (by decide +kernel), ?_, by decide +kernel⟩
  · intro h
    have := (h _ (List.mem_cons_self ..) rfl).1
    cases this
  · intro f hf _
    obtain rfl : f = _ := List.mem_singleton.1 hf
    exact ⟨rfl, rfl⟩
  · exact List.cons_ne_nil _ _
  · unfold Armed
    decide

/-- R216: the chunk's bytes are zeros in the scratchpad, and its bit is set. -/
theorem test_copy_chunk : (match exec (.copyChunk lab.cur.key 0 0) (spadX [(1, 7), (300, 7)]) with
    | .next t => some (Memory.get t.cur.spad 1, Memory.get t.cur.spad 300, (t.cur.m.getD 5 .reset).bits.toNat)
    | _ => none) = some (0, 7, 1) := by decide +kernel

/-- R231: what a moved chunk has in flight stands at the home when it has performed. -/
theorem test_flight_lands : ((flying false).landAll fun _ => true).homeByte (2 * 2 ^ 16 + 1) = 9 := by decide +kernel

/-- A context whose task waits for tasks 1 and 2. -/
def waiting2 (a b : Task) : State :=
  let p := { Partition.reset with tasks := [(0, { Task.reset with harts := 1, producers := [1, 2] }), (1, a), (2, b)] }
  { bare with parts := [(0, p)] }

/-- A task of one hart that has triggered, one that has not, and one that was killed. -/
def done1 : Task := { Task.reset with harts := 1, trig := [0], exited := [0], placed := true }
/-- A task that has not triggered. -/
def slow1 : Task := { Task.reset with harts := 1, placed := true }
/-- A task whose hart was killed. -/
def dead1 : Task := { Task.reset with harts := 1, killed := [0], dead := true, placed := true }

theorem witness_Tasks :
    (∀ w ∈ (waiting2 done1 done1).curTask.producers, HasTriggered (((waiting2 done1 done1).part 0).task w.toNat)) ∧
    ((waiting2 done1 dead1).curTask.producers = [1] ++ 2 :: [] ∧ ¬CannotTrigger (((waiting2 done1 dead1).part 0).task 1) ∧
      CannotTrigger (((waiting2 done1 dead1).part 0).task 2)) ∧
    (∀ w ∈ (waiting2 done1 slow1).curTask.producers, ¬CannotTrigger (((waiting2 done1 slow1).part 0).task w.toNat)) ∧
    (∃ w ∈ (waiting2 done1 slow1).curTask.producers, ¬HasTriggered (((waiting2 done1 slow1).part 0).task w.toNat)) ∧
    (bare.cur.status = .running ∧ bare.cur.xfers = []) ∧
    (Reaches lab .read false false (lab.readX 12) ⟨0, [], ((lab.readX 12).toNat % 2 ^ 40 : Nat), 64, 64⟩ (2 * 2 ^ 16)
      (.mem dataBuf) ∧ Unpoisoned lab (2 * 2 ^ 16) 64 ∧ (lab.part lab.cur.part).nextTask < 2 ^ 63 ∧
      Clean lab.cur [12] ∧ valueAt lab (2 * 2 ^ 16 + 21) 1 < 16) ∧
    (done1.placed = true ∧ done1.ended = false ∧ done1.exited.length + done1.killed.length = done1.harts ∧
      bare.dump.fatal = none) := by
  have hd : HasTriggered done1 := by unfold HasTriggered; decide
  have hs : ¬HasTriggered slow1 := by unfold HasTriggered; decide
  have hk : CannotTrigger dead1 := by unfold CannotTrigger; decide
  have nd : ¬CannotTrigger done1 := by unfold CannotTrigger; decide
  have ns : ¬CannotTrigger slow1 := by unfold CannotTrigger; decide
  refine ⟨?_, ⟨by decide +kernel, nd, hk⟩, ?_, ⟨2, by decide +kernel, hs⟩, ⟨rfl, rfl⟩,
    ⟨reaches_of _ _ _ _ _ _ _ _ (by decide +kernel), unpoisoned_of _ _ _ rfl, by decide +kernel, clean_of _ _ rfl,
      by decide +kernel⟩,
    by decide⟩
  · have e : (waiting2 done1 done1).curTask.producers = [1, 2] := by decide +kernel
    rw [e]
    intro w hw
    simp only [List.mem_cons, List.not_mem_nil, or_false] at hw
    rcases hw with rfl | rfl <;> exact hd
  · have e : (waiting2 done1 slow1).curTask.producers = [1, 2] := by decide +kernel
    rw [e]
    intro w hw
    simp only [List.mem_cons, List.not_mem_nil, or_false] at hw
    rcases hw with rfl | rfl
    · exact nd
    · exact ns

/-- `lab` with the group 1 of one member in the partition's group table, group register 0 set to it, two integers in `v8`, and
`x13` holding its value. -/
def labG : State :=
  let s := labV .s32 0 2 3 5
  let s1 := s.setPart 0 { s.part 0 with gtbase := 6 * 2 ^ 40 + 0x100, gtcount := 1 }
  let s2 := s1.place (2 * 2 ^ 16 + 0x100) (leBytes 8 (2 ^ 48 + 1) ++ leBytes 8 (6 * 2 ^ 40 + 0x200))
  { s2 with cur := { s2.cur with g := s2.cur.g.setIfInBounds 0 ⟨1, 0, 0, 0, true⟩ } }.writeX 13 (2 ^ 48)

theorem witness_Collectives :
    (∃ r, collRow (.collRed 10 8 0 0 0) = some r ∧ r.parts = false ∧ r.root = none ∧ r.tags .s32) ∧
    (groupOf labG.cur 0).val = true ∧ (groupOf labG.cur 1).val = false ∧ Healthy labG.cur ∧ LocalGroup labG 0 ∧
    VecOperand labG.cur 8 2 ∧ (labG.cur.opnd 8).dom = 0 ∧ VecDest 10 .s32 2 0 ∧
    (Clean labG.cur [13] ∧ labG.readX 13 = 2 ^ 48 ∧ labG.inGroup ⟨1, 0, 0, 0, true⟩ = true ∧
      labG.inGroup ⟨2, 0, 0, 0, true⟩ = false) := by
  refine ⟨⟨_, rfl, rfl, rfl, ?_⟩, by decide +kernel, by decide +kernel,
    healthy_of _ (by decide +kernel) (by decide +kernel) (by decide +kernel) (by decide +kernel), ?_,
    vec_operand _ _ _ (by decide +kernel), by decide +kernel, ⟨by decide +kernel, by decide⟩,
    clean_of _ _ (by decide +kernel), by decide +kernel, by decide +kernel, by decide +kernel⟩
  · exact Or.inl rfl
  · refine ⟨by decide +kernel, ?_⟩
    have e : ((labG.closeColls labG.cur.part).part labG.cur.part).coll? (groupOf labG.cur 0).gid (groupOf labG.cur 0).seq =
      none := by decide +kernel
    simp only [e]
    decide +kernel

/-- R222: one member's sum is its own contribution. -/
theorem test_coll_red : elemAfter (exec (.collRed 10 8 0 0 0) labG) 10 0 = some 3 := by decide +kernel

/-! ## Witnesses: traps, faults, scheduling -/

/-- `bare` in a stage of its stop. -/
def inStage (st : Status) : State := { bare with cur := { hart0 with status := st } }

/-- Partition 0 with one fault record due, and room in a queue of 16. -/
def faulty (st : Status) (tail : BitVec 32) : State :=
  { inStage st with parts := [(0, { Partition.reset with faults := [1], fqbase := 0x1000, tail := tail })] }

theorem only_one (s : State) (h1 : s.cur.status ≠ .vacant) (h2 : s.rest = []) : OnlyOne s :=
  ⟨h1, fun h hm => by rw [h2] at hm; cases hm⟩

theorem witness_TrapsAndFaults :
    ((inStage (.stopping .trap)).cur.status = .stopping .trap ∧ (inStage (.stopping .trap)).cur.xfers = [] ∧
      (inStage (.stopping .trap)).cur.matq = [] ∧ (inStage (.stopping .trap)).cur.flights = []) ∧
    ((inStage (.saving .preempt)).cur.status = .saving .preempt ∧ OnlyOne (inStage (.saving .preempt)) ∧
      (inStage (.saving .preempt)).rest = [] ∧
      ((inStage (.saving .preempt)).part 0).svbase.getLsbD 63 = false ∧ (inStage (.saving .preempt)).cur.prio < 4) ∧
    (((faulty .recording 0).part 0).faults = [1] ∧ (faulty .recording 0).hart? ⟨0, 1⟩ = some (inStage .recording).cur ∧
      ((faulty .recording 0).part 0).svbase.getLsbD 63 = false ∧ (faulty .recording 0).dump.fatal = none ∧
      ((faulty .recording 0).part 0).svbase.toNat % 2 ^ 63 + (inStage .recording).cur.saveSlot * 2 ^ 22 + 0x288 ≤
        ringPlace ((faulty .recording 0).part 0).fqbase 64 ((faulty .recording 0).part 0).fqlog 0 ∧
      ¬RingFull ((faulty .recording 0).part 0).fqlog 0 0 ∧ RingFull ((faulty .recording 16).part 0).fqlog 0 16) ∧
    ((faulty .killed 0).hart? ⟨0, 1⟩ = some (inStage .killed).cur ∧ ((faulty .killed 0).part 0).gtcount = 0) ∧
    bare.cur.placed = true ∧ OnlyOne bare ∧ (7 : BitVec 3).toNat < bare.cur.ntiles := by
  refine ⟨⟨rfl, rfl, rfl, rfl⟩, ⟨rfl, only_one _ (by decide) rfl, rfl, by decide +kernel, by decide⟩,
    ⟨by decide +kernel, by decide +kernel, by decide +kernel, rfl, by decide +kernel, ?_, ?_⟩,
    ⟨by decide +kernel, by decide +kernel⟩, by decide, only_one _ (by decide) rfl, by decide⟩ <;>
  · unfold RingFull
    decide +kernel

/-- A partition with one task of one hart at the head of queue 0, and the columns and save slots for it. -/
def ready1 (slots : Nat) : State :=
  { State.reset with parts := [(0, { Partition.reset with
      en := true, colmap := 1, svslots := slots, nextTask := 2, queues := Partition.reset.queues.setIfInBounds 0 [1]
      tasks := [(1, { Task.reset with harts := 1, entry := 5 * 2 ^ 40 })] })] }

theorem neverFits_of (p : Partition) (q : Nat) (id : Word) (ids : List Word) (h : p.queues.getD q [] = id :: ids)
    (hs : p.svslots < (p.task id.toNat).harts) : NeverFits p q := ⟨id, ids, h, Or.inr hs⟩

theorem fits_of (p : Partition) (q : Nat) (h : (match p.queues.getD q [] with
    | [] => true
    | id :: _ =>
      let t := p.task id.toNat
      let each (need : Nat) : Nat := if need = 0 then 32 else 8 / need
      decide (t.harts ≤ ((List.range 256).filter fun k => p.colmap.getLsbD (k / 8)).length *
        min 32 (min (each t.tiles) (each t.spad)) ∧ t.harts ≤ p.svslots)) = true) : ¬NeverFits p q := by
  rintro ⟨id, ids, h1, h2⟩
  rw [h1] at h
  have := of_decide_eq_true h
  rcases h2 with h2 | h2 <;> omega

/-- A partition with a saved context at the head of the resume list of priority 2. -/
def resuming : State :=
  { bare with
    rest := [{ hart0 with ctxid := 7, status := .queued, prio := 2, ntiles := 0, spadUnits := 0 }]
    parts := [(0, { Partition.reset with
      en := true, colmap := 1, svslots := 1, resume := Partition.reset.resume.setIfInBounds 2 [7] })] }

/-- A running hart of priority 0 in a column that is above its threshold of 0, and a head of priority 1 that waits. -/
def crowded : State :=
  { bare with parts := [(0, { Partition.reset with
      en := true, colmap := 1, dthr := 0, qprio := 4, queues := Partition.reset.queues.setIfInBounds 1 [9] })] }

theorem crowded_victim : IsVictim crowded 0 crowded.cur := by
  refine ⟨1, ⟨by decide, Or.inr ⟨by unfold RecordsWait; decide +kernel, 1, by decide, by unfold prioOf; decide +kernel,
      by decide +kernel⟩⟩, ?_, ⟨by simp [State.harts], by decide +kernel, by decide +kernel, by decide +kernel, by decide +kernel,
      Or.inl rfl, Or.inr ?_⟩, by unfold inColumn; decide +kernel, by decide +kernel, ?_⟩
  · intro q hq ⟨h4, h⟩
    have hr : ∀ q < 4, (crowded.part 0).resume.getD q [] = [] := by decide +kernel
    rcases h with h | ⟨-, r, hr, hp, hn⟩
    · exact h (hr q h4)
    · have hl : ∀ r < 16, (crowded.part 0).queues.getD r [] ≠ [] → prioOf (crowded.part 0) r = 1 := by
        unfold prioOf
        decide +kernel
      have := hl r hr hn
      omega
  · rw [show (crowded.part 0).tasks = [] by decide +kernel]
    simp
  · rintro k ⟨hk, -⟩ -
    obtain rfl : k = crowded.cur := by simpa [State.harts, crowded, bare, State.reset] using hk
    exact ⟨Or.inr ⟨rfl, le_refl _⟩, fun _ => Or.inr ⟨rfl, le_refl _⟩⟩

theorem witness_Dispatching :
    (((ready1 1).part 0).en = true ∧ (∀ q < 16, ¬NeverFits ((ready1 1).part 0) q) ∧
      (ready1 1).choose 0 = some (.queue 0) ∧ ((ready1 1).part 0).headTask 0 = some 1) ∧
    (NeverFits ((ready1 0).part 0) 0 ∧ ((ready1 0).part 0).headTask 0 = some 1) ∧ (bare.part 0).en = false ∧
    ((resuming.part 0).en = true ∧ (∀ q < 16, ¬NeverFits (resuming.part 0) q) ∧ resuming.choose 0 = some (.resume 2)) ∧
    ((crowded.part 0).en = true ∧ ¬Stopping crowded 0 ∧ IsVictim crowded 0 crowded.cur) ∧
    (List.replicate 64 (0 : Byte)).length = 64 ∧ (TaskRec.ofBytes (List.replicate 64 (0 : Byte))).harts = 0 ∧
    ((lab.setPart 0 { lab.part 0 with svslots := 1, colmap := 1 }).launchCode 0 false true
      (TaskRec.ofBytes (leBytes 8 (5 * 2 ^ 40) ++ leBytes 8 0 ++ leBytes 48 1)) = 0 ∧ lab.dump.fatal = none) ∧
    (∃ id, ({ Partition.reset with done := [id] } : Partition).done = id :: [] ∧ ¬RingFull 4 0 0) ∧
    ((inStage .suspended).hart? ⟨0, 1⟩ = some (inStage .suspended).cur ∧ (inStage .suspended).cur.status = .suspended) := by
  refine ⟨⟨by decide +kernel, ?_, by decide +kernel, by decide +kernel⟩,
    ⟨neverFits_of _ _ 1 [] (by decide +kernel) (by decide +kernel), by decide +kernel⟩, by decide +kernel,
    ⟨by decide +kernel, ?_, by decide +kernel⟩, ⟨by decide +kernel, ?_, crowded_victim⟩, rfl,
    by decide +kernel, ⟨by decide +kernel, rfl⟩, ⟨1, rfl, ?_⟩, by decide +kernel, rfl⟩
  · have : ∀ q < 16, (match ((ready1 1).part 0).queues.getD q [] with
        | [] => true
        | id :: _ =>
          let t := ((ready1 1).part 0).task id.toNat
          let each (need : Nat) : Nat := if need = 0 then 32 else 8 / need
          decide (t.harts ≤ ((List.range 256).filter fun k => ((ready1 1).part 0).colmap.getLsbD (k / 8)).length *
            min 32 (min (each t.tiles) (each t.spad)) ∧ t.harts ≤ ((ready1 1).part 0).svslots)) = true := by decide +kernel
    exact fun q hq => fits_of _ _ (this q hq)
  · have : ∀ q < 16, (resuming.part 0).queues.getD q [] = [] := by decide +kernel
    exact fun q hq => fits_of _ _ (by rw [this q hq])
  · rintro ⟨h, hm, -, -, h1⟩
    obtain rfl : h = crowded.cur := by simpa [State.harts, crowded, bare, State.reset] using hm
    revert h1
    decide +kernel
  · unfold RingFull
    decide

/-- R301: `x2` holds the hart's number and `x3` the number of harts; the PC is the entry. -/
theorem test_dispatch : (match exec (.dispatchDecision 0) (ready1 1) with
    | .next t => t.rest.map fun h => (h.pc.toNat, (h.readX 3).toNat, h.ctxid.toNat)
    | _ => []) = [(5 * 2 ^ 40, 1, 1)] := by decide +kernel

/-! ## Witnesses: banks, translation, lines -/

/-- A context whose raise to `BURST` waits. -/
def raising : State := { bare with cur := { hart0 with raise := some 3, csr := { hart0.csr with bwphase := 3 } } }

/-- `bare` with the entry of bank 0 given. -/
def withBank (x : Bank) : State := bare.setBank 0 x

/-- A context whose `BURST` is acknowledged. -/
def pinning : State := { bare with cur := { hart0 with csr := { hart0.csr with bwphase := 3, phack := 3 } } }

theorem witness_PhasesAndBanks :
    bare.cur.status ≠ .vacant ∧ ((1 : Word).setWidth 2 : BitVec 2).toNat ≤ 1 ∧
    (1 < ((3 : Word).setWidth 2 : BitVec 2).toNat ∧ bare.cur.csr.phack.toNat < ((3 : Word).setWidth 2 : BitVec 2).toNat) ∧
    raising.cur.raise = some 3 ∧ bare.cur.raise = none ∧
    (((withBank ⟨false, false, 0, .act, []⟩).bank 0).power = .act ∧ (withBank ⟨false, false, 0, .act, []⟩).burstOver 0 = false ∧
      ((withBank ⟨false, false, 0, .act, []⟩).bank 0).pins = [] ∧ (withBank ⟨false, false, 0, .act, []⟩).inCache 0 = false ∧
      0 ∉ (withBank ⟨false, false, 0, .act, []⟩).reserved) ∧
    ((bare.bank 0).power = .off ∧ (bare.bank 0).retired = false ∧ (bare.bank 0).frames = 0) ∧
    (((withBank ⟨false, true, 0, .stby, []⟩).bank 0).pending = true ∧ ((withBank ⟨false, true, 0, .stby, []⟩).bank 0).frames = 0) ∧
    (rowCount { bare with raa := [(0, 16)] } 0 = 16 ∧ bare.raaimt.getD (bankTable 0) 0 ≤ 16) ∧
    rowCount bare 0 < bare.raammt.getD (bankTable 0) 0 ∧
    (((withBank ⟨false, false, 0, .act, []⟩).repinAll.bank 0).power = .act ∧
      (withBank ⟨false, false, 0, .act, []⟩).repinAll.burstOver 0 = false ∧ (withBank ⟨false, false, 0, .act, []⟩).busyBank 0 = false ∧
      ((withBank ⟨false, false, 0, .act, []⟩).repinAll.bank 0).pins = []) ∧
    (twf .reset pinning.banks = true ∧ ((pinning.harts.filter Hart.pins).map Hart.key).Nodup ∧ pinning.cur.pins = true) ∧
    ¬isSram 0 ∧ Instr.refresh 18432 ∈ bankSteps 18432 := by
  refine ⟨by decide, by decide, ⟨by decide, by decide⟩, rfl, rfl, by decide +kernel, by decide +kernel, by decide +kernel,
    by decide +kernel, by decide +kernel, by decide +kernel, by decide +kernel, ?_, ?_⟩
  · unfold isSram
    decide
  · simp [bankSteps]

/-- A pass that has found a lane of group 1 as the last one found a lane of group 2, and the buses at the edge. -/
theorem witness_Ember : (bare.setBus 0 ⟨true, [(1, 2)], [(2, 3)], []⟩).bus 0 = ⟨true, [(1, 2)], [(2, 3)], []⟩ ∧
    ((3, 31) ∉ [(2, 3)] ∧ (3, 31) ∉ [(1, 2)] ∧ 31 < 33) ∧ (∃ k, (2, k) ∈ [(2, 3)] ∨ (2, k) ∈ [(1, 2)]) ∧
    [(2, 3)].find? (fun x => x.1 == 2) = some (2, 3) ∧ (∀ x ∈ [(2, 3)], x.1 ≠ 1) ∧ 55 < 56 :=
  ⟨by decide +kernel, by decide, ⟨3, Or.inl (by decide)⟩, by decide, by decide, by decide⟩

/-- `lab` with the page of buffer 6 migrating from frame 2 to frame 9. -/
def moved (switched : Bool) : State :=
  { lab with migrations := [⟨0, 2, 9, 0, 0, 0, switched⟩] }

/-- `lab` with one shoot-down for the cores given. -/
def shot (cores : List Nat) : State := { lab with shoots := [⟨0, 1, 6 * 2 ^ 40, [], cores, true⟩] }

theorem witness_Translation :
    (Owns lab 0 0 2 ∧ (lab.pte 0 2).val = true ∧ ¬busy (lab.pte 0 2)) ∧ (Owns lab 0 0 9 ∧ (lab.pte 0 9).val = false) ∧
    ¬Owns lab 0 4 0 ∧ FrameOf 0 2 ∧ FrameOf 4 0 ∧ FrameOf 0 9 ∧
    FirstFault (insertFaults lab 0 0 9 (BitVec.ofNat 64 (6 * 2 ^ 8 + 1))) 1 ∧
    FirstFault (migrationFaults lab 0 0 9 2) 5 ∧
    (∀ x ∈ migrationFaults (lab.setBank 0 ⟨false, false, 3, .stby, []⟩) 0 0 2 9, ¬x.1) ∧ (lab.part 0).shootBusy = false ∧
    ((moved false).migration? 0 2 = some ⟨0, 2, 9, 0, 0, 0, false⟩ ∧ (moved false).migrationRuns ⟨0, 2, 9, 0, 0, 0, false⟩ = true ∧
      (moved false).pageShooting 0 0 0 = false ∧ progress ((moved false).pte 0 2) = 0) ∧
    ((moved true).migration? 0 2 = some ⟨0, 2, 9, 0, 0, 0, true⟩) ∧
    ((shot [3]).shoots = [] ++ ⟨0, 1, 6 * 2 ^ 40, [], [3], true⟩ :: [] ∧ 3 ∈ [3] ∧
      ∀ h ∈ (shot [3]).harts, h.core.toNat = 3 → h.flights = [] ∧ h.matq = []) ∧
    (shot []).shoots = [] ++ ⟨0, 1, 6 * 2 ^ 40, [], [], true⟩ :: [] := by
  refine ⟨by unfold Owns busy; decide +kernel, by unfold Owns; decide +kernel, by unfold Owns; decide +kernel,
    by unfold FrameOf; decide +kernel, by unfold FrameOf; decide +kernel, by unfold FrameOf; decide +kernel,
    ⟨[], _, _, rfl, by decide +kernel, nofun⟩, ⟨[], _, _, rfl, Or.inl (by decide +kernel), nofun⟩, ?_, by decide +kernel,
    by unfold progress; decide +kernel, by decide +kernel, ⟨rfl, by decide, by decide +kernel⟩, rfl⟩
  simp only [migrationFaults, List.forall_mem_cons, List.not_mem_nil, false_implies, implies_true, and_true]
  unfold busy Owns
  constructor <;> decide +kernel

theorem witness_LineSteps : 2 * 512 ∉ (labWith 7).poison ∧ 2 * 512 + 1 ∉ (labWith 7).poison := by decide +kernel

/-! ## Witnesses: partitions, the device, the fabric -/

/-- A partition that owns SRAM segment 0, in `HOME`, with a change to `CACHE` under way, and column 0 draining. -/
def segs0 : State := { bare with
  parts := [(0, { Partition.reset with chmap := 1 <<< 64, segPending := 1, colmap := 3, draining := 2, fqbase := 64 })] }

/-- The partition of `segs0`, ready to be enabled with its table in frame 0 of table 0. -/
def enabling : State := { bare with
  boot := { bare.boot with ready := true }
  parts := [(0, { Partition.reset with chmap := 1, fqbase := 64, cqbase := 32, svslots := 1, mdsize := 396 })] }

/-- A packet for this device on port 0: type, `ADDR` or `CID`, payload. -/
def packet (type addr : Nat) (data : List Byte) : Packet := ⟨0, 0, BitVec.ofNat 128 (type * 2 ^ 123 + addr), data⟩

/-- `lab` with the access tables that firmware writes. -/
def labP0 : State := lab.refreshAccess

theorem witness_PartitionSteps :
    ((segs0.part 0).chmap.getLsbD 64 = true ∧ (1 : Word).getLsbD 0 ≠ (segs0.part 0).segs.getLsbD 0) ∧
    (segs0.part 0).segPending.getLsbD 0 = true ∧ ¬SegmentInUse segs0 0 ∧
    SegmentInUse (segs0.setBank 4111 ⟨false, false, 1, .stby, []⟩) 0 ∧
    (∀ x ∈ segs0.parts, x.2.chmap.getLsbD (64 + 1) = false) ∧
    ((enabling.part 0).en = false ∧ enabling.boot.ready = true ∧ enabling.dump.fatal = none ∧
      (enabling.part 0).enableRefused = false ∧ otherShares enabling 0 false + (enabling.part 0).bwd.toNat ≤ 256 ∧
      otherShares enabling 0 true + (enabling.part 0).bwx.toNat ≤ 256 ∧ enabling.tableOk 0 [(0, 0, 0)] = true) ∧
    ((segs0.part 0).fqbase ≠ 0 ∧ (segs0.part 0).cqbase = 0) ∧ segs0.ownedElsewhere 0 4 0 = false ∧
    ((segs0.part 0).draining.getLsbD 1 = true ∧ segs0.harts = [hart0] ∧ hart0.core.toNat / 8 ≠ 1) ∧
    segs0.channelUsed (1 <<< 64) = false ∧ otherShares segs0 0 true + 256 ≤ 256 ∧ (cfgRow 0x118).isSome = true ∧
    (bare.stalled = [] ∧ ({ bare with stalled := [(0, packet 0 0 [])], buckets := [(0, 300)] } : State).stalled =
      [(0, packet 0 0 [])] ∧ (packet 0 0 []).port < 16 ∧
      256 ≤ min (64 * 256) (tget 0 ({ bare with buckets := [(0, 300)] } : State).buckets 0 + (0 : Nat))) ∧
    ((labP0.part 0).en = true ∧ (∀ x ∈ labP0.barTargets 0 0, labP0.admits x 69 0 0 = true) ∧
      (∀ x ∈ labP0.barTargets 0 (2 * 2 ^ 30 + 0x400000), labP0.admits x 69 0 1 = true) ∧ (labP0.part 0).fqlog ≤ 16) ∧ lab.admits 24 69 0 0 = false := by
  refine ⟨by decide +kernel, by decide +kernel, ?_, ?_, by decide +kernel, by decide +kernel, by decide +kernel,
    by decide +kernel, ⟨by decide +kernel, rfl, by decide⟩, by decide +kernel, by decide +kernel, rfl, by decide +kernel,
    by decide +kernel, by decide +kernel⟩ <;>
  · unfold SegmentInUse
    decide +kernel

/-- A stopped device, and one that serves a quote. -/
def fatal1 : State := { bare with dump := { bare.dump with fatal := some ⟨1, 0, 0, 0, 0⟩ } }
/-- A quote request for the host address 64. -/
def quoting (a : Word) (i : Nat) : State := { bare with sec := { bare.sec with requests := [⟨5, some a⟩], idxA := i, idxB := 0 } }

/-- An image that is refused with code 1, of a source that supplies it. (Under which signatures an image passes depends on the
ROM's keys, which are free values: log entry 10.) -/
theorem witness_DeviceSteps :
    (1 = min 3 (bare.boot.stage.toNat + 1) ∧ 0 = bare.boot.trying ∧ bare.boot.stage.toNat ≤ 2 ∧ bare.boot.imageCode 1 [] = 1 ∧
      Supplied bare 0 [] ∧ Supplied bare 17 [] ∧ ¬Supplied bare 17 [1] ∧ numberOf (([] : List Byte).take 8) ≠ 0x4547414D494B564F) ∧
    bare.boot.trying < 17 ∧ bare.boot.waitrec = false ∧ ({ bare.boot with waitrec := true } : Boot).waitrec = true ∧
    bare.sec.busy = false ∧ bare.sec.requests = [] ∧
    ((quoting 64 0).sec.requests = [⟨5, some 64⟩] ∧ (64 : Word).toNat % 64 = 0 ∧ (quoting 64 0).sec.okA = true ∧
      (quoting 64 0).sec.okB = true ∧ max (quoting 64 0).sec.idxA (quoting 64 0).sec.idxB < 2 ^ 20) ∧
    2 ^ 20 ≤ max (quoting 64 (2 ^ 20)).sec.idxA 0 ∧ (65 : Word).toNat % 64 ≠ 0 ∧ bare.dump.fatal = none ∧
    (fatal1.dump.fatal ≠ none ∧ fatal1.boot.stage ≠ 15) ∧ (4 : Word).getLsbD 2 = true ∧
    ((bare.dump.finished || bare.dump.incomplete) = false) := by
  refine ⟨⟨by decide, by decide, by decide, by decide +kernel, nofun, fun _ => ⟨by decide, rfl⟩, fun h => ?_, by decide⟩, ?_⟩
  · have := (h rfl).2
    revert this
    decide +kernel
  · decide +kernel

/-- `lab` with port 0 up, a request sent under tag 0, and the access tables written. -/
def labP : State :=
  let s := labP0.setPort 0 { lab.port 0 with up := true }
  { s with sent := [⟨0, ⟨0, 1⟩, 1, packet 0 0 [], 1, false⟩] }

/-- `bare` with the first `n` links of the module down. -/
def cut (n : Nat) : State := (List.range n).foldl (fun s k => s.setLink k { bare.link k with down := true }) bare

theorem witness_FabricSteps :
    ((∀ j, ¬CutOff (cut 1) j) ∧ CutOff (cut 10) 0) ∧
    (((bare.setPort 0 ⟨true, 0, 0, [], 16, 0, false, 2, 1, [packet 0 0 [], packet 0 0 [], packet 0 0 []]⟩).port 0).up = true ∧
      flitsIn [packet 0 0 [], packet 0 0 [], packet 0 0 []] = 3 ∧ (1 : BitVec 16) ≠ bare.devid ∧ (bare.port 0).up = false) ∧
    (Arrives labP (packet 2 0 []) 2 ∧ Arrives labP (packet 8 0 []) 8 ∧ Arrives labP (packet 8 (2 ^ 32) []) 8) ∧
    (({ labP with boot := { labP.boot with ready := true, images := [(1, [5])] } } : State).boot.images =
      [((Pk.addr (packet 8 (2 ^ 32) [])) / 2 ^ 32, [5])] ∧ (packet 8 (2 ^ 32) []).payload = []) ∧
    Pk.reserved (packet 6 1 []) = true ∧ Pk.reserved (packet 9 0 []) = true ∧ labP.completed = [] ∧
    (labP.portAdmits (packet 2 (6 * 2 ^ 40) []) 1 [(2 * 2 ^ 16, 4)] = true ∧
      (match labP.remotePlaces 0 (6 * 2 ^ 40) 4 .write with
        | (.ok l, _) => decide (l = [(2 * 2 ^ 16, 4)])
        | _ => false) = true) ∧
    (Arrives labP (packet 1 0 []) 1 ∧ (labP.sent.find? fun y => y.answeredBy (packet 1 0 []) 0).isSome = true) ∧
    (labP.sent.find? fun x => x.tag == 0).isSome = true ∧
    (({ labP with completed := [⟨0, 0, packet 2 0 [], []⟩] } : State).completed.find? fun d =>
      d.src == Pk.src (packet 2 0 []) && d.tag == Pk.tag (packet 2 0 [])).isSome = true ∧
    (Pk.type (packet 2 (5 * 2 ^ 80) []) = 2 ∧ Pk.dst (packet 2 (5 * 2 ^ 80) []) ≠ labP.devid) ∧
    ((⟨0, ⟨0, 1⟩, 2 ^ 37, packet 2 0 [], 1, false⟩ : Sent).posted = true ∧
      (⟨0, ⟨0, 1⟩, 1, packet 2 0 [], 1, false⟩ : Sent).posted = false) ∧
    (Arrives labP (packet 6 0 []) 6 ∧ Arrives labP (packet 7 0 []) 7 ∧ labG.groupSize 0 1 = some 1 ∧ (labG.part 0).colls = []) := by
  refine ⟨⟨?_, ?_⟩, by decide +kernel, ?_, by decide +kernel, by decide +kernel, by decide +kernel, by decide +kernel,
    by decide +kernel, ?_, by decide +kernel, by decide +kernel, by decide +kernel, by decide +kernel, ?_⟩
  · have h : ∀ j < 10, ¬CutOff (cut 1) j := by
      unfold CutOff LinkUp
      decide +kernel
    exact fun j hj => h j hj.1 hj
  · unfold CutOff LinkUp
    decide +kernel
  all_goals
    unfold Arrives
    decide +kernel

/-! ## Witnesses: decoding, stepping, the invariant -/

theorem witness_EncodeDecode : encode? (.addi 5 0 2) = some ⟨4, 0x00080505⟩ ∧ (Instr.addi 5 0 2).illFormed = none := by decide +kernel

theorem witness_DecodeEncode : decode [0x1C, 0x00, 0x07] = .ok (.hNop, [0x07]) := by decide +kernel

theorem witness_StepRuns : lab.cur.status = .running ∧ lab.cur.request = none ∧ lab.agenda = [] ∧ lab.devTurn = false ∧
    (match State.fetch { lab with devTurn := true } with
      | .got len n _ => decide (len = 4 ∧ n = 0x00080505)
      | _ => false) = true ∧ decodeBits 4 0x00080505 = .ok (.addi 5 0 2) ∧
    (match State.fetch { bare with devTurn := true } with
      | .stop _ => true
      | _ => false) = true ∧ decodeBits 4 0xFFFFFFFD = .error .reservedMajor ∧ bare.cur.outstanding = false ∧
    encode? .deviceReset = none ∧ (inStage (.stopping .trap)).ownEvent.isSome = true ∧
    (inStage (.stopping .trap)).agenda = [] ∧ (inStage (.stopping .trap)).cur.status ≠ .running ∧
    bare.ownEvent = none := by decide +kernel

/-- R57: `addi x5, zr, 2` runs as the first instruction after reset. -/
theorem test_step_addi : (match step (State.reset.withFetchWord 32 0x00080505) with
    | .next t => some (t.readX 5, t.cur.pc.toNat)
    | _ => none) = some (2, 5 * 2 ^ 40 + 4) := by decide +kernel

theorem witness_MemoryCanonical : Safety.memoryWf lab = true ∧ (match step lab with
    | .next _ => true
    | _ => false) = true := by decide +kernel

end Sys2Proof.Tests
end

section
/-! SUPPORT. Control and status registers (R9, R30, R33, R95, R265): what each one reads, what a write of one leaves of the
others, and the four CSR instructions. -/

namespace Sys2Proof.Machine

open Sys2Proof.Claims

/-! ## A scalar result of an instruction -/

theorem Hart.writeX_frame (h : Hart) (r : BitVec 5) (v : Word) :
    { h.writeX r v with x := h.x, xPoison := h.xPoison } = h := by
  unfold Hart.writeX; split <;> rfl

/-- A write of `rd` in a state whose scalar registers are those of `s` (R17, R322). -/
theorem writesX_writeX {s u : State} (rd : BitVec 5) (v : Word) (hx : u.cur.x = s.cur.x)
    (hp : u.cur.xPoison = s.cur.xPoison) : WritesX rd v s (u.writeX rd v) := by
  have hread (q : BitVec 5) : u.cur.readX q = s.cur.readX q := by simp only [Hart.readX, hx]
  have hpois (q : BitVec 5) : u.cur.xPoisoned q = s.cur.xPoisoned q := by simp only [Hart.xPoisoned, hp]
  refine ⟨fun q => ?_, fun q => ?_⟩
  · show (u.cur.writeX rd v).readX q = _
    rw [Hart.readX_writeX, hread]
    by_cases hq : q = 0#5
    · subst hq
      by_cases hr : 0#5 = rd
      · subst hr; rfl
      · simp [hr]
    · by_cases hr : q = rd
      · subst hr; simp [hq]
      · simp [hq, hr, State.readX]
  · show (u.cur.writeX rd v).xPoisoned q = _
    rw [Hart.xPoisoned_writeX, hpois]

theorem counts_retire {s u : State} (len : Nat) (hc : u.cur.core = s.cur.core) (hk : ∀ c, u.core c = s.core c) :
    Counts s (retire len u) := by
  intro c
  rw [retire_core, hc, hk]

/-- An instruction that only writes `rd` and retires. -/
theorem scalarStep_retire_writeX (len : Nat) (rd : BitVec 5) (v : Word) (s : State) :
    ScalarStep len rd v s (retire len (s.writeX rd v)) := by
  refine ⟨writesX_writeX rd v rfl rfl, ?_, ?_, counts_retire len ?_ fun _ => rfl, rfl⟩
  · show (s.cur.writeX rd v).pc + _ = _
    rw [Hart.writeX_pc]
  · have h := congrArg (fun h : Hart => { h with pc := s.cur.pc, answers := s.cur.answers }) (s.cur.writeX_frame rd v)
    exact h
  · show (s.cur.writeX rd v).core = _
    rw [Hart.writeX_core]

/-- Where the contents of the memories and of every L1 stay, every byte reads as before. -/
theorem memorySame_of {s t : State} (hmem : t.mem = s.mem) (hhome : t.home = s.home) (hframes : t.frames = s.frames)
    (hl1 : ∀ c, (t.core c).l1 = (s.core c).l1) (hhost : t.host = s.host) (hspad : t.cur.spad = s.cur.spad) :
    MemorySame s t := by
  have hcode (a : Nat) : t.codeOf a = s.codeOf a := by simp only [State.codeOf, State.frame, hframes]
  have hbyte (a : Nat) : t.homeByte a = s.homeByte a := by
    simp only [State.homeByte, State.bankByte, State.granule, hcode, hmem, hhome]
  exact ⟨fun c a => by simp only [State.coreByte, hl1, hbyte], hbyte, hhost, hspad⟩

/-! ## What a CSR reads (R30) -/

@[simp] theorem readCsr_vl (s : State) : s.readCsr 0x000 = BitVec.ofNat 64 s.cur.csr.vlWord := rfl
@[simp] theorem readCsr_fcsr (s : State) : s.readCsr 0x001 = s.cur.csr.fcsr.setWidth 64 := rfl
@[simp] theorem readCsr_lctr (s : State) : s.readCsr 0x002 = s.cur.csr.lctr.setWidth 64 := rfl
@[simp] theorem readCsr_lrem (s : State) : s.readCsr 0x003 = s.cur.csr.lrem.setWidth 64 := rfl
@[simp] theorem readCsr_bwphase (s : State) : s.readCsr 0x004 = s.cur.csr.bwphase.setWidth 64 := rfl
@[simp] theorem readCsr_phack (s : State) : s.readCsr 0x005 = s.cur.csr.phack.setWidth 64 := rfl
@[simp] theorem readCsr_slotid (s : State) : s.readCsr 0x010 = s.cur.slot.setWidth 64 := rfl
@[simp] theorem readCsr_coreid (s : State) : s.readCsr 0x011 = s.cur.core.setWidth 64 := rfl
@[simp] theorem readCsr_columnid (s : State) : s.readCsr 0x012 = BitVec.ofNat 64 (s.cur.core.toNat / 8 % 8) := rfl
@[simp] theorem readCsr_stackid (s : State) : s.readCsr 0x013 = BitVec.ofNat 64 (coreStack s.cur.core.toNat) := rfl
@[simp] theorem readCsr_cycle (s : State) : s.readCsr 0x020 = (s.core s.cur.core.toNat).cycle := rfl
@[simp] theorem readCsr_instret (s : State) : s.readCsr 0x021 = (s.core s.cur.core.toNat).instret := rfl
@[simp] theorem readCsr_thr1 (s : State) : s.readCsr 0x030 = (s.cur.csr.thr.toList.getD 0 0).setWidth 64 := rfl
@[simp] theorem readCsr_thr2 (s : State) : s.readCsr 0x031 = (s.cur.csr.thr.toList.getD 1 0).setWidth 64 := rfl
@[simp] theorem readCsr_thr3 (s : State) : s.readCsr 0x032 = (s.cur.csr.thr.toList.getD 2 0).setWidth 64 := rfl
@[simp] theorem readCsr_thr4 (s : State) : s.readCsr 0x033 = (s.cur.csr.thr.toList.getD 3 0).setWidth 64 := rfl
@[simp] theorem readCsr_thr5 (s : State) : s.readCsr 0x034 = (s.cur.csr.thr.toList.getD 4 0).setWidth 64 := rfl
@[simp] theorem readCsr_thr6 (s : State) : s.readCsr 0x035 = (s.cur.csr.thr.toList.getD 5 0).setWidth 64 := rfl
@[simp] theorem readCsr_thr7 (s : State) : s.readCsr 0x036 = (s.cur.csr.thr.toList.getD 6 0).setWidth 64 := rfl
@[simp] theorem readCsr_zcnt (s : State) : s.readCsr 0x037 = s.cur.csr.zcnt := rfl
@[simp] theorem readCsr_rcnt (s : State) : s.readCsr 0x038 = s.cur.csr.rcnt := rfl
@[simp] theorem readCsr_hcdist (s : State) : s.readCsr 0x040 = s.cur.csr.hcdist.setWidth 64 := rfl
@[simp] theorem readCsr_hcidx2 (s : State) : s.readCsr 0x041 = s.cur.csr.hcidx2.setWidth 64 := rfl
@[simp] theorem readCsr_hcdist2 (s : State) : s.readCsr 0x042 = s.cur.csr.hcdist2.setWidth 64 := rfl
@[simp] theorem readCsr_hcflags (s : State) : s.readCsr 0x043 = s.cur.csr.hcflags.setWidth 64 := rfl
@[simp] theorem readCsr_hcthr (s : State) : s.readCsr 0x044 = s.cur.csr.hcthr.setWidth 64 := rfl
@[simp] theorem readCsr_epact (s : State) : s.readCsr 0x050 = s.cur.csr.epact := rfl
@[simp] theorem readCsr_pfdrop (s : State) : s.readCsr 0x060 = (s.core s.cur.core.toNat).pfdrop := rfl
@[simp] theorem readCsr_reqloc (s : State) : s.readCsr 0x061 = s.cur.csr.reqloc := rfl
@[simp] theorem readCsr_reqrem (s : State) : s.readCsr 0x062 = s.cur.csr.reqrem := rfl
@[simp] theorem readCsr_wakes (s : State) : s.readCsr 0x063 = s.cur.csr.wakes := rfl
@[simp] theorem readCsr_rmwc (s : State) : s.readCsr 0x064 = s.cur.csr.rmwc := rfl
@[simp] theorem readCsr_epc (s : State) : s.readCsr 0x100 = s.cur.csr.epc := rfl
@[simp] theorem readCsr_ecause (s : State) : s.readCsr 0x101 = s.cur.csr.ecause := rfl
@[simp] theorem readCsr_erec0 (s : State) : s.readCsr 0x102 = s.cur.csr.erec0 := rfl
@[simp] theorem readCsr_erec1 (s : State) : s.readCsr 0x103 = s.cur.csr.erec1 := rfl
@[simp] theorem readCsr_erec2 (s : State) : s.readCsr 0x104 = s.cur.csr.erec2 := rfl
@[simp] theorem readCsr_erec3 (s : State) : s.readCsr 0x105 = s.cur.csr.erec3 := rfl
@[simp] theorem readCsr_btbase (s : State) : s.readCsr 0x110 = s.cur.csr.btbase := rfl
@[simp] theorem readCsr_ctxid (s : State) : s.readCsr 0x111 = s.cur.ctxid.setWidth 64 := rfl
@[simp] theorem readCsr_level (s : State) : s.readCsr 0x112 = BitVec.ofNat 64 (bit s.cur.supv) := rfl

/-- The numbers that R30 lists. -/
def csrNumbers : List Nat :=
  [0x000, 0x001, 0x002, 0x003, 0x004, 0x005, 0x010, 0x011, 0x012, 0x013, 0x020, 0x021, 0x030, 0x031, 0x032, 0x033,
    0x034, 0x035, 0x036, 0x037, 0x038, 0x040, 0x041, 0x042, 0x043, 0x044, 0x050, 0x060, 0x061, 0x062, 0x063, 0x064,
    0x100, 0x101, 0x102, 0x103, 0x104, 0x105, 0x110, 0x111, 0x112]

theorem readCsr_unlisted (s : State) {m : Nat} (h : m ∉ csrNumbers) : s.readCsr m = 0 := by
  simp only [csrNumbers, List.mem_cons, List.not_mem_nil, or_false, not_or] at h
  have hthr : ¬(0x030 ≤ m ∧ m ≤ 0x036) := by omega
  unfold State.readCsr
  simp [hthr, h]

/-- States that read alike at every listed number with the property `p` read alike at every number with it. -/
theorem readCsr_eq_of_listed {s t : State} (p : Nat → Prop)
    (h : ∀ m ∈ csrNumbers, p m → t.readCsr m = s.readCsr m) {m : Nat} (hm : p m) : t.readCsr m = s.readCsr m := by
  by_cases hl : m ∈ csrNumbers
  · exact h m hl hm
  · rw [readCsr_unlisted t hl, readCsr_unlisted s hl]

/-- What a CSR reads rests on the context's CSRs, its place, its level, and its core's counters. -/
theorem readCsr_congr {s t : State} (hcsr : t.cur.csr = s.cur.csr) (hslot : t.cur.slot = s.cur.slot)
    (hcore : t.cur.core = s.cur.core) (hid : t.cur.ctxid = s.cur.ctxid) (hsupv : t.cur.supv = s.cur.supv)
    (hk : t.core s.cur.core.toNat = s.core s.cur.core.toNat) (m : Nat) : t.readCsr m = s.readCsr m := by
  simp only [State.readCsr, hcsr, hslot, hcore, hid, hsupv, hk]

@[simp] theorem readCsr_writeX (s : State) (r : BitVec 5) (v : Word) (m : Nat) :
    (s.writeX r v).readCsr m = s.readCsr m :=
  readCsr_congr (t := s.writeX r v) (s.cur.writeX_csr r v) (s.cur.writeX_slot r v) (s.cur.writeX_core r v)
    (s.cur.writeX_ctxid r v) (s.cur.writeX_supv r v) (s.core_writeX r v _) m

theorem readCsr_retire_instret (len : Nat) (s : State) : (retire len s).readCsr 0x021 = s.readCsr 0x021 + 1 := by
  simp [retire_core]

theorem readCsr_retire_ne (len : Nat) (s : State) {m : Nat} (hm : m ≠ 0x021) :
    (retire len s).readCsr m = s.readCsr m :=
  readCsr_eq_of_listed (· ≠ 0x021) (by
    simp only [csrNumbers, List.forall_mem_cons]
    simp [retire_core]) hm

/-! ## What a write of a CSR changes (R9, R95, R265) -/

/-- Of the running context only CSRs and a declared raise, of the cores only `PFDROP`, and beyond them only banks. -/
structure CsrFrame (s t : State) : Prop where
  hart : { t.cur with csr := s.cur.csr, raise := s.cur.raise } = s.cur
  cores : ∀ c, { t.core c with pfdrop := (s.core c).pfdrop } = s.core c
  rest : { t with cur := s.cur, cores := s.cores, banks := s.banks } = s

theorem CsrFrame.refl (s : State) : CsrFrame s s := ⟨rfl, fun _ => rfl, rfl⟩

theorem csrFrame_updCsr (s : State) (f : Csrs → Csrs) : CsrFrame s (s.updCsr f) := ⟨rfl, fun _ => rfl, rfl⟩

theorem csrFrame_pfdrop (s : State) (k : Nat) (v : Word) :
    CsrFrame s (s.setCore k { s.core k with pfdrop := v }) := by
  refine ⟨rfl, fun c => ?_, rfl⟩
  rw [State.core_setCore]
  split
  · next h => subst h; rfl
  · rfl

theorem setPhase_frame (h : Hart) (p : BitVec 2) :
    { h.setPhase p with csr := h.csr, raise := h.raise } = h := by
  unfold Hart.setPhase; split <;> rfl

theorem csrFrame_writePhase (s : State) (p : BitVec 2) : CsrFrame s (s.writePhase p) := by
  unfold State.writePhase
  dsimp only
  split <;> exact ⟨setPhase_frame s.cur p, fun _ => rfl, rfl⟩

/-- Bringing pins to their banks changes nothing but banks. -/
theorem repin_frame (s : State) (h : Hart) : { s.repin h with banks := s.banks } = s := by
  unfold State.repin
  exact foldl_keeps (fun t : State => { t with banks := s.banks })
    (fun t b => t.setBank b ((t.bank b).pin [h.key] (h.csr.phack == 3))) (fun _ _ => rfl) (s.coveredBanks h) _

theorem csrFrame_writeBase (s : State) (v : Word) : CsrFrame s (s.writeBase v) := by
  unfold State.writeBase
  dsimp only
  split
  · have h := repin_frame (s.updCsr fun c => { c with btbase := v }) (s.updCsr fun c => { c with btbase := v }).cur
    have hcur := congrArg State.cur h
    have hcores := congrArg State.cores h
    dsimp only at hcur hcores
    refine ⟨?_, fun c => ?_, ?_⟩
    · rw [hcur]; rfl
    · simp only [State.core, hcores]; rfl
    · exact congrArg (fun t : State => { t with cur := s.cur, cores := s.cores, banks := s.banks }) h
  · exact csrFrame_updCsr _ _

theorem csrFrame_writeCsr (s : State) (n : Nat) (v : Word) : CsrFrame s (s.writeCsr n v) := by
  unfold State.writeCsr
  split
  · exact csrFrame_updCsr _ _
  · split
    case h_2 => exact csrFrame_writePhase _ _
    case h_6 =>
      split
      · exact csrFrame_pfdrop _ _ _
      · exact .refl _
    case h_11 =>
      split
      · exact csrFrame_writeBase _ _
      · exact .refl _
    case h_12 => exact .refl _
    all_goals exact csrFrame_updCsr _ _

theorem CsrFrame.core_l1 {s t : State} (h : CsrFrame s t) (c : Nat) : (t.core c).l1 = (s.core c).l1 :=
  (congrArg CoreState.l1 (h.cores c) :)

/-! ## What a CSR reads after a write -/

theorem setWidth_setWidth_word (w : Nat) (v : Word) :
    (v.setWidth w).setWidth 64 = BitVec.ofNat 64 (v.toNat % 2 ^ w) := by
  apply BitVec.eq_of_toNat_eq
  simp

theorem ofNat_toNat_mod_word (v : Word) : v = BitVec.ofNat 64 (v.toNat % 2 ^ 64) := by
  rw [Nat.mod_eq_of_lt v.isLt, BitVec.ofNat_toNat, BitVec.setWidth_eq]

theorem readCsr_thr (s : State) {k : Nat} (hk : k < 7) :
    s.readCsr (0x030 + k) = (s.cur.csr.thr[k]).setWidth 64 := by
  have h1 : 0x030 + k ≤ 0x036 := by omega
  simp [State.readCsr, h1, hk]

/-- A write of one of the seven thresholds. -/
theorem readCsr_writeThr (s : State) (v : BitVec 32) {k : Nat} (hk : k < 7) (m : Nat) :
    (s.updCsr fun c => { c with thr := c.thr.setIfInBounds k v }).readCsr m =
      if m = 0x030 + k then v.setWidth 64 else s.readCsr m := by
  by_cases hr : 0x030 ≤ m ∧ m ≤ 0x036
  · obtain ⟨j, hj, rfl⟩ : ∃ j, j < 7 ∧ m = 0x030 + j := ⟨m - 0x030, by omega, by omega⟩
    rw [readCsr_thr _ hj, readCsr_thr _ hj]
    show ((s.cur.csr.thr.setIfInBounds k v)[j]).setWidth 64 = _
    rw [Vector.getElem_setIfInBounds hj]
    by_cases hjk : k = j
    · simp [hjk]
    · rw [if_neg hjk, if_neg (by omega)]
  · rw [if_neg (by omega)]
    simp [State.readCsr, State.updCsr, Csrs.vlWord, hr]

/-- A write of `PFDROP` by a supervisor. -/
theorem readCsr_pfdrop_ne (s : State) (v : Word) {m : Nat} (hm : m ≠ 0x060) :
    (s.setCore s.cur.core.toNat { s.core s.cur.core.toNat with pfdrop := v }).readCsr m = s.readCsr m :=
  readCsr_eq_of_listed (· ≠ 0x060) (by
    simp only [csrNumbers, List.forall_mem_cons]
    simp) hm

/-- A write of `BWPHASE` changes what `BWPHASE` and `PHACK` read. -/
theorem readCsr_writePhase (s : State) (p : BitVec 2) :
    (s.writePhase p).readCsr 0x004 = p.setWidth 64 ∧
      ∀ m, m ≠ 0x004 ∧ m ≠ 0x005 → (s.writePhase p).readCsr m = s.readCsr m := by
  have hset (m : Nat) : (s.writePhase p).readCsr m = (s.setCur (s.cur.setPhase p)).readCsr m := by
    unfold State.writePhase
    dsimp only
    split <;> rfl
  simp only [hset]
  unfold Hart.setPhase
  split
  all_goals
    refine ⟨rfl, fun m hm => readCsr_eq_of_listed (fun m => m ≠ 0x004 ∧ m ≠ 0x005) ?_ hm⟩
    simp only [csrNumbers, List.forall_mem_cons]
    simp [Csrs.vlWord]

/-- A write of `BTBASE`, by which pins may move. -/
theorem readCsr_writeBase (s : State) (v : Word) :
    (s.writeBase v).readCsr 0x110 = v ∧ ∀ m, m ≠ 0x110 → (s.writeBase v).readCsr m = s.readCsr m := by
  have hset (m : Nat) : (s.writeBase v).readCsr m = (s.updCsr fun c => { c with btbase := v }).readCsr m := by
    unfold State.writeBase
    dsimp only
    split
    · have h := repin_frame (s.updCsr fun c => { c with btbase := v }) (s.updCsr fun c => { c with btbase := v }).cur
      exact (congrArg (fun t : State => t.readCsr m) h :)
    · rfl
  simp only [hset]
  refine ⟨rfl, fun m hm => readCsr_eq_of_listed (· ≠ 0x110) ?_ hm⟩
  simp only [csrNumbers, List.forall_mem_cons]
  simp [State.updCsr, Csrs.vlWord]

/-- After a write a CSR holds the value in the fields that take one (R9). -/
theorem readCsr_writeCsr_self (s : State) (n : Nat) (v : Word) :
    (s.writeCsr n v).readCsr n = csrAfter s.cur.supv n (s.readCsr n) (some v) := by
  unfold State.writeCsr
  split
  · next h =>
    simp only [Bool.and_eq_true, decide_eq_true_eq] at h
    obtain ⟨k, hk, rfl⟩ : ∃ k, k < 7 ∧ n = 0x030 + k := ⟨n - 0x030, by omega, by omega⟩
    rw [Nat.add_sub_cancel_left, readCsr_writeThr s _ hk, if_pos rfl, setWidth_setWidth_word]
    simp [csrAfter, csrWidth, h]
  · next hthr =>
    split
    case h_1 => exact setWidth_setWidth_word 8 v
    case h_2 => exact (readCsr_writePhase s _).1.trans (setWidth_setWidth_word 2 v)
    case h_5 => exact setWidth_setWidth_word 15 v
    case h_6 =>
      cases hs : s.cur.supv
      · rfl
      · have h : (s.setCore s.cur.core.toNat { s.core s.cur.core.toNat with pfdrop := v }).readCsr 0x060 = v := by
          simp [State.readCsr]
        exact h.trans (ofNat_toNat_mod_word v)
    case h_11 =>
      cases hs : s.cur.supv
      · rfl
      · exact (readCsr_writeBase s v).1.trans (ofNat_toNat_mod_word v)
    case h_12 h1 h2 h3 h4 h5 h6 h7 h8 h9 h10 h11 =>
      have hw : csrWidth s.cur.supv n = none := by
        simp only [Bool.and_eq_true, decide_eq_true_eq, imp_false] at hthr h1 h2 h3 h4 h5 h6 h7 h8 h9 h10 h11
        have h12 : ¬(0x061 ≤ n ∧ n ≤ 0x064) := by omega
        simp [csrWidth, hthr, h1, h2, h3, h4, h5, h6, h11, h12]
      simp [csrAfter, hw]
    all_goals exact ofNat_toNat_mod_word v

/-- A write of a CSR leaves every other one, but that a phase may be acknowledged at once (R265). -/
theorem readCsr_writeCsr_ne (s : State) (n : Nat) (v : Word) {m : Nat} (hm : m ≠ n)
    (hp : ¬(n = 0x004 ∧ m = 0x005)) : (s.writeCsr n v).readCsr m = s.readCsr m := by
  unfold State.writeCsr
  split
  · next h =>
    simp only [Bool.and_eq_true, decide_eq_true_eq] at h
    rw [readCsr_writeThr s _ (by omega), if_neg (by omega)]
  · split
    case h_2 => exact (readCsr_writePhase s _).2 m ⟨hm, fun h => hp ⟨rfl, h⟩⟩
    case h_6 =>
      split
      · exact readCsr_pfdrop_ne s v hm
      · rfl
    case h_11 =>
      split
      · exact (readCsr_writeBase s v).2 m hm
      · rfl
    case h_12 => rfl
    all_goals
      refine readCsr_eq_of_listed (· ≠ _) ?_ hm
      simp only [csrNumbers, List.forall_mem_cons]
      simp [State.updCsr, Csrs.vlWord]

/-! ## The CSR instructions (R95) -/

/-- A CSR written where an instruction writes one (R95). -/
def State.putCsr (s : State) (n : Nat) : Option Word → State
  | some v => s.writeCsr n v
  | none => s

theorem csrFrame_putCsr (s : State) (n : Nat) (o : Option Word) : CsrFrame s (s.putCsr n o) := by
  cases o with
  | none => exact .refl s
  | some v => exact csrFrame_writeCsr s n v

theorem readCsr_putCsr_self (s : State) (n : Nat) (o : Option Word) :
    (s.putCsr n o).readCsr n = csrAfter s.cur.supv n (s.readCsr n) o := by
  cases o with
  | none =>
    unfold csrAfter
    cases csrWidth s.cur.supv n <;> rfl
  | some v => exact readCsr_writeCsr_self s n v

theorem readCsr_putCsr_ne (s : State) (n : Nat) (o : Option Word) {m : Nat} (hm : m ≠ n)
    (hp : ¬(n = 0x004 ∧ m = 0x005)) : (s.putCsr n o).readCsr m = s.readCsr m := by
  cases o with
  | none => rfl
  | some v => exact readCsr_writeCsr_ne s n v hm hp

/-- Only a write of `BWPHASE`, and one of `BTBASE` under pins, touches banks (R265). -/
theorem writeCsr_banks (s : State) (n : Nat) (v : Word) (hn : n ≠ 0x004) (hb : n ≠ 0x110 ∨ s.cur.pins = false) :
    (s.writeCsr n v).banks = s.banks := by
  unfold State.writeCsr
  split
  · rfl
  · split
    case h_2 => exact absurd rfl hn
    case h_6 => split <;> rfl
    case h_11 =>
      split
      · have hpins : (s.updCsr fun c => { c with btbase := v }).cur.pins = false := hb.resolve_left (absurd rfl ·)
        unfold State.writeBase
        dsimp only
        rw [hpins]
        rfl
      · rfl
    all_goals rfl

theorem putCsr_banks (s : State) (n : Nat) (o : Option Word) (hn : n ≠ 0x004)
    (hb : n ≠ 0x110 ∨ s.cur.pins = false) : (s.putCsr n o).banks = s.banks := by
  cases o with
  | none => rfl
  | some v => exact writeCsr_banks s n v hn hb

theorem csrExec_eq (bits : Nat) (rd : BitVec 5) (csr : BitVec 10) (reads : List (BitVec 5))
    (new : Word → Option Word) (s : State) :
    csrExec bits rd csr reads new s =
      finish 4 (firstTrap [if csrSupervisor csr.toNat then s.cur.privCheck bits else none, s.cur.scalarPoison reads]) s
        (((s.tick csr.toNat).putCsr csr.toNat (new ((s.tick csr.toNat).readCsr csr.toNat))).writeX rd
          ((s.tick csr.toNat).readCsr csr.toNat)) := by
  unfold csrExec
  dsimp only
  cases new ((s.tick csr.toNat).readCsr csr.toNat) <;> rfl

/-- A CSR instruction whose level may access the CSR and that reads no poisoned word retires (R16, R95, R322). -/
theorem csrExec_retires (bits : Nat) {rd : BitVec 5} {csr : BitVec 10} {reads : List (BitVec 5)}
    {new : Word → Option Word} {s : State} (hl : 0x100 ≤ csr.toNat → csr.toNat ≤ 0x111 → s.cur.supv = true)
    (hc : Clean s.cur reads) :
    csrExec bits rd csr reads new s =
      .next (retire 4 (((s.tick csr.toNat).putCsr csr.toNat (new ((s.tick csr.toNat).readCsr csr.toNat))).writeX rd
        ((s.tick csr.toNat).readCsr csr.toNat))) := by
  have hpriv : (if csrSupervisor csr.toNat then s.cur.privCheck bits else none) = none := by
    by_cases h : 0x100 ≤ csr.toNat ∧ csr.toNat ≤ 0x111
    · simp [Hart.privCheck, hl h.1 h.2]
    · rw [if_neg (by simpa [csrSupervisor] using h)]
  rw [csrExec_eq, hpriv, (Hart.scalarPoison_eq_none _ _).2 hc]
  rfl

theorem tick_of_ne (s : State) {n : Nat} (h : n ≠ 0x020) : s.tick n = s := if_neg h

/-- `csrr` writes what the CSR reads, and nothing else. -/
theorem csrr_computes (d : BitVec 5) (n : BitVec 10) (s : State) (hn : n.toNat ≠ 0x020)
    (hl : 0x100 ≤ n.toNat → n.toNat ≤ 0x111 → s.cur.supv = true) :
    Computes (.csrr d n) 4 d (s.readCsr n.toNat) s := by
  have h := csrExec_retires (Instr.csrr d n).bits.toNat (rd := d) (reads := []) (new := fun _ => none) hl nofun
  rw [tick_of_ne s hn] at h
  exact ⟨_, h, scalarStep_retire_writeX 4 d _ s⟩

/-- The clock of the running context's core moves on before `CYCLE` is read. -/
theorem tick_cycle (s : State) : s.tick 0x020 = s.draw.2.setCore s.cur.core.toNat
    { s.core s.cur.core.toNat with
      cycle := (s.core s.cur.core.toNat).cycle + BitVec.ofNat 64 (Config.freeNat s.fresh) } := rfl

/-- `csrr` of `CYCLE`, for which the core's clock has moved on by a free number of cycles (R4, R33). -/
theorem csrr_cycle (d : BitVec 5) (s : State) : ∃ t k, exec (.csrr d 0x020) s = .next t ∧
    let now := (s.core s.cur.core.toNat).cycle + BitVec.ofNat 64 k
    WritesX d now s t ∧ (t.core s.cur.core.toNat).cycle = now ∧ t.cur.pc = s.cur.pc + 4 ∧ MemorySame s t := by
  have hexec := csrExec_retires (Instr.csrr d 0x020).bits.toNat (rd := d) (csr := 0x020) (reads := [])
    (new := fun _ => none) (s := s) (fun h => absurd h (by decide)) nofun
  have hnow : (s.tick 0x020).readCsr 0x020 =
      (s.core s.cur.core.toNat).cycle + BitVec.ofNat 64 (Config.freeNat s.fresh) := by
    simp [tick_cycle]
  have hl1 (c : Nat) : ((s.tick 0x020).core c).l1 = (s.core c).l1 := by
    rw [tick_cycle, State.core_setCore]
    split
    · next h => subst h; rfl
    · rfl
  change exec (.csrr d 0x020) s =
    .next (retire 4 ((s.tick 0x020).writeX d ((s.tick 0x020).readCsr 0x020))) at hexec
  rw [hnow] at hexec
  refine ⟨_, Config.freeNat s.fresh, hexec, writesX_writeX d _ rfl rfl, ?_, ?_, ?_⟩
  · simp [retire_core, tick_cycle]
  · simp [tick_cycle]
  · refine memorySame_of rfl rfl rfl (fun c => ?_) rfl ?_
    · simp only [retire_core, State.core_writeX, ← hl1]
      split <;> rfl
    · simp [tick_cycle]

/-- What a CSR instruction that retires in `s` leaves: `rd` holds what the CSR read, the CSR what was written, and beside
them only the count, an acknowledged phase and the banks of a phase have changed. -/
theorem csrWrite_leaves (d : BitVec 5) (n : Nat) (old : Word) (o : Option Word) (s : State) :
    let t := retire 4 ((s.putCsr n o).writeX d old)
    WritesX d old s t ∧ t.cur.pc = s.cur.pc + 4 ∧
    (n ≠ 0x021 → t.readCsr n = csrAfter s.cur.supv n (s.readCsr n) o) ∧
    (∀ m, m ≠ n → m ≠ 0x021 → ¬(n = 0x004 ∧ m = 0x005) → t.readCsr m = s.readCsr m) ∧
    t.readCsr 0x021 = s.readCsr 0x021 + 1 ∧ MemorySame s t ∧
    { t.cur with
      x := s.cur.x, xPoison := s.cur.xPoison, pc := s.cur.pc, answers := s.cur.answers, csr := s.cur.csr
      raise := s.cur.raise } = s.cur ∧
    { t with cur := s.cur, cores := s.cores, banks := s.banks } = s ∧
    (n ≠ 0x004 → (n ≠ 0x110 ∨ s.cur.pins = false) → t.banks = s.banks) := by
  intro t
  have hf := csrFrame_putCsr s n o
  have hrest := hf.rest
  refine ⟨writesX_writeX d old (congrArg Hart.x hf.hart :) (congrArg Hart.xPoison hf.hart :), ?_, fun hn => ?_,
    fun m hm hi hp => ?_, ?_, ?_, ?_, hrest, putCsr_banks s n o⟩
  · show ((s.putCsr n o).cur.writeX d old).pc + 4 = _
    rw [Hart.writeX_pc]
    exact congrArg (· + 4) (congrArg Hart.pc hf.hart :)
  · rw [readCsr_retire_ne 4 _ hn, readCsr_writeX, readCsr_putCsr_self]
  · rw [readCsr_retire_ne 4 _ hi, readCsr_writeX, readCsr_putCsr_ne s n o hm hp]
  · have hcore : (s.putCsr n o).cur.core = s.cur.core := (congrArg Hart.core hf.hart :)
    rw [readCsr_retire_instret, readCsr_writeX, readCsr_instret, readCsr_instret, hcore]
    exact congrArg (· + 1) (congrArg CoreState.instret (hf.cores _) :)
  · refine memorySame_of (congrArg State.mem hrest :) (congrArg State.home hrest :) (congrArg State.frames hrest :)
      (fun c => ?_) (congrArg State.host hrest :) ?_
    · rw [retire_core, State.core_writeX, ← hf.core_l1]
      split <;> rfl
    · show ((s.putCsr n o).cur.writeX d old).spad = _
      rw [Hart.writeX_spad]
      exact (congrArg Hart.spad hf.hart :)
  · have hw := congrArg (fun h : Hart => { h with
      x := s.cur.x, xPoison := s.cur.xPoison, pc := s.cur.pc, answers := s.cur.answers, csr := s.cur.csr
      raise := s.cur.raise }) ((s.putCsr n o).cur.writeX_frame d old)
    have hc := congrArg (fun h : Hart => { h with
      x := s.cur.x, xPoison := s.cur.xPoison, pc := s.cur.pc, answers := s.cur.answers }) hf.hart
    exact (hw.trans hc :)

/-- The instructions that write a CSR are `csrExec` with their row. -/
theorem exec_of_csrRow {i : Instr} {n : BitVec 10} {d : BitVec 5} {rs : List (BitVec 5)}
    {new : Word → Option Word} {s : State} (h : csrRow s i = some (n, d, rs, new)) :
    ∃ bits, exec i s = csrExec bits d n rs new s := by
  unfold csrRow at h
  split at h
  case h_4 => cases h
  all_goals
    cases h
    exact ⟨_, rfl⟩

/-- Settles O7: `csrr` by what its CSR reads, the writing forms by what a write of one CSR leaves of the others. -/
theorem csrAccess : Obligations.CsrAccess := by
  unfold Obligations.CsrAccess
  refine ⟨⟨csrr_computes, csrr_cycle⟩, fun i n d rs new s hrow hn hc hl => ?_⟩
  obtain ⟨bits, hexec⟩ := exec_of_csrRow hrow
  rw [csrExec_retires bits hl hc, tick_of_ne s hn] at hexec
  exact ⟨_, hexec, csrWrite_leaves d n.toNat (s.readCsr n.toNat) (new (s.readCsr n.toNat)) s⟩

end Sys2Proof.Machine
end

section
/-! SUPPORT. Reset, boot, quotes, fatal errors and the dump (R352-R369): what each of these steps of the device leaves. -/

namespace Sys2Proof.Machine

open Sys2Proof.Claims

/-! ## Steps at a unit, bytes and numbers -/

theorem atUnit_of {ok : Bool} (h : ok = true) (s : State) : atUnit ok s = .next s := by rw [h]; rfl

theorem atUnit_of_not {ok : Bool} (h : ok = false) (s : State) : atUnit ok s = .fault .noSuchUnit := by rw [h]; rfl

theorem numberOf_eq_leNat (bs : List Byte) : numberOf bs = leNat bs := by
  induction bs with
  | nil => rfl
  | cons b bs ih => rw [numberOf, leNat, ih]

theorem numberOf_leBytes (k n : Nat) : numberOf (leBytes k n) = n % 256 ^ k := by
  rw [numberOf_eq_leNat, leNat_leBytes]

theorem Memory.read_eq_map (m : List Host.Cell) (a n : Nat) :
    Memory.read m a n = (List.range n).map fun j => Memory.get m (a + j) := by
  refine List.ext_getElem (by simp [Memory.read_length]) fun i h1 _ => ?_
  rw [Memory.read_length] at h1
  have h := Memory.getD_read m a n i h1
  rw [List.getD_eq_getElem _ _ (by rwa [Memory.read_length])] at h
  simp [h]

/-- The number in host memory at a place inside bytes that were just written there. -/
theorem hostNumber_hostWrite (s : State) (a o n : Nat) (bs : List Byte) (h : o + n ≤ bs.length) :
    hostNumber (s.hostWrite a bs) (a + o) n = numberOf ((bs.drop o).take n) := by
  unfold hostNumber
  congr 1
  refine List.ext_getElem (by simp; omega) fun i h1 h2 => ?_
  rw [List.length_map, List.length_range] at h1
  simp only [List.getElem_map, List.getElem_range, State.hostWrite_host, Memory.get_write, List.getElem_take,
    List.getElem_drop]
  rw [if_pos (by omega), show a + o + i - a = o + i by omega, List.getD_eq_getElem]

theorem vector_getD_eq {α : Type} {n : Nat} (v : Vector α n) (i : Nat) (d : α) : v.getD i d = v[i]?.getD d := by
  simp [Vector.getD]

theorem vector_getD_set_self {α : Type} {n : Nat} (v : Vector α n) {i : Nat} (x d : α) (h : i < n) :
    (v.setIfInBounds i x).getD i d = x := by
  rw [vector_getD_eq, Vector.getElem?_setIfInBounds_self_of_lt h, Option.getD_some]

theorem vector_getD_set_ne {α : Type} {n : Nat} (v : Vector α n) {i j : Nat} (x d : α) (h : i ≠ j) :
    (v.setIfInBounds i x).getD j d = v.getD j d := by
  rw [vector_getD_eq, Vector.getElem?_setIfInBounds_ne h, vector_getD_eq]

/-! ## Reset (R352, R360) -/

theorem restarted_restart (s u : State) (d : Dump) (hb : u.boot = s.boot) (hh : u.host = s.host)
    (hd : d.fatal = none) : Restarted s { u.restart with dump := d } := by
  unfold Restarted
  rw [← hb, ← hh]
  exact ⟨rfl, rfl, rfl, rfl, rfl, rfl, rfl, rfl, rfl, rfl, rfl, rfl, rfl, rfl, rfl, rfl, rfl, rfl, rfl, rfl, rfl, hd,
    rfl, rfl⟩

/-- A power failure restarts the device; the leaf index may only have moved where a request was being served. -/
theorem execPowerFailure_eq (s : State) : ∃ y : Security,
    execPowerFailure s = .next { ({ s.draw.2 with sec := y } : State).restart with dump := .reset } ∧
      (s.sec.requests = [] → y = s.sec) := by
  refine ⟨_, rfl, fun h => ?_⟩
  simp only [h]

/-! ## Sources and images (R353-R355) -/

/-- The sources between one and the next are ports that are down (R353). -/
theorem nextSource_spec (s : State) {k : Nat} (hk : k < 17) :
    k < s.nextSource k ∧ s.nextSource k ≤ 17 ∧ ∀ j, k < j → j < s.nextSource k → (s.port (j - 1)).up = false := by
  unfold State.nextSource
  rw [List.find?_map]
  cases hf : (List.range 16).find? ((fun j => decide (k < j) && (tget .reset s.ports (j - 1)).up) ∘ (1 + ·)) with
  | none =>
    rw [List.find?_range_eq_none] at hf
    refine ⟨hk, Nat.le_refl 17, fun j hkj hj => ?_⟩
    have hj : j < 17 := hj
    have h := hf (j - 1) (by omega)
    rw [Function.comp_apply, show 1 + (j - 1) = j by omega] at h
    simpa [hkj, State.port] using h
  | some i =>
    rw [List.find?_range_eq_some] at hf
    obtain ⟨hi, hmem, hbefore⟩ := hf
    rw [List.mem_range] at hmem
    rw [Function.comp_apply, Bool.and_eq_true, decide_eq_true_eq] at hi
    rw [Option.map_some, Option.getD_some]
    refine ⟨hi.1, by omega, fun j hkj hj => ?_⟩
    have h := hbefore (j - 1) (by omega)
    rw [Function.comp_apply, show 1 + (j - 1) = j by omega] at h
    simpa [hkj, State.port] using h

/-- Vector 2 is all that a change of `DSTATE` may add (R357). -/
theorem signalBoot_eq (s0 s : State) : ∃ l, s0.signalBoot s = { s with signals := l } := by
  unfold State.signalBoot
  dsimp only
  split
  · exact ⟨s.signals, rfl⟩
  · exact ⟨_, rfl⟩

theorem supplies_iff (s : State) (source : Nat) (img : List Byte) :
    s.supplies source img = true ↔ Supplied s source img := by
  have hread : Memory.read s.boot.window 0 img.length =
      (List.range img.length).map (Memory.get s.boot.window) := by simp [Memory.read_eq_map]
  unfold State.supplies Supplied
  rw [hread]
  by_cases h : source = 17 <;> simp [h]

/-- An image for which it is not the time, or not the source (R352, R353). -/
theorem verify_idle {s : State} {stage source : Nat} (img : List Byte)
    (h : stage ≠ s.boot.nextStage ∨ source ≠ s.boot.trying ∨ 2 < s.boot.stage.toNat) :
    s.verify stage source img = s := by
  unfold State.verify
  rw [if_pos (by simpa [or_assoc] using h)]

/-- The boot state that has taken an image: its stage starts next. -/
def State.takeImage (s : State) (stage source : Nat) (img : List Byte) : State :=
  { s with boot := { s.boot.accept stage img with
      source := BitVec.ofNat 8 source, trying := 0, waitrec := false, window := []
      images := (s.boot.accept stage img).images.filter (fun (x : Nat × List Byte) => x.1 != stage) ++ [(stage, img)] } }

theorem verify_due {s : State} {stage source : Nat} (img : List Byte) (hst : stage = s.boot.nextStage)
    (hsrc : source = s.boot.trying) (h2 : s.boot.stage.toNat ≤ 2) :
    s.verify stage source img = s.signalBoot
      (if s.boot.imageCode stage img ≠ 0 then
        ({ s with boot := { s.boot with err := BitVec.ofNat 8 (s.boot.imageCode stage img) } }).tryNext
      else (s.takeImage stage source img).startStage stage) := by
  unfold State.verify
  rw [if_neg (by simp [hst, hsrc, h2])]
  rfl

theorem setRaaLimits_eq (s : State) :
    ∃ im mm, s.setRaaLimits = { s with raaimt := im, raammt := mm, fresh := s.fresh + 1 } := ⟨_, _, rfl⟩

/-- The thresholds keep the bounds of R361. -/
theorem setRaaLimits_limits (s : State) {k : Nat} (hk : k < 16) :
    16 ≤ s.setRaaLimits.raaimt.getD k 0 ∧ s.setRaaLimits.raaimt.getD k 0 ≤ 256 ∧
      2 * s.setRaaLimits.raaimt.getD k 0 ≤ s.setRaaLimits.raammt.getD k 0 ∧
      s.setRaaLimits.raammt.getD k 0 ≤ 8 * s.setRaaLimits.raaimt.getD k 0 := by
  have him : s.setRaaLimits.raaimt.getD k 0 = (firmwareRaa s.draw.1 k).1 := by
    rw [vector_getD_eq]
    show (Vector.ofFn _)[k]?.getD 0 = _
    rw [Vector.getElem?_ofFn, dif_pos hk, Option.getD_some]
    rfl
  have hmm : s.setRaaLimits.raammt.getD k 0 = (firmwareRaa s.draw.1 k).2 := by
    rw [vector_getD_eq]
    show (Vector.ofFn _)[k]?.getD 0 = _
    rw [Vector.getElem?_ofFn, dif_pos hk, Option.getD_some]
    rfl
  rw [him, hmm]
  unfold firmwareRaa
  dsimp only
  generalize s.draw.1 / (241 * 7) ^ k = q
  have h1 : 16 + q % 241 ≤ 256 := by omega
  have h2 : 2 + q / 241 % 7 ≤ 8 := by omega
  refine ⟨by omega, h1, ?_, ?_⟩
  · rw [Nat.mul_comm]
    exact Nat.mul_le_mul_left _ (by omega)
  · rw [Nat.mul_comm]
    exact Nat.mul_le_mul_right _ h2

/-- Banks put into `STBY`, which touches banks only. -/
theorem standby_eq (bs : List Nat) (s : State) :
    ∃ l, bs.foldl (fun s b => s.setPower b .stby) s = { s with banks := l } :=
  ⟨_, foldl_keeps (fun t : State => { t with banks := (bs.foldl (fun (u : State) b => u.setPower b .stby) s).banks })
    (fun t b => t.setPower b .stby) (fun _ _ => rfl) bs s⟩

theorem startStage_one (s : State) : ∃ l, s.startStage 1 = { s.setRaaLimits with
    reserved := reservedBanks
    boot := { s.boot with
      stage := 1
      mr := s.boot.mr.setIfInBounds 0 (extendMr (s.boot.mr.getD 0 0) Config.romDigest) }
    banks := l } := standby_eq reservedBanks _

theorem startStage_two (s : State) : s.startStage 2 =
    { s.setRaaLimits with boot := { s.boot with stage := 2, ready := true } } := rfl

theorem startStage_three (s : State) : s.startStage 3 = s.setRaaLimits := rfl

/-- What a stage that starts changes (R352, R361). -/
theorem startStage_leaves (s : State) {stage : Nat} (h1 : 1 ≤ stage) (h3 : stage ≤ 3) :
    (s.startStage stage).boot.source = s.boot.source ∧ (s.startStage stage).boot.window = s.boot.window ∧
      (s.startStage stage).boot.images = s.boot.images ∧
      (s.startStage stage).boot.mr.getD stage 0 = s.boot.mr.getD stage 0 ∧
      (stage = 1 → (s.startStage stage).boot.stage = 1 ∧ (s.startStage stage).reserved = reservedBanks) ∧
      (stage = 2 → (s.startStage stage).boot.stage = 2 ∧ (s.startStage stage).boot.ready = true) ∧
      (s.startStage stage).raaimt = s.setRaaLimits.raaimt ∧ (s.startStage stage).raammt = s.setRaaLimits.raammt ∧
      { s.startStage stage with
        boot := s.boot, reserved := s.reserved, banks := s.banks, raaimt := s.raaimt, raammt := s.raammt
        fresh := s.fresh } = s := by
  obtain ⟨im, mm, hr⟩ := setRaaLimits_eq s
  obtain rfl | rfl | rfl : stage = 1 ∨ stage = 2 ∨ stage = 3 := by omega
  · obtain ⟨l, hl⟩ := startStage_one s
    rw [hl, hr]
    exact ⟨rfl, rfl, rfl, vector_getD_set_ne _ _ _ (by decide), fun _ => ⟨rfl, rfl⟩,
      fun h => absurd h (by decide), rfl, rfl, rfl⟩
  · rw [startStage_two, hr]
    exact ⟨rfl, rfl, rfl, rfl, fun h => absurd h (by decide), fun _ => ⟨rfl, rfl⟩, rfl, rfl, rfl⟩
  · rw [startStage_three, hr]
    exact ⟨rfl, rfl, rfl, rfl, fun h => absurd h (by decide), fun h => absurd h (by decide),
      rfl, rfl, rfl⟩

theorem imgNat_eq_numberOf (img : List Byte) (o n : Nat) : imgNat img o n = numberOf ((img.drop o).take n) :=
  (numberOf_eq_leNat _).symm

/-- The measurement of an image is that of its digest (R355). -/
theorem takeImage_mr (s : State) (source : Nat) (img : List Byte) {stage : Nat} (h : stage < 4) :
    (s.takeImage stage source img).boot.mr.getD stage 0 =
      extendMr (s.boot.mr.getD stage 0) (BitVec.ofNat 512 (numberOf ((img.drop 24).take 64))) := by
  rw [← imgNat_eq_numberOf]
  exact vector_getD_set_self _ _ _ h

/-- An image without the magic number is refused with code 1. -/
theorem imageCode_magic (b : Boot) (stage : Nat) {img : List Byte}
    (h : numberOf (img.take 8) ≠ 0x4547414D494B564F) : b.imageCode stage img = 1 := by
  rw [← List.drop_zero (l := img), ← imgNat_eq_numberOf] at h
  unfold Boot.imageCode
  simp [h]

theorem execImageVerify_eq {stage source : Nat} (img : List Byte) (s : State) (h1 : 1 ≤ stage) (h3 : stage ≤ 3)
    (h17 : source ≤ 17) : exec (.imageVerify stage source img) s =
      .next (if s.supplies source img then s.verify stage source img else s) :=
  atUnit_of (by simp [h1, h3, h17]) _

/-- An image is refused with its code, or measured and its stage started (R353 to R355). -/
theorem imageVerify_steps (stage source : Nat) (img : List Byte) (s : State) (h1 : 1 ≤ stage) (h3 : stage ≤ 3)
    (h17 : source ≤ 17) :
    let b := s.boot
    let i := Instr.imageVerify stage source img
    let code := b.imageCode stage img
    ((stage ≠ min 3 (b.stage.toNat + 1) ∨ source ≠ b.trying ∨ 2 < b.stage.toNat ∨ ¬Supplied s source img) →
      exec i s = .next s) ∧
    (stage = min 3 (b.stage.toNat + 1) → source = b.trying → b.stage.toNat ≤ 2 → Supplied s source img →
      (code ≠ 0 → ∃ t, exec i s = .next t ∧ t.boot.err = BitVec.ofNat 8 code ∧ t.boot.stage = b.stage ∧
        t.boot.mr = b.mr ∧ t.boot.fuseSvn = b.fuseSvn ∧ (t.boot.waitrec = true ↔ t.boot.trying = 17) ∧
        { t with boot := s.boot, signals := s.signals } = s) ∧
      (code = 0 → ∃ t, exec i s = .next t ∧ t.boot.source = BitVec.ofNat 8 source ∧ t.boot.window = [] ∧
        (stage = 1 → t.boot.stage = 1 ∧ t.reserved = reservedBanks) ∧
        (stage = 2 → t.boot.stage = 2 ∧ t.boot.ready = true) ∧
        t.boot.mr.getD stage 0 = extendMr (b.mr.getD stage 0) (BitVec.ofNat 512 (numberOf ((img.drop 24).take 64))) ∧
        (stage, img) ∈ t.boot.images ∧ (∀ k < 16, let im := t.raaimt.getD k 0
          16 ≤ im ∧ im ≤ 256 ∧ 2 * im ≤ t.raammt.getD k 0 ∧ t.raammt.getD k 0 ≤ 8 * im) ∧
        { t with
          boot := s.boot, signals := s.signals, reserved := s.reserved, banks := s.banks, raa := s.raa
          raaimt := s.raaimt, raammt := s.raammt, fresh := s.fresh } = s)) ∧
    (numberOf (img.take 8) ≠ 0x4547414D494B564F → code = 1) := by
  intro b i code
  have hexec : exec i s = _ := execImageVerify_eq img s h1 h3 h17
  refine ⟨fun h => ?_, fun hst hsrc h2 hsup => ?_, imageCode_magic b stage⟩
  · rw [hexec]
    by_cases hs : Supplied s source img
    · rw [verify_idle img (by simpa [hs, Boot.nextStage] using h), ite_self]
    · rw [if_neg (mt (supplies_iff s source img).1 hs)]
  · rw [if_pos ((supplies_iff s source img).2 hsup), verify_due img hst hsrc h2] at hexec
    refine ⟨fun hc => ?_, fun hc => ?_⟩
    · rw [if_pos hc] at hexec
      obtain ⟨l, hl⟩ := signalBoot_eq s ({ s with boot := { s.boot with err := BitVec.ofNat 8 code } } : State).tryNext
      exact ⟨_, hexec.trans (congrArg _ hl), rfl, rfl, rfl, rfl, by simp [State.tryNext], rfl⟩
    · rw [if_neg (not_not.2 hc)] at hexec
      obtain ⟨l, hl⟩ := signalBoot_eq s ((s.takeImage stage source img).startStage stage)
      obtain ⟨hsource, hwindow, himages, hmr, hone, htwo, him, hmm, hframe⟩ :=
        startStage_leaves (s.takeImage stage source img) h1 h3
      refine ⟨_, hexec.trans (congrArg _ hl), hsource, hwindow, hone, htwo,
        hmr.trans (takeImage_mr s source img (by omega)), ?_, fun k hk => ?_, ?_⟩
      · show (stage, img) ∈ ((s.takeImage stage source img).startStage stage).boot.images
        rw [himages]
        exact List.mem_append_right _ (List.mem_singleton.2 rfl)
      · dsimp only
        rw [him, hmm]
        exact setRaaLimits_limits _ hk
      · exact (congrArg (fun t : State => { t with boot := s.boot, signals := s.signals, raa := s.raa }) hframe :)

/-- The dump area of an HBM4E stack is two whole reserved banks of it (R368). -/
theorem dumpArea_reserved (k x : Nat) (hk : k = 0 ∨ k = 7) (hlo : dumpBase k ≤ x) (hhi : x < dumpBase k + 2 ^ 26) :
    paTable x = 8 + k ∧ paBank x ∈ reservedBanks := by
  have hmem : paBank (dumpBase k) ∈ reservedBanks ∧ paBank (dumpBase k) + 1 ∈ reservedBanks := by
    obtain rfl | rfl := hk <;> simp [reservedBanks]
  obtain ⟨c, hc, hbase⟩ : ∃ c < 1535, dumpBase k = (8 + k) * 2 ^ 37 + 512 * c * 2 ^ 16 :=
    ⟨Config.dumpBank k % 1535, Nat.mod_lt _ (by decide), by simp only [dumpBase, physAddr, Nat.add_zero]⟩
  have hbank (y : Nat) (hy : paTable y = 8 + k) : paBank y = 6144 + k * 1536 + paFrame y / 512 := by
    simp only [paBank, frameBank, hy]
    rw [if_neg (by omega), if_neg (by omega), Nat.add_sub_cancel_left]
  have htable : paTable x = 8 + k := by
    unfold paTable
    omega
  have htable0 : paTable (dumpBase k) = 8 + k := by
    unfold paTable
    omega
  have hframe : paFrame x / 512 = c ∨ paFrame x / 512 = c + 1 := by
    unfold paFrame
    omega
  have hframe0 : paFrame (dumpBase k) / 512 = c := by
    unfold paFrame
    omega
  refine ⟨htable, ?_⟩
  rw [hbank _ htable0, hframe0] at hmem
  rw [hbank x htable]
  obtain h | h := hframe <;> rw [h]
  · exact hmem.1
  · exact hmem.2

/-- The next source is tried when the present one supplies nothing (R353). -/
theorem imageFetchFailure_steps (s : State) :
    ActsWhen (s.boot.trying < 17 ∧ s.boot.stage.toNat ≤ 2) .imageFetchFailure s fun t =>
      s.boot.trying < t.boot.trying ∧ t.boot.trying ≤ 17 ∧
      (∀ j, s.boot.trying < j → j < t.boot.trying → (s.port (j - 1)).up = false) ∧
      (t.boot.waitrec = true ↔ t.boot.trying = 17) ∧ { t with boot := s.boot, signals := s.signals } = s := by
  have hexec : exec .imageFetchFailure s =
      .next (if s.boot.trying < 17 && s.boot.stage.toNat ≤ 2 then s.signalBoot s.tryNext else s) := rfl
  refine ⟨fun h => ?_, fun h => ?_⟩
  · obtain ⟨l, hl⟩ := signalBoot_eq s s.tryNext
    rw [if_pos (by simpa using h), hl] at hexec
    obtain ⟨hlt, hle, hdown⟩ := nextSource_spec s h.1
    exact ⟨_, hexec, hlt, hle, hdown, by simp [State.tryNext], rfl⟩
  · rw [hexec, if_neg (by simpa using h)]

/-- The host's window takes aligned writes while the boot waits for it (R341, R353). -/
theorem recoveryWindowWrite_steps (off : Nat) (bs : List Byte) (s : State) :
    ActsWhen (s.boot.waitrec = true ∧ off % 4 = 0 ∧ bs.length % 4 = 0 ∧
      4 ≤ bs.length ∧ bs.length ≤ 512 ∧ off + bs.length ≤ 2 ^ 26) (.recoveryWindowWrite off bs) s fun t =>
    { t with boot := { t.boot with window := s.boot.window } } = s ∧
    ∀ a, Memory.get t.boot.window a = if off ≤ a ∧ a < off + bs.length then bs.getD (a - off) 0
      else Memory.get s.boot.window a := by
  have hexec : exec (.recoveryWindowWrite off bs) s = .next (s.writeWindow off bs) := rfl
  unfold State.writeWindow at hexec
  refine ⟨fun h => ?_, fun h => ?_⟩
  · rw [if_pos (by simpa [and_assoc] using h)] at hexec
    exact ⟨_, hexec, rfl, fun a => Memory.get_write _ _ _ _⟩
  · rw [hexec, if_neg (by simpa [and_assoc] using h)]

/-- `RECGO` verifies the first bytes of the window as an image of the host (R353). -/
theorem recgo_steps (len : Word) (s : State) : (s.boot.waitrec = false → exec (.recgo len) s = .next s) ∧
    (s.boot.waitrec = true → ∃ t, exec (.recgo len) s = .next t ∧ exec (.imageVerify (min 3 (s.boot.stage.toNat + 1)) 17
      ((List.range (min len.toNat (2 ^ 26))).map (Memory.get s.boot.window))) s = .next t) := by
  have hexec : exec (.recgo len) s = .next (s.recgo len) := rfl
  unfold State.recgo at hexec
  refine ⟨fun h => ?_, fun h => ?_⟩
  · rw [hexec, if_neg (by simp [h])]
  · rw [if_pos h] at hexec
    refine ⟨_, hexec, ?_⟩
    rw [execImageVerify_eq _ s (by omega) (by omega) (by omega), if_pos]
    · simp only [Memory.read_eq_map, Nat.zero_add]
      rfl
    · rw [supplies_iff]
      intro _
      simp

/-! ## Quotes (R359, R360) -/

theorem qgo_steps (v : Word) (s : State) : ActsWhen (v = 1 ∧ s.sec.busy = false) (.qgo v) s fun t =>
    t = { s with sec := { s.sec with
      busy := true, requests := s.sec.requests ++ [⟨s.sec.nonce, some s.sec.qaddr⟩] } } := by
  have hexec : exec (.qgo v) s = .next (s.qgo v) := rfl
  unfold State.qgo at hexec
  refine ⟨fun h => ⟨_, hexec.trans ?_, rfl⟩, fun h => ?_⟩
  · rw [if_pos (by simpa using h)]
  · rw [hexec, if_neg (by simpa using h)]

/-- A quote begins with the serial number and the nonce (R359). -/
theorem quote_eq (s : State) (nonce : BitVec 256) (leaf : Nat) : ∃ rest,
    s.quote nonce leaf = leBytes 8 s.boot.devSer.toNat ++ (leBytes 32 nonce.toNat ++ rest) := by
  unfold State.quote
  dsimp only
  simp only [List.append_assoc]
  exact ⟨_, rfl⟩

theorem serveQuote_unaligned {s : State} {r : QuoteReq} {rs : List QuoteReq} {a : Word}
    (h : s.sec.requests = r :: rs) (ha : r.addr = some a) (ho : a.toNat % 64 ≠ 0) :
    s.serveQuote = { s with
      sec := { s.sec with requests := rs, busy := false, result := 2 }, signals := s.signals ++ [.pf 1] } := by
  unfold State.serveQuote
  simp [h, ha, ho, Security.finish]

/-- No leaf is left (R360). -/
theorem serveQuote_exhausted {s : State} {r : QuoteReq} {rs : List QuoteReq} {a : Word}
    (h : s.sec.requests = r :: rs) (ha : r.addr = some a) (ho : a.toNat % 64 = 0) (hA : s.sec.okA = true)
    (hB : s.sec.okB = true) (hi : 2 ^ 20 ≤ max s.sec.idxA s.sec.idxB) :
    s.serveQuote = { s with
      sec := { s.sec with requests := rs, busy := false, result := 1 }, signals := s.signals ++ [.pf 1] } := by
  have hidx : (({ s.sec with requests := rs } : Security).index).filter (· < 2 ^ 20) = none := by
    simp only [Security.index, hA, hB, Option.filter_some]
    rw [if_neg (by simp only [decide_eq_true_eq]; omega)]
  unfold State.serveQuote
  simp only [h, ha, hidx]
  simp [ho, Security.finish]

/-- A leaf signs, after the index has advanced in both copies (R360). -/
theorem serveQuote_signed {s : State} {r : QuoteReq} {rs : List QuoteReq} {a : Word}
    (h : s.sec.requests = r :: rs) (ha : r.addr = some a) (ho : a.toNat % 64 = 0) (hA : s.sec.okA = true)
    (hB : s.sec.okB = true) (hi : max s.sec.idxA s.sec.idxB < 2 ^ 20) :
    s.serveQuote = ({ s with
      sec := { s.sec with
        requests := rs, busy := false, result := 0, idxA := max s.sec.idxA s.sec.idxB + 1
        idxB := max s.sec.idxA s.sec.idxB + 1 }
      signals := s.signals ++ [.pf 1] } : State).hostWrite a.toNat (s.quote r.nonce (max s.sec.idxA s.sec.idxB)) := by
  have hidx : (({ s.sec with requests := rs } : Security).index).filter (· < 2 ^ 20) =
      some (max s.sec.idxA s.sec.idxB) := by
    simp only [Security.index, hA, hB, Option.filter_some]
    rw [if_pos (by simpa using hi)]
  unfold State.serveQuote
  simp only [h, ha, hidx]
  simp [ho, hA, hB, Security.finish]

/-- The oldest quote request is served (R359, R360). -/
theorem quoteSign_steps (s : State) : (s.sec.requests = [] → exec .quoteSign s = .next s) ∧
    ∀ r rs, s.sec.requests = r :: rs →
      (∀ a : Word, r.addr = some a → a.toNat % 64 ≠ 0 → exec .quoteSign s = .next { s with
        sec := { s.sec with requests := rs, busy := false, result := 2 }, signals := s.signals ++ [.pf 1] }) ∧
      (∀ a : Word, r.addr = some a → a.toNat % 64 = 0 → s.sec.okA = true → s.sec.okB = true →
        (2 ^ 20 ≤ max s.sec.idxA s.sec.idxB → exec .quoteSign s = .next { s with
          sec := { s.sec with requests := rs, busy := false, result := 1 }, signals := s.signals ++ [.pf 1] }) ∧
        (max s.sec.idxA s.sec.idxB < 2 ^ 20 → ∃ t, exec .quoteSign s = .next t ∧
          t.sec = { s.sec with
            requests := rs, busy := false, result := 0, idxA := max s.sec.idxA s.sec.idxB + 1
            idxB := max s.sec.idxA s.sec.idxB + 1 } ∧
          hostNumber t a.toNat 8 = s.boot.devSer.toNat ∧ hostNumber t (a.toNat + 8) 32 = r.nonce.toNat ∧
          t.signals = s.signals ++ [.pf 1] ∧ { t with sec := s.sec, signals := s.signals, host := s.host } = s)) := by
  have hexec : exec .quoteSign s = .next s.serveQuote := rfl
  refine ⟨fun h => ?_, fun r rs h => ⟨fun a ha ho => ?_, fun a ha ho hA hB => ⟨fun hi => ?_, fun hi => ?_⟩⟩⟩
  · rw [hexec]
    unfold State.serveQuote
    rw [h]
  · rw [hexec, serveQuote_unaligned h ha ho]
  · rw [hexec, serveQuote_exhausted h ha ho hA hB hi]
  · rw [serveQuote_signed h ha ho hA hB hi] at hexec
    obtain ⟨rest, hq⟩ := quote_eq s r.nonce (max s.sec.idxA s.sec.idxB)
    rw [hq] at hexec
    refine ⟨_, hexec, rfl, ?_, ?_, rfl, rfl⟩
    · refine (hostNumber_hostWrite _ a.toNat 0 8 _ (by simp [leBytes_length])).trans ?_
      rw [List.drop_zero, List.take_left' (leBytes_length _ _), numberOf_leBytes]
      exact Nat.mod_eq_of_lt s.boot.devSer.isLt
    · rw [hostNumber_hostWrite _ _ _ _ _ (by simp [leBytes_length]; omega)]
      rw [List.drop_left' (leBytes_length _ _), List.take_left' (leBytes_length _ _), numberOf_leBytes]
      exact Nat.mod_eq_of_lt r.nonce.isLt

/-! ## Fatal errors and the dump (R366-R369) -/

theorem fatalError_again {s : State} {f : Fatal} (h : s.dump.fatal = some f) (cause kind unit : Nat) :
    s.fatalError cause kind unit =
      { s with dump := { s.dump with fatal := some { f with second := f.second + 1 } } } := by
  unfold State.fatalError
  rw [h]

theorem stopDevice_disables (s : State) : ∀ x ∈ s.stopDevice.parts, x.2.en = false := by
  intro x hx
  obtain ⟨y, _, rfl⟩ := List.mem_map.1 hx
  rfl

/-- The first fatal error stops the device and begins a dump, unless one that is not released holds the area (R367,
R369). -/
theorem fatalError_first {s : State} (h : s.dump.fatal = none) (cause kind unit : Nat) : ∃ parts stack area,
    s.fatalError cause kind unit = { s.draw.2.draw.2.draw.2.stopDevice with dump := { s.dump with
      fatal := some ⟨cause, kind, unit, 0, parts⟩, stack := stack, area := area } } ∧
      ((s.dump.finished || s.dump.incomplete) = true → area = s.dump.area ∧ stack = s.dump.stack) ∧
      ((s.dump.finished || s.dump.incomplete) = false → stack = dumpStack kind unit) := by
  unfold State.fatalError
  rw [h]
  exact ⟨_, _, _, rfl, fun hd => ⟨if_pos hd, if_pos hd⟩, fun hd => if_neg (by simp [hd])⟩

theorem dumpStack_core (unit : Nat) : dumpStack 0 unit = coreDump unit := by
  simp [dumpStack, coreDump]

/-- A fatal error of a legal cause and unit kind is counted, or stops the device (R366, R367). -/
theorem deviceFatalError_steps (cause kind unit : Nat) (s : State) :
    ((cause = 0 ∨ 7 < cause ∨ 5 < kind) → exec (.deviceFatalError cause kind unit) s = .fault .noSuchUnit) ∧
    (1 ≤ cause → cause ≤ 7 → kind ≤ 5 →
      (∀ f, s.dump.fatal = some f → exec (.deviceFatalError cause kind unit) s = .next { s with dump := { s.dump with
        fatal := some { f with second := f.second + 1 } } }) ∧
      (s.dump.fatal = none → ∃ t f, exec (.deviceFatalError cause kind unit) s = .next t ∧ t.dump.fatal = some f ∧
        f.cause = cause ∧ f.ukind = kind ∧ f.unit = unit ∧ f.second = 0 ∧ t.cur = .reset ∧ t.rest = [] ∧
        (∀ x ∈ t.parts, x.2.en = false) ∧ t.mem = s.mem ∧ t.host = s.host ∧ t.stalled = [] ∧ t.sent = [] ∧
        ((s.dump.finished || s.dump.incomplete) = true → t.dump.area = s.dump.area ∧ t.dump.stack = s.dump.stack) ∧
        ((s.dump.finished || s.dump.incomplete) = false → kind = 0 → t.dump.stack = coreDump unit))) := by
  refine ⟨fun h => atUnit_of_not (by simp; omega) _, fun h1 h7 h5 => ?_⟩
  have hexec : exec (.deviceFatalError cause kind unit) s = .next (s.fatalError cause kind unit) :=
    atUnit_of (by simp [h1, h7, h5]) _
  refine ⟨fun f hf => ?_, fun hf => ?_⟩
  · rw [hexec, fatalError_again hf]
  · obtain ⟨parts, stack, area, ht, hheld, hfree⟩ := fatalError_first hf cause kind unit
    refine ⟨_, ⟨cause, kind, unit, 0, parts⟩, hexec.trans (congrArg _ ht), rfl, rfl, rfl, rfl, rfl, rfl, rfl,
      stopDevice_disables _, rfl, rfl, rfl, rfl, hheld, fun hd hk => ?_⟩
    rw [← dumpStack_core, ← hk]
    exact hfree hd

theorem stewardWatchdogExpiry_steps (core : Nat) (s : State) (h : core < 4) :
    ∃ t, exec (.stewardWatchdogExpiry core) s = .next t ∧ exec (.deviceFatalError 5 3 core) s = .next t :=
  ⟨s.fatalError 5 3 core, atUnit_of (by simp [h]) _, rfl⟩

/-- The end of a dump: stage 15, and the dump is finished or incomplete (R367). -/
theorem dumpComplete_steps (part : Bool) (s : State) :
    ActsWhen (s.dump.fatal ≠ none ∧ s.boot.stage ≠ 15) (.dumpComplete part) s fun t =>
    t.boot = { s.boot with stage := 15, ready := false } ∧ t.signals = s.signals ++ [.pf 0, .pf 2] ∧
    (t.dump.finished = true ∨ t.dump.incomplete = true) ∧ t.dump.fatal = s.dump.fatal ∧
    { t with boot := s.boot, signals := s.signals, dump := s.dump } = s := by
  have hexec : exec (.dumpComplete part) s = execDumpComplete part s := rfl
  unfold execDumpComplete at hexec
  cases hf : s.dump.fatal with
  | none =>
    rw [hf] at hexec
    exact ⟨fun h => absurd rfl h.1, fun _ => hexec⟩
  | some f =>
    rw [hf] at hexec
    dsimp only at hexec
    refine ⟨fun h => ?_, fun h => ?_⟩
    · rw [if_neg h.2] at hexec
      refine ⟨_, hexec, rfl, rfl, ?_, hf, rfl⟩
      cases hs : part && f.second != 0 <;> simp
    · rw [hexec, if_pos (by simpa using h)]

theorem dumpRelease_steps (v : Word) (s : State) : ActsWhen (v.getLsbD 2 = true) (.dumpRelease v) s fun t =>
    t = { s with dump := { s.dump with finished := false, incomplete := false } } := by
  have hexec : exec (.dumpRelease v) s = execDumpRelease v s := rfl
  unfold execDumpRelease at hexec
  refine ⟨fun h => ⟨_, hexec.trans ?_, rfl⟩, fun h => ?_⟩
  · rw [if_pos h]
  · rw [hexec, if_neg h]

/-- Every kind of reset leaves what fuses, the non-volatile store and the outside hold (R352, R360, R367). -/
theorem reset_steps (s : State) : (∃ t, exec .deviceReset s = .next t ∧ Restarted s t ∧ t.dump.area = s.dump.area) ∧
    (∃ t, exec .hotReset s = .next t ∧ Restarted s t ∧ t.dump.area = s.dump.area) ∧
    ∃ t, exec .powerFailure s = .next t ∧ Restarted s t ∧ t.dump = .reset ∧
      (s.sec.requests = [] → t.sec.idxA = s.sec.idxA ∧ t.sec.idxB = s.sec.idxB) := by
  have hr : Restarted s s.restart := restarted_restart s s { s.dump with fatal := none } rfl rfl rfl
  refine ⟨⟨_, rfl, hr, rfl⟩, ⟨_, rfl, hr, rfl⟩, ?_⟩
  obtain ⟨y, hexec, hy⟩ := execPowerFailure_eq s
  exact ⟨_, hexec, restarted_restart s { s.draw.2 with sec := y } .reset rfl rfl rfl, rfl, fun h => by
    rw [hy h]
    exact ⟨rfl, rfl⟩⟩

/-- Settles O52, a clause for each of the device's steps. -/
theorem deviceSteps : Obligations.DeviceSteps := by
  unfold Obligations.DeviceSteps
  exact ⟨reset_steps, imageVerify_steps, dumpArea_reserved, imageFetchFailure_steps, recoveryWindowWrite_steps,
    recgo_steps, qgo_steps, fun _ _ => rfl, quoteSign_steps, deviceFatalError_steps, stewardWatchdogExpiry_steps,
    dumpComplete_steps, dumpRelease_steps, fun core s h => atUnit_of (decide_eq_true h) _,
    fun stage s h => atUnit_of (decide_eq_true h) _⟩

end Sys2Proof.Machine
end

section
/-! SUPPORT. What device reset leaves (R30, R262, R268, R344, R352, R355, R356). -/

namespace Sys2Proof.Machine

/-- Settles O59: every table of the reset state is empty, so each entry reads as the one at reset. -/
theorem resetState : Obligations.ResetState := by
  unfold Obligations.ResetState
  have hmr (k : Nat) : State.reset.boot.mr.getD k 0 = 0 := by
    rw [vector_getD_eq, show State.reset.boot.mr = Vector.replicate 4 0 from rfl, Vector.getElem?_replicate]
    split <;> rfl
  exact ⟨rfl, rfl, rfl, rfl, rfl, rfl, rfl, rfl, rfl, rfl, rfl, hmr, rfl, fun _ => ⟨rfl, rfl, rfl⟩, fun _ => ⟨rfl, rfl, rfl⟩,
    fun _ => by repeat' constructor⟩

end Sys2Proof.Machine
end

section
/-! SUPPORT. What the shared operations of memory and of contexts leave unchanged: banks that an access finds (R264), writes
of moved chunks (R216), flushes (R273), dropped pins (R265), steps of a named context. -/

namespace Sys2Proof.Machine

open Sys2Proof.Claims

/-! ## Banks that an access finds (R264, R361, R364) -/

theorem State.addRaa_frame (s : State) (b : Nat) (raa : List (Nat × Nat)) :
    { s.addRaa b with raa := raa } = { s with raa := raa } := by
  unfold State.addRaa
  dsimp only
  split <;> rfl

theorem State.releaseBus_frame (s : State) (b : Nat) (buses : List (Nat × Bus)) :
    { s.releaseBus b with buses := buses } = { s with buses := buses } := by
  unfold State.releaseBus
  dsimp only
  split <;> rfl

/-- Banks that an access finds change their power, their activation count and their bus, and nothing else changes. -/
theorem State.activate_frame (s : State) (bs : List Nat) (banks : List (Nat × Bank)) (raa : List (Nat × Nat))
    (buses : List (Nat × Bus)) :
    { s.activate bs with banks := banks, raa := raa, buses := buses } =
      { s with banks := banks, raa := raa, buses := buses } := by
  refine foldl_keeps (fun s : State => { s with banks := banks, raa := raa, buses := buses }) _ (fun s b => ?_) bs s
  have hbus := congrArg (fun s : State => { s with banks := banks, raa := raa }) (State.releaseBus_frame
    (State.addRaa (if (s.bank b).power == .act then s else s.setBank b { s.bank b with power := .act }) b) b buses)
  have hraa := congrArg (fun s : State => { s with banks := banks, buses := buses }) (State.addRaa_frame
    (if (s.bank b).power == .act then s else s.setBank b { s.bank b with power := .act }) b raa)
  refine hbus.trans (hraa.trans ?_)
  split <;> rfl

/-- What memory and its banks are no part of: the contexts and the partitions. -/
def State.contexts (s : State) : Hart × List Hart × List (Nat × Partition) := (s.cur, s.rest, s.parts)

theorem State.cur_of_contexts {s t : State} (h : t.contexts = s.contexts) : t.cur = s.cur := congrArg Prod.fst h

theorem State.rest_of_contexts {s t : State} (h : t.contexts = s.contexts) : t.rest = s.rest := congrArg (·.2.1) h

theorem State.parts_of_contexts {s t : State} (h : t.contexts = s.contexts) : t.parts = s.parts := congrArg (·.2.2) h

theorem State.activate_contexts (s : State) (bs : List Nat) : (s.activate bs).contexts = s.contexts :=
  (congrArg State.contexts (s.activate_frame bs [] [] []) :)

@[simp] theorem State.activate_cur (s : State) (bs : List Nat) : (s.activate bs).cur = s.cur :=
  State.cur_of_contexts (s.activate_contexts bs)

/-! ## Writes at their home (R273, R274, R281) -/

theorem State.writeBytes_frame (s : State) (atHome : Bool) (core pa : Nat) (bs : List Byte)
    (cores : List (Nat × CoreState)) (home : List Host.Cell) :
    { s.writeBytes atHome core pa bs with cores := cores, home := home } = { s with cores := cores, home := home } := by
  induction bs generalizing s pa with
  | nil => rfl
  | cons b bs ih =>
    rw [State.writeBytes, ih]
    cases atHome <;> rfl

theorem State.writeBytes_contexts (s : State) (atHome : Bool) (core pa : Nat) (bs : List Byte) :
    (s.writeBytes atHome core pa bs).contexts = s.contexts :=
  (congrArg State.contexts (s.writeBytes_frame atHome core pa bs [] []) :)

theorem State.setLineTag_contexts (s : State) (pa v : Nat) : (s.setLineTag pa v).contexts = s.contexts := by
  unfold State.setLineTag
  rfl

theorem State.setTags_contexts (s : State) (tags : List (Nat × Nat)) : (s.setTags tags).contexts = s.contexts := by
  induction tags generalizing s with
  | nil => rfl
  | cons t ts ih => exact (ih (s.setLineTag t.1 t.2)).trans (s.setLineTag_contexts t.1 t.2)

theorem State.setCode_contexts (s : State) (g v : Nat) : (s.setCode g v).contexts = s.contexts := by
  unfold State.setCode
  rfl

theorem State.mergeGranule_contexts (s : State) (g : Nat) : (s.mergeGranule g).contexts = s.contexts := by
  have hact := s.activate_contexts [paBank (128 * g)]
  have hkeep (u : State) (home mem : List Host.Cell) (poison : List Nat) :
      { u with home := home, mem := mem, poison := poison }.contexts = u.contexts := rfl
  unfold State.mergeGranule
  dsimp only
  split
  · rfl
  · split
    · exact hact
    · rw [hkeep, State.setCode_contexts]
      exact hact

theorem State.sendThrough_contexts (s : State) (as : List Nat) : (s.sendThrough as).contexts = s.contexts :=
  foldl_keeps State.contexts _ State.mergeGranule_contexts _ s

/-! ## Writes of moved chunks (R216, R226, R238) -/

theorem State.landBytes_contexts (s : State) (f : Flight) : (s.landBytes f).contexts = s.contexts := by
  have hhost := foldl_keeps State.contexts (fun (s : State) (c : Host.Cell) => s.hostWrite c.1 [c.2])
    (fun _ _ => rfl) f.cells s
  have hpkg := (State.setTags_contexts _ f.tags).trans (foldl_keeps State.contexts
    (fun (s : State) (c : Host.Cell) => s.writeBytes true s.cur.core.toNat c.1 [c.2])
    (fun s c => s.writeBytes_contexts _ _ _ _) f.cells s)
  unfold State.landBytes
  split
  · exact hhost
  · dsimp only
    split
    · exact (State.sendThrough_contexts _ _).trans hpkg
    · exact hpkg

theorem State.landList_contexts (s : State) (fs : List Flight) : (s.landList fs).contexts = s.contexts := by
  unfold State.landList
  split
  · rfl
  · rw [State.activate_contexts]
    exact foldl_keeps State.contexts _ State.landBytes_contexts fs s

theorem State.landAll_nil {s : State} (h : s.cur.flights = []) (sel : Flight → Bool) : s.landAll sel = s := by
  unfold State.landAll
  simp [h]

/-- The landing of every write in flight changes nothing of the running context but those writes. -/
theorem State.landAll_cur (s : State) : (s.landAll fun _ => true).cur = { s.cur with flights := [] } := by
  unfold State.landAll
  cases h : s.cur.flights with
  | nil => simp [← h]
  | cons f fs => simp [State.cur_of_contexts (s.landList_contexts _), h]

/-! ## Matrix work (R168) -/

theorem State.drainMatrix_nil {s : State} (h : s.cur.matq = []) : s.drainMatrix = s := by
  unfold State.drainMatrix State.completeOps
  rw [h]
  rfl

theorem State.drainCopies_nil {s : State} (h : s.cur.xfers = []) (sel : Xfer → Bool) : s.drainCopies sel = s := by
  unfold State.drainCopies
  rw [h]
  rfl

/-- Where a hart has no transfer, an instruction that waits for transfers goes on at once (R203, R211, R218). -/
theorem afterCopies_nil (len : Nat) (sel : Xfer → Bool) (r : Option (BitVec 5)) {s : State} (f : State → State)
    (hrun : s.cur.status = .running) (hx : s.cur.xfers = []) : afterCopies len sel r s f = f s := by
  unfold afterCopies
  rw [State.drainCopies_nil hx]
  simp [hrun, hx, Hart.copying, Hart.copyFault]

/-! ## Flushes (R273) -/

/-- A sparse set that takes every byte of another reads as the other, and elsewhere as it did. -/
theorem overlayGet_foldr_set (o l : List Host.Cell) (a : Nat) :
    overlayGet (l.foldr (fun x o => overlaySet o x.1 x.2) o) a = (overlayGet l a).or (overlayGet o a) := by
  induction l with
  | nil => rfl
  | cons c l ih =>
    rw [List.foldr_cons, overlayGet_set, ih]
    by_cases h : a = c.1
    · simp [overlayGet, h]
    · simp [overlayGet, h, Ne.symm h]

/-- After a core's flush every byte is at its home as the core read it before (R273). -/
theorem State.homeByte_flushCore (s : State) (c a : Nat) : (s.flushCore c).homeByte a = s.coreByte c a := by
  have h : (s.flushCore c).homeByte a =
      (overlayGet ((s.core c).l1.foldr (fun x o => overlaySet o x.1 x.2) s.home) a).getD (s.bankByte a) := rfl
  rw [h, overlayGet_foldr_set]
  unfold State.coreByte State.homeByte
  cases overlayGet (s.core c).l1 a <;> rfl

/-- A flush empties the core's L1 and leaves every other core. -/
theorem State.core_flushCore (s : State) (c k : Nat) :
    (s.flushCore c).core k = if k = c then { s.core c with l1 := [] } else s.core k := tget_tset _ _ _ _ _

/-- A flush changes cores and homes only. -/
theorem State.flushCore_frame (s : State) (c : Nat) : { s.flushCore c with cores := s.cores, home := s.home } = s := rfl

/-! ## Pins (R265, R266) -/

/-- An entry of a table that is not its default stands in the table. -/
theorem tget_mem {α : Type} (d : α) (t : List (Nat × α)) (k : Nat) : tget d t k = d ∨ (k, tget d t k) ∈ t := by
  induction t with
  | nil => exact .inl rfl
  | cons c t ih =>
    obtain ⟨j, v⟩ := c
    simp only [tget]
    split
    · next h => exact .inr (h ▸ List.mem_cons_self)
    · exact ih.imp id (List.mem_cons_of_mem _)

/-- A context whose pins are dropped pins no bank (R266). -/
theorem State.not_mem_pins_dropPins (s : State) (k : CtxKey) (b : Nat) : k ∉ ((s.dropPins k).bank b).pins := by
  obtain h | h := tget_mem Bank.reset (s.dropPins k).banks b
  · rw [State.bank, h]
    exact List.not_mem_nil
  · obtain ⟨e, _, he⟩ := List.mem_map.1 (List.mem_filter.1 h).1
    have hpins := congrArg (fun x : Nat × Bank => x.2.pins) he
    rw [State.bank, ← show _ = _ from hpins]
    simp

theorem State.dropPins_frame (s : State) (k : CtxKey) : { s.dropPins k with banks := s.banks } = s := rfl

/-! ## A step of a named context -/

theorem State.onHart_cur {s : State} {k : CtxKey} (h : s.cur.isKey k = true) (f : State → State) : s.onHart k f = f s :=
  if_pos h

/-- A context that is not vacant has its own key. -/
theorem Hart.isKey_self {h : Hart} (hs : h.status ≠ .vacant) : h.isKey h.key = true := by
  simp [Hart.isKey, Hart.key, hs]

/-- Where no supervisor waits for the save of a context, the report of its end changes nothing (R102). -/
theorem State.saveReported_none {s : State} (part : Nat) {ctx : BitVec 32}
    (h : ∀ x ∈ s.harts, x.status ≠ .waiting (.ctxSave ctx)) : s.saveReported part ctx = s := by
  unfold State.saveReported
  rw [List.filter_eq_nil_iff.2 fun x hx => by simp [h x hx]]
  rfl

end Sys2Proof.Machine
end

section
/-! SUPPORT. Service calls, privilege, and the end of a hart (R16, R96, R97). -/

namespace Sys2Proof.Machine

open Sys2Proof.Claims

/-- What a trap taken before anything changed leaves, in the words of the statements (R315). -/
theorem traps_takeTrap {i : Instr} {len : Nat} {e : Trap} {s : State} (h : exec i s = .next (takeTrap e len s)) :
    Traps i len e s := ⟨_, h, rfl, rfl⟩

/-! ## Privilege (R16, R59) -/

theorem Hart.privCheck_user {h : Hart} (hu : h.supv = false) (bits : Nat) : h.privCheck bits = some (trapPRIV bits) := by
  simp [Hart.privCheck, hu]

theorem csrExec_user (bits : Nat) (rd : BitVec 5) (csr : BitVec 10) (reads : List (BitVec 5)) (new : Word → Option Word)
    {s : State} (hu : s.cur.supv = false) (hn : 0x100 ≤ csr.toNat ∧ csr.toNat ≤ 0x111) :
    csrExec bits rd csr reads new s = .next (takeTrap (trapPRIV bits) 4 s) := by
  have hpriv : csrSupervisor csr.toNat = true := by simpa [csrSupervisor] using hn
  rw [csrExec_eq, if_pos hpriv, Hart.privCheck_user hu]
  rfl

/-- A user context that executes what only a supervisor may traps `PRIV` before any other check (R16, R59). -/
theorem supervisor_traps (i : Instr) (bits : BitVec 64) (s : State) (hi : supervisorBits i = some bits)
    (hu : s.cur.supv = false) : Traps i 4 { cause := 0x0F, erec1 := bits.toNat } s := by
  refine traps_takeTrap (e := trapPRIV bits.toNat) ?_
  have hpriv := Hart.privCheck_user hu
  unfold supervisorBits at hi
  split at hi
  case h_1 =>
    obtain rfl := Option.some.inj hi
    have hexec : exec .eret s = execEret s := rfl
    rw [hexec, execEret, hpriv]
  case h_2 kind a =>
    obtain rfl := Option.some.inj hi
    have hexec : exec (.tlbinv kind a) s = execTlbinv kind a s := rfl
    rw [hexec, execTlbinv, hpriv, firstTrap_some, finish_some]
  case h_3 a =>
    obtain rfl := Option.some.inj hi
    have hexec : exec (.ctxResumeRetry a) s = execCtxResumeRetry a s := rfl
    rw [hexec, execCtxResumeRetry, resumeExec, hpriv, firstTrap_some, finish_some]
  case h_4 a =>
    obtain rfl := Option.some.inj hi
    have hexec : exec (.ctxResumeSkip a) s = execCtxResumeSkip a s := rfl
    rw [hexec, execCtxResumeSkip, resumeExec, hpriv, firstTrap_some, finish_some]
  case h_5 a =>
    obtain rfl := Option.some.inj hi
    have hexec : exec (.ctxSave a) s = execCtxSave a s := rfl
    rw [hexec, execCtxSave, hpriv, firstTrap_some]
  case h_6 d n =>
    obtain ⟨hn, hbits⟩ := Option.ite_none_right_eq_some.1 hi
    obtain rfl := Option.some.inj hbits
    exact csrExec_user (Instr.csrr d n).bits.toNat d n [] (fun _ => none) hu hn
  case h_7 d n a =>
    obtain ⟨hn, hbits⟩ := Option.ite_none_right_eq_some.1 hi
    obtain rfl := Option.some.inj hbits
    exact csrExec_user (Instr.csrw d n a).bits.toNat d n [a] (fun _ => some (s.readX a)) hu hn
  case h_8 d n a =>
    obtain ⟨hn, hbits⟩ := Option.ite_none_right_eq_some.1 hi
    obtain rfl := Option.some.inj hbits
    exact csrExec_user (Instr.csrs d n a).bits.toNat d n [a]
      (fun old => if a = 0#5 then none else some (old ||| s.readX a)) hu hn
  case h_9 d n a =>
    obtain ⟨hn, hbits⟩ := Option.ite_none_right_eq_some.1 hi
    obtain rfl := Option.some.inj hbits
    exact csrExec_user (Instr.csrc d n a).bits.toNat d n [a]
      (fun old => if a = 0#5 then none else some (old &&& ~~~(s.readX a))) hu hn
  case h_10 => cases hi

/-! ## The end of a hart (R97) -/

theorem Partition.task_setTask (p : Partition) (id k : Nat) (v : Task) :
    (p.setTask id v).task k = if k = id then v else p.task k := tget_tset _ _ _ _ _

/-- The running context's task reads as it was replaced. -/
theorem State.task_setCurTask (s : State) (v : Task) :
    ((s.setCurTask v).part s.cur.part).task s.cur.task.toNat = v := by
  rw [State.setCurTask, State.part_setPart_self, Partition.task_setTask, if_pos rfl]

/-- `exit` with no copy or matrix work left performs the writes of the hart's transfers and ends its issue. -/
theorem exit_waits (ra : BitVec 5) (s : State) (hrun : s.cur.status = .running) (hx : s.cur.xfers = [])
    (hm : s.cur.matq = []) (hc : Clean s.cur [ra]) :
    ∃ t, exec (.exit ra) s = .next t ∧
      t.cur = { s.cur with status := .waiting .exit, exitVal := s.readX ra, flights := [] } ∧
      (s.cur.flights = [] → { t with cur := s.cur } = s) := by
  have hland := s.landAll_cur
  have hdrain : (s.landAll fun _ => true).drainMatrix = s.landAll fun _ => true :=
    State.drainMatrix_nil (by rw [hland, hm])
  have hexec : exec (.exit ra) s = .next (exitRun ra s) := by
    show execExit ra s = _
    rw [execExit, (Hart.scalarPoison_eq_none _ _).2 hc]
  rw [exitRun, afterCopies_nil 4 _ _ _ hrun hx] at hexec
  dsimp only at hexec
  rw [hdrain] at hexec
  refine ⟨_, hexec, ?_, fun hf => ?_⟩
  · rw [State.setCur_cur, State.readX, hland]
    rfl
  · rw [State.landAll_nil hf]
    rfl

/-- The end of an exit: the bytes of the hart's core are home, its value is recorded, its slot is free (R97, R309). -/
theorem hartExitComplete_frees (k : CtxKey) (s : State) (hs : s.cur.status = .waiting .exit) (hk : s.cur.key = k)
    (hw : ∀ h ∈ s.harts, h.status ≠ .waiting (.ctxSave k.ctx)) :
    let h := s.cur
    ∃ t, exec (.hartExitComplete k) s = .next t ∧ t.cur = .reset ∧ t.rest = s.rest ∧
      (∀ a, t.homeByte a = s.coreByte h.core.toNat a) ∧ t.mem = s.mem ∧ t.host = s.host ∧
      (t.core h.core.toNat).instret = (s.core h.core.toNat).instret + 1 ∧
      (t.part h.part).task h.task.toNat =
        { s.curTask with
          trig := insertNat s.curTask.trig h.member, exited := insertNat s.curTask.exited h.member
          exit0 := if h.member = 0 then h.exitVal else s.curTask.exit0, exitor := s.curTask.exitor ||| h.exitVal } ∧
      ∀ b, k ∉ (t.bank b).pins := by
  subst hk
  have hself : s.cur.isKey s.cur.key = true := Hart.isKey_self (by simp [hs])
  have hexec : exec (.hartExitComplete s.cur.key) s = .next s.endExit := congrArg _ (State.onHart_cur hself _)
  unfold State.endExit at hexec
  rw [if_neg (not_not_intro hs), State.saveReported_none] at hexec
  · refine ⟨_, hexec, rfl, rfl, State.homeByte_flushCore s _, rfl, rfl, ?_, ?_, ?_⟩
    · rw [State.core_setCur, State.core_setCore_self]
      exact congrArg (·.instret + 1) ((s.core_flushCore s.cur.core.toNat s.cur.core.toNat).trans (if_pos rfl))
    · rw [State.part_setCur, State.part_setCore]
      exact State.task_setCurTask ((s.flushCore s.cur.core.toNat).dropPins s.cur.key) _
    · exact (s.flushCore s.cur.core.toNat).not_mem_pins_dropPins s.cur.key
  · intro x hx
    obtain rfl | hx := List.mem_cons.1 hx
    · simp [Hart.reset]
    · exact hw x (List.mem_cons_of_mem _ hx)

/-- Settles O8, by the trap that each call takes, the check that comes first in each privileged instruction, and the two
steps of an exit. -/
theorem callsAndExit : Obligations.CallsAndExit := by
  unfold Obligations.CallsAndExit
  exact ⟨⟨fun _ _ => ⟨traps_takeTrap rfl, traps_takeTrap rfl, traps_takeTrap rfl⟩, supervisor_traps⟩, exit_waits,
    hartExitComplete_frees⟩

end Sys2Proof.Machine
end

section
/-! SUPPORT. Supervisor instructions (R99-R102): shoot-downs (R289, R290), resume lists (R305), saves (R325). -/

namespace Sys2Proof.Machine

open Sys2Proof.Claims

/-! ## The ends of instructions, in the words of the statements -/

/-- Retiring a state in which only the running context has changed. -/
theorem retires_retire {s u : State} (len : Nat) (h : Hart) (hu : u = s.setCur h) (hpc : h.pc = s.cur.pc)
    (hc : h.core = s.cur.core) : Retires len h s (retire len u) := by
  subst hu
  refine ⟨?_, counts_retire len hc fun _ => rfl, rfl⟩
  show { h with pc := h.pc + BitVec.ofNat 64 len, answers := keepAnswers h.answers } = _
  rw [hpc]

/-! ## `eret` (R99) -/

theorem eret_returns (s : State) (hsup : s.cur.supv = true) (hb : SameBuffer s s.cur.csr.epc) :
    ∃ t, exec .eret s = .next t ∧ Transfers (s.cur.csr.epc &&& ~~~1) (withoutRecord s.cur) s t := by
  have hexec : exec .eret s = execEret s := rfl
  have hchk : s.targetCheck s.cur.csr.epc = none := by
    rw [State.targetCheck, failIf_eq_none]
    simpa [SameBuffer] using hb
  simp only [execEret, Hart.privCheck, hsup, if_true, hchk] at hexec
  exact ⟨_, hexec, rfl, fun c => retireTo_core _ _ c, rfl⟩

theorem eret_leaves_buffer (s : State) (hsup : s.cur.supv = true) (hb : ¬SameBuffer s s.cur.csr.epc) :
    exec .eret s = .next { s with
      cur := { stoppedAt 4 { cause := cRIGHT, erec1 := s.cur.csr.epc.toNat } s.cur with csr := s.cur.csr } } := by
  have hexec : exec .eret s = execEret s := rfl
  have hchk : s.targetCheck s.cur.csr.epc = some { cause := cRIGHT, erec1 := s.cur.csr.epc.toNat } := by
    rw [State.targetCheck, failIf, if_pos]
    simpa [SameBuffer] using hb
  simp only [execEret, Hart.privCheck, hsup, if_true, hchk] at hexec
  exact hexec

/-! ## A step of every context that changes none -/

/-- A step of a named context that would leave the state as it is leaves it so. -/
theorem State.onHart_fixed {s : State} (k : CtxKey) (f : State → State)
    (hf : ∀ h ∈ s.harts, ∀ rest, f { s with cur := h, rest := rest } = { s with cur := h, rest := rest }) :
    s.onHart k f = s := by
  unfold State.onHart
  split
  · exact hf s.cur List.mem_cons_self s.rest
  · split
    · rfl
    · next h hfind =>
      obtain ⟨hk, i, hi, hget, hbefore⟩ := List.find?_eq_some_iff_getElem.1 hfind
      have hlen : (s.rest.takeWhile fun x => !x.isKey k).length = i := by
        rw [List.takeWhile_eq_take_findIdx_not, List.length_take, Nat.min_eq_left List.findIdx_le_length]
        simp only [Bool.not_not]
        refine (List.findIdx_eq hi).2 ⟨by rw [hget]; exact hk, fun j hj => ?_⟩
        simpa using hbefore j hj
      dsimp only
      rw [hlen, hf h (List.mem_cons_of_mem _ (List.mem_of_find?_eq_some hfind))]
      simp only [List.set_set, ← hget, List.set_getElem_self]
      rw [List.getD_eq_getElem _ _ (by simpa using hi), List.getElem_set_self]

/-! ## Shoot-downs (R100, R289, R290) -/

/-- No context has a write in flight, or a matrix access of memory that has not performed. -/
def Settled (s : State) : Prop := ∀ h ∈ s.harts, h.flights = [] ∧ ∀ o ∈ h.matq, ¬ActsInMemory o

theorem not_reading_of_not_acts {o : MatOp} (h : ¬ActsInMemory o) : o.reading = false := by
  unfold MatOp.reading
  split
  · next es he => exact absurd (.inl ⟨es, he⟩) h
  · rfl

theorem storedWords_eq_nil {ops : List MatOp} (h : ∀ o ∈ ops, ¬WritesMemory o) : storedWords ops = [] := by
  refine List.flatMap_eq_nil_iff.2 fun o ho => ?_
  split
  · next ws hw => exact absurd ⟨ws, hw⟩ (h o ho)
  · rfl

theorem readLoads_of_not_acts (s : State) (sel : MatOp → Bool) {ops : List MatOp} (h : ∀ o ∈ ops, ¬ActsInMemory o) :
    s.readLoads sel ops = (ops, s) := by
  unfold State.readLoads
  rw [if_pos]
  simp only [Bool.not_eq_true', List.any_eq_false, Bool.and_eq_true, not_and, Bool.not_eq_true]
  exact fun o ho _ => not_reading_of_not_acts (h o ho)

/-- A context with nothing pending in memory performs nothing. -/
theorem performPending_fixed {s : State} (hf : s.cur.flights = []) (hm : ∀ o ∈ s.cur.matq, ¬ActsInMemory o) :
    s.performPending = s := by
  have hl : (s.performLoads fun _ => true) = s := by
    unfold State.performLoads
    rw [readLoads_of_not_acts s _ hm]
    exact if_pos rfl
  have hs : s.performStores = s := by
    unfold State.performStores
    rw [storedWords_eq_nil fun o ho hw => hm o ho (.inr hw)]
    rfl
  unfold State.performPending
  rw [hl, hs, State.landAll_nil hf]

theorem settleCore_of_settled {s : State} (h : Settled s) (c : Nat) : s.settleCore c = s.flushCore c := by
  unfold State.settleCore
  congr 1
  refine List.foldlRecOn (motive := fun u => u = s) _ _ rfl fun u hu x _ => ?_
  subst hu
  exact State.onHart_fixed _ _ fun y hy _ => performPending_fixed (h y hy).1 (h y hy).2

/-- A context after the cores `cs` have answered a shoot-down. -/
def Shootdown.dropUtlb (d : Shootdown) (cs : List Nat) (h : Hart) : Hart :=
  if h.core.toNat ∈ cs then { h with utlb := h.utlb.filter fun e => !d.hits e } else h

/-- Whether a shoot-down removes a cached buffer entry (R255). -/
def Shootdown.hitsEntry (d : Shootdown) (e : BufEntry) : Bool :=
  decide (d.kind = 1) && (e.part == d.part && e.idx == bitsAt d.operand.toNat 40 24)

/-- A core after it has answered a shoot-down. -/
def Shootdown.dropCore (d : Shootdown) (k : CoreState) : CoreState :=
  { k with
    l1 := [], gtlb := k.gtlb.filter fun e => !d.hits e, bufs := k.bufs.filter fun e => !d.hitsEntry e }

/-- What the answers of the cores `cs` to a shoot-down change of `s` (R289). -/
structure Responded (d : Shootdown) (cs : List Nat) (s t : State) : Prop where
  cur : t.cur = d.dropUtlb cs s.cur
  rest : t.rest = s.rest.map (d.dropUtlb cs)
  core : ∀ c, t.core c = if c ∈ cs then d.dropCore (s.core c) else s.core c
  home : ∀ x, (∀ c ∈ cs, overlayGet (s.core c).l1 x = none) → t.homeByte x = s.homeByte x
  frame : { t with cur := s.cur, rest := s.rest, cores := s.cores, home := s.home } = s

theorem Responded.nil (d : Shootdown) (s : State) : Responded d [] s s where
  cur := by simp [Shootdown.dropUtlb]
  rest := by rw [show d.dropUtlb [] = id from funext fun _ => if_neg List.not_mem_nil, List.map_id]
  core _ := (if_neg List.not_mem_nil).symm
  home _ _ := rfl
  frame := rfl

theorem respond_responded (d : Shootdown) (c : Nat) {s : State} (h : Settled s) : Responded d [c] s (s.respond d c) := by
  have hself : (s.flushCore c).core c = { s.core c with l1 := [] } := (s.core_flushCore c c).trans (if_pos rfl)
  have hr : s.respond d c = ((s.flushCore c).setCore c (d.dropCore (s.core c))).mapHarts (d.dropUtlb [c]) := by
    unfold State.respond
    rw [settleCore_of_settled h]
    dsimp only
    rw [hself]
    congr 1
    · unfold Shootdown.dropCore Shootdown.hitsEntry
      by_cases hk : d.kind = 1#2 <;> simp [hk]
    · funext x
      simp [Shootdown.dropUtlb]
  rw [hr]
  refine ⟨rfl, rfl, fun k => ?_, fun x hx => ?_, rfl⟩
  · refine ((s.flushCore c).core_setCore c k _).trans ?_
    by_cases hk : k = c
    · simp [hk]
    · simp [hk, s.core_flushCore c k]
  · refine (s.homeByte_flushCore c x).trans ?_
    rw [State.coreByte, hx c List.mem_cons_self]
    rfl

theorem Shootdown.dropUtlb_cons (d : Shootdown) (c : Nat) (cs : List Nat) (h : Hart) :
    d.dropUtlb cs (d.dropUtlb [c] h) = d.dropUtlb (c :: cs) h := by
  unfold Shootdown.dropUtlb
  by_cases hc : h.core.toNat = c
  · simp only [hc, List.mem_cons, List.not_mem_nil, or_false, true_or, if_true]
    split <;> simp [List.filter_filter]
  · simp [hc]

theorem Shootdown.dropCore_dropCore (d : Shootdown) (k : CoreState) : d.dropCore (d.dropCore k) = d.dropCore k := by
  simp [Shootdown.dropCore, List.filter_filter]

theorem Responded.cons {d : Shootdown} {c : Nat} {cs : List Nat} {s u t : State} (h1 : Responded d [c] s u)
    (h2 : Responded d cs u t) : Responded d (c :: cs) s t where
  cur := by rw [h2.cur, h1.cur, d.dropUtlb_cons]
  rest := by
    rw [h2.rest, h1.rest, List.map_map]
    exact congrArg (List.map · s.rest) (funext (d.dropUtlb_cons c cs))
  core k := by
    rw [h2.core, h1.core]
    by_cases hk : k = c
    · by_cases hc : k ∈ cs <;> simp [← hk, hc, d.dropCore_dropCore]
    · simp [hk]
  home x hx := by
    rw [h2.home x fun k hk => ?_, h1.home x fun k hk => hx k (List.mem_cons.2 (.inl (List.mem_singleton.1 hk)))]
    rw [h1.core]
    split
    · rfl
    · exact hx k (List.mem_cons_of_mem _ hk)
  frame := by
    have h := congrArg (fun v : State => { v with cur := s.cur, rest := s.rest, cores := s.cores, home := s.home }) h2.frame
    exact h.trans h1.frame

theorem Shootdown.dropUtlb_frame (d : Shootdown) (cs : List Nat) (h : Hart) :
    { d.dropUtlb cs h with utlb := h.utlb } = h := by
  unfold Shootdown.dropUtlb
  split <;> rfl

theorem Responded.settled {d : Shootdown} {cs : List Nat} {s t : State} (h : Responded d cs s t) (hs : Settled s) :
    Settled t := by
  intro x hx
  obtain ⟨y, hy, rfl⟩ : ∃ y ∈ s.harts, d.dropUtlb cs y = x := by
    rw [State.harts, h.cur, h.rest, ← List.map_cons (f := d.dropUtlb cs)] at hx
    exact List.mem_map.1 hx
  have hf := congrArg Hart.flights (d.dropUtlb_frame cs y)
  have hm := congrArg Hart.matq (d.dropUtlb_frame cs y)
  dsimp only at hf hm
  rw [hf, hm]
  exact hs y hy

theorem foldl_respond_responded (d : Shootdown) (cs : List Nat) {s : State} (h : Settled s) :
    Responded d cs s (cs.foldl (fun s c => s.respond d c) s) := by
  induction cs generalizing s with
  | nil => exact .nil d s
  | cons c cs ih =>
    have h1 := respond_responded d c h
    exact h1.cons (ih (h1.settled h))

/-- Which cached translations the shoot-down of a `tlbinv` removes (R100). -/
theorem hits_shootdownOf (s : State) (part : Nat) (base : Word) (kind : BitVec 2) (v : Word) (e : TlbEntry) :
    (s.shootdownOf part base kind v).hits e = true ↔
      removes part kind v (s.pagesOf noCore part base v.toNat) e := by
  have hbuf : bitsAt v.toNat 40 24 = v.toNat / 2 ^ 40 := by
    unfold bitsAt
    have := v.isLt
    omega
  have hkind : kind = 0#2 ∨ kind = 1#2 ∨ kind = 2#2 ∨ kind = 3#2 := by
    revert kind
    decide
  unfold Shootdown.hits removes
  simp only [State.shootdownOf, hbuf]
  obtain rfl | rfl | rfl | rfl := hkind <;> simp

theorem hitsEntry_shootdownOf (s : State) (part : Nat) (base : Word) (kind : BitVec 2) (v : Word) (e : BufEntry) :
    (s.shootdownOf part base kind v).hitsEntry e = true ↔ kind = 1 ∧ e.part = part ∧ e.idx = v.toNat / 2 ^ 40 := by
  have hbuf : bitsAt v.toNat 40 24 = v.toNat / 2 ^ 40 := by
    unfold bitsAt
    have := v.isLt
    omega
  simp only [Shootdown.hitsEntry, State.shootdownOf, hbuf, Bool.and_eq_true, beq_iff_eq]
  exact and_congr_left fun _ => decide_eq_true_iff

theorem Partition.mem_cores (p : Partition) (c : Nat) : c ∈ p.cores ↔ c < 256 ∧ p.colmap.getLsbD (c / 8) = true := by
  rw [Partition.cores, List.mem_filter, List.mem_range]

/-- A `tlbinv` first writes its core's bytes home; then every core of the partition answers (R100, R289). -/
theorem exec_tlbinv (kind : BitVec 2) (a : BitVec 5) (s : State) (hsup : s.cur.supv = true) (hc : Clean s.cur [a])
    (hs : Settled s) :
    ∃ u, exec (.tlbinv kind a) s = .next (retire 4 u) ∧
      Responded ((s.flushCore (own s)).shootdownOf s.cur.part s.cur.csr.btbase kind (s.readX a))
        (s.part s.cur.part).cores (s.flushCore (own s)) u := by
  have hexec : exec (.tlbinv kind a) s = execTlbinv kind a s := rfl
  have horder : s.orderBefore .rel .pkg [] = s.flushCore (own s) := rfl
  rw [execTlbinv, Hart.privCheck, if_pos hsup, (Hart.scalarPoison_eq_none _ _).2 hc, firstTrap_none, firstTrap_none,
    firstTrap_nil, finish_none, horder] at hexec
  exact ⟨_, hexec, foldl_respond_responded _ _ hs⟩

/-- What a `tlbinv` leaves: the named translations are gone from every core and hart of the partition (R100, R255). -/
theorem tlbinv_removes (kind : BitVec 2) (a : BitVec 5) (s : State) (hsup : s.cur.supv = true) (hc : Clean s.cur [a]) :
     let v := s.readX a
     let pages := (s.flushCore (own s)).pagesOf noCore s.cur.part s.cur.csr.btbase v.toNat
     let served (c : Nat) : Prop := c < 256 ∧ (s.part s.cur.part).colmap.getLsbD (c / 8) = true
     let core (k : CoreState) : CoreState := { k with l1 := [], gtlb := [], bufs := [], instret := 0 }
     (∀ h ∈ s.harts, h.flights = [] ∧ ∀ o ∈ h.matq, ¬ActsInMemory o) →
     ∃ t, exec (.tlbinv kind a) s = .next t ∧ t.cur.pc = s.cur.pc + 4 ∧
       { t with cur := s.cur, rest := s.rest, cores := s.cores, home := s.home } = s ∧
       { t.cur with pc := s.cur.pc, answers := s.cur.answers, utlb := s.cur.utlb } = s.cur ∧
       t.rest.map (fun h => { h with utlb := [] }) = s.rest.map (fun h => { h with utlb := [] }) ∧
       (∀ c, core (t.core c) = core (s.core c)) ∧ (∀ c, served c → (t.core c).l1 = []) ∧ (t.core (own s)).l1 = [] ∧
       (∀ c, ¬served c → c ≠ own s → (t.core c).l1 = (s.core c).l1) ∧
       (t.core (own s)).instret = (s.core (own s)).instret + 1 ∧
       (∀ x, (∀ c, served c → c ≠ own s → overlayGet (s.core c).l1 x = none) →
         t.homeByte x = s.coreByte (own s) x ∧ t.coreByte (own s) x = s.coreByte (own s) x) ∧
       (∀ c e, (e ∈ (t.core c).gtlb ↔ e ∈ (s.core c).gtlb ∧ ¬(served c ∧ removes s.cur.part kind v pages e))) ∧
       (∀ c e, (e ∈ (t.core c).bufs ↔ e ∈ (s.core c).bufs ∧
         ¬(served c ∧ kind = 1 ∧ e.part = s.cur.part ∧ e.idx = v.toNat / 2 ^ 40))) ∧
       (∀ e, e ∈ t.cur.utlb ↔ e ∈ s.cur.utlb ∧ ¬(served (own s) ∧ removes s.cur.part kind v pages e)) ∧
       ∀ h ∈ t.rest, ∀ e ∈ h.utlb, ¬(served h.core.toNat ∧ removes s.cur.part kind v pages e) := by
  intro v pages served core hs
  obtain ⟨u, hexec, hr⟩ := exec_tlbinv kind a s hsup hc hs
  revert hr
  generalize hd : (s.flushCore (own s)).shootdownOf s.cur.part s.cur.csr.btbase kind (s.readX a) = d
  generalize hcs : (s.part s.cur.part).cores = cs
  intro hr
  have hserved (c : Nat) : c ∈ cs ↔ served c := by rw [← hcs, Partition.mem_cores]
  have hhits (e : TlbEntry) : d.hits e = true ↔ removes s.cur.part kind v pages e := by
    rw [← hd]
    exact hits_shootdownOf _ _ _ _ _ e
  have hentry (e : BufEntry) : d.hitsEntry e = true ↔ kind = 1 ∧ e.part = s.cur.part ∧ e.idx = v.toNat / 2 ^ 40 := by
    rw [← hd]
    exact hitsEntry_shootdownOf _ _ _ _ _ e
  have hcore (c : Nat) : u.core c = if c ∈ cs then d.dropCore (s.core c)
      else if c = own s then { s.core c with l1 := [] } else s.core c := by
    rw [hr.core, s.core_flushCore]
    by_cases h : c = own s
    · subst h
      simp only [if_true]
      rfl
    · simp only [h, if_false]
  have hcur : u.cur = d.dropUtlb cs s.cur := hr.cur
  have hown : u.cur.core = s.cur.core := by
    rw [hcur]
    exact (congrArg Hart.core (d.dropUtlb_frame cs s.cur) :)
  have hret (c : Nat) : (retire 4 u).core c =
      if c = own s then { u.core c with instret := (u.core c).instret + 1 } else u.core c := by
    rw [retire_core, hown]
    rfl
  have hl1 (c : Nat) : ((retire 4 u).core c).l1 = (u.core c).l1 := by
    rw [hret]
    split <;> rfl
  have hgtlb (c : Nat) : ((retire 4 u).core c).gtlb = (u.core c).gtlb := by
    rw [hret]
    split <;> rfl
  have hbufs (c : Nat) : ((retire 4 u).core c).bufs = (u.core c).bufs := by
    rw [hret]
    split <;> rfl
  have hl1own : (u.core (own s)).l1 = [] := by
    rw [hcore]
    split
    · rfl
    · rw [if_pos rfl]
  refine ⟨_, hexec, ?_, ?_, ?_, ?_, fun c => ?_, fun c h => ?_, ?_, fun c h hne => ?_, ?_, fun x hx => ?_, fun c e => ?_,
    fun c e => ?_, fun e => ?_, fun h hh e he => ?_⟩
  · rw [retire_cur, hcur]
    exact congrArg (· + 4) (congrArg Hart.pc (d.dropUtlb_frame cs s.cur) :)
  · exact congrArg (fun t : State => { t with cores := s.cores, home := s.home }) hr.frame
  · rw [retire_cur, hcur]
    exact congrArg (fun h : Hart => { h with pc := s.cur.pc, answers := s.cur.answers }) (d.dropUtlb_frame cs s.cur)
  · rw [retire_rest, hr.rest, List.map_map]
    refine List.map_congr_left fun h _ => ?_
    exact congrArg (fun h : Hart => { h with utlb := [] }) (d.dropUtlb_frame cs h)
  · rw [hret, hcore]
    split_ifs <;> rfl
  · rw [hl1, hcore, if_pos ((hserved c).2 h)]
    rfl
  · rw [hl1, hl1own]
  · rw [hl1, hcore, if_neg (mt (hserved c).1 h), if_neg hne]
  · rw [hret, if_pos rfl, hcore]
    split_ifs <;> rfl
  · have hhome : (retire 4 u).homeByte x = s.coreByte (own s) x := by
      refine (hr.home x fun c hc => ?_).trans (s.homeByte_flushCore (own s) x)
      rw [s.core_flushCore]
      split
      · rfl
      · next h => exact hx c ((hserved c).1 hc) h
    refine ⟨hhome, ?_⟩
    rw [State.coreByte, hl1, hl1own, hhome]
    rfl
  · rw [hgtlb, hcore, ← hserved, ← hhits]
    split_ifs with h <;> simp [h, Shootdown.dropCore]
  · rw [hbufs, hcore, ← hserved, ← hentry]
    split_ifs with h <;> simp [h, Shootdown.dropCore]
  · rw [retire_cur, hcur, ← hserved, ← hhits, own]
    by_cases h2 : s.cur.core.toNat ∈ cs <;> simp [h2, Shootdown.dropUtlb]
  · rw [retire_rest, hr.rest] at hh
    obtain ⟨y, _, rfl⟩ := List.mem_map.1 hh
    rw [← hserved, ← hhits]
    unfold Shootdown.dropUtlb at he ⊢
    split at he
    · next h =>
      rw [if_pos h]
      simpa [h] using (List.mem_filter.1 he).2
    · next h =>
      rw [if_neg h]
      exact fun hc => h hc.1

/-! ## Resume lists (R101, R305) -/

theorem Hart.isKey_iff (h : Hart) (k : CtxKey) : h.isKey k = true ↔ h.status ≠ .vacant ∧ h.key = k := by
  cases k
  simp [Hart.isKey, Hart.key, and_assoc]

/-- The context of a key that the running one does not have is among the others. -/
theorem State.hart?_of_not_cur {s : State} {k : CtxKey} (h : s.cur.isKey k = false) :
    s.hart? k = s.rest.find? (·.isKey k) := by
  rw [State.hart?, State.harts, List.find?_cons_of_neg (by simp [h])]

theorem State.updHart_of_not_cur {s : State} {k : CtxKey} (h : s.cur.isKey k = false) (f : Hart → Hart) :
    s.updHart k f = { s with rest := s.rest.map fun x => if x.isKey k then f x else x } := by
  simp [State.updHart, State.mapHarts, h]

/-- An entry of a vector of lists that one list of it has grown. -/
theorem getD_append_at {α : Type} {n : Nat} (v : Vector (List α) n) {i : Nat} (x : List α) (hi : i < n) (j : Nat) :
    (v.setIfInBounds i (v.getD i [] ++ x)).getD j [] = v.getD j [] ++ if j = i then x else [] := by
  by_cases h : j = i
  · subst h
    rw [vector_getD_set_self v _ [] hi, if_pos rfl]
  · rw [vector_getD_set_ne v _ [] (Ne.symm h), if_neg h, List.append_nil]

/-- The `ctx.resume` instructions are one operation with a choice (R101). -/
theorem exec_resume {a : BitVec 5} {i : Instr} {skip : Bool} {s : State}
    (hi : i = .ctxResumeRetry a ∧ skip = false ∨ i = .ctxResumeSkip a ∧ skip = true) (hsup : s.cur.supv = true)
    (hc : Clean s.cur [a]) :
    exec i s = .next (retire 4 (s.resumeCtx s.cur.part ((s.readX a).setWidth 32) skip)) := by
  have hrun (bits : Nat) (b : Bool) : resumeExec bits b a s =
      .next (retire 4 (s.resumeCtx s.cur.part ((s.readX a).setWidth 32) b)) := by
    rw [resumeExec, Hart.privCheck, if_pos hsup, (Hart.scalarPoison_eq_none _ _).2 hc, firstTrap_none, firstTrap_none,
      firstTrap_nil, finish_none]
  obtain ⟨rfl, rfl⟩ | ⟨rfl, rfl⟩ := hi
  · exact hrun (Instr.ctxResumeRetry a).bits.toNat false
  · exact hrun (Instr.ctxResumeSkip a).bits.toNat true

/-- A partition in which a context joins the resume list of a priority (R305). -/
def Partition.queueResume (p : Partition) (prio : Nat) (ctx : BitVec 32) : Partition :=
  { p with resume := p.resume.setIfInBounds prio (p.resume.getD prio [] ++ [ctx]) }

/-- A suspended or held context that is resumed (R101, R305). -/
theorem resumeCtx_of_saved {s : State} {k : CtxKey} {h : Hart} (skip : Bool) (hk : s.cur.isKey k = false)
    (hh : s.rest.find? (·.isKey k) = some h) (hst : h.status = .suspended ∨ h.status = .held) :
    s.resumeCtx k.part k.ctx skip = { s.setPart k.part ((s.part k.part).queueResume h.prio k.ctx) with
      rest := s.rest.map fun x => if x.isKey k then
        { x with status := .queued, skip := if h.status = .suspended then skip else x.skip } else x } := by
  have hkey : h.key = k := ((Hart.isKey_iff h k).1 (List.find?_some (p := (Hart.isKey · k)) hh)).2
  have hsome : s.hart? ⟨k.part, k.ctx⟩ = some h := (State.hart?_of_not_cur hk).trans hh
  rw [State.resumeCtx, hsome]
  dsimp only
  rw [if_pos (by simpa using hst), hkey, State.updHart_of_not_cur (s := s.setPart _ _) hk]
  rfl

/-- A context that is neither suspended nor held is not resumed (R101). -/
theorem resumeCtx_of_not_saved {s : State} {k : CtxKey} (skip : Bool) (hk : s.cur.isKey k = false)
    (hno : ∀ h, s.rest.find? (·.isKey k) = some h → h.status ≠ .suspended ∧ h.status ≠ .held) :
    s.resumeCtx k.part k.ctx skip = s := by
  have hfind : s.hart? ⟨k.part, k.ctx⟩ = s.rest.find? (·.isKey k) := State.hart?_of_not_cur hk
  rw [State.resumeCtx, hfind]
  split
  · rfl
  · next h hh => exact if_neg (by simpa using hno h hh)

/-- A `ctx.resume` of another context of the partition (R101, R305). -/
theorem ctxResume_queues (a : BitVec 5) (i : Instr) (skip : Bool) (s : State)
    (hi : i = .ctxResumeRetry a ∧ skip = false ∨ i = .ctxResumeSkip a ∧ skip = true) (hsup : s.cur.supv = true)
    (hc : Clean s.cur [a]) (hk : s.cur.isKey (named s a) = false) :
    let k := named s a
    (∀ h, s.rest.find? (·.isKey k) = some h → (h.status = .suspended ∨ h.status = .held) → h.prio < 4 →
      ∃ t, exec i s = .next t ∧ Counts s t ∧ OnlyContexts s t ∧
        t.cur = { s.cur with pc := s.cur.pc + 4, answers := keepAnswers s.cur.answers } ∧
        t.rest = s.rest.map (fun x => if x.isKey k then
          { x with status := .queued, skip := if h.status = .suspended then skip else x.skip } else x) ∧
        (∀ p, t.part p = if p = s.cur.part then
          { s.part p with resume := (t.part p).resume } else s.part p) ∧
        ∀ j < 4, (t.part s.cur.part).resume.getD j [] =
          (s.part s.cur.part).resume.getD j [] ++ if j = h.prio then [k.ctx] else []) ∧
    ((∀ h, s.rest.find? (·.isKey k) = some h → h.status ≠ .suspended ∧ h.status ≠ .held) →
      ∃ t, exec i s = .next t ∧ Retires 4 s.cur s t) := by
  intro k
  have hexec : exec i s = .next (retire 4 (s.resumeCtx k.part k.ctx skip)) := exec_resume hi hsup hc
  refine ⟨fun h hh hst hp => ?_, fun hno => ?_⟩
  · rw [resumeCtx_of_saved skip hk hh hst] at hexec
    have hpart (p : Nat) : (s.setPart k.part ((s.part k.part).queueResume h.prio k.ctx)).part p =
        if p = s.cur.part then (s.part s.cur.part).queueResume h.prio k.ctx else s.part p := State.part_setPart _ _ _ _
    have hown := (hpart s.cur.part).trans (if_pos rfl)
    refine ⟨_, hexec, counts_retire 4 rfl fun _ => rfl, rfl, rfl, rfl, fun p => ?_, fun j _ => ?_⟩
    · by_cases h : p = s.cur.part
      · subst h
        rw [if_pos rfl]
        refine hown.trans ?_
        exact congrArg (fun q : Partition => { s.part s.cur.part with resume := q.resume }) hown.symm
      · rw [if_neg h]
        exact (hpart p).trans (if_neg h)
    · refine (congrArg (fun q : Partition => q.resume.getD j []) hown).trans ?_
      exact getD_append_at (s.part k.part).resume [k.ctx] hp j
  · rw [resumeCtx_of_not_saved skip hk hno] at hexec
    exact ⟨_, hexec, retires_retire 4 s.cur rfl rfl rfl⟩

/-! ## `ctx.save` (R102, R325) -/

/-- A write into a save slot changes host memory, or homes and what it finds of banks, and nothing else (R326, R344). -/
theorem State.slotWrite_frame (s : State) (part slot o : Nat) (bs : List Byte) :
    { s.slotWrite part slot o bs with
      host := s.host, cores := s.cores, home := s.home, banks := s.banks, raa := s.raa, buses := s.buses } = s := by
  unfold State.slotWrite
  dsimp only
  split
  · rfl
  · refine (foldl_keeps (fun t : State => { t with
      host := s.host, cores := s.cores, home := s.home, banks := s.banks, raa := s.raa, buses := s.buses }) _
      (fun t x => ?_) _ s :)
    obtain ⟨b, n⟩ := x
    dsimp only
    split
    · next pa _ =>
      have hact := congrArg (fun t : State => { t with host := s.host, cores := s.cores, home := s.home })
        ((t.writeBytes true noCore pa ((bs.drop (b - (s.part part).slotAddr slot o)).take n)).activate_frame [paBank pa]
          s.banks s.raa s.buses)
      exact hact.trans (congrArg (fun t : State => { t with
        host := s.host, banks := s.banks, raa := s.raa, buses := s.buses }) (t.writeBytes_frame true noCore pa
          ((bs.drop (b - (s.part part).slotAddr slot o)).take n) s.cores s.home))
    · rfl

/-- A partition with a context off its resume lists (R102). -/
def Partition.unqueue (p : Partition) (ctx : BitVec 32) : Partition :=
  { p with resume := p.resume.map fun l => l.filter (· ≠ ctx) }

/-- A context taken off the resume lists and held (R102). -/
theorem State.holdQueued_frame (s : State) (h : Hart) (hk : s.cur.isKey h.key = false) :
    (s.holdQueued h).cur = s.cur ∧
    (s.holdQueued h).rest = s.rest.map (fun x => if x.isKey h.key then { x with status := .held } else x) ∧
    ((s.holdQueued h).part h.part).resume = (s.part h.part).resume.map fun l => l.filter (· ≠ h.ctxid) := by
  obtain ⟨s2, hs2, hcur, hrest, hparts⟩ : ∃ s2 : State,
      s.holdQueued h = s2.updHart h.key (fun x => { x with status := .held }) ∧ s2.cur = s.cur ∧ s2.rest = s.rest ∧
        s2.parts = (s.setPart h.part ((s.part h.part).unqueue h.ctxid)).parts := by
    refine ⟨_, rfl, ?_⟩
    split
    · have hf := (s.setPart h.part ((s.part h.part).unqueue h.ctxid)).slotWrite_frame h.part h.saveSlot 0x280
        (leBytes 8 ((s.setPart h.part ((s.part h.part).unqueue h.ctxid)).imageNat h 0x280 8 + 2))
      exact ⟨(congrArg State.cur hf :), (congrArg State.rest hf :), (congrArg State.parts hf :)⟩
    · exact ⟨rfl, rfl, rfl⟩
  rw [hs2, State.updHart_of_not_cur (by rw [hcur]; exact hk)]
  refine ⟨hcur, by rw [hrest], ?_⟩
  have hp : s2.part h.part = (s.part h.part).unqueue h.ctxid :=
    (congrArg (fun l => tget Partition.reset l h.part) hparts).trans (State.part_setPart_self s h.part _)
  exact congrArg Partition.resume hp

/-- `ctx.save` past its checks, for another context of the partition (R102). -/
theorem exec_ctxSave (a : BitVec 5) (s : State) (hsup : s.cur.supv = true) (hc : Clean s.cur [a]) :
    let k := named s a
    (k.ctx = s.cur.ctxid → exec (.ctxSave a) s = .next (retire 4 s)) ∧
    (k.ctx ≠ s.cur.ctxid → (s.hart? k = none → exec (.ctxSave a) s = .next (retire 4 s)) ∧
      ∀ h, s.hart? k = some h →
        (h.status = .queued → exec (.ctxSave a) s = .next (retire 4 (s.holdQueued h))) ∧
        (h.status = .running → exec (.ctxSave a) s =
          .next { s.updHart k (·.stopFor .ctxSave) with
            cur := { (s.updHart k (·.stopFor .ctxSave)).cur with status := .waiting (.ctxSave k.ctx) } })) := by
  intro k
  have hexec : exec (.ctxSave a) s = execCtxSave a s := rfl
  rw [execCtxSave, Hart.privCheck, if_pos hsup, (Hart.scalarPoison_eq_none _ _).2 hc, firstTrap_none, firstTrap_none,
    firstTrap_nil] at hexec
  dsimp only at hexec
  refine ⟨fun h => hexec.trans (if_pos h), fun hne => ?_⟩
  replace hexec := hexec.trans (if_neg hne)
  refine ⟨fun hnone => ?_, fun h hsome => ⟨fun hq => ?_, fun hr => ?_⟩⟩
  · have hnone' : s.hart? ⟨s.cur.part, (s.readX a).setWidth 32⟩ = none := hnone
    rw [hexec, hnone']
  · have hsome' : s.hart? ⟨s.cur.part, (s.readX a).setWidth 32⟩ = some h := hsome
    rw [hexec, hsome']
    exact if_pos hq
  · have hsome' : s.hart? ⟨s.cur.part, (s.readX a).setWidth 32⟩ = some h := hsome
    rw [hexec, hsome']
    dsimp only
    rw [if_neg (by simp [hr]), if_pos (by simp [Hart.placed, hr])]
    rfl

theorem ctxSave_steps (a : BitVec 5) (s : State) (hsup : s.cur.supv = true) (hc : Clean s.cur [a]) :
    let k := named s a
    ((k.ctx = s.cur.ctxid ∨ s.hart? k = none) → ∃ t, exec (.ctxSave a) s = .next t ∧ Retires 4 s.cur s t) ∧
    (∀ h, k.ctx ≠ s.cur.ctxid → s.rest.find? (·.isKey k) = some h → h.status = .queued →
      ∃ t, exec (.ctxSave a) s = .next t ∧ t.cur.pc = s.cur.pc + 4 ∧
        t.rest = s.rest.map (fun x => if x.isKey k then { x with status := .held } else x) ∧
        (∀ l ∈ (t.part s.cur.part).resume.toList, k.ctx ∉ l) ∧
        { t.cur with pc := s.cur.pc, answers := s.cur.answers } = s.cur) ∧
    ∀ h, k.ctx ≠ s.cur.ctxid → s.rest.find? (·.isKey k) = some h → h.status = .running → h.answers = [] →
      exec (.ctxSave a) s = .next { s with
        cur := { s.cur with status := .waiting (.ctxSave k.ctx) }
        rest := s.rest.map fun x => if x.isKey k then x.stopFor .ctxSave else x } ∧
      h.stopFor .ctxSave = { h with status := .stopping .ctxSave, request := none } := by
  intro k
  obtain ⟨hown, hother⟩ := exec_ctxSave a s hsup hc
  have hretires : Retires 4 s.cur s (retire 4 s) := retires_retire 4 s.cur rfl rfl rfl
  have hcur (hne : k.ctx ≠ s.cur.ctxid) : s.cur.isKey k = false := by
    simp [Hart.isKey, Ne.symm hne]
  have hfind {h : Hart} (hne : k.ctx ≠ s.cur.ctxid) (hh : s.rest.find? (·.isKey k) = some h) : s.hart? k = some h :=
    (State.hart?_of_not_cur (hcur hne)).trans hh
  refine ⟨fun h => ⟨_, ?_, hretires⟩, fun h hne hh hq => ?_, fun h hne hh hr ha => ⟨?_, ?_⟩⟩
  · by_cases hk : k.ctx = s.cur.ctxid
    · exact hown hk
    · exact (hother hk).1 (h.resolve_left hk)
  · have hkey : h.key = k := ((Hart.isKey_iff h k).1 (List.find?_some (p := (Hart.isKey · k)) hh)).2
    have hpart : h.part = s.cur.part := congrArg CtxKey.part hkey
    have hid : h.ctxid = k.ctx := congrArg CtxKey.ctx hkey
    obtain ⟨hhc, hhr, hhp⟩ := s.holdQueued_frame h (by rw [hkey]; exact hcur hne)
    refine ⟨_, ((hother hne).2 h (hfind hne hh)).1 hq, ?_, ?_, fun l hl => ?_, ?_⟩
    · rw [retire_cur, hhc]
      rfl
    · rw [retire_rest, hhr, hkey]
    · have hl' : l ∈ ((s.holdQueued h).part h.part).resume.toList := by
        rw [hpart]
        exact hl
      rw [hhp, Vector.toList_map, hid] at hl'
      obtain ⟨l', _, rfl⟩ := List.mem_map.1 hl'
      simp
    · rw [retire_cur, hhc]
  · rw [((hother hne).2 h (hfind hne hh)).2 hr, State.updHart_of_not_cur (hcur hne)]
  · simp [Hart.stopFor, hr, Hart.outstanding, ha]

/-- Settles O40: each of the four supervisor instructions by what it does past its checks. -/
theorem supervisorControl : Obligations.SupervisorControl := by
  unfold Obligations.SupervisorControl
  exact ⟨⟨fun s hsup => ⟨eret_returns s hsup, eret_leaves_buffer s hsup⟩, tlbinv_removes⟩, ctxResume_queues, ctxSave_steps⟩

end Sys2Proof.Machine
end

section
/-! SUPPORT. What the dispatcher chooses and where it places (R298-R304). -/

namespace Sys2Proof.Machine

open Sys2Proof.Claims

/-! ## The choice of R303 -/

theorem recordsWait_iff (p : Partition) : p.recordsWait = true ↔ RecordsWait p := decide_eq_true_iff

theorem queuePrio_eq (p : Partition) (q : Nat) : p.queuePrio q = prioOf p q := by
  simp only [Partition.queuePrio, bitsAt, prioOf, Nat.pow_mul, show 2 ^ 2 = 4 from rfl]

theorem prioOf_lt (p : Partition) (q : Nat) : prioOf p q < 4 := Nat.mod_lt _ (by decide)

/-- The place of a queue in the turns of its priority (R303). -/
def turnOf (p : Partition) (prio q : Nat) : Nat := (q + 31 - p.rr.getD prio 15 % 16) % 16

/-- The queue that `nextQueue` finds comes first of those that fit, in the turns of its priority. -/
theorem nextQueue_some {s : State} {part prio q : Nat} (h : s.nextQueue part prio = some q) :
    q < 16 ∧ prioOf (s.part part) q = prio ∧ s.headFits part q = true ∧
      ∀ r < 16, prioOf (s.part part) r = prio → s.headFits part r = true →
        turnOf (s.part part) prio q ≤ turnOf (s.part part) prio r := by
  unfold State.nextQueue at h
  simp only [List.find?_map, Option.map_eq_some_iff, List.find?_range_eq_some, Function.comp, Bool.and_eq_true,
    beq_iff_eq, queuePrio_eq, Bool.not_eq_true', Bool.and_eq_false_iff, beq_eq_false_iff_ne] at h
  obtain ⟨j, ⟨⟨hp, hf⟩, hj, hfirst⟩, rfl⟩ := h
  rw [List.mem_range] at hj
  refine ⟨Nat.mod_lt _ (by decide), hp, hf, fun r hr hrp hrf => ?_⟩
  simp only [turnOf]
  generalize (s.part part).rr.getD prio 15 = rr at *
  by_contra hlt
  have hback : (rr + 1 + (r + 31 - rr % 16) % 16) % 16 = r := by omega
  rcases hfirst ((r + 31 - rr % 16) % 16) (by omega) with hne | hne
  · rw [hback] at hne
    exact hne hrp
  · rw [hback, hrf] at hne
    exact Bool.noConfusion hne

theorem nextQueue_none {s : State} {part prio r : Nat} (h : s.nextQueue part prio = none) (hr : r < 16)
    (hp : prioOf (s.part part) r = prio) : s.headFits part r = false := by
  unfold State.nextQueue at h
  rw [List.find?_eq_none] at h
  have hmem : r ∈ (List.range 16).map fun j => ((s.part part).rr.getD prio 15 + 1 + j) % 16 := by
    generalize (s.part part).rr.getD prio 15 = rr
    exact List.mem_map.mpr ⟨(r + 31 - rr % 16) % 16, List.mem_range.mpr (by omega), by omega⟩
  simpa [queuePrio_eq, hp] using h r hmem

/-- Queue `q` is open and its head fits now (R300, R303). -/
def QueueFits (s : State) (part q : Nat) : Prop := q < 16 ∧ ¬RecordsWait (s.part part) ∧ s.headFits part q = true

/-- What a decision offers at one priority (R303, R305): its saved context before its queues. -/
def State.offer (s : State) (part prio : Nat) : Option Pick :=
  if (s.resumeOn part prio 0).isSome then some (.resume prio)
  else if (s.part part).recordsWait then none
  else (s.nextQueue part prio).map .queue

/-- The lowest queue that has been passed over 64 times and fits now (R303). -/
def State.agedQueue (s : State) (part : Nat) : Option Nat :=
  if (s.part part).recordsWait then none
  else (List.range 16).find? fun q => decide (64 ≤ (s.part part).passed.getD q 0) && s.headFits part q

theorem choose_eq (s : State) (part : Nat) : s.choose part =
    match s.agedQueue part with
    | some q => some (.queue q)
    | none => [3, 2, 1, 0].findSome? (s.offer part) := by
  rw [← List.head?_filterMap]
  rfl

theorem agedQueue_some {s : State} {part q : Nat} (h : s.agedQueue part = some q) :
    q < 16 ∧ ¬RecordsWait (s.part part) ∧ s.headFits part q = true ∧ 64 ≤ (s.part part).passed.getD q 0 ∧
      ∀ r < q, s.headFits part r = true → (s.part part).passed.getD r 0 < 64 := by
  unfold State.agedQueue at h
  split at h
  · cases h
  · next hc =>
    simp only [List.find?_range_eq_some, Bool.and_eq_true, decide_eq_true_eq, List.mem_range, Bool.not_eq_true',
      Bool.and_eq_false_iff, decide_eq_false_iff_not] at h
    obtain ⟨⟨hpass, hfit⟩, hq, hfirst⟩ := h
    refine ⟨hq, fun hw => hc ((recordsWait_iff _).mpr hw), hfit, hpass, fun r hr hf => ?_⟩
    rcases hfirst r hr with h | h
    · omega
    · rw [hf] at h
      exact Bool.noConfusion h

theorem agedQueue_none {s : State} {part : Nat} (h : s.agedQueue part = none) (r : Nat) :
    ¬(QueueFits s part r ∧ 64 ≤ (s.part part).passed.getD r 0) := by
  rintro ⟨⟨hr, hw, hf⟩, hp⟩
  rw [State.agedQueue, if_neg fun hc => hw ((recordsWait_iff _).mp hc), List.find?_range_eq_none] at h
  simpa [hf, hp] using h r hr

theorem offer_none {s : State} {part prio : Nat} (h : s.offer part prio = none) :
    ¬(s.resumeOn part prio 0).isSome = true ∧ ∀ r, ¬(QueueFits s part r ∧ prioOf (s.part part) r = prio) := by
  unfold State.offer at h
  split at h
  · cases h
  · next hres =>
    refine ⟨hres, ?_⟩
    rintro r ⟨⟨hr, hw, hf⟩, hp⟩
    rw [if_neg fun hc => hw ((recordsWait_iff _).mp hc), Option.map_eq_none_iff] at h
    rw [nextQueue_none h hr hp] at hf
    exact Bool.noConfusion hf

theorem offer_resume {s : State} {part prio k : Nat} (h : s.offer part prio = some (.resume k)) :
    k = prio ∧ (s.resumeOn part prio 0).isSome = true := by
  unfold State.offer at h
  split at h
  · next hres => exact ⟨(Pick.resume.inj (Option.some.inj h)).symm, hres⟩
  · split at h
    · cases h
    · simp at h

theorem offer_queue {s : State} {part prio q : Nat} (h : s.offer part prio = some (.queue q)) :
    ¬(s.resumeOn part prio 0).isSome = true ∧ ¬RecordsWait (s.part part) ∧ s.nextQueue part prio = some q := by
  unfold State.offer at h
  split at h
  · cases h
  · next hres =>
    split at h
    · cases h
    · next hw =>
      refine ⟨hres, fun hc => hw ((recordsWait_iff _).mpr hc), ?_⟩
      simpa using h

/-- What four offers in the order of priority choose: one with none above it. -/
theorem findSome?_prios {α : Type} {f : Nat → Option α} {x : α} (h : [3, 2, 1, 0].findSome? f = some x) :
    ∃ prio < 4, f prio = some x ∧ ∀ k, prio < k → k < 4 → f k = none := by
  have hkey : ∀ prio, prio < 4 → f prio = some x → (∀ k, prio < k → k < 4 → f k = none) →
      ∃ prio < 4, f prio = some x ∧ ∀ k, prio < k → k < 4 → f k = none := fun prio h1 h2 h3 => ⟨prio, h1, h2, h3⟩
  simp only [List.findSome?] at h
  cases h3 : f 3 with
  | some y => exact hkey 3 (by omega) (by simpa [h3] using h) (by omega)
  | none =>
    cases h2 : f 2 with
    | some y =>
      refine hkey 2 (by omega) (by simpa [h3, h2] using h) fun k hk hk4 => ?_
      rwa [show k = 3 by omega]
    | none =>
      cases h1 : f 1 with
      | some y =>
        refine hkey 1 (by omega) (by simpa [h3, h2, h1] using h) fun k hk hk4 => ?_
        obtain rfl | rfl : k = 2 ∨ k = 3 := by omega
        all_goals assumption
      | none =>
        refine hkey 0 (by omega) (by cases h0 : f 0 <;> simp_all) fun k hk hk4 => ?_
        obtain rfl | rfl | rfl : k = 1 ∨ k = 2 ∨ k = 3 := by omega
        all_goals assumption

theorem findSome?_prios_none {α : Type} {f : Nat → Option α} (h : [3, 2, 1, 0].findSome? f = none) {k : Nat} (hk : k < 4) :
    f k = none := by
  rw [List.findSome?_eq_none_iff] at h
  exact h k (by obtain rfl | rfl | rfl | rfl : k = 0 ∨ k = 1 ∨ k = 2 ∨ k = 3 := by omega
                all_goals decide)

/-- The choice of R303 as `Chooses` says it. -/
theorem chooses_choose (s : State) (part : Nat) : Chooses s part (s.choose part) := by
  rw [choose_eq]
  cases haged : s.agedQueue part with
  | some q =>
    obtain ⟨hq, hw, hf, hpass, hfirst⟩ := agedQueue_some haged
    exact .inl ⟨⟨⟨hq, hw, hf⟩, hpass⟩, fun r hr ⟨⟨_, _, hrf⟩, hrp⟩ => by have := hfirst r hr hrf; omega⟩
  | none =>
    have hno := agedQueue_none haged
    cases hoffer : [3, 2, 1, 0].findSome? (s.offer part) with
    | none => exact ⟨hno, fun prio hprio => offer_none (findSome?_prios_none hoffer hprio)⟩
    | some c =>
      obtain ⟨prio, hprio, hc, habove⟩ := findSome?_prios hoffer
      cases c with
      | resume k =>
        obtain ⟨rfl, hres⟩ := offer_resume hc
        exact ⟨hno, hprio, hres, fun k hk hk4 => offer_none (habove k hk hk4)⟩
      | queue q =>
        obtain ⟨hres, hw, hnext⟩ := offer_queue hc
        obtain ⟨hq, rfl, hf, hfirst⟩ := nextQueue_some hnext
        refine .inr ⟨hno, ⟨hq, hw, hf⟩, fun k hk hk4 => offer_none (habove k hk hk4), hres, ?_⟩
        rintro r ⟨⟨hr, _, hrf⟩, hrp⟩
        exact hfirst r hr hrp hrf

end Sys2Proof.Machine
end

section
/-! SUPPORT. Where the dispatcher places harts (R298-R301). -/

namespace Sys2Proof.Machine

open Sys2Proof.Claims

/-! ## The least entry of a list -/

theorem argMin_eq_none {f : Nat → Nat} {l : List Nat} : argMin f l = none ↔ l = [] := by
  cases l with
  | nil => exact iff_of_true rfl rfl
  | cons x xs =>
    rw [argMin]
    cases argMin f xs <;> simp

theorem argMin_mem {f : Nat → Nat} {l : List Nat} {x : Nat} (h : argMin f l = some x) : x ∈ l := by
  induction l generalizing x with
  | nil => cases h
  | cons y ys ih =>
    rw [argMin] at h
    cases hys : argMin f ys with
    | none => simp_all
    | some z =>
      rw [hys] at h
      by_cases hlt : f z < f y
      · obtain rfl : z = x := by simpa [hlt] using h
        exact List.mem_cons_of_mem _ (ih hys)
      · simp_all

/-- The least entry of an ordered list is the lowest of those of its value. -/
theorem argMin_le {f : Nat → Nat} {l : List Nat} {x : Nat} (hl : l.Pairwise (· < ·)) (h : argMin f l = some x) :
    ∀ y ∈ l, f x < f y ∨ f x = f y ∧ x ≤ y := by
  induction l generalizing x with
  | nil => cases h
  | cons z zs ih =>
    obtain ⟨hz, hzs⟩ := List.pairwise_cons.mp hl
    rw [argMin] at h
    cases hmin : argMin f zs with
    | none =>
      rw [hmin] at h
      obtain rfl : z = x := by simpa using h
      simp [argMin_eq_none.mp hmin]
    | some w =>
      rw [hmin] at h
      have hw := ih hzs hmin
      have hwz := hz w (argMin_mem hmin)
      by_cases hlt : f w < f z
      · obtain rfl : w = x := by simpa [hlt] using h
        exact List.forall_mem_cons.mpr ⟨.inl hlt, hw⟩
      · obtain rfl : z = x := by simpa [hlt] using h
        refine List.forall_mem_cons.mpr ⟨.inr ⟨rfl, le_rfl⟩, fun y hy => ?_⟩
        have := hz y hy
        rcases hw y hy with h | h <;> omega

/-! ## Columns and cores (R298-R301) -/

theorem mem_columns {p : Partition} {c : Nat} :
    c ∈ p.columns ↔ c < 32 ∧ p.colmap.getLsbD c = true ∧ p.draining.getLsbD c = false := by
  simp [Partition.columns]

theorem mem_eligible {s : State} {part c : Nat} : c ∈ s.eligible part ↔ c < 32 ∧
    (s.part part).colmap.getLsbD c = true ∧ (s.part part).draining.getLsbD c = false ∧
      colOccupancy (s.placedIn part) c ≤ (s.part part).dthr := by
  simp [State.eligible, mem_columns, and_assoc]

theorem colOccupancy_placedIn (s : State) (part c : Nat) : colOccupancy (s.placedIn part) c = inColumn s part c := by
  rw [colOccupancy, State.placedIn, List.filter_filter, inColumn]
  exact congrArg List.length (List.filter_congr fun h _ => Bool.and_comm _ _)

/-- The core chosen lies in an eligible column, and fits the hart. -/
theorem pickCore_some {elig : List Nat} {l : List Hart} {tiles spad k : Nat} (h : pickCore elig l tiles spad = some k) :
    k / 8 ∈ elig ∧ coreFits l tiles spad k = true := by
  obtain ⟨c, hc, hk⟩ := Option.bind_eq_some_iff.mp h
  have hce := (List.mem_filter.mp (argMin_mem hc)).1
  obtain ⟨hkc, hfit⟩ := List.mem_filter.mp (argMin_mem hk)
  obtain ⟨j, hj, rfl⟩ := List.mem_map.mp hkc
  have := List.mem_range.mp hj
  rw [show (8 * c + j) / 8 = c by omega]
  exact ⟨hce, hfit⟩

/-- A hart assigned to a core changes in its place only. -/
theorem Hart.assign_some {h x : Hart} {elig : List Nat} {l : List Hart} {n : Nat} (hx : h.assign elig l n = some x)
    (hcol : ∀ c ∈ elig, c < 32) : x.core.toNat / 8 ∈ elig ∧ coreFits l h.ntiles h.spadUnits x.core.toNat = true ∧
      { x with core := h.core, slot := h.slot, cluster := h.cluster } = h := by
  obtain ⟨k, hk, rfl⟩ := Option.map_eq_some_iff.mp hx
  obtain ⟨hke, hfit⟩ := pickCore_some hk
  have := hcol _ hke
  have hcore : (BitVec.ofNat 8 k).toNat = k := by rw [BitVec.toNat_ofNat]; omega
  exact ⟨by rw [hcore]; exact hke, by rw [hcore]; exact hfit, rfl⟩

/-- Which hart slot a hart takes decides nothing of where it fits. -/
theorem Hart.assign_isSome (h : Hart) (elig : List Nat) (l : List Hart) (m n : Nat) :
    (h.assign elig l m).isSome = (h.assign elig l n).isSome := by
  rw [Hart.assign, Hart.assign, Option.isSome_map, Option.isSome_map]

/-- The contexts on a core are within its slots, tiles and scratchpad (R300). -/
def CoreHolds (l : List Hart) (k : Nat) : Prop :=
  (onCore l k).length ≤ 32 ∧ ((onCore l k).map Hart.ntiles).sum ≤ 8 ∧ ((onCore l k).map Hart.spadUnits).sum ≤ 8

theorem coreFits_iff {l : List Hart} {tiles spad k : Nat} : coreFits l tiles spad k = true ↔ (onCore l k).length < 32 ∧
    tiles + ((onCore l k).map Hart.ntiles).sum ≤ 8 ∧ spad + ((onCore l k).map Hart.spadUnits).sum ≤ 8 := by
  simp [coreFits, and_assoc]

theorem CoreHolds.of_perm {l l' : List Hart} {k : Nat} (h : CoreHolds l k) (hp : l.Perm l') : CoreHolds l' k := by
  obtain ⟨h1, h2, h3⟩ := h
  have hon : (onCore l k).Perm (onCore l' k) := hp.filter _
  exact ⟨hon.length_eq ▸ h1, (hon.map Hart.ntiles).sum_eq ▸ h2, (hon.map Hart.spadUnits).sum_eq ▸ h3⟩

/-- A core that fits a hart holds it. -/
theorem CoreHolds.of_fits {x : Hart} {l : List Hart} (h : coreFits l x.ntiles x.spadUnits x.core.toNat = true) :
    CoreHolds (x :: l) x.core.toNat := by
  obtain ⟨h1, h2, h3⟩ := coreFits_iff.mp h
  have hon : onCore (x :: l) x.core.toNat = x :: onCore l x.core.toNat := List.filter_cons_of_pos (by simp)
  refine ⟨?_, ?_, ?_⟩ <;> rw [hon]
  · exact Nat.succ_le_of_lt h1
  · simpa using h2
  · simpa using h3

/-- What harts of one task assigned in turn are (R301): each the prototype on a core of an eligible column. -/
theorem assignAll_some {elig : List Nat} {proto : Hart} (hcol : ∀ c ∈ elig, c < 32) {n m : Nat} {l hs : List Hart}
    (h : assignAll elig proto n m l = some hs) : hs.length = n ∧ ∀ x ∈ hs, x.core.toNat / 8 ∈ elig ∧
      { x with core := proto.core, slot := proto.slot, cluster := proto.cluster } = proto := by
  induction n generalizing m l hs with
  | zero => cases h; simp
  | succ n ih =>
    rw [assignAll] at h
    split at h
    · cases h
    · next x hx =>
      obtain ⟨hs', hhs, rfl⟩ := Option.map_eq_some_iff.mp h
      obtain ⟨hlen, hall⟩ := ih hhs
      obtain ⟨helig, -, hproto⟩ := Hart.assign_some hx hcol
      exact ⟨by simp [hlen], List.forall_mem_cons.mpr ⟨⟨helig, hproto⟩, hall⟩⟩

/-- Every core that takes one of the harts holds them all, with those that were there. -/
theorem assignAll_coreHolds {elig : List Nat} {proto : Hart} (hcol : ∀ c ∈ elig, c < 32) {n m : Nat} {l hs : List Hart}
    (h : assignAll elig proto n m l = some hs) : ∀ x ∈ hs, CoreHolds (l ++ hs) x.core.toNat := by
  induction n generalizing m l hs with
  | zero => cases h; simp
  | succ n ih =>
    rw [assignAll] at h
    split at h
    · cases h
    · next x hx =>
      obtain ⟨hs', hhs, rfl⟩ := Option.map_eq_some_iff.mp h
      obtain ⟨-, hfit, hproto⟩ := Hart.assign_some hx hcol
      have hperm : (x :: l ++ hs').Perm (l ++ x :: hs') := List.perm_middle.symm
      have hrest := ih hhs
      refine List.forall_mem_cons.mpr ⟨?_, fun y hy => (hrest y hy).of_perm hperm⟩
      by_cases hlast : ∃ y ∈ hs', y.core.toNat = x.core.toNat
      · obtain ⟨y, hy, hxy⟩ := hlast
        exact hxy ▸ (hrest y hy).of_perm hperm
      · have hnone : onCore hs' x.core.toNat = [] := by
          rw [onCore, List.filter_eq_nil_iff]
          exact fun y hy => by simpa using fun hxy => hlast ⟨y, hy, hxy⟩
        have hxs : CoreHolds (x :: l) x.core.toNat := .of_fits (by rw [← hproto] at hfit; exact hfit)
        refine CoreHolds.of_perm (l := x :: l ++ hs') ?_ hperm
        have hon : onCore (x :: l ++ hs') x.core.toNat = onCore (x :: l) x.core.toNat := by
          rw [onCore, List.filter_append]
          exact (congrArg _ hnone).trans (List.append_nil _)
        exact ⟨by rw [hon]; exact hxs.1, by rw [hon]; exact hxs.2.1, by rw [hon]; exact hxs.2.2⟩

end Sys2Proof.Machine
end

section
/-! SUPPORT. A task placed (R34, R300-R303). -/

namespace Sys2Proof.Machine

open Sys2Proof.Claims

/-! ## What a placement asks of a hart -/

/-- A hart's core, and the tiles and scratchpad units it takes there. -/
def Hart.load (h : Hart) : BitVec 8 × Nat × Nat := (h.core, h.ntiles, h.spadUnits)

theorem onCore_load {l l' : List Hart} (h : l.map Hart.load = l'.map Hart.load) (k : Nat) :
    (onCore l k).map Hart.load = (onCore l' k).map Hart.load := by
  have hfilter (l : List Hart) : (onCore l k).map Hart.load = (l.map Hart.load).filter (·.1.toNat == k) := by
    rw [List.filter_map]
    rfl
  rw [hfilter, hfilter, h]

theorem length_of_load {l l' : List Hart} (h : l.map Hart.load = l'.map Hart.load) : l.length = l'.length := by
  simpa using congrArg List.length h

theorem ntiles_of_load {l l' : List Hart} (h : l.map Hart.load = l'.map Hart.load) :
    l.map Hart.ntiles = l'.map Hart.ntiles := by
  have := congrArg (List.map fun x => x.2.1) h
  rwa [List.map_map, List.map_map] at this

theorem spadUnits_of_load {l l' : List Hart} (h : l.map Hart.load = l'.map Hart.load) :
    l.map Hart.spadUnits = l'.map Hart.spadUnits := by
  have := congrArg (List.map fun x => x.2.2) h
  rwa [List.map_map, List.map_map] at this

theorem coreFits_load {l l' : List Hart} (h : l.map Hart.load = l'.map Hart.load) (tiles spad k : Nat) :
    coreFits l tiles spad k = coreFits l' tiles spad k := by
  have hon := onCore_load h k
  rw [coreFits, coreFits, length_of_load hon, ntiles_of_load hon, spadUnits_of_load hon]

theorem colOccupancy_load {l l' : List Hart} (h : l.map Hart.load = l'.map Hart.load) (c : Nat) :
    colOccupancy l c = colOccupancy l' c := by
  have hcount (l : List Hart) : colOccupancy l c = ((l.map Hart.load).filter (·.1.toNat / 8 == c)).length := by
    rw [List.filter_map, List.length_map]
    rfl
  rw [hcount, hcount, h]

theorem pickCore_load {l l' : List Hart} (h : l.map Hart.load = l'.map Hart.load) (elig : List Nat) (tiles spad : Nat) :
    pickCore elig l tiles spad = pickCore elig l' tiles spad := by
  have hocc : colOccupancy l = colOccupancy l' := funext (colOccupancy_load h)
  have hfit : fitting l tiles spad = fitting l' tiles spad := funext fun c => by
    rw [fitting, fitting, funext (coreFits_load h tiles spad)]
  have hon : (fun k => (onCore l k).length) = fun k => (onCore l' k).length :=
    funext fun k => length_of_load (onCore_load h k)
  rw [pickCore, pickCore, hocc, hfit, hon]

/-- Which hart slots are taken decides nothing of whether the harts of a task fit. -/
theorem assignAll_isSome (elig : List Nat) (proto : Hart) (n m m' : Nat) {l l' : List Hart}
    (h : l.map Hart.load = l'.map Hart.load) :
    (assignAll elig proto n m l).isSome = (assignAll elig proto n m' l').isSome := by
  induction n generalizing m m' l l' with
  | zero => rfl
  | succ n ih =>
    have hpick := pickCore_load h elig proto.ntiles proto.spadUnits
    rw [assignAll, assignAll, Hart.assign, Hart.assign, hpick]
    cases pickCore elig l' proto.ntiles proto.spadUnits with
    | none => rfl
    | some k =>
      simp only [Option.map_some, Option.isSome_map]
      exact ih _ _ (by simpa [Hart.load] using h)

/-- The head of a queue fits by its producers, its save slots and its cores (R300). -/
theorem headHarts_some {s : State} {part q n : Nat} {hs : List Hart} (h : s.headHarts part q n = some hs) :
    ∃ id, (s.part part).headTask q = some id ∧ (s.part part).producersPlaced ((s.part part).task id) = true ∧
      assignAll (s.eligible part) (((s.part part).task id).proto part ((s.part part).queuePrio q) id s.clock)
        ((s.part part).task id).harts n (s.placedIn part) = some hs := by
  unfold State.headHarts at h
  dsimp only at h
  split at h
  · cases h
  · next id hid =>
    split at h
    · next hfit => exact ⟨id, hid, (Bool.and_eq_true_iff.mp hfit).1, h⟩
    · cases h

theorem headHarts_isSome (s : State) (part q n m : Nat) :
    (s.headHarts part q n).isSome = (s.headHarts part q m).isSome := by
  unfold State.headHarts
  dsimp only
  split
  · rfl
  · split
    · exact assignAll_isSome _ _ _ _ _ rfl
    · rfl

/-! ## The harts of a task at its launch (R34) -/

/-- The harts of a task on their cores, each with its identity, save slot and context identifier. -/
def Task.members (t : Task) (slots : List Nat) (ids : List (BitVec 32)) (hs : List Hart) : List Hart :=
  hs.zipIdx.map fun (h, i) => h.member' t i (slots.getD i 0) (ids.getD i 0)

/-- A member has its scalar registers, identity, save slot and context identifier of its own; the rest is the
prototype's. -/
theorem Hart.member'_eq (h : Hart) (t : Task) (m slot : Nat) (ctx : BitVec 32) : ∃ x xp,
    h.member' t m slot ctx = { h with x := x, xPoison := xp, member := m, saveSlot := slot, ctxid := ctx } := by
  have hw (h : Hart) (r : BitVec 5) (v : Word) : ∃ x xp, h.writeX r v = { h with x := x, xPoison := xp } := by
    unfold Hart.writeX
    split
    · exact ⟨_, _, rfl⟩
    · exact ⟨_, _, rfl⟩
  obtain ⟨x1, p1, h1⟩ := hw h 1 (BitVec.ofNat 64 (t.arg.toNat / 2 ^ 40 * 2 ^ 40))
  obtain ⟨x2, p2, h2⟩ := hw { h with x := x1, xPoison := p1 } 2 (BitVec.ofNat 64 m)
  obtain ⟨x3, p3, h3⟩ := hw { h with x := x2, xPoison := p2 } 3 (BitVec.ofNat 64 t.harts)
  rw [Hart.member', h1, h2, h3]
  exact ⟨x3, p3, rfl⟩

theorem Task.members_length (t : Task) (slots : List Nat) (ids : List (BitVec 32)) (hs : List Hart) :
    (t.members slots ids hs).length = hs.length := by
  simp [Task.members]

theorem Task.members_load (t : Task) (slots : List Nat) (ids : List (BitVec 32)) (hs : List Hart) :
    (t.members slots ids hs).map Hart.load = hs.map Hart.load := by
  have hload (x : Hart × Nat) : (x.1.member' t x.2 (slots.getD x.2 0) (ids.getD x.2 0)).load = x.1.load := by
    obtain ⟨_, _, h⟩ := Hart.member'_eq x.1 t x.2 (slots.getD x.2 0) (ids.getD x.2 0)
    rw [h, Hart.load, Hart.load]
  calc (t.members slots ids hs).map Hart.load
      = hs.zipIdx.map (Hart.load ∘ Prod.fst) := by
        rw [Task.members, List.map_map]
        exact List.map_congr_left fun x _ => hload x
    _ = hs.map Hart.load := by rw [← List.map_map, List.zipIdx_map_fst]

theorem Task.getElem?_members {t : Task} {slots : List Nat} {ids : List (BitVec 32)} {hs : List Hart} {j : Nat} {h : Hart}
    (hj : (t.members slots ids hs)[j]? = some h) :
    ∃ x ∈ hs, h = x.member' t j (slots.getD j 0) (ids.getD j 0) := by
  simp only [Task.members, List.getElem?_map, Option.map_eq_some_iff, List.getElem?_zipIdx] at hj
  obtain ⟨_, ⟨x, hx, rfl⟩, rfl⟩ := hj
  exact ⟨x, List.mem_of_getElem? hx, by rw [Nat.zero_add]⟩

theorem Hart.readX_member' {h : Hart} (hx : ∀ r, h.readX r = 0) (t : Task) (m slot : Nat) (ctx : BitVec 32) (r : BitVec 5) :
    (h.member' t m slot ctx).readX r = if r = 1#5 then BitVec.ofNat 64 (t.arg.toNat / 2 ^ 40 * 2 ^ 40)
      else if r = 2#5 then BitVec.ofNat 64 m else if r = 3#5 then BitVec.ofNat 64 t.harts else 0 := by
  have hreg (h : Hart) : { h with member := m, saveSlot := slot, ctxid := ctx }.readX r = h.readX r := by
    rw [Hart.readX, Hart.readX]
  rw [Hart.member', hreg, Hart.readX_writeX, Hart.readX_writeX, Hart.readX_writeX, hx]
  by_cases e1 : r = 1#5
  · subst e1; simp
  · by_cases e2 : r = 2#5
    · subst e2; simp
    · by_cases e3 : r = 3#5
      · subst e3; simp
      · simp [e1, e2, e3]

theorem Task.proto_readX (t : Task) (part prio id stamp : Nat) (r : BitVec 5) : (t.proto part prio id stamp).readX r = 0 := by
  rw [Hart.readX]
  split
  · rfl
  · exact Vector.getElem_replicate _

theorem Task.proto_pc (t : Task) (part prio id stamp : Nat) :
    (t.proto part prio id stamp).pc.toNat = t.entry.toNat / 2 * 2 := by
  have h : (t.proto part prio id stamp).pc = BitVec.ofNat 64 (setBits t.entry.toNat 0 1 0) := rfl
  rw [h, BitVec.toNat_ofNat, setBits, bitsAt]
  have := t.entry.isLt
  omega

end Sys2Proof.Machine
end

section
/-! SUPPORT. The decisions of the dispatcher (R302, R303). -/

namespace Sys2Proof.Machine

open Sys2Proof.Claims

/-- The dirty bytes of some cores written home: nothing else changes. -/
theorem foldl_flushCore_frame (cores : List Nat) (s : State) :
    { cores.foldl State.flushCore s with cores := s.cores, home := s.home } = s :=
  foldl_keeps (fun t : State => { t with cores := s.cores, home := s.home }) State.flushCore (fun _ _ => rfl) cores s

/-- The cores whose L1 gives steps to the scratchpad of a hart. -/
def spadCores (l : List Hart) : List Nat := (l.filter fun h => h.spadUnits != 0).map fun h => h.core.toNat

/-- The partition after a placement: the task placed, its record off its queue. -/
def Partition.placeTask (p : Partition) (q id : Nat) (ctx : BitVec 32) : Partition :=
  { p.setTask id { p.task id with placed := true } with
    queues := p.queues.setIfInBounds q (p.queues.getD q []).tail
    nextCtx := ctx }

/-- The harts of a task added to the contexts, and the task placed. -/
def State.placeTask (s : State) (part q id : Nat) (new : List Hart) (ctx : BitVec 32) : State :=
  { ((spadCores new).foldl State.flushCore s).setPart part ((s.part part).placeTask q id ctx) with
    rest := s.rest ++ new, clock := s.clock + 1 }

theorem placeHead_eq {s : State} {part q id n : Nat} {hs : List Hart} (m : Nat) (h : s.headHarts part q n = some hs)
    (hid : (s.part part).headTask q = some id) : ∃ slots ids ctx,
      s.placeHead part q n m = s.placeTask part q id (((s.part part).task id).members slots ids hs) ctx := by
  let t := (s.part part).task id
  let held := (s.harts.filter fun h => h.part == part && decide (h.status ≠ .vacant)).map Hart.ctxid
  let ids := ctxids held t.harts (s.part part).nextCtx
  refine ⟨arrange t.harts m (s.freeSlots part), ids, ids.getLastD (s.part part).nextCtx + 1, ?_⟩
  unfold State.placeHead
  rw [h, hid]
  rfl

/-- The decision that places the head of queue `q`. -/
theorem runDecision_queue {s : State} {part q : Nat} (h : s.choose part = some (.queue q)) : ∃ (u : State) (n m : Nat) (passed : Vector Nat 16) (rr : Vector Nat 4),
    { u with fresh := s.fresh } = s ∧ s.runDecision part =
      (u.placeHead part q n m).setPart part { (u.placeHead part q n m).part part with passed := passed, rr := rr } := by
  refine ⟨s.draw.2.draw.2, s.draw.1, s.draw.2.draw.1, ?_⟩
  unfold State.runDecision
  rw [h]
  dsimp only
  split
  · exact ⟨_, _, rfl, rfl⟩
  · exact ⟨_, _, rfl, rfl⟩

/-- A chosen queue has a head that fits. -/
theorem headFits_of_choose {s : State} {part q : Nat} (h : s.choose part = some (.queue q)) :
    q < 16 ∧ s.headFits part q = true := by
  have hc := chooses_choose s part
  rw [h] at hc
  rcases hc with ⟨⟨⟨hq, _, hf⟩, _⟩, _⟩ | ⟨_, ⟨hq, _, hf⟩, _⟩
  · exact ⟨hq, hf⟩
  · exact ⟨hq, hf⟩

theorem State.part_placeTask (s : State) (part q id : Nat) (new : List Hart) (ctx : BitVec 32) :
    (s.placeTask part q id new ctx).part part = (s.part part).placeTask q id ctx :=
  tget_tset_self Partition.reset _ _ _

theorem State.placeTask_frame (s : State) (part q id : Nat) (new : List Hart) (ctx : BitVec 32) :
    { s.placeTask part q id new ctx with
      rest := s.rest, parts := s.parts, clock := s.clock, cores := s.cores, home := s.home } = s :=
  congrArg (fun t : State => { t with rest := s.rest, parts := s.parts, clock := s.clock })
    (foldl_flushCore_frame (spadCores new) s)

theorem runDecision_places {s : State} {part q id : Nat} (h : s.choose part = some (.queue q))
    (hid : (s.part part).headTask q = some id) : ∃ (u : State) (n : Nat) (hs : List Hart)
      (slots : List Nat) (ids : List (BitVec 32)) (ctx : BitVec 32) (passed : Vector Nat 16) (rr : Vector Nat 4), { u with fresh := s.fresh } = s ∧
      s.headHarts part q n = some hs ∧
      let t := u.placeTask part q id (((s.part part).task id).members slots ids hs) ctx
      s.runDecision part = t.setPart part { (s.part part).placeTask q id ctx with passed := passed, rr := rr } := by
  obtain ⟨u, n, m, passed, rr, hu, hrun⟩ := runDecision_queue h
  have hpart : u.part part = s.part part := (congrArg (fun t : State => t.part part) hu :)
  have hhead : u.headHarts part q n = s.headHarts part q n := (congrArg (fun t : State => t.headHarts part q n) hu :)
  have hfits : (s.headHarts part q n).isSome = true := by
    rw [headHarts_isSome s part q n 0]
    exact (headFits_of_choose h).2
  obtain ⟨hs, hhs⟩ := Option.isSome_iff_exists.mp hfits
  obtain ⟨slots, ids, ctx, hplace⟩ := placeHead_eq m (hhead.trans hhs) (hpart ▸ hid)
  rw [hplace, State.part_placeTask, hpart] at hrun
  exact ⟨u, n, hs, slots, ids, ctx, passed, rr, hu, hhs, hrun⟩

end Sys2Proof.Machine
end

section
/-! SUPPORT. What a decision of the dispatcher does (R302, R303, R305). -/

namespace Sys2Proof.Machine

open Sys2Proof.Claims

theorem atUnit_isPart {part : Nat} (h : part < 32) (s : State) : atUnit (isPart part) s = .next s :=
  if_pos (decide_eq_true h)

theorem headTask_eq_some {p : Partition} {q id : Nat} :
    p.headTask q = some id ↔ ∃ w ws, p.queues.getD q [] = w :: ws ∧ w.toNat = id := by
  rw [Partition.headTask]
  cases p.queues.getD q [] with
  | nil => simp
  | cons w ws => simp

theorem neverFits_iff (p : Partition) (q : Nat) : p.neverFits q = true ↔ NeverFits p q := by
  unfold Partition.neverFits NeverFits
  cases h : p.queues.getD q [] with
  | nil => simp [Partition.headTask, h]
  | cons w ws =>
    have hid : p.headTask q = some w.toNat := headTask_eq_some.mpr ⟨w, ws, h, rfl⟩
    rw [hid]
    simp only [Bool.or_eq_true, decide_eq_true_iff, List.cons.injEq]
    exact ⟨fun h => ⟨w, ws, ⟨rfl, rfl⟩, h⟩, fun ⟨_, _, ⟨hw, _⟩, h⟩ => hw ▸ h⟩

theorem find?_neverFits_none {p : Partition} (h : ∀ q < 16, ¬NeverFits p q) : (List.range 16).find? p.neverFits = none := by
  rw [List.find?_range_eq_none]
  exact fun q hq => by simpa using mt (neverFits_iff p q).mp (h q hq)

theorem find?_neverFits_some {p : Partition} {q : Nat} (hq : q < 16) (h : NeverFits p q) (hfirst : ∀ r < q, ¬NeverFits p r) :
    (List.range 16).find? p.neverFits = some q := by
  rw [List.find?_range_eq_some]
  exact ⟨(neverFits_iff p q).mpr h, List.mem_range.mpr hq, fun r hr => by simpa using mt (neverFits_iff p r).mp (hfirst r hr)⟩

/-- Where every head can fit some time, a decision runs what the rule chooses. -/
theorem dispatch_runs {part : Nat} {s : State} (hpart : part < 32) (hen : (s.part part).en = true)
    (hfit : ∀ q < 16, ¬NeverFits (s.part part) q) : exec (.dispatchDecision part) s = .next (s.runDecision part) := by
  have hexec : exec (.dispatchDecision part) s = execDispatchDecision part s := rfl
  rw [hexec, execDispatchDecision, atUnit_isPart hpart, hen, find?_neverFits_none hfit]
  rfl

theorem dispatch_disabled {part : Nat} {s : State} (hpart : part < 32) (hen : (s.part part).en = false) :
    exec (.dispatchDecision part) s = .next s := by
  have hexec : exec (.dispatchDecision part) s = execDispatchDecision part s := rfl
  rw [hexec, execDispatchDecision, atUnit_isPart hpart, hen]
  rfl

theorem dispatch_nothing {part : Nat} {s : State} (hpart : part < 32) (hen : (s.part part).en = true)
    (hfit : ∀ q < 16, ¬NeverFits (s.part part) q) (hnone : s.choose part = none) :
    exec (.dispatchDecision part) s = .next s := by
  rw [dispatch_runs hpart hen hfit, State.runDecision, hnone]

/-- An entry of a vector of lists of which one is replaced. -/
theorem getD_setIfInBounds {α : Type} {n : Nat} (v : Vector α n) (d : α) {i : Nat} (x : α) (hi : i < n) (j : Nat) :
    (v.setIfInBounds i x).getD j d = if j = i then x else v.getD j d := by
  by_cases h : j = i
  · rw [h, if_pos rfl, vector_getD_set_self _ _ _ hi]
  · rw [if_neg h, vector_getD_set_ne _ _ _ (Ne.symm h)]

/-- A head that can never fit is refused. -/
theorem dispatch_refuses {part q id : Nat} {s : State} (hpart : part < 32) (hen : (s.part part).en = true) (hq : q < 16)
    (hnever : NeverFits (s.part part) q) (hfirst : ∀ r < q, ¬NeverFits (s.part part) r)
    (hid : (s.part part).headTask q = some id) : ∃ t, exec (.dispatchDecision part) s = .next t ∧
      (t.part part).task id = { (s.part part).task id with refused := 5, ended := true } ∧
      (t.part part).queues.getD q [] = ((s.part part).queues.getD q []).tail ∧
      (t.part part).done = (s.part part).done ++ [BitVec.ofNat 64 id] ∧ { t with parts := s.parts } = s := by
  have hexec : exec (.dispatchDecision part) s = .next (s.refuseHead part q) := by
    have hexec : exec (.dispatchDecision part) s = execDispatchDecision part s := rfl
    rw [hexec, execDispatchDecision, atUnit_isPart hpart, hen, find?_neverFits_some hq hnever hfirst]
    rfl
  refine ⟨_, hexec, ?_⟩
  rw [State.refuseHead, hid]
  simp only [State.part_setPart_self]
  exact ⟨tget_tset_self Task.reset _ _ _, by rw [getD_setIfInBounds _ _ _ hq, if_pos rfl], trivial, rfl⟩

/-! ## A placement (R34, R300, R301) -/

theorem State.harts_placeTask (s : State) (part q id : Nat) (new : List Hart) (ctx : BitVec 32) :
    (s.placeTask part q id new ctx).harts = s.harts ++ new := by
  have hcur : ((spadCores new).foldl State.flushCore s).cur = s.cur :=
    (congrArg State.cur (foldl_flushCore_frame (spadCores new) s) :)
  have hharts : (s.placeTask part q id new ctx).harts =
    ((spadCores new).foldl State.flushCore s).cur :: (s.rest ++ new) := rfl
  rw [hharts, hcur]
  rfl

/-- Where harts are added that fit, their cores hold all that they run. -/
theorem withinCore_of_holds {t : State} {part k : Nat} {l hs new : List Hart} (ht : t.placedIn part = l ++ new)
    (hload : new.map Hart.load = hs.map Hart.load) (h : CoreHolds (l ++ hs) k) : WithinCore t part k := by
  have hon : (onCore (l ++ new) k).map Hart.load = (onCore (l ++ hs) k).map Hart.load :=
    onCore_load (by rw [List.map_append, List.map_append, hload]) k
  have hl : (t.harts.filter fun h => h.placed && h.part == part && h.core.toNat == k) = onCore (l ++ new) k := by
    rw [onCore, ← ht, State.placedIn, List.filter_filter]
    exact List.filter_congr fun h _ => Bool.and_comm _ _
  obtain ⟨h1, h2, h3⟩ := h
  refine ⟨?_, ?_, ?_⟩
  · rw [hl, length_of_load hon]
    exact h1
  · rw [hl, ntiles_of_load hon]
    exact h2
  · rw [hl, spadUnits_of_load hon]
    exact h3

theorem producersPlaced_iff (p : Partition) (t : Task) : p.producersPlaced t = true ↔ ∀ w ∈ t.producers,
    (p.task w.toNat).placed = true ∨ HasTriggered (p.task w.toNat) ∨ CannotTrigger (p.task w.toNat) := by
  simp [Partition.producersPlaced, Task.triggered, Task.neverTriggers, HasTriggered, CannotTrigger, or_assoc, and_assoc]

end Sys2Proof.Machine
end

section
/-! SUPPORT. A placement by the dispatcher (R34, R300-R303). -/

namespace Sys2Proof.Machine

open Sys2Proof.Claims

/-- A hart at its launch (R34): the prototype of its task on a core, with its identity and its scalar registers. -/
theorem launched_member {t : Task} {part prio id stamp j slot : Nat} {ctx : BitVec 32} {x h : Hart}
    (hx : { x with
      core := (t.proto part prio id stamp).core, slot := (t.proto part prio id stamp).slot
      cluster := (t.proto part prio id stamp).cluster } = t.proto part prio id stamp)
    (hh : h = x.member' t j slot ctx) :
    h.core = x.core ∧ h.status = .running ∧ h.part = part ∧ h.member = j ∧ h.harts = t.harts ∧
      h.task = BitVec.ofNat 64 id ∧ h.wide = t.wide ∧ h.supv = t.supv ∧ h.ntiles = t.tiles ∧ h.spadUnits = t.spad ∧
      h.pc.toNat = t.entry.toNat / 2 * 2 ∧
      (∀ r : BitVec 5, h.readX r = if r = 1#5 then BitVec.ofNat 64 (t.arg.toNat / 2 ^ 40 * 2 ^ 40)
        else if r = 2#5 then BitVec.ofNat 64 j else if r = 3#5 then BitVec.ofNat 64 t.harts else 0) ∧
      h.csr = .reset ∧ h.v = Hart.reset.v ∧ h.m = Hart.reset.m ∧ h.d = Hart.reset.d ∧
      h.shapes = Hart.reset.shapes ∧ h.g = Hart.reset.g ∧ h.tiles = Hart.reset.tiles ∧ h.xfers = [] ∧ h.spad = [] := by
  have hread (r : BitVec 5) : x.readX r = 0 := by
    have hxr : x.x = (t.proto part prio id stamp).x := (congrArg Hart.x hx :)
    rw [Hart.readX, hxr]
    exact t.proto_readX part prio id stamp r
  have hpc : x.pc.toNat = t.entry.toNat / 2 * 2 := by
    have hpc : x.pc = (t.proto part prio id stamp).pc := (congrArg Hart.pc hx :)
    rw [hpc, Task.proto_pc]
  have hregs := Hart.readX_member' hread t j slot ctx
  obtain ⟨_, _, hm⟩ := Hart.member'_eq x t j slot ctx
  rw [← hh] at hm hregs
  rw [hm] at hregs ⊢
  exact ⟨rfl, (congrArg Hart.status hx :), (congrArg Hart.part hx :), rfl, (congrArg Hart.harts hx :),
    (congrArg Hart.task hx :), (congrArg Hart.wide hx :), (congrArg Hart.supv hx :), (congrArg Hart.ntiles hx :),
    (congrArg Hart.spadUnits hx :), hpc, hregs, (congrArg Hart.csr hx :), (congrArg Hart.v hx :),
    (congrArg Hart.m hx :), (congrArg Hart.d hx :), (congrArg Hart.shapes hx :), (congrArg Hart.g hx :),
    (congrArg Hart.tiles hx :), (congrArg Hart.xfers hx :), (congrArg Hart.spad hx :)⟩

/-- A placed task's harts, among the contexts that hold a slot. -/
theorem placedIn_append {s t : State} {part : Nat} {new : List Hart} (ht : t.harts = s.harts ++ new)
    (hnew : ∀ h ∈ new, h.placed = true ∧ h.part = part) : t.placedIn part = s.placedIn part ++ new := by
  rw [State.placedIn, ht, List.filter_append, State.placedIn]
  congr 1
  exact List.filter_eq_self.mpr fun h hh => by simp [hnew h hh]

theorem dispatch_places {part q id : Nat} {s : State} (hpart : part < 32) (hen : (s.part part).en = true)
    (hfit : ∀ q < 16, ¬NeverFits (s.part part) q) (hc : s.choose part = some (.queue q))
    (hid : (s.part part).headTask q = some id) :
    let p := s.part part
    let task := p.task id
    ∃ t new, exec (.dispatchDecision part) s = .next t ∧ t.rest = s.rest ++ new ∧ new.length = task.harts ∧
      t.cur = s.cur ∧ (t.part part).task id = { task with placed := true } ∧
      (t.part part).queues.getD q [] = (p.queues.getD q []).tail ∧
      { t with
        rest := s.rest, parts := s.parts, clock := s.clock, fresh := s.fresh, cores := s.cores, home := s.home } = s ∧
      (task.spad = 0 → t.cores = s.cores ∧ t.home = s.home) ∧
      (∀ w ∈ task.producers, let u := p.task w.toNat
        u.placed = true ∨ HasTriggered u ∨ CannotTrigger u) ∧
      ∀ j h, new[j]? = some h → p.draining.getLsbD (h.core.toNat / 8) = false ∧
        inColumn s part (h.core.toNat / 8) ≤ p.dthr ∧ WithinCore t part h.core.toNat ∧
        h.status = .running ∧ h.part = part ∧ h.member = j ∧ h.harts = task.harts ∧
        h.task = BitVec.ofNat 64 id ∧ h.wide = task.wide ∧ h.supv = task.supv ∧ h.ntiles = task.tiles ∧
        h.spadUnits = task.spad ∧ p.colmap.getLsbD (h.core.toNat / 8) = true ∧
        h.pc.toNat = task.entry.toNat / 2 * 2 ∧
        (∀ r : BitVec 5, h.readX r = if r = 1#5 then BitVec.ofNat 64 (task.arg.toNat / 2 ^ 40 * 2 ^ 40)
          else if r = 2#5 then BitVec.ofNat 64 j else if r = 3#5 then BitVec.ofNat 64 task.harts else 0) ∧
        h.csr = .reset ∧ h.v = Hart.reset.v ∧ h.m = Hart.reset.m ∧ h.d = Hart.reset.d ∧
        h.shapes = Hart.reset.shapes ∧ h.g = Hart.reset.g ∧ h.tiles = Hart.reset.tiles ∧ h.xfers = [] ∧ h.spad = [] := by
  intro p task
  obtain ⟨u, n, hs, slots, ids, ctx, passed, rr, hu, hhs, hrun⟩ := runDecision_places hc hid
  obtain ⟨id', hid', hprod, hassign⟩ := headHarts_some hhs
  obtain rfl : id = id' := Option.some.inj (hid.symm.trans hid')
  have hcol : ∀ c ∈ s.eligible part, c < 32 := fun c hc => (mem_eligible.mp hc).1
  obtain ⟨hlen, hall⟩ := assignAll_some hcol hassign
  have hq := (headFits_of_choose hc).1
  let new := task.members slots ids hs
  let t := (u.placeTask part q id new ctx).setPart part { p.placeTask q id ctx with passed := passed, rr := rr }
  have hmember : ∀ j h, new[j]? = some h → ∃ x ∈ hs, h = x.member' task j (slots.getD j 0) (ids.getD j 0) :=
    fun j h => Task.getElem?_members
  have hnew : ∀ h ∈ new, h.placed = true ∧ h.part = part := by
    intro h hh
    obtain ⟨j, hj⟩ := List.getElem?_of_mem hh
    obtain ⟨x, hx, rfl⟩ := hmember j h hj
    obtain ⟨-, hst, hp, -⟩ := launched_member (hall x hx).2 rfl
    exact ⟨by rw [Hart.placed, hst], hp⟩
  have hharts : t.harts = s.harts ++ new :=
    (u.harts_placeTask part q id new ctx).trans (congrArg (· ++ new) (congrArg State.harts hu :))
  have hframe := u.placeTask_frame part q id new ctx
  have hparttask : t.part part = { p.placeTask q id ctx with passed := passed, rr := rr } :=
    State.part_setPart_self _ _ _
  refine ⟨t, new, (dispatch_runs hpart hen hfit).trans (congrArg _ hrun),
    (congrArg (fun x : State => x.rest ++ new) hu :), (Task.members_length _ _ _ _).trans hlen,
    (congrArg State.cur hframe :).trans (congrArg State.cur hu :), ?_, ?_, ?_, ?_,
    (producersPlaced_iff _ _).mp hprod, fun j h hj => ?_⟩
  · rw [hparttask]
    exact tget_tset_self Task.reset _ _ _
  · rw [hparttask]
    exact (getD_setIfInBounds _ _ _ hq _).trans (if_pos rfl)
  · exact (congrArg (fun x : State => { x with
      rest := s.rest, parts := s.parts, clock := s.clock, fresh := s.fresh, cores := s.cores, home := s.home }) hframe :).trans
      (congrArg (fun x : State => { x with
        rest := s.rest, parts := s.parts, clock := s.clock, cores := s.cores, home := s.home }) hu :)
  · intro hspad
    have hnone : spadCores new = [] := by
      rw [spadCores, List.map_eq_nil_iff, List.filter_eq_nil_iff]
      intro h hh
      obtain ⟨j, hj⟩ := List.getElem?_of_mem hh
      obtain ⟨x, hx, hhx⟩ := hmember j h hj
      obtain ⟨_, _, hm⟩ := Hart.member'_eq x task j (slots.getD j 0) (ids.getD j 0)
      have hunits : x.spadUnits = task.spad := (congrArg Hart.spadUnits (hall x hx).2 :)
      rw [hhx, hm]
      simpa [hunits] using hspad
    have ht : (u.placeTask part q id new ctx).cores = u.cores ∧ (u.placeTask part q id new ctx).home = u.home := by
      rw [State.placeTask, hnone]
      exact ⟨rfl, rfl⟩
    exact ⟨ht.1.trans (congrArg State.cores hu :), ht.2.trans (congrArg State.home hu :)⟩
  · obtain ⟨x, hx, hhx⟩ := hmember j h hj
    obtain ⟨helig, hproto⟩ := hall x hx
    obtain ⟨hcore, hrest⟩ := launched_member hproto hhx
    obtain ⟨-, hmap, hdrain, hocc⟩ := mem_eligible.mp helig
    rw [colOccupancy_placedIn] at hocc
    have hwithin : WithinCore t part x.core.toNat :=
      withinCore_of_holds (placedIn_append hharts hnew) (task.members_load slots ids hs)
        (assignAll_coreHolds hcol hassign x hx)
    rw [← hcore] at hmap hdrain hocc hwithin
    obtain ⟨h1, h2, h3, h4, h5, h6, h7, h8, h9, h10⟩ := hrest
    exact ⟨hdrain, hocc, hwithin, h1, h2, h3, h4, h5, h6, h7, h8, h9, hmap, h10⟩

end Sys2Proof.Machine
end

section
/-! SUPPORT. A saved context resumed (R305, R320, R329). -/

namespace Sys2Proof.Machine

open Sys2Proof.Claims

/-! ## What a context's own memory work leaves -/

/-- The other contexts, the partitions, and the identity and place of the running context. -/
def State.anchor (s : State) : List Hart × List (Nat × Partition) × Nat × BitVec 32 × BitVec 8 :=
  (s.rest, s.parts, s.cur.part, s.cur.ctxid, s.cur.core)

theorem State.anchor_of_contexts {s t : State} (h : t.contexts = s.contexts) : t.anchor = s.anchor :=
  congrArg (fun x : Hart × List Hart × List (Nat × Partition) => (x.2.1, x.2.2, x.1.part, x.1.ctxid, x.1.core)) h

theorem State.wakeMore_anchor (s : State) (bs : List Nat) : (s.wakeMore bs).anchor = s.anchor := by
  have h : (s.wakeMore bs).anchor = (s.activate bs).anchor := by
    unfold State.wakeMore
    rfl
  exact h.trans (State.anchor_of_contexts (s.activate_contexts bs))

theorem Hart.writeSpad_place (h : Hart) (o : Nat) (bs : List Byte) :
    (h.writeSpad o bs).part = h.part ∧ (h.writeSpad o bs).ctxid = h.ctxid ∧ (h.writeSpad o bs).core = h.core := by
  unfold Hart.writeSpad
  split
  · exact ⟨rfl, rfl, rfl⟩
  · exact ⟨rfl, rfl, rfl⟩

theorem State.matWrite_anchor (s : State) (x : MatSite × Word) : (s.matWrite x).anchor = s.anchor := by
  obtain ⟨site, w⟩ := x
  cases site with
  | pkg pa => exact State.anchor_of_contexts (s.writeBytes_contexts _ _ _ _)
  | scratch o =>
    obtain ⟨hp, hc, hk⟩ := s.cur.writeSpad_place o (leBytes 8 w.toNat)
    exact congrArg (fun x => (s.rest, s.parts, x)) (Prod.ext hp (Prod.ext hc hk))
  | host a => rfl
  | done => rfl

theorem State.writeWords_anchor (s : State) (ws : List (MatSite × Word)) : (s.writeWords ws).anchor = s.anchor := by
  unfold State.writeWords
  split
  · rfl
  · exact (State.wakeMore_anchor _ _).trans (foldl_keeps State.anchor _ State.matWrite_anchor ws s)

theorem State.readLoads_anchor (s : State) (sel : MatOp → Bool) (ops : List MatOp) :
    (s.readLoads sel ops).2.anchor = s.anchor := by
  unfold State.readLoads
  split
  · rfl
  · exact State.wakeMore_anchor _ _

theorem State.completeOps_anchor (s : State) (sel : MatOp → Bool) : (s.completeOps sel).anchor = s.anchor := by
  have hread := s.readLoads_anchor (fun _ => true) (splitOps sel s.cur.matq).1
  have hset (u : State) (tiles : Vector Tile 8) (matq : List MatOp) :
      (u.setCur { u.cur with tiles := tiles, matq := matq }).anchor = u.anchor := rfl
  have hdraw (u : State) (b : Prop) [Decidable b] : (if b then (0, u) else u.draw).2.anchor = u.anchor := by
    split <;> rfl
  unfold State.completeOps
  dsimp only
  split
  · rfl
  · rw [hset, State.writeWords_anchor, hdraw, hread]

theorem State.setFlights_anchor (s : State) (fs : List Flight) :
    (s.setCur { s.cur with flights := fs }).anchor = s.anchor := rfl

theorem State.landAll_anchor (s : State) (sel : Flight → Bool) : (s.landAll sel).anchor = s.anchor := by
  unfold State.landAll
  dsimp only
  split
  · rfl
  · rw [State.setFlights_anchor]
    exact State.anchor_of_contexts (s.landList_contexts _)

theorem State.landSome_anchor (s : State) (sel : Flight → Bool) : (s.landSome sel).anchor = s.anchor := by
  unfold State.landSome
  split
  · rfl
  · dsimp only
    rw [State.setFlights_anchor]
    exact State.anchor_of_contexts (State.landList_contexts s.draw.2 _)

/-! ## The end of a hart whose transfers have stopped (R97, R217) -/

/-- A transfer that has stopped, with no chunk under way. -/
def Xfer.Halted (x : Xfer) : Prop := x.stopped.isSome = true ∧ x.started = 0

theorem runChunks_of_halted {s : State} (h : ∀ x ∈ s.cur.xfers, x.Halted) (id k n : Nat) : s.runChunks id k n = s := by
  induction n generalizing k with
  | zero => rfl
  | succ n ih =>
    have hone : s.runChunk id k = s := by
      unfold State.runChunk
      split
      · next x hx =>
        obtain ⟨hstop, hstart⟩ := h x (List.mem_of_find?_eq_some hx)
        rw [if_neg]
        cases hs : x.stopped <;> simp_all [Xfer.mayMove]
      · rfl
    rw [State.runChunks, hone, ih]

theorem endXfer_of_halted {s : State} (h : ∀ x ∈ s.cur.xfers, x.Halted) (id : Nat) : s.endXfer id = s := by
  unfold State.endXfer
  split
  · rfl
  · next x hx =>
    obtain ⟨hstop, -⟩ := h x (List.mem_of_find?_eq_some hx)
    rw [hstop]
    rfl

theorem drainCopies_of_halted {s : State} (h : ∀ x ∈ s.cur.xfers, x.Halted) (sel : Xfer → Bool) : s.drainCopies sel = s := by
  unfold State.drainCopies
  generalize s.cur.xfers.filter sel = l
  induction l with
  | nil => rfl
  | cons x l ih => rw [List.foldl_cons, runChunks_of_halted h, endXfer_of_halted h, ih]

theorem copying_of_halted {h : Hart} (hx : ∀ x ∈ h.xfers, x.Halted) (sel : Xfer → Bool) : h.copying sel = false := by
  rw [Hart.copying, List.any_eq_false]
  intro x hmem
  obtain ⟨hstop, hstart⟩ := hx x hmem
  cases hs : x.stopped <;> simp_all [Xfer.live]

/-- Where no transfer moves, an instruction that waits for transfers reports a fault or goes on at once. -/
theorem afterCopies_of_halted (len : Nat) (sel : Xfer → Bool) (r : Option (BitVec 5)) {s : State} (f : State → State)
    (hrun : s.cur.status = .running) (h : ∀ x ∈ s.cur.xfers, x.Halted) : afterCopies len sel r s f =
      match s.cur.copyFault sel with
      | some t => takeTrapWith t len r s
      | none => f s := by
  unfold afterCopies
  dsimp only
  rw [drainCopies_of_halted h, copying_of_halted h, if_neg (not_not_intro hrun)]
  rfl

/-- A hart comes to its end: its memory work performed, it waits for its exit. -/
theorem State.setExit_anchor (s : State) (st : Status) (v : Word) :
    (s.setCur { s.cur with status := st, exitVal := v }).anchor = s.anchor := rfl

/-- The end of a hart whose transfers have all stopped: the fault of one, or the wait for its exit. -/
theorem exitRun_of_halted {s : State} (ra : BitVec 5) (hrun : s.cur.status = .running) (h : ∀ x ∈ s.cur.xfers, x.Halted) :
    ((exitRun ra s).cur.status = .stopping .trap ∨ (exitRun ra s).cur.status = .waiting .exit) ∧
      (exitRun ra s).anchor = s.anchor := by
  unfold exitRun
  rw [afterCopies_of_halted _ _ _ _ hrun h]
  split
  · exact ⟨.inl rfl, rfl⟩
  · refine ⟨.inr rfl, ?_⟩
    dsimp only
    rw [State.setExit_anchor]
    exact (State.completeOps_anchor _ _).trans (s.landAll_anchor _)

/-! ## The restore (R329) -/

/-- What a restore comes to: only the context itself changes among the contexts, on its new core, and no queue of its
partition changes. -/
structure Resumed (u t : State) (core : BitVec 8) : Prop where
  rest : t.rest = u.rest
  part : t.cur.part = u.cur.part
  ctxid : t.cur.ctxid = u.cur.ctxid
  core : t.cur.core = core
  status : t.cur.status = .running ∨ t.cur.status = .waiting .phase ∨ t.cur.status = .killed ∨
    t.cur.status = .waiting .exit ∨ t.cur.status = .stopping .trap
  queues : ∀ p, (t.part p).resume = (u.part p).resume ∧ (t.part p).queues = (u.part p).queues

theorem State.fetchImage_contexts (s : State) (core : BitVec 8) : (s.fetchImage core).contexts = s.contexts := by
  have hflush (s : State) : (s.flushCore core.toNat).contexts = s.contexts := by
    unfold State.flushCore
    rfl
  unfold State.fetchImage
  dsimp only
  split
  · exact s.activate_contexts _
  · rw [hflush]
    exact s.activate_contexts _

theorem part_noteKill (s : State) (q id m : Nat) (c : BitVec 32) (p : Nat) :
    ((s.setPart q ((s.part q).noteKill id m c)).part p).resume = (s.part p).resume ∧
      ((s.setPart q ((s.part q).noteKill id m c)).part p).queues = (s.part p).queues := by
  rw [State.part_setPart]
  split
  · next h => rw [h]; exact ⟨rfl, rfl⟩
  · exact ⟨rfl, rfl⟩

/-- A kill of the running context changes its status and its task's record, and no queue. -/
theorem killCur_resumed {u s : State} {core : BitVec 8} (t : Trap)
    (h : s.anchor = (u.rest, u.parts, u.cur.part, u.cur.ctxid, core)) : Resumed u (s.killCur t) core := by
  have hland := (s.landSome_anchor fun _ => true).trans h
  have hparts : (s.landSome fun _ => true).parts = u.parts := (congrArg (·.2.1) hland :)
  unfold State.killCur
  refine ⟨(congrArg (·.1) hland :), (congrArg (·.2.2.1) hland :), (congrArg (·.2.2.2.1) hland :),
    (congrArg (·.2.2.2.2) hland :), .inr (.inr (.inl rfl)), fun p => ?_⟩
  have hpart : (s.landSome fun _ => true).part p = u.part p := congrArg (fun l => tget Partition.reset l p) hparts
  rw [← hpart]
  exact part_noteKill (s.landSome fun _ => true) _ _ _ _ p

theorem Xfer.ofRecord_halted {id : Nat} {b : Nat → Nat} {x : Xfer} (h : Xfer.ofRecord id b = some x) : x.Halted := by
  unfold Xfer.ofRecord at h
  dsimp only at h
  split at h
  · cases h
  · split at h
    · cases h
    · cases h
      exact ⟨rfl, rfl⟩

theorem imageXfers_halted (s : State) (h : Hart) : ∀ x ∈ (s.imageXfers h).filterMap id, x.Halted := by
  intro x hx
  obtain ⟨y, hy, rfl⟩ := List.mem_filterMap.mp hx
  obtain ⟨i, -, hi⟩ := List.mem_map.mp hy
  exact Xfer.ofRecord_halted hi

/-- A resumption after a trap keeps the context in its place; a skip starts no transfer. -/
theorem Hart.resumeTrap_place (h : Hart) :
    (h.resumeTrap.part = h.part ∧ h.resumeTrap.ctxid = h.ctxid ∧ h.resumeTrap.core = h.core ∧
      h.resumeTrap.status = h.status) ∧ (h.skip = true → ∀ x ∈ h.resumeTrap.xfers, x ∈ h.xfers) := by
  unfold Hart.resumeTrap
  dsimp only
  split
  · split
    · exact ⟨⟨rfl, rfl, rfl, rfl⟩, fun _ x hx => (List.mem_filter.mp hx).1⟩
    · next hs => exact ⟨⟨rfl, rfl, rfl, rfl⟩, fun hskip => absurd hskip hs⟩
  · exact ⟨⟨rfl, rfl, rfl, rfl⟩, fun _ _ hx => hx⟩

/-- A restored context starts, or ends as the `exit` that it skips. -/
theorem startRestored_resumed {u s : State} {core : BitVec 8} (r : Option (BitVec 5))
    (h : s.anchor = (u.rest, u.parts, u.cur.part, u.cur.ctxid, core)) (hrun : s.cur.status = .running)
    (hx : r.isSome = true → ∀ x ∈ s.cur.xfers, x.Halted) : Resumed u (s.startRestored r) core := by
  have hof {t : State} (ht : t.anchor = s.anchor) (hst : t.cur.status = .running ∨ t.cur.status = .waiting .phase ∨
      t.cur.status = .killed ∨ t.cur.status = .waiting .exit ∨ t.cur.status = .stopping .trap) : Resumed u t core := by
    have ha := ht.trans h
    have hparts : t.parts = u.parts := (congrArg (·.2.1) ha :)
    refine ⟨(congrArg (·.1) ha :), (congrArg (·.2.2.1) ha :), (congrArg (·.2.2.2.1) ha :), (congrArg (·.2.2.2.2) ha :),
      hst, fun p => ?_⟩
    have hpart : t.part p = u.part p := congrArg (fun l => tget Partition.reset l p) hparts
    rw [hpart]
    exact ⟨rfl, rfl⟩
  cases r with
  | some ra =>
    obtain ⟨hst, ha⟩ := exitRun_of_halted ra hrun (hx rfl)
    exact hof ha (.inr (.inr (.inr hst.symm)))
  | none =>
    unfold State.startRestored
    dsimp only
    split
    · exact hof rfl (.inl hrun)
    · exact hof rfl (.inr (.inl rfl))

theorem restoreCur_resumed (u : State) (core : BitVec 8) (slot : BitVec 5) (cluster : Option (BitVec 2)) (stamp : Nat) :
    Resumed u (u.restoreCur core slot cluster stamp) core := by
  have hfetch := u.fetchImage_contexts core
  have hcur := State.cur_of_contexts hfetch
  have hrest := State.rest_of_contexts hfetch
  have hparts := State.parts_of_contexts hfetch
  unfold State.restoreCur
  dsimp only
  generalize u.fetchImage core = s at *
  have hanchor {t : State} {h : Hart} (hr : t.rest = s.rest) (hp : t.parts = s.parts) (h1 : h.part = s.cur.part)
      (h2 : h.ctxid = s.cur.ctxid) (h3 : h.core = core) :
      (t.setCur h).anchor = (u.rest, u.parts, u.cur.part, u.cur.ctxid, core) := by
    have ha : (t.setCur h).anchor = (t.rest, t.parts, h.part, h.ctxid, h.core) := rfl
    rw [ha, hr, hp, h1, h2, h3, hcur, hrest, hparts]
  split
  · exact killCur_resumed _ (hanchor rfl rfl rfl rfl rfl)
  · split
    · next htrap =>
      obtain ⟨⟨h1, h2, h3, h4⟩, hx⟩ := Hart.resumeTrap_place (Hart.restore
        { s.cur with core := core, slot := slot, cluster := cluster, stamp := stamp, status := .running }
        (s.imageNat s.cur) (s.slotRead s.cur.part s.cur.saveSlot) ((s.imageXfers s.cur).filterMap id))
      refine startRestored_resumed _ (hanchor rfl rfl h1 h2 h3) h4 fun hr => ?_
      have hskip : s.cur.skip = true := by
        by_contra hno
        rw [if_neg (by simp [hno])] at hr
        exact Bool.noConfusion hr
      exact fun x hmem => imageXfers_halted s s.cur x (hx hskip x hmem)
    · next htrap =>
      refine startRestored_resumed _ (hanchor rfl rfl rfl rfl rfl) rfl fun hr => ?_
      rw [if_neg (by simp [htrap])] at hr
      exact Bool.noConfusion hr

end Sys2Proof.Machine
end

section
/-! SUPPORT. A resumption by the dispatcher (R305, R329). -/

namespace Sys2Proof.Machine

open Sys2Proof.Claims

/-! ## A drawn number leaves what the save engine reads (R326, R370) -/

theorem State.coreBytes_draw (s : State) (core pa n : Nat) : s.draw.2.coreBytes core pa n = s.coreBytes core pa n := by
  induction n generalizing pa with
  | zero => rfl
  | succ n ih => exact congrArg (s.coreByte core pa :: ·) (ih (pa + 1))

theorem State.initDw_draw (s : State) (core part idx : Nat) : s.draw.2.initDw core part idx = s.initDw core part idx := by
  funext j
  simp only [State.initDw, State.coreDw, State.coreBytes_draw]
  rfl

theorem State.entryLoc_draw (s : State) (part idx : Nat) (e : BufEntry) (off : Nat) :
    s.draw.2.entryLoc part idx e off = s.entryLoc part idx e off := by
  unfold State.entryLoc
  rfl

theorem State.viewDw_draw (s : State) (part idx o : Nat) : s.draw.2.viewDw part idx o = s.viewDw part idx o := by
  unfold State.viewDw
  rfl

theorem State.portLoc0_draw (s : State) (core part addr : Nat) : s.draw.2.portLoc0 core part addr = s.portLoc0 core part addr := by
  simp only [State.portLoc0, State.initDw_draw, State.entryLoc_draw]
  rfl

theorem State.chanSet_draw (s : State) (core part k : Nat) : s.draw.2.chanSet core part k = s.chanSet core part k := by
  simp only [State.chanSet, State.portLoc0_draw, State.viewDw_draw, State.coreDw, State.coreBytes_draw]
  rfl

theorem State.portLoc_draw (s : State) (core part addr : Nat) : s.draw.2.portLoc core part addr = s.portLoc core part addr := by
  simp only [State.portLoc, State.entryOf, State.initDw_draw, State.entryLoc_draw, State.chanSet_draw]
  rfl

theorem State.imageNat_draw (s : State) (h : Hart) (o n : Nat)  : s.draw.2.imageNat h o n = s.imageNat h o n := by
  simp only [State.imageNat, State.slotRead, State.portLoc_draw, State.coreBytes_draw]
  rfl

theorem State.resumeOn_draw (s : State) (part prio n : Nat) : s.draw.2.resumeOn part prio n = s.resumeOn part prio n := by
  simp only [State.resumeOn, State.savedNeeds, State.imageNat_draw]
  rfl
/-! ## A step of a named context -/

/-- The first entry that a predicate finds, replaced by another that it holds of. -/
theorem find?_set_takeWhile {α : Type} {p : α → Bool} {l : List α} {x : α} (hx : l.find? p = some x) {y : α}
    (hy : p y = true) : (l.set (l.takeWhile fun z => !p z).length y).find? p = some y := by
  induction l with
  | nil => cases hx
  | cons z zs ih =>
    by_cases hz : p z = true
    · simp [hz, hy]
    · rw [List.find?_cons_of_neg hz] at hx
      simp [hz, ih hx]

theorem getD_set_takeWhile {α : Type} {p : α → Bool} {l : List α} {x : α} (hx : l.find? p = some x) (y d : α) :
    (l.set (l.takeWhile fun z => !p z).length y).getD (l.takeWhile fun z => !p z).length d = y := by
  induction l with
  | nil => cases hx
  | cons z zs ih =>
    by_cases hz : p z = true
    · simp [hz]
    · rw [List.find?_cons_of_neg hz] at hx
      simpa [hz] using ih hx

/-- A step of a named context that leaves the others is what the context shows after it. -/
theorem hart?_onHart {s : State} {k : CtxKey} {h : Hart} (hh : s.hart? k = some h) {f : State → State}
    (hf : ∀ u : State, { u with cur := s.cur, rest := s.rest } = s → u.cur = h →
      (f u).rest = u.rest ∧ (f u).cur.isKey k = true) :
    ∃ u : State, { u with cur := s.cur, rest := s.rest } = s ∧ u.cur = h ∧
      (s.onHart k f).hart? k = some (f u).cur ∧ (s.onHart k f).parts = (f u).parts := by
  by_cases hk : s.cur.isKey k = true
  · obtain rfl : s.cur = h := by simpa [State.hart?, State.harts, hk] using hh
    refine ⟨s, rfl, rfl, ?_, ?_⟩
    · rw [State.onHart_cur hk]
      exact List.find?_cons_of_pos (p := (Hart.isKey · k)) (hf s rfl rfl).2
    · rw [State.onHart_cur hk]
  · have hk' : s.cur.isKey k = false := by simpa using hk
    have hfind : s.rest.find? (·.isKey k) = some h := State.hart?_of_not_cur hk' ▸ hh
    let i := (s.rest.takeWhile fun x => !x.isKey k).length
    let u : State := { s with cur := h, rest := s.rest.set i s.cur }
    obtain ⟨hrest, hkey⟩ := hf u rfl rfl
    have hon : s.onHart k f = { f u with cur := s.cur, rest := s.rest.set i (f u).cur } := by
      unfold State.onHart
      rw [if_neg hk, hfind]
      change ({ f u with cur := (f u).rest.getD i s.cur, rest := (f u).rest.set i (f u).cur } : State) = _
      rw [hrest, getD_set_takeWhile (p := (Hart.isKey · k)) hfind, List.set_set]
    refine ⟨u, rfl, rfl, ?_, by rw [hon]⟩
    rw [hon, State.hart?_of_not_cur (k := k) (by exact hk')]
    exact find?_set_takeWhile (p := (Hart.isKey · k)) hfind hkey

/-! ## The resumption (R305) -/

/-- A saved context that fits now, on its new core. -/
theorem resumeOn_some {s : State} {part prio n : Nat} {h : Hart} (hh : s.resumeOn part prio n = some h) :
    ∃ c cs x, (s.part part).resume.getD prio [] = c :: cs ∧ s.hart? ⟨part, c⟩ = some x ∧ h.key = x.key ∧
      h.core.toNat / 8 ∈ s.eligible part := by
  obtain ⟨x, hx, hassign⟩ := Option.bind_eq_some_iff.mp hh
  obtain ⟨c, hc, hhart⟩ := Option.bind_eq_some_iff.mp hx
  obtain ⟨cs, hcs⟩ := List.head?_eq_some_iff.mp hc
  obtain ⟨helig, -, hsame⟩ := Hart.assign_some hassign fun c hc => (mem_eligible.mp hc).1
  exact ⟨c, cs, x, hcs, hhart, (congrArg Hart.key hsame :), helig⟩

theorem resumeOn_isSome (s : State) (part prio m n : Nat) :
    (s.resumeOn part prio m).isSome = (s.resumeOn part prio n).isSome := by
  unfold State.resumeOn
  cases s.resumeHead part prio with
  | none => rfl
  | some h => exact Hart.assign_isSome _ _ _ m n

theorem Resumed.not_vacant {u t : State} {core : BitVec 8} (h : Resumed u t core) : t.cur.status ≠ .vacant := by
  rcases h.status with h | h | h | h | h <;> rw [h] <;> exact nofun

/-- A dispatch decision that resumes the head of a resume list. -/
theorem dispatch_resumes {part prio : Nat} {s : State} (hlt : part < 32) (hen : (s.part part).en = true)
    (hfit : ∀ q < 16, ¬NeverFits (s.part part) q) (hc : s.choose part = some (.resume prio)) :
    let p := s.part part
    ∃ t c cs x, exec (.dispatchDecision part) s = .next t ∧ p.resume.getD prio [] = c :: cs ∧
      (∀ j < 4, (t.part part).resume.getD j [] = if j = prio then cs else p.resume.getD j []) ∧
      (t.part part).queues = p.queues ∧ t.hart? ⟨part, c⟩ = some x ∧
      (x.status = .running ∨ x.status = .waiting .phase ∨ x.status = .killed ∨
        x.status = .waiting .exit ∨ x.status = .stopping .trap) ∧
      p.colmap.getLsbD (x.core.toNat / 8) = true ∧ p.draining.getLsbD (x.core.toNat / 8) = false ∧
      inColumn s part (x.core.toNat / 8) ≤ p.dthr := by
  intro p
  obtain ⟨-, hprio, hres, -⟩ : _ ∧ prio < 4 ∧ (s.resumeOn part prio 0).isSome = true ∧ _ := by
    have h := chooses_choose s part
    rwa [hc] at h
  have hsome : (s.resumeOn part prio s.draw.1).isSome = true := by
    rw [resumeOn_isSome s part prio _ 0]
    exact hres
  obtain ⟨h, hh⟩ := Option.isSome_iff_exists.mp hsome
  obtain ⟨c, cs, x, hcs, hx, hkey, helig⟩ := resumeOn_some hh
  have hxkey := (Hart.isKey_iff x ⟨part, c⟩).mp (List.find?_some (p := (Hart.isKey · ⟨part, c⟩)) hx)
  obtain ⟨hcol, hmap, hdrain, hocc⟩ := mem_eligible.mp helig
  rw [colOccupancy_placedIn] at hocc
  let p1 : Partition := { p.age none with resume := p.resume.setIfInBounds prio cs }
  let s2 := s.draw.2.setPart part p1
  let f : State → State := fun s3 => s3.restoreCur h.core h.slot h.cluster s3.clock
  have hrun : s.runDecision part = { s2.onHart ⟨part, c⟩ f with clock := s.clock + 1 } := by
    have hh' : s.draw.2.resumeOn part prio s.draw.1 = some h := (s.resumeOn_draw part prio _).trans hh
    have hp1 : s2 = s.draw.2.setPart part
        { p.age none with resume := p.resume.setIfInBounds prio (p.resume.getD prio []).tail } := by
      rw [hcs]
      rfl
    rw [← hxkey.2, ← hkey, hp1]
    unfold State.runDecision
    rw [hc]
    dsimp only
    rw [hh']
    rfl
  have hf (u : State) : { u with cur := s2.cur, rest := s2.rest } = s2 → u.cur = x →
      (f u).rest = u.rest ∧ (f u).cur.isKey ⟨part, c⟩ = true := by
    intro _ hux
    have hr := restoreCur_resumed u h.core h.slot h.cluster u.clock
    have hkeyu : (f u).cur.key = u.cur.key := congrArg₂ CtxKey.mk hr.part hr.ctxid
    exact ⟨hr.rest, (Hart.isKey_iff _ _).mpr ⟨hr.not_vacant, hkeyu.trans (hux ▸ hxkey.2)⟩⟩
  obtain ⟨u, hu, -, hhart, hparts⟩ := hart?_onHart (s := s2) (k := ⟨part, c⟩) hx hf
  have hr := restoreCur_resumed u h.core h.slot h.cluster u.clock
  let t : State := { s2.onHart ⟨part, c⟩ f with clock := s.clock + 1 }
  have hpart : t.part part = (f u).part part := congrArg (fun l => tget Partition.reset l part) hparts
  have hup : u.part part = p1 :=
    (congrArg (fun t : State => t.part part) hu :).trans (State.part_setPart_self s.draw.2 part p1)
  refine ⟨t, c, cs, (f u).cur, (dispatch_runs hlt hen hfit).trans (congrArg _ hrun), hcs, fun j hj => ?_, ?_, hhart,
    hr.status, ?_, ?_, ?_⟩
  · rw [hpart, (hr.queues part).1, hup]
    exact getD_setIfInBounds _ _ _ hprio j
  · rw [hpart, (hr.queues part).2, hup]
    rfl
  · rw [hr.core]
    exact hmap
  · rw [hr.core]
    exact hdrain
  · rw [hr.core]
    exact hocc

end Sys2Proof.Machine
end

section
/-! SUPPORT. Pre-emption (R304). -/

namespace Sys2Proof.Machine

open Sys2Proof.Claims

/-! ## The priority that waits -/

/-- A head waits at a priority, as the dispatcher sees it. -/
def Partition.waits (p : Partition) (prio : Nat) : Bool :=
  !(p.resume.getD prio []).isEmpty ||
    (!p.recordsWait && (List.range 16).any fun q => p.queuePrio q == prio && (p.headTask q).isSome)

theorem waits_iff {p : Partition} {prio : Nat} (h : prio < 4) : p.waits prio = true ↔ HeadWaits p prio := by
  have hw : (!p.recordsWait) = true ↔ ¬RecordsWait p := by rw [Bool.not_eq_true', ← recordsWait_iff, Bool.not_eq_true]
  have hhead (q : Nat) : (p.headTask q).isSome = true ↔ p.queues.getD q [] ≠ [] := by
    rw [Partition.headTask]
    cases p.queues.getD q [] <;> simp
  rw [Partition.waits, Bool.or_eq_true, Bool.and_eq_true, hw]
  simp [HeadWaits, h, queuePrio_eq, hhead]

theorem waitingPrio_eq (s : State) (part : Nat) :
    s.waitingPrio part = [3, 2, 1, 0].findSome? fun prio => if (s.part part).waits prio then some prio else none :=
  List.find?_eq_findSome?_guard ..

theorem waitingPrio_some {s : State} {part prio : Nat} (h : s.waitingPrio part = some prio) :
    HeadWaits (s.part part) prio ∧ ∀ q, prio < q → ¬HeadWaits (s.part part) q := by
  rw [waitingPrio_eq] at h
  obtain ⟨k, hk, hsome, habove⟩ := findSome?_prios h
  have hwaits : (s.part part).waits k = true ∧ k = prio := by simpa using hsome
  obtain ⟨hwaits, rfl⟩ := hwaits
  refine ⟨(waits_iff hk).mp hwaits, fun q hq hq' => ?_⟩
  simpa [(waits_iff hq'.1).mpr hq'] using habove q hq hq'.1

theorem waitingPrio_none {s : State} {part : Nat} (h : s.waitingPrio part = none) (q : Nat) :
    ¬HeadWaits (s.part part) q := by
  intro hq
  rw [waitingPrio_eq] at h
  simpa [(waits_iff hq.1).mpr hq] using findSome?_prios_none h hq.1

/-! ## The harts that may be stopped -/

theorem stoppable_iff (h : Hart) : h.stoppable = true ↔
    h.request = none ∧ (h.status = .running ∨ ∃ w, h.status = .waiting w ∧ w ≠ .exit) := by
  rw [Hart.stoppable, Bool.and_eq_true, Option.isNone_iff_eq_none]
  refine and_congr_right fun _ => ?_
  cases hs : h.status with
  | waiting w => cases w <;> simp
  | _ => simp

theorem not_shielded_iff (p : Partition) (h : Hart) : p.shielded h = false ↔ HasTriggered (p.task h.task.toNat) ∨
    ∀ x ∈ p.tasks, x.2.placed = true → x.2.ended = false → h.task ∉ x.2.producers := by
  have htrig (t : Task) : t.triggered = true ↔ HasTriggered t := by
    simp [Task.triggered, HasTriggered, and_assoc]
  rw [Partition.shielded, Bool.and_eq_false_iff, Bool.not_eq_false', htrig, List.any_eq_false]
  refine or_congr_right (forall₂_congr fun x _ => ?_)
  simp

/-- The harts that a pre-emption may stop for a head of a priority. -/
def State.stoppables (s : State) (part prio : Nat) : List Hart :=
  (s.placedIn part).filter fun h => decide (h.prio < prio) && h.stoppable && !(s.part part).shielded h

theorem mem_stoppables {s : State} {part prio : Nat} {h : Hart} : h ∈ s.stoppables part prio ↔ MayStop s part prio h := by
  rw [State.stoppables, List.mem_filter, State.placedIn, List.mem_filter]
  simp only [Bool.and_eq_true, decide_eq_true_eq, beq_iff_eq, Bool.not_eq_true', stoppable_iff, not_shielded_iff, MayStop]
  tauto

/-! ## The victim -/

/-- What the choice of a victim compares, in order (R304). -/
def Hart.victimKey (h : Hart) : List Nat := [3 - h.prio, h.stamp, h.member, h.core.toNat, h.slot.toNat]

theorem bestVictim_eq_none {l : List Hart} : bestVictim l = none ↔ l = [] := by
  cases l with
  | nil => exact iff_of_true rfl rfl
  | cons x xs =>
    rw [bestVictim]
    cases bestVictim xs <;> simp

theorem bestVictim_some {l : List Hart} {x : Hart} (h : bestVictim l = some x) :
    x ∈ l ∧ ∀ y ∈ l, y.victimKey ≤ x.victimKey := by
  induction l generalizing x with
  | nil => cases h
  | cons z zs ih =>
    rw [bestVictim] at h
    cases hbest : bestVictim zs with
    | none =>
      rw [hbest] at h
      obtain rfl : z = x := by simpa using h
      simp [bestVictim_eq_none.mp hbest]
    | some k =>
      rw [hbest] at h
      obtain ⟨hk, hle⟩ := ih hbest
      have hbefore : k.beforeVictim z = true ↔ z.victimKey < k.victimKey := decide_eq_true_iff
      by_cases hz : k.beforeVictim z = true
      · obtain rfl : k = x := by simpa [hz] using h
        exact ⟨List.mem_cons_of_mem _ hk, List.forall_mem_cons.mpr ⟨(hbefore.mp hz).le, hle⟩⟩
      · obtain rfl : z = x := by simpa [hz] using h
        have hkz : k.victimKey ≤ z.victimKey := not_lt.mp (mt hbefore.mpr hz)
        exact ⟨List.mem_cons_self, List.forall_mem_cons.mpr ⟨le_rfl, fun y hy => (hle y hy).trans hkz⟩⟩

/-- A later key: of lower priority, or of the same and placed later. -/
theorem order_of_victimKey {x y : Hart} (h : y.victimKey ≤ x.victimKey) (hx : x.prio < 4) (hy : y.prio < 4) :
    x.prio < y.prio ∨ x.prio = y.prio ∧ y.stamp ≤ x.stamp := by
  by_contra hno
  have hlt : x.victimKey < y.victimKey := by
    rw [Hart.victimKey, Hart.victimKey, List.cons_lt_cons_iff, List.cons_lt_cons_iff]
    omega
  exact absurd h (not_le.mpr hlt)

end Sys2Proof.Machine
end

section
/-! SUPPORT. The victim of a pre-emption (R304). -/

namespace Sys2Proof.Machine

open Sys2Proof.Claims

theorem mem_owned {p : Partition} {c : Nat} : c ∈ p.owned ↔ c < 32 ∧ p.colmap.getLsbD c = true := by
  simp [Partition.owned]

theorem Hart.column_lt (h : Hart) : h.core.toNat / 8 < 32 := by
  have := h.core.isLt
  omega

/-- The columns of a partition that hold a hart that may be stopped. -/
def State.victimColumns (s : State) (part prio : Nat) : List Nat :=
  (s.part part).owned.filter fun c => (s.stoppables part prio).any fun h => h.core.toNat / 8 == c

theorem victimColumns_sorted (s : State) (part prio : Nat) : (s.victimColumns part prio).Pairwise (· < ·) :=
  (List.pairwise_lt_range.filter _).filter _

theorem mem_victimColumns {s : State} {part prio c : Nat} : c ∈ s.victimColumns part prio ↔
    (s.part part).colmap.getLsbD c = true ∧ ∃ h, MayStop s part prio h ∧ h.core.toNat / 8 = c := by
  rw [State.victimColumns, List.mem_filter, mem_owned, List.any_eq_true]
  simp only [beq_iff_eq, mem_stoppables]
  refine ⟨fun ⟨⟨_, hm⟩, h⟩ => ⟨hm, h⟩, fun ⟨hm, h, hs, hc⟩ => ⟨⟨?_, hm⟩, h, hs, hc⟩⟩
  exact hc ▸ h.column_lt

/-- Every column of a partition is above threshold. -/
def Crowded (s : State) (part : Nat) : Prop :=
  ∀ c < 32, (s.part part).colmap.getLsbD c = true → (s.part part).dthr < inColumn s part c

theorem crowded_iff (s : State) (part : Nat) :
    ((s.part part).owned.any fun c => decide (colOccupancy (s.placedIn part) c ≤ (s.part part).dthr)) = false ↔
      Crowded s part := by
  rw [List.any_eq_false]
  simp only [mem_owned, decide_eq_true_eq, colOccupancy_placedIn, not_le, and_imp, Crowded]

/-- The hart that R304 picks on a column. -/
def State.victimOn (s : State) (part prio c : Nat) : Option Hart :=
  bestVictim ((s.stoppables part prio).filter fun h => h.core.toNat / 8 == c)

theorem victim_eq (s : State) (part : Nat) : s.victim part =
    match s.waitingPrio part with
    | none => none
    | some prio =>
      if (s.part part).owned.isEmpty ||
          (s.part part).owned.any fun c => decide (colOccupancy (s.placedIn part) c ≤ (s.part part).dthr) then none
      else (argMin (colOccupancy (s.placedIn part)) (s.victimColumns part prio)).bind (s.victimOn part prio) := by
  unfold State.victim
  rfl

theorem victim_isVictim {s : State} {part : Nat} {h : Hart} (hv : s.victim part = some h) : IsVictim s part h := by
  rw [victim_eq] at hv
  split at hv
  · cases hv
  · next prio hprio =>
    obtain ⟨hwaits, hhighest⟩ := waitingPrio_some hprio
    split at hv
    · cases hv
    · next hcrowd =>
      obtain ⟨-, hany⟩ := Bool.or_eq_false_iff.mp (Bool.not_eq_true _ ▸ hcrowd)
      obtain ⟨c, hmin, hbest⟩ := Option.bind_eq_some_iff.mp hv
      obtain ⟨hmem, hkey⟩ := bestVictim_some hbest
      obtain ⟨hstop, hc⟩ := List.mem_filter.mp hmem
      obtain rfl : h.core.toNat / 8 = c := by simpa using hc
      have hmay := mem_stoppables.mp hstop
      obtain ⟨hmap, -⟩ := mem_victimColumns.mp (argMin_mem hmin)
      have hlt : prio < 4 := hwaits.1
      refine ⟨prio, hwaits, hhighest, hmay, (crowded_iff s part).mp hany, hmap, fun k hk hkmap => ⟨?_, fun hcol => ?_⟩⟩
      · have hle := argMin_le (victimColumns_sorted s part prio) hmin (k.core.toNat / 8)
          (mem_victimColumns.mpr ⟨hkmap, k, hk, rfl⟩)
        rwa [colOccupancy_placedIn, colOccupancy_placedIn] at hle
      · obtain ⟨-, -, -, hp, -⟩ := hmay
        obtain ⟨-, -, -, hpk, -⟩ := id hk
        have hin : k ∈ (s.stoppables part prio).filter fun x => x.core.toNat / 8 == h.core.toNat / 8 :=
          List.mem_filter.mpr ⟨mem_stoppables.mpr hk, by simpa using hcol⟩
        exact order_of_victimKey (hkey k hin) (by omega) (by omega)

theorem victim_of_isVictim {s : State} {part : Nat} {h : Hart} (hv : IsVictim s part h) : ∃ k, s.victim part = some k := by
  obtain ⟨prio, hwaits, hhighest, hmay, hcrowd, hmap, -⟩ := hv
  have hcol : h.core.toNat / 8 ∈ s.victimColumns part prio := mem_victimColumns.mpr ⟨hmap, h, hmay, rfl⟩
  have hprio : s.waitingPrio part = some prio := by
    cases hw : s.waitingPrio part with
    | none => exact absurd hwaits (waitingPrio_none hw prio)
    | some k =>
      obtain ⟨hk, hkhigh⟩ := waitingPrio_some hw
      have h1 : ¬k < prio := fun hlt => hkhigh prio hlt hwaits
      have h2 : ¬prio < k := fun hlt => hhighest k hlt hk
      rw [show k = prio by omega]
  have howned : (s.part part).owned.isEmpty = false :=
    List.isEmpty_eq_false_iff_exists_mem.mpr ⟨_, mem_owned.mpr ⟨h.column_lt, hmap⟩⟩
  rw [victim_eq, hprio]
  dsimp only
  rw [howned, (crowded_iff s part).mpr hcrowd]
  cases hmin : argMin (colOccupancy (s.placedIn part)) (s.victimColumns part prio) with
  | none => exact absurd hcol (argMin_eq_none.mp hmin ▸ List.not_mem_nil)
  | some c =>
    obtain ⟨-, k, hk, hkc⟩ := mem_victimColumns.mp (argMin_mem hmin)
    cases hbest : s.victimOn part prio c with
    | some x => exact ⟨x, hbest⟩
    | none =>
      have hin : k ∈ (s.stoppables part prio).filter fun x => x.core.toNat / 8 == c :=
        List.mem_filter.mpr ⟨mem_stoppables.mpr hk, by simpa using hkc⟩
      rw [bestVictim_eq_none.mp hbest] at hin
      cases hin

theorem stopping_iff (s : State) (part : Nat) : (s.placedIn part).any Hart.beingPreempted = true ↔ Stopping s part := by
  rw [List.any_eq_true]
  simp only [State.placedIn, List.mem_filter, Bool.and_eq_true, beq_iff_eq, Hart.beingPreempted, Stopping]
  exact exists_congr fun h => ⟨fun ⟨⟨h1, h2, h3⟩, _, h4⟩ => ⟨h1, h2, h3, h4⟩, fun ⟨h1, h2, h3, h4⟩ => ⟨⟨h1, h2, h3⟩, h2, h4⟩⟩

/-- A pre-emption stops the victim that the rule names, or nothing. -/
theorem preempt_stops {part : Nat} {s : State} (hpart : part < 32) :
    let act : Prop := (s.part part).en = true ∧ ¬Stopping s part ∧ ∃ h, IsVictim s part h
    (act → ∃ h, IsVictim s part h ∧
      exec (.preempt part) s = .next (s.updHart h.key fun x => { x.stopFor .preempt with victim := true })) ∧
    (¬act → exec (.preempt part) s = .next s) := by
  have hexec : exec (.preempt part) s = execPreempt part s := rfl
  rw [hexec, execPreempt, atUnit_isPart hpart]
  constructor
  · rintro ⟨hen, hstop, h, hv⟩
    obtain ⟨k, hk⟩ := victim_of_isVictim hv
    have hno : (s.placedIn part).any Hart.beingPreempted = false :=
      Bool.not_eq_true _ ▸ mt (stopping_iff s part).mp hstop
    refine ⟨k, victim_isVictim hk, ?_⟩
    rw [hen, hno, hk]
    rfl
  · intro hact
    split
    · rfl
    · next hcond =>
      obtain ⟨hen, hstop⟩ := Bool.or_eq_false_iff.mp (Bool.not_eq_true _ ▸ hcond)
      split
      · rfl
      · next h hv =>
        refine absurd ⟨by simpa using hen, fun hs => ?_, h, victim_isVictim hv⟩ hact
        rw [(stopping_iff s part).mpr hs] at hstop
        exact Bool.noConfusion hstop

end Sys2Proof.Machine
end

section
/-! SUPPORT. Completion records (R309, R310), launches by the host (R343) and contexts killed by it (R320). -/

namespace Sys2Proof.Machine

open Sys2Proof.Claims

/-! ## Host memory -/

theorem hostNumber_of_host {s t : State} (h : t.host = s.host) (a n : Nat) : hostNumber t a n = hostNumber s a n := by
  rw [hostNumber, hostNumber, h]

/-- A number in host memory beside the bytes written. -/
theorem hostNumber_hostWrite_beside (s : State) {a b n : Nat} (bs : List Byte) (h : b + n ≤ a ∨ a + bs.length ≤ b) :
    hostNumber (s.hostWrite a bs) b n = hostNumber s b n := by
  unfold hostNumber
  congr 1
  refine List.map_congr_left fun j hj => ?_
  rw [State.hostWrite_host, Memory.get_write, if_neg (by have := List.mem_range.mp hj; omega)]

theorem hostNumber_hostWrite_self (s : State) (a k n : Nat) :
    hostNumber (s.hostWrite a (leBytes k n)) a k = n % 256 ^ k := by
  have hw := hostNumber_hostWrite s a 0 k (leBytes k n) (by rw [leBytes_length]; omega)
  rw [Nat.add_zero, List.drop_zero, leBytes_take _ _ _ le_rfl, numberOf_leBytes] at hw
  exact hw

/-! ## Completion records (R309, R310) -/

theorem cqFull_iff (p : Partition) : p.cqFull = true ↔ RingFull p.cqlog p.cqhead p.cqtail := beq_iff_eq

theorem bit_lapTag (i : BitVec 32) (log : Nat) : bit (lapTag i log) = phaseTag log i := by
  simp [bit, lapTag, phaseTag]

theorem phaseTag_le (log : Nat) (i : BitVec 32) : phaseTag log i ≤ 1 := by
  unfold phaseTag
  split <;> omega

/-- The completion record of a task at `a` of host memory: doubleword 1 last. -/
def State.writeRecord (s : State) (a id : Nat) (exits : List Byte) (status : Nat) : State :=
  ((s.hostWrite a (leBytes 8 id)).hostWrite (a + 16) exits).hostWrite (a + 8) (leBytes 8 status)

theorem State.writeRecord_frame (s : State) (a id : Nat) (exits : List Byte) (status : Nat) :
    { s.writeRecord a id exits status with host := s.host } = s := rfl

/-- The exit value of a task and its exitor, as a record holds them. -/
def Task.exits (t : Task) : List Byte :=
  leBytes 8 (if decide (t.refused ≠ 0) then 0 else t.exit0.toNat) ++
    leBytes 8 (if decide (t.refused ≠ 0) then 0 else t.exitor.toNat)

theorem writeCompletion_eq {s : State} {part : Nat} {id : Word} {ids : List Word} (hd : (s.part part).done = id :: ids)
    (hfull : (s.part part).cqFull = false) :
    let p := s.part part
    let t := p.task id.toNat
    s.writeCompletion part =
      { (s.writeRecord (ringPlace p.cqbase 32 p.cqlog p.cqtail) id.toNat t.exits
          (t.status (lapTag p.cqtail p.cqlog))).setPart part { p with done := ids, cqtail := p.cqtail + 1 } with
        signals := s.signals ++ [.vf part 1] } := by
  intro p t
  unfold State.writeCompletion
  dsimp only
  rw [hd]
  dsimp only
  rw [hfull, if_neg Bool.false_ne_true, ringPlace, State.writeRecord, Task.exits]
  simp only [State.part_hostWrite, State.setPart_signals, State.hostWrite_signals]
  rfl

theorem Task.exits_length (t : Task) : t.exits.length = 16 := by
  rw [Task.exits, List.length_append, leBytes_length, leBytes_length]

/-- The doublewords of a record, and the bytes beside it. -/
theorem writeRecord_words (s : State) (a : Nat) (id : Word) (t : Task) (status : Nat) :
    let u := s.writeRecord a id.toNat t.exits status
    hostNumber u a 8 = id.toNat ∧ hostNumber u (a + 8) 8 = status % 2 ^ 64 ∧
      hostNumber u (a + 16) 8 = (if t.refused = 0 then t.exit0.toNat else 0) ∧
      hostNumber u (a + 24) 8 = (if t.refused = 0 then t.exitor.toNat else 0) ∧
      ∀ x, (x < a ∨ a + 32 ≤ x) → Memory.get u.host x = Memory.get s.host x := by
  have hlen := t.exits_length
  have hword (w : Word) : (if decide (t.refused ≠ 0) then 0 else w.toNat) = if t.refused = 0 then w.toNat else 0 := by
    by_cases h : t.refused = 0 <;> simp [h]
  have hmod (w : Word) : (if t.refused = 0 then w.toNat else 0) % 256 ^ 8 = if t.refused = 0 then w.toNat else 0 := by
    have := w.isLt
    exact Nat.mod_eq_of_lt (by split <;> omega)
  intro u
  refine ⟨?_, ?_, ?_, ?_, fun x hx => ?_⟩
  · rw [show u = State.hostWrite _ _ _ from rfl, hostNumber_hostWrite_beside _ _ (.inl (by omega)),
      hostNumber_hostWrite_beside _ _ (.inl (by omega)), hostNumber_hostWrite_self]
    exact Nat.mod_eq_of_lt id.isLt
  · exact hostNumber_hostWrite_self _ _ _ _
  · rw [show u = State.hostWrite _ _ _ from rfl,
      hostNumber_hostWrite_beside _ _ (.inr (by rw [leBytes_length])),
      ← Nat.add_zero (a + 16), hostNumber_hostWrite _ _ 0 8 _ (by omega), List.drop_zero, Task.exits,
      List.take_left' (leBytes_length _ _), numberOf_leBytes, hword, hmod]
  · rw [show u = State.hostWrite _ _ _ from rfl,
      hostNumber_hostWrite_beside _ _ (.inr (by rw [leBytes_length]; omega)),
      show a + 24 = a + 16 + 8 from rfl, hostNumber_hostWrite _ _ 8 8 _ (by omega), Task.exits,
      List.drop_left' (leBytes_length _ _), leBytes_take _ _ _ le_rfl, numberOf_leBytes, hword, hmod]
  · rw [show u = State.hostWrite _ _ _ from rfl]
    simp only [State.hostWrite_host, Memory.get_write, leBytes_length, hlen]
    rw [if_neg (by omega), if_neg (by omega), if_neg (by omega)]

theorem status_of_accepted {t : Task} (h : t.refused = 0) (b : Bool) : t.status b % 2 ^ 64 =
    (if t.killed = [] then 0 else 2 ^ 54) + bit b * 2 ^ 53 + t.killed.length % 2 ^ 14 * 2 ^ 16 + t.killed.headD 0 % 2 ^ 13 := by
  have hb : bit b ≤ 1 := by cases b <;> simp [bit]
  have hk : bit (!t.killed.isEmpty) * 2 ^ 54 = if t.killed = [] then 0 else 2 ^ 54 := by
    cases t.killed <;> simp [bit]
  rw [Task.status, if_neg (not_not_intro h), hk]
  refine Nat.mod_eq_of_lt ?_
  split <;> omega

theorem status_of_refused {t : Task} (h : t.refused ≠ 0) (hlt : t.refused < 2 ^ 8) (b : Bool) :
    t.status b % 2 ^ 64 = t.refused * 2 ^ 56 + 2 ^ 55 + bit b * 2 ^ 53 := by
  have hb : bit b ≤ 1 := by cases b <;> simp [bit]
  rw [Task.status, if_pos h]
  omega

theorem completion_waits {part : Nat} {s : State} (hpart : part < 32)
    (h : s.dump.fatal ≠ none ∨ (s.part part).done = [] ∨
      RingFull (s.part part).cqlog (s.part part).cqhead (s.part part).cqtail) :
    exec (.completionRecordWrite part) s = .next s := by
  have hexec : exec (.completionRecordWrite part) s = execCompletionRecordWrite part s := rfl
  rw [hexec, execCompletionRecordWrite, atUnit_isPart hpart]
  split
  · rfl
  · next hf =>
    have hnone : s.dump.fatal = none := by simpa using hf
    unfold State.writeCompletion
    dsimp only
    split
    · rfl
    · next id ids hd =>
      rcases h with h | h | h
      · exact absurd hnone h
      · rw [hd] at h
        cases h
      · rw [if_pos ((cqFull_iff _).mpr h)]

theorem completion_writes {part : Nat} {s : State} {id : Word} {ids : List Word} (hpart : part < 32)
    (hfatal : s.dump.fatal = none) (hd : (s.part part).done = id :: ids)
    (hfull : ¬RingFull (s.part part).cqlog (s.part part).cqhead (s.part part).cqtail) :
    let p := s.part part
    let task := p.task id.toNat
    let a := ringPlace p.cqbase 32 p.cqlog p.cqtail
    let tag := phaseTag p.cqlog p.cqtail * 2 ^ 53
    ∃ t, exec (.completionRecordWrite part) s = .next t ∧ OnlyReports part s t ∧ t.signals = s.signals ++ [.vf part 1] ∧
      t.part part = { p with done := ids, cqtail := p.cqtail + 1 } ∧
      (∀ x, (x < a ∨ a + 32 ≤ x) → Memory.get t.host x = Memory.get s.host x) ∧
      hostNumber t a 8 = id.toNat ∧
      (task.refused = 0 → hostNumber t (a + 16) 8 = task.exit0.toNat ∧ hostNumber t (a + 24) 8 = task.exitor.toNat ∧
        hostNumber t (a + 8) 8 = (if task.killed = [] then 0 else 2 ^ 54) + tag + task.killed.length % 2 ^ 14 * 2 ^ 16
          + task.killed.headD 0 % 2 ^ 13) ∧
      (task.refused ≠ 0 → task.refused < 2 ^ 8 → hostNumber t (a + 16) 8 = 0 ∧ hostNumber t (a + 24) 8 = 0 ∧
        hostNumber t (a + 8) 8 = task.refused * 2 ^ 56 + 2 ^ 55 + tag) := by
  intro p task a tag
  have hfull' : p.cqFull = false := Bool.not_eq_true _ ▸ mt (cqFull_iff p).mp hfull
  have hcomp := writeCompletion_eq hd hfull'
  have hframe := s.writeRecord_frame a id.toNat task.exits (task.status (lapTag p.cqtail p.cqlog))
  obtain ⟨h0, h8, h16, h24, hbeside⟩ := writeRecord_words s a id task (task.status (lapTag p.cqtail p.cqlog))
  dsimp only at hcomp
  generalize s.writeRecord a id.toNat task.exits (task.status (lapTag p.cqtail p.cqlog)) = u at *
  let p1 : Partition := { p with done := ids, cqtail := p.cqtail + 1 }
  let t : State := { u.setPart part p1 with signals := s.signals ++ [.vf part 1] }
  have hexec : exec (.completionRecordWrite part) s = .next t := by
    have hexec : exec (.completionRecordWrite part) s = execCompletionRecordWrite part s := rfl
    rw [hexec, execCompletionRecordWrite, atUnit_isPart hpart, hfatal]
    exact congrArg _ hcomp
  have hnum : ∀ a n, hostNumber t a n = hostNumber u a n := hostNumber_of_host rfl
  have htag : bit (lapTag p.cqtail p.cqlog) * 2 ^ 53 = tag := by rw [bit_lapTag]
  have honly : OnlyReports part s t := by
    refine ⟨(congrArg (fun x : State => { x with signals := s.signals, parts := s.parts }) hframe :), fun q hq => ?_⟩
    exact ((State.part_setPart u part q p1).trans (if_neg hq)).trans (congrArg (fun x : State => x.part q) hframe :)
  refine ⟨t, hexec, honly, rfl, State.part_setPart_self u part p1, hbeside, (hnum _ _).trans h0,
    fun hr => ?_, fun hr hlt => ?_⟩
  · rw [hnum, hnum, hnum, h16, h24, h8, if_pos hr, if_pos hr, status_of_accepted hr, htag]
    exact ⟨rfl, rfl, rfl⟩
  · rw [hnum, hnum, hnum, h16, h24, h8, if_neg hr, if_neg hr, status_of_refused hr hlt, htag]
    exact ⟨rfl, rfl, rfl⟩

end Sys2Proof.Machine
end

section
/-! SUPPORT. Launches by the host (R343) and contexts killed by it (R320). -/

namespace Sys2Proof.Machine

open Sys2Proof.Claims

/-! ## The host's doorbell (R343) -/

/-- The answer to a doorbell. -/
def launchAnswer (code id : Nat) : Nat := if code = 0 then id else 2 ^ 63 + code

/-- The partition after a doorbell: the record queued, or refused with its completion record. -/
def Partition.launched (p : Partition) (code : Nat) (r : TaskRec) : Partition :=
  if code = 0 then p.enqueue r
  else { p.setTask p.nextTask { r.task code with ended := true } with
    nextTask := p.nextTask + 1, done := p.done ++ [BitVec.ofNat 64 p.nextTask] }

theorem hostLaunch_eq (s : State) (part : Nat) (bs : List Byte) :
    let p := s.part part
    let r := TaskRec.ofBytes bs
    let code := s.launchCode part false true r
    let s1 := s.setPart part (p.launched code r)
    s.hostLaunch part bs =
      if r.last = 0 then s1 else s1.hostWrite r.last.toNat (leBytes 8 (launchAnswer code p.nextTask)) := by
  intro p r code s1
  unfold State.hostLaunch
  dsimp only
  by_cases h : code = 0
  · have hs1 : s1 = s.setPart part (p.enqueue r) := by rw [show s1 = s.setPart part (p.launched code r) from rfl,
      Partition.launched, if_pos h]
    rw [hs1, launchAnswer, if_pos h, if_pos h]
  · have hs1 : s1 = s.setPart part { p.setTask p.nextTask { r.task code with ended := true } with
        nextTask := p.nextTask + 1, done := p.done ++ [BitVec.ofNat 64 p.nextTask] } := by
      rw [show s1 = s.setPart part (p.launched code r) from rfl, Partition.launched, if_neg h]
    rw [hs1, launchAnswer, if_neg h, if_neg h]

theorem State.hostLaunch_host_ne {s : State} {part : Nat} {bs : List Byte} (h : (TaskRec.ofBytes bs).last ≠ 0) :
    hostNumber (s.hostLaunch part bs) (TaskRec.ofBytes bs).last.toNat 8 =
      launchAnswer (s.launchCode part false true (TaskRec.ofBytes bs)) (s.part part).nextTask % 2 ^ 64 := by
  rw [hostLaunch_eq, if_neg h]
  exact hostNumber_hostWrite_self _ _ _ _

/-- A doorbell changes its own partition, and the host's memory where it asks for an answer. -/
theorem hostLaunch_part (s : State) (part : Nat) (bs : List Byte) :
    (s.hostLaunch part bs).part part =
      (s.part part).launched (s.launchCode part false true (TaskRec.ofBytes bs)) (TaskRec.ofBytes bs) := by
  rw [hostLaunch_eq]
  split
  · exact State.part_setPart_self _ _ _
  · exact (State.part_hostWrite _ _ _ _).trans (State.part_setPart_self _ _ _)

theorem hostLaunch_only (s : State) (part : Nat) (bs : List Byte) :
    OnlyReports part s (s.hostLaunch part bs) ∧ (s.hostLaunch part bs).signals = s.signals := by
  rw [hostLaunch_eq]
  split
  · exact ⟨⟨rfl, fun q hq => (State.part_setPart _ _ _ _).trans (if_neg hq)⟩, rfl⟩
  · exact ⟨⟨rfl, fun q hq => (State.part_setPart _ _ _ _).trans (if_neg hq)⟩, rfl⟩

/-- A record without harts is refused, as malformed unless its queue is full. -/
theorem launchCode_no_harts {s : State} {part : Nat} {r : TaskRec} (h : r.harts = 0) :
    s.launchCode part false true r ≠ 0 ∧ (r.queue = 16 → s.launchCode part false true r = 2) := by
  unfold State.launchCode
  dsimp only
  split
  · next hfull =>
    refine ⟨Nat.one_ne_zero, fun hq => ?_⟩
    rw [hq] at hfull
    exact Bool.noConfusion hfull
  · rw [if_pos (by simp [h])]
    exact ⟨by decide, fun _ => rfl⟩

theorem launchCode_zero {s : State} {part : Nat} {r : TaskRec} (h : s.launchCode part false true r = 0) : r.queue < 16 := by
  unfold State.launchCode at h
  dsimp only at h
  split at h
  · cases h
  · split at h
    · cases h
    · next hform =>
      simp only [Bool.or_eq_true, decide_eq_true_eq, not_or, not_lt] at hform
      omega

/-- The host's doorbell queues a record or refuses it. -/
theorem hostLaunch_rings {part : Nat} {rec : List Byte} {s : State} (hpart : part < 32) (hlen : rec.length = 64)
    (hfatal : s.dump.fatal = none) :
    let p := s.part part
    let r := TaskRec.ofBytes rec
    ∃ t, exec (.hostLaunch part rec) s = .next t ∧ OnlyReports part s t ∧ t.signals = s.signals ∧
      (t.part part).nextTask = p.nextTask + 1 ∧
      (r.harts = 0 → p.nextTask < 2 ^ 63 → (t.part part).done = p.done ++ [BitVec.ofNat 64 p.nextTask] ∧
        (t.part part).queues = p.queues ∧ ((t.part part).task p.nextTask).ended = true ∧
        (r.last ≠ 0 → r.queue = 16 → hostNumber t r.last.toNat 8 = 2 ^ 63 + 2)) ∧
      (s.launchCode part false true r = 0 → p.nextTask < 2 ^ 63 → (t.part part).done = p.done ∧
        (∀ q < 16, (t.part part).queues.getD q [] =
          p.queues.getD q [] ++ if q = r.queue then [BitVec.ofNat 64 p.nextTask] else []) ∧
        (r.last ≠ 0 → hostNumber t r.last.toNat 8 = p.nextTask)) := by
  intro p r
  have hexec : exec (.hostLaunch part rec) s = .next (s.hostLaunch part rec) := by
    have hexec : exec (.hostLaunch part rec) s = execHostLaunch part rec s := rfl
    rw [hexec, execHostLaunch, atUnit_isPart hpart, if_pos (by simp [hlen, hfatal])]
  have hafter := hostLaunch_part s part rec
  obtain ⟨honly, hsig⟩ := hostLaunch_only s part rec
  refine ⟨_, hexec, honly, hsig, ?_, fun hharts hnext => ?_, fun hcode hnext => ?_⟩
  · rw [hafter, Partition.launched]
    split <;> rfl
  · obtain ⟨hne, htwo⟩ := launchCode_no_harts (s := s) (part := part) (r := r) hharts
    rw [hafter, Partition.launched, if_neg hne]
    refine ⟨rfl, rfl, ?_, fun hlast hq => ?_⟩
    · exact congrArg Task.ended (tget_tset_self Task.reset _ _ _)
    · rw [State.hostLaunch_host_ne hlast, htwo hq]
      rfl
  · have hq := launchCode_zero hcode
    rw [hafter, Partition.launched, if_pos hcode]
    refine ⟨rfl, fun q _ => getD_append_at _ _ hq q, fun hlast => ?_⟩
    rw [State.hostLaunch_host_ne hlast, hcode, launchAnswer, if_pos rfl]
    exact Nat.mod_eq_of_lt (Nat.lt_trans hnext (by decide))

theorem hostLaunch_dropped {part : Nat} {rec : List Byte} {s : State} (hpart : part < 32)
    (h : rec.length ≠ 64 ∨ s.dump.fatal ≠ none) : exec (.hostLaunch part rec) s = .next s := by
  have hexec : exec (.hostLaunch part rec) s = execHostLaunch part rec s := rfl
  rw [hexec, execHostLaunch, atUnit_isPart hpart, if_neg]
  rcases h with h | h
  · simp [h]
  · simp [h]

theorem cqhead_writes {part : Nat} {v : Word} {s : State} (hpart : part < 32) : exec (.cqheadWrite part v) s =
    .next (s.setPart part { s.part part with cqhead := v.setWidth 32 }) := by
  have hexec : exec (.cqheadWrite part v) s = execCqheadWrite part v s := rfl
  rw [hexec, execCqheadWrite, atUnit_isPart hpart]

/-! ## A context killed by the host (R320) -/

/-- What a packet sent changes: the ports and buckets, what waits at them, and the drawn numbers. -/
theorem State.sendOut_frame (s : State) (injector : Nat) (p : Packet) (ports : List (Nat × Port))
    (buckets : List (Nat × Int)) (stalled : List (Nat × Packet)) :
    { s.sendOut injector p with ports := ports, buckets := buckets, stalled := stalled, fresh := s.fresh } =
      { s with ports := ports, buckets := buckets, stalled := stalled } := by
  unfold State.sendOut State.inject State.injectAt
  dsimp only
  split <;> rfl

/-- A kill told to the combining points of other devices sends packets, and changes nothing else. -/
theorem State.tellKill_frame (s : State) (part : Nat) (me : Rank) (ports : List (Nat × Port))
    (buckets : List (Nat × Int)) (stalled : List (Nat × Packet)) (fresh : Nat) :
    { s.tellKill part me with ports := ports, buckets := buckets, stalled := stalled, fresh := fresh } =
      { s with ports := ports, buckets := buckets, stalled := stalled, fresh := fresh } := by
  refine foldl_keeps (fun t : State => { t with
    ports := ports, buckets := buckets, stalled := stalled, fresh := fresh }) _ (fun t x => ?_) _ s
  dsimp only
  split
  · rfl
  · exact congrArg (fun t : State => { t with fresh := fresh })
      (t.sendOut_frame (partInjector part) (t.packet 0 part 6 x.2.1.toNat 0 (collId x.1 0 x.2.2 0)
        (reqPayload 1 [BitVec.ofNat 8 fnKilled])) ports buckets stalled)

theorem hostKill_leaves {part : Nat} {v : Word} {s : State} (hpart : part < 32)
    (h : ∀ h, s.hart? ⟨part, v.setWidth 32⟩ = some h → h.status ≠ .suspended ∧ h.status ≠ .held) :
    exec (.hostKill part v) s = .next s := by
  have hexec : exec (.hostKill part v) s = execHostKill part v s := rfl
  rw [hexec, execHostKill, atUnit_isPart hpart, State.hostKill]
  dsimp only
  split
  · rfl
  · next x hx =>
    obtain ⟨h1, h2⟩ := h x hx
    rw [if_neg (by simp [h1, h2])]

/-- The state after the host has killed a saved context, its task's record changed. -/
theorem hostKill_kills {part : Nat} {v : Word} {s : State} {h : Hart} (hpart : part < 32)
    (hh : s.hart? ⟨part, v.setWidth 32⟩ = some h) (hs : h.status = .suspended ∨ h.status = .held) :
    let k : CtxKey := ⟨part, v.setWidth 32⟩
    ∃ t, exec (.hostKill part v) s = .next t ∧ t.harts = s.harts.map (fun x => if x.isKey k then .reset else x) ∧
      (∃ d, (HasTriggered ((s.part part).task h.task.toNat) → d = false) ∧
        (¬HasTriggered ((s.part part).task h.task.toNat) → d = true) ∧
        ∀ id, (t.part part).task id = if id = h.task.toNat
          then { (s.part part).task id with
            killed := insertNat ((s.part part).task id).killed h.member, dead := d }
          else (s.part part).task id) ∧
      { t with
        cur := s.cur, rest := s.rest, parts := s.parts, ports := s.ports, buckets := s.buckets, stalled := s.stalled
        fresh := s.fresh } = s := by
  intro k
  let p := s.part part
  let s1 := s.setPart part (p.setTask h.task.toNat ((p.task h.task.toNat).kill h.member))
  have hexec : exec (.hostKill part v) s =
      .next ((s1.tellKill part ⟨h.task, s.devid, h.member⟩).updHart k fun _ => .reset) := by
    have hexec : exec (.hostKill part v) s = execHostKill part v s := rfl
    rw [hexec, execHostKill, atUnit_isPart hpart, State.hostKill]
    dsimp only
    rw [hh]
    dsimp only
    rw [if_pos (by rcases hs with hs | hs <;> simp [hs])]
  have hframe := s1.tellKill_frame part ⟨h.task, s.devid, h.member⟩ s.ports s.buckets s.stalled s.fresh
  generalize s1.tellKill part ⟨h.task, s.devid, h.member⟩ = s2 at hexec hframe
  have hcur : s2.cur = s.cur := (congrArg State.cur hframe :)
  have hrest : s2.rest = s.rest := (congrArg State.rest hframe :)
  have hpart1 : s2.part part = s1.part part := (congrArg (fun t : State => t.part part) hframe :)
  have htrig (t : Task) : t.triggered = true ↔ HasTriggered t := by
    simp [Task.triggered, HasTriggered, and_assoc]
  refine ⟨_, hexec, ?_, ⟨!(p.task h.task.toNat).triggered, fun ht => ?_, fun ht => ?_, fun id => ?_⟩, ?_⟩
  · have hharts : (s2.updHart k fun _ => .reset).harts =
      (s2.cur :: s2.rest).map fun x => if x.isKey k then .reset else x := rfl
    rw [hharts, hcur, hrest]
    rfl
  · rw [(htrig _).mpr ht]
    rfl
  · have hno : (p.task h.task.toNat).triggered = false := by
      rw [← Bool.not_eq_true, htrig]
      exact ht
    rw [hno]
    rfl
  · have hafter : (s2.updHart k fun _ => .reset).part part = s2.part part := rfl
    rw [hafter, hpart1, State.part_setPart_self, Partition.task_setTask]
    by_cases hid : id = h.task.toNat
    · rw [if_pos hid, if_pos hid, hid, Task.kill]
    · rw [if_neg hid, if_neg hid]
  · exact (congrArg (fun t : State => { t with cur := s.cur, rest := s.rest, parts := s.parts }) hframe :)

end Sys2Proof.Machine
end

section
/-! PROOF. O46: the dispatcher. -/

namespace Sys2Proof.Machine

open Sys2Proof.Claims

/-- Settles O46: each decision of the dispatcher by what R302 and R303 choose, pre-emption by the victim of R304, and the
host's doorbell, completion records and kills by what they write. -/
theorem dispatching : Obligations.Dispatching := by
  refine ⟨fun part s hpart => ⟨dispatch_disabled hpart, chooses_choose s part, dispatch_nothing hpart,
      fun prio => dispatch_resumes hpart, fun q id hen hq hn hfirst hid => dispatch_refuses hpart hen hq hn hfirst hid,
      fun q id => dispatch_places hpart⟩,
    fun part s => preempt_stops,
    fun part rec s hpart => ⟨hostLaunch_dropped hpart, hostLaunch_rings hpart⟩,
    fun part s hpart => ⟨completion_waits hpart, fun id ids => completion_writes hpart⟩,
    fun part v s => cqhead_writes,
    fun part v s hpart => ⟨hostKill_leaves hpart, fun h => hostKill_kills hpart⟩⟩

end Sys2Proof.Machine
end

section
/-! PROOF. O44: collectives. The third clause of `LooksAtColl` speaks of every waiting contribution, and so of one whose
root is no member of its group. -/

namespace Sys2Proof.Machine

open Sys2Proof.Claims

/-- A broadcast of one unsigned integer whose root, 5, is no member of its group of one. -/
def strayBroadcast : Contribution := ⟨3, 0, 5, .u32, 1, 1, []⟩

/-- The collective of that group, ended, with a contribution that names 5 as its member. -/
def strayColl : Coll := ⟨0, 0, 1, [⟨0, 0, ⟨3, 0, 0, .u32, 1, 1, [3]⟩⟩, ⟨5, 0, ⟨3, 0, 0, .u32, 1, 1, [7]⟩⟩], [], false,
  some (.holds none), []⟩

/-- The only hart of a device at reset waits in that collective. -/
def strayState : State :=
  { State.reset.setPart 0 { State.reset.part 0 with colls := [strayColl] } with
    cur := { Hart.reset with status := .waiting (.coll 0 8 0 strayBroadcast) } }

/-- What the step leaves in the destination. -/
def strayResult : Out → Option Nat
  | .next t => some (t.cur.unit ⟨8, .u32, 0, 0⟩ 0)
  | _ => none

/-- The model takes the contributions of the group's members only, so the result has none of the root's. -/
theorem strayResult_eq : strayResult (exec (.collectiveComplete strayState.cur.key) strayState) = some 0 := by
  decide +kernel

/-- The collective has ended already, so nothing more comes of looking at every open one. -/
theorem strayState_endColls : strayState.endColls strayState.cur.part = strayState := by
  have hcolls : (strayState.part strayState.cur.part).colls = [strayColl] := by decide +kernel
  rw [State.endColls, hcolls, List.foldl_cons, List.foldl_nil, State.endColl]
  rfl

theorem strayState_open : ((strayState.closeColls strayState.cur.part).part strayState.cur.part).coll?
    (groupOf strayState.cur 0).gid (groupOf strayState.cur 0).seq = some strayColl := by
  decide +kernel

theorem strayState_local : LocalGroup strayState 0 := by
  have hranks : ∀ r ∈ strayState.ranks strayState.cur.part (groupOf strayState.cur 0).gid
      ((groupOf strayState.cur 0).sizem1.toNat + 1), r.dev = strayState.devid := by
    decide +kernel
  refine ⟨hranks, ?_⟩
  rw [strayState_open]
  rfl

theorem strayState_joined : joinedColl strayState 0 strayBroadcast = strayColl := by
  decide +kernel

/-- Refutes O44: COLLECTIVE_COMPLETE on a waiting broadcast whose root, 5, is no member of its group of one leaves 0 in
the destination, where the statement asks for the contribution that stands under 5, here 7. -/
theorem not_collectives : ¬Obligations.Collectives := by
  rintro ⟨-, hwaiting, -⟩
  have hranks : ∀ c ∈ (strayState.part strayState.cur.part).colls,
      ∀ q ∈ strayState.ranks strayState.cur.part c.gid c.size, q.dev = strayState.devid := by
    decide +kernel
  have hlooks := (hwaiting 0 8 0 strayBroadcast strayState rfl hranks).2
  rw [strayState_endColls] at hlooks
  obtain ⟨-, -, hdone⟩ := hlooks strayState_local
  rw [strayState_joined] at hdone
  obtain ⟨t, h', hout, ⟨hcur, -⟩, -, -, -, -, -, helems⟩ := hdone (.inl ⟨none, rfl⟩) 0 ⟨by decide, by decide⟩
  have hunits : ∀ x ∈ strayColl.pieces, ∀ y ∈ x.c.units, y < 2 ^ tagWidth strayBroadcast.tag := by decide
  have hseven : h'.unit ⟨8, .u32, 0, 0⟩ 0 = 7 :=
    ((helems (by decide) (by decide) (by decide) (by decide) hunits).1 0 (by decide)).1 (.inl rfl)
  have hzero : t.cur.unit ⟨8, .u32, 0, 0⟩ 0 = 0 := by
    have h := strayResult_eq
    rw [hout] at h
    exact Option.some.inj h
  have hsame : t.cur.unit ⟨8, .u32, 0, 0⟩ 0 = h'.unit ⟨8, .u32, 0, 0⟩ 0 := by
    have hv : t.cur.v = h'.v := (congrArg Hart.v hcur :)
    unfold Hart.unit Hart.vreg
    rw [hv]
  omega

end Sys2Proof.Machine
end

section
/-! SUPPORT. Vector registers (R18-R22, R43, R50, R105): bits of a number replaced, units of a register read after one is
written, and what the write of a result group leaves. -/

namespace Sys2Proof.Machine

open Sys2Proof.Claims

/-! ## Bits of a number -/

theorem testBit_bitsAt (n lo len i : Nat) : (bitsAt n lo len).testBit i = (decide (i < len) && n.testBit (lo + i)) := by
  rw [bitsAt, Nat.testBit_mod_two_pow, Nat.testBit_div_two_pow, Nat.add_comm]

theorem bitsAt_lt (n lo len : Nat) : bitsAt n lo len < 2 ^ len := Nat.mod_lt _ (Nat.two_pow_pos len)

/-- Replaced bits, between those below and those above. -/
theorem setBits_eq (n lo len v : Nat) :
    setBits n lo len v = 2 ^ lo * (2 ^ len * (n / 2 ^ lo / 2 ^ len) + v % 2 ^ len) + n % 2 ^ lo := by
  have h1 := Nat.div_add_mod n (2 ^ lo)
  have h2 := Nat.div_add_mod (n / 2 ^ lo) (2 ^ len)
  unfold setBits bitsAt
  generalize n / 2 ^ lo / 2 ^ len = hi at *
  generalize n / 2 ^ lo % 2 ^ len = mid at *
  generalize n % 2 ^ lo = low at *
  generalize v % 2 ^ len = w
  rw [← h2] at h1
  rw [← h1, Nat.mul_add, Nat.mul_add, Nat.mul_comm (2 ^ lo) mid, Nat.mul_comm (2 ^ lo) w]
  omega

theorem testBit_setBits (n lo len v i : Nat) :
    (setBits n lo len v).testBit i = if lo ≤ i ∧ i < lo + len then v.testBit (i - lo) else n.testBit i := by
  rw [setBits_eq, Nat.testBit_two_pow_mul_add _ (Nat.mod_lt _ (Nat.two_pow_pos lo)),
    Nat.testBit_two_pow_mul_add _ (Nat.mod_lt _ (Nat.two_pow_pos len)), Nat.testBit_mod_two_pow,
    Nat.testBit_mod_two_pow, Nat.testBit_div_two_pow, Nat.testBit_div_two_pow]
  by_cases h1 : i < lo
  · simp [h1, show ¬(lo ≤ i ∧ i < lo + len) by omega]
  · by_cases h2 : i - lo < len
    · simp [h1, h2, show lo ≤ i ∧ i < lo + len by omega]
    · simp [h1, h2, show ¬(lo ≤ i ∧ i < lo + len) by omega, show i - lo - len + len + lo = i by omega]

theorem setBits_lt {n lo len : Nat} (v : Nat) {w : Nat} (hn : n < 2 ^ w) (h : lo + len ≤ w) : setBits n lo len v < 2 ^ w := by
  refine Nat.lt_pow_two_of_testBit _ fun i hi => ?_
  rw [testBit_setBits, if_neg (by omega)]
  exact Nat.testBit_lt_two_pow (Nat.lt_of_lt_of_le hn (Nat.pow_le_pow_right (by decide) hi))

theorem bitsAt_setBits_self (n lo len v : Nat) : bitsAt (setBits n lo len v) lo len = v % 2 ^ len := by
  refine Nat.eq_of_testBit_eq fun i => ?_
  rw [testBit_bitsAt, testBit_setBits, Nat.testBit_mod_two_pow]
  by_cases h : i < len
  · simp [h]
  · simp [h]

theorem bitsAt_setBits_of_disjoint (n v : Nat) {lo len lo' len' : Nat} (h : lo' + len' ≤ lo ∨ lo + len ≤ lo') :
    bitsAt (setBits n lo len v) lo' len' = bitsAt n lo' len' := by
  refine Nat.eq_of_testBit_eq fun i => ?_
  rw [testBit_bitsAt, testBit_bitsAt, testBit_setBits]
  by_cases hi : i < len'
  · rw [if_neg (by omega)]
  · simp [hi]

/-! ## Units of a fixed-width type (R20, R22) -/

/-- The tags whose units are single elements. -/
def Fixed (t : Tag) : Prop := tagBlock t = false ∧ t ≠ .none

theorem Fixed.width {t : Tag} (h : Fixed t) :
    tagWidth t = 1 ∨ tagWidth t = 8 ∨ tagWidth t = 16 ∨ tagWidth t = 32 ∨ tagWidth t = 64 := by
  cases t <;> simp [Fixed, tagBlock, tagFamily, tagWidth] at h ⊢

theorem Fixed.cap {t : Tag} (h : Fixed t) : tagCap t = 16384 / tagWidth t := by
  unfold tagCap
  cases t <;> first | rfl | simp [Fixed, tagBlock, tagFamily] at h

theorem fixed_of_family {t : Tag} (h : tagFamily t = .int ∨ tagFamily t = .float ∨ tagFamily t = .hb) : Fixed t := by
  cases t <;> simp_all [Fixed, tagBlock, tagFamily]

/-- The places of units, width by width (R22). -/
theorem slotPos_widths (k : Nat) : slotPos 1 k = k ∧ slotPos 8 k = 1024 * (k / 128) + 32 * (k % 32) + 8 * (k % 128 / 32) ∧
    slotPos 16 k = 1024 * (k / 64) + 32 * (k % 32) + 16 * (k % 64 / 32) ∧
    slotPos 32 k = 1024 * (k / 32) + 32 * (k % 32) + 32 * (k % 32 / 32) ∧
    slotPos 64 k = 2048 * (k / 32) + 32 * (k % 32) := ⟨rfl, rfl, rfl, rfl, rfl⟩

/-- A unit narrower than 64 bits lies in the register. -/
theorem slotPos_le {w k : Nat} (hw : w = 1 ∨ w = 8 ∨ w = 16 ∨ w = 32) (hk : k < 16384 / w) : slotPos w k + w ≤ 16384 := by
  obtain ⟨h1, h8, h16, h32, _⟩ := slotPos_widths k
  obtain rfl | rfl | rfl | rfl := hw <;> omega

/-- A number is known by its part above `32 * n`, the middle part and the part below 32. -/
theorem digits_of {n : Nat} (hn : n = 2 ∨ n = 4) (k : Nat) :
    k = 32 * n * (k / (32 * n)) + 32 * (k % (32 * n) / 32) + k % 32 ∧ k % (32 * n) / 32 < n ∧ k % 32 < 32 := by
  obtain rfl | rfl := hn <;> omega

/-- Two units narrower than 64 bits lie apart. -/
theorem slotPos_disjoint {w j k : Nat} (hw : w = 1 ∨ w = 8 ∨ w = 16 ∨ w = 32) (h : j ≠ k) :
    slotPos w j + w ≤ slotPos w k ∨ slotPos w k + w ≤ slotPos w j := by
  obtain ⟨j1, j8, j16, j32, -⟩ := slotPos_widths j
  obtain ⟨k1, k8, k16, k32, -⟩ := slotPos_widths k
  obtain rfl | rfl | rfl | rfl := hw
  · omega
  · obtain ⟨hj, hj1, hj2⟩ := digits_of (n := 4) (.inr rfl) j
    obtain ⟨hk, hk1, hk2⟩ := digits_of (n := 4) (.inr rfl) k
    rw [j8, k8]
    generalize j / 128 = ja, j % 128 / 32 = jb, j % 32 = jc, k / 128 = ka, k % 128 / 32 = kb, k % 32 = kc at *
    omega
  · obtain ⟨hj, hj1, hj2⟩ := digits_of (n := 2) (.inl rfl) j
    obtain ⟨hk, hk1, hk2⟩ := digits_of (n := 2) (.inl rfl) k
    rw [j16, k16]
    generalize j / 64 = ja, j % 64 / 32 = jb, j % 32 = jc, k / 64 = ka, k % 64 / 32 = kb, k % 32 = kc at *
    omega
  · omega

theorem getUnit_of_narrow {t : Tag} (h : Fixed t) (hw : tagWidth t ≠ 64) (bits k : Nat) :
    getUnit t bits k = bitsAt bits (slotPos (tagWidth t) k) (tagWidth t) := by
  rw [getUnit, h.1, if_neg Bool.false_ne_true, if_neg hw]

theorem putUnit_of_narrow {t : Tag} (h : Fixed t) (hw : tagWidth t ≠ 64) (bits k v : Nat) :
    putUnit t bits k v = setBits bits (slotPos (tagWidth t) k) (tagWidth t) v := by
  rw [putUnit, h.1, if_neg Bool.false_ne_true, if_neg hw]

theorem getUnit_of_wide {t : Tag} (h : Fixed t) (hw : tagWidth t = 64) (bits k : Nat) :
    getUnit t bits k = bitsAt bits (slotPos 64 k) 32 + bitsAt bits (slotPos 64 k + 1024) 32 * 2 ^ 32 := by
  rw [getUnit, h.1, if_neg Bool.false_ne_true, if_pos hw]

theorem putUnit_of_wide {t : Tag} (h : Fixed t) (hw : tagWidth t = 64) (bits k v : Nat) :
    putUnit t bits k v = setBits (setBits bits (slotPos 64 k) 32 v) (slotPos 64 k + 1024) 32 (v / 2 ^ 32) := by
  rw [putUnit, h.1, if_neg Bool.false_ne_true, if_pos hw]

theorem getUnit_lt {t : Tag} (h : Fixed t) (bits k : Nat) : getUnit t bits k < 2 ^ tagWidth t := by
  by_cases hw : tagWidth t = 64
  · rw [getUnit_of_wide h hw, hw]
    have h1 := bitsAt_lt bits (slotPos 64 k) 32
    have h2 := bitsAt_lt bits (slotPos 64 k + 1024) 32
    omega
  · rw [getUnit_of_narrow h hw]
    exact bitsAt_lt _ _ _

/-- A unit reads as it was written, in the width of its type. -/
theorem getUnit_putUnit_self {t : Tag} (h : Fixed t) (bits k v : Nat) :
    getUnit t (putUnit t bits k v) k = v % 2 ^ tagWidth t := by
  by_cases hw : tagWidth t = 64
  · rw [getUnit_of_wide h hw, putUnit_of_wide h hw, bitsAt_setBits_self,
      bitsAt_setBits_of_disjoint _ _ (.inl (by omega)), bitsAt_setBits_self, hw]
    omega
  · rw [getUnit_of_narrow h hw, putUnit_of_narrow h hw, bitsAt_setBits_self]

/-- The other units of a register read as before. -/
theorem getUnit_putUnit_ne {t : Tag} (h : Fixed t) (bits v : Nat) {j k : Nat} (hjk : j ≠ k) :
    getUnit t (putUnit t bits k v) j = getUnit t bits j := by
  by_cases hw : tagWidth t = 64
  · obtain ⟨-, -, -, -, hj⟩ := slotPos_widths j
    obtain ⟨-, -, -, -, hk⟩ := slotPos_widths k
    rw [getUnit_of_wide h hw, getUnit_of_wide h hw, putUnit_of_wide h hw,
      bitsAt_setBits_of_disjoint _ _ (by omega), bitsAt_setBits_of_disjoint _ _ (by omega),
      bitsAt_setBits_of_disjoint _ _ (by omega), bitsAt_setBits_of_disjoint _ _ (by omega)]
  · have hd := slotPos_disjoint (w := tagWidth t) (by have := h.width; omega) (Ne.symm hjk)
    rw [getUnit_of_narrow h hw, getUnit_of_narrow h hw, putUnit_of_narrow h hw,
      bitsAt_setBits_of_disjoint _ _ (by omega)]

theorem putUnit_lt {t : Tag} (h : Fixed t) {bits k : Nat} (v : Nat) (hb : bits < 2 ^ 16384) (hk : k < tagCap t) :
    putUnit t bits k v < 2 ^ 16384 := by
  rw [h.cap] at hk
  by_cases hw : tagWidth t = 64
  · obtain ⟨-, -, -, -, hp⟩ := slotPos_widths k
    rw [hw] at hk
    rw [putUnit_of_wide h hw]
    exact setBits_lt _ (setBits_lt _ hb (by omega)) (by omega)
  · rw [putUnit_of_narrow h hw]
    exact setBits_lt _ hb (slotPos_le (by have := h.width; omega) hk)

/-- Units put in a row of places: each place holds the unit put there, the others what they held. -/
theorem getUnit_foldl_putUnit {t : Tag} (h : Fixed t) (f : Nat → Nat) (lo n bits j : Nat) :
    getUnit t ((List.range n).foldl (fun b k => putUnit t b (lo + k) (f k)) bits) j =
      if lo ≤ j ∧ j < lo + n then f (j - lo) % 2 ^ tagWidth t else getUnit t bits j := by
  induction n with
  | zero => rw [if_neg (by omega)]; rfl
  | succ n ih =>
    rw [List.range_succ, List.foldl_append, List.foldl_cons, List.foldl_nil]
    by_cases hj : j = lo + n
    · rw [hj, getUnit_putUnit_self h, if_pos (by omega), Nat.add_sub_cancel_left]
    · rw [getUnit_putUnit_ne h _ _ hj, ih]
      congr 1
      exact propext (by omega)

theorem foldl_putUnit_lt {t : Tag} (h : Fixed t) (f : Nat → Nat) {lo n bits : Nat} (hb : bits < 2 ^ 16384)
    (hn : ∀ k < n, lo + k < tagCap t) : (List.range n).foldl (fun b k => putUnit t b (lo + k) (f k)) bits < 2 ^ 16384 := by
  induction n with
  | zero => exact hb
  | succ n ih =>
    rw [List.range_succ, List.foldl_append, List.foldl_cons, List.foldl_nil]
    exact putUnit_lt h _ (ih fun k hk => hn k (by omega)) (hn n (by omega))

end Sys2Proof.Machine
end

section
/-! SUPPORT. A result group written (R21, R50, R105, R125). -/

namespace Sys2Proof.Machine

open Sys2Proof.Claims

theorem Fixed.unitLen {t : Tag} (h : Fixed t) : unitLen t = 1 := by rw [Machine.unitLen, h.1]; rfl

theorem Fixed.zeroUnit {t : Tag} (h : Fixed t) : zeroUnit t = 0 := by rw [Machine.zeroUnit, h.1]; rfl

theorem Fixed.unitsPer {t : Tag} (h : Fixed t) : unitsPer t = tagCap t := by
  rw [Machine.unitsPer, h.unitLen, Nat.div_one]

theorem Fixed.cap_bounds {t : Tag} (h : Fixed t) : 0 < tagCap t ∧ tagCap t ≤ 16384 := by
  rw [h.cap]
  obtain hw | hw | hw | hw | hw := h.width <;> rw [hw] <;> decide

theorem Fixed.unit {t : Tag} (h : Fixed t) (r : VReg) (k : Nat) :
    r.unit t k = if k < r.desc.valen.toNat then getUnit t r.bits.toNat k else 0 := by
  rw [VReg.unit, h.1]
  rfl

theorem Fixed.unit_lt {t : Tag} (h : Fixed t) (r : VReg) (k : Nat) : r.unit t k < 2 ^ tagWidth t := by
  rw [h.unit]
  split
  · exact getUnit_lt h _ _
  · exact Nat.two_pow_pos _

/-! ## One member -/

theorem zipIdx_eq_range {α : Type} (l : List α) (d : α) :
    l.zipIdx = (List.range l.length).map fun k => (l.getD k d, k) := by
  refine List.ext_getElem (by simp) fun i h1 h2 => ?_
  simp at h1
  simp [h1]

/-- What unit `k` of a member becomes, when it is one of those written. -/
def memberUnit (t : Tag) (present mz : Bool) (r : VReg) (units : List (Option (Nat × Bool))) (k : Nat) : Nat :=
  ((units.getD k none).map Prod.fst).getD (if present && !mz then r.unit t k else 0)

theorem writeMember_desc (t : Tag) (present mz ta : Bool) (r : VReg) (d : Desc) (units : List (Option (Nat × Bool))) :
    (writeMember t present mz ta r d units).desc = d := rfl

/-- The contents of a member: the units written, zeros from the old valid length on, and what it held. -/
theorem writeMember_bits {t : Tag} (ht : Fixed t) (present mz ta : Bool) (r : VReg) (d : Desc)
    (units : List (Option (Nat × Bool))) :
    let old := if present then r else ⟨0, { r.desc with valen := 0 }, 0⟩
    let lo := max units.length old.desc.valen.toNat
    (writeMember t present mz ta r d units).bits = BitVec.ofNat 16384
      ((List.range (d.valen.toNat - lo)).foldl (fun b k => putUnit t b (lo + k) 0)
        ((List.range units.length).foldl (fun b k => putUnit t b (0 + k) (memberUnit t present mz r units k))
          old.bits.toNat)) := by
  intro old lo
  unfold writeMember
  dsimp only
  rw [zipIdx_eq_range units none, List.foldl_map, ht.unitLen, ht.zeroUnit]
  simp only [Nat.add_sub_cancel, Nat.div_one]
  simp only [Nat.zero_add]
  cases present <;> rfl

/-- Unit `k` of a member after a write, below the new valid length: as written, zero, or as it was held. -/
theorem unit_writeMember {t : Tag} (ht : Fixed t) (present mz ta : Bool) (r : VReg) {d : Desc}
    {units : List (Option (Nat × Bool))} (k : Nat) (hd : d.valen.toNat ≤ tagCap t) (hu : units.length ≤ tagCap t) :
    (writeMember t present mz ta r d units).unit t k =
      if k < d.valen.toNat then
        if k < units.length then memberUnit t present mz r units k % 2 ^ tagWidth t
        else if present then r.unit t k else 0
      else 0 := by
  rw [ht.unit, writeMember_desc]
  by_cases hk : k < d.valen.toNat
  · rw [if_pos hk, if_pos hk, writeMember_bits ht]
    dsimp only
    rw [BitVec.toNat_ofNat, Nat.mod_eq_of_lt, getUnit_foldl_putUnit ht, getUnit_foldl_putUnit ht]
    · by_cases hw : k < units.length
      · rw [if_neg (by omega), if_pos (by omega), if_pos hw, Nat.sub_zero]
      · rw [if_neg (c := 0 ≤ k ∧ k < 0 + units.length) (by omega), if_neg hw]
        cases present with
        | false =>
          have hzeroed : units.length ≤ k ∧ k < units.length + (d.valen.toNat - units.length) := by omega
          simp [hzeroed]
        | true =>
          rw [if_pos rfl, if_pos rfl, ht.unit]
          by_cases hv : k < r.desc.valen.toNat
          · rw [if_neg (by omega), if_pos hv]
          · rw [if_pos (by omega), if_neg hv, Nat.zero_mod]
    · refine foldl_putUnit_lt ht _ (foldl_putUnit_lt ht _ (BitVec.isLt _) fun j hj => by omega) fun j hj => by omega
  · rw [if_neg hk, if_neg hk]

/-! ## The group -/

theorem Hart.vreg_setV (h : Hart) (n k : Nat) (r : VReg) :
    (h.setV n r).vreg k = if k = n ∧ n < 64 then r else h.vreg k := by
  rw [Hart.vreg, Hart.vreg, Hart.setV]
  by_cases hn : n < 64
  · by_cases hk : k = n
    · rw [hk, if_pos ⟨rfl, hn⟩, vector_getD_set_self _ _ _ hn]
    · rw [if_neg (by tauto), vector_getD_set_ne _ _ _ (Ne.symm hk)]
  · rw [if_neg (by tauto), Vector.setIfInBounds_eq_of_size_le (by omega)]

/-- Registers written in turn from a base register on. -/
theorem vreg_foldl_setV (f : Nat → VReg) {base n : Nat} (hb : base + n ≤ 64) (h : Hart) (k : Nat) :
    ((List.range n).foldl (fun h' j => h'.setV (base + j) (f j)) h).vreg k =
      if base ≤ k ∧ k < base + n then f (k - base) else h.vreg k := by
  induction n with
  | zero => rw [if_neg (by omega)]; rfl
  | succ n ih =>
    rw [List.range_succ, List.foldl_append, List.foldl_cons, List.foldl_nil, Hart.vreg_setV, ih (by omega)]
    by_cases hk : k = base + n
    · rw [if_pos (by omega), if_pos (by omega), hk, Nat.add_sub_cancel_left]
    · rw [if_neg (by tauto)]
      congr 1
      exact propext (by omega)

/-- The descriptor of member `k` of a group with a valid length of `len` (R21). -/
def memberDesc (o : Opnd) (len k : Nat) : Desc :=
  ⟨o.tag, BitVec.ofNat 3 o.dom, BitVec.ofNat 2 o.grp, BitVec.ofNat 15 (min (tagCap o.tag) (len - k * tagCap o.tag)), true⟩

/-- Member `k` of a result group after its write. -/
def Hart.written (h : Hart) (o : Opnd) (n : Nat) (units : List (Option (Nat × Bool))) (k : Nat) : VReg :=
  writeMember o.tag (h.present o) h.csr.mp h.csr.tp (h.vreg (o.base + k)) (memberDesc o (h.newLen o n) k)
    ((units.drop (k * unitsPer o.tag)).take (unitsPer o.tag))

theorem writeGroup_eq (h : Hart) (vd : BitVec 6) (t : Tag) (dom grp n : Nat) (units : List (Option (Nat × Bool))) :
    let o : Opnd := ⟨vd.toNat, t, dom, grp⟩
    h.writeGroup vd t dom grp n units =
      (List.range (2 ^ grp)).foldl (fun h' k => h'.setV (o.base + k) (h.written o n units k)) h := by
  unfold Hart.writeGroup
  rfl

theorem vreg_writeGroup {vd : BitVec 6} {grp : Nat} (hb : vd.toNat + 2 ^ grp ≤ 64) (h : Hart) (t : Tag) (dom n : Nat)
    (units : List (Option (Nat × Bool))) (k : Nat) :
    (h.writeGroup vd t dom grp n units).vreg k =
      if vd.toNat ≤ k ∧ k < vd.toNat + 2 ^ grp then h.written ⟨vd.toNat, t, dom, grp⟩ n units (k - vd.toNat)
      else h.vreg k := by
  rw [writeGroup_eq]
  exact vreg_foldl_setV _ hb h k

/-- The write of a result group changes vector registers only. -/
theorem writeGroup_frame (h : Hart) (vd : BitVec 6) (t : Tag) (dom grp n : Nat) (units : List (Option (Nat × Bool)))
    (v : Vector VReg 64) : { h.writeGroup vd t dom grp n units with v := v } = { h with v := v } := by
  rw [writeGroup_eq]
  exact foldl_keeps (fun x : Hart => { x with v := v })
    (fun h' k => h'.setV (vd.toNat + k) (h.written ⟨vd.toNat, t, dom, grp⟩ n units k)) (fun _ _ => rfl) _ h

theorem present_iff (h : Hart) (o : Opnd) : h.present o = true ↔ Holds h o := by
  simp [Hart.present, Opnd.agrees, Opnd.g, Holds, and_assoc]

/-- A destination group lies in the register file. -/
theorem VecDest.bound {vd : BitVec 6} {t : Tag} {n g : Nat} (h : VecDest vd t n g) : vd.toNat + 2 ^ g ≤ 64 ∧ g < 4 := by
  obtain ⟨hg, halign⟩ := h
  have hvd := vd.isLt
  have hcases : g = 0 ∨ g = 1 ∨ g = 2 ∨ g = 3 := by
    unfold groupFor at hg
    dsimp only at hg
    split at hg
    · simp_all
    · split at hg
      · simp_all
      · split at hg
        · simp_all
        · split at hg <;> simp_all
  obtain rfl | rfl | rfl | rfl := hcases <;> simp only [Nat.reducePow] at halign ⊢ <;> omega

/-- A destination group holds its elements. -/
theorem VecDest.room {vd : BitVec 6} {t : Tag} {n g : Nat} (h : VecDest vd t n g) : n ≤ 2 ^ g * tagCap t := by
  obtain ⟨hg, -⟩ := h
  unfold groupFor at hg
  dsimp only at hg
  split at hg
  · obtain rfl := Option.some.inj hg
    omega
  · split at hg
    · obtain rfl := Option.some.inj hg
      omega
    · split at hg
      · obtain rfl := Option.some.inj hg
        omega
      · split at hg
        · obtain rfl := Option.some.inj hg
          omega
        · cases hg

theorem groupHolds_writeGroup {vd : BitVec 6} {grp : Nat} (hb : vd.toNat + 2 ^ grp ≤ 64) (h : Hart) (t : Tag) (dom n : Nat)
    (units : List (Option (Nat × Bool))) : let o : Opnd := ⟨vd.toNat, t, dom, grp⟩
    GroupHolds h (h.writeGroup vd t dom grp n units) o (h.newLen o n) := by
  intro o
  refine ⟨fun k hk => ?_, fun k hk => ?_⟩
  · rw [vreg_writeGroup hb, if_pos (by exact ⟨Nat.le_add_right _ _, Nat.add_lt_add_left hk _⟩), Nat.add_sub_cancel_left]
    rfl
  · rw [vreg_writeGroup hb, if_neg (by rintro ⟨h1, h2⟩; rcases hk with h | h; exacts [absurd h1 (not_le.mpr h), absurd h2 (not_lt.mpr h)])]

theorem newLen_eq (h : Hart) (o : Opnd) (n : Nat) :
    (h.csr.tp = true → h.newLen o n = n) ∧ (h.csr.tp = false → Holds h o → h.newLen o n = max (h.validLen o) n) ∧
      (h.csr.tp = false → ¬Holds h o → h.newLen o n = n) := by
  refine ⟨fun ht => ?_, fun ht hh => ?_, fun ht hh => ?_⟩
  · rw [Hart.newLen, ht, if_pos rfl]
  · rw [Hart.newLen, ht, if_neg Bool.false_ne_true, if_pos ((present_iff h o).mpr hh)]
  · rw [Hart.newLen, ht, if_neg Bool.false_ne_true, if_neg (mt (present_iff h o).mp hh), Nat.zero_max]

theorem groupWritten_writeGroup {vd : BitVec 6} {grp : Nat} (hb : vd.toNat + 2 ^ grp ≤ 64) (h : Hart) (t : Tag)
    (dom n : Nat) (units : List (Option (Nat × Bool))) :
    GroupWritten h (h.writeGroup vd t dom grp n units) ⟨vd.toNat, t, dom, grp⟩ n := by
  have hgroup (len : Nat) (hlen : h.newLen ⟨vd.toNat, t, dom, grp⟩ n = len) :
      GroupHolds h (h.writeGroup vd t dom grp n units) ⟨vd.toNat, t, dom, grp⟩ len :=
    hlen ▸ groupHolds_writeGroup hb h t dom n units
  obtain ⟨h1, h2, h3⟩ := newLen_eq h ⟨vd.toNat, t, dom, grp⟩ n
  exact ⟨fun ht => hgroup _ (h1 ht), fun ht hh => hgroup _ (h2 ht hh), fun ht hh => hgroup _ (h3 ht hh)⟩

/-! ## Elements of a written group -/

/-- What element `i` of a group becomes, when it is one of those written: its result, or what it held under `MU`. -/
def Hart.writtenUnit (h : Hart) (o : Opnd) (units : List (Option (Nat × Bool))) (i : Nat) : Nat :=
  ((units.getD i none).map Prod.fst).getD (if h.present o && !h.csr.mp then h.unit o i else 0)

theorem le_newLen (h : Hart) (o : Opnd) (n : Nat) : n ≤ h.newLen o n := by
  rw [Hart.newLen]
  split
  · exact le_rfl
  · exact le_max_right _ _

/-- An element of a written group: a result below `n`; above, what the group held below the new valid length. -/
theorem unit_writeGroup {t : Tag} (ht : Fixed t) {vd : BitVec 6} {grp : Nat} (hb : vd.toNat + 2 ^ grp ≤ 64) (h : Hart)
    (dom : Nat) {n : Nat} {units : List (Option (Nat × Bool))} (hn : units.length = n) {i : Nat}
    (hi : i < 2 ^ grp * tagCap t) : let o : Opnd := ⟨vd.toNat, t, dom, grp⟩
    (h.writeGroup vd t dom grp n units).unit o i =
      if i < n then h.writtenUnit o units i % 2 ^ tagWidth t
      else if i < h.newLen o n then (if h.present o then h.unit o i else 0) else 0 := by
  intro o
  obtain ⟨hpos, hcap⟩ := ht.cap_bounds
  have hk : i / tagCap t < 2 ^ grp := Nat.div_lt_of_lt_mul (Nat.mul_comm _ _ ▸ hi)
  have hj : i % tagCap t < tagCap t := Nat.mod_lt _ hpos
  have hdiv := Nat.div_add_mod i (tagCap t)
  have hle := le_newLen h o n
  have hold : h.unit o i = (h.vreg (vd.toNat + i / tagCap t)).unit t (i % tagCap t) := by
    rw [Hart.unit, ht.unitsPer, if_pos (by exact hk)]
  have hvalen : (memberDesc o (h.newLen o n) (i / tagCap t)).valen.toNat =
      min (tagCap t) (h.newLen o n - i / tagCap t * tagCap t) := by
    rw [memberDesc, BitVec.toNat_ofNat]
    exact Nat.mod_eq_of_lt (Nat.lt_of_le_of_lt (Nat.min_le_left _ _) (Nat.lt_of_le_of_lt hcap (by decide)))
  have hunits : ((units.drop (i / tagCap t * tagCap t)).take (tagCap t)).length =
      min (tagCap t) (n - i / tagCap t * tagCap t) := by
    rw [List.length_take, List.length_drop, hn]
  have hget : ((units.drop (i / tagCap t * tagCap t)).take (tagCap t)).getD (i % tagCap t) none = units.getD i none := by
    rw [List.getD_eq_getElem?_getD, List.getElem?_take_of_lt hj, List.getElem?_drop, Nat.mul_comm, hdiv,
      ← List.getD_eq_getElem?_getD]
  rw [Hart.unit, ht.unitsPer, if_pos (by exact hk), vreg_writeGroup hb,
    if_pos ⟨Nat.le_add_right _ _, Nat.add_lt_add_left hk _⟩, Nat.add_sub_cancel_left, Hart.written, ht.unitsPer,
    unit_writeMember ht _ _ _ _ _ (by rw [hvalen]; exact Nat.min_le_left _ _)
      (by rw [hunits]; exact Nat.min_le_left _ _), hvalen, hunits, Hart.writtenUnit, hold, ← hget]
  rw [Nat.mul_comm] at hdiv
  generalize i / tagCap t * tagCap t = base at *
  by_cases h1 : i < n
  · rw [if_pos (by omega), if_pos (by omega), if_pos h1]
    rfl
  · rw [if_neg h1]
    by_cases h2 : i < h.newLen o n
    · rw [if_pos (by omega), if_neg (by omega), if_pos h2]
    · rw [if_neg (by omega), if_neg h2]

/-- Elements from the valid length of a packed group on read as zero. -/
theorem unit_of_packed {h : Hart} {o : Opnd} (ht : Fixed o.tag) (hp : Packed h o) {i : Nat}
    (hi : i < 2 ^ o.grp * tagCap o.tag) (hlen : h.validLen o ≤ i) : h.unit o i = 0 := by
  obtain ⟨hpos, -⟩ := ht.cap_bounds
  have hk : i / tagCap o.tag < 2 ^ o.grp := Nat.div_lt_of_lt_mul (Nat.mul_comm _ _ ▸ hi)
  have hdiv := Nat.div_add_mod i (tagCap o.tag)
  rw [Nat.mul_comm] at hdiv
  rw [Hart.unit, ht.unitsPer, if_pos (by exact hk), ht.unit, hp _ hk, if_neg (by omega)]

theorem unit_lt {t : Tag} (ht : Fixed t) (h : Hart) (base dom grp i : Nat) : h.unit ⟨base, t, dom, grp⟩ i < 2 ^ tagWidth t := by
  rw [Hart.unit, ht.unitsPer]
  split
  · exact ht.unit_lt _ _
  · rw [ht.zeroUnit]
    exact Nat.two_pow_pos _

/-- Results of active elements, none for the others, by the write policy (R105, R125). -/
theorem elementsAre_writeGroup {t : Tag} (ht : Fixed t) {vd : BitVec 6} {grp n : Nat} (hv : VecDest vd t n grp) (h : Hart)
    (dom : Nat) {units : List (Option (Nat × Bool))} (hn : units.length = n) (act : Nat → Prop) (f : Nat → Nat)
    (hact : ∀ i < n, act i → ((units.getD i none).map Prod.fst) = some (f i) ∧ f i < 2 ^ tagWidth t)
    (hno : ∀ i < n, ¬act i → units.getD i none = none) :
    ElementsAre h (h.writeGroup vd t dom grp n units) ⟨vd.toNat, t, dom, grp⟩ act n f := by
  have hb := (VecDest.bound hv).1
  have hroom := VecDest.room hv
  have hpres := present_iff h ⟨vd.toNat, t, dom, grp⟩
  obtain ⟨hl1, hl2, hl3⟩ := newLen_eq h ⟨vd.toNat, t, dom, grp⟩ n
  refine ⟨fun i hi => ⟨fun ha => ?_, fun ha => ⟨fun hmp hh => ?_, fun hz => ?_⟩⟩, fun i hi hi2 => ⟨fun htp hh hp => ?_, fun hz => ?_⟩⟩
  · obtain ⟨hget, hlt⟩ := hact i hi ha
    rw [unit_writeGroup ht hb h dom hn (by omega), if_pos hi, Hart.writtenUnit, hget, Option.getD_some,
      Nat.mod_eq_of_lt hlt]
  · rw [unit_writeGroup ht hb h dom hn (by omega), if_pos hi, Hart.writtenUnit, hno i hi ha, Option.map_none,
      Option.getD_none, hpres.mpr hh, hmp]
    exact Nat.mod_eq_of_lt (unit_lt ht h _ _ _ _)
  · rw [unit_writeGroup ht hb h dom hn (by omega), if_pos hi, Hart.writtenUnit, hno i hi ha, Option.map_none,
      Option.getD_none, if_neg, Nat.zero_mod]
    rcases hz with hz | hz
    · simp [hz]
    · simp [mt hpres.mp hz]
  · rw [unit_writeGroup ht hb h dom hn hi2, if_neg (by omega), hl2 htp hh, hpres.mpr hh, if_pos rfl]
    by_cases hlen : i < max (h.validLen ⟨vd.toNat, t, dom, grp⟩) n
    · rw [if_pos hlen]
    · rw [if_neg hlen, unit_of_packed ht hp hi2 (by omega)]
  · rw [unit_writeGroup ht hb h dom hn hi2, if_neg (by omega)]
    rcases hz with hz | hz
    · rw [hl1 hz, if_neg (by omega)]
    · rw [if_neg (mt hpres.mp hz), ite_self]

end Sys2Proof.Machine
end


-- ==== Sys2Proof/Proofs/ShapeIndices.lean ====
section
/-! SUPPORT. O39: division by the constants of an extent, and the coordinates of a tensor index. -/

namespace Sys2Proof.Machine

open Sys2Proof.Claims

/-! ## The constants of an extent (R26) -/

/-- Division by a rounded-up reciprocal: exact below `2 ^ 32` when its scale covers the divisor. -/
theorem mul_reciprocal_div {e l q : Nat} (he : 1 ≤ e) (hl : e ≤ 2 ^ l) (hq : q < 2 ^ 32) :
    q * ((2 ^ (32 + l) + e - 1) / e) / 2 ^ (32 + l) = q / e := by
  have hscale : 2 ^ (32 + l) = 2 ^ 32 * 2 ^ l := Nat.pow_add 2 32 l
  generalize 2 ^ (32 + l) = N at *
  have hN := Nat.div_add_mod (N + e - 1) e
  have hr := Nat.mod_lt (N + e - 1) he
  generalize (N + e - 1) / e = c at *
  generalize (N + e - 1) % e = r at *
  have hqe := Nat.div_add_mod q e
  have hqr := Nat.mod_lt q he
  generalize q / e = a at *
  generalize q % e = b at *
  have hexcess : q * (e - 1 - r) < N := by
    rw [hscale]
    exact Nat.lt_of_le_of_lt (Nat.mul_le_mul_left q (by omega : e - 1 - r ≤ 2 ^ l))
      (Nat.mul_lt_mul_of_pos_right hq (Nat.two_pow_pos l))
  have hce : e * c = N + (e - 1 - r) := by omega
  have hproduct : e * (q * c) = q * N + q * (e - 1 - r) := by rw [Nat.mul_left_comm, hce, Nat.mul_add]
  have hNpos : 0 < N := hscale ▸ Nat.mul_pos (by decide) (Nat.two_pow_pos l)
  refine Nat.div_eq_of_lt_le ?_ ?_
  · refine Nat.le_of_mul_le_mul_left (?_ : e * (a * N) ≤ e * (q * c)) he
    rw [hproduct, ← hqe, ← Nat.mul_assoc, Nat.add_mul, Nat.add_assoc]
    exact Nat.le_add_right _ _
  · refine Nat.lt_of_mul_lt_mul_left (a := e) ?_
    rw [hproduct, ← Nat.mul_assoc, Nat.mul_add, Nat.mul_one]
    calc q * N + q * (e - 1 - r) < q * N + N := Nat.add_lt_add_left hexcess _
      _ = (q + 1) * N := (Nat.succ_mul q N).symm
      _ ≤ (e * a + e) * N := Nat.mul_le_mul_right N (by omega)

theorem le_two_pow_scale (e : Nat) : e ≤ 2 ^ (Extent.ofWord e).l := by
  rw [Extent.ofWord]
  dsimp only
  split
  · rwa [pow_zero]
  · have := Nat.lt_log2_self (n := e - 1)
    omega

/-- The constants of an extent divide every 32-bit index exactly (R26). -/
theorem extent_div {e q : Nat} (he : 1 ≤ e) (hq : q < 2 ^ 32) :
    q * (Extent.ofWord e).c / 2 ^ (32 + (Extent.ofWord e).l) = q / e :=
  mul_reciprocal_div he (le_two_pow_scale e) hq

/-! ## Coordinates (R148) -/

/-- A list of valid extents, with their constants. -/
def ValidShape (es : List Extent) : Prop := ∀ e ∈ es, e = Extent.ofWord e.e.toNat ∧ 1 ≤ e.e.toNat

theorem ValidShape.div {es : List Extent} (h : ValidShape es) {e : Extent} (he : e ∈ es) {q : Nat} (hq : q < 2 ^ 32) :
    q * e.c / 2 ^ (32 + e.l) = q / e.e.toNat := by
  obtain ⟨hword, hpos⟩ := h e he
  have hdiv := extent_div hpos hq
  rwa [← hword] at hdiv

theorem extentsBelow_zero (es : List Extent) : extentsBelow es 0 = 1 := rfl

theorem extentsBelow_cons (e : Extent) (es : List Extent) (j : Nat) :
    extentsBelow (e :: es) (j + 1) = e.e.toNat * extentsBelow es j := by
  simp only [extentsBelow, List.take_succ_cons, List.map_cons, ← List.prod_eq_foldl, List.prod_cons]

theorem coordinate_zero (e : Extent) {es : List Extent} (hes : es ≠ []) (q : Nat) :
    coordinate (e :: es) q 0 = q % e.e.toNat := by
  have hlen : 0 + 1 < (e :: es).length := Nat.succ_lt_succ (List.length_pos_iff.mpr hes)
  rw [coordinate, if_pos hlen, extentsBelow_zero, Nat.div_one]
  rfl

theorem coordinate_single (e : Extent) (q : Nat) : coordinate [e] q 0 = q := by simp [coordinate, extentsBelow]

theorem coordinate_succ (e : Extent) (es : List Extent) (q j : Nat) :
    coordinate (e :: es) q (j + 1) = coordinate es (q / e.e.toNat) j := by
  rw [coordinate, coordinate, extentsBelow_cons, ← Nat.div_div_eq_div_mul]
  simp only [List.length_cons, Nat.add_lt_add_iff_right, List.getElem?_cons_succ]

theorem coordinate_le (es : List Extent) (q j : Nat) : coordinate es q j ≤ q := by
  rw [coordinate]
  split
  · exact (Nat.mod_le _ _).trans (Nat.div_le_self _ _)
  · exact Nat.div_le_self _ _

/-- The coordinates that the model computes with the constants are those of R148. -/
theorem coordsOf_getD {es : List Extent} (hes : ValidShape es) {q j : Nat} (hq : q < 2 ^ 32) (hj : j < es.length) :
    (coordsOf es q).getD j 0 = coordinate es q j := by
  induction es generalizing q j with
  | nil => exact absurd hj (Nat.not_lt_zero _)
  | cons e es ih =>
    cases es with
    | nil =>
      obtain rfl : j = 0 := by simpa using hj
      exact (coordinate_single e q).symm
    | cons e' es =>
      have hdiv := hes.div (List.mem_cons_self) hq
      have hcoords : coordsOf (e :: e' :: es) q = (q - q / e.e.toNat * e.e.toNat) :: coordsOf (e' :: es) (q / e.e.toNat) := by
        rw [coordsOf, hdiv]
        exact List.cons_ne_nil _ _
      rw [hcoords]
      cases j with
      | zero =>
        rw [coordinate_zero e (List.cons_ne_nil _ _), List.getD_cons_zero, Nat.mod_eq_sub_div_mul]
      | succ j =>
        rw [coordinate_succ, List.getD_cons_succ]
        exact ih (fun x hx => hes x (List.mem_cons_of_mem _ hx)) (Nat.lt_of_le_of_lt (Nat.div_le_self _ _) hq)
          (Nat.lt_of_succ_lt_succ hj)

/-! ## Operands -/

theorem opndCheck_of_vecOperand {h : Hart} {r : BitVec 6} {len : Nat} (hv : VecOperand h r len) (bits : Nat) :
    h.opndCheck bits r len = none := by
  obtain ⟨halign, hagree, htag, hlen⟩ := hv
  refine (h.opndCheck_eq_none bits r len).mpr ⟨halign, fun k hk => ?_, htag, hlen⟩
  obtain ⟨h1, h2, h3⟩ := hagree k hk
  simp only [Opnd.agrees, Bool.and_eq_true, decide_eq_true_eq, beq_iff_eq]
  exact ⟨⟨h1, h2⟩, h3⟩

theorem destCheck_of_vecDest {vd : BitVec 6} {t : Tag} {n g : Nat} (hv : VecDest vd t n g) (bits : Nat) :
    destCheck bits vd t n = none := (destCheck_eq_none bits vd t n).mpr ⟨g, hv⟩

theorem readPoison_of_healthy {h : Hart} (hh : Healthy h) (o : Opnd) (read : List Bool) : h.readPoison o read = [] := by
  obtain ⟨-, hpoison, -⟩ := hh
  have hclean : h.opndClean o = true := by simp [Hart.opndClean, hpoison]
  rw [Hart.readPoison, if_pos hclean]

theorem readsPoison_of_healthy {h : Hart} (hh : Healthy h) (rs : List VecRead) : h.readsPoison rs = [] := by
  simp [Hart.readsPoison, readPoison_of_healthy hh]

theorem readOperand_ordinary (h : Hart) {o : Opnd} (hdom : o.dom = 0) (hblock : tagBlock o.tag = false) (n : Nat)
    (read : List Bool) : h.readOperand o n read = ((List.range n).map fun i => .raw (h.unit o i), 0, 0) := by
  rw [Hart.readOperand, if_pos hdom, Hart.elems, hblock]
  rfl

theorem lenCheck_ordinary (h : Hart) : (⟨some 0, none, none, 0⟩ : Doms).lenCheck h = none := rfl

theorem addFlags_zero (h : Hart) : h.addFlags 0 = h := by simp [Hart.addFlags, orFlags]
theorem addRcnt_zero (h : Hart) : h.addRcnt 0 = h := by simp [Hart.addRcnt]

/-! ## Groups written one after another -/

/-- The hart with group `j` of `n` written with `units j`, one group after another from register `base` on. -/
def Hart.writeGroups (h : Hart) (base : Nat) (t : Tag) (grp len : Nat) (units : Nat → List (Option (Nat × Bool)))
    (n : Nat) : Hart :=
  (List.range n).foldl (fun h' j => h'.writeGroup (BitVec.ofNat 6 (base + j * 2 ^ grp)) t 0 grp len (units j)) h

theorem writeGroups_succ (h : Hart) (base : Nat) (t : Tag) (grp len : Nat) (units : Nat → List (Option (Nat × Bool)))
    (n : Nat) : h.writeGroups base t grp len units (n + 1) =
      (h.writeGroups base t grp len units n).writeGroup (BitVec.ofNat 6 (base + n * 2 ^ grp)) t 0 grp len (units n) := by
  rw [Hart.writeGroups, List.range_succ, List.foldl_append]
  rfl

theorem writeGroups_frame (h : Hart) (base : Nat) (t : Tag) (grp len : Nat) (units : Nat → List (Option (Nat × Bool)))
    (n : Nat) (v : Vector VReg 64) : { h.writeGroups base t grp len units n with v := v } = { h with v := v } :=
  foldl_keeps (fun x : Hart => { x with v := v })
    (fun h' j => h'.writeGroup (BitVec.ofNat 6 (base + j * 2 ^ grp)) t 0 grp len (units j))
    (fun _ _ => writeGroup_frame _ _ _ _ _ _ _ v) _ h

/-- Registers outside the groups stay. -/
theorem vreg_writeGroups_outside (h : Hart) {base : Nat} (t : Tag) {grp n : Nat} (len : Nat)
    (units : Nat → List (Option (Nat × Bool))) (hb : base + n * 2 ^ grp ≤ 64) {r : Nat}
    (hr : r < base ∨ base + n * 2 ^ grp ≤ r) : (h.writeGroups base t grp len units n).vreg r = h.vreg r := by
  induction n with
  | zero => rfl
  | succ n ih =>
    rw [Nat.succ_mul] at hb hr
    have hpos := Nat.two_pow_pos grp
    have hbase : (BitVec.ofNat 6 (base + n * 2 ^ grp)).toNat = base + n * 2 ^ grp := by
      rw [BitVec.toNat_ofNat]
      exact Nat.mod_eq_of_lt (by omega)
    rw [writeGroups_succ, vreg_writeGroup (by omega), hbase, if_neg (by omega)]
    exact ih (by omega) (by omega)

theorem unit_congr {h h' : Hart} {o : Opnd} (hv : ∀ k < o.g, h'.vreg (o.base + k) = h.vreg (o.base + k)) (i : Nat) :
    h'.unit o i = h.unit o i := by
  rw [Hart.unit, Hart.unit]
  split
  next hk => rw [hv _ hk]
  next => rfl

/-- Element `i` of group `j` is its result. -/
theorem unit_writeGroups {t : Tag} (ht : Fixed t) (h : Hart) {base grp n len : Nat}
    {units : Nat → List (Option (Nat × Bool))} (hb : base + n * 2 ^ grp ≤ 64) (hlen : len ≤ 2 ^ grp * tagCap t)
    (hunits : ∀ j, (units j).length = len) {i j : Nat} (hi : i < len) (hj : j < n) {x : Nat}
    (hx : (units j).getD i none = some (x, false)) :
    (h.writeGroups base t grp len units n).unit ⟨base + j * 2 ^ grp, t, 0, grp⟩ i = x % 2 ^ tagWidth t := by
  have hpos := Nat.two_pow_pos grp
  have hjn : (j + 1) * 2 ^ grp ≤ n * 2 ^ grp := Nat.mul_le_mul_right _ hj
  rw [Nat.succ_mul] at hjn
  have hbase : (BitVec.ofNat 6 (base + j * 2 ^ grp)).toNat = base + j * 2 ^ grp := by
    rw [BitVec.toNat_ofNat]
    exact Nat.mod_eq_of_lt (by omega)
  induction n with
  | zero => exact absurd hj (Nat.not_lt_zero _)
  | succ n ih =>
    rcases Nat.lt_succ_iff_lt_or_eq.mp hj with hlt | rfl
    · have hgap : (j + 1) * 2 ^ grp ≤ n * 2 ^ grp := Nat.mul_le_mul_right _ hlt
      rw [Nat.succ_mul] at hb hgap
      have hlast : (BitVec.ofNat 6 (base + n * 2 ^ grp)).toNat = base + n * 2 ^ grp := by
        rw [BitVec.toNat_ofNat]
        exact Nat.mod_eq_of_lt (by omega)
      rw [← ih (by omega) hlt hgap, writeGroups_succ]
      refine unit_congr (fun k hk => ?_) i
      have hk' : k < 2 ^ grp := hk
      rw [vreg_writeGroup (by omega), hlast, if_neg (by dsimp only; omega)]
    · rw [writeGroups_succ]
      have hw := unit_writeGroup ht (vd := BitVec.ofNat 6 (base + j * 2 ^ grp)) (grp := grp) (by omega)
        (h.writeGroups base t grp len units j) 0 (hunits j) (Nat.lt_of_lt_of_le hi hlen)
      simp only [hbase] at hw
      rw [hw, if_pos hi, Hart.writtenUnit, hx]
      rfl

/-! ## `vtidx` (R146, R148) -/

theorem fixed_u32 : Fixed .u32 := ⟨rfl, by decide⟩

/-- The results of `vtidx` for coordinate `j`. -/
def indexUnits (es : List Extent) (h : Hart) (o : Opnd) (vl j : Nat) : List (Option (Nat × Bool)) :=
  (((List.range vl).map fun i => Elem.raw (h.unit o i)).map fun x => coordsOf es (x.bits % 2 ^ 32)).map
    fun c => some (c.getD j 0 % 2 ^ 32, false)

theorem indexUnits_length (es : List Extent) (h : Hart) (o : Opnd) (vl j : Nat) :
    (indexUnits es h o vl j).length = vl := by simp [indexUnits]

theorem indexUnits_getD {es : List Extent} (hes : ValidShape es) (h : Hart) (o : Opnd) {vl i j : Nat} (hi : i < vl)
    (hj : j < es.length) : (indexUnits es h o vl j).getD i none = some (coordinate es (h.unit o i % 2 ^ 32) j, false) := by
  have hq := Nat.mod_lt (h.unit o i) (Nat.two_pow_pos 32)
  have hc : (coordsOf es (h.unit o i % 2 ^ 32)).getD j 0 % 2 ^ 32 = coordinate es (h.unit o i % 2 ^ 32) j := by
    rw [coordsOf_getD hes hq hj]
    exact Nat.mod_eq_of_lt (Nat.lt_of_le_of_lt (coordinate_le _ _ _) hq)
  rw [← hc, List.getD_eq_getElem _ _ (by rwa [indexUnits_length])]
  simp only [indexUnits, List.getElem_map, List.getElem_range, Elem.bits]

theorem vtidx_writes (vd va : BitVec 6) (k : BitVec 4) (g : Nat) (s : State) (hh : Healthy s.cur) :
    let es := s.cur.shapes.getD k.toNat []
    let a := s.cur.opnd va
    let vl := s.cur.csr.vl.toNat
    VecOperand s.cur va vl → tagFamily a.tag = .int → a.dom = 0 → es ≠ [] → VecDest vd .u32 vl g →
    vd.toNat + es.length * 2 ^ g ≤ 64 → ValidShape es →
    ∃ u h', exec (.vtidx vd va k) s = .next u ∧ Retires 4 h' s u ∧ { h' with v := s.cur.v } = s.cur ∧
      (∀ r, (r < vd.toNat ∨ vd.toNat + es.length * 2 ^ g ≤ r) → h'.vreg r = s.cur.vreg r) ∧
      ∀ j < es.length, let o : Opnd := ⟨vd.toNat + j * 2 ^ g, .u32, 0, g⟩
        ∀ n < vl, h'.unit o n = coordinate es (s.cur.unit a n % 2 ^ 32) j := by
  intro es a vl hva hint hdom hes hvd hroom hshape
  have hblock : tagBlock a.tag = false := by simp [tagBlock, hint]
  have hgrp : (groupFor .u32 s.cur.vl).getD 0 = g := by rw [show groupFor .u32 s.cur.vl = some g from hvd.1]; rfl
  have hempty : es.isEmpty = false := by simpa using hes
  let h' := s.cur.writeGroups vd.toNat .u32 g vl (indexUnits es s.cur a vl) es.length
  have hframe : { h' with v := s.cur.v } = s.cur := writeGroups_frame s.cur _ _ _ _ _ _ _
  have hexec : exec (.vtidx vd va k) s = execVtidx vd va k s := rfl
  have hread := readOperand_ordinary s.cur hdom hblock vl (List.replicate vl true)
  have hchk (bits : Nat) : firstTrap [s.cur.opndCheck bits va s.cur.vl, failIf (tagFamily a.tag != .int) (trapTAG bits),
      failIf es.isEmpty (trapILL bits), destCheck bits vd .u32 s.cur.vl,
      failIf (decide (64 < vd.toNat + es.length * 2 ^ g)) (trapILL bits),
      Doms.lenCheck { va := some a.dom, vb := none, vd := none } s.cur,
      poisonTrap (s.cur.readsPoison [⟨a, s.cur.vl, List.replicate s.cur.vl true, true⟩])] = none := by
    rw [firstTrap_eq_none]
    simp only [List.mem_cons, List.not_mem_nil, or_false, forall_eq_or_imp, forall_eq]
    refine ⟨opndCheck_of_vecOperand hva bits, ?_, ?_, destCheck_of_vecDest hvd bits, ?_, ?_, ?_⟩
    · rw [hint]; rfl
    · rw [hempty]; rfl
    · rw [decide_eq_false (by omega)]; rfl
    · rw [hdom]; rfl
    · rw [readsPoison_of_healthy hh]; rfl
  have hend : exec (.vtidx vd va k) s = .next (retire 4 (s.setCur h')) := by
    rw [hexec]
    simp only [execVtidx, hgrp]
    rw [show s.cur.readOperand (s.cur.opnd va) s.cur.vl (List.replicate s.cur.vl true) = _ from hread,
      addFlags_zero, addRcnt_zero]
    rw [show firstTrap _ = none from hchk _]
    rfl
  refine ⟨_, h', hend, retires_retire 4 h' rfl ?_ ?_, hframe, ?_, ?_⟩
  · exact (congrArg Hart.pc hframe :)
  · exact (congrArg Hart.core hframe :)
  · intro r hr
    exact vreg_writeGroups_outside s.cur .u32 vl _ hroom hr
  · intro j hj o n hn
    have hlen : vl ≤ 2 ^ g * tagCap .u32 := VecDest.room hvd
    rw [unit_writeGroups fixed_u32 s.cur hroom hlen (indexUnits_length es s.cur a vl) hn hj
      (indexUnits_getD hshape s.cur a hn hj)]
    exact Nat.mod_eq_of_lt (Nat.lt_of_le_of_lt (coordinate_le _ _ _) (Nat.mod_lt _ (Nat.two_pow_pos 32)))

end Sys2Proof.Machine
end


-- ==== Sys2Proof/Proofs/Accesses.lean ====
section
/-! SUPPORT. What checking, translating and counting an access changes (R255, R261, R264, R265, R288, R364): one relation, kept
by each operation on the way, from which the frames of the statements follow. -/

namespace Sys2Proof.Machine

open Sys2Proof.Claims

/-! ## The relation -/

/-- The hart `h` with what an access may change of a context put back as in `g`: its cached translations, the banks that it
awaits, its counters. -/
def Hart.asBefore (h g : Hart) : Hart :=
  { h with
    utlb := g.utlb, woken := g.woken
    csr := { h.csr with
      reqloc := g.csr.reqloc, reqrem := g.csr.reqrem, wakes := g.csr.wakes, rmwc := g.csr.rmwc } }

/-- The state `t` with what an access may change outside its context's core put back as in `s`. -/
def State.asBefore (t s : State) : State :=
  { t with
    cur := s.cur, cores := s.cores, ptes := s.ptes, banks := s.banks, raa := s.raa, buses := s.buses, fresh := s.fresh }

/-- A bank after an access of the context `h`: its power may differ, and the pins of `h` when its phase keeps any. -/
def BankKept (h : Hart) (b b' : Bank) : Prop :=
  { b' with power := .act, pins := [] } = { b with power := .act, pins := [] } ∧
    (∀ k, k ≠ h.key → (k ∈ b'.pins ↔ k ∈ b.pins)) ∧ (h.pins = false → b'.pins = b.pins)

/-- A page table entry after an access: `A` and `D` may be set (R288). -/
def PteKept (e e' : Pte) : Prop := e'.dw1 = e.dw1 ∧ e'.dw2 = e.dw2 ∧ e'.dw0 ||| 6 = e.dw0 ||| 6

/-- What checking, translating and counting the accesses of the running context may change. -/
structure Accessed (s t : State) : Prop where
  rest : t.asBefore s = s
  hart : t.cur.asBefore s.cur = s.cur
  entries : ∀ p f, PteKept (s.pte p f) (t.pte p f)
  banks : s.cur.pins = false ∨ twf .reset s.banks = true → ∀ b, BankKept s.cur (s.bank b) (t.bank b)
  wf : twf .reset s.banks = true → twf .reset t.banks = true
  buses : ∀ n, t.bus n = s.bus n ∨ t.bus n = { s.bus n with quiesced := false }
  others : ∀ c, c ≠ own s → t.core c = s.core c
  self : { t.core (own s) with gtlb := (s.core (own s)).gtlb, bufs := (s.core (own s)).bufs } = s.core (own s)

theorem BankKept.refl (h : Hart) (b : Bank) : BankKept h b b := ⟨rfl, fun _ _ => Iff.rfl, fun _ => rfl⟩

theorem BankKept.trans {h : Hart} {a b c : Bank} (hab : BankKept h a b) (hbc : BankKept h b c) : BankKept h a c := by
  obtain ⟨h1, h2, h3⟩ := hab
  obtain ⟨g1, g2, g3⟩ := hbc
  exact ⟨g1.trans h1, fun k hk => (g2 k hk).trans (h2 k hk), fun hp => (g3 hp).trans (h3 hp)⟩

theorem PteKept.refl (e : Pte) : PteKept e e := ⟨rfl, rfl, rfl⟩

theorem PteKept.trans {a b c : Pte} (hab : PteKept a b) (hbc : PteKept b c) : PteKept a c := by
  obtain ⟨h1, h2, h3⟩ := hab
  obtain ⟨g1, g2, g3⟩ := hbc
  exact ⟨g1.trans h1, g2.trans h2, g3.trans h3⟩

/-- A hart that agrees so far has the status, the phase, the key and the core that it had. -/
theorem Hart.asBefore_keeps {h g : Hart} (hg : h.asBefore g = g) : h.key = g.key ∧ h.pins = g.pins ∧ h.core = g.core ∧
    h.part = g.part ∧ h.status = g.status ∧ h.spad = g.spad := by
  have hpins : (h.asBefore g).pins = h.pins := rfl
  exact ⟨(congrArg Hart.key hg :), hpins ▸ (congrArg Hart.pins hg :), (congrArg Hart.core hg :), (congrArg Hart.part hg :),
    (congrArg Hart.status hg :), (congrArg Hart.spad hg :)⟩

theorem BankKept.of_hart {h g : Hart} (hg : h.asBefore g = g) {b b' : Bank} (hb : BankKept h b b') : BankKept g b b' := by
  obtain ⟨hkey, hpins, -⟩ := Hart.asBefore_keeps hg
  obtain ⟨h1, h2, h3⟩ := hb
  exact ⟨h1, fun k hk => h2 k (hkey ▸ hk), fun hp => h3 (hpins.trans hp)⟩

namespace Accessed

variable {s t u : State}

theorem refl (s : State) : Accessed s s :=
  ⟨rfl, rfl, fun _ _ => .refl _, fun _ _ => .refl _ _, id, fun _ => .inl rfl, fun _ _ => rfl, rfl⟩

theorem own_eq (h : Accessed s t) : own t = own s := by
  obtain ⟨-, -, hcore, -⟩ := Hart.asBefore_keeps h.hart
  exact congrArg BitVec.toNat hcore

theorem trans (h : Accessed s t) (g : Accessed t u) : Accessed s u where
  rest := (congrArg (fun x : State => x.asBefore s) g.rest).trans h.rest
  hart := (congrArg (fun x : Hart => x.asBefore s.cur) g.hart).trans h.hart
  entries p f := (h.entries p f).trans (g.entries p f)
  banks hp b := by
    obtain ⟨-, hpins, -⟩ := Hart.asBefore_keeps h.hart
    exact (h.banks hp b).trans ((g.banks (hp.imp (fun hp => hpins.trans hp) h.wf) b).of_hart h.hart)
  wf hw := g.wf (h.wf hw)
  buses n := by
    rcases g.buses n with hg | hg <;> rcases h.buses n with hh | hh <;> simp [hg, hh]
  others c hc := (g.others c (h.own_eq.symm ▸ hc)).trans (h.others c hc)
  self := by
    have hg := g.self
    rw [h.own_eq] at hg
    exact (congrArg (fun k : CoreState =>
      { k with gtlb := (s.core (own s)).gtlb, bufs := (s.core (own s)).bufs }) hg).trans h.self

theorem foldl {α : Type} (f : State → α → State) (hf : ∀ s a, Accessed s (f s a)) (l : List α) (s : State) :
    Accessed s (l.foldl f s) := by
  induction l generalizing s with
  | nil => exact .refl s
  | cons a l ih => exact (hf s a).trans (ih _)

/-! ## One operation each -/

theorem draw (s : State) : Accessed s s.draw.2 := { Accessed.refl s with }

theorem setBank {b : Nat} {v : Bank} (hv : BankKept s.cur (s.bank b) v) : Accessed s (s.setBank b v) :=
  { Accessed.refl s with
    banks := fun _ c => by
      rw [State.bank_setBank]
      split
      next hc => exact hc ▸ hv
      next => exact .refl _ _
    wf := fun hw => twf_tset b v hw }

theorem setPte {t f : Nat} {v : Pte} (hv : PteKept (s.pte t f) v) : Accessed s (s.setPte t f v) :=
  { Accessed.refl s with
    entries := fun p g => by
      have hget : (s.setPte t f v).pte p g = if frameKey p g = frameKey t f then v else s.pte p g := tget_tset _ _ _ _ _
      rw [hget]
      split
      next hk => rw [State.pte, hk]; exact hv
      next => exact .refl _ }

/-- The running context's own core with other cached translations and buffer entries. -/
theorem setOwn {c : Nat} (hc : c = own s) (gtlb : List TlbEntry) (bufs : List BufEntry) :
    Accessed s (s.setCore c { s.core c with gtlb := gtlb, bufs := bufs }) :=
  { Accessed.refl s with
    others := fun d hd => tget_tset_ne _ _ _ (hc ▸ hd)
    self := by rw [hc, State.core_setCore_self] }

/-- The running context with other cached translations, awaited banks and counters. -/
theorem setCur {h : Hart} (hh : h.asBefore s.cur = s.cur) : Accessed s (s.setCur h) := { Accessed.refl s with hart := hh }

theorem addRaa (s : State) (b : Nat) : Accessed s (s.addRaa b) := by
  unfold State.addRaa
  dsimp only
  split
  · exact .refl s
  · exact { Accessed.refl s with }

theorem releaseBus (s : State) (b : Nat) : Accessed s (s.releaseBus b) := by
  unfold State.releaseBus
  dsimp only
  split
  · exact { Accessed.refl s with
      buses := fun n => by
        rw [State.bus_setBus]
        split
        next hn => exact .inr (hn ▸ rfl)
        next => exact .inl rfl }
  · exact .refl s

theorem activate (s : State) (bs : List Nat) : Accessed s (s.activate bs) := by
  refine foldl _ (fun s b => ?_) bs s
  refine Accessed.trans (t := if (s.bank b).power == .act then s else s.setBank b { s.bank b with power := .act }) ?_
    ((addRaa _ b).trans (releaseBus _ b))
  split
  · exact .refl s
  · exact setBank ⟨rfl, fun _ _ => Iff.rfl, fun _ => rfl⟩

end Accessed

end Sys2Proof.Machine
end


-- ==== Sys2Proof/Proofs/Translations.lean ====
section
/-! SUPPORT. The operations of an access keep the relation of accesses: entries in use (R255), translations (R288), pieces,
checks (R112), pins (R265) and counts (R264). -/

namespace Sys2Proof.Machine

open Sys2Proof.Claims

/-! ## The parts of a translation -/

/-- The cached copy that a translation finds (R288). -/
def State.tlbHit (s : State) (gather : Bool) (k : PageKey) : Option TlbEntry :=
  (if gather then none else s.cur.utlb.find? (·.has k)).or ((s.core s.cur.core.toNat).gtlb.find? (·.has k))

/-- Whether a translation uses the copy that it has found, and the state with a number drawn where that is free. -/
def State.tlbChoice (s : State) (k : PageKey) : Option TlbEntry → Bool × State
  | none => (false, s)
  | some e => if s.walk k = some e.f then (true, s) else (s.draw.1 % 2 == 1, s.draw.2)

/-- A translation by a cached copy, or by a walk that has found `now`. -/
def State.translateBy (s : State) (gather : Bool) (k : PageKey) (wr : Bool) (now : Option Nat) :
    Option TlbEntry → Option Nat × State
  | some e =>
    let f := if (s.pte e.t e.f).has k then some e.f else now
    let s1 := match f with
      | none => s
      | some f => if e.a && (e.d || !wr) then s else s.setPte e.t f ((s.pte e.t f).touch (!e.a) (wr && !e.d))
    (some e.f, s1.fillTlb gather { e with a := true, d := e.d || wr } k)
  | none =>
    match now with
    | none => (none, s)
    | some f =>
      let t := chanTable k.ch
      let e : TlbEntry := ⟨k.part, BitVec.ofNat 32 k.owner, k.buf, k.ch, k.cp, t, f, true, (s.pte t f).d || wr⟩
      (some f, (s.setPte t f ((s.pte t f).touch true wr)).fillTlb false e k)

theorem translate_eq (s : State) (gather : Bool) (k : PageKey) (wr : Bool) :
    s.translate gather k wr =
      (s.tlbChoice k (s.tlbHit gather k)).2.translateBy gather k wr (s.walk k)
        (if (s.tlbChoice k (s.tlbHit gather k)).1 then s.tlbHit gather k else none) := by
  rfl

namespace Accessed

variable {s t u : State}

/-! ## Entries in use (R255) -/

theorem cacheEntry (s : State) (e : BufEntry) : Accessed s (s.cacheEntry e) := by
  have hact := activate s (s.portBanks s.cur.core.toNat e.part (e.base.toNat + 32 * e.idx) 32)
  exact hact.trans (setOwn hact.own_eq.symm _ _)

theorem bufEntry (s : State) (idx : Nat) : Accessed s (s.bufEntry idx).2 := by
  unfold State.bufEntry
  dsimp only
  split
  · exact cacheEntry s _
  · split
    · exact .refl s
    · split
      · exact draw s
      · exact (draw s).trans (cacheEntry _ _)

theorem space (s : State) (idx : Nat) : Accessed s (s.space idx).2 := by
  have hentry := bufEntry s idx
  unfold State.space
  split_ifs
  iterate 6 exact .refl s
  dsimp only
  split
  · exact hentry
  · split
    · exact hentry
    · exact hentry

/-! ## Translations (R288) -/

theorem fillTlb (s : State) (gather : Bool) (e : TlbEntry) (k : PageKey) : Accessed s (s.fillTlb gather e k) := by
  unfold State.fillTlb
  dsimp only
  split
  · exact setOwn rfl _ _
  · exact (setOwn rfl _ _).trans (setCur rfl)

theorem pteKept_touch (e : Pte) (a d : Bool) : PteKept e (e.touch a d) := by
  refine ⟨rfl, rfl, ?_⟩
  cases a <;> cases d <;> simp [Pte.touch, BitVec.or_assoc]

theorem touchPte (s : State) (t f : Nat) (a d : Bool) : Accessed s (s.setPte t f ((s.pte t f).touch a d)) :=
  setPte (pteKept_touch _ a d)

theorem translate (s : State) (gather : Bool) (k : PageKey) (wr : Bool) : Accessed s (s.translate gather k wr).2 := by
  rw [translate_eq]
  have hchoice : Accessed s (s.tlbChoice k (s.tlbHit gather k)).2 := by
    unfold State.tlbChoice
    split
    · exact .refl s
    · split
      · exact .refl s
      · exact draw s
  refine hchoice.trans ?_
  generalize (s.tlbChoice k (s.tlbHit gather k)).2 = s0
  unfold State.translateBy
  split
  · refine Accessed.trans ?_ (fillTlb _ _ _ _)
    split
    · exact .refl s0
    · split
      · exact .refl s0
      · exact touchPte s0 _ _ _ _
  · split
    · exact .refl s0
    next f _ =>
      dsimp only
      exact (touchPte s0 (chanTable k.ch) f true wr).trans (fillTlb _ _ _ _)

theorem pageFrame (s : State) (m : Pages) (gather : Bool) (k : PageKey) (wr : Bool) :
    Accessed s (s.pageFrame m gather k wr).2.2 := by
  unfold State.pageFrame
  split
  · exact .refl s
  · exact translate s gather k wr

theorem locatePiece (s : State) (m : Pages) (gather : Bool) (idx : Nat) (sp : Space) (wr : Bool) (off : Nat) :
    Accessed s (s.locatePiece m gather idx sp wr off).2.2 := by
  unfold State.locatePiece
  split
  iterate 7 exact .refl s
  exact pageFrame s _ _ _ _

theorem locatePieces (m : Pages) (gather : Bool) (idx : Nat) (sp : Space) (wr : Bool) (coords : List Nat)
    (cuts : List (Nat × Nat)) (s : State) : Accessed s (s.locatePieces m gather idx sp wr coords cuts).2 := by
  induction cuts generalizing s m with
  | nil => exact .refl s
  | cons c cuts ih =>
    obtain ⟨off, n⟩ := c
    have hpiece := locatePiece s m gather idx sp wr off
    rw [State.locatePieces]
    split
    next heq => rw [heq] at hpiece; exact hpiece
    next l m1 s1 heq =>
      rw [heq] at hpiece
      have hrest := ih m1 s1
      split
      next heq2 => rw [heq2] at hrest; exact hpiece.trans hrest
      next heq2 => rw [heq2] at hrest; exact hpiece.trans hrest

theorem reach (s : State) (m : Pages) (gather : Bool) (a : Access1) (sp : Space) (coords : List Nat) :
    Accessed s (s.reach m gather a sp coords).2 := by
  unfold State.reach
  split
  · exact .refl s
  · have hpieces := locatePieces m gather a.idx sp a.kind.writes coords (lineCuts a.off.toNat a.n) s
    split
    next heq => rw [heq] at hpieces; exact hpieces
    next heq => rw [heq] at hpieces; exact hpieces

end Accessed

/-! ## Results of accesses -/

theorem MemRes.bind_eq_ok {α β : Type} {r : MemRes α} {f : α → State → MemRes β} {b : β} {t : State} :
    r.bind f = .ok b t ↔ ∃ a s, r = .ok a s ∧ f a s = .ok b t := by
  cases r <;> simp [MemRes.bind]

/-! ## Admitted pieces (R347) -/

/-- Pieces that all lie in package memory after the check of the access tables: none was refused, and nothing changed. -/
theorem guardPieces_pkg {s s1 : State} {m kind : Nat} {ps qs : List Piece1} (h : s.guardPieces m kind ps = (qs, s1))
    (hq : ∀ p ∈ qs, ∃ pa, p.loc = .pkg pa) : qs = ps ∧ s1 = s := by
  unfold State.guardPieces at h
  split at h
  · obtain ⟨rfl, rfl⟩ := Prod.mk.inj h
    exact ⟨rfl, rfl⟩
  · next hall =>
    obtain ⟨rfl, -⟩ := Prod.mk.inj h
    refine absurd (List.all_eq_true.mpr fun p hp => ?_) hall
    obtain ⟨pa, hloc⟩ := hq _ (List.mem_map_of_mem hp)
    by_contra hno
    rw [if_neg hno] at hloc
    exact Loc.noConfusion hloc

namespace Accessed

variable {s t u : State}

theorem reachUnitBy {master : Nat} {m m1 : Pages} {p : AccSpec} {sp : Space} {a : UnitAcc} {s s1 : State}
    {ps : List Piece1} (h : s.reachUnitBy master m p sp a = .ok (ps, m1) s1) (hp : ∀ q ∈ ps, ∃ pa, q.loc = .pkg pa) :
    Accessed s s1 := by
  unfold State.reachUnitBy at h
  have hreach := reach s m p.gather ⟨p.idx, a.off, a.n, a.align, p.kind, p.dword, p.codeOk⟩ sp a.coords
  split at h
  · exact nomatch h
  · next qs m2 s2 heq =>
    rw [heq] at hreach
    generalize hg : s2.guardPieces master p.kind.request qs = r at h
    obtain ⟨rs, s3⟩ := r
    obtain ⟨hpair, rfl⟩ := MemRes.ok.inj h
    obtain ⟨rfl, -⟩ := Prod.mk.inj hpair
    obtain ⟨-, rfl⟩ := guardPieces_pkg hg hp
    exact hreach

theorem reachOne {p : AccSpec} {a : UnitAcc} {s s1 : State} {sp : Space} {ps : List Piece1}
    (h : s.reachOne p a = .ok (sp, ps) s1) (hp : ∀ q ∈ ps, ∃ pa, q.loc = .pkg pa) : Accessed s s1 := by
  unfold State.reachOne State.reachOneBy at h
  obtain ⟨r, s2, hfound, hend⟩ := MemRes.bind_eq_ok.mp h
  obtain ⟨hpair, rfl⟩ := MemRes.ok.inj hend
  obtain ⟨-, rfl⟩ := Prod.mk.inj hpair
  obtain ⟨r, s3, hunit, hend⟩ := MemRes.bind_eq_ok.mp hfound
  obtain ⟨rfl, rfl⟩ := MemRes.ok.inj hend
  exact (space s p.idx).trans (reachUnitBy hunit hp)

/-! ## Pins and counts (R263-R265) -/

theorem pinned (hp : s.cur.pins = true) (b : Nat) (burst : Bool) :
    Accessed s (s.setBank b ((s.bank b).pin [s.cur.key] burst)) := by
  refine setBank ⟨rfl, fun k hk => ?_, fun hno => absurd (hp.symm.trans hno) (by decide)⟩
  simp [Bank.pin, hk]

end Accessed

/-- A table with each value changed, and what becomes the default left out: every entry reads as changed. -/
theorem tget_map_filter {α : Type} [DecidableEq α] {d : α} {t : List (Nat × α)} (ht : twf d t = true) (f : Nat → α → α)
    (hd : ∀ k, f k d = d) (k : Nat) :
    tget d ((t.map fun c => (c.1, f c.1 c.2)).filter fun c => decide (c.2 ≠ d)) k = f k (tget d t k) := by
  rw [twf_iff] at ht
  obtain ⟨-, hsorted⟩ := ht
  induction t with
  | nil => exact (hd k).symm
  | cons c t ih =>
    obtain ⟨j, v⟩ := c
    obtain ⟨hfirst, hrest⟩ := List.pairwise_cons.mp hsorted
    have hih := ih hrest
    have habsent : j = k → tget d t k = d := by
      rintro rfl
      refine (tget_mem d t j).resolve_right fun hmem => ?_
      exact Nat.lt_irrefl _ (hfirst (j, tget d t j) hmem)
    by_cases hdrop : f j v = d <;> by_cases hj : j = k
    · rw [List.map_cons, List.filter_cons_of_neg (by simpa using hdrop), hih, habsent hj, hd]
      subst hj
      simp [tget, hdrop]
    · rw [List.map_cons, List.filter_cons_of_neg (by simpa using hdrop), hih]
      simp [tget, hj]
    · rw [List.map_cons, List.filter_cons_of_pos (by simpa using hdrop)]
      subst hj
      simp [tget]
    · rw [List.map_cons, List.filter_cons_of_pos (by simpa using hdrop)]
      rw [tget, if_neg hj, tget, if_neg hj, hih]

theorem twf_map_filter {α : Type} [DecidableEq α] {d : α} {t : List (Nat × α)} (ht : twf d t = true) (f : Nat → α → α) :
    twf d ((t.map fun c => (c.1, f c.1 c.2)).filter fun c => decide (c.2 ≠ d)) = true := by
  rw [twf_iff] at ht ⊢
  obtain ⟨-, hsorted⟩ := ht
  refine ⟨fun c hc => by simpa using (List.mem_filter.mp hc).2, List.Pairwise.filter _ ?_⟩
  rw [List.pairwise_map]
  exact hsorted

/-- A bank of the context `key` with its pin, when its phase covers it no more, dropped. -/
def Bank.uncovered (key : CtxKey) (cov : List Nat) (b : Nat) (e : Bank) : Bank :=
  { e with pins := e.pins.filter fun k => decide (k ≠ key) || cov.contains b }

namespace Accessed

variable {s t u : State}

theorem dropUncovered (hp : s.cur.pins = true) (cov : List Nat) :
    Accessed s { s with
      banks := (s.banks.map fun c => (c.1, Bank.uncovered s.cur.key cov c.1 c.2)).filter fun c => decide (c.2 ≠ .reset) } :=
  { Accessed.refl s with
    banks := fun hw b => by
      have htwf : twf .reset s.banks = true := hw.resolve_left (by rw [hp]; decide)
      have hget := tget_map_filter htwf (Bank.uncovered s.cur.key cov) (fun _ => rfl) b
      show BankKept s.cur (s.bank b) (tget .reset _ b)
      rw [hget]
      refine ⟨rfl, fun k hk => ?_, fun hno => absurd (hp.symm.trans hno) (by decide)⟩
      simp [Bank.uncovered, State.bank, hk]
    wf := fun hw => twf_map_filter hw _ }

theorem repin (hp : s.cur.pins = true) : Accessed s (s.repin s.cur) := by
  have hfold (cov : List Nat) (burst : Bool) (s : State) (t : State) (hcur : t.cur = s.cur) (hp : s.cur.pins = true) :
      Accessed t (cov.foldl (fun u b => u.setBank b ((u.bank b).pin [s.cur.key] burst)) t) := by
    induction cov generalizing t with
    | nil => exact .refl t
    | cons b cov ih =>
      have hpin := pinned (s := t) (hcur ▸ hp) b burst
      rw [hcur] at hpin
      exact hpin.trans (ih _ hcur)
  exact (dropUncovered hp (s.coveredBanks s.cur)).trans (hfold _ _ s _ rfl hp)

theorem wakeBanks (s : State) (bs : List Nat) : Accessed s (s.wakeBanks bs) := by
  have hpins : Accessed s (if s.cur.pins then s.repin s.cur else s) := by
    split
    next hp => exact repin hp
    next => exact .refl s
  unfold State.wakeBanks
  generalize (if s.cur.pins then s.repin s.cur else s) = s0 at *
  exact (hpins.trans (activate s0 bs)).trans (setCur rfl)

theorem count (s : State) (idx : Nat) (ps written : List Piece1) : Accessed s (s.count idx ps written) := by
  have hwake := wakeBanks s (pieceBanks ps)
  have hcount (u : State) : Accessed u (u.setCur ((countLines idx ps u.cur).addRmwc (partGranules written))) := setCur rfl
  exact hwake.trans (hcount _)

end Accessed

end Sys2Proof.Machine
end


-- ==== Sys2Proof/Proofs/AccessFrames.lean ====
section
/-! SUPPORT. What an instruction that accesses memory leaves unchanged, in the words of the statements; and reads of pieces
of package memory (R272, R323). -/

namespace Sys2Proof.Machine

open Sys2Proof.Claims

/-! ## Bytes -/

/-- What the bytes that a core reads depend on. -/
theorem coreByte_congr_codes {s t : State} {c : Nat} (hmem : t.mem = s.mem) (hhome : t.home = s.home)
    (hcodes : ∀ p f, (t.frame p f).codes = (s.frame p f).codes) (hl1 : (t.core c).l1 = (s.core c).l1) (a : Nat) :
    t.coreByte c a = s.coreByte c a := by
  have hcode (pa : Nat) : t.codeOf pa = s.codeOf pa := by rw [State.codeOf, State.codeOf, hcodes]
  have hgranule (g : Nat) : t.granule g = s.granule g := by rw [State.granule, State.granule, hcode, hmem]
  have hbank (pa : Nat) : t.bankByte pa = s.bankByte pa := by rw [State.bankByte, State.bankByte, hcode, hgranule, hmem]
  rw [State.coreByte, State.coreByte, State.homeByte, State.homeByte, hbank, hhome, hl1]

theorem coreByte_congr {s t : State} {c : Nat} (hmem : t.mem = s.mem) (hhome : t.home = s.home) (hframes : t.frames = s.frames)
    (hl1 : (t.core c).l1 = (s.core c).l1) (a : Nat) : t.coreByte c a = s.coreByte c a :=
  coreByte_congr_codes hmem hhome (fun p f => by rw [State.frame, State.frame, hframes]) hl1 a

namespace Accessed

variable {s u t : State}

theorem l1 (h : Accessed s u) (c : Nat) : (u.core c).l1 = (s.core c).l1 := by
  by_cases hc : c = own s
  · rw [hc]
    exact (congrArg CoreState.l1 h.self :)
  · rw [h.others c hc]

theorem coreByte (h : Accessed s u) (c a : Nat) : u.coreByte c a = s.coreByte c a :=
  coreByte_congr (s := s) (t := u) (congrArg State.mem h.rest :) (congrArg State.home h.rest :)
    (congrArg State.frames h.rest :) (h.l1 c) a

theorem poison_eq (h : Accessed s u) : u.poison = s.poison := (congrArg State.poison h.rest :)

/-- The frame of an access that retires. -/
theorem touches (h : Accessed s u) (hrest : { t with cur := u.cur, cores := u.cores } = u)
    (hcores : ∀ c, t.core c = if c = own s then { u.core c with instret := (u.core c).instret + 1 } else u.core c) :
    Touches s t where
  rest := by
    have hu := (congrArg (fun x : State => x.asBefore s) hrest).trans h.rest
    have hhome : s.home = u.home := (congrArg State.home h.rest :).symm
    have hothers : s.rest = u.rest := (congrArg State.rest h.rest :).symm
    have hthome : t.home = u.home := (congrArg State.home hrest :)
    have htothers : t.rest = u.rest := (congrArg State.rest hrest :)
    rw [hhome, hothers, ← hthome, ← htothers]
    exact hu
  entries p f := by
    obtain ⟨h1, h2, h3⟩ := h.entries p f
    have hpte : t.pte p f = u.pte p f := (congrArg (fun x : State => x.pte p f) hrest :)
    rw [hpte]
    exact ⟨h1, h2, h3⟩
  banks hp b := by
    have hbank : t.bank b = u.bank b := (congrArg (fun x : State => x.bank b) hrest :)
    rw [hbank]
    exact h.banks hp b
  buses n := by
    have hbus : t.bus n = u.bus n := (congrArg (fun x : State => x.bus n) hrest :)
    rw [hbus]
    exact h.buses n
  harts := by
    have hothers : t.rest = s.rest := (congrArg State.rest hrest :).trans (congrArg State.rest h.rest :)
    rw [hothers]
  others c hc := by rw [hcores, if_neg hc, h.others c hc]
  self := by
    rw [hcores, if_pos rfl]
    exact (congrArg (fun k : CoreState => { k with l1 := (s.core (own s)).l1, instret := (s.core (own s)).instret })
      h.self :)

theorem bytesSame (h : Accessed s u) (hrest : { t with cur := u.cur, cores := u.cores } = u)
    (hcores : ∀ c, t.core c = if c = own s then { u.core c with instret := (u.core c).instret + 1 } else u.core c) :
    BytesSame s t := fun a => by
  have hl1 (c : Nat) : (t.core c).l1 = (u.core c).l1 := by
    rw [hcores]
    split <;> rfl
  exact (coreByte_congr (s := u) (t := t) (congrArg State.mem hrest :) (congrArg State.home hrest :)
    (congrArg State.frames hrest :) (hl1 _) a).trans (h.coreByte _ a)

theorem instret_eq (h : Accessed s u) : (u.core (own s)).instret = (s.core (own s)).instret :=
  (congrArg CoreState.instret h.self :)

/-- Retiring counts at the core of the access. -/
theorem retire_core (h : Accessed s u) {g : Hart} (hg : g.core = u.cur.core) (len c : Nat) :
    (retire len (u.setCur g)).core c =
      if c = own s then { u.core c with instret := (u.core c).instret + 1 } else u.core c := by
  have hcore : (u.setCur g).cur.core.toNat = own s := (congrArg BitVec.toNat hg).trans h.own_eq
  exact (retireTo_core _ _ c).trans (by rw [hcore]; rfl)

/-- An access that retires: its frame, the bytes that it leaves alone, its PC and its count. -/
theorem retire (h : Accessed s u) (len : Nat) {g : Hart} (hcore : g.core = u.cur.core) (hpc : g.pc = u.cur.pc) :
    Touches s (Machine.retire len (u.setCur g)) ∧ BytesSame s (Machine.retire len (u.setCur g)) ∧
      (Machine.retire len (u.setCur g)).cur.pc = s.cur.pc + BitVec.ofNat 64 len ∧
      ((Machine.retire len (u.setCur g)).core (own s)).instret = (s.core (own s)).instret + 1 := by
  have hcores := h.retire_core hcore len
  refine ⟨h.touches rfl hcores, h.bytesSame rfl hcores, ?_, ?_⟩
  · have hspc : u.cur.pc = s.cur.pc := (congrArg Hart.pc h.hart :)
    rw [← hspc, ← hpc]
    rfl
  · rw [hcores, if_pos rfl, ← h.instret_eq]

end Accessed

/-- The frame of an access says nothing of the running context itself. -/
theorem touches_setCur {s t : State} (h : Touches s t) (g : Hart) : Touches s (t.setCur g) :=
  ⟨h.rest, h.entries, h.banks, h.buses, h.harts, h.others, h.self⟩

/-! ## Pieces of package memory read -/

/-- Every piece lies in package memory, in granules that are not poisoned. -/
def Readable (s : State) (ps : List Piece1) : Prop := ∀ p ∈ ps, ∃ pa, p.loc = .pkg pa ∧ Unpoisoned s pa p.n

theorem chain_pkg {s : State} {ps : List Piece1} (hp : ∀ p ∈ ps, ∃ pa, p.loc = .pkg pa) : s.chain ps = .ok () s := by
  have hnone (h : Hart) : h.chained ps = [] := by
    rw [Hart.chained, List.flatMap_eq_nil_iff]
    intro x _
    rw [List.map_eq_nil_iff, List.flatMap_eq_nil_iff]
    intro p hmem
    obtain ⟨pa, hloc⟩ := hp p hmem
    rw [hloc]
  rw [State.chain, hnone, List.foldl_nil, if_neg (not_not_intro rfl), hnone]
  rfl

theorem deviceReqs_pkg {ps : List Piece1} (hp : ∀ p ∈ ps, ∃ pa, p.loc = .pkg pa) (type : Nat)
    (payload : Piece1 → List Byte) : deviceReqs type ps payload = [] := by
  rw [deviceReqs, List.filterMap_eq_nil_iff]
  intro p hmem
  obtain ⟨pa, hloc⟩ := hp p hmem
  rw [hloc]

theorem askAll_pkg {s : State} {ps : List Piece1} (hp : ∀ p ∈ ps, ∃ pa, p.loc = .pkg pa) (base idx : Nat) (wr words : Bool) :
    s.askAll base idx wr words ps [] = .ok () s := by
  have hfault : s.answerFault base idx wr words ps = none := by
    unfold State.answerFault
    rw [show ps.filter _ = [] from List.filter_eq_nil_iff.mpr fun p hmem => ?_]
    · rfl
    · obtain ⟨pa, hloc⟩ := hp p hmem
      simp [hloc]
  rw [State.askAll, hfault]
  rfl

theorem coreBytes_eq (s : State) (core pa n : Nat) :
    s.coreBytes core pa n = (List.range n).map fun i => s.coreByte core (pa + i) := by
  induction n generalizing pa with
  | zero => rfl
  | succ n ih =>
    rw [State.coreBytes, ih, List.range_succ_eq_map, List.map_cons, List.map_map]
    simp [Function.comp_def, Nat.add_comm, Nat.add_left_comm]

theorem piecesBytes_pkg {s : State} {ps : List Piece1} (hp : ∀ p ∈ ps, ∃ pa, p.loc = .pkg pa) (slot : Nat) :
    s.piecesBytes slot ps = bytesAt s ps := by
  induction ps generalizing slot with
  | nil => rfl
  | cons p ps ih =>
    obtain ⟨pa, hloc⟩ := hp p List.mem_cons_self
    rw [State.piecesBytes, ih (fun q hq => hp q (List.mem_cons_of_mem _ hq)), State.pieceBytes, hloc]
    simp only [bytesAt, List.flatMap_cons, hloc, coreBytes_eq]
    rfl

theorem poisonedFill_none {s : State} {pa n : Nat} (h : Unpoisoned s pa n) (core : Nat) :
    s.poisonedFill core pa n = none := by
  unfold State.poisonedFill
  split
  · rfl
  · rw [List.find?_eq_none]
    intro a ha
    obtain ⟨i, hi, rfl⟩ := List.mem_map.mp ha
    have hmem := h (pa + i) (Nat.le_add_right _ _) (Nat.add_lt_add_left (List.mem_range.mp hi) _)
    simp [hmem]

theorem poisonedByte_none {s : State} {pa n : Nat} (h : Unpoisoned s pa n) (core : Nat) :
    s.poisonedByte core pa n = none := by
  unfold State.poisonedByte
  split
  · rfl
  · rw [List.find?_eq_none]
    intro a ha
    obtain ⟨i, hi, rfl⟩ := List.mem_map.mp ha
    have hmem := h (pa + i) (Nat.le_add_right _ _) (Nat.add_lt_add_left (List.mem_range.mp hi) _)
    simp [hmem]

theorem loadPoison_none {s : State} {ps : List Piece1} (h : Readable s ps) : s.loadPoison ps = none := by
  unfold State.loadPoison State.piecesPoison
  split
  · rfl
  · split
    · rw [List.filterMap_eq_nil_iff.mpr fun p hmem => ?_]
      · rfl
      · obtain ⟨pa, hloc, hsound⟩ := h p hmem
        simp only [hloc]
        exact poisonedByte_none hsound _
    · rw [List.filterMap_eq_nil_iff.mpr fun p hmem => ?_]
      · rfl
      · obtain ⟨pa, hloc, hsound⟩ := h p hmem
        simp only [hloc]
        exact poisonedFill_none hsound _

/-- Sound pieces of package memory read at once, and give their bytes. -/
theorem readPieces_pkg {s : State} {ps : List Piece1} (h : Readable s ps) (idx sub : Nat) :
    s.readPieces idx sub ps = .ok (bytesAt s ps) s := by
  have hp : ∀ p ∈ ps, ∃ pa, p.loc = .pkg pa := fun p hmem => (h p hmem).imp fun _ => And.left
  rw [State.readPieces, State.readPiecesAt, chain_pkg hp, MemRes.bind, deviceReqs_pkg hp, askAll_pkg hp, MemRes.bind,
    loadPoison_none h, piecesBytes_pkg hp]

end Sys2Proof.Machine
end


-- ==== Sys2Proof/Proofs/ShapeLoads.lean ====
section
/-! SUPPORT. O39: `shp.ld` (R108). -/

namespace Sys2Proof.Machine

open Sys2Proof.Claims

/-! ## Loads of package memory -/

theorem bytesAt_congr {s t : State} (hown : own t = own s) (h : ∀ c a, t.coreByte c a = s.coreByte c a) (ps : List Piece1) :
    bytesAt t ps = bytesAt s ps := by
  simp only [bytesAt, hown, h]

theorem orderBefore_plain (s : State) (ps : List Piece1) : s.orderBefore .pl .hart ps = s := rfl

/-- A plain load of sound pieces of package memory gives their bytes, and counts. -/
theorem loadOne_pkg {s s1 : State} {p : AccSpec} {a : UnitAcc} {sp : Space} {ps : List Piece1}
    (hreach : s.reachOne p a = .ok (sp, ps) s1) (hps : Readable s ps) :
    s.loadOne p .pl .hart a = .ok (bytesAt s ps) (s1.count p.idx ps []) ∧ Accessed s s1 := by
  have hacc := Accessed.reachOne hreach fun q hq => (hps q hq).imp fun _ => And.left
  have hps1 : Readable s1 ps := fun q hq => by
    obtain ⟨pa, hloc, hsound⟩ := hps q hq
    exact ⟨pa, hloc, fun x h1 h2 => hacc.poison_eq ▸ hsound x h1 h2⟩
  refine ⟨?_, hacc⟩
  rw [State.loadOne, hreach]
  dsimp only [MemRes.bind]
  rw [orderBefore_plain, readPieces_pkg hps1, bytesAt_congr hacc.own_eq hacc.coreByte]

/-! ## Shape records (R108) -/

/-- Word `j` of a record. -/
def recordWord (bs : List Byte) (j : Nat) : Nat := numberOf ((bs.drop (4 * j)).take 4)

/-- The shape entry of a record: valid when its count is 1 to 5 and no extent below it is 0. -/
theorem shapeOfRecord_eq (bs : List Byte) : shapeOfRecord bs =
    if 1 ≤ recordWord bs 0 % 8 ∧ recordWord bs 0 % 8 ≤ 5 ∧ ∀ i < recordWord bs 0 % 8, 1 ≤ recordWord bs (i + 1) then
      (List.range (recordWord bs 0 % 8)).map fun i => Extent.ofWord (recordWord bs (i + 1))
    else [] := by
  have hwords : shapeOfRecord bs =
      shapeOf (recordWord bs 0 % 8) ((List.range 5).map fun i => recordWord bs (i + 1)) := by
    simp only [shapeOfRecord, recordWord, ← numberOf_eq_leNat]
  rw [hwords]
  generalize recordWord bs 0 % 8 = n
  by_cases hn : n ≤ 5
  · have htake : ((List.range 5).map fun i => recordWord bs (i + 1)).take n =
        (List.range n).map fun i => recordWord bs (i + 1) := by
      rw [← List.map_take, List.take_range, Nat.min_eq_left hn]
    simp [shapeOf, htake, hn, List.map_map, Function.comp_def]
  · simp [shapeOf, hn]

theorem shpLd_loads (k : BitVec 4) (ra : BitVec 5) (sp : Space) (ps : List Piece1) (s s1 : State)
    (hclean : Clean s.cur [ra])
    (hreach : s.reachOne ⟨addrIdx (s.readX ra), .read, false, false, false⟩
      ⟨0, [], ((s.readX ra).toNat % 2 ^ 40 : Nat), 24, 4⟩ = .ok (sp, ps) s1) (hps : Readable s ps) :
    let w (j : Nat) : Nat := numberOf (((bytesAt s ps).drop (4 * j)).take 4)
    let n := w 0 % 8
    ∃ t, exec (.shpLd k ra) s = .next t ∧ KeepsX s t ∧ BytesSame s t ∧
      AccessStep 4 s { t with cur := { t.cur with shapes := s.cur.shapes } } ∧
      ∀ j < 16, t.cur.shapes.getD j [] = if j ≠ k.toNat then s.cur.shapes.getD j []
        else if 1 ≤ n ∧ n ≤ 5 ∧ ∀ i < n, 1 ≤ w (i + 1) then (List.range n).map fun i => Extent.ofWord (w (i + 1))
        else [] := by
  intro w n
  obtain ⟨hload, hacc⟩ := loadOne_pkg hreach hps
  have hcount := hacc.trans (Accessed.count s1 (addrIdx (s.readX ra)) ps [])
  generalize s1.count (addrIdx (s.readX ra)) ps [] = u at hload hcount
  have hexec : exec (.shpLd k ra) s = execShpLd k ra s := rfl
  have hend : exec (.shpLd k ra) s = .next (retire 4 (u.setCur { u.cur with
      shapes := u.cur.shapes.setIfInBounds k.toNat (shapeOfRecord (bytesAt s ps)) })) := by
    rw [hexec, execShpLd, (s.cur.scalarPoison_eq_none [ra]).mpr hclean, hload]
    rfl
  obtain ⟨htouches, hbytes, hpc, hinstret⟩ := hcount.retire 4 (g := { u.cur with
      shapes := u.cur.shapes.setIfInBounds k.toNat (shapeOfRecord (bytesAt s ps)) }) rfl rfl
  have hshapes : u.cur.shapes = s.cur.shapes := (congrArg Hart.shapes hcount.hart :)
  refine ⟨_, hend, ⟨(congrArg Hart.x hcount.hart :), (congrArg Hart.xPoison hcount.hart :)⟩, hbytes,
    ⟨touches_setCur htouches _, ?_, hpc, hinstret⟩, fun j hj => ?_⟩
  · exact (congrArg (fun h : Hart => { h with
      x := s.cur.x, xPoison := s.cur.xPoison, pc := s.cur.pc, answers := s.cur.answers, ifetch := s.cur.ifetch
      shapes := s.cur.shapes }) hcount.hart :)
  · show (u.cur.shapes.setIfInBounds k.toNat (shapeOfRecord (bytesAt s ps))).getD j [] = _
    by_cases hjk : j = k.toNat
    · rw [if_neg (not_not_intro hjk), hjk, vector_getD_set_self _ _ _ k.isLt]
      exact shapeOfRecord_eq _
    · rw [if_pos hjk, vector_getD_set_ne _ _ _ (Ne.symm hjk), hshapes]

/-- Settles O39: reciprocals are exact below `2 ^ 32`; a shape record read through the pieces of package memory; one group
written per coordinate. -/
theorem indices : Obligations.Indices := by
  unfold Obligations.Indices
  refine ⟨fun e q he _ hq => extent_div he hq, fun k ra sp ps s s1 hclean hreach hps => ?_, fun vd va k g s hh => ?_⟩
  · exact shpLd_loads k ra sp ps s s1 hclean hreach hps
  · exact vtidx_writes vd va k g s hh

end Sys2Proof.Machine
end


-- ==== Sys2Proof/Proofs/MatrixCompletion.lean ====
section
/-! SUPPORT. O35: what the completion of matrix instructions leaves unchanged, and which of them stay (R168, R240). -/

namespace Sys2Proof.Machine

open Sys2Proof.Claims

/-! ## Which instructions complete (R168, R169) -/

/-- A choice of instructions matters on the pending ones only. -/
theorem splitOps_congr {sel sel' : MatOp → Bool} {ops : List MatOp} (h : ∀ o ∈ ops, sel o = sel' o) :
    splitOps sel ops = splitOps sel' ops := by
  have hfold : ∀ l : List MatOp, (∀ o ∈ l, sel o = sel' o) →
      l.foldr (fun (op : MatOp) (acc : List (BitVec 3) × List MatOp × List MatOp) =>
        if op.writesTile && (sel op || acc.1.contains op.tile) then (op.tile :: acc.1, op :: acc.2.1, acc.2.2)
        else if sel op then (acc.1, op :: acc.2.1, acc.2.2)
        else (acc.1, acc.2.1, op :: acc.2.2)) ([], [], []) =
      l.foldr (fun (op : MatOp) (acc : List (BitVec 3) × List MatOp × List MatOp) =>
        if op.writesTile && (sel' op || acc.1.contains op.tile) then (op.tile :: acc.1, op :: acc.2.1, acc.2.2)
        else if sel' op then (acc.1, op :: acc.2.1, acc.2.2)
        else (acc.1, acc.2.1, op :: acc.2.2)) ([], [], []) := by
    intro l hl
    induction l with
    | nil => rfl
    | cons o l ih =>
      rw [List.foldr_cons, List.foldr_cons, ih fun x hx => hl x (List.mem_cons_of_mem _ hx), hl o List.mem_cons_self]
  unfold splitOps
  rw [hfold ops h]

/-- What completes and what stays are pending instructions; one that the choice names does not stay. -/
theorem splitOps_mem (sel : MatOp → Bool) (ops : List MatOp) :
    (∀ o ∈ (splitOps sel ops).1, o ∈ ops) ∧ ∀ o ∈ (splitOps sel ops).2, o ∈ ops ∧ sel o = false := by
  unfold splitOps
  dsimp only
  induction ops with
  | nil => simp
  | cons o ops ih =>
    obtain ⟨ih1, ih2⟩ := ih
    rw [List.foldr_cons]
    split
    · refine ⟨fun x hx => ?_, fun x hx => ?_⟩
      · rcases List.mem_cons.mp hx with rfl | hx
        · exact List.mem_cons_self
        · exact List.mem_cons_of_mem _ (ih1 x hx)
      · exact (ih2 x hx).imp (List.mem_cons_of_mem _) id
    · split
      · refine ⟨fun x hx => ?_, fun x hx => ?_⟩
        · rcases List.mem_cons.mp hx with rfl | hx
          · exact List.mem_cons_self
          · exact List.mem_cons_of_mem _ (ih1 x hx)
        · exact (ih2 x hx).imp (List.mem_cons_of_mem _) id
      · next hsel =>
        refine ⟨fun x hx => List.mem_cons_of_mem _ (ih1 x hx), fun x hx => ?_⟩
        rcases List.mem_cons.mp hx with rfl | hx
        · exact ⟨List.mem_cons_self, by simpa using hsel⟩
        · exact (ih2 x hx).imp (List.mem_cons_of_mem _) id

/-- Without an instruction that completes all stay. -/
theorem splitOps_none (sel : MatOp → Bool) (ops : List MatOp) (h : (splitOps sel ops).1 = []) :
    (splitOps sel ops).2 = ops := by
  unfold splitOps at h ⊢
  dsimp only at h ⊢
  induction ops with
  | nil => rfl
  | cons o ops ih =>
    rw [List.foldr_cons] at h ⊢
    split at h
    · exact nomatch h
    · split at h
      · exact nomatch h
      · next h1 h2 =>
        rw [if_neg h1, if_neg h2, ih h]

theorem completeOps_congr {s : State} {sel sel' : MatOp → Bool} (h : ∀ o ∈ s.cur.matq, sel o = sel' o) :
    s.completeOps sel = s.completeOps sel' := by
  unfold State.completeOps
  rw [splitOps_congr h]

/-! ## Accesses of completing instructions -/

/-- The state `t` with what the accesses of completing matrix instructions may change put back as in `s`. -/
def State.matBefore (t s : State) : State :=
  { t with
    fresh := s.fresh, cores := s.cores, home := s.home, host := s.host, banks := s.banks, raa := s.raa, buses := s.buses
    cur := { t.cur with
      spad := s.cur.spad, spadPages := s.cur.spadPages, csr := { t.cur.csr with wakes := s.cur.csr.wakes } } }

/-- What the memory accesses of completing matrix instructions change: places of the free values, banks found, and bytes. -/
structure MatAccessed (s t : State) : Prop where
  rest : t.matBefore s = s
  banks : ∀ b, { t.bank b with power := .act } = { s.bank b with power := .act }

namespace MatAccessed

variable {s t u : State}

theorem refl (s : State) : MatAccessed s s := ⟨rfl, fun _ => rfl⟩

theorem trans (h : MatAccessed s t) (g : MatAccessed t u) : MatAccessed s u :=
  ⟨(congrArg (fun x : State => x.matBefore s) g.rest).trans h.rest, fun b => (g.banks b).trans (h.banks b)⟩

theorem foldl {α : Type} (f : State → α → State) (hf : ∀ s a, MatAccessed s (f s a)) (l : List α) (s : State) :
    MatAccessed s (l.foldl f s) := by
  induction l generalizing s with
  | nil => exact .refl s
  | cons a l ih => exact (hf s a).trans (ih _)

theorem draw (s : State) : MatAccessed s s.draw.2 := ⟨rfl, fun _ => rfl⟩

theorem setBank {b : Nat} {v : Bank} (hv : { v with power := .act } = { s.bank b with power := .act }) :
    MatAccessed s (s.setBank b v) :=
  ⟨rfl, fun c => by
    rw [State.bank_setBank]
    split
    next hc => rw [hc]; exact hv
    next => rfl⟩

theorem addRaa (s : State) (b : Nat) : MatAccessed s (s.addRaa b) := by
  unfold State.addRaa
  dsimp only
  split
  · exact .refl s
  · exact ⟨rfl, fun _ => rfl⟩

theorem releaseBus (s : State) (b : Nat) : MatAccessed s (s.releaseBus b) := by
  unfold State.releaseBus
  dsimp only
  split
  · exact ⟨rfl, fun _ => rfl⟩
  · exact .refl s

theorem activate (s : State) (bs : List Nat) : MatAccessed s (s.activate bs) := by
  refine foldl _ (fun s b => ?_) bs s
  refine MatAccessed.trans (t := if (s.bank b).power == .act then s else s.setBank b { s.bank b with power := .act }) ?_
    ((addRaa _ b).trans (releaseBus _ b))
  split
  · exact .refl s
  · exact setBank rfl

theorem wakeMore (s : State) (bs : List Nat) : MatAccessed s (s.wakeMore bs) :=
  (activate s bs).trans ⟨rfl, fun _ => rfl⟩

theorem writeBytes (s : State) (atHome : Bool) (core pa : Nat) (bs : List Byte) :
    MatAccessed s (s.writeBytes atHome core pa bs) := by
  have hframe := s.writeBytes_frame atHome core pa bs s.cores s.home
  exact ⟨(congrArg (fun x : State => x.matBefore s) hframe :),
    fun b => congrArg (fun x : Bank => { x with power := .act }) (congrArg (fun x : State => x.bank b) hframe :)⟩

theorem matWrite (s : State) (x : MatSite × Word) : MatAccessed s (s.matWrite x) := by
  obtain ⟨site, w⟩ := x
  cases site with
  | pkg pa => exact writeBytes s _ _ _ _
  | scratch o =>
    have hspad (h : Hart) (bs : List Byte) : { h.writeSpad o bs with spad := h.spad, spadPages := h.spadPages } = h := by
      unfold Hart.writeSpad
      split <;> rfl
    exact ⟨congrArg (fun h : Hart => { s with cur := h }) (hspad s.cur _), fun _ => rfl⟩
  | host a => exact ⟨rfl, fun _ => rfl⟩
  | done => exact .refl s

theorem writeWords (s : State) (ws : List (MatSite × Word)) : MatAccessed s (s.writeWords ws) := by
  unfold State.writeWords
  split
  · exact .refl s
  · exact (foldl _ matWrite ws s).trans (wakeMore _ _)

theorem readLoads (s : State) (sel : MatOp → Bool) (ops : List MatOp) : MatAccessed s (s.readLoads sel ops).2 := by
  unfold State.readLoads
  split
  · exact .refl s
  · exact (draw s).trans (wakeMore _ _)

end MatAccessed

/-- The state `t` with what reads of completing instructions may change put back as in `s`. -/
def State.readBefore (t s : State) : State :=
  { t with
    fresh := s.fresh, banks := s.banks, raa := s.raa, buses := s.buses
    cur := { t.cur with csr := { t.cur.csr with wakes := s.cur.csr.wakes } } }

theorem wakeMore_readBefore (s t : State) (bs : List Nat) : (t.wakeMore bs).readBefore s = t.readBefore s := by
  have hframe := t.activate_frame bs s.banks s.raa s.buses
  exact (congrArg (fun x : State => x.readBefore s) hframe :)

theorem readLoads_readBefore (s : State) (sel : MatOp → Bool) (ops : List MatOp) :
    (s.readLoads sel ops).2.readBefore s = s := by
  unfold State.readLoads
  split
  · rfl
  · exact wakeMore_readBefore s s.draw.2 _

/-! ## Completion (R168, R240) -/

theorem readLoads_inactive {s : State} {ops : List MatOp} (sel : MatOp → Bool) (h : ∀ o ∈ ops, ¬ActsInMemory o) :
    s.readLoads sel ops = (ops, s) := by
  have hnone : (ops.any fun o => sel o && o.reading) = false := by
    rw [List.any_eq_false]
    intro o ho
    have hno := h o ho
    cases hw : o.write with
    | load es => exact absurd (Or.inl ⟨es, hw⟩) hno
    | clear e => simp [MatOp.reading, hw]
    | add ts => simp [MatOp.reading, hw]
    | put es ovf => simp [MatOp.reading, hw]
    | store ws => simp [MatOp.reading, hw]
  rw [State.readLoads, hnone]
  rfl

theorem storedWords_none {ops : List MatOp} (h : ∀ o ∈ ops, ¬WritesMemory o) : storedWords ops = [] := by
  rw [storedWords, List.flatMap_eq_nil_iff]
  intro o ho
  have hno := h o ho
  cases hw : o.write with
  | store ws => exact absurd ⟨ws, hw⟩ hno
  | clear e => rfl
  | add ts => rfl
  | put es ovf => rfl
  | load es => rfl

/-- Reads performed turn no instruction into one that writes memory. -/
theorem readLoads_writes (s : State) (sel : MatOp → Bool) (ops : List MatOp) (h : ∀ o ∈ ops, ¬WritesMemory o) :
    ∀ o ∈ (s.readLoads sel ops).1, ¬WritesMemory o := by
  unfold State.readLoads
  split
  · exact h
  · intro o ho
    obtain ⟨x, hx, rfl⟩ := List.mem_map.mp ho
    have hno := h x hx
    split
    · split
      · rintro ⟨ws, hws⟩
        exact nomatch hws
      · exact hno
    · exact hno

theorem completesOnly_refl (s : State) : CompletesOnly s s :=
  ⟨fun _ => rfl, fun _ => ⟨rfl, rfl, rfl, rfl, rfl⟩, fun _ => rfl, rfl⟩

/-- Accesses to memory, then other tiles and pending instructions: the frame of a completion. -/
theorem completesOnly_setCur {s u : State} (tiles : Vector Tile 8) (matq : List MatOp) (hmat : MatAccessed s u)
    (hidle : (∀ o ∈ s.cur.matq, ¬ActsInMemory o) → { u with fresh := s.fresh } = s)
    (hread : (∀ o ∈ s.cur.matq, ¬WritesMemory o) → u.readBefore s = s) :
    CompletesOnly s (u.setCur { u.cur with tiles := tiles, matq := matq }) := by
  refine ⟨fun hno => ?_, fun hno => ?_, hmat.banks, ?_⟩
  · exact (congrArg (fun x : State => { x with cur := { x.cur with tiles := s.cur.tiles, matq := s.cur.matq } }) (hidle hno) :)
  · have h := hread hno
    exact ⟨(congrArg State.cores h :), (congrArg State.home h :), (congrArg State.host h :),
      (congrArg (fun x : State => x.cur.spad) h :), (congrArg (fun x : State => x.cur.spadPages) h :)⟩
  · exact (congrArg (fun x : State => { x with cur := { x.cur with tiles := s.cur.tiles, matq := s.cur.matq } }) hmat.rest :)

/-- What completion comes to: its frame, and that no instruction that the choice names stays. -/
theorem completeOps_completes (s : State) (sel : MatOp → Bool) : CompletesOnly s (s.completeOps sel) ∧
    ∀ o ∈ (s.completeOps sel).cur.matq, o ∈ s.cur.matq ∧ sel o = false := by
  obtain ⟨hops, hkept⟩ := splitOps_mem sel s.cur.matq
  have hstay := splitOps_none sel s.cur.matq
  unfold State.completeOps
  generalize splitOps sel s.cur.matq = r at *
  obtain ⟨ops, kept⟩ := r
  dsimp only at *
  split
  next hempty =>
    rw [List.isEmpty_iff] at hempty
    exact ⟨completesOnly_refl s, fun o ho => hkept o (hstay hempty ▸ ho)⟩
  next =>
    have hdraw (u : State) (b : Prop) [Decidable b] : MatAccessed u (if b then (0, u) else u.draw).2 ∧
        (if b then (0, u) else u.draw).2.readBefore s = u.readBefore s ∧
        { (if b then (0, u) else u.draw).2 with fresh := s.fresh } = { u with fresh := s.fresh } := by
      split
      · exact ⟨.refl u, rfl, rfl⟩
      · exact ⟨.draw u, rfl, rfl⟩
    have hreads := MatAccessed.readLoads s (fun _ => true) ops
    have hframe := readLoads_readBefore s (fun _ => true) ops
    have hnoacts := readLoads_inactive (s := s) (ops := ops) fun _ => true
    have hnowrites := readLoads_writes s (fun _ => true) ops
    generalize s.readLoads (fun _ => true) ops = r at *
    obtain ⟨done, s1⟩ := r
    obtain ⟨hd1, hd2, hd3⟩ := hdraw s1 (done.length = 1)
    dsimp only at *
    generalize (if done.length = 1 then (0, s1) else s1.draw) = r at *
    obtain ⟨n, s2⟩ := r
    dsimp only at *
    have hwords := MatAccessed.writeWords s2 (storedWords done)
    have hsame (hno : ∀ o ∈ ops, ¬WritesMemory o) : s2.writeWords (storedWords done) = s2 := by
      rw [storedWords_none (hnowrites hno)]
      rfl
    have hfinal := (hreads.trans hd1).trans hwords
    generalize s2.writeWords (storedWords done) = u at *
    refine ⟨completesOnly_setCur _ kept hfinal (fun hno => ?_) (fun hno => ?_), hkept⟩
    · have hnow : ∀ o ∈ ops, ¬WritesMemory o := fun o ho hw => hno o (hops o ho) (.inr hw)
      have hs1 : s1 = s := congrArg Prod.snd (hnoacts fun o ho => hno o (hops o ho))
      rw [hsame hnow, hd3, hs1]
    · rw [hsame fun o ho => hno o (hops o ho), hd2, hframe]

theorem awaitSlots_awaited (s : State) (wait : BitVec 16) : Awaited s (s.awaitSlots wait) wait := by
  refine ⟨rfl, ?_⟩
  unfold State.awaitSlots
  split
  next h0 => exact ⟨fun o _ k _ => by rw [h0]; exact BitVec.getLsbD_zero, completesOnly_refl s⟩
  next =>
    obtain ⟨honly, hmem⟩ := completeOps_completes s (MatOp.awaited wait)
    refine ⟨fun o ho k hk => ?_, honly⟩
    obtain ⟨-, hsel⟩ := hmem o ho
    rwa [MatOp.awaited, hk] at hsel

/-! ## `mwait` (R168, R240) -/

theorem not_actsInMemory {o : MatOp} (h : o.inMemory = false) : ¬ActsInMemory o := by
  rintro (⟨es, hw⟩ | ⟨ws, hw⟩) <;> simp [MatOp.inMemory, hw] at h

theorem inMemory_eq_false {o : MatOp} (h : ¬ActsInMemory o) : o.inMemory = false := by
  cases hw : o.write with
  | load es => exact absurd (Or.inl ⟨es, hw⟩) h
  | store ws => exact absurd (Or.inr ⟨ws, hw⟩) h
  | clear e => simp [MatOp.inMemory, hw]
  | add ts => simp [MatOp.inMemory, hw]
  | put es ovf => simp [MatOp.inMemory, hw]

theorem mwait_waits (slot : BitVec 4) (wait : BitVec 16) (s : State) :
    ∃ t s2, exec (.mwait slot wait) s = .next t ∧ CompletesOnly s s2 ∧ Retires 8 s2.cur s2 t ∧
      (∀ o ∈ t.cur.matq, ¬ActsInMemory o ∧ ∀ k : BitVec 4, o.slot = some k → wait.getLsbD k.toNat = false) ∧
      (wait = 0 → t.cur.matq = []) ∧
      (wait ≠ 0 → (∀ o ∈ s.cur.matq, ¬ActsInMemory o) → s2 = s.awaitSlots wait) := by
  have hexec : exec (.mwait slot wait) s = execMwait slot wait s := rfl
  by_cases h0 : wait = 0
  · obtain ⟨honly, hmem⟩ := completeOps_completes s fun _ => true
    have hnil : (s.completeOps fun _ => true).cur.matq = [] := by
      rw [List.eq_nil_iff_forall_not_mem]
      exact fun o ho => absurd (hmem o ho).2 (by decide)
    rw [execMwait, if_pos h0] at hexec
    refine ⟨_, _, hexec, honly, retires_retire 8 _ rfl rfl rfl, fun o ho => ?_, fun _ => hnil, fun h => absurd h0 h⟩
    exact absurd (hnil ▸ ho : o ∈ []) List.not_mem_nil
  · obtain ⟨honly, hmem⟩ := completeOps_completes s fun o => o.awaited wait || o.inMemory
    rw [execMwait, if_neg h0] at hexec
    refine ⟨_, _, hexec, honly, retires_retire 8 _ rfl rfl rfl, fun o ho => ?_, fun h => absurd h h0, fun _ hno => ?_⟩
    · obtain ⟨hwait, hin⟩ := Bool.or_eq_false_iff.mp (hmem o ho).2
      exact ⟨not_actsInMemory hin, fun k hk => by rwa [MatOp.awaited, hk] at hwait⟩
    · rw [State.awaitSlots, if_neg h0]
      exact completeOps_congr fun o ho => by rw [inMemory_eq_false (hno o ho), Bool.or_false]

end Sys2Proof.Machine
end


-- ==== Sys2Proof/Proofs/MatrixIssue.lean ====
section
/-! SUPPORT. O35: the checks of matrix instructions, and the tile writes that they issue (R168, R171-R174, R178). -/

namespace Sys2Proof.Machine

open Sys2Proof.Claims

/-! ## The context after its waits -/

/-- Completion leaves of the running context all but tiles, pending instructions, scratchpad and `WAKES`. -/
theorem completesOnly_hart {s s1 : State} (h : CompletesOnly s s1) : { s1.cur with
    tiles := s.cur.tiles, matq := s.cur.matq, spad := s.cur.spad, spadPages := s.cur.spadPages
    csr := { s1.cur.csr with wakes := s.cur.csr.wakes } } = s.cur := by
  obtain ⟨-, -, -, hframe⟩ := h
  exact (congrArg State.cur hframe :)

theorem healthy_completed {s s1 : State} (h : CompletesOnly s s1) (hh : Healthy s.cur) : Healthy s1.cur := by
  rw [← completesOnly_hart h] at hh
  exact hh

/-! ## Checks (R28, R171) -/

theorem tileCheck_none {h : Hart} {tile : BitVec 3} (ht : tile.toNat < h.ntiles) (bits : Nat) :
    h.tileCheck bits tile = none := by
  rw [Hart.tileCheck, decide_eq_false (Nat.not_le_of_lt ht)]
  rfl

theorem tileCheck_acc {h : Hart} {tile : BitVec 3} (ht : h.ntiles ≤ tile.toNat) (bits : Nat) :
    h.tileCheck bits tile = some (trapACC bits) := by
  rw [Hart.tileCheck, decide_eq_true ht]
  rfl

/-- A tile that the hart does not have traps `ACC` before every other check (R28, R171). -/
theorem missing_tile_traps {i : Instr} {tile : BitVec 3} {wait : BitVec 16} {s : State}
    (hi : tileRow i = some (tile, wait)) (ht : (s.awaitSlots wait).cur.ntiles ≤ tile.toNat) :
    exec i s = .next { s.awaitSlots wait with
      cur := stoppedAt 8 { cause := cACC, erec1 := i.bits.toNat } (s.awaitSlots wait).cur } := by
  have htrap : (.next (takeTrap (trapACC i.bits.toNat) 8 (s.awaitSlots wait)) : Out) = .next { s.awaitSlots wait with
      cur := stoppedAt 8 { cause := cACC, erec1 := i.bits.toNat } (s.awaitSlots wait).cur } := rfl
  unfold tileRow at hi
  split at hi
  case h_9 => exact nomatch hi
  all_goals obtain ⟨rfl, rfl⟩ := Prod.mk.inj (Option.some.inj hi)
  case h_1 t e sl st w =>
    have hexec : exec (.tclr t e sl st w) s = execTclr t e sl st w s := rfl
    rw [hexec, execTclr, tileCheck_acc ht]
    exact htrap
  case h_2 t va vb am bm sl st w =>
    have hexec : exec (.bpacc t va vb am bm sl st w) s = execBpacc t va vb am bm sl st w s := rfl
    rw [hexec, execBpacc, productExec, ProductSpec.check, tileCheck_acc ht]
    exact htrap
  case h_3 t va vb am bm sl st w =>
    have hexec : exec (.bpsub t va vb am bm sl st w) s = execBpsub t va vb am bm sl st w s := rfl
    rw [hexec, execBpsub, productExec, ProductSpec.check, tileCheck_acc ht]
    exact htrap
  case h_4 vd t xb sl st w =>
    have hexec : exec (.mrd vd t xb sl st w) s = execMrd vd t xb sl st w s := rfl
    rw [hexec, execMrd, tileReadExec, Hart.tileReadCheck, tileCheck_acc ht]
    exact htrap
  case h_5 vd t xb sl st w =>
    have hexec : exec (.mcol vd t xb sl st w) s = execMcol vd t xb sl st w s := rfl
    rw [hexec, execMcol, tileReadExec, Hart.tileReadCheck, tileCheck_acc ht]
    exact htrap
  case h_6 t va xb sl st w =>
    have hexec : exec (.mwr t va xb sl st w) s = execMwr t va xb sl st w s := rfl
    rw [hexec, execMwr]
    dsimp only
    rw [tileCheck_acc ht]
    exact htrap
  case h_7 t xa xb sl st w =>
    have hexec : exec (.mld t xa xb sl st w) s = execMld t xa xb sl st w s := rfl
    rw [hexec, execMld]
    dsimp only
    rw [Hart.tileMemCheck, tileCheck_acc ht]
    exact htrap
  case h_8 t xa xb sl st w =>
    have hexec : exec (.mst t xa xb sl st w) s = execMst t xa xb sl st w s := rfl
    rw [hexec, execMst]
    dsimp only
    rw [Hart.tileMemCheck, tileCheck_acc ht]
    exact htrap

/-! ## `tclr` (R172) -/

theorem tclr_issues (tile : BitVec 3) (exp : BitVec 10) (slot : BitVec 4) (set : BitVec 1) (wait : BitVec 16) (s : State)
    (ht : tile.toNat < (s.awaitSlots wait).cur.ntiles) :
    Issues (.tclr tile exp slot set wait) s (s.awaitSlots wait) (s.awaitSlots wait).cur tile (.clear exp)
      (slotOf slot set) := by
  have hexec : exec (.tclr tile exp slot set wait) s = execTclr tile exp slot set wait s := rfl
  rw [execTclr, tileCheck_none ht] at hexec
  exact ⟨_, hexec, retires_retire 8 _ rfl rfl rfl⟩

/-! ## Products (R173, R174) -/

theorem mask_getLsbD (h : Hart) (k i : Nat) : (h.mask k).getLsbD i = maskBit h k i := by
  rw [Hart.mask, maskBit]
  split
  · rw [BitVec.getLsbD_allOnes]
  · rfl

theorem maskPoison_of_healthy {h : Hart} (hh : Healthy h) (m n : Nat) : h.maskPoison m n = [] := by
  obtain ⟨-, -, hmask, -⟩ := hh
  rw [Hart.maskPoison]
  split
  · rfl
  · simp [hmask]

theorem blocksPoison_of_healthy {h : Hart} (hh : Healthy h) (o : Opnd) (ks : List Nat) : h.blocksPoison o ks = [] := by
  obtain ⟨-, hpoison, -⟩ := hh
  have hclean : h.opndClean o = true := by simp [Hart.opndClean, hpoison]
  rw [Hart.blocksPoison, if_pos hclean]

/-- The conditions under which a product issues its write (R171, R173). -/
structure ProductFits (p : ProductSpec) (h : Hart) : Prop where
  tile : p.tile.toNat < h.ntiles
  va : VecOperand h p.va h.csr.vl.toNat
  vb : VecOperand h p.vb 32
  tags : tagFamily (h.opnd p.va).tag = .block ∧ tagFamily (h.opnd p.vb).tag = .block ∨
    (h.opnd p.va).tag = .hb ∧ (h.opnd p.vb).tag = .hb
  rows : h.csr.vl.toNat % 32 = 0
  short : h.csr.vl.toNat ≤ 4096
  plain : (h.opnd p.va).dom = 0

theorem product_check {p : ProductSpec} {h : Hart} (hh : Healthy h) (hp : ProductFits p h) (bits : Nat) :
    p.check bits h = none := by
  rw [ProductSpec.check]
  rw [firstTrap_eq_none]
  simp only [List.mem_cons, List.not_mem_nil, or_false, forall_eq_or_imp, forall_eq]
  refine ⟨tileCheck_none hp.tile bits, opndCheck_of_vecOperand hp.va bits, opndCheck_of_vecOperand hp.vb bits, ?_, ?_, ?_, ?_⟩
  · rcases hp.tags with ⟨h1, h2⟩ | ⟨h1, h2⟩
    · simp [tagBlock, h1, h2, failIf]
    · simp [h1, h2, failIf]
  · have hrows : h.vl % 32 = 0 := hp.rows
    have hshort : ¬4096 < h.vl := Nat.not_lt.mpr hp.short
    simp [hrows, hshort, failIf]
  · simp [hp.plain, failIf]
  · rw [Hart.selPoison, Hart.selPoison, maskPoison_of_healthy hh, maskPoison_of_healthy hh, blocksPoison_of_healthy hh,
      blocksPoison_of_healthy hh]
    rfl

theorem mem_rows (p : ProductSpec) (h : Hart) (a : Nat) :
    a ∈ p.rows h ↔ (decide (a < h.csr.vl.toNat / 32) && maskBit h p.am.toNat (32 * a)) = true := by
  simp [ProductSpec.rows, mask_getLsbD, Hart.vl]

theorem mem_cols (p : ProductSpec) (h : Hart) (b : Nat) : b ∈ p.cols h ↔
    (decide (b < 128) && maskBit h p.bm.toNat (32 * 2 ^ (h.opnd p.vb).dom * (b / 2 ^ (h.opnd p.vb).dom))) = true := by
  simp [ProductSpec.cols, mask_getLsbD]

/-- The terms of a product: those of its active rows and columns that are not 0 (R174). -/
theorem mem_terms (p : ProductSpec) (neg : Bool) (h : Hart) {a b : Nat} (hb : b < 128) (z : Int) :
    let term := productTerm (h.productBlock (h.opnd p.va) a) (h.productBlock (h.opnd p.vb) b) (h.tileExp p.tile)
    (128 * a + b, z) ∈ p.terms neg h ↔
      a ∈ p.rows h ∧ b ∈ p.cols h ∧ term ≠ 0 ∧ z = if neg then -term else term := by
  intro term
  have hcols : ∀ j ∈ p.cols h, j < 128 := fun j hj => by
    have hj' := (mem_cols p h j).mp hj
    simp only [Bool.and_eq_true, decide_eq_true_eq] at hj'
    exact hj'.1
  simp only [ProductSpec.terms, List.mem_flatMap, List.mem_filterMap, List.mem_map]
  constructor
  · rintro ⟨i, hi, c, ⟨j, hj, rfl⟩, hterm⟩
    dsimp only at hterm
    split at hterm
    · exact nomatch hterm
    · next hne =>
      obtain ⟨hplace, hz⟩ := Prod.mk.inj (Option.some.inj hterm)
      have hj128 := hcols j hj
      obtain ⟨rfl, rfl⟩ : i = a ∧ j = b := by omega
      exact ⟨hi, hj, hne, hz.symm⟩
  · rintro ⟨hi, hj, hne, rfl⟩
    exact ⟨a, hi, _, ⟨b, hj, rfl⟩, by dsimp only; rw [if_neg hne]⟩

theorem addFlags_nv (h : Hart) (c : Bool) :
    (h.addFlags (flagIf c fNV)) = { h with csr := { h.csr with fcsr := orFlags h.csr.fcsr (flagIf c fNV) } } ∧
      (orFlags h.csr.fcsr (flagIf c fNV) = h.csr.fcsr ∨ orFlags h.csr.fcsr (flagIf c fNV) = h.csr.fcsr ||| 16) := by
  refine ⟨rfl, ?_⟩
  cases c
  · exact .inl (by simp [flagIf, orFlags])
  · exact .inr rfl

theorem product_issues {i : Instr} {bits : Nat} {neg : Bool} {p : ProductSpec} {slot : Option (BitVec 4)}
    {wait : BitVec 16} {s : State} (hexec : exec i s = productExec bits neg p slot wait s)
    (hh : Healthy (s.awaitSlots wait).cur) (hp : ProductFits p (s.awaitSlots wait).cur) :
    ∃ fl, Issues i s (s.awaitSlots wait)
        { (s.awaitSlots wait).cur with csr := { (s.awaitSlots wait).cur.csr with fcsr := fl } } p.tile
        (.add (p.terms neg (s.awaitSlots wait).cur)) slot ∧
      (fl = (s.awaitSlots wait).cur.csr.fcsr ∨ fl = (s.awaitSlots wait).cur.csr.fcsr ||| 16) := by
  rw [productExec] at hexec
  rw [product_check hh hp] at hexec
  generalize s.awaitSlots wait = s1 at *
  obtain ⟨-, hfl⟩ := addFlags_nv s1.cur (!(p.rows s1.cur).isEmpty && !(p.cols s1.cur).isEmpty &&
    (((p.rows s1.cur).any fun i => (s1.cur.productBlock (s1.cur.opnd p.va) i).inv) ||
      (p.cols s1.cur).any fun j => (s1.cur.productBlock (s1.cur.opnd p.vb) j).inv))
  exact ⟨_, ⟨_, hexec, retires_retire 8 _ rfl rfl rfl⟩, hfl⟩

end Sys2Proof.Machine
end


-- ==== Sys2Proof/Proofs/MatrixRows.lean ====
section
/-! SUPPORT. O35: `mwr` (R178). -/

namespace Sys2Proof.Machine

open Sys2Proof.Claims

/-! ## Elements read -/

theorem elems_length (h : Hart) (o : Opnd) (n : Nat) : (h.elems o n).length = n := by
  unfold Hart.elems
  split
  · have hlen : ((List.range ((n + 31) / 32)).flatMap fun b => (blockOf o.tag (h.unit o b)).vals.map Elem.exact).length =
        (n + 31) / 32 * 32 := by
      simp [List.length_flatMap, Block.vals, blockOf]
    rw [List.length_take, hlen]
    omega
  · simp

theorem lenCheck_of_fits {h : Hart} {l : Nat} (hl : LengthFits h l) :
    (⟨some l, none, none, 0⟩ : Doms).lenCheck h = none := by
  have hfits : (l != 0 && h.vl % (32 * 2 ^ l) != 0) = false := by
    by_cases h0 : l = 0
    · simp [h0]
    · have := hl h0
      simp [Hart.vl, this]
  simp [Doms.lenCheck, Doms.list, hfits]

/-! ## Entries (R178) -/

/-- An integer becomes the entry that it is, or the nearest one. -/
theorem entryOf_ofInt (z : Int) : (entryOf 0 (.ofInt z)).1 = max (-2 ^ 47) (min (2 ^ 47 - 1) z) := by
  have hround : roundInt .rne (decide (z < 0)) z.natAbs (0 - 0) = (z, false) := by
    by_cases hz : z < 0
    · simp [roundInt, hz, abs_of_neg hz]
    · simp [roundInt, hz, abs_of_nonneg (not_lt.mp hz)]
  rw [Val.ofInt, entryOf, hround]
  have hmax : entryMax = 2 ^ 47 - 1 := rfl
  have hmin : entryMin = -2 ^ 47 := rfl
  dsimp only
  by_cases hhi : entryMax < z
  · rw [if_pos hhi]
    dsimp only
    omega
  · rw [if_neg hhi]
    by_cases hlo : z < entryMin
    · rw [if_pos hlo]
      dsimp only
      omega
    · rw [if_neg hlo]
      dsimp only
      omega

/-- The entries of row `c` that the elements `xs` become. -/
def rowPut (h : Hart) (tile : BitVec 3) (t : Tag) (c : Nat) (xs : List Elem) : List (Nat × BitVec 48) :=
  (xs.map fun x => entryOf (h.tileExp tile) (x.val t h.fpMode.ftz)).zipIdx.map fun (e, j) =>
    (128 * c + j, BitVec.ofInt 48 e.1)

theorem rowPut_places (h : Hart) (tile : BitVec 3) (t : Tag) (c : Nat) (xs : List Elem) :
    (rowPut h tile t c xs).map Prod.fst = (List.range xs.length).map (c * 128 + ·) := by
  refine List.ext_getElem (by simp [rowPut]) fun k h1 h2 => ?_
  simp [rowPut, Nat.mul_comm]

theorem rowPut_int {h : Hart} {tile : BitVec 3} {t : Tag} (hint : tagFamily t = .int) (hexp : h.tileExp tile = 0)
    (c : Nat) (f : Nat → Nat) {n k : Nat} (hk : k < n) :
    (rowPut h tile t c ((List.range n).map fun i => .raw (f i)))[k]? =
      some (c * 128 + k, BitVec.ofInt 48 (max (-2 ^ 47) (min (2 ^ 47 - 1) (intOf t (f k))))) := by
  have hval (x : Nat) : (Elem.raw x).val t h.fpMode.ftz = .ofInt (intOf t x) := by simp only [Elem.val, hint]
  simp only [rowPut, hexp, List.map_map, List.getElem?_map, List.getElem?_zipIdx, List.getElem?_range hk, Option.map_some,
    Function.comp_apply, hval, entryOf_ofInt, Nat.zero_add, Nat.mul_comm]

theorem mwr_check {h : Hart} (hh : Healthy h) {tile : BitVec 3} {va : BitVec 6} (ht : tile.toNat < h.ntiles)
    (hva : VecOperand h va h.vl) (hshort : h.vl ≤ 128) (hlen : LengthFits h (h.opnd va).dom) (xb : BitVec 5) (bits : Nat) :
    firstTrap [h.tileCheck bits tile, h.opndCheck bits va h.vl, failIf (decide (128 < h.vl)) (trapILL bits),
      Doms.lenCheck { va := some (h.opnd va).dom, vb := none, vd := none } h, h.scalarPoison [xb],
      poisonTrap (h.readsPoison [⟨h.opnd va, h.vl, List.replicate h.vl true, true⟩])] = none := by
  rw [firstTrap_eq_none]
  simp only [List.mem_cons, List.not_mem_nil, or_false, forall_eq_or_imp, forall_eq]
  obtain ⟨hx, -⟩ := id hh
  refine ⟨tileCheck_none ht bits, opndCheck_of_vecOperand hva bits, ?_, lenCheck_of_fits hlen,
    h.scalarPoison_clean [xb] hx, ?_⟩
  · rw [decide_eq_false (Nat.not_lt.mpr hshort)]
    rfl
  · rw [readsPoison_of_healthy hh]
    rfl

theorem mwr_issues (tile : BitVec 3) (va : BitVec 6) (xb : BitVec 5) (slot : BitVec 4) (set : BitVec 1)
    (wait : BitVec 16) (s : State) (hh : Healthy (s.awaitSlots wait).cur) :
    let s1 := s.awaitSlots wait
    let h := s1.cur
    let vl := h.csr.vl.toNat
    tile.toNat < h.ntiles → VecOperand h va vl → vl ≤ 128 → LengthFits h (h.opnd va).dom →
    ∃ es ovf fl rc, Issues (.mwr tile va xb slot set wait) s s1
        { h with csr := { h.csr with fcsr := fl, rcnt := rc } } tile (.put es ovf) (slotOf slot set) ∧
      ((h.opnd va).dom = 0 → es.map Prod.fst = (List.range vl).map ((h.readX xb).toNat % 128 * 128 + ·)) ∧
      (tagFamily (h.opnd va).tag = .int → (h.opnd va).dom = 0 → h.tileExp tile = 0 → ∀ k < vl, es[k]? =
        some ((h.readX xb).toNat % 128 * 128 + k, BitVec.ofInt 48
          (max (-2 ^ 47) (min (2 ^ 47 - 1) (intOf (h.opnd va).tag (h.unit (h.opnd va) k)))))) := by
  have hexec : exec (.mwr tile va xb slot set wait) s = execMwr tile va xb slot set wait s := rfl
  rw [execMwr] at hexec
  generalize s.awaitSlots wait = s1 at *
  intro _ h vl ht hva hshort hlen
  rw [mwr_check hh ht hva hshort hlen] at hexec
  have hplain : (h.opnd va).dom = 0 → (s1.cur.readOperand (s1.cur.opnd va) s1.cur.vl (List.replicate s1.cur.vl true)).1 =
      h.elems (h.opnd va) vl := fun hdom => by rw [Hart.readOperand, if_pos hdom]; rfl
  generalize s1.cur.readOperand (s1.cur.opnd va) s1.cur.vl (List.replicate s1.cur.vl true) = r at hexec hplain
  obtain ⟨xs, f, rc⟩ := r
  refine ⟨rowPut h tile (h.opnd va).tag ((h.readX xb).toNat % 128) xs, _, _, _,
    ⟨_, hexec, retires_retire 8 _ rfl rfl rfl⟩, fun hdom => ?_, fun hint hdom hexp k hk => ?_⟩
  · rw [rowPut_places, show xs = _ from hplain hdom, elems_length]
  · have hblock : tagBlock (h.opnd va).tag = false := by simp [tagBlock, hint]
    rw [show xs = _ from hplain hdom, Hart.elems, hblock]
    exact rowPut_int hint hexp _ _ hk

end Sys2Proof.Machine
end


-- ==== Sys2Proof/Proofs/TileReads.lean ====
section
/-! SUPPORT. O35: tiles read without a pending write (R170), and slices written to vector registers (R177). -/

namespace Sys2Proof.Machine

open Sys2Proof.Claims

/-! ## Tiles without pending writes (R170) -/

/-- An entry of a tile as a read takes it. -/
def Tile.seen (t : Tile) (e : Nat) : SeenEntry :=
  ⟨e, (tget (0 : BitVec 48) t.acc e).toInt, t.eT.toInt, t.ovf, t.poison.contains e⟩

theorem performLoads_idle {s : State} (h : s.cur.matq = []) (sel : MatOp → Bool) : s.performLoads sel = s := by
  rw [State.performLoads, h, readLoads_inactive sel fun o ho => absurd ho List.not_mem_nil]
  exact if_pos h.symm

theorem tileVersions_idle {h : Hart} (hq : h.matq = []) (tile : BitVec 3) (n : Nat) :
    h.tileVersions tile n = [h.tiles.getD tile.toNat .reset] := by
  rw [Hart.tileVersions, hq]
  rfl

/-- A read of a tile that no pending instruction writes takes the entries as they stand. -/
theorem readTile_idle {s : State} (h : s.cur.matq = []) (tile : BitVec 3) (es : List Nat) :
    s.readTile tile es = (es.map (s.cur.tiles.getD tile.toNat .reset).seen, s) := by
  rw [State.readTile, performLoads_idle h, h]
  dsimp only
  have hnone : (writesTo tile.toNat []).isEmpty = true := rfl
  rw [if_pos hnone]
  dsimp only
  rw [tileVersions_idle h]
  refine Prod.ext (List.ext_getElem (by simp) fun k h1 h2 => ?_) rfl
  simp [Tile.seen]

theorem tilePoison_none {t : Tile} (h : t.poison = []) (tile : BitVec 3) (es : List Nat) :
    tilePoison tile (es.map t.seen) = none := by
  simp [tilePoison, Tile.seen, h]

/-! ## Flags -/

theorem orFlags_keeps (c : BitVec 8) (f : Flags) : orFlags c f ||| c = orFlags c f ∧ orFlags c f >>> 5 = c >>> 5 := by
  constructor
  · rw [orFlags, BitVec.or_comm (c ||| _), ← BitVec.or_assoc, BitVec.or_self]
  · refine BitVec.eq_of_getLsbD_eq fun i hi => ?_
    simp [orFlags, BitVec.getLsbD_ushiftRight]

/-- A written group with flags raised is a frame of vector computing. -/
theorem vectorFrame_writeGroup (h : Hart) (vd : BitVec 6) (t : Tag) (dom grp n : Nat) (units : List (Option (Nat × Bool)))
    (f g : Flags) : VectorFrame h (((h.writeGroup vd t dom grp n units).addFlags f).addFlags g) := by
  have hframe := writeGroup_frame h vd t dom grp n units h.v
  have hcsr : (h.writeGroup vd t dom grp n units).csr = h.csr := (congrArg Hart.csr hframe :)
  generalize h.writeGroup vd t dom grp n units = u at *
  obtain ⟨h1, h2⟩ := orFlags_keeps u.csr.fcsr f
  obtain ⟨h3, h4⟩ := orFlags_keeps (orFlags u.csr.fcsr f) g
  refine ⟨?_, ?_, ?_⟩
  · rw [← hcsr]
    exact hframe
  · show orFlags (orFlags u.csr.fcsr f) g ||| h.csr.fcsr = orFlags (orFlags u.csr.fcsr f) g
    rw [← hcsr, ← h3, BitVec.or_assoc, h1]
  · exact h4.trans (h2.trans (congrArg (fun c : Csrs => c.fcsr >>> 5) hcsr))

theorem groupWritten_addFlags {h u : Hart} {o : Opnd} {n : Nat} (hg : GroupWritten h u o n) (f : Flags) :
    GroupWritten h (u.addFlags f) o n := hg

/-! ## Integer results -/

theorem storeVal_int {t : Tag} (ht : tagFamily t = .int) (md : FpMode) (z : Int) :
    (storeVal t md (.ofInt z)).1 = .raw (max (intRange t).1 (min (intRange t).2 z) % 2 ^ tagWidth t).toNat := by
  have hround (rm : Round) : roundInt rm (decide (z < 0)) z.natAbs 0 = (z, false) := by
    by_cases hz : z < 0
    · simp [roundInt, hz, abs_of_neg hz]
    · simp [roundInt, hz, abs_of_nonneg (not_lt.mp hz)]
  have hrange : (if tagSigned t then ((-(2 ^ (tagWidth t - 1) : Nat), (2 ^ (tagWidth t - 1) : Nat) - 1) : Int × Int)
      else (0, (2 ^ tagWidth t : Nat) - 1)) = intRange t := by
    unfold intRange
    split <;> push_cast <;> rfl
  have hle : (intRange t).1 ≤ (intRange t).2 := by
    unfold intRange
    have h1 : (0 : Int) < 2 ^ (tagWidth t - 1) := by positivity
    have h2 : (0 : Int) < 2 ^ tagWidth t := by positivity
    split
    · dsimp only; omega
    · dsimp only; omega
  have hsat : (toIntSat md.rm (intRange t).1 (intRange t).2 (.ofInt z)).1 =
      max (intRange t).1 (min (intRange t).2 z) := by
    rw [Val.ofInt, toIntSat, hround]
    dsimp only
    split
    · dsimp only; omega
    · split
      · dsimp only; omega
      · dsimp only; omega
  unfold storeVal
  split
  next h => exact absurd (ht.symm.trans h) (by decide)
  next h => exact absurd (ht.symm.trans h) (by decide)
  next h => exact absurd (ht.symm.trans h) (by decide)
  next =>
    dsimp only
    rw [hrange, hsat, wrap]
    push_cast
    rfl

/-! ## Slices (R177) -/

/-- The units that a slice of a fixed-width tag writes: what stands below its start, then its values. -/
def sliceUnits (h : Hart) (o : Opnd) (start : Nat) (vs : List Val) : List (Option (Nat × Bool)) :=
  ((List.range start).map fun k => some (if h.present o then h.unit o k else 0, true)) ++
    vs.map fun v => some ((storeVal o.tag h.fpMode v).1.bits, false)

theorem writeSlice_eq {h : Hart} {vd : BitVec 6} {g : Nat} (hg : groupFor (h.opnd vd).tag h.vl = some g) (start : Nat)
    (vs : List Val) : ∃ units f, h.writeSlice vd start vs =
      (h.writeGroup vd (h.opnd vd).tag (h.opnd vd).dom g h.vl units).addFlags f ∧
      (tagBlock (h.opnd vd).tag = false →
        units = sliceUnits h ⟨vd.toNat, (h.opnd vd).tag, (h.opnd vd).dom, g⟩ start vs) := by
  have hgrp : (groupFor (h.opnd vd).tag h.vl).getD 0 = g := by rw [hg]; rfl
  unfold Hart.writeSlice
  dsimp only
  rw [hgrp]
  split
  next hb => exact ⟨_, _, rfl, fun hno => absurd (hb.symm.trans hno) (by decide)⟩
  next hb =>
    refine ⟨_, _, rfl, fun hno => ?_⟩
    have hunit : unitLen (h.opnd vd).tag = 1 := by rw [unitLen, hno]; rfl
    have hzero : zeroUnit (h.opnd vd).tag = 0 := by rw [zeroUnit, hno]; rfl
    rw [hunit, hzero, Nat.div_one, sliceUnits, List.map_map]
    rfl

theorem sliceUnits_getD {h : Hart} {o : Opnd} {start k : Nat} {vs : List Val} {v : Val} (hk : start ≤ k)
    (hv : vs[k - start]? = some v) :
    (sliceUnits h o start vs).getD k none = some ((storeVal o.tag h.fpMode v).1.bits, false) := by
  rw [sliceUnits, List.getD_eq_getElem?_getD, List.getElem?_append_right (by simpa using hk)]
  simp [hv]

/-- An integer of a slice, saturated to the destination (R46, R177). -/
theorem unit_writeSlice {h : Hart} {vd : BitVec 6} {t : Tag} {dom g start k n : Nat} {vs : List Val} {z : Int}
    (hint : tagFamily t = .int) (hdest : VecDest vd t n g) (hlen : start + vs.length = n) (hk1 : start ≤ k) (hk2 : k < n)
    (hv : vs[k - start]? = some (.ofInt z)) :
    (h.writeGroup vd t dom g n (sliceUnits h ⟨vd.toNat, t, dom, g⟩ start vs)).unit ⟨vd.toNat, t, dom, g⟩ k =
      (max (intRange t).1 (min (intRange t).2 z) % 2 ^ tagWidth t).toNat := by
  have hfixed : Fixed t := fixed_of_family (.inl hint)
  have hcap : k < 2 ^ g * tagCap t := Nat.lt_of_lt_of_le hk2 (VecDest.room hdest)
  have hn : (sliceUnits h ⟨vd.toNat, t, dom, g⟩ start vs).length = n := by simpa [sliceUnits] using hlen
  have hwrite := unit_writeGroup hfixed (VecDest.bound hdest).1 h dom hn hcap
  dsimp only at hwrite
  rw [hwrite, if_pos hk2, Hart.writtenUnit, sliceUnits_getD hk1 hv, storeVal_int hint]
  generalize max (intRange t).1 (min (intRange t).2 z) = y
  have hpos : (0 : Int) < 2 ^ tagWidth t := by positivity
  refine Nat.mod_eq_of_lt ?_
  show (y % 2 ^ tagWidth t).toNat < 2 ^ tagWidth t
  have hlt := Int.emod_lt_of_pos y hpos
  have hnonneg := Int.emod_nonneg y hpos.ne'
  zify
  rwa [Int.toNat_of_nonneg hnonneg]

theorem ovfFlag_seen {t : Tile} {es : List Nat} (ht : t.ovf = true) (hes : es ≠ []) : ovfFlag (es.map t.seen) = fOF := by
  obtain ⟨e, rest, rfl⟩ := List.exists_cons_of_ne_nil hes
  simp [ovfFlag, Tile.seen, ht, flagIf]

/-! ## `mrd` and `mcol` (R177) -/

/-- The conditions under which a slice is read (R171). -/
structure SliceFits (h : Hart) (vd : BitVec 6) (tile : BitVec 3) (start g : Nat) : Prop where
  hasTile : tile.toNat < h.ntiles
  operand : VecOperand h vd h.vl
  above : start < h.vl
  below : h.vl ≤ start + 128
  dest : VecDest vd (h.opnd vd).tag h.vl g
  fits : LengthFits h (h.opnd vd).dom

theorem tileReadCheck_none {h : Hart} (hh : Healthy h) {vd : BitVec 6} {tile : BitVec 3} {start g : Nat}
    (hf : SliceFits h vd tile start g) (xb : BitVec 5) (bits : Nat) : h.tileReadCheck bits vd tile xb start = none := by
  obtain ⟨hx, -⟩ := id hh
  obtain ⟨ht, hvd, habove, hbelow, hdest, hfits⟩ := hf
  rw [Hart.tileReadCheck]
  rw [firstTrap_eq_none]
  simp only [List.mem_cons, List.not_mem_nil, or_false, forall_eq_or_imp, forall_eq]
  refine ⟨tileCheck_none ht bits, opndCheck_of_vecOperand hvd bits, ?_, destCheck_of_vecDest hdest bits, ?_,
    h.scalarPoison_clean [xb] hx⟩
  · rw [decide_eq_false (Nat.not_le.mpr habove), decide_eq_false (by omega)]
    rfl
  · by_cases h0 : (h.opnd vd).dom = 0
    · simp [h0, failIf]
    · have hlen : h.vl % (32 * 2 ^ (h.opnd vd).dom) = 0 := hfits h0
      simp [hlen, failIf]

theorem sliceRead_writes {i : Instr} {bits : Nat} {vd : BitVec 6} {tile : BitVec 3} {xb : BitVec 5} {wait : BitVec 16}
    {place : Nat → Nat → Nat} {s : State} (hexec : exec i s = tileReadExec bits vd tile xb wait place s) {g : Nat} :
    let s1 := s.awaitSlots wait
    let h := s1.cur
    let t := h.tiles.getD tile.toNat .reset
    let c := (h.readX xb).toNat % 128
    let start := 32 * ((h.readX xb).toNat / 2 ^ 16 % 128)
    let d := h.opnd vd
    let o : Opnd := ⟨vd.toNat, d.tag, d.dom, g⟩
    Healthy h → h.matq = [] → t.poison = [] → SliceFits h vd tile start g →
    ∃ u h', exec i s = .next u ∧ Retires 8 h' s1 u ∧ GroupWritten h h' o h.vl ∧ VectorFrame h h' ∧
      (t.ovf = true → h'.csr.fcsr ||| 4 = h'.csr.fcsr) ∧
      (tagFamily d.tag = .int → t.eT = 0 → ∀ k, start ≤ k → k < h.vl → h'.unit o k =
        (max (intRange d.tag).1 (min (intRange d.tag).2 (tget (0 : BitVec 48) t.acc (place c (k - start))).toInt) %
          2 ^ tagWidth d.tag).toNat) := by
  rw [tileReadExec] at hexec
  generalize s.awaitSlots wait = s1 at *
  intro _ h t c start d o hh hq hpoison hf
  have hsame : bitsAt (s1.readX xb).toNat 16 7 = (h.readX xb).toNat / 2 ^ 16 % 128 := rfl
  dsimp only at hexec
  rw [hsame, tileReadCheck_none hh hf, readTile_idle hq] at hexec
  dsimp only at hexec
  rw [tilePoison_none hpoison] at hexec
  obtain ⟨-, -, habove, -, hdest, -⟩ := hf
  obtain ⟨units, f, hslice, hunits⟩ := writeSlice_eq hdest.1 start
    ((((List.range (h.vl - start)).map (place c)).map t.seen).map SeenEntry.value)
  have hb := (VecDest.bound hdest).1
  have hend : exec i s = .next (retire 8 (s1.setCur
      ((h.writeSlice vd start ((((List.range (h.vl - start)).map (place c)).map t.seen).map SeenEntry.value)).addFlags
        (ovfFlag (((List.range (h.vl - start)).map (place c)).map t.seen))))) := hexec
  rw [hslice] at hend
  have hframe := vectorFrame_writeGroup h vd d.tag d.dom g h.vl units f
    (ovfFlag (((List.range (h.vl - start)).map (place c)).map t.seen))
  have hpc := (congrArg Hart.pc hframe.1 :)
  have hcore := (congrArg Hart.core hframe.1 :)
  have hwritten := groupWritten_addFlags (groupWritten_addFlags (groupWritten_writeGroup hb h d.tag d.dom h.vl units) f)
    (ovfFlag (((List.range (h.vl - start)).map (place c)).map t.seen))
  refine ⟨_, _, hend, retires_retire 8 _ rfl hpc hcore, hwritten, hframe, fun hovf => ?_, fun hint he k hk1 hk2 => ?_⟩
  · rw [ovfFlag_seen hovf]
    · show orFlags _ fOF ||| 4 = orFlags _ fOF
      rw [orFlags, BitVec.or_assoc]
      rfl
    · rw [Ne, List.map_eq_nil_iff, List.range_eq_nil]
      exact Nat.sub_ne_zero_of_lt habove
  · have hvalue (e : Nat) : (t.seen e).value = .ofInt (tget (0 : BitVec 48) t.acc e).toInt := by
      simp [SeenEntry.value, Tile.seen, Val.ofInt, he]
    have hlen : start + ((((List.range (h.vl - start)).map (place c)).map t.seen).map SeenEntry.value).length = h.vl := by
      simp only [List.length_map, List.length_range]
      exact Nat.add_sub_cancel' habove.le
    have hget : ((((List.range (h.vl - start)).map (place c)).map t.seen).map SeenEntry.value)[k - start]? =
        some (.ofInt (tget (0 : BitVec 48) t.acc (place c (k - start))).toInt) := by
      simp only [List.getElem?_map, List.getElem?_range (Nat.sub_lt_sub_right hk1 hk2), Option.map_some, hvalue]
    have hunit := unit_writeSlice (h := h) (dom := d.dom) hint hdest hlen hk1 hk2 hget
    rw [← hunits (fixed_of_family (.inl hint)).1] at hunit
    exact hunit

end Sys2Proof.Machine
end


-- ==== Sys2Proof/Proofs/TilePieces.lean ====
section
/-! SUPPORT. O35: the pieces of the rows of a tile transfer, and the doublewords at them (R112, R179, R240, R259). -/

namespace Sys2Proof.Machine

open Sys2Proof.Claims

/-! ## Lines of an access (R259) -/

/-- The pieces of a cut add up, when the cut may have enough of them. -/
theorem cutLines_sum (fuel off n : Nat) (h : n = 0 ∨ off % 256 + n ≤ fuel * 256) :
    ((cutLines fuel off n).map Prod.snd).sum = n := by
  induction fuel generalizing off n with
  | zero =>
    have : n = 0 := by omega
    rw [this]
    rfl
  | succ fuel ih =>
    rw [cutLines]
    split
    next h0 => rw [h0]; rfl
    next h0 =>
      rw [List.map_cons, List.sum_cons, ih]
      · omega
      · omega

theorem lineCuts_sum (off n : Nat) : ((lineCuts off n).map Prod.snd).sum = n := by
  refine cutLines_sum _ _ _ (.inr ?_)
  omega

/-- Aligned accesses are cut into aligned pieces. -/
theorem cutLines_aligned (fuel off n : Nat) (ho : off % 8 = 0) (hn : n % 8 = 0) :
    ∀ c ∈ cutLines fuel off n, c.2 % 8 = 0 := by
  induction fuel generalizing off n with
  | zero => intro c hc; exact absurd hc List.not_mem_nil
  | succ fuel ih =>
    rw [cutLines]
    split
    · intro c hc; exact absurd hc List.not_mem_nil
    · intro c hc
      rcases List.mem_cons.mp hc with rfl | hc
      · dsimp only
        omega
      · exact ih _ _ (by omega) (by omega) c hc

/-! ## The pieces of units -/

theorem locatePieces_cuts {s s1 : State} {m m1 : Pages} {gather : Bool} {idx : Nat} {sp : Space} {wr : Bool}
    {coords : List Nat} {cuts : List (Nat × Nat)} {ps : List Piece1}
    (h : s.locatePieces m gather idx sp wr coords cuts = (.ok (ps, m1), s1)) : ps.map Piece1.n = cuts.map Prod.snd := by
  induction cuts generalizing s m ps m1 s1 with
  | nil =>
    obtain ⟨hok, -⟩ := Prod.mk.inj h
    obtain ⟨rfl, -⟩ := Prod.mk.inj (Except.ok.inj hok)
    rfl
  | cons c cuts ih =>
    obtain ⟨off, n⟩ := c
    rw [State.locatePieces] at h
    split at h
    · exact nomatch (Prod.mk.inj h).1
    · split at h
      · exact nomatch (Prod.mk.inj h).1
      next heq =>
        obtain ⟨hok, -⟩ := Prod.mk.inj h
        obtain ⟨rfl, -⟩ := Prod.mk.inj (Except.ok.inj hok)
        rw [List.map_cons, List.map_cons, ih heq]

/-- An access that passes its checks is aligned and at no negative offset. -/
theorem check_aligned {a : Access1} {s : State} {sp : Space} (h : a.check s sp = none) :
    a.off % (a.align : Int) = 0 ∧ 0 ≤ a.off := by
  unfold Access1.check at h
  extract_lets dwordOnly at h
  split at h
  · exact nomatch h
  · split at h
    · exact nomatch h
    · split at h
      · exact nomatch h
      next halign =>
        split at h
        · exact nomatch h
        next hneg => exact ⟨not_not.mp halign, not_lt.mp hneg⟩

/-- The pieces of a unit: as long as the unit together, and aligned with it. -/
def UnitPieces (a : UnitAcc) (ps : List Piece1) : Prop :=
  (ps.map Piece1.n).sum = a.n ∧ (a.align = 8 → a.n % 8 = 0 → ∀ p ∈ ps, p.n % 8 = 0)

theorem reachUnitBy_pieces {master : Nat} {m m1 : Pages} {p : AccSpec} {sp : Space} {a : UnitAcc} {s s1 : State}
    {ps : List Piece1} (h : s.reachUnitBy master m p sp a = .ok (ps, m1) s1) (hp : ∀ q ∈ ps, ∃ pa, q.loc = .pkg pa) :
    UnitPieces a ps := by
  unfold State.reachUnitBy at h
  split at h
  · exact nomatch h
  · next qs m2 s2 heq =>
    generalize hg : s2.guardPieces master p.kind.request qs = r at h
    obtain ⟨rs, s3⟩ := r
    obtain ⟨hpair, rfl⟩ := MemRes.ok.inj h
    obtain ⟨rfl, -⟩ := Prod.mk.inj hpair
    obtain ⟨rfl, -⟩ := guardPieces_pkg hg hp
    unfold State.reach at heq
    split at heq
    · exact nomatch (Prod.mk.inj heq).1
    · next hcheck =>
      obtain ⟨halign, hpos⟩ := check_aligned hcheck
      split at heq
      · exact nomatch (Prod.mk.inj heq).1
      · next r _ hloc =>
        obtain ⟨hok, -⟩ := Prod.mk.inj heq
        obtain rfl := Except.ok.inj hok
        have hcuts := locatePieces_cuts hloc
        refine ⟨by rw [hcuts, lineCuts_sum], fun h8 hn q hq => ?_⟩
        have hmem : q.n ∈ (lineCuts a.off.toNat a.n).map Prod.snd := hcuts ▸ List.mem_map_of_mem hq
        obtain ⟨c, hc, hcn⟩ := List.mem_map.mp hmem
        rw [← hcn]
        refine cutLines_aligned _ _ _ ?_ hn c hc
        dsimp only at halign hpos
        rw [h8] at halign
        omega

/-- Units that are reached, all in package memory: the relation of accesses, and the pieces of each unit. -/
theorem reachUnits_pkg {p : AccSpec} {sp : Space} {us : List UnitAcc} {m : Pages} {done pss : List (List Piece1)}
    {s t : State} (h : s.reachUnits p sp noMore m done us = .ok pss t) (hp : ∀ ps ∈ pss, ∀ q ∈ ps, ∃ pa, q.loc = .pkg pa) :
    Accessed s t ∧ ∃ qss, pss = done.reverse ++ qss ∧ List.Forall₂ UnitPieces us qss := by
  induction us generalizing m done s with
  | nil =>
    obtain ⟨rfl, rfl⟩ := MemRes.ok.inj h
    exact ⟨.refl _, [], (List.append_nil _).symm, .nil⟩
  | cons a us ih =>
    rw [State.reachUnits] at h
    split at h
    · next ps m1 s1 hunit =>
      obtain ⟨hacc, qss, rfl, hforall⟩ := ih h
      have hps : ∀ q ∈ ps, ∃ pa, q.loc = .pkg pa := hp ps (by simp)
      refine ⟨(Accessed.reachUnitBy hunit hps).trans hacc, ps :: qss, by simp, .cons (reachUnitBy_pieces hunit hps) hforall⟩
    · exact nomatch h
    · exact nomatch h
    · exact nomatch h
    · exact nomatch h

/-- The pieces of rows of 1024 bytes: together as long, and of whole doublewords. -/
theorem rows_pieces {us : List UnitAcc} {pss : List (List Piece1)} (h : List.Forall₂ UnitPieces us pss)
    (hus : ∀ a ∈ us, a.n = 1024 ∧ a.align = 8) :
    (pss.flatten.map Piece1.n).sum = 1024 * us.length ∧ ∀ p ∈ pss.flatten, p.n % 8 = 0 := by
  induction h with
  | nil => exact ⟨rfl, fun p hp => absurd hp List.not_mem_nil⟩
  | cons hps _ ih =>
    obtain ⟨hsum, haligned⟩ := ih fun a ha => hus a (List.mem_cons_of_mem _ ha)
    obtain ⟨hn, h8⟩ := hus _ List.mem_cons_self
    obtain ⟨hone, hpieces⟩ := hps
    constructor
    · rw [List.flatten_cons, List.map_append, List.sum_append, hsum, hone, hn, List.length_cons, Nat.mul_succ, Nat.add_comm]
    · intro p hp
      rcases List.mem_append.mp (List.flatten_cons ▸ hp) with hp | hp
      · exact hpieces h8 (by rw [hn]) p hp
      · exact haligned p hp

/-! ## Places and sites (R240) -/

/-- The places of the bytes of pieces of package memory, in order. -/
def bytePlaces (ps : List Piece1) : List Nat :=
  ps.flatMap fun p => match p.loc with
    | .pkg pa => (List.range p.n).map (pa + ·)
    | _ => []

theorem placeOf_eq (pss : List (List Piece1)) (i : Nat) : placeOf pss i = (bytePlaces pss.flatten).getD i 0 := rfl

theorem bytesAt_eq (s : State) {ps : List Piece1} (hp : ∀ p ∈ ps, ∃ pa, p.loc = .pkg pa) :
    bytesAt s ps = (bytePlaces ps).map (s.coreByte (own s)) := by
  induction ps with
  | nil => rfl
  | cons p ps ih =>
    obtain ⟨pa, hloc⟩ := hp p List.mem_cons_self
    have ih := ih fun q hq => hp q (List.mem_cons_of_mem _ hq)
    simp only [bytesAt, bytePlaces] at ih
    simp only [bytesAt, bytePlaces, List.flatMap_cons, List.map_append, ih, hloc, List.map_map]
    rfl

/-- Doubleword `k` of aligned pieces: its site, and the places of its bytes. -/
theorem site_places {ps : List Piece1} (hp : ∀ p ∈ ps, ∃ pa, p.loc = .pkg pa) (h8 : ∀ p ∈ ps, p.n % 8 = 0) {k : Nat}
    (hk : 8 * k < (ps.map Piece1.n).sum) :
    ∃ pa, (sitesOf ps)[k]? = some (.pkg pa) ∧ ∀ j < 8, (bytePlaces ps)[8 * k + j]? = some (pa + j) := by
  induction ps generalizing k with
  | nil => exact absurd hk (Nat.not_lt_zero _)
  | cons p ps ih =>
    obtain ⟨pa, hloc⟩ := hp p List.mem_cons_self
    have hn := h8 p List.mem_cons_self
    have hsites : sitesOf (p :: ps) = (List.range (p.n / 8)).map (fun i => .pkg (pa + 8 * i)) ++ sitesOf ps := by
      simp only [sitesOf, List.flatMap_cons, hloc]
    have hplaces : bytePlaces (p :: ps) = (List.range p.n).map (pa + ·) ++ bytePlaces ps := by
      simp only [bytePlaces, List.flatMap_cons, hloc]
    rw [List.map_cons, List.sum_cons] at hk
    rw [hsites, hplaces]
    by_cases hin : k < p.n / 8
    · refine ⟨pa + 8 * k, ?_, fun j hj => ?_⟩
      · rw [List.getElem?_append_left (by simpa using hin), List.getElem?_map, List.getElem?_range hin]
        rfl
      · have hlt : 8 * k + j < p.n := by omega
        rw [List.getElem?_append_left (by simpa using hlt), List.getElem?_map, List.getElem?_range hlt]
        exact congrArg some (Nat.add_assoc _ _ _).symm
    · obtain ⟨qa, hsite, hbytes⟩ := ih (k := k - p.n / 8) (fun q hq => hp q (List.mem_cons_of_mem _ hq))
        (fun q hq => h8 q (List.mem_cons_of_mem _ hq)) (by omega)
      refine ⟨qa, ?_, fun j hj => ?_⟩
      · rw [List.getElem?_append_right (by simpa using hin)]
        simpa using hsite
      · rw [List.getElem?_append_right (by simp; omega), ← hbytes j hj]
        congr 1
        simp
        omega

theorem leNat_map_range (f : Nat → Byte) (n : Nat) :
    leNat ((List.range n).map f) = ((List.range n).map fun i => (f i).toNat * 256 ^ i).sum := by
  induction n generalizing f with
  | zero => rfl
  | succ n ih =>
    have hscale (i : Nat) : (f (i + 1)).toNat * 256 ^ (i + 1) = 256 * ((f (i + 1)).toNat * 256 ^ i) := by ring
    rw [List.range_succ_eq_map, List.map_cons, List.map_map, leNat, Function.comp_def, ih, List.map_cons, List.map_map,
      List.sum_cons, Function.comp_def]
    simp only [Nat.succ_eq_add_one, hscale, List.sum_map_mul_left, pow_zero, Nat.mul_one]

/-- Eight bytes read from aligned pieces are the doubleword at its place. -/
theorem read_doubleword {s : State} {ps : List Piece1} (hp : ∀ p ∈ ps, ∃ pa, p.loc = .pkg pa) {k pa : Nat}
    (hbytes : ∀ j < 8, (bytePlaces ps)[8 * k + j]? = some (pa + j)) :
    leNat (((bytesAt s ps).drop (8 * k)).take 8) = valueAt s pa 8 := by
  have htake : ((bytesAt s ps).drop (8 * k)).take 8 = (List.range 8).map fun j => s.coreByte (own s) (pa + j) := by
    refine List.ext_getElem? fun j => ?_
    by_cases hj : j < 8
    · rw [List.getElem?_take_of_lt hj, List.getElem?_drop, bytesAt_eq s hp, List.getElem?_map, hbytes j hj,
        List.getElem?_map, List.getElem?_range hj]
      rfl
    · rw [List.getElem?_eq_none (by simp; omega), List.getElem?_eq_none (by simpa using hj)]
  rw [htake, leNat_map_range, valueAt]

end Sys2Proof.Machine
end


-- ==== Sys2Proof/Proofs/PortReads.lean ====
section
/-! SUPPORT. O35: what the memory port reads (R253, R256, R370) does not depend on the running context. -/

namespace Sys2Proof.Machine

section

variable (s : State) (h : Hart)

theorem codeOf_setCur (pa : Nat) : (s.setCur h).codeOf pa = s.codeOf pa := rfl

theorem coreByte_setCur (core pa : Nat) : (s.setCur h).coreByte core pa = s.coreByte core pa :=
  coreByte_congr rfl rfl rfl rfl pa

theorem coreDw_setCur (core pa : Nat) : (s.setCur h).coreDw core pa = s.coreDw core pa := by
  simp only [State.coreDw, coreBytes_eq, coreByte_setCur]

theorem initDw_setCur (core part idx : Nat) : (s.setCur h).initDw core part idx = s.initDw core part idx := by
  funext j
  simp only [State.initDw, coreDw_setCur, State.part_setCur]

theorem walk_setCur (k : PageKey) : (s.setCur h).walk k = s.walk k := rfl

theorem migrated_setCur (t f line : Nat) : (s.setCur h).migrated t f line = s.migrated t f line := rfl

theorem entryLoc_setCur (part idx : Nat) (e : BufEntry) (off : Nat) :
    (s.setCur h).entryLoc part idx e off = s.entryLoc part idx e off := by
  simp only [State.entryLoc, walk_setCur, migrated_setCur]

theorem viewDw_setCur (part idx o : Nat) : (s.setCur h).viewDw part idx o = s.viewDw part idx o := by
  have halmanac (o : Nat) : (s.setCur h).almanacByte part o = s.almanacByte part o := rfl
  have hwindow (t f j : Nat) : (s.setCur h).windowRead part t f j = s.windowRead part t f j := rfl
  have hfaultq (o : Nat) : (s.setCur h).faultqRead part o = s.faultqRead part o := rfl
  simp only [State.viewDw, halmanac, hwindow, hfaultq]

theorem portLoc0_setCur (core part addr : Nat) : (s.setCur h).portLoc0 core part addr = s.portLoc0 core part addr := by
  simp only [State.portLoc0, initDw_setCur, entryLoc_setCur, State.part_setCur]

theorem chanSet_setCur (core part k : Nat) : (s.setCur h).chanSet core part k = s.chanSet core part k := by
  simp only [State.chanSet, portLoc0_setCur, coreDw_setCur, viewDw_setCur, State.part_setCur]

theorem entryOf_setCur (core part : Nat) (base : Word) (idx : Nat) (d : Nat → Nat) :
    (s.setCur h).entryOf core part base idx d = s.entryOf core part base idx d := by
  simp only [State.entryOf, chanSet_setCur, State.part_setCur]

theorem portLoc_setCur (core part addr : Nat) : (s.setCur h).portLoc core part addr = s.portLoc core part addr := by
  simp only [State.portLoc, initDw_setCur, entryLoc_setCur, entryOf_setCur, State.part_setCur]

theorem portDw_setCur (core part addr : Nat) : (s.setCur h).portDw core part addr = s.portDw core part addr := by
  simp only [State.portDw, portLoc_setCur, coreDw_setCur, viewDw_setCur]

theorem remoteOf_setCur (core part idx : Nat) : (s.setCur h).remoteOf core part idx = s.remoteOf core part idx := by
  simp only [State.remoteOf, portDw_setCur, State.part_setCur]

theorem tableDw_setCur (core part addr : Nat) : (s.setCur h).tableDw core part addr = s.tableDw core part addr := by
  have hhost (a n : Nat) : (s.setCur h).hostBytes a n = s.hostBytes a n := rfl
  have hfresh : (s.setCur h).fresh = s.fresh := rfl
  simp only [State.tableDw, remoteOf_setCur, portDw_setCur, hhost, hfresh]

theorem portLen_setCur (core part idx : Nat) : (s.setCur h).portLen core part idx = s.portLen core part idx := by
  unfold State.portLen
  simp only [State.part_setCur, entryOf_setCur, initDw_setCur]

theorem entryNow_setCur (core part : Nat) (base : Word) (idx : Nat) :
    (s.setCur h).entryNow core part base idx = s.entryNow core part base idx := by
  rw [State.entryNow, portLen_setCur, State.part_setCur]
  simp only [entryOf_setCur, tableDw_setCur]
  rfl

theorem portBanks_setCur (core part addr n : Nat) :
    (s.setCur h).portBanks core part addr n = s.portBanks core part addr n := by
  simp only [State.portBanks, portLoc_setCur]

end

end Sys2Proof.Machine
end


-- ==== Sys2Proof/Proofs/HeldEntries.lean ====
section
/-! SUPPORT. O35: the entries that an `mst` holds while it waits play no part in checks and translations (R170, R179). -/

namespace Sys2Proof.Machine

open Sys2Proof.Claims

/-- The state in which the running context holds other entries. -/
def State.hold (s : State) (x : Option (List (BitVec 48) × Bool)) : State := s.setCur { s.cur with held := x }

/-- A result with the entries that the context holds replaced. -/
def MemRes.hold {α : Type} (r : MemRes α) (x : Option (List (BitVec 48) × Bool)) : MemRes α :=
  match r with
  | .trap t s => .trap t (s.hold x)
  | .kill t s => .kill t (s.hold x)
  | .wait s => .wait (s.hold x)
  | .gone s => .gone (s.hold x)
  | .ok a s => .ok a (s.hold x)

namespace Hold

variable (x : Option (List (BitVec 48) × Bool))

theorem foldl {α : Type} {f : State → α → State} (hf : ∀ s a, f (s.hold x) a = (f s a).hold x) (l : List α) (s : State) :
    l.foldl f (s.hold x) = (l.foldl f s).hold x := by
  induction l generalizing s with
  | nil => rfl
  | cons a l ih => rw [List.foldl_cons, List.foldl_cons, hf, ih]

theorem setBank (s : State) (b : Nat) (v : Bank) : (s.hold x).setBank b v = (s.setBank b v).hold x := rfl

theorem addRaa (s : State) (b : Nat) : (s.hold x).addRaa b = (s.addRaa b).hold x := by
  unfold State.addRaa
  dsimp only
  split <;> rfl

theorem releaseBus (s : State) (b : Nat) : (s.hold x).releaseBus b = (s.releaseBus b).hold x := by
  have hbus : (s.hold x).bus (bankBus b) = s.bus (bankBus b) := rfl
  unfold State.releaseBus
  dsimp only
  rw [hbus]
  split <;> rfl

theorem activate (s : State) (bs : List Nat) : (s.hold x).activate bs = (s.activate bs).hold x := by
  refine foldl x (fun s b => ?_) bs s
  have hbank : (s.hold x).bank b = s.bank b := rfl
  dsimp only
  rw [hbank]
  split
  · rw [addRaa, releaseBus]
  · rw [setBank, addRaa, releaseBus]

/-! ## Entries in use -/

theorem cacheEntry (s : State) (e : BufEntry) : (s.hold x).cacheEntry e = (s.cacheEntry e).hold x := by
  have hbanks (core part addr n : Nat) : (s.hold x).portBanks core part addr n = s.portBanks core part addr n :=
    portBanks_setCur s _ core part addr n
  unfold State.cacheEntry
  dsimp only
  rw [hbanks, activate]
  rfl

theorem bufEntry (s : State) (idx : Nat) : (s.hold x).bufEntry idx = ((s.bufEntry idx).1, (s.bufEntry idx).2.hold x) := by
  have hnow (core part : Nat) (base : Word) (idx : Nat) :
      (s.hold x).entryNow core part base idx = s.entryNow core part base idx := entryNow_setCur s _ core part base idx
  have hcur : (s.hold x).cur.core = s.cur.core ∧ (s.hold x).cur.part = s.cur.part ∧
      (s.hold x).cur.csr = s.cur.csr := ⟨rfl, rfl, rfl⟩
  have hcore (c : Nat) : (s.hold x).core c = s.core c := rfl
  have hdraw : (s.hold x).draw = (s.draw.1, s.draw.2.hold x) := rfl
  obtain ⟨h1, h2, h3⟩ := hcur
  unfold State.bufEntry
  dsimp only
  rw [h1, h2, h3, hcore, hnow, hdraw]
  split
  · rw [cacheEntry]
  · split
    · rfl
    · dsimp only
      split
      · rfl
      · rw [cacheEntry]

theorem space (s : State) (idx : Nat) : (s.hold x).space idx = ((s.space idx).1, (s.space idx).2.hold x) := by
  have hremote (t : State) (core part idx : Nat) : (t.hold x).remoteOf core part idx = t.remoteOf core part idx :=
    remoteOf_setCur t _ core part idx
  have hcur : (s.hold x).cur.core = s.cur.core ∧ (s.hold x).cur.part = s.cur.part := ⟨rfl, rfl⟩
  obtain ⟨h1, h2⟩ := hcur
  unfold State.space
  split_ifs
  iterate 6 rfl
  dsimp only
  rw [bufEntry]
  dsimp only
  rw [h1, h2, hremote]
  split
  · rfl
  · split <;> rfl

/-! ## Translations -/

theorem fillTlb (s : State) (gather : Bool) (e : TlbEntry) (k : PageKey) :
    (s.hold x).fillTlb gather e k = (s.fillTlb gather e k).hold x := by
  cases gather <;> rfl

theorem setPte (s : State) (t f : Nat) (v : Pte) : (s.hold x).setPte t f v = (s.setPte t f v).hold x := rfl

theorem tlbChoice (s : State) (k : PageKey) (hit : Option TlbEntry) :
    (s.hold x).tlbChoice k hit = ((s.tlbChoice k hit).1, (s.tlbChoice k hit).2.hold x) := by
  have hwalk : (s.hold x).walk k = s.walk k := rfl
  have hdraw : (s.hold x).draw = (s.draw.1, s.draw.2.hold x) := rfl
  cases hit with
  | none => rfl
  | some e =>
    rw [State.tlbChoice, State.tlbChoice, hwalk, hdraw]
    split <;> rfl

theorem translateBy (s : State) (gather : Bool) (k : PageKey) (wr : Bool) (now : Option Nat) (hit : Option TlbEntry) :
    (s.hold x).translateBy gather k wr now hit =
      ((s.translateBy gather k wr now hit).1, (s.translateBy gather k wr now hit).2.hold x) := by
  have hpte (t f : Nat) : (s.hold x).pte t f = s.pte t f := rfl
  cases hit with
  | none =>
    cases now with
    | none => rfl
    | some f =>
      simp only [State.translateBy, hpte, setPte, fillTlb]
  | some e =>
    simp only [State.translateBy, hpte]
    split
    · rw [fillTlb]
    · split
      · rw [fillTlb]
      · rw [setPte, fillTlb]

theorem translate (s : State) (gather : Bool) (k : PageKey) (wr : Bool) :
    (s.hold x).translate gather k wr = ((s.translate gather k wr).1, (s.translate gather k wr).2.hold x) := by
  have hhit : (s.hold x).tlbHit gather k = s.tlbHit gather k := rfl
  have hwalk : (s.hold x).walk k = s.walk k := rfl
  rw [translate_eq, translate_eq, hhit, hwalk, tlbChoice]
  dsimp only
  rw [translateBy]

theorem pageFrame (s : State) (m : Pages) (gather : Bool) (k : PageKey) (wr : Bool) :
    (s.hold x).pageFrame m gather k wr =
      ((s.pageFrame m gather k wr).1, (s.pageFrame m gather k wr).2.1, (s.pageFrame m gather k wr).2.2.hold x) := by
  unfold State.pageFrame
  split
  · rfl
  · rw [translate]

theorem locatePiece (s : State) (m : Pages) (gather : Bool) (idx : Nat) (sp : Space) (wr : Bool) (off : Nat) :
    (s.hold x).locatePiece m gather idx sp wr off = ((s.locatePiece m gather idx sp wr off).1,
      (s.locatePiece m gather idx sp wr off).2.1, (s.locatePiece m gather idx sp wr off).2.2.hold x) := by
  cases sp with
  | mem b =>
    have hpart : (s.hold x).cur.part = s.cur.part := rfl
    simp only [State.locatePiece, hpart, pageFrame]
    rfl
  | _ => rfl

theorem locatePieces (m : Pages) (gather : Bool) (idx : Nat) (sp : Space) (wr : Bool) (coords : List Nat)
    (cuts : List (Nat × Nat)) (s : State) : (s.hold x).locatePieces m gather idx sp wr coords cuts =
      ((s.locatePieces m gather idx sp wr coords cuts).1, (s.locatePieces m gather idx sp wr coords cuts).2.hold x) := by
  induction cuts generalizing s m with
  | nil => rfl
  | cons c cuts ih =>
    obtain ⟨off, n⟩ := c
    rw [State.locatePieces, State.locatePieces, locatePiece]
    generalize s.locatePiece m gather idx sp wr off = r
    obtain ⟨l, m1, s1⟩ := r
    cases l with
    | none => rfl
    | some l =>
      dsimp only
      rw [ih]
      generalize s1.locatePieces m1 gather idx sp wr coords cuts = r
      obtain ⟨e, s2⟩ := r
      cases e with
      | error o => rfl
      | ok q => rfl

theorem reach (s : State) (m : Pages) (gather : Bool) (a : Access1) (sp : Space) (coords : List Nat) :
    (s.hold x).reach m gather a sp coords =
      ((s.reach m gather a sp coords).1, (s.reach m gather a sp coords).2.hold x) := by
  have hcheck : a.check (s.hold x) sp = a.check s sp := by cases sp <;> rfl
  unfold State.reach
  rw [hcheck]
  split
  · rfl
  · rw [locatePieces]
    generalize s.locatePieces m gather a.idx sp a.kind.writes coords (lineCuts a.off.toNat a.n) = r
    obtain ⟨e, s2⟩ := r
    cases e with
    | error o => rfl
    | ok q => rfl

theorem guardPieces (s : State) (master kind : Nat) (ps : List Piece1) :
    (s.hold x).guardPieces master kind ps = ((s.guardPieces master kind ps).1, (s.guardPieces master kind ps).2.hold x) := by
  have hadmits : (s.hold x).admitsPiece master kind = s.admitsPiece master kind := rfl
  unfold State.guardPieces
  rw [hadmits]
  split <;> rfl

theorem reachUnitBy (s : State) (master : Nat) (m : Pages) (p : AccSpec) (sp : Space) (a : UnitAcc) :
    (s.hold x).reachUnitBy master m p sp a = (s.reachUnitBy master m p sp a).hold x := by
  unfold State.reachUnitBy
  rw [reach]
  generalize s.reach m p.gather ⟨p.idx, a.off, a.n, a.align, p.kind, p.dword, p.codeOk⟩ sp a.coords = r
  obtain ⟨e, s2⟩ := r
  cases e with
  | error o => rfl
  | ok q =>
    dsimp only
    rw [guardPieces]
    rfl

theorem reachUnits (p : AccSpec) (sp : Space) (us : List UnitAcc) (m : Pages) (done : List (List Piece1)) (s : State) :
    (s.hold x).reachUnits p sp noMore m done us = (s.reachUnits p sp noMore m done us).hold x := by
  induction us generalizing m done s with
  | nil => rfl
  | cons a us ih =>
    have hunit : (s.hold x).reachUnit m p sp a = (s.reachUnit m p sp a).hold x := reachUnitBy x s s.column m p sp a
    rw [State.reachUnits, State.reachUnits, hunit]
    cases s.reachUnit m p sp a with
    | ok r s1 => exact ih r.2 (r.1 :: done) s1
    | trap t s1 => rfl
    | kill t s1 => rfl
    | wait s1 => rfl
    | gone s1 => rfl

theorem reachRows (s : State) (p : AccSpec) (us : List UnitAcc) :
    (s.hold x).reachRows p us = (s.reachRows p us).hold x := by
  unfold State.reachRows
  split
  · rfl
  · rw [space]
    dsimp only
    rw [reachUnits]
    cases (s.space p.idx).2.reachUnits p (s.space p.idx).1 noMore [] [] us <;> rfl

end Hold

end Sys2Proof.Machine
end


-- ==== Sys2Proof/Proofs/TileLoads.lean ====
section
/-! SUPPORT. O35: `mld` (R179, R240). -/

namespace Sys2Proof.Machine

open Sys2Proof.Claims

/-! ## Rows of a tile transfer -/

/-- The rows of a tile transfer that have translations in package memory. -/
structure RowsFound (s t : State) (p : AccSpec) (us : List UnitAcc) (ps : List Piece1) : Prop where
  reached : s.reachRows p us = .ok ps t
  accessed : Accessed s t
  pkg : ∀ q ∈ ps, ∃ pa, q.loc = .pkg pa
  length : (ps.map Piece1.n).sum = 1024 * us.length
  aligned : ∀ q ∈ ps, q.n % 8 = 0

theorem rowsFound_of_unitsReach {s : State} {k : Kind} {a : Word} {us : List UnitAcc} {pss : List (List Piece1)}
    (h : UnitsReach s k false a us pss) (hus : ∀ u ∈ us, u.n = 1024 ∧ u.align = 8) :
    ∃ t, RowsFound s t ⟨addrIdx a, k, false, false, false⟩ us pss.flatten := by
  obtain ⟨sp, -, ⟨s1, s2, hspace, hunits⟩, hpkg⟩ := h
  obtain ⟨hacc, qss, hqss, hforall⟩ := reachUnits_pkg hunits hpkg
  obtain rfl : pss = qss := hqss
  obtain ⟨hlength, haligned⟩ := rows_pieces hforall hus
  have hflat : ∀ q ∈ pss.flatten, ∃ pa, q.loc = .pkg pa := fun q hq => by
    obtain ⟨ps, hps, hq⟩ := List.mem_flatten.mp hq
    exact hpkg ps hps q hq
  cases us with
  | nil =>
    obtain rfl : pss = [] := by cases hforall; rfl
    exact ⟨s, rfl, .refl s, hflat, hlength, haligned⟩
  | cons u us =>
    have hacc1 := Accessed.space s (addrIdx a)
    rw [hspace] at hacc1
    refine ⟨s2, ?_, hacc1.trans hacc, hflat, hlength, haligned⟩
    rw [State.reachRows]
    simp only [List.isEmpty_cons, hspace, hunits, Bool.false_eq_true, if_false, MemRes.bind]

/-- The rows of a tile transfer of the context after its waits. -/
theorem tileRows_shape (s : State) (xa xb : BitVec 5) :
    (∀ u ∈ s.tileRows xa xb, u.n = 1024 ∧ u.align = 8) ∧ (s.tileRows xa xb).length = s.cur.vl / 128 := by
  constructor
  · intro u hu
    obtain ⟨r, -, rfl⟩ := List.mem_map.mp hu
    exact ⟨rfl, rfl⟩
  · simp [State.tileRows]

theorem tileMemCheck_none {h : Hart} (hh : Healthy h) {tile : BitVec 3} (ht : tile.toNat < h.ntiles)
    (hvl : h.csr.vl.toNat % 128 = 0) (bits : Nat) (xa xb : BitVec 5) : h.tileMemCheck bits tile xa xb = none := by
  obtain ⟨hx, -⟩ := hh
  have hrows : h.vl % 128 = 0 := hvl
  simp [Hart.tileMemCheck, firstTrap_eq_none, tileCheck_none ht, h.scalarPoison_clean [xa, xb] hx, hrows]

/-! ## `mld` (R179) -/

theorem rowEntries_getElem {s : State} {ps : List Piece1} (hp : ∀ q ∈ ps, ∃ pa, q.loc = .pkg pa)
    (h8 : ∀ q ∈ ps, q.n % 8 = 0) {k : Nat} (hk : 8 * k < (ps.map Piece1.n).sum) :
    let pa := (bytePlaces ps).getD (8 * k) 0
    (sitesOf ps)[k]? = some (.pkg pa) ∧
      (rowEntries (bytesAt s ps) (sitesOf ps))[k]? = some (k, BitVec.ofNat 64 (valueAt s pa 8), .pkg pa) := by
  obtain ⟨pa, hsite, hbytes⟩ := site_places hp h8 hk
  have hplace : (bytePlaces ps).getD (8 * k) 0 = pa := by
    rw [List.getD_eq_getElem?_getD, ← Nat.add_zero (8 * k), hbytes 0 (by decide)]
    rfl
  intro qa
  obtain rfl : qa = pa := hplace
  refine ⟨hsite, ?_⟩
  rw [rowEntries, List.getElem?_map, List.getElem?_zipIdx, hsite, Option.map_some, Option.map_some, Nat.zero_add]
  dsimp only
  rw [read_doubleword hp hbytes]

theorem mld_issues (tile : BitVec 3) (xa xb : BitVec 5) (slot : BitVec 4) (set : BitVec 1) (wait : BitVec 16) (s : State)
    (pss : List (List Piece1)) (hh : Healthy (s.awaitSlots wait).cur)
    (ht : tile.toNat < (s.awaitSlots wait).cur.ntiles) (hvl : (s.awaitSlots wait).cur.csr.vl.toNat % 128 = 0)
    (hreach : UnitsReach (s.awaitSlots wait) .read false ((s.awaitSlots wait).readX xa)
      ((s.awaitSlots wait).tileRows xa xb) pss) (hsound : PiecesSound (s.awaitSlots wait) pss) :
    let s1 := s.awaitSlots wait
    let h := s1.cur
    ∃ u es, exec (.mld tile xa xb slot set wait) s = .next u ∧ Touches s1 u ∧ BytesSame s1 u ∧
      u.cur.pc = h.pc + 8 ∧ AccessHart s1 { u with cur := { u.cur with matq := h.matq } } ∧
      u.cur.matq = h.matq ++ [⟨tile, .load es, slotOf slot set⟩] ∧
      ∀ k < h.csr.vl.toNat, let pa := placeOf pss (8 * k)
        es[k]? = some (k, BitVec.ofNat 64 (valueAt s1 pa 8), .pkg pa) := by
  have hexec : exec (.mld tile xa xb slot set wait) s = execMld tile xa xb slot set wait s := rfl
  rw [execMld] at hexec
  generalize s.awaitSlots wait = s1 at *
  intro _ h
  obtain ⟨hshape, hlen⟩ := tileRows_shape s1 xa xb
  obtain ⟨t, hreached, hacc, hpkg, hlength, haligned⟩ := rowsFound_of_unitsReach hreach hshape
  have hreadable : Readable t pss.flatten := fun q hq => by
    obtain ⟨pa, hloc⟩ := hpkg q hq
    obtain ⟨ps, hps, hq⟩ := List.mem_flatten.mp hq
    exact ⟨pa, hloc, fun a h1 h2 => hacc.poison_eq ▸ hsound ps hps q hq pa hloc a h1 h2⟩
  have hcount := hacc.trans (Accessed.count t (addrIdx (s1.readX xa)) pss.flatten [])
  rw [tileMemCheck_none hh ht hvl, hreached] at hexec
  dsimp only [MemRes.bind] at hexec
  rw [readPieces_pkg hreadable, bytesAt_congr hacc.own_eq hacc.coreByte] at hexec
  dsimp only [MemRes.bind] at hexec
  generalize t.count (addrIdx (s1.readX xa)) pss.flatten [] = u at hexec hcount
  have hmatq : u.cur.matq = h.matq := (congrArg Hart.matq hcount.hart :)
  obtain ⟨htouches, hbytes, hpc, -⟩ := hcount.retire 8 (g := { u.cur with matq := u.cur.matq ++
    [⟨tile, .load (rowEntries (bytesAt s1 pss.flatten) (sitesOf pss.flatten)), setSlot slot set⟩] }) rfl rfl
  refine ⟨_, rowEntries (bytesAt s1 pss.flatten) (sitesOf pss.flatten), hexec, htouches, hbytes, hpc, ?_, ?_,
    fun k hk => ?_⟩
  · exact (congrArg (fun g : Hart => { g with
      x := h.x, xPoison := h.xPoison, pc := h.pc, answers := h.answers, ifetch := h.ifetch, matq := h.matq }) hcount.hart :)
  · exact congrArg (· ++ _) hmatq
  · have hin : 8 * k < (pss.flatten.map Piece1.n).sum := by
      have hvl' : s1.cur.vl % 128 = 0 := hvl
      have hk' : k < s1.cur.vl := hk
      rw [hlength, hlen]
      omega
    obtain ⟨-, hentry⟩ := rowEntries_getElem (s := s1) hpkg haligned hin
    exact hentry

end Sys2Proof.Machine
end


-- ==== Sys2Proof/Proofs/TileStores.lean ====
section
/-! SUPPORT. O35: `mst` (R177, R179, R240). -/

namespace Sys2Proof.Machine

open Sys2Proof.Claims

/-! ## Frames of line-compressed buffers (R278) -/

/-- A frame noted to be one of a line-compressed buffer: its codes and tag copies stay. -/
structure NotedLc (s t : State) : Prop where
  rest : { t with frames := s.frames } = s
  codes : ∀ p f, (t.frame p f).codes = (s.frame p f).codes
  tags : ∀ p f, (t.frame p f).tags = (s.frame p f).tags

theorem NotedLc.refl (s : State) : NotedLc s s := ⟨rfl, fun _ _ => rfl, fun _ _ => rfl⟩

theorem NotedLc.trans {s t u : State} (h : NotedLc s t) (g : NotedLc t u) : NotedLc s u :=
  ⟨(congrArg (fun x : State => { x with frames := s.frames }) g.rest).trans h.rest,
    fun p f => (g.codes p f).trans (h.codes p f), fun p f => (g.tags p f).trans (h.tags p f)⟩

theorem notedLc_noteLc (s : State) (p : Piece1) : NotedLc s (s.noteLc p) := by
  unfold State.noteLc
  split
  next pa _ =>
    dsimp only
    split
    · have hframe (t f : Nat) : (s.setFrame (paTable pa) (paFrame pa)
          { s.frame (paTable pa) (paFrame pa) with lc := true }).frame t f =
          if frameKey t f = frameKey (paTable pa) (paFrame pa) then { s.frame (paTable pa) (paFrame pa) with lc := true }
          else s.frame t f := tget_tset _ _ _ _ _
      refine ⟨rfl, fun t f => ?_, fun t f => ?_⟩
      · rw [hframe]
        split
        next hk => rw [State.frame, State.frame, hk]
        next => rfl
      · rw [hframe]
        split
        next hk => rw [State.frame, State.frame, hk]
        next => rfl
    · exact .refl s
  next => exact .refl s

theorem notedLc_foldl (ps : List Piece1) (s : State) : NotedLc s (ps.foldl State.noteLc s) := by
  induction ps generalizing s with
  | nil => exact .refl s
  | cons p ps ih => exact (notedLc_noteLc s p).trans (ih _)

/-- The relation of accesses speaks neither of the metadata of frames nor of held entries. -/
theorem Accessed.withFrames {s t : State} (h : Accessed s t) (fs : List (Nat × FrameMeta)) :
    Accessed { s with frames := fs } { t with frames := fs } :=
  ⟨congrArg (fun x : State => { x with frames := fs }) h.rest, h.hart, h.entries, h.banks, h.wf, h.buses, h.others, h.self⟩

theorem Accessed.hold {s t : State} (h : Accessed s t) (x : Option (List (BitVec 48) × Bool)) :
    Accessed (s.hold x) (t.hold x) :=
  ⟨congrArg (fun u : State => u.hold x) h.rest, congrArg (fun g : Hart => { g with held := x }) h.hart, h.entries, h.banks,
    h.wf, h.buses, h.others, h.self⟩

/-- Accesses, frames noted, and accesses again: the relation holds when the metadata of frames are put back. -/
theorem Accessed.noted {s t v u : State} (h : Accessed s t) (hv : NotedLc t v) (g : Accessed v u) :
    Accessed s { u with frames := s.frames } := by
  have hframes : t.frames = s.frames := (congrArg State.frames h.rest :)
  have hg := g.withFrames t.frames
  rw [hv.rest, hframes] at hg
  exact h.trans hg

theorem Accessed.frames_eq {s t : State} (h : Accessed s t) : t.frames = s.frames := (congrArg State.frames h.rest :)

/-! ## Entries taken (R177) -/

theorem takeEntries_idle {s : State} {tile : BitVec 3} (hq : s.cur.matq = []) (hheld : s.cur.held = none)
    (hpoison : (s.cur.tiles.getD tile.toNat .reset).poison = []) (n : Nat) :
    let xs := (List.range n).map (s.cur.tiles.getD tile.toNat .reset).seen
    let vs := xs.map fun x => BitVec.ofInt 48 x.val
    let o := xs.any SeenEntry.ovf
    s.takeEntries tile n = (none, vs, o, s.hold (some (vs, o))) := by
  intro xs vs o
  rw [State.takeEntries, hheld]
  dsimp only
  rw [readTile_idle hq]
  dsimp only
  rw [tilePoison_none hpoison]
  rfl

theorem seen_ovf_any (t : Tile) (n : Nat) :
    ((List.range n).map t.seen).any SeenEntry.ovf = (decide (0 < n) && t.ovf) := by
  cases n with
  | zero => rfl
  | succ n =>
    cases hovf : t.ovf
    · simp [Tile.seen, hovf]
    · simp only [List.any_map, Function.comp_def, Tile.seen, hovf, Nat.zero_lt_succ, decide_true, Bool.and_self]
      exact List.any_eq_true.mpr ⟨0, List.mem_range.mpr n.succ_pos, rfl⟩

/-- The doubleword of an entry (R179). -/
theorem entry_word (v : BitVec 48) : (BitVec.ofInt 48 v.toInt).signExtend 64 = word v.toInt := by
  rw [BitVec.ofInt_toInt]
  rfl

theorem admitDevices_pkg {s : State} {ps : List Piece1} (hp : ∀ p ∈ ps, ∃ pa, p.loc = .pkg pa) (base idx type : Nat) :
    s.admitDevices base idx type ps = .ok () s := by
  rw [State.admitDevices, deviceReqs_pkg hp, askAll_pkg hp]
  rfl

theorem postDevices_pkg {s : State} {ps : List Piece1} (hp : ∀ p ∈ ps, ∃ pa, p.loc = .pkg pa)
    (ws : List (Int × List Byte)) : s.postDevices (writeReqs ws ps) = s := by
  rw [writeReqs, deviceReqs_pkg hp]
  rfl

/-! ## `mst` (R179) -/

/-- How an `mst` to package memory ends, when its entries are free of poison and no write is pending. -/
theorem mst_ends (tile : BitVec 3) (xa xb : BitVec 5) (slot : BitVec 4) (set : BitVec 1) (wait : BitVec 16) (s : State)
    {t : State} {ps : List Piece1} (hh : Healthy (s.awaitSlots wait).cur)
    (ht : tile.toNat < (s.awaitSlots wait).cur.ntiles) (hvl : (s.awaitSlots wait).cur.csr.vl.toNat % 128 = 0)
    (hq : (s.awaitSlots wait).cur.matq = []) (hheld : (s.awaitSlots wait).cur.held = none)
    (hpoison : ((s.awaitSlots wait).cur.tiles.getD tile.toNat .reset).poison = [])
    (hrows : RowsFound (s.awaitSlots wait) t ⟨addrIdx ((s.awaitSlots wait).readX xa), .write, false, false, false⟩
      ((s.awaitSlots wait).tileRows xa xb) ps) :
    let s1 := s.awaitSlots wait
    let xs := (List.range s1.cur.vl).map (s1.cur.tiles.getD tile.toNat .reset).seen
    let vs := xs.map fun x => BitVec.ofInt 48 x.val
    let o := xs.any SeenEntry.ovf
    let u := (ps.foldl State.noteLc (t.hold (some (vs, o)))).count (addrIdx (s1.readX xa)) ps ps
    exec (.mst tile xa xb slot set wait) s = .next (retire 8 (u.setCur { u.cur.addFlags (flagIf o fOF) with
      held := none
      matq := u.cur.matq ++ [⟨tile, .store ((sitesOf ps).zip (vs.map fun v => v.signExtend 64)), setSlot slot set⟩] })) := by
  have hexec : exec (.mst tile xa xb slot set wait) s = execMst tile xa xb slot set wait s := rfl
  rw [execMst] at hexec
  generalize s.awaitSlots wait = s1 at *
  intro _ xs vs o u
  obtain ⟨hreached, -, hpkg, -, -⟩ := hrows
  obtain ⟨-, hlen⟩ := tileRows_shape s1 xa xb
  have hvl' : 128 * (s1.tileRows xa xb).length = s1.cur.vl := by
    have hdiv : s1.cur.vl % 128 = 0 := hvl
    rw [hlen]
    omega
  dsimp only at hexec
  rw [tileMemCheck_none hh ht hvl, hvl'] at hexec
  dsimp only at hexec
  rw [takeEntries_idle hq hheld hpoison] at hexec
  dsimp only at hexec
  rw [Hold.reachRows, hreached] at hexec
  dsimp only [MemRes.hold, MemRes.bind] at hexec
  rw [admitDevices_pkg hpkg] at hexec
  dsimp only [MemRes.bind] at hexec
  rw [postDevices_pkg hpkg] at hexec
  have hu : u = (ps.foldl State.noteLc (t.hold (some (vs, o)))).count (addrIdx (s1.readX xa)) ps ps := rfl
  clear_value u
  rw [← hu] at hexec
  exact hexec

/-- The frame of a write that retires, from the state `u` before it retires, seen with the frames as they were. -/
theorem touchesStore_retire {s u : State} (h : Accessed s (State.hold { u with frames := s.frames } s.cur.held))
    (hframes : ∀ p f, (u.frame p f).codes = (s.frame p f).codes ∧ (u.frame p f).tags = (s.frame p f).tags) {g : Hart}
    (hcore : g.core = u.cur.core) (hpc : g.pc = u.cur.pc) :
    let t := retire 8 (u.setCur g)
    TouchesStore s t ∧ BanksSame s t ∧ BytesSame s t ∧ t.cur.pc = s.cur.pc + 8 := by
  intro t
  obtain ⟨htouches, hbytes, htpc, -⟩ := h.retire 8 (g := g) hcore hpc
  have hmem : u.mem = s.mem := (congrArg State.mem h.rest :)
  have hpoison : u.poison = s.poison := h.poison_eq
  have hsame : sameStore s t = { t with frames := s.frames } := by
    rw [sameStore, ← hmem, ← hpoison]
    rfl
  refine ⟨⟨hsame ▸ htouches, fun p f => (hframes p f).2, fun k hk => ?_⟩, ⟨hmem, hpoison⟩, fun a => ?_, htpc⟩
  · rw [← hpoison]
    exact hk
  · have hcodes (p f : Nat) : (t.frame p f).codes =
        ((retire 8 ((State.hold { u with frames := s.frames } s.cur.held).setCur g)).frame p f).codes := (hframes p f).1
    exact (coreByte_congr_codes (s := retire 8 ((State.hold { u with frames := s.frames } s.cur.held).setCur g)) (t := t)
      rfl rfl hcodes rfl a).trans (hbytes a)

theorem mst_issues (tile : BitVec 3) (xa xb : BitVec 5) (slot : BitVec 4) (set : BitVec 1) (wait : BitVec 16) (s : State)
    (pss : List (List Piece1)) (hh : Healthy (s.awaitSlots wait).cur)
    (ht : tile.toNat < (s.awaitSlots wait).cur.ntiles) (hvl : (s.awaitSlots wait).cur.csr.vl.toNat % 128 = 0)
    (hreach : UnitsReach (s.awaitSlots wait) .write false ((s.awaitSlots wait).readX xa)
      ((s.awaitSlots wait).tileRows xa xb) pss)
    (hq : (s.awaitSlots wait).cur.matq = []) (hheld : (s.awaitSlots wait).cur.held = none)
    (hpoison : ((s.awaitSlots wait).cur.tiles.getD tile.toNat .reset).poison = []) :
    let s1 := s.awaitSlots wait
    let h := s1.cur
    let t := h.tiles.getD tile.toNat .reset
    ∃ u ws, exec (.mst tile xa xb slot set wait) s = .next u ∧ TouchesStore s1 u ∧ BanksSame s1 u ∧ BytesSame s1 u ∧
      u.cur.pc = h.pc + 8 ∧ MatrixHart s1 u ∧
      u.cur.csr.fcsr = (if 0 < h.csr.vl.toNat ∧ t.ovf = true then h.csr.fcsr ||| 4 else h.csr.fcsr) ∧
      u.cur.matq = [⟨tile, .store ws, slotOf slot set⟩] ∧
      ∀ k < h.csr.vl.toNat, ws[k]? =
        some (.pkg (placeOf pss (8 * k)), word (tget (0 : BitVec 48) t.acc k).toInt) := by
  obtain ⟨hshape, hlen⟩ := tileRows_shape (s.awaitSlots wait) xa xb
  obtain ⟨t0, hrows⟩ := rowsFound_of_unitsReach hreach hshape
  have hend := mst_ends tile xa xb slot set wait s hh ht hvl hq hheld hpoison hrows
  obtain ⟨-, hacc, hpkg, hlength, haligned⟩ := hrows
  generalize s.awaitSlots wait = s1 at *
  dsimp only at hend
  intro _ h t
  generalize hxs : (List.range s1.cur.vl).map (s1.cur.tiles.getD tile.toNat .reset).seen = xs at hend
  generalize (some (xs.map fun x => BitVec.ofInt 48 x.val, xs.any SeenEntry.ovf) : Option _) = x at hend
  have hnoted := notedLc_foldl pss.flatten (t0.hold x)
  generalize pss.flatten.foldl State.noteLc (t0.hold x) = v at hend hnoted
  have hcount := Accessed.count v (addrIdx (s1.readX xa)) pss.flatten pss.flatten
  generalize v.count (addrIdx (s1.readX xa)) pss.flatten pss.flatten = u at hend hcount
  have hfinal : Accessed s1 (State.hold { u with frames := s1.frames } s1.cur.held) :=
    ((hacc.hold x).noted hnoted hcount).hold s1.cur.held
  have hframes (p f : Nat) : (u.frame p f).codes = (s1.frame p f).codes ∧ (u.frame p f).tags = (s1.frame p f).tags := by
    have hu : u.frame p f = v.frame p f := by rw [State.frame, State.frame, hcount.frames_eq]
    have ht0 : (t0.hold x).frame p f = s1.frame p f := 
      congrArg (fun fs : List (Nat × FrameMeta) => tget FrameMeta.reset fs (frameKey p f)) hacc.frames_eq
    rw [hu, hnoted.codes, hnoted.tags, ht0]
    exact ⟨rfl, rfl⟩
  have hcsr : u.cur.csr.fcsr = s1.cur.csr.fcsr := (congrArg (fun g : Hart => g.csr.fcsr) hfinal.hart :)
  have hmatq : u.cur.matq = [] := (congrArg Hart.matq hfinal.hart :).trans hq
  obtain ⟨hstore, hbanks, hbytes, hpc⟩ := touchesStore_retire hfinal hframes
    (g := { u.cur.addFlags (flagIf (xs.any SeenEntry.ovf) fOF) with
      held := none
      matq := u.cur.matq ++ [⟨tile, .store ((sitesOf pss.flatten).zip ((xs.map fun x => BitVec.ofInt 48 x.val).map
        fun v => v.signExtend 64)), setSlot slot set⟩] }) rfl rfl
  refine ⟨_, (sitesOf pss.flatten).zip ((xs.map fun x => BitVec.ofInt 48 x.val).map fun v => v.signExtend 64), hend,
    hstore, hbanks, hbytes, hpc, ?_, ?_, congrArg (· ++ _) hmatq, fun k hk => ?_⟩
  · have hhart := (congrArg (fun g : Hart => { g with
      x := h.x, xPoison := h.xPoison, pc := h.pc, answers := h.answers, ifetch := h.ifetch, matq := h.matq
      held := none, csr := { g.csr with fcsr := h.csr.fcsr } }) hfinal.hart :)
    refine hhart.trans ?_
    rw [← hheld]
  · have hflag : xs.any SeenEntry.ovf = (decide (0 < s1.cur.vl) && t.ovf) := by rw [← hxs, seen_ovf_any]
    show orFlags u.cur.csr.fcsr (flagIf (xs.any SeenEntry.ovf) fOF) = _
    rw [hcsr, hflag]
    by_cases hon : 0 < h.csr.vl.toNat ∧ t.ovf = true
    · have hvl0 : 0 < s1.cur.vl := hon.1
      rw [if_pos hon, hon.2, decide_eq_true hvl0]
      rfl
    · have hoff : (decide (0 < s1.cur.vl) && t.ovf) = false := by
        rw [Bool.and_eq_false_iff, decide_eq_false_iff_not, ← Bool.not_eq_true]
        exact not_and_or.mp hon
      rw [if_neg hon, hoff]
      exact BitVec.or_zero
  · have hin : 8 * k < (pss.flatten.map Piece1.n).sum := by
      have hvl' : s1.cur.vl % 128 = 0 := hvl
      have hk' : k < s1.cur.vl := hk
      rw [hlength, hlen]
      omega
    obtain ⟨hsite, -⟩ := rowEntries_getElem (s := s1) hpkg haligned hin
    rw [List.getElem?_zip_eq_some]
    refine ⟨hsite, ?_⟩
    have hk' : k < s1.cur.vl := hk
    rw [← hxs]
    simp only [List.getElem?_map, List.getElem?_range hk', Option.map_some, Tile.seen, entry_word]
    rfl

end Sys2Proof.Machine
end


-- ==== Sys2Proof/Proofs/Tiles.lean ====
section
/-! SUPPORT. O35: the matrix instructions together. -/

namespace Sys2Proof.Machine

open Sys2Proof.Claims

/-- `bpacc` and `bpsub` issue the terms of their active rows and columns (R173, R174). -/
theorem products_issue (tile : BitVec 3) (va vb : BitVec 6) (am bm : BitVec 2) (slot : BitVec 4) (set : BitVec 1)
    (wait : BitVec 16) (s : State) (hh : Healthy (s.awaitSlots wait).cur) {i : Instr} {neg : Bool}
    (hi : i = .bpacc tile va vb am bm slot set wait ∧ neg = false ∨ i = .bpsub tile va vb am bm slot set wait ∧ neg = true)
    (hp : ProductFits ⟨tile, va, vb, am, bm⟩ (s.awaitSlots wait).cur) :
    let s1 := s.awaitSlots wait
    let h := s1.cur
    let row (k : Nat) : Bool := decide (k < h.csr.vl.toNat / 32) && maskBit h am.toNat (32 * k)
    let n := 2 ^ (h.opnd vb).dom
    let col (k : Nat) : Bool := decide (k < 128) && maskBit h bm.toNat (32 * n * (k / n))
    let term (a b : Nat) : Int :=
      productTerm (h.productBlock (h.opnd va) a) (h.productBlock (h.opnd vb) b) (h.tileExp tile)
    ∃ ts fl, Issues i s s1 { h with csr := { h.csr with fcsr := fl } } tile (.add ts) (slotOf slot set) ∧
      (∀ a b z, b < 128 → ((128 * a + b, z) ∈ ts ↔ row a = true ∧ col b = true ∧ term a b ≠ 0 ∧
        z = if neg then -term a b else term a b)) ∧ (fl = h.csr.fcsr ∨ fl = h.csr.fcsr ||| 16) := by
  intro s1 h row n col term
  have hexec : ∃ bits, exec i s = productExec bits neg ⟨tile, va, vb, am, bm⟩ (slotOf slot set) wait s := by
    rcases hi with ⟨rfl, rfl⟩ | ⟨rfl, rfl⟩
    · exact ⟨_, rfl⟩
    · exact ⟨_, rfl⟩
  obtain ⟨bits, hexec⟩ := hexec
  obtain ⟨fl, hissues, hfl⟩ := product_issues hexec hh hp
  refine ⟨_, fl, hissues, fun a b z hb => ?_, hfl⟩
  exact (mem_terms ⟨tile, va, vb, am, bm⟩ neg h hb z).trans
    (and_congr (mem_rows _ h a) (and_congr (mem_cols _ h b) Iff.rfl))

/-- Settles O35: waits complete what their slots count, and each instruction issues its write or its reads. -/
theorem tiles : Obligations.Tiles := by
  unfold Obligations.Tiles
  refine ⟨fun tile slot set wait s hh => ?_, fun tile xb slot set wait s hh => ?_⟩
  · have hawaited := awaitSlots_awaited s wait
    obtain ⟨-, -, honly⟩ := id hawaited
    have hh1 := healthy_completed honly hh
    refine ⟨hawaited, mwait_waits slot wait s, fun exp ht => tclr_issues tile exp slot set wait s ht,
      fun i hi ht => missing_tile_traps hi ht, fun va vb am bm i neg hi ht hva hvb htags hrows hshort hdom => ?_,
      fun va xb ht hva hvl hfits => mwr_issues tile va xb slot set wait s hh1 ht hva hvl hfits⟩
    exact products_issue tile va vb am bm slot set wait s hh1 hi ⟨ht, hva, hvb, htags, hrows, hshort, hdom⟩
  · obtain ⟨-, -, honly⟩ := awaitSlots_awaited s wait
    have hh1 := healthy_completed honly hh
    have hpc : (s.awaitSlots wait).cur.pc = s.cur.pc := (congrArg Hart.pc (completesOnly_hart honly) :)
    intro s1 h vl t entry ht
    refine ⟨fun vd g i place hi hq hpoison hvd habove hbelow hdest hfits => ?_,
      fun xa pss hvl => ⟨fun hreach hsound => ?_, fun hreach hq hheld hpoison => ?_⟩⟩
    · have hexec : ∃ bits, exec i s = tileReadExec bits vd tile xb wait place s := by
        rcases hi with ⟨rfl, rfl⟩ | ⟨rfl, rfl⟩
        · exact ⟨_, rfl⟩
        · exact ⟨_, rfl⟩
      obtain ⟨bits, hexec⟩ := hexec
      exact sliceRead_writes hexec hh1 hq hpoison ⟨ht, hvd, habove, hbelow, hdest, hfits⟩
    · rw [← hpc]
      exact mld_issues tile xa xb slot set wait s pss hh1 ht hvl hreach hsound
    · rw [← hpc]
      exact mst_issues tile xa xb slot set wait s pss hh1 ht hvl hreach hq hheld hpoison

end Sys2Proof.Machine
end


-- ==== Sys2Proof/Proofs/HaarTransforms.lean ====
section
/-! SUPPORT. O29: the Haar transforms of a column (R53), and that of integers undone (R54). -/

namespace Sys2Proof.Machine

open Sys2Proof.Claims

/-! ## Integers modulo `2^w` -/

theorem wrap_cast (w : Nat) (z : Int) : ((wrap w z : Nat) : Int) = z % 2 ^ w := by
  rw [wrap, Int.toNat_of_nonneg (Int.emod_nonneg _ (by positivity))]
  push_cast
  rfl

theorem wrap_congr {w : Nat} {y z : Int} (h : y ≡ z [ZMOD 2 ^ w]) : wrap w y = wrap w z := by
  have hcast : (wrap w y : Int) = wrap w z := by
    rw [wrap_cast, wrap_cast]
    exact h
  exact_mod_cast hcast

theorem wrap_modEq (w : Nat) (z : Int) : (wrap w z : Int) ≡ z [ZMOD 2 ^ w] := by
  rw [wrap_cast]
  exact Int.mod_modEq _ _

theorem wrap_natCast (w n : Nat) : wrap w (n : Int) = n % 2 ^ w := by
  have hcast : ((wrap w (n : Int) : Nat) : Int) = ((n % 2 ^ w : Nat) : Int) := by
    rw [wrap_cast]
    push_cast
    rfl
  exact_mod_cast hcast

/-- The signed reading of a pattern is the pattern modulo `2^w`. -/
theorem signedOf_modEq (w n : Nat) : signedOf w n ≡ n [ZMOD 2 ^ w] := by
  have hmod : ((n % 2 ^ w : Nat) : Int) ≡ n [ZMOD 2 ^ w] := by
    push_cast
    exact Int.mod_modEq _ _
  unfold signedOf
  split
  · exact hmod
  · have hcast : ((2 ^ w : Nat) : Int) = 2 ^ w := by push_cast; rfl
    rw [hcast]
    exact Int.sub_modulus_modEq_iff.mpr hmod

theorem intOf_modEq (t : Tag) (n : Nat) : intOf t n ≡ n [ZMOD 2 ^ tagWidth t] := by
  unfold intOf
  split
  · exact signedOf_modEq _ _
  · push_cast
    exact Int.mod_modEq _ _

/-! ## Columns of patterns -/

/-- Every element of a column is a pattern of the width of the type. -/
def Patterns (t : Tag) (c : List Elem) : Prop := ∀ x ∈ c, ∃ n < 2 ^ tagWidth t, x = .raw n

theorem patterns_cons {t : Tag} {x : Elem} {c : List Elem} :
    Patterns t (x :: c) ↔ (∃ n < 2 ^ tagWidth t, x = .raw n) ∧ Patterns t c := List.forall_mem_cons

theorem patterns_append {t : Tag} {c d : List Elem} : Patterns t (c ++ d) ↔ Patterns t c ∧ Patterns t d :=
  List.forall_mem_append

/-! ## One pair of integers (R54) -/

theorem haarPair_int {t : Tag} (ht : tagFamily t = .int) (md : FpMode) (x y : Nat) :
    haarPair t md (.raw x) (.raw y) =
      ((.raw (wrap (tagWidth t) (intOf t y + signedOf (tagWidth t) (wrap (tagWidth t) (intOf t x - intOf t y)) / 2)),
        .raw (wrap (tagWidth t) (intOf t x - intOf t y))), 0) := by
  simp only [haarPair, ht, Elem.int, Elem.bits]

theorem haarUnpair_int {t : Tag} (ht : tagFamily t = .int) (md : FpMode) (a d : Nat) :
    haarUnpair t md (.raw a) (.raw d) =
      ((.raw (wrap (tagWidth t) (signedOf (tagWidth t) d +
          wrap (tagWidth t) (intOf t a - signedOf (tagWidth t) d / 2))),
        .raw (wrap (tagWidth t) (intOf t a - signedOf (tagWidth t) d / 2))), 0) := by
  simp only [haarUnpair, ht, Elem.int, Elem.bits]

/-- The two elements come back from their approximation and their detail, modulo `2^w`. -/
theorem haarUnpair_haarPair {t : Tag} (ht : tagFamily t = .int) (md : FpMode) {x y : Nat} (hx : x < 2 ^ tagWidth t)
    (hy : y < 2 ^ tagWidth t) :
    (haarUnpair t md (haarPair t md (.raw x) (.raw y)).1.1 (haarPair t md (.raw x) (.raw y)).1.2).1 = (.raw x, .raw y) := by
  rw [haarPair_int ht]
  dsimp only
  rw [haarUnpair_int ht]
  generalize hw : tagWidth t = w at *
  generalize hd : wrap w (intOf t x - intOf t y) = d
  have hdmod : signedOf w d ≡ intOf t x - intOf t y [ZMOD 2 ^ w] :=
    (signedOf_modEq w d).trans (hd ▸ wrap_modEq w _)
  have hpattern (n : Nat) (hn : n < 2 ^ w) (z : Int) (hz : z ≡ n [ZMOD 2 ^ w]) : wrap w z = n := by
    rw [wrap_congr hz, wrap_natCast, Nat.mod_eq_of_lt hn]
  have hint (n : Nat) : intOf t n ≡ n [ZMOD 2 ^ w] := hw ▸ intOf_modEq t n
  have hsecond : wrap w (intOf t (wrap w (intOf t y + signedOf w d / 2)) - signedOf w d / 2) = y := by
    refine hpattern y hy _ ?_
    have h1 := ((hint (wrap w (intOf t y + signedOf w d / 2))).trans (wrap_modEq w _)).sub_right (signedOf w d / 2)
    rw [add_sub_cancel_right] at h1
    exact h1.trans (hint y)
  have hfirst : wrap w (signedOf w d + y) = x := by
    refine hpattern x hx _ ?_
    have h1 := hdmod.add (hint y).symm
    rw [sub_add_cancel] at h1
    exact h1.trans (hint x)
  rw [hsecond, hfirst]

/-! ## Levels and transforms (R53) -/

theorem haarLevel_cons (t : Tag) (md : FpMode) (x y : Elem) (c : List Elem) :
    (haarLevel t md (x :: y :: c)).1 = ((haarPair t md x y).1.1 :: (haarLevel t md c).1.1,
      (haarPair t md x y).1.2 :: (haarLevel t md c).1.2) := rfl

theorem haarUnlevel_cons (t : Tag) (md : FpMode) (a d : Elem) (as ds : List Elem) :
    (haarUnlevel t md (a :: as) (d :: ds)).1 = (haarUnpair t md a d).1.1 :: (haarUnpair t md a d).1.2 ::
      (haarUnlevel t md as ds).1 := rfl

theorem haarForward_succ (t : Tag) (md : FpMode) (l : Nat) (c : List Elem) :
    (haarForward t md (l + 1) c).1 = (haarForward t md l (haarLevel t md c).1.1).1 ++ (haarLevel t md c).1.2 := rfl

theorem haarInverse_succ (t : Tag) (md : FpMode) (l : Nat) (c : List Elem) :
    (haarInverse t md (l + 1) c).1 =
      (haarUnlevel t md (haarInverse t md l (c.take (2 ^ l))).1 (c.drop (2 ^ l))).1 := rfl

/-- A column of an even length begins with a pair. -/
theorem pair_of_length {c : List Elem} {n : Nat} (h : c.length = 2 * (n + 1)) :
    ∃ x y c', c = x :: y :: c' ∧ c'.length = 2 * n := by
  match c, h with
  | x :: y :: c', h => exact ⟨x, y, c', rfl, by simp at h; omega⟩

theorem haarLevel_length (t : Tag) (md : FpMode) {n : Nat} {c : List Elem} (h : c.length = 2 * n) :
    (haarLevel t md c).1.1.length = n ∧ (haarLevel t md c).1.2.length = n := by
  induction n generalizing c with
  | zero =>
    rw [List.length_eq_zero_iff.mp h]
    exact ⟨rfl, rfl⟩
  | succ n ih =>
    obtain ⟨x, y, c', rfl, hc⟩ := pair_of_length h
    rw [haarLevel_cons]
    simpa using ih hc

theorem haarForward_length (t : Tag) (md : FpMode) {l : Nat} {c : List Elem} (h : c.length = 2 ^ l) :
    (haarForward t md l c).1.length = 2 ^ l := by
  induction l generalizing c with
  | zero => exact h
  | succ l ih =>
    have hlevel := haarLevel_length t md (n := 2 ^ l) (c := c) (by rw [h, Nat.pow_succ'])
    rw [haarForward_succ, List.length_append, ih hlevel.1, hlevel.2]
    ring

theorem haarUnlevel_length (t : Tag) (md : FpMode) {n : Nat} {as ds : List Elem} (ha : as.length = n)
    (hd : ds.length = n) : (haarUnlevel t md as ds).1.length = 2 * n := by
  induction n generalizing as ds with
  | zero =>
    rw [List.length_eq_zero_iff.mp ha]
    rfl
  | succ n ih =>
    obtain ⟨a, as, rfl⟩ := List.exists_cons_of_length_eq_add_one ha
    obtain ⟨d, ds, rfl⟩ := List.exists_cons_of_length_eq_add_one hd
    rw [haarUnlevel_cons, List.length_cons, List.length_cons, ih (by simpa using ha) (by simpa using hd)]
    ring

theorem haarInverse_length (t : Tag) (md : FpMode) {l : Nat} {c : List Elem} (h : c.length = 2 ^ l) :
    (haarInverse t md l c).1.length = 2 ^ l := by
  induction l generalizing c with
  | zero => exact h
  | succ l ih =>
    have hc : c.length = 2 ^ l + 2 ^ l := by rw [h]; ring
    rw [haarInverse_succ, haarUnlevel_length t md (n := 2 ^ l) (ih (by simp [hc])) (by simp [hc])]
    ring

theorem haarLevel_patterns {t : Tag} {md : FpMode}
    (hpair : ∀ x y, Patterns t [x, y] → Patterns t [(haarPair t md x y).1.1, (haarPair t md x y).1.2]) {n : Nat}
    {c : List Elem} (h : c.length = 2 * n) (hc : Patterns t c) :
    Patterns t (haarLevel t md c).1.1 ∧ Patterns t (haarLevel t md c).1.2 := by
  induction n generalizing c with
  | zero =>
    rw [List.length_eq_zero_iff.mp h]
    exact ⟨nofun, nofun⟩
  | succ n ih =>
    obtain ⟨x, y, c', rfl, hc'⟩ := pair_of_length h
    simp only [patterns_cons] at hc hpair
    obtain ⟨hx, hy, hrest⟩ := hc
    obtain ⟨ha, hd, -⟩ := hpair x y ⟨hx, hy, nofun⟩
    obtain ⟨has, hds⟩ := ih hc' hrest
    rw [haarLevel_cons]
    exact ⟨patterns_cons.mpr ⟨ha, has⟩, patterns_cons.mpr ⟨hd, hds⟩⟩

theorem haarPair_patterns {t : Tag} (ht : tagFamily t = .int) (md : FpMode) (x y : Elem) (h : Patterns t [x, y]) :
    Patterns t [(haarPair t md x y).1.1, (haarPair t md x y).1.2] := by
  simp only [patterns_cons] at h
  obtain ⟨⟨m, -, rfl⟩, ⟨n, -, rfl⟩, -⟩ := h
  rw [haarPair_int ht]
  simp only [patterns_cons]
  exact ⟨⟨_, wrap_lt _ _, rfl⟩, ⟨_, wrap_lt _ _, rfl⟩, nofun⟩

/-! ## The integer transform undone (R54) -/

theorem haarUnlevel_haarLevel {t : Tag} (ht : tagFamily t = .int) (md : FpMode) {n : Nat} {c : List Elem}
    (h : c.length = 2 * n) (hc : Patterns t c) :
    (haarUnlevel t md (haarLevel t md c).1.1 (haarLevel t md c).1.2).1 = c := by
  induction n generalizing c with
  | zero =>
    rw [List.length_eq_zero_iff.mp h]
    rfl
  | succ n ih =>
    obtain ⟨x, y, c', rfl, hc'⟩ := pair_of_length h
    simp only [patterns_cons] at hc
    obtain ⟨⟨m, hm, rfl⟩, ⟨k, hk, rfl⟩, hrest⟩ := hc
    rw [haarLevel_cons, haarUnlevel_cons, haarUnpair_haarPair ht md hm hk, ih hc' hrest]

theorem haarInverse_haarForward {t : Tag} (ht : tagFamily t = .int) (md : FpMode) {l : Nat} {c : List Elem}
    (h : c.length = 2 ^ l) (hc : Patterns t c) : (haarInverse t md l (haarForward t md l c).1).1 = c := by
  induction l generalizing c with
  | zero => rfl
  | succ l ih =>
    have heven : c.length = 2 * 2 ^ l := by rw [h, Nat.pow_succ']
    obtain ⟨hlen, -⟩ := haarLevel_length t md heven
    obtain ⟨hpat, -⟩ := haarLevel_patterns (haarPair_patterns ht md) heven hc
    have hfirst := haarForward_length t md hlen
    rw [haarForward_succ, haarInverse_succ, List.take_left' hfirst, List.drop_left' hfirst, ih hlen hpat,
      haarUnlevel_haarLevel ht md heven hc]

/-- Settles O29: each level is undone pair by pair, by induction on the depth. -/
theorem haarLossless : Obligations.HaarLossless := by
  unfold Obligations.HaarLossless
  intro t md l c ht hlen hc
  refine haarInverse_haarForward ht md (by simpa using hlen) fun x hx => ?_
  obtain ⟨n, hn, rfl⟩ := List.mem_map.mp hx
  exact ⟨n, hc n hn, rfl⟩

end Sys2Proof.Machine
end


-- ==== Sys2Proof/Proofs/LaneSteps.lean ====
section
/-! SUPPORT. O16: the checks and the frame of an elementwise computation (R124-R127). -/

namespace Sys2Proof.Machine

open Sys2Proof.Claims

/-! ## What a vector computation leaves unchanged -/

theorem vectorFrame_addFlags {h u : Hart} (hu : VectorFrame h u) (f : Flags) : VectorFrame h (u.addFlags f) := by
  obtain ⟨h1, h2, h3⟩ := hu
  obtain ⟨k1, k2⟩ := orFlags_keeps u.csr.fcsr f
  refine ⟨h1, ?_, k2.trans h3⟩
  show orFlags u.csr.fcsr f ||| h.csr.fcsr = orFlags u.csr.fcsr f
  rw [← k1, BitVec.or_assoc, h2]

theorem vectorFrame_addRcnt {h u : Hart} (hu : VectorFrame h u) (n : Nat) : VectorFrame h (u.addRcnt n) := hu

theorem vectorFrame_addZcnt {h u : Hart} (hu : VectorFrame h u) (n : Nat) : VectorFrame h (u.addZcnt n) := hu

theorem groupWritten_addRcnt {h u : Hart} {o : Opnd} {n : Nat} (hg : GroupWritten h u o n) (k : Nat) :
    GroupWritten h (u.addRcnt k) o n := hg

theorem groupWritten_addZcnt {h u : Hart} {o : Opnd} {n : Nat} (hg : GroupWritten h u o n) (k : Nat) :
    GroupWritten h (u.addZcnt k) o n := hg

theorem vectorFrame_written (h : Hart) (vd : BitVec 6) (t : Tag) (dom grp n : Nat) (units : List (Option (Nat × Bool))) :
    VectorFrame h (h.writeGroup vd t dom grp n units) := by
  have hframe := vectorFrame_writeGroup h vd t dom grp n units 0 0
  rwa [addFlags_zero, addFlags_zero] at hframe

/-- A result is written by `writeGroup` with flags raised. -/
theorem writeResult_eq {h : Hart} {vd : BitVec 6} {t : Tag} {n g : Nat} (hg : groupFor t n = some g) (dom : Nat)
    (res : List (Option Elem)) : h.writeResult vd t dom n res =
      if tagBlock t then (h.writeGroup vd t dom g n (h.resultBlocks ⟨vd.toNat, t, dom, g⟩ n res).1).addFlags
        (h.resultBlocks ⟨vd.toNat, t, dom, g⟩ n res).2
      else h.writeGroup vd t dom g n (res.map fun x => x.map fun e => (e.bits, false)) := by
  rw [Hart.writeResult, hg, Option.getD_some]

theorem writeResult_writes {h : Hart} {vd : BitVec 6} {t : Tag} {n g : Nat} (hv : VecDest vd t n g) (dom : Nat)
    (res : List (Option Elem)) :
    GroupWritten h (h.writeResult vd t dom n res) ⟨vd.toNat, t, dom, g⟩ n ∧ VectorFrame h (h.writeResult vd t dom n res) := by
  have hb := (VecDest.bound hv).1
  rw [writeResult_eq hv.1]
  split
  · exact ⟨groupWritten_addFlags (groupWritten_writeGroup hb h t dom n _) _, vectorFrame_addFlags (vectorFrame_written ..) _⟩
  · exact ⟨groupWritten_writeGroup hb h t dom n _, vectorFrame_written ..⟩

/-- An instruction whose checks pass and that leaves the hart as `h'` is a vector step. -/
theorem vectorStep_of {i : Instr} {len n : Nat} {o : Opnd} {s : State} {h' : Hart}
    (hexec : exec i s = .next (retire len (s.setCur h'))) (hg : GroupWritten s.cur h' o n) (hf : VectorFrame s.cur h') :
    VectorStep i len o n s h' :=
  ⟨⟨_, hexec, retires_retire len h' rfl (congrArg Hart.pc hf.1 :) (congrArg Hart.core hf.1 :)⟩, hg, hf⟩

/-! ## The checks -/

theorem selPoison_of_healthy {h : Hart} (hh : Healthy h) (sel : BitVec 2) (n : Nat) : h.selPoison sel n = [] :=
  maskPoison_of_healthy hh _ n

/-- The length rule holds for every operand that fits (R152). -/
theorem lenCheck_none {d : Doms} {h : Hart} (hd : ∀ l ∈ d.list, LengthFits h l) : d.lenCheck h = none := by
  have hfits : ∀ l ∈ d.list, ¬(l != 0 && h.vl % (32 * 2 ^ l) != 0) = true := by
    intro l hl
    by_cases h0 : l = 0
    · simp [h0]
    · have := hd l hl h0
      simp [Hart.vl, this]
  rw [Doms.lenCheck, List.find?_eq_none.mpr hfits]
  rfl

/-- The check of a class K instruction passes when the operands agree in their domain and fit (R126). -/
theorem keepCheck_none {d : Doms} {h : Hart} {l : Nat} (hd : ∀ k ∈ d.list, LengthFits h k ∧ k = l) :
    d.keepCheck h = none := by
  have hlen := lenCheck_none fun k hk => (hd k hk).1
  unfold Doms.keepCheck
  split
  · rfl
  next k ks hks =>
    rw [hks] at hd
    have hall : ks.all (· == k) = true := by
      simp only [List.all_eq_true, beq_iff_eq]
      intro x hx
      rw [(hd x (List.mem_cons_of_mem _ hx)).2, (hd k List.mem_cons_self).2]
    rw [if_pos hall, hlen]

theorem scalarPoison_of_healthy {h : Hart} (hh : Healthy h) (rs : List (BitVec 5)) : h.scalarPoison rs = none :=
  h.scalarPoison_clean rs hh.1

theorem tagsOk_of_ready {p : LaneSpec} {h : Hart} {t : Tag} {g : Nat} (hr : LaneReady p h t g) : p.tagsOk h = true := by
  obtain ⟨-, -, hvd, htype, -, hva, hvb, hamount, -⟩ := hr
  simp only [LaneSpec.tagsOk, htype, Option.isSome_some, List.contains_iff_mem, hva, Bool.true_and, Bool.and_eq_true,
    Bool.or_eq_true, Bool.not_eq_true']
  refine ⟨⟨trivial, ?_⟩, ?_⟩
  · cases hreads : p.readsVd
    · exact .inl rfl
    · exact .inr (hvd hreads).2
  · split
    next r hs => exact List.contains_iff_mem.mpr (hvb r false (.inl hs))
    next r x hs => exact List.contains_iff_mem.mpr (hvb r x (.inr hs))
    next r hs => simp [hamount r hs]
    next => rfl

theorem laneCheck_of_ready {p : LaneSpec} {h : Hart} {t : Tag} {g : Nat} (hr : LaneReady p h t g) (hh : Healthy h)
    (bits : Nat) : p.check bits true h = none := by
  have htags := tagsOk_of_ready hr
  obtain ⟨hva, hsecond, hvd, htype, -, -, -, -, hdest, hdoms⟩ := hr
  rw [LaneSpec.check, firstTrap_eq_none]
  simp only [List.mem_cons, List.not_mem_nil, or_false, forall_eq_or_imp, forall_eq]
  refine ⟨opndCheck_of_vecOperand hva bits, ?_, ?_, ?_, ?_, ?_, scalarPoison_of_healthy hh _, ?_⟩
  · split
    next r hs => rw [hs] at hsecond; exact opndCheck_of_vecOperand hsecond bits
    next r hs => rw [hs] at hsecond; exact opndCheck_of_vecOperand hsecond bits
    next r x hs => rw [hs] at hsecond; exact opndCheck_of_vecOperand hsecond bits
    next => rfl
  · split
    next hreads => exact opndCheck_of_vecOperand (hvd hreads).1 bits
    next => rfl
  · rw [htags]
    rfl
  · rw [if_pos trivial, htype, Option.bind_some]
    exact destCheck_of_vecDest hdest bits
  · split
    next hk => exact keepCheck_none fun l hl => ⟨(hdoms l hl).1, (hdoms l hl).2 hk⟩
    next => exact lenCheck_none fun l hl => (hdoms l hl).1
  · rw [selPoison_of_healthy hh, readsPoison_of_healthy hh]
    rfl

/-! ## The computation -/

/-- The function of one element that an elementwise instruction applies. -/
abbrev LaneFn := Nat → Tag → FpMode → Elem → Elem → Elem → Elem × Flags

/-- The results of a computation, and its flags. -/
def LaneSpec.results (p : LaneSpec) (f : LaneFn) (h : Hart) : List (Option Elem) × Flags :=
  let t := (p.type h).getD .none
  let i := p.input h
  laneMap (fun k a b c =>
    let ((x, y, z), g) := p.convert i t h.fpMode (p.takes h k) a b c
    let (r, g') := f k t h.fpMode x y z
    (r, g ||| g')) 0 (p.active h) i.a.2 i.b.2 i.c.2

theorem LaneSpec.run_eq {p : LaneSpec} {h : Hart} {t : Tag} (ht : p.type h = some t) (f : LaneFn) :
    p.run f h = ((h.writeResult p.vd t (LaneSpec.resultDom p h) h.vl (p.results f h).1).addFlags
      ((p.input h).flags ||| (p.results f h).2)).addRcnt (p.input h).rcnt := by
  have hdom : (if p.keep then (p.doms h).keep else 0) = LaneSpec.resultDom p h := rfl
  rw [← hdom]
  unfold LaneSpec.run LaneSpec.results
  rw [ht]
  rfl

theorem run_writes {p : LaneSpec} {h : Hart} {t : Tag} {g : Nat} (hr : LaneReady p h t g) (f : LaneFn) :
    GroupWritten h (p.run f h) ⟨p.vd.toNat, t, LaneSpec.resultDom p h, g⟩ h.vl ∧ VectorFrame h (p.run f h) := by
  obtain ⟨-, -, -, htype, -, -, -, -, hdest, -⟩ := hr
  obtain ⟨hg, hf⟩ := writeResult_writes (h := h) hdest (LaneSpec.resultDom p h) (p.results f h).1
  rw [LaneSpec.run_eq htype]
  exact ⟨groupWritten_addRcnt (groupWritten_addFlags hg _) _, vectorFrame_addRcnt (vectorFrame_addFlags hf _) _⟩

/-- Every elementwise instruction runs its `LaneSpec` with a function of its own. -/
theorem exec_lane {i : Instr} {len : Nat} {p : LaneSpec} (h : Claims.laneOf i = some (len, p)) (s : State) :
    ∃ bits f, exec i s = finish len (p.check bits true s.cur) s (s.setCur (p.run f s.cur)) := by
  unfold Claims.laneOf at h
  split at h <;> cases h <;> exact ⟨_, _, rfl⟩

theorem lane_steps {i : Instr} {len : Nat} {p : LaneSpec} {t : Tag} {g bits : Nat} {f : LaneFn} {s : State}
    (hexec : exec i s = finish len (p.check bits true s.cur) s (s.setCur (p.run f s.cur)))
    (hr : LaneReady p s.cur t g) (hh : Healthy s.cur) :
    VectorStep i len ⟨p.vd.toNat, t, LaneSpec.resultDom p s.cur, g⟩ s.cur.csr.vl.toNat s (p.run f s.cur) := by
  rw [laneCheck_of_ready hr hh, finish_none] at hexec
  obtain ⟨hg, hf⟩ := run_writes hr f
  exact vectorStep_of hexec hg hf

/-- Settles O16: the checks pass, and the write of the result touches its group, flags and `RCNT` only. -/
theorem lanes : Obligations.Lanes := by
  unfold Obligations.Lanes
  intro i len p t g s hi hr hh
  obtain ⟨bits, f, hexec⟩ := exec_lane hi s
  exact ⟨_, lane_steps hexec hr hh⟩

end Sys2Proof.Machine
end


-- ==== Sys2Proof/Proofs/LaneResults.lean ====
section
/-! SUPPORT. The results of a function applied to the active elements (R105), element by element, with their flags (R40). -/

namespace Sys2Proof.Machine

open Sys2Proof.Claims

/-! ## Flags taken together -/

@[simp] theorem allFlags_nil : allFlags [] = 0 := rfl
@[simp] theorem allFlags_cons (f : Flags) (l : List Flags) : allFlags (f :: l) = f ||| allFlags l := rfl

theorem allFlags_append (l k : List Flags) : allFlags (l ++ k) = allFlags l ||| allFlags k := by
  induction l with
  | nil => simp
  | cons f l ih => simp [ih, BitVec.or_assoc]

theorem allFlags_or {α : Type} (l : List α) (f g : α → Flags) :
    allFlags (l.map fun x => f x ||| g x) = allFlags (l.map f) ||| allFlags (l.map g) := by
  induction l with
  | nil => simp
  | cons x l ih =>
    rw [List.map_cons, List.map_cons, List.map_cons, allFlags_cons, allFlags_cons, allFlags_cons, ih]
    ac_rfl

theorem allFlags_eq_zero {l : List Flags} (h : ∀ f ∈ l, f = 0) : allFlags l = 0 := by
  induction l with
  | nil => rfl
  | cons f l ih =>
    rw [allFlags_cons, h f List.mem_cons_self, ih fun g hg => h g (List.mem_cons_of_mem _ hg)]
    rfl

/-- Flags gathered from the left are those gathered from the right. -/
theorem foldl_flags {α : Type} (l : List α) (f : α → Flags) (a : Flags) :
    l.foldl (fun g x => g ||| f x) a = a ||| allFlags (l.map f) := by
  induction l generalizing a with
  | nil => simp
  | cons x l ih => rw [List.foldl_cons, ih, List.map_cons, allFlags_cons, BitVec.or_assoc]

theorem addFlags_addFlags (h : Hart) (f g : Flags) : (h.addFlags f).addFlags g = h.addFlags (f ||| g) := by
  simp only [Hart.addFlags, orFlags, BitVec.setWidth_or, BitVec.or_assoc]

/-! ## A function over the active elements -/

/-- The elements of three operands that meet at element `k`. -/
def meet {β : Type} (f : Nat → Elem → Elem → Elem → β) (i : Nat) (as bs cs : List Elem) (k : Nat) : β :=
  f (i + k) (as.getD k (.raw 0)) (bs.getD k (.raw 0)) (cs.getD k (.raw 0))

theorem meet_succ {β : Type} (f : Nat → Elem → Elem → Elem → β) (i : Nat) (as bs cs : List Elem) (k : Nat) :
    meet f (i + 1) as.tail bs.tail cs.tail k = meet f i as bs cs (k + 1) := by
  have hget (l : List Elem) : l.tail.getD k (.raw 0) = l.getD (k + 1) (.raw 0) := by cases l <;> simp
  simp only [meet, hget, Nat.add_assoc, Nat.add_comm 1 k]

theorem meet_zero {β : Type} (f : Nat → Elem → Elem → Elem → β) (i : Nat) (as bs cs : List Elem) :
    meet f i as bs cs 0 = f i (as.headD (.raw 0)) (bs.headD (.raw 0)) (cs.headD (.raw 0)) := by
  have hget (l : List Elem) : l.getD 0 (.raw 0) = l.headD (.raw 0) := by cases l <;> rfl
  simp only [meet, hget, Nat.add_zero]

/-- Each active element has its result; each other one has none. -/
theorem laneMap_results {α : Type} (f : Nat → Elem → Elem → Elem → α × Flags) (i : Nat) (acts : List Bool)
    (as bs cs : List Elem) : (laneMap f i acts as bs cs).1 =
      (List.range acts.length).map fun k => if acts.getD k false then some (meet f i as bs cs k).1 else none := by
  induction acts generalizing i as bs cs with
  | nil => rfl
  | cons act acts ih =>
    rw [List.length_cons, List.range_succ_eq_map, List.map_cons, List.map_map]
    have htail : (laneMap f (i + 1) acts as.tail bs.tail cs.tail).1 =
        (List.range acts.length).map ((fun k => if (act :: acts).getD k false then some (meet f i as bs cs k).1 else none) ∘
          Nat.succ) := by
      rw [ih]
      refine List.map_congr_left fun k _ => ?_
      simp only [meet_succ, Function.comp_apply, Nat.succ_eq_add_one, List.getD_cons_succ]
    rw [← htail, meet_zero]
    cases act <;> rfl

/-- The flags are those of the active elements. -/
theorem laneMap_flags {α : Type} (f : Nat → Elem → Elem → Elem → α × Flags) (i : Nat) (acts : List Bool)
    (as bs cs : List Elem) : (laneMap f i acts as bs cs).2 =
      allFlags (((List.range acts.length).filter fun k => acts.getD k false).map fun k => (meet f i as bs cs k).2) := by
  induction acts generalizing i as bs cs with
  | nil => rfl
  | cons act acts ih =>
    rw [List.length_cons, List.range_succ_eq_map, List.filter_cons, List.filter_map]
    have htail : (laneMap f (i + 1) acts as.tail bs.tail cs.tail).2 =
        allFlags ((((List.range acts.length).filter ((fun k => (act :: acts).getD k false) ∘ Nat.succ)).map Nat.succ).map
          fun k => (meet f i as bs cs k).2) := by
      rw [ih, List.map_map]
      congr 1
      refine List.map_congr_left fun k _ => ?_
      simp only [meet_succ, Function.comp_apply, Nat.succ_eq_add_one]
    cases act with
    | false => exact htail
    | true =>
      rw [if_pos (by rfl), List.map_cons, allFlags_cons, ← htail, meet_zero]
      rfl

/-! ## The active elements (R105) -/

theorem active_length (h : Hart) (sel : BitVec 2) (n : Nat) : (h.active sel n).length = n := by simp [Hart.active]

theorem active_getD (h : Hart) (sel : BitVec 2) {n k : Nat} (hk : k < n) :
    (h.active sel n).getD k false = maskBit h sel.toNat k := by
  simp [Hart.active, hk, mask_getLsbD]

/-- Below 16384 elements a mask selector reads as the statements read it. -/
theorem active_iff (h : Hart) (sel : BitVec 2) {k : Nat} (hk : k < 16384) :
    Active h sel k ↔ maskBit h sel.toNat k = true := by
  by_cases h0 : sel = 0
  · simp [Active, maskBit, h0, hk]
  · have hne : sel.toNat ≠ 0 := fun h => h0 (BitVec.eq_of_toNat_eq h)
    rw [Active, maskBit, if_neg hne]
    exact ⟨fun h => h.resolve_left h0, Or.inr⟩

/-- A function over the active elements of a hart. -/
theorem laneMap_active {α : Type} (f : Nat → Elem → Elem → Elem → α × Flags) (h : Hart) (sel : BitVec 2)
    (as bs cs : List Elem) :
    laneMap f 0 (h.active sel h.vl) as bs cs =
      ((List.range h.vl).map fun k => if maskBit h sel.toNat k then some (meet f 0 as bs cs k).1 else none,
        allFlags ((actives h sel).map fun k => (meet f 0 as bs cs k).2)) := by
  refine Prod.ext ?_ ?_
  · rw [laneMap_results, active_length]
    refine List.map_congr_left fun k hk => ?_
    rw [active_getD h sel (List.mem_range.mp hk)]
  · rw [laneMap_flags, active_length, actives]
    congr 2
    refine List.filter_congr fun k hk => ?_
    rw [active_getD h sel (List.mem_range.mp hk)]

/-! ## The results of a computation -/

/-- The result of element `k` of a computation, with its flags. -/
def LaneSpec.elem (p : LaneSpec) (f : LaneFn) (h : Hart) (t : Tag) (k : Nat) : Elem × Flags :=
  let i := p.input h
  meet (fun k a b c =>
    let ((x, y, z), g) := p.convert i t h.fpMode (p.takes h k) a b c
    let (r, g') := f k t h.fpMode x y z
    (r, g ||| g')) 0 i.a.2 i.b.2 i.c.2 k

theorem results_eq {p : LaneSpec} {h : Hart} {t : Tag} (ht : p.type h = some t) (f : LaneFn) :
    p.results f h = ((List.range h.vl).map fun k => if maskBit h p.mask.toNat k then some (p.elem f h t k).1 else none,
      allFlags ((actives h p.mask).map fun k => (p.elem f h t k).2)) := by
  rw [LaneSpec.results, ht]
  exact laneMap_active _ h p.mask _ _ _

/-! ## Results written, one element to a unit -/

/-- The units of results that are not of a block type. -/
def unitsOf (n : Nat) (act : Nat → Bool) (x : Nat → Elem) : List (Option (Nat × Bool)) :=
  ((List.range n).map fun k => if act k then some (x k) else none).map fun r => r.map fun e => (e.bits, false)

theorem unitsOf_length (n : Nat) (act : Nat → Bool) (x : Nat → Elem) : (unitsOf n act x).length = n := by simp [unitsOf]

theorem unitsOf_getD {n k : Nat} (hk : k < n) (act : Nat → Bool) (x : Nat → Elem) :
    (unitsOf n act x).getD k none = if act k then some ((x k).bits, false) else none := by
  simp only [unitsOf, List.map_map, List.getD_eq_getElem?_getD, List.getElem?_map, List.getElem?_range hk,
    Option.map_some, Option.getD_some, Function.comp_apply]
  split <;> rfl

theorem writeResult_fixed {h : Hart} {vd : BitVec 6} {t : Tag} {n g : Nat} (ht : Fixed t) (hg : groupFor t n = some g)
    (dom : Nat) (act : Nat → Bool) (x : Nat → Elem) :
    h.writeResult vd t dom n ((List.range n).map fun k => if act k then some (x k) else none) =
      h.writeGroup vd t dom g n (unitsOf n act x) := by
  rw [writeResult_eq hg, ht.1]
  rfl

/-- The elements of a result that is not of a block type. -/
theorem elementsAre_writeResult {h : Hart} {vd : BitVec 6} {t : Tag} {n g : Nat} (ht : Fixed t) (hv : VecDest vd t n g)
    (dom : Nat) {act : Nat → Bool} {P : Nat → Prop} (hP : ∀ k < n, P k ↔ act k = true) {x : Nat → Elem} {f : Nat → Nat}
    (hx : ∀ k < n, act k = true → (x k).bits = f k ∧ f k < 2 ^ tagWidth t) :
    ElementsAre h (h.writeResult vd t dom n ((List.range n).map fun k => if act k then some (x k) else none))
      ⟨vd.toNat, t, dom, g⟩ P n f := by
  rw [writeResult_fixed ht hv.1]
  refine elementsAre_writeGroup ht hv h dom (unitsOf_length n act x) P f (fun k hk ha => ?_) fun k hk ha => ?_
  · have hact := (hP k hk).mp ha
    obtain ⟨hbits, hlt⟩ := hx k hk hact
    rw [unitsOf_getD hk, if_pos hact, Option.map_some, hbits]
    exact ⟨rfl, hlt⟩
  · rw [unitsOf_getD hk, if_neg fun hact => ha ((hP k hk).mpr hact)]

/-- An inactive element of a result becomes zero under `MZ`. -/
theorem unit_writeResult_inactive {h : Hart} {vd : BitVec 6} {t : Tag} {n g : Nat} (ht : Fixed t) (hv : VecDest vd t n g)
    (dom : Nat) {act : Nat → Bool} (x : Nat → Elem) (hmp : h.csr.mp = true) {k : Nat} (hk : k < n) (hact : act k = false) :
    (h.writeResult vd t dom n ((List.range n).map fun k => if act k then some (x k) else none)).unit
      ⟨vd.toNat, t, dom, g⟩ k = 0 := by
  have hunit := unit_writeGroup ht (VecDest.bound hv).1 h dom (unitsOf_length n act x)
    (Nat.lt_of_lt_of_le hk (VecDest.room hv))
  dsimp only at hunit
  rw [writeResult_fixed ht hv.1, hunit, if_pos hk, Hart.writtenUnit, unitsOf_getD hk, hact, hmp]
  simp

@[simp] theorem unit_addFlags (h : Hart) (f : Flags) (o : Opnd) (k : Nat) : (h.addFlags f).unit o k = h.unit o k := rfl
@[simp] theorem unit_addRcnt (h : Hart) (n : Nat) (o : Opnd) (k : Nat) : (h.addRcnt n).unit o k = h.unit o k := rfl
@[simp] theorem unit_addZcnt (h : Hart) (n : Nat) (o : Opnd) (k : Nat) : (h.addZcnt n).unit o k = h.unit o k := rfl

/-- The elements stay as they are when flags are raised and counters advance. -/
theorem elementsAre_congr {h u w : Hart} {o : Opnd} {P : Nat → Prop} {n : Nat} {f : Nat → Nat}
    (hu : ElementsAre h u o P n f) (hw : w.v = u.v) : ElementsAre h w o P n f := by
  have hunit (k : Nat) : w.unit o k = u.unit o k := by simp only [Hart.unit, Hart.vreg, hw]
  simpa only [ElementsAre, hunit] using hu

end Sys2Proof.Machine
end


-- ==== Sys2Proof/Proofs/WideGroups.lean ====
section
/-! PROOF. O18, O22: both statements take every element below `VL` as active under `m0`, also from element 16384 on, where a
mask register ends (R24): a state with a `VL` of 16385 on `HB` groups refutes them. -/

namespace Sys2Proof.Machine

open Sys2Proof.Claims

/-! ## A state with more elements than a mask has bits -/

/-- A member of a group of two `HB` registers that holds `bits`. -/
def hbMember (valen : BitVec 15) (bits : BitVec 16384) : VReg := ⟨bits, ⟨.hb, 0, 1, valen, false⟩, 0⟩

/-- A running context with a `VL` of 16385, under `TA` and `MZ`, whose group `v8`, `v9` of `HB` elements holds `bits` in
both registers. -/
def wideHart (bits : BitVec 16384) : Hart := { Hart.reset with
  status := .running
  csr := { Csrs.reset with vl := 16385, tp := true, mp := true }
  v := (Hart.reset.v.setIfInBounds 8 (hbMember 16384 bits)).setIfInBounds 9 (hbMember 1 bits) }

/-- The machine after reset with this context. -/
def wideState (bits : BitVec 16384) : State := { State.reset with cur := wideHart bits }

theorem wideHart_vl (bits : BitVec 16384) : (wideHart bits).vl = 16385 := rfl

theorem reset_vreg (k : Nat) : Hart.reset.v.getD k .reset = VReg.reset := by
  rw [show Hart.reset.v = Vector.replicate 64 .reset from rfl, vector_getD_eq, Vector.getElem?_replicate]
  split <;> rfl

/-- Registers 8 and 9 replaced. -/
theorem vreg_of_pair {h : Hart} {a b : VReg} (hv : h.v = (Hart.reset.v.setIfInBounds 8 a).setIfInBounds 9 b) (k : Nat) :
    h.vreg k = if k = 9 then b else if k = 8 then a else .reset := by
  rw [Hart.vreg, hv, getD_setIfInBounds _ _ _ (by decide), getD_setIfInBounds _ _ _ (by decide), reset_vreg]

theorem wideHart_vreg (bits : BitVec 16384) (k : Nat) : (wideHart bits).vreg k =
    if k = 9 then hbMember 1 bits else if k = 8 then hbMember 16384 bits else .reset := vreg_of_pair rfl k

theorem wideHart_healthy (bits : BitVec 16384) : Healthy (wideHart bits) := by
  refine ⟨rfl, fun k => ?_, fun k => ?_, fun x hx => absurd hx List.not_mem_nil, rfl⟩
  · rw [wideHart_vreg]
    split
    · rfl
    · split <;> rfl
  · rw [show (wideHart bits).m = Vector.replicate 8 .reset from rfl, vector_getD_eq, Vector.getElem?_replicate]
    split <;> rfl

/-- The operand of the `HB` group. -/
def wideOpnd : Opnd := ⟨8, .hb, 0, 1⟩

theorem wideHart_opnd (bits : BitVec 16384) : (wideHart bits).opnd 8 = wideOpnd := by
  rw [Hart.opnd, wideHart_vreg]
  rfl

theorem wideHart_operand (bits : BitVec 16384) : VecOperand (wideHart bits) 8 16385 := by
  unfold VecOperand
  rw [wideHart_opnd]
  refine ⟨rfl, fun k hk => ?_, nofun, by decide⟩
  have hk2 : k < 2 := hk
  rw [wideHart_vreg]
  obtain rfl | rfl : k = 0 ∨ k = 1 := by omega
  · exact ⟨rfl, rfl, rfl⟩
  · exact ⟨rfl, rfl, rfl⟩

theorem wide_dest : VecDest 10 .hb 16385 1 := ⟨by decide, by decide⟩

theorem fixed_hb : Fixed .hb := ⟨rfl, nofun⟩

theorem unitsPer_hb : unitsPer .hb = 16384 := by rw [fixed_hb.unitsPer, fixed_hb.cap]; rfl

/-- Element 16384 of the group is bit 0 of its second register. -/
theorem wideHart_unit (bits : BitVec 16384) : (wideHart bits).unit wideOpnd 16384 = bits.toNat % 2 := by
  have hvalen : (hbMember 1 bits).desc.valen.toNat = 1 := rfl
  rw [Hart.unit, show unitsPer wideOpnd.tag = 16384 from unitsPer_hb, Nat.div_self (by decide), Nat.mod_self,
    if_pos (show 1 < wideOpnd.g by decide), wideHart_vreg, if_pos (show wideOpnd.base + 1 = 9 from rfl), show wideOpnd.tag = .hb from rfl,
    fixed_hb.unit, hvalen,
    if_pos Nat.zero_lt_one, getUnit_of_narrow fixed_hb (by decide)]
  show bits.toNat / 2 ^ 0 % 2 ^ 1 = _
  rw [pow_zero, pow_one, Nat.div_one]

/-- Element 16384 of the destination after a write of results of the active elements: no mask bit makes it active. -/
theorem wide_result_zero (bits : BitVec 16384) (x : Nat → Elem) :
    ((wideHart bits).writeResult 10 .hb 0 (wideHart bits).vl ((List.range (wideHart bits).vl).map fun k =>
      if maskBit (wideHart bits) 0 k then some (x k) else none)).unit ⟨10, .hb, 0, 1⟩ 16384 = 0 := by
  rw [wideHart_vl]
  exact unit_writeResult_inactive (vd := 10) fixed_hb wide_dest 0 x rfl (by decide) rfl

/-- A vector step and a retirement of one instruction leave the same vector registers. -/
theorem vectorStep_unit {i : Instr} {len n : Nat} {o : Opnd} {s : State} {h' w : Hart} (hstep : VectorStep i len o n s h')
    (hexec : exec i s = .next (retire len (s.setCur w))) (q : Opnd) (k : Nat) : h'.unit q k = w.unit q k := by
  obtain ⟨⟨t, ht, hcur, -⟩, -⟩ := hstep
  rw [hexec] at ht
  have hv : w.v = h'.v := by
    have hnext := Host.Outcome.next.inj ht
    rw [← hnext] at hcur
    exact (congrArg Hart.v hcur :)
  simp only [Hart.unit, Hart.vreg, hv]

/-! ## `vnot` (O18) -/

/-- `vnot v10, v8` under `m0`. -/
def wideNot : LaneSpec := ⟨[.int, .hb], false, 8, .none, false, 10, 0⟩

theorem wideNot_type (bits : BitVec 16384) : wideNot.type (wideHart bits) = some .hb := by
  show some ((wideHart bits).opnd 8).tag = some .hb
  rw [wideHart_opnd]
  rfl

theorem wideNot_ready (bits : BitVec 16384) : LaneReady wideNot (wideHart bits) .hb 1 := by
  have htag : tagFamily ((wideHart bits).opnd 8).tag = .hb := by rw [wideHart_opnd]; rfl
  refine ⟨wideHart_operand bits, trivial, nofun, wideNot_type bits, by decide, ?_, ?_, nofun, wide_dest, ?_⟩
  · show tagFamily ((wideHart bits).opnd 8).tag ∈ _
    rw [htag]
    decide
  · rintro r x (h | h) <;> cases h
  · intro l hl
    have hl0 : l = ((wideHart bits).opnd 8).dom := by simpa [LaneSpec.doms, Doms.list, wideNot] using hl
    rw [wideHart_opnd] at hl0
    exact ⟨fun hne => absurd hl0 hne, nofun⟩

theorem wideNot_plain (bits : BitVec 16384) : Plain wideNot (wideHart bits) .hb := by
  refine ⟨?_, ?_, ?_, nofun, nofun⟩
  · show ((wideHart bits).opnd 8).tag = .hb
    rw [wideHart_opnd]
    rfl
  · show ((wideHart bits).opnd 8).dom = 0
    rw [wideHart_opnd]
    rfl
  · rintro r x (h | h) <;> cases h

/-- Element 16384 of the destination stays zero. -/
theorem wideNot_unit {bits : BitVec 16384} {o : Opnd} {h' : Hart}
    (hstep : VectorStep (.vnot 10 8 0) 4 o 16385 (wideState bits) h') :
    h'.unit ⟨10, .hb, 0, 1⟩ 16384 = 0 := by
  have hlane : exec (.vnot 10 8 0) (wideState bits) =
      laneExec (Instr.vnot 10 8 0).bits.toNat 4 wideNot .not (wideState bits) := rfl
  rw [laneExec, show (wideState bits).cur = wideHart bits from rfl,
    laneCheck_of_ready (wideNot_ready bits) (wideHart_healthy bits), finish_none] at hlane
  rw [vectorStep_unit hstep hlane, LaneSpec.run_eq (wideNot_type bits), results_eq (wideNot_type bits), unit_addRcnt,
    unit_addFlags]
  dsimp only [wideNot, LaneSpec.resultDom]
  exact wide_result_zero bits _

/-- Refutes O18: `vnot` of a zero at element 16384 leaves a zero, since no mask bit makes the element active; the statement
has it active under `m0` and asks for a one. -/
theorem not_integerLanes : ¬Obligations.IntegerLanes := by
  unfold Obligations.IntegerLanes
  intro h
  obtain ⟨bits, hbits⟩ : ∃ bits : BitVec 16384, bits.toNat % 2 = 0 := ⟨0#16384, by rw [BitVec.toNat_zero]⟩
  obtain ⟨h', hstep, -, helems⟩ := h (.vnot 10 8 0) 4 wideNot _ .hb 1 (wideState bits) rfl rfl (.inr rfl)
    (wideNot_ready bits) (wideNot_plain bits) (wideHart_healthy bits)
  have hsource : (LaneSpec.at wideNot (wideState bits).cur .hb 16384).1 = 0 := by
    show (wideHart bits).unit ((wideHart bits).opnd 8) 16384 = 0
    rw [wideHart_opnd, wideHart_unit, hbits]
  have hone := (helems.1 16384 (show 16384 < 16385 by decide)).1 (.inl rfl)
  dsimp only at hone
  rw [hsource] at hone
  exact absurd ((wideNot_unit hstep).symm.trans hone) (by decide)

/-! ## `vcvt` (O22) -/

theorem convertCheck_wide (bits : BitVec 16384) (n : Nat) :
    (wideHart bits).convertCheck n 10 8 .hb 0 (fun _ _ => true) = none := by
  rw [Hart.convertCheck, firstTrap_eq_none, wideHart_opnd]
  simp only [List.mem_cons, List.not_mem_nil, or_false, forall_eq_or_imp, forall_eq]
  refine ⟨opndCheck_of_vecOperand (wideHart_operand bits) n, rfl, destCheck_of_vecDest wide_dest n, rfl, rfl, ?_⟩
  rw [selPoison_of_healthy (wideHart_healthy bits), readPoison_of_healthy (wideHart_healthy bits)]
  rfl

/-- Element 16384 of the destination stays zero. -/
theorem wideConvert_unit {bits : BitVec 16384} {o : Opnd} {h' : Hart}
    (hstep : VectorStep (.vcvt 10 8 .hb 0) 4 o 16385 (wideState bits) h') : h'.unit ⟨10, .hb, 0, 1⟩ 16384 = 0 := by
  have hexec : exec (.vcvt 10 8 .hb 0) (wideState bits) =
      convertExec (Instr.vcvt 10 8 .hb 0).bits.toNat 10 8 .hb 0 (fun _ _ => true) (wideState bits) := rfl
  rw [convertExec, show (wideState bits).cur = wideHart bits from rfl, convertCheck_wide, finish_none] at hexec
  rw [vectorStep_unit hstep hexec, Hart.convertRun, laneMap_active, wideHart_opnd, unit_addFlags]
  exact wide_result_zero bits _

/-- Refutes O22: `vcvt` to `HB` of a one at element 16384 leaves a zero, since no mask bit makes the element active; the
statement has it active under `m0` and asks for a one. -/
theorem not_conversions : ¬Obligations.Conversions := by
  unfold Obligations.Conversions
  intro h
  obtain ⟨bits, hbits⟩ : ∃ bits : BitVec 16384, bits.toNat % 2 = 1 := ⟨1#16384, by rw [BitVec.toNat_one (by decide)]⟩
  have hopnd : (wideState bits).cur.opnd 8 = wideOpnd := wideHart_opnd bits
  obtain ⟨h', hstep, -, hfixed, -⟩ := h (.vcvt 10 8 .hb 0) 10 8 .hb 0 _ 1 (wideState bits) rfl (wideHart_healthy bits)
    (wideHart_operand bits) wide_dest nofun rfl (by rw [hopnd]; exact fun hne => absurd rfl hne)
    (by rw [hopnd]; exact fun _ => rfl)
  rw [hopnd] at hfixed
  obtain ⟨helems, -⟩ := hfixed nofun nofun
  have hsource : (wideState bits).cur.unit wideOpnd 16384 = 1 := (wideHart_unit bits).trans hbits
  have hone := (helems.1 16384 (show 16384 < 16385 by decide)).1 (.inl rfl)
  dsimp only at hone
  rw [valueOf, if_neg (by decide), hsource] at hone
  exact absurd ((wideConvert_unit hstep).symm.trans hone) (show (0 : Nat) ≠ 1 by decide)

end Sys2Proof.Machine
end


-- ==== Sys2Proof/Proofs/WideningSums.lean ====
section
/-! PROOF. O24: the statement gives `vredsumw` a result type whatever the tag of its accumulator; one of `HB` traps `TAG`
(R41, R143), so no element is written. -/

namespace Sys2Proof.Machine

open Sys2Proof.Claims

/-- `vredsumw` with an `HB` accumulator traps `TAG` (R41). -/
theorem vredsumw_hb_traps {vd va vb : BitVec 6} {m : BitVec 2} {s : State} (hva : VecOperand s.cur va s.cur.vl)
    (hvb : VecOperand s.cur vb 1) (hb : (s.cur.opnd vb).tag = .hb) :
    exec (.vredsumw vd va vb m) s = .next (takeTrap (trapTAG (Instr.vredsumw vd va vb m).bits.toNat) 4 s) := by
  have hexec : exec (.vredsumw vd va vb m) s = reduceExec (Instr.vredsumw vd va vb m).bits.toNat
      ⟨vd, va, vb, m, s.cur.wideType va vb, .ordered .add⟩ s := rfl
  have htype : s.cur.wideType va vb = none := if_pos hb
  rw [hexec, reduceExec, ReduceSpec.check]
  dsimp only
  rw [opndCheck_of_vecOperand hva, opndCheck_of_vecOperand hvb, htype]
  rfl

/-- A trap is no retirement: it counts no instruction. -/
theorem not_retires_takeTrap (e : Trap) (len n : Nat) (h : Hart) (s : State) : ¬Retires len h s (takeTrap e n s) := by
  rintro ⟨-, hcounts, -⟩
  have hcore := hcounts s.cur.core.toNat
  rw [if_pos rfl] at hcore
  have hcount : (s.core s.cur.core.toNat).instret = (s.core s.cur.core.toNat).instret + 1 :=
    (congrArg CoreState.instret hcore :)
  exact absurd hcount (by bv_omega)

/-- A machine whose running context has `VL` = 0, an `S8` register `v8` and an `HB` register `v9`. -/
def hbAccState : State := { State.reset with cur := { Hart.reset with
  status := .running
  v := (Hart.reset.v.setIfInBounds 8 ⟨0, ⟨.s8, 0, 0, 0, false⟩, 0⟩).setIfInBounds 9 ⟨0, ⟨.hb, 0, 0, 1, false⟩, 0⟩ } }

theorem hbAccState_vreg (k : Nat) : hbAccState.cur.vreg k = if k = 9 then ⟨0, ⟨.hb, 0, 0, 1, false⟩, 0⟩
    else if k = 8 then ⟨0, ⟨.s8, 0, 0, 0, false⟩, 0⟩ else .reset := vreg_of_pair rfl k

theorem hbAccState_opnd : hbAccState.cur.opnd 8 = ⟨8, .s8, 0, 0⟩ ∧ hbAccState.cur.opnd 9 = ⟨9, .hb, 0, 0⟩ := by
  rw [Hart.opnd, Hart.opnd, hbAccState_vreg, hbAccState_vreg]
  exact ⟨rfl, rfl⟩

theorem hbAccState_operands : VecOperand hbAccState.cur 8 0 ∧ VecOperand hbAccState.cur 9 1 := by
  obtain ⟨h8, h9⟩ := hbAccState_opnd
  unfold VecOperand
  rw [h8, h9]
  refine ⟨⟨rfl, fun k hk => ?_, nofun, by decide⟩, ⟨rfl, fun k hk => ?_, nofun, by decide⟩⟩
  · obtain rfl : k = 0 := Nat.lt_one_iff.mp hk
    rw [hbAccState_vreg]
    exact ⟨rfl, rfl, rfl⟩
  · obtain rfl : k = 0 := Nat.lt_one_iff.mp hk
    rw [hbAccState_vreg]
    exact ⟨rfl, rfl, rfl⟩

theorem hbAccState_healthy : Healthy hbAccState.cur := by
  refine ⟨rfl, fun k => ?_, fun k => ?_, fun x hx => absurd hx List.not_mem_nil, rfl⟩
  · rw [hbAccState_vreg]
    split
    · rfl
    · split <;> rfl
  · rw [show hbAccState.cur.m = Vector.replicate 8 .reset from rfl, vector_getD_eq, Vector.getElem?_replicate]
    split <;> rfl

/-- Refutes O24: `vredsumw` of an `S8` vector with an `HB` accumulator traps `TAG`, where the statement asks for a written
element. -/
theorem not_reductions : ¬Obligations.Reductions := by
  unfold Obligations.Reductions
  intro h
  obtain ⟨h8, h9⟩ := hbAccState_opnd
  obtain ⟨hva, hvb⟩ := hbAccState_operands
  have htype : reduceOf hbAccState.cur (.vredsumw 10 8 9 0) = some (10, 8, 9, 0, some .s64, reduceOf.sum) := by
    show some (10, 8, 9, 0, reduceOf.wide (hbAccState.cur.opnd 8).tag, reduceOf.sum) = _
    rw [h8]
    rfl
  obtain ⟨h', ⟨⟨t, hexec, hret⟩, -⟩, -⟩ := h (.vredsumw 10 8 9 0) 10 8 9 0 .s64 reduceOf.sum hbAccState htype
    hbAccState_healthy hva hvb (by rw [h8]; exact fun hne => absurd rfl hne)
  have htrap := vredsumw_hb_traps (vd := 10) (m := 0) hva hvb (congrArg Opnd.tag h9)
  rw [hexec] at htrap
  rw [Host.Outcome.next.inj htrap] at hret
  exact not_retires_takeTrap _ _ _ _ _ hret

end Sys2Proof.Machine
end


-- ==== Sys2Proof/Proofs/RoundedSteps.lean ====
section
/-! SUPPORT. O17: a magnitude rounded to a whole number of steps (R39), over the reals. A quotient or a root that is not exact
stands for its real by an odd last bit; it rounds to coarser steps as the real does. -/

namespace Sys2Proof.Machine

open Sys2Proof.Claims

/-- The factor of a sign. -/
noncomputable def signum (neg : Bool) : ℝ := if neg then -1 else 1

theorem signum_cases (neg : Bool) : neg = true ∧ signum neg = -1 ∨ neg = false ∧ signum neg = 1 := by
  cases neg <;> simp [signum]

theorem abs_signum_mul (neg : Bool) {X : ℝ} (hX : 0 ≤ X) : |signum neg * X| = X := by
  rcases signum_cases neg with ⟨-, h⟩ | ⟨-, h⟩ <;> simp [h, abs_of_nonneg hX]

theorem amount_num (n : Bool) (m : Nat) (e : Int) : amount (.num n m e) = signum n * (m * (2 : ℝ) ^ e) := by
  rw [amount, signum, mul_assoc]

/-! ## The direction of a rounding (R39) -/

/-- Whether a magnitude of `M` steps and a part `δ` of one is rounded away from zero. -/
def RoundsUp (rm : Round) (neg : Bool) (M : Nat) (δ : ℝ) : Prop :=
  match rm with
  | .rne => 1 / 2 < δ ∨ δ = 1 / 2 ∧ M % 2 = 1
  | .rtz => False
  | .rdn => neg = true ∧ δ ≠ 0
  | .rup => neg = false ∧ δ ≠ 0

/-- What is a whole number of steps stays. -/
theorem not_roundsUp_zero (rm : Round) (neg : Bool) (M : Nat) : ¬RoundsUp rm neg M 0 := by
  cases rm <;> norm_num [RoundsUp]

/-- The magnitude `X` is `M` steps of `u` and a part `δ` of one; rounded, it is `ρ` steps. -/
structure Rounds (rm : Round) (neg : Bool) (X u : ℝ) (M ρ : Nat) (δ : ℝ) : Prop where
  eq : X = (M + δ) * u
  nonneg : 0 ≤ δ
  lt_one : δ < 1
  up : RoundsUp rm neg M δ → ρ = M + 1
  down : ¬RoundsUp rm neg M δ → ρ = M

namespace Rounds

variable {rm : Round} {neg : Bool} {X u δ : ℝ} {M ρ : Nat}

theorem cases (h : Rounds rm neg X u M ρ δ) :
    ρ = M + 1 ∧ RoundsUp rm neg M δ ∨ ρ = M ∧ ¬RoundsUp rm neg M δ := by
  by_cases hup : RoundsUp rm neg M δ
  · exact .inl ⟨h.up hup, hup⟩
  · exact .inr ⟨h.down hup, hup⟩

/-- The rounded magnitude is the magnitude exactly when no part of a step is left. -/
theorem exact_iff (h : Rounds rm neg X u M ρ δ) (hu : 0 < u) : ρ * u = X ↔ δ = 0 := by
  rw [h.eq, mul_left_inj' hu.ne']
  have h0 := h.nonneg
  have h1 := h.lt_one
  rcases h.cases with ⟨rfl, hup⟩ | ⟨rfl, -⟩
  · have hne : δ ≠ 0 := fun h0 => not_roundsUp_zero rm neg M (h0 ▸ hup)
    push_cast
    exact ⟨fun h => by linarith, fun h => absurd h hne⟩
  · exact ⟨fun h => by linarith, fun h => by linarith⟩

/-- Steps bounded by the magnitude. -/
theorem lt_of_lt (h : Rounds rm neg X u M ρ δ) (hu : 0 < u) {k : Nat} (hX : X < k * u) : M < k := by
  rw [h.eq] at hX
  have h0 := h.nonneg
  have h1 : ((M : ℝ) + δ) < k := lt_of_mul_lt_mul_right hX hu.le
  exact_mod_cast (by linarith : (M : ℝ) < k)

theorem le_of_le (h : Rounds rm neg X u M ρ δ) (hu : 0 < u) {k : Nat} (hX : k * u ≤ X) : k ≤ M := by
  rw [h.eq] at hX
  have h1 := h.lt_one
  have h2 : (k : ℝ) ≤ M + δ := le_of_mul_le_mul_right hX hu
  exact_mod_cast (Nat.lt_succ_iff.mp (by exact_mod_cast (by push_cast; linarith : (k : ℝ) < (M + 1 : Nat))))

theorem le_steps (h : Rounds rm neg X u M ρ δ) : M ≤ ρ ∧ ρ ≤ M + 1 := by
  rcases h.cases with ⟨rfl, -⟩ | ⟨rfl, -⟩ <;> omega

end Rounds

/-! ## A number of steps computed -/

/-- `m * 2^e` in steps of `2^E`, rounded, and whether it is inexact. -/
def inSteps (rm : Round) (neg : Bool) (m : Nat) (e E : Int) : Nat × Bool :=
  if E ≤ e then (m * 2 ^ (e - E).toNat, false) else roundShift rm neg m (E - e).toNat

/-- The number `m` stands for the real `Z`: it is `Z`, or it is odd and `Z` lies between its neighbours. -/
def StandsFor (m : Nat) (Z : ℝ) : Prop := Z = m ∨ m % 2 = 1 ∧ (m : ℝ) - 1 < Z ∧ Z < m + 1

/-- A number of steps that `m * 2^e` falls into exactly. -/
theorem rounds_whole (rm : Round) (neg : Bool) (m : Nat) {e E : Int} (h : E ≤ e) :
    Rounds rm neg (m * (2 : ℝ) ^ e) ((2 : ℝ) ^ E) (m * 2 ^ (e - E).toNat) (m * 2 ^ (e - E).toNat) 0 where
  eq := by
    have hpow : (2 : ℝ) ^ e = 2 ^ (e - E).toNat * (2 : ℝ) ^ E := by
      rw [← zpow_natCast, Int.toNat_of_nonneg (by omega), ← zpow_add₀ two_ne_zero, sub_add_cancel]
    rw [hpow]
    push_cast
    ring
  nonneg := le_rfl
  lt_one := one_pos
  up h := absurd h (not_roundsUp_zero _ _ _)
  down _ := rfl

/-- Whether `roundShift` goes away from zero, by its remainder. -/
def shiftsUp (rm : Round) (neg : Bool) (q r k : Nat) : Bool :=
  match rm with
  | .rne => decide (2 ^ k < 2 * r) || (decide (2 * r = 2 ^ k) && decide (q % 2 = 1))
  | .rtz => false
  | .rdn => neg
  | .rup => !neg

theorem roundShift_eq (rm : Round) (neg : Bool) (m k : Nat) : roundShift rm neg m k =
    if m % 2 ^ k = 0 then (m / 2 ^ k, false)
    else (if shiftsUp rm neg (m / 2 ^ k) (m % 2 ^ k) k then m / 2 ^ k + 1 else m / 2 ^ k, true) := by
  unfold roundShift shiftsUp
  cases rm <;> rfl

/-- The remainder decides as the real part of a step that it stands for. -/
theorem shiftsUp_iff (rm : Round) (neg : Bool) (q : Nat) {r k : Nat} {θ : ℝ} (hk : 0 < k) (hpos : 0 < r + θ)
    (hθ : θ = 0 ∨ r % 2 = 1 ∧ -1 < θ ∧ θ < 1 ∧ 2 ≤ k) :
    shiftsUp rm neg q r k = true ↔ RoundsUp rm neg q ((r + θ) / 2 ^ k) := by
  have hpow : (0 : ℝ) < 2 ^ k := by positivity
  have hne : ((r : ℝ) + θ) / 2 ^ k ≠ 0 := (div_pos hpos hpow).ne'
  obtain ⟨j, rfl⟩ : ∃ j, k = j + 1 := ⟨k - 1, by omega⟩
  have hhalf : (2 : ℝ) ^ (j + 1) = 2 * 2 ^ j := pow_succ' 2 j
  have hlt : 2 ^ (j + 1) < 2 * r ↔ 1 / 2 < ((r : ℝ) + θ) / 2 ^ (j + 1) := by
    rw [div_lt_div_iff₀ two_pos hpow, one_mul, hhalf, pow_succ', Nat.mul_lt_mul_left two_pos, mul_comm _ (2 : ℝ),
      mul_lt_mul_iff_right₀ two_pos]
    rcases hθ with rfl | ⟨hodd, h1, h2, hj⟩
    · rw [add_zero]
      exact_mod_cast Iff.rfl
    · obtain ⟨i, rfl⟩ : ∃ i, j = i + 1 := ⟨j - 1, by omega⟩
      constructor
      · intro h
        have : (2 : ℝ) ^ (i + 1) + 1 ≤ r := by exact_mod_cast h
        linarith
      · intro h
        have : (2 : ℝ) ^ (i + 1) < r + 1 := by linarith
        have hle : 2 ^ (i + 1) ≤ r := Nat.lt_succ_iff.mp (by exact_mod_cast this)
        refine lt_of_le_of_ne hle fun heq => ?_
        rw [← heq, pow_succ, Nat.mul_mod_left] at hodd
        cases hodd
  have heq : 2 * r = 2 ^ (j + 1) ↔ ((r : ℝ) + θ) / 2 ^ (j + 1) = 1 / 2 := by
    rw [div_eq_div_iff hpow.ne' two_ne_zero, one_mul, hhalf, pow_succ', Nat.mul_right_inj two_ne_zero, mul_comm _ (2 : ℝ),
      mul_right_inj' (two_ne_zero (α := ℝ))]
    rcases hθ with rfl | ⟨hodd, h1, h2, hj⟩
    · rw [add_zero]
      exact_mod_cast Iff.rfl
    · obtain ⟨i, rfl⟩ : ∃ i, j = i + 1 := ⟨j - 1, by omega⟩
      constructor
      · intro h
        rw [h, pow_succ, Nat.mul_mod_left] at hodd
        cases hodd
      · intro h
        have hge : (2 : ℝ) ^ (i + 1) < r + 1 := by linarith
        have hle : (r : ℝ) < 2 ^ (i + 1) + 1 := by linarith
        have h3 : 2 ^ (i + 1) < r + 1 := by exact_mod_cast hge
        have h4 : r < 2 ^ (i + 1) + 1 := by exact_mod_cast hle
        omega
  cases rm
  · simp only [shiftsUp, RoundsUp, Bool.or_eq_true, Bool.and_eq_true, decide_eq_true_eq, hlt, heq]
  · simp [shiftsUp, RoundsUp]
  · simp [shiftsUp, RoundsUp, hne]
  · simp [shiftsUp, RoundsUp, hne]

/-- A shift rounds the real that a number stands for, as long as the last bit lies below the half of a step. -/
theorem rounds_shift (rm : Round) (neg : Bool) {m k : Nat} {Z : ℝ} (e : Int) (hk : 0 < k) (hm : StandsFor m Z)
    (hexact : Z = m ∨ 2 ≤ k) : ∃ δ, Rounds rm neg (Z * (2 : ℝ) ^ e) ((2 : ℝ) ^ (e + k)) (m / 2 ^ k)
      (roundShift rm neg m k).1 δ ∧ ((roundShift rm neg m k).2 = true ↔ δ ≠ 0) := by
  have hpow : (0 : ℝ) < 2 ^ k := by positivity
  have hdm : ((m / 2 ^ k : Nat) : ℝ) * 2 ^ k + (m % 2 ^ k : Nat) = m := by exact_mod_cast Nat.div_add_mod' m (2 ^ k)
  have hrem : m % 2 ^ k < 2 ^ k := Nat.mod_lt _ (Nat.two_pow_pos k)
  have hscale : (2 : ℝ) ^ (e + k) = 2 ^ e * 2 ^ k := by rw [zpow_add₀ two_ne_zero, zpow_natCast]
  have hθ : Z - m = 0 ∨ m % 2 ^ k % 2 = 1 ∧ -1 < Z - m ∧ Z - m < 1 ∧ 2 ≤ k := by
    rcases hm with h | ⟨hodd, h1, h2⟩
    · exact .inl (by linarith)
    · rcases hexact with h | h
      · exact .inl (by linarith)
      · refine .inr ⟨?_, by linarith, by linarith, h⟩
        rw [Nat.mod_mod_of_dvd m (dvd_pow_self 2 hk.ne')]
        exact hodd
  generalize hq : m / 2 ^ k = q at *
  generalize hr : m % 2 ^ k = r at *
  generalize hd : Z - m = θ at *
  have hZ : Z = q * 2 ^ k + (r + θ) := by linarith
  have heq : Z * (2 : ℝ) ^ e = (q + (r + θ) / 2 ^ k) * (2 : ℝ) ^ (e + k) := by
    rw [hZ, hscale]
    field_simp
  have hcast : (r : ℝ) ≤ 2 ^ k - 1 := by
    have : (r : ℝ) + 1 ≤ 2 ^ k := by exact_mod_cast hrem
    linarith
  rw [roundShift_eq, hq, hr]
  by_cases h0 : r = 0
  · have hθ0 : θ = 0 := hθ.resolve_right fun h => by rw [h0] at h; exact absurd h.1 (by decide)
    have hz : ((r : ℝ) + θ) / 2 ^ k = 0 := by rw [h0, hθ0]; simp
    rw [hz] at heq
    rw [if_pos h0]
    exact ⟨0, ⟨heq, le_rfl, one_pos, fun h => absurd h (not_roundsUp_zero _ _ _), fun _ => rfl⟩, by simp⟩
  · have hpos : 0 < (r : ℝ) + θ := by
      have h1 : (1 : ℝ) ≤ r := by exact_mod_cast Nat.one_le_iff_ne_zero.mpr h0
      rcases hθ with h | ⟨-, h, -⟩ <;> linarith
    have hlt : (r : ℝ) + θ < 2 ^ k := by rcases hθ with h | ⟨-, -, h, -⟩ <;> linarith
    have hup := shiftsUp_iff rm neg q hk hpos hθ
    rw [if_neg h0]
    refine ⟨_, ⟨heq, (div_pos hpos hpow).le, (div_lt_one hpow).mpr hlt, fun h => if_pos (hup.mpr h),
      fun h => if_neg fun h' => h (hup.mp h')⟩, ?_⟩
    simp only [true_iff]
    exact (div_pos hpos hpow).ne'

/-- A computed number of steps rounds the real that a number stands for. -/
theorem rounds_inSteps (rm : Round) (neg : Bool) {m : Nat} {Z : ℝ} {e E : Int} (hm : StandsFor m Z)
    (hexact : Z = m ∨ e + 2 ≤ E) : ∃ M δ, Rounds rm neg (Z * (2 : ℝ) ^ e) ((2 : ℝ) ^ E) M (inSteps rm neg m e E).1 δ ∧
      ((inSteps rm neg m e E).2 = true ↔ δ ≠ 0) := by
  unfold inSteps
  by_cases hE : E ≤ e
  · obtain rfl : Z = m := hexact.resolve_right (by omega)
    rw [if_pos hE]
    exact ⟨_, 0, rounds_whole rm neg m hE, by simp⟩
  · rw [if_neg hE]
    have hk : e + ((E - e).toNat : Int) = E := by omega
    obtain ⟨δ, hr, hx⟩ := rounds_shift rm neg e (k := (E - e).toNat) (by omega) hm (hexact.imp_right fun h => by omega)
    rw [hk] at hr
    exact ⟨_, δ, hr, hx⟩

/-- A shift by no place is a number of steps too. -/
theorem roundShift_inSteps (rm : Round) (neg : Bool) (m : Nat) (e : Int) (k : Nat) :
    (roundShift rm neg m k).1 = (inSteps rm neg m e (e + k)).1 := by
  unfold inSteps
  cases k with
  | zero => rw [roundShift_eq, pow_zero, Nat.mod_one]; simp
  | succ k => rw [if_neg (by omega), show (e + ((k + 1 : Nat) : Int) - e).toNat = k + 1 by omega]

end Sys2Proof.Machine
end


-- ==== Sys2Proof/Proofs/FloatPatterns.lean ====
section
/-! SUPPORT. O17: the reals that the patterns of a float format stand for (R37), and the pattern nearest to a real (R39). -/

namespace Sys2Proof.Machine

open Sys2Proof.Claims

/-- What the proofs use of a format: sizes that the three formats have. -/
structure Standard (f : FloatFmt) : Prop where
  two_le_prec : 2 ≤ f.prec
  prec_le : f.prec ≤ 24
  two_le_ebits : 2 ≤ f.ebits
  prec_le_bias : f.prec ≤ f.bias

theorem standard_of_mem {f : FloatFmt} (h : f ∈ [fmtF16, fmtBF16, fmtF32]) : Standard f := by
  simp only [List.mem_cons, List.not_mem_nil, or_false] at h
  obtain rfl | rfl | rfl := h <;> exact ⟨by decide, by decide, by decide, by decide⟩

namespace Standard

variable {f : FloatFmt}

theorem two_pow_ebits (hf : Standard f) : 2 ^ f.ebits = 2 * (f.bias + 1) := by
  have h2 := hf.two_le_ebits
  have hpos := Nat.two_pow_pos (f.ebits - 1)
  rw [FloatFmt.bias, Nat.sub_add_cancel hpos, ← pow_succ', Nat.sub_add_cancel (by omega)]

theorem two_pow_prec (hf : Standard f) : 2 ^ f.prec = 2 * 2 ^ (f.prec - 1) := by
  have h2 := hf.two_le_prec
  rw [← pow_succ', Nat.sub_add_cancel (by omega)]

theorem even_half (hf : Standard f) : 2 ^ (f.prec - 1) = 2 * 2 ^ (f.prec - 2) := by
  have h2 := hf.two_le_prec
  rw [← pow_succ', show f.prec - 2 + 1 = f.prec - 1 by omega]

theorem signBit_eq (hf : Standard f) : f.signBit = 2 ^ f.ebits * 2 ^ (f.prec - 1) := by
  have h2 := hf.two_le_prec
  rw [FloatFmt.signBit, ← pow_add, show f.ebits + (f.prec - 1) = f.ebits + f.prec - 1 by omega]

end Standard

/-! ## Patterns read (R37) -/

/-- The quanta of a pattern: its fraction, with the hidden bit of a normal number. -/
def quantaOf (f : FloatFmt) (r : Nat) : Nat :=
  r % 2 ^ (f.prec - 1) + if r / 2 ^ (f.prec - 1) % 2 ^ f.ebits = 0 then 0 else 2 ^ (f.prec - 1)

/-- The binade of a pattern: subnormal numbers share that of the least normal ones. -/
def binadeOf (f : FloatFmt) (r : Nat) : Nat := r / 2 ^ (f.prec - 1) % 2 ^ f.ebits - 1

/-- The exponent of a quantum in a binade. -/
def quantumExp (f : FloatFmt) (j : Nat) : Int := f.emin - (f.prec - 1 : Nat) + j

theorem decode_finite {f : FloatFmt} {r : Nat} (hr : FiniteIn f r) :
    f.decode false r = .num (r.testBit (f.ebits + f.prec - 1)) (quantaOf f r) (quantumExp f (binadeOf f r)) := by
  have hsign : bitAt r (f.ebits + f.prec - 1) = r.testBit (f.ebits + f.prec - 1) := by
    rw [Nat.testBit_eq_decide_div_mod_eq, bitAt]
    rfl
  rw [FloatFmt.decode, bitsAt, hsign]
  rw [if_neg hr.2, quantaOf, binadeOf, quantumExp]
  generalize r / 2 ^ (f.prec - 1) % 2 ^ f.ebits = ex
  by_cases h0 : ex = 0
  · rw [if_pos h0, if_pos h0, h0]
    simp
  · rw [if_neg h0, if_neg h0, FloatFmt.emin]
    congr 1
    omega

theorem realOf_finite {f : FloatFmt} {r : Nat} (hr : FiniteIn f r) :
    realOf f r = signum (r.testBit (f.ebits + f.prec - 1)) * (quantaOf f r * (2 : ℝ) ^ quantumExp f (binadeOf f r)) := by
  rw [realOf, decode_finite hr, amount_num]

theorem abs_realOf {f : FloatFmt} {r : Nat} (hr : FiniteIn f r) :
    |realOf f r| = quantaOf f r * (2 : ℝ) ^ quantumExp f (binadeOf f r) := by
  rw [realOf_finite hr, abs_signum_mul _ (by positivity)]

theorem quantaOf_lt {f : FloatFmt} (hf : Standard f) (r : Nat) : quantaOf f r < 2 ^ f.prec := by
  have hlt := Nat.mod_lt r (Nat.two_pow_pos (f.prec - 1))
  rw [quantaOf, hf.two_pow_prec]
  split <;> omega

theorem quantumExp_add (f : FloatFmt) (j k : Nat) : (2 : ℝ) ^ quantumExp f (j + k) = 2 ^ k * (2 : ℝ) ^ quantumExp f j := by
  rw [quantumExp, quantumExp, ← zpow_natCast, ← zpow_add₀ two_ne_zero]
  congr 1
  push_cast
  ring

/-- No finite number lies between two neighbouring multiples of a quantum, from those of its binade on. -/
theorem realOf_gap {f : FloatFmt} (hf : Standard f) {r M j : Nat} (hr : FiniteIn f r) (hM : j = 0 ∨ 2 ^ (f.prec - 1) ≤ M) :
    |realOf f r| ≤ M * (2 : ℝ) ^ quantumExp f j ∨ (M + 1) * (2 : ℝ) ^ quantumExp f j ≤ |realOf f r| := by
  have hpos : (0 : ℝ) < (2 : ℝ) ^ quantumExp f j := by positivity
  rw [abs_realOf hr]
  rcases le_or_gt j (binadeOf f r) with hj | hj
  · obtain ⟨k, hk⟩ := Nat.exists_eq_add_of_le hj
    rw [hk, quantumExp_add, ← mul_assoc, mul_le_mul_iff_left₀ hpos, mul_le_mul_iff_left₀ hpos]
    rcases Nat.lt_or_ge M (quantaOf f r * 2 ^ k) with h | h
    · exact .inr (by exact_mod_cast h)
    · exact .inl (by exact_mod_cast h)
  · left
    obtain ⟨k, hk⟩ := Nat.exists_eq_add_of_lt hj
    have hbig : 2 ^ (f.prec - 1) ≤ M := hM.resolve_left (by omega)
    have hquanta : (quantaOf f r : ℝ) ≤ 2 * 2 ^ (f.prec - 1) := by
      have := quantaOf_lt hf r
      rw [hf.two_pow_prec] at this
      exact_mod_cast this.le
    have hstep : (2 : ℝ) * 2 ^ quantumExp f (binadeOf f r) ≤ 2 ^ quantumExp f j := by
      rw [hk, add_assoc, quantumExp_add, pow_succ]
      have : (1 : ℝ) ≤ 2 ^ k := one_le_pow₀ one_le_two
      nlinarith [zpow_pos (two_pos (α := ℝ)) (quantumExp f (binadeOf f r))]
    calc (quantaOf f r : ℝ) * 2 ^ quantumExp f (binadeOf f r)
        ≤ 2 * 2 ^ (f.prec - 1) * 2 ^ quantumExp f (binadeOf f r) := by gcongr
      _ = 2 ^ (f.prec - 1) * (2 * 2 ^ quantumExp f (binadeOf f r)) := by ring
      _ ≤ M * 2 ^ quantumExp f j := by
          have : ((2 : ℝ) ^ (f.prec - 1)) ≤ M := by exact_mod_cast hbig
          gcongr

/-! ## Patterns written (R37) -/

theorem signed_lt_of_lt {f : FloatFmt} (hf : Standard f) (neg : Bool) {mag : Nat} (h : mag < f.signBit) :
    f.signed neg mag < 2 ^ (f.ebits + f.prec) := by
  have htwo : 2 ^ (f.ebits + f.prec) = 2 * f.signBit := by
    have := hf.two_le_prec
    rw [FloatFmt.signBit, ← pow_succ', Nat.sub_add_cancel (by omega)]
  unfold FloatFmt.signed
  split <;> omega

/-- Magnitude bits below those of an infinity, in a binade. -/
structure Magnitude (f : FloatFmt) (q j : Nat) : Prop where
  le : q ≤ 2 ^ f.prec
  normal : j = 0 ∨ 2 ^ (f.prec - 1) ≤ q
  below : q + j * 2 ^ (f.prec - 1) < f.infMag

namespace Magnitude

variable {f : FloatFmt} {q j : Nat}

theorem lt_signBit (hf : Standard f) (h : Magnitude f q j) : q + j * 2 ^ (f.prec - 1) < f.signBit := by
  have hb := h.below
  rw [FloatFmt.infMag] at hb
  rw [hf.signBit_eq]
  exact hb.trans_le (Nat.mul_le_mul_right _ (Nat.sub_le _ _))

theorem signed_mod (hf : Standard f) (h : Magnitude f q j) (neg : Bool) :
    f.signed neg (q + j * 2 ^ (f.prec - 1)) % 2 ^ (f.ebits + f.prec - 1) = q + j * 2 ^ (f.prec - 1) := by
  have hlt := h.lt_signBit hf
  unfold FloatFmt.signed
  rw [← FloatFmt.signBit]
  split
  · rw [Nat.add_mod_left, Nat.mod_eq_of_lt hlt]
  · rw [zero_add, Nat.mod_eq_of_lt hlt]

theorem testBit (hf : Standard f) (h : Magnitude f q j) (neg : Bool) :
    (f.signed neg (q + j * 2 ^ (f.prec - 1))).testBit (f.ebits + f.prec - 1) = neg := by
  have hlt := h.lt_signBit hf
  rw [Nat.testBit_eq_decide_div_mod_eq, ← FloatFmt.signBit]
  unfold FloatFmt.signed
  have hpos : 0 < f.signBit := by rw [FloatFmt.signBit]; positivity
  cases neg
  · simp [Nat.div_eq_of_lt hlt]
  · simp [Nat.add_div_left _ hpos, Nat.div_eq_of_lt hlt]

theorem signed_lt (hf : Standard f) (h : Magnitude f q j) (neg : Bool) :
    f.signed neg (q + j * 2 ^ (f.prec - 1)) < 2 ^ (f.ebits + f.prec) := signed_lt_of_lt hf neg (h.lt_signBit hf)

/-- The exponent field and the fraction of a signed pattern are those of its magnitude. -/
theorem fields (hf : Standard f) (h : Magnitude f q j) (neg : Bool) :
    f.signed neg (q + j * 2 ^ (f.prec - 1)) / 2 ^ (f.prec - 1) % 2 ^ f.ebits = q / 2 ^ (f.prec - 1) + j ∧
      f.signed neg (q + j * 2 ^ (f.prec - 1)) % 2 ^ (f.prec - 1) = q % 2 ^ (f.prec - 1) := by
  have hlt := h.lt_signBit hf
  have hpos := Nat.two_pow_pos (f.prec - 1)
  rw [hf.signBit_eq] at hlt
  have hex : q / 2 ^ (f.prec - 1) + j < 2 ^ f.ebits := by
    rw [← Nat.add_mul_div_right _ _ hpos]
    exact (Nat.div_lt_iff_lt_mul hpos).mpr hlt
  have hsum : f.signed neg (q + j * 2 ^ (f.prec - 1)) =
      q + (j + (if neg then 2 ^ f.ebits else 0)) * 2 ^ (f.prec - 1) := by
    unfold FloatFmt.signed
    rw [hf.signBit_eq]
    split <;> ring
  rw [hsum, Nat.add_mul_div_right _ _ hpos, Nat.add_mul_mod_self_right, ← add_assoc]
  refine ⟨?_, rfl⟩
  split
  · rw [Nat.add_mod_right, Nat.mod_eq_of_lt hex]
  · rw [add_zero, Nat.mod_eq_of_lt hex]

theorem finite (hf : Standard f) (h : Magnitude f q j) (neg : Bool) : FiniteIn f (f.signed neg (q + j * 2 ^ (f.prec - 1))) := by
  refine ⟨h.signed_lt hf neg, ?_⟩
  have hpos := Nat.two_pow_pos (f.prec - 1)
  have hb := h.below
  rw [FloatFmt.infMag] at hb
  rw [(h.fields hf neg).1, ← Nat.add_mul_div_right _ _ hpos]
  exact ((Nat.div_lt_iff_lt_mul hpos).mpr hb).ne

theorem parity (hf : Standard f) (neg : Bool) : f.signed neg (q + j * 2 ^ (f.prec - 1)) % 2 = q % 2 := by
  have h1 : f.signed neg (q + j * 2 ^ (f.prec - 1)) =
      q + 2 * (2 ^ (f.prec - 2) * (j + (if neg then 2 ^ f.ebits else 0))) := by
    unfold FloatFmt.signed
    rw [hf.signBit_eq, hf.even_half]
    split <;> ring
  rw [h1, Nat.add_mul_mod_self_left]

theorem realOf_signed (hf : Standard f) (h : Magnitude f q j) (neg : Bool) :
    realOf f (f.signed neg (q + j * 2 ^ (f.prec - 1))) = signum neg * (q * (2 : ℝ) ^ quantumExp f j) := by
  obtain ⟨hex, hfrac⟩ := h.fields hf neg
  have hpos := Nat.two_pow_pos (f.prec - 1)
  have hle := h.le
  have hnormal := h.normal
  have hcast (n : Nat) : ((2 ^ n : Nat) : ℝ) = 2 ^ n := by push_cast; rfl
  rw [realOf_finite (h.finite hf neg), h.testBit hf, quantaOf, binadeOf, hex, hfrac]
  congr 1
  rw [hf.two_pow_prec] at hle
  rcases Nat.lt_or_ge q (2 ^ (f.prec - 1)) with hq | hq
  · obtain rfl : j = 0 := hnormal.resolve_right (by omega)
    rw [Nat.div_eq_of_lt hq, if_pos rfl, Nat.mod_eq_of_lt hq]
    rfl
  · rcases Nat.lt_or_eq_of_le hle with hq2 | rfl
    · have hdiv : q / 2 ^ (f.prec - 1) = 1 := Nat.div_eq_of_lt_le (by omega) (by omega)
      rw [hdiv, if_neg (by omega), Nat.mod_eq_sub_div_mul, hdiv, one_mul, Nat.sub_add_cancel hq, Nat.add_sub_cancel_left]
    · rw [Nat.mul_div_cancel _ hpos, if_neg (by omega), Nat.mul_mod_left, show 2 + j - 1 = j + 1 by omega, quantumExp_add]
      push_cast
      ring

end Magnitude

/-! ## The nearest pattern (R39) -/

section Nearest

variable {rm : Round} {neg : Bool} {X u δ : ℝ} {M ρ : Nat}

/-- Steps toward zero are the most that do not pass the magnitude. -/
theorem Rounds.toward (h : Rounds rm neg X u M ρ δ) (hu : 0 < u) (hup : ¬RoundsUp rm neg M δ) : ρ * u ≤ X ∧
    ∀ a : ℝ, (a ≤ M * u ∨ (M + 1) * u ≤ a) → a ≤ X → a ≤ ρ * u := by
  have h0 := h.nonneg
  have h1 := h.lt_one
  rw [h.down hup, h.eq]
  refine ⟨by nlinarith, fun a ha hle => ha.resolve_right fun hge => ?_⟩
  nlinarith

/-- Steps away from zero are the fewest that reach the magnitude. -/
theorem Rounds.away (h : Rounds rm neg X u M ρ δ) (hu : 0 < u) (hup : δ ≠ 0 → RoundsUp rm neg M δ) : X ≤ ρ * u ∧
    ∀ a : ℝ, (a ≤ M * u ∨ (M + 1) * u ≤ a) → X ≤ a → ρ * u ≤ a := by
  have h0 := h.nonneg
  have h1 := h.lt_one
  by_cases hδ : δ = 0
  · have hdown : ρ = M := h.down (hδ ▸ not_roundsUp_zero rm neg M)
    rw [h.eq, hdown, hδ, add_zero]
    exact ⟨le_rfl, fun a _ hle => hle⟩
  · have hpos : 0 < δ := lt_of_le_of_ne h0 (Ne.symm hδ)
    rw [h.eq, h.up (hup hδ)]
    push_cast
    refine ⟨by nlinarith, fun a ha hle => ha.resolve_left fun hge => ?_⟩
    nlinarith

/-- Steps to nearest are nearest, with an even number for a tie. -/
theorem Rounds.nearest (h : Rounds .rne neg X u M ρ δ) (hu : 0 < u) {y : ℝ} (hy : y ≤ M * u ∨ (M + 1) * u ≤ y) :
    |X - ρ * u| ≤ |X - y| ∧ (|X - ρ * u| = |X - y| → y ≠ ρ * u → ρ % 2 = 0) := by
  have h0 := h.nonneg
  have h1 := h.lt_one
  have hbelow : y ≤ M * u → |X - y| = X - y := fun hy => abs_of_nonneg (by rw [h.eq]; nlinarith)
  have habove : (M + 1) * u ≤ y → |X - y| = y - X := fun hy => by
    rw [abs_of_nonpos (by rw [h.eq]; nlinarith)]
    ring
  rcases h.cases with ⟨hρ, hup⟩ | ⟨hρ, hup⟩
  · have habs : |X - ρ * u| = (1 - δ) * u := by
      rw [h.eq, hρ, abs_of_nonpos (by push_cast; nlinarith)]
      push_cast
      ring
    have hhalf : 1 / 2 ≤ δ := by rcases hup with h | ⟨h, -⟩ <;> linarith
    rw [habs]
    rcases hy with hy | hy
    · rw [hbelow hy, h.eq]
      refine ⟨by nlinarith, fun heq _ => ?_⟩
      have hle : δ ≤ 1 / 2 := by
        by_contra hlt
        nlinarith
      rcases hup with h | ⟨-, h⟩
      · linarith
      · omega
    · rw [habove hy, h.eq]
      refine ⟨by nlinarith, fun heq hne => absurd ?_ hne⟩
      rw [hρ]
      push_cast
      linarith
  · have habs : |X - ρ * u| = δ * u := by
      rw [h.eq, hρ, abs_of_nonneg (by nlinarith)]
      ring
    have hhalf : δ ≤ 1 / 2 := by
      by_contra hlt
      exact hup (.inl (by linarith))
    rw [habs]
    rcases hy with hy | hy
    · rw [hbelow hy, h.eq]
      refine ⟨by nlinarith, fun heq hne => absurd ?_ hne⟩
      rw [hρ]
      linarith
    · rw [habove hy, h.eq]
      refine ⟨by nlinarith, fun heq _ => ?_⟩
      have hge : 1 / 2 ≤ δ := by
        by_contra hlt
        nlinarith
      have hodd : M % 2 ≠ 1 := fun h => hup (.inr ⟨by linarith, h⟩)
      omega

end Nearest

/-- The pattern of the rounded number of quanta is the real rounded to the format. -/
theorem roundedTo_of_rounds {f : FloatFmt} (hf : Standard f) {rm : Round} {neg : Bool} {X δ : ℝ} {M ρ j r : Nat}
    (h : Rounds rm neg X ((2 : ℝ) ^ quantumExp f j) M ρ δ) (hM : j = 0 ∨ 2 ^ (f.prec - 1) ≤ M) (hr : FiniteIn f r)
    (hsign : r.testBit (f.ebits + f.prec - 1) = neg) (heven : r % 2 = ρ % 2)
    (hreal : realOf f r = signum neg * (ρ * (2 : ℝ) ^ quantumExp f j)) : RoundedTo f rm neg (signum neg * X) r := by
  have hgap (q : Nat) (hq : FiniteIn f q) := realOf_gap hf hq hM
  generalize hu : (2 : ℝ) ^ quantumExp f j = u at *
  have hpos : 0 < u := hu ▸ zpow_pos two_pos _
  have hX : 0 ≤ X := by
    have h0 := h.nonneg
    rw [h.eq]
    positivity
  have hρ : 0 ≤ ρ * u := by positivity
  have hside {y : ℝ} (hy : |y| ≤ M * u ∨ (M + 1) * u ≤ |y|) (hy0 : 0 ≤ y) : y ≤ M * u ∨ (M + 1) * u ≤ y := by
    rwa [abs_of_nonneg hy0] at hy
  have hMu : 0 ≤ M * u := by positivity
  refine ⟨hr, hsign, ?_⟩
  rw [hreal]
  cases rm with
  | rne =>
    intro q hq
    have hy : signum neg * realOf f q ≤ M * u ∨ (M + 1) * u ≤ signum neg * realOf f q := by
      have habs : |signum neg * realOf f q| = |realOf f q| := by
        rcases signum_cases neg with ⟨-, h⟩ | ⟨-, h⟩ <;> simp [h]
      rcases le_or_gt 0 (signum neg * realOf f q) with h0 | h0
      · exact hside (habs.symm ▸ hgap q hq) h0
      · exact .inl (h0.le.trans hMu)
    obtain ⟨hnear, htie⟩ := h.nearest hpos hy
    have hfactor (a : ℝ) : |signum neg * X - a| = |X - signum neg * a| := by
      rcases signum_cases neg with ⟨-, h⟩ | ⟨-, h⟩
      · rw [h, ← abs_neg]
        congr 1
        ring
      · rw [h]
        congr 1
        ring
    have hsq : signum neg * (signum neg * (ρ * u)) = ρ * u := by
      rcases signum_cases neg with ⟨-, h⟩ | ⟨-, h⟩ <;> rw [h] <;> ring
    rw [hfactor, hfactor, hsq]
    refine ⟨hnear, fun heq hne => heven.trans (htie heq fun hy => hne ?_)⟩
    rcases signum_cases neg with ⟨-, h⟩ | ⟨-, h⟩ <;> rw [h] at hy ⊢ <;> linarith
  | rtz =>
    obtain ⟨hle, hmost⟩ := h.toward hpos (fun h => h)
    rw [abs_signum_mul _ hρ, abs_signum_mul _ hX]
    exact ⟨hle, fun q hq hqx => hmost _ (hgap q hq) hqx⟩
  | rdn =>
    rcases signum_cases neg with ⟨hneg, hs⟩ | ⟨hneg, hs⟩
    · obtain ⟨hle, hleast⟩ := h.away hpos fun hδ => ⟨hneg, hδ⟩
      rw [hs]
      refine ⟨by linarith, fun q hq hqx => ?_⟩
      have hneg' : realOf f q ≤ 0 := by linarith
      have := hleast _ (hgap q hq) (by rw [abs_of_nonpos hneg']; linarith)
      rw [abs_of_nonpos hneg'] at this
      linarith
    · obtain ⟨hle, hmost⟩ := h.toward hpos fun h => by rw [hneg] at h; exact absurd h.1 (by decide)
      rw [hs, one_mul, one_mul]
      refine ⟨hle, fun q hq hqx => ?_⟩
      rcases le_or_gt 0 (realOf f q) with h0 | h0
      · exact hmost _ (hside (hgap q hq) h0) hqx
      · exact h0.le.trans hρ
  | rup =>
    rcases signum_cases neg with ⟨hneg, hs⟩ | ⟨hneg, hs⟩
    · obtain ⟨hle, hmost⟩ := h.toward hpos fun h => by rw [hneg] at h; exact absurd h.1 (by decide)
      rw [hs]
      refine ⟨by linarith, fun q hq hqx => ?_⟩
      rcases le_or_gt 0 (realOf f q) with h0 | h0
      · linarith
      · have := hmost _ (hgap q hq) (by rw [abs_of_neg h0]; linarith)
        rw [abs_of_neg h0] at this
        linarith
    · obtain ⟨hle, hleast⟩ := h.away hpos fun hδ => ⟨hneg, hδ⟩
      rw [hs, one_mul, one_mul]
      exact ⟨hle, fun q hq hqx => hleast _ (hside (hgap q hq) (hX.trans hqx)) hqx⟩

end Sys2Proof.Machine
end


-- ==== Sys2Proof/Proofs/FloatRounding.lean ====
section
/-! SUPPORT. O17: what rounding to a float format answers (R39), for a number that is the real it stands for and for one
that stands for the real by an odd last bit. -/

namespace Sys2Proof.Machine

open Sys2Proof.Claims

/-! ## The steps of a rounding -/

/-- A number fine enough to round to a format as the real that it stands for. -/
structure Fine (f : FloatFmt) (m : Nat) (Z : ℝ) : Prop where
  ne_zero : m ≠ 0
  stands : StandsFor m Z
  exact : Z = m ∨ 2 ^ (f.prec + 2) ≤ m

/-- The exponent of the steps of `prec` bits, as if the exponent range were unbounded. -/
def freeExp (f : FloatFmt) (m : Nat) (e : Int) : Int := e + m.log2 + 1 - f.prec

/-- The rounded number of those steps. -/
def freeSteps (f : FloatFmt) (rm : Round) (n : Bool) (m : Nat) (e : Int) : Nat := (inSteps rm n m e (freeExp f m e)).1

/-- The binade of the result: the subnormal numbers share the least one. -/
def resultBinade (f : FloatFmt) (m : Nat) (e : Int) : Nat := (max (e + m.log2) f.emin - f.emin).toNat

/-- The result in quanta of its binade. -/
def quantaSteps (f : FloatFmt) (rm : Round) (n : Bool) (m : Nat) (e : Int) : Nat × Bool :=
  inSteps rm n m e (quantumExp f (resultBinade f m e))

/-- The leading exponent after a rounding to `prec` bits. -/
def freeTop (f : FloatFmt) (rm : Round) (n : Bool) (m : Nat) (e : Int) : Int :=
  e + m.log2 + if freeSteps f rm n m e = 2 ^ f.prec then 1 else 0

theorem two_pow_mul_zpow (k : Nat) (E : Int) : ((2 ^ k : Nat) : ℝ) * (2 : ℝ) ^ E = 2 ^ ((k : Int) + E) := by
  rw [Nat.cast_pow, Nat.cast_ofNat, zpow_add₀ two_ne_zero, zpow_natCast]

theorem quantumExp_resultBinade (f : FloatFmt) (m : Nat) (e : Int) :
    quantumExp f (resultBinade f m e) = max (e + m.log2) f.emin - (f.prec - 1 : Nat) := by
  rw [quantumExp, resultBinade]
  omega

namespace Fine

variable {f : FloatFmt} {m : Nat} {Z : ℝ}

theorem of_ne_zero (f : FloatFmt) (hm : m ≠ 0) : Fine f m m := ⟨hm, .inl rfl, .inl rfl⟩

/-- The real lies in the binade of the number. -/
theorem bounds (h : Fine f m Z) : (2 : ℝ) ^ m.log2 ≤ Z ∧ Z < 2 ^ (m.log2 + 1) := by
  have hlow : 2 ^ m.log2 ≤ m := Nat.log2_self_le h.ne_zero
  have hhigh : m < 2 ^ (m.log2 + 1) := Nat.lt_log2_self
  have hhigh' : (m : ℝ) + 1 ≤ 2 ^ (m.log2 + 1) := by exact_mod_cast hhigh
  have hlow' : (2 : ℝ) ^ m.log2 ≤ m := by exact_mod_cast hlow
  rcases h.stands with hZ | ⟨hodd, h1, h2⟩
  · rw [hZ]
    exact ⟨hlow', by linarith⟩
  · rcases h.exact with hZ | hbig
    · rw [hZ]
      exact ⟨hlow', by linarith⟩
    · have hne : 2 ^ m.log2 ≠ m := fun heq => by
        have hpos : m.log2 ≠ 0 := fun h0 => by
          rw [h0] at heq
          have : 2 ^ 2 ≤ 2 ^ (f.prec + 2) := Nat.pow_le_pow_right two_pos (by omega)
          omega
        rw [← heq, ← Nat.succ_pred hpos, pow_succ, Nat.mul_mod_left] at hodd
        cases hodd
      have hlow'' : (2 : ℝ) ^ m.log2 + 1 ≤ m := by exact_mod_cast (lt_of_le_of_ne hlow hne)
      exact ⟨by linarith, by linarith⟩

theorem scaled_bounds (h : Fine f m Z) (e : Int) :
    (2 : ℝ) ^ (e + m.log2) ≤ Z * 2 ^ e ∧ Z * (2 : ℝ) ^ e < 2 ^ (e + m.log2 + 1) := by
  have hpos : (0 : ℝ) < 2 ^ e := zpow_pos two_pos e
  obtain ⟨hlow, hhigh⟩ := h.bounds
  have h1 : (2 : ℝ) ^ (e + m.log2) = 2 ^ m.log2 * 2 ^ e := by rw [zpow_add₀ two_ne_zero, zpow_natCast, mul_comm]
  have h2 : (2 : ℝ) ^ (e + m.log2 + 1) = 2 ^ (m.log2 + 1) * 2 ^ e := by
    rw [add_assoc, zpow_add₀ two_ne_zero, ← Nat.cast_succ, zpow_natCast, mul_comm]
  rw [h1, h2]
  exact ⟨mul_le_mul_of_nonneg_right hlow hpos.le, mul_lt_mul_of_pos_right hhigh hpos⟩

/-- Coarse steps lie above the odd last bit. -/
theorem coarse (h : Fine f m Z) {e E : Int} (hE : freeExp f m e ≤ E) : Z = m ∨ e + 2 ≤ E := by
  refine h.exact.imp_right fun hbig => ?_
  have hlog : f.prec + 2 ≤ m.log2 := (Nat.le_log2 h.ne_zero).mpr hbig
  rw [freeExp] at hE
  omega

/-- The steps of `prec` bits round the real. -/
theorem rounds_free (h : Fine f m Z) (hf : Standard f) (rm : Round) (n : Bool) (e : Int) :
    ∃ M δ, Rounds rm n (Z * (2 : ℝ) ^ e) ((2 : ℝ) ^ freeExp f m e) M (freeSteps f rm n m e) δ ∧
      2 ^ (f.prec - 1) ≤ M ∧ M < 2 ^ f.prec := by
  have hprec := hf.two_le_prec
  obtain ⟨hlow, hhigh⟩ := h.scaled_bounds e
  obtain ⟨M, δ, hr, -⟩ := rounds_inSteps rm n h.stands (h.coarse le_rfl)
  refine ⟨M, δ, hr, hr.le_of_le (zpow_pos two_pos _) ?_, hr.lt_of_lt (zpow_pos two_pos _) ?_⟩
  · refine le_of_eq_of_le ?_ hlow
    rw [freeExp, two_pow_mul_zpow]
    congr 1
    omega
  · refine lt_of_lt_of_eq hhigh ?_
    rw [freeExp, two_pow_mul_zpow]
    congr 1
    omega

/-- The quanta of the result round the real. -/
theorem rounds_quanta (h : Fine f m Z) (hf : Standard f) (rm : Round) (n : Bool) (e : Int) :
    ∃ M δ, Rounds rm n (Z * (2 : ℝ) ^ e) ((2 : ℝ) ^ quantumExp f (resultBinade f m e)) M (quantaSteps f rm n m e).1 δ ∧
      ((quantaSteps f rm n m e).2 = true ↔ δ ≠ 0) ∧ (resultBinade f m e = 0 ∨ 2 ^ (f.prec - 1) ≤ M) ∧
      M < 2 ^ f.prec := by
  have hprec := hf.two_le_prec
  obtain ⟨hlow, hhigh⟩ := h.scaled_bounds e
  have hE := quantumExp_resultBinade f m e
  have hcoarse : freeExp f m e ≤ quantumExp f (resultBinade f m e) := by rw [hE, freeExp]; omega
  obtain ⟨M, δ, hr, hx⟩ := rounds_inSteps rm n h.stands (h.coarse hcoarse)
  refine ⟨M, δ, hr, hx, ?_, hr.lt_of_lt (zpow_pos two_pos _) (hhigh.trans_le ?_)⟩
  · rw [or_iff_not_imp_left]
    intro hj
    refine hr.le_of_le (zpow_pos two_pos _) (le_of_eq_of_le ?_ hlow)
    rw [resultBinade] at hj
    rw [hE, two_pow_mul_zpow]
    congr 1
    omega
  · rw [hE, Nat.cast_pow, ← zpow_natCast, Nat.cast_ofNat, ← zpow_add₀ two_ne_zero]
    exact zpow_le_zpow_right₀ one_le_two (by omega)

end Fine

/-- From the normal numbers on, the quanta are the steps of `prec` bits. -/
theorem quantaSteps_normal {f : FloatFmt} (hf : Standard f) (rm : Round) (n : Bool) {m : Nat} {e : Int}
    (h : f.emin ≤ e + m.log2) : (quantaSteps f rm n m e).1 = freeSteps f rm n m e := by
  have hprec := hf.two_le_prec
  rw [quantaSteps, freeSteps, quantumExp_resultBinade, freeExp, max_eq_left h]
  congr 2
  omega

/-- The model's leading exponent. -/
theorem roundShift_top {f : FloatFmt} (hf : Standard f) (rm : Round) (n : Bool) {m : Nat} (hm : m ≠ 0) (e : Int) :
    e + (m.log2 + 1 - f.prec : Nat) + ((roundShift rm n m (m.log2 + 1 - f.prec)).1.log2 : Int) = freeTop f rm n m e := by
  obtain ⟨M, δ, hr, hlow, hhigh⟩ := (Fine.of_ne_zero f hm).rounds_free hf rm n e
  obtain ⟨hle, hge⟩ := hr.le_steps
  have htwo := hf.two_pow_prec
  have hprec := hf.two_le_prec
  have hlog : ((freeSteps f rm n m e).log2 : Int) = f.prec - 1 + if freeSteps f rm n m e = 2 ^ f.prec then 1 else 0 := by
    split
    next heq => rw [heq, Nat.log2_two_pow]; ring
    next hne =>
      have : (freeSteps f rm n m e).log2 = f.prec - 1 :=
        (Nat.log2_eq_iff (by have := Nat.two_pow_pos (f.prec - 1); omega)).mpr
          ⟨by omega, by rw [Nat.sub_add_cancel (by omega)]; omega⟩
      omega
  rw [freeTop]
  rcases Nat.lt_or_ge m.log2 f.prec with hlt | hge
  · have hE : freeExp f m e ≤ e := by rw [freeExp]; omega
    have hsteps : freeSteps f rm n m e = m * 2 ^ (e - freeExp f m e).toNat := by rw [freeSteps, inSteps, if_pos hE]
    have hlog2 : (freeSteps f rm n m e).log2 = m.log2 + (e - freeExp f m e).toNat := by
      rw [hsteps, Nat.log2_eq_iff (by positivity), pow_add, add_right_comm, pow_add _ (m.log2 + 1)]
      exact ⟨Nat.mul_le_mul_right _ (Nat.log2_self_le hm), Nat.mul_lt_mul_of_pos_right Nat.lt_log2_self (by positivity)⟩
    rw [show m.log2 + 1 - f.prec = 0 by omega, roundShift_eq, pow_zero, Nat.mod_one, if_pos rfl, Nat.div_one]
    dsimp only
    rw [freeExp] at hlog2 hE
    omega
  · have hE : e + ((m.log2 + 1 - f.prec : Nat) : Int) = freeExp f m e := by rw [freeExp]; omega
    rw [roundShift_inSteps rm n m e, hE, ← freeSteps, hlog, freeExp]
    omega

/-- Rounding to a format, by the steps. -/
theorem round_num {f : FloatFmt} (hf : Standard f) (md : FpMode) (n : Bool) {m : Nat} (hm : m ≠ 0) (e : Int) :
    f.round md (.num n m e) =
      if (f.bias : Int) < freeTop f md.rm n m e then (f.overflow md.rm n, fOF ||| fNX)
      else if md.ftz = true ∧ 0 < (quantaSteps f md.rm n m e).1 ∧ (quantaSteps f md.rm n m e).1 < 2 ^ (f.prec - 1) then
        (f.signed n 0, fUF ||| fNX)
      else (f.signed n ((quantaSteps f md.rm n m e).1 + resultBinade f m e * 2 ^ (f.prec - 1)),
        flagIf (quantaSteps f md.rm n m e).2 fNX |||
          flagIf ((quantaSteps f md.rm n m e).2 && decide (freeTop f md.rm n m e < f.emin)) fUF) := by
  rw [FloatFmt.round, if_neg hm]
  dsimp only
  rw [roundShift_top hf md.rm n hm e, ← quantumExp_resultBinade, ← resultBinade, ← inSteps, ← quantaSteps]
  by_cases hov : (f.bias : Int) < freeTop f md.rm n m e
  · rw [if_pos hov, if_pos hov]
  · rw [if_neg hov, if_neg hov]
    congr 1
    simp [and_assoc]

end Sys2Proof.Machine
end


-- ==== Sys2Proof/Proofs/FloatResults.lean ====
section
/-! SUPPORT. O17: overflow, tininess and flushing of a rounding to a float format, judged on the real (R39). -/

namespace Sys2Proof.Machine

open Sys2Proof.Claims

/-! ## Overflow -/

/-- The greatest finite number of a format is one step below the first power of two that it lacks. -/
theorem greatest_magnitude {f : FloatFmt} (hf : Standard f) :
    Magnitude f (2 ^ f.prec - 1) (2 ^ f.ebits - 3) ∧
      greatest f = f.signed false (2 ^ f.prec - 1 + (2 ^ f.ebits - 3) * 2 ^ (f.prec - 1)) := by
  have hb := hf.prec_le_bias
  have hp := hf.two_le_prec
  have he := hf.two_pow_ebits
  have htwo := hf.two_pow_prec
  have hpos := Nat.two_pow_pos (f.prec - 1)
  have hsum : 2 ^ f.prec - 1 + (2 ^ f.ebits - 3) * 2 ^ (f.prec - 1) = f.infMag - 1 := by
    obtain ⟨k, hk⟩ : ∃ k, 2 ^ f.ebits = k + 3 := ⟨2 ^ f.ebits - 3, by omega⟩
    rw [FloatFmt.infMag, hk, htwo, show k + 3 - 3 = k by omega, show k + 3 - 1 = k + 2 by omega, add_mul]
    omega
  have hinf : 0 < f.infMag := Nat.mul_pos (by omega) hpos
  exact ⟨⟨Nat.sub_le _ _, .inr (by omega), by rw [hsum]; omega⟩,
    by rw [hsum]; simp [FloatFmt.signed, greatest, FloatFmt.infMag]⟩

theorem realOf_greatest {f : FloatFmt} (hf : Standard f) :
    realOf f (greatest f) = (2 ^ f.prec - 1) * (2 : ℝ) ^ ((f.bias : Int) + 1 - f.prec) := by
  obtain ⟨hmag, heq⟩ := greatest_magnitude hf
  have hb := hf.prec_le_bias
  have hp := hf.two_le_prec
  have he := hf.two_pow_ebits
  have hcast : ((2 ^ f.prec - 1 : Nat) : ℝ) = 2 ^ f.prec - 1 := by
    rw [Nat.cast_sub (Nat.one_le_two_pow)]
    push_cast
    rfl
  have hexp : quantumExp f (2 ^ f.ebits - 3) = (f.bias : Int) + 1 - f.prec := by
    rw [quantumExp, he, FloatFmt.emin]
    omega
  rw [heq, hmag.realOf_signed hf, hcast, hexp]
  simp [signum]

/-- The first power of two that a format lacks, in steps of the last binade. -/
theorem two_pow_past (f : FloatFmt) :
    (2 : ℝ) ^ (f.bias + 1) = 2 ^ f.prec * 2 ^ ((f.bias : Int) + 1 - f.prec) := by
  have := two_pow_mul_zpow f.prec ((f.bias : Int) + 1 - f.prec)
  rw [Nat.cast_pow, Nat.cast_ofNat, add_sub_cancel] at this
  rw [this, ← zpow_natCast]
  rfl

/-- A real within one step of the end is in the last step. -/
theorem succ_eq_of_lt {M k : Nat} {δ : ℝ} (hδ : δ < 1) (hM : M < k) (h : (k : ℝ) < M + δ + 1) : M + 1 = k := by
  have : (k : ℝ) < ((M + 1 + 1 : Nat) : ℝ) := by push_cast; linarith
  have hle : k < M + 1 + 1 := by exact_mod_cast this
  omega

/-- With every step of the last binade taken, the modes that go up pass the greatest number. -/
theorem overflows_lastBinade {f : FloatFmt} (hf : Standard f) {rm : Round} {n : Bool} {X δ : ℝ} {M ρ : Nat}
    (h : Rounds rm n X ((2 : ℝ) ^ ((f.bias : Int) + 1 - f.prec)) M ρ δ) (hM : M < 2 ^ f.prec) :
    Overflows f rm n X ↔ ρ = 2 ^ f.prec := by
  have hb := hf.prec_le_bias
  have hp := hf.two_le_prec
  have htwo := hf.two_pow_prec
  have h0 := h.nonneg
  have h1 := h.lt_one
  have hs : (0 : ℝ) < 2 ^ ((f.bias : Int) + 1 - f.prec) := zpow_pos two_pos _
  have hpast := two_pow_past f
  have hhalf : (2 : ℝ) ^ (f.bias - f.prec) = 1 / 2 * 2 ^ ((f.bias : Int) + 1 - f.prec) := by
    rw [show (f.bias : Int) + 1 - f.prec = ((f.bias - f.prec : Nat) : Int) + 1 by omega, zpow_add₀ two_ne_zero,
      zpow_natCast, zpow_one]
    ring
  have hle : (M : ℝ) + 1 ≤ 2 ^ f.prec := by exact_mod_cast hM
  have hlast : ρ = 2 ^ f.prec ↔ M + 1 = 2 ^ f.prec ∧ RoundsUp rm n M δ := by
    rcases h.cases with ⟨hρ, hup⟩ | ⟨hρ, hup⟩
    · simp [hρ, hup]
    · simp only [hρ, hup, and_false, iff_false]
      omega
  have hcast : M + 1 = 2 ^ f.prec ↔ (M : ℝ) + 1 = 2 ^ f.prec := by exact_mod_cast Iff.rfl
  have hnotpast : ¬(2 : ℝ) ^ (f.bias + 1) ≤ X := by
    rw [h.eq, hpast, mul_le_mul_iff_left₀ hs]
    linarith
  have habove : realOf f (greatest f) < X ↔ M + 1 = 2 ^ f.prec ∧ δ ≠ 0 := by
    rw [realOf_greatest hf, h.eq, mul_lt_mul_iff_left₀ hs, hcast]
    constructor
    · intro hlt
      have heq : (M : ℝ) + 1 = 2 ^ f.prec := hcast.mp (succ_eq_of_lt h1 hM (by push_cast; linarith))
      exact ⟨heq, fun hz => by rw [hz] at hlt; linarith⟩
    · rintro ⟨heq, hne⟩
      have := lt_of_le_of_ne h0 (Ne.symm hne)
      linarith
  rw [hlast]
  cases rm with
  | rne =>
    simp only [Overflows, RoundsUp]
    rw [h.eq, hpast, hhalf, ← sub_mul, mul_le_mul_iff_left₀ hs, hcast]
    constructor
    · intro hge
      have hend : M + 1 = 2 ^ f.prec := succ_eq_of_lt h1 hM (by push_cast; linarith)
      have heq : (M : ℝ) + 1 = 2 ^ f.prec := hcast.mp hend
      refine ⟨heq, ?_⟩
      rcases lt_or_eq_of_le (by linarith : 1 / 2 ≤ δ) with hlt | hh
      · exact .inl hlt
      · exact .inr ⟨hh.symm, by omega⟩
    · rintro ⟨heq, hup⟩
      have : 1 / 2 ≤ δ := by rcases hup with h | ⟨h, -⟩ <;> linarith
      linarith
  | rtz => simp [Overflows, RoundsUp, hnotpast]
  | rdn => cases n <;> simp [Overflows, RoundsUp, hnotpast, habove]
  | rup => cases n <;> simp [Overflows, RoundsUp, hnotpast, habove]

/-- From the first power of two that a format lacks on, every mode overflows. -/
theorem overflows_of_past {f : FloatFmt} (hf : Standard f) (rm : Round) (n : Bool) {X : ℝ}
    (h : (2 : ℝ) ^ (f.bias + 1) ≤ X) : Overflows f rm n X := by
  have hlt : realOf f (greatest f) < X := by
    refine lt_of_lt_of_le ?_ h
    rw [realOf_greatest hf, two_pow_past]
    exact mul_lt_mul_of_pos_right (by linarith) (zpow_pos two_pos _)
  have hpos : (0 : ℝ) < 2 ^ (f.bias - f.prec) := by positivity
  cases rm with
  | rne => exact (by linarith : (2 : ℝ) ^ (f.bias + 1) - 2 ^ (f.bias - f.prec) ≤ X)
  | rtz => exact h
  | rdn => cases n <;> simp [Overflows, h, hlt]
  | rup => cases n <;> simp [Overflows, h, hlt]

/-- Below the last binade no mode overflows. -/
theorem not_overflows_of_lt {f : FloatFmt} (hf : Standard f) (rm : Round) (n : Bool) {X : ℝ}
    (h : X < (2 : ℝ) ^ f.bias) : ¬Overflows f rm n X := by
  have hdouble : (2 : ℝ) ^ (f.bias + 1) = 2 * 2 ^ f.bias := pow_succ' 2 _
  have hpos : (0 : ℝ) < 2 ^ f.bias := by positivity
  have hhalf : (2 : ℝ) ^ (f.bias - f.prec) ≤ 2 ^ f.bias := pow_le_pow_right₀ one_le_two (Nat.sub_le _ _)
  have hgreat : ¬realOf f (greatest f) < X := by
    have hs : (0 : ℝ) < 2 ^ ((f.bias : Int) + 1 - f.prec) := zpow_pos two_pos _
    have hb : (2 : ℝ) ^ f.bias = 2 ^ (f.prec - 1) * 2 ^ ((f.bias : Int) + 1 - f.prec) := by
      have := two_pow_mul_zpow (f.prec - 1) ((f.bias : Int) + 1 - f.prec)
      have hp := hf.two_le_prec
      rw [Nat.cast_pow, Nat.cast_ofNat] at this
      rw [this, ← zpow_natCast]
      congr 1
      omega
    have htwo : (2 : ℝ) ^ f.prec = 2 * 2 ^ (f.prec - 1) := by exact_mod_cast hf.two_pow_prec
    have hone : (1 : ℝ) ≤ 2 ^ (f.prec - 1) := one_le_pow₀ one_le_two
    rw [realOf_greatest hf, htwo]
    rw [hb] at h
    nlinarith
  have hpast : ¬(2 : ℝ) ^ (f.bias + 1) ≤ X := by linarith
  cases rm with
  | rne => exact fun hle => by simp only [Overflows] at hle; linarith
  | rtz => exact hpast
  | rdn => cases n <;> simp [Overflows, hpast, hgreat]
  | rup => cases n <;> simp [Overflows, hpast, hgreat]

/-- The model's test for overflow is that of R39 on the real. -/
theorem Fine.overflows_iff {f : FloatFmt} {m : Nat} {Z : ℝ} (h : Fine f m Z) (hf : Standard f) (rm : Round) (n : Bool)
    (e : Int) : (f.bias : Int) < freeTop f rm n m e ↔ Overflows f rm n (Z * (2 : ℝ) ^ e) := by
  obtain ⟨hlow, hhigh⟩ := h.scaled_bounds e
  obtain ⟨M, δ, hr, -, hM⟩ := h.rounds_free hf rm n e
  have hle := hr.le_steps
  rw [freeTop]
  rcases lt_trichotomy (e + (m.log2 : Int)) f.bias with hlt | heq | hgt
  · have hX : Z * (2 : ℝ) ^ e < 2 ^ f.bias := by
      rw [← zpow_natCast]
      exact hhigh.trans_le (zpow_le_zpow_right₀ one_le_two (by omega))
    refine iff_of_false ?_ (not_overflows_of_lt hf rm n hX)
    split <;> omega
  · have hE : freeExp f m e = (f.bias : Int) + 1 - f.prec := by rw [freeExp]; omega
    rw [hE] at hr
    rw [overflows_lastBinade hf hr hM]
    split <;> simp_all
  · have hX : (2 : ℝ) ^ (f.bias + 1) ≤ Z * (2 : ℝ) ^ e := by
      rw [← zpow_natCast]
      exact (zpow_le_zpow_right₀ one_le_two (by omega)).trans hlow
    refine iff_of_true ?_ (overflows_of_past hf rm n hX)
    split <;> omega

/-! ## Finite results -/

/-- The quanta of a result that does not overflow are below those of an infinity. -/
theorem Fine.magnitude {f : FloatFmt} {m : Nat} {Z : ℝ} (h : Fine f m Z) (hf : Standard f) (rm : Round) (n : Bool) (e : Int)
    (hov : ¬(f.bias : Int) < freeTop f rm n m e) : Magnitude f (quantaSteps f rm n m e).1 (resultBinade f m e) := by
  obtain ⟨M, δ, hr, -, hnormal, hM⟩ := h.rounds_quanta hf rm n e
  obtain ⟨hle, hge⟩ := hr.le_steps
  have hb := hf.prec_le_bias
  have hp := hf.two_le_prec
  have he := hf.two_pow_ebits
  have htwo := hf.two_pow_prec
  have hpos := Nat.two_pow_pos (f.prec - 1)
  refine ⟨by omega, hnormal.imp_right hle.trans', ?_⟩
  rw [FloatFmt.infMag, he]
  rw [freeTop] at hov
  have hj : resultBinade f m e + 1 ≤ 2 * f.bias := by
    rw [resultBinade, FloatFmt.emin]
    split at hov <;> omega
  rcases Nat.lt_or_eq_of_le hj with hlt | heq
  · calc (quantaSteps f rm n m e).1 + resultBinade f m e * 2 ^ (f.prec - 1)
        ≤ 2 * 2 ^ (f.prec - 1) + resultBinade f m e * 2 ^ (f.prec - 1) := by omega
      _ = (resultBinade f m e + 2) * 2 ^ (f.prec - 1) := by ring
      _ < (2 * (f.bias + 1) - 1) * 2 ^ (f.prec - 1) := Nat.mul_lt_mul_of_pos_right (by omega) hpos
  · have htop : e + (m.log2 : Int) = f.bias := by
      rw [resultBinade, FloatFmt.emin] at heq
      split at hov <;> omega
    have hne : freeSteps f rm n m e ≠ 2 ^ f.prec := fun hfull => hov (by rw [if_pos hfull, htop]; omega)
    rw [← quantaSteps_normal hf rm n (by rw [FloatFmt.emin]; omega)] at hne
    calc (quantaSteps f rm n m e).1 + resultBinade f m e * 2 ^ (f.prec - 1)
        < 2 * 2 ^ (f.prec - 1) + resultBinade f m e * 2 ^ (f.prec - 1) := by omega
      _ = (resultBinade f m e + 2) * 2 ^ (f.prec - 1) := by ring
      _ = (2 * (f.bias + 1) - 1) * 2 ^ (f.prec - 1) := by congr 1; omega

/-- A result below the normal numbers was below them before it was rounded, with the exponent range unbounded too. -/
theorem Fine.freeTop_lt {f : FloatFmt} {m : Nat} {Z : ℝ} (h : Fine f m Z) (hf : Standard f) (rm : Round) (n : Bool) (e : Int)
    (hlt : (quantaSteps f rm n m e).1 * (2 : ℝ) ^ quantumExp f (resultBinade f m e) < 2 ^ f.emin) :
    freeTop f rm n m e < f.emin := by
  obtain ⟨hlow, hhigh⟩ := h.scaled_bounds e
  obtain ⟨M, δ, hr, -, hnormal, -⟩ := h.rounds_quanta hf rm n e
  obtain ⟨M₁, δ₁, hfree, -, hM₁⟩ := h.rounds_free hf rm n e
  have hle := hr.le_steps
  have hp := hf.two_le_prec
  have htwo := hf.two_pow_prec
  have h0 := hr.nonneg
  have h1 := hr.lt_one
  have h10 := hfree.nonneg
  have hemin (j : Nat) : (2 : ℝ) ^ (f.emin + j) = ((2 ^ (f.prec - 1) : Nat) : ℝ) * 2 ^ quantumExp f j := by
    rw [two_pow_mul_zpow, quantumExp]
    congr 1
    ring
  have hpos : (0 : ℝ) < 2 ^ quantumExp f (resultBinade f m e) := zpow_pos two_pos _
  have hfew : (quantaSteps f rm n m e).1 < 2 ^ (f.prec - 1) := by
    have := hemin (resultBinade f m e)
    have hmono : (2 : ℝ) ^ f.emin ≤ 2 ^ (f.emin + resultBinade f m e) := zpow_le_zpow_right₀ one_le_two (by omega)
    exact_mod_cast lt_of_mul_lt_mul_right (hlt.trans_le (hmono.trans_eq this)) hpos.le
  have hj : resultBinade f m e = 0 := hnormal.resolve_right (by omega)
  have htop : e + (m.log2 : Int) < f.emin := by
    have hX : Z * (2 : ℝ) ^ e < 2 ^ f.emin := by
      have hquantum : (2 : ℝ) ^ f.emin = ((2 ^ (f.prec - 1) : Nat) : ℝ) * 2 ^ quantumExp f (resultBinade f m e) := by
        rw [hj, ← hemin, Nat.cast_zero, add_zero]
      rw [hr.eq, hquantum]
      have hM : (M : ℝ) + 1 ≤ ((2 ^ (f.prec - 1) : Nat) : ℝ) := by exact_mod_cast (by omega : M + 1 ≤ 2 ^ (f.prec - 1))
      exact mul_lt_mul_of_pos_right (by linarith) hpos
    exact (zpow_lt_zpow_iff_right₀ one_lt_two).mp (hlow.trans_lt hX)
  rw [freeTop]
  split
  next hfull =>
    rcases hfree.cases with ⟨hρ, hup⟩ | ⟨hρ, -⟩
    · by_contra hge
      have hE : (2 : ℝ) ^ quantumExp f (resultBinade f m e) = 2 * 2 ^ freeExp f m e := by
        rw [hj, ← zpow_one_add₀ two_ne_zero, quantumExp, freeExp]
        congr 1
        omega
      have hhalf : (0 : ℝ) < 2 ^ freeExp f m e := zpow_pos two_pos _
      have heq : ((M : ℝ) + δ) * 2 = M₁ + δ₁ := by
        have := hr.eq.symm.trans hfree.eq
        rw [hE, ← mul_assoc] at this
        exact mul_right_cancel₀ hhalf.ne' this
      have hM₁' : (M₁ : ℝ) = 2 * ((2 ^ (f.prec - 1) : Nat) : ℝ) - 1 := by
        have : M₁ + 1 = 2 * 2 ^ (f.prec - 1) := by omega
        have : (M₁ : ℝ) + 1 = 2 * ((2 ^ (f.prec - 1) : Nat) : ℝ) := by exact_mod_cast this
        linarith
      have hM : M + 1 = 2 ^ (f.prec - 1) := succ_eq_of_lt h1 (by omega) (by linarith)
      have hδ : δ = 1 / 2 + δ₁ / 2 := by
        have : (M : ℝ) + 1 = ((2 ^ (f.prec - 1) : Nat) : ℝ) := by exact_mod_cast hM
        linarith
      have hup' : RoundsUp rm n M δ := by
        cases rm with
        | rne =>
          have : 1 / 2 ≤ δ₁ := by rcases hup with h | ⟨h, -⟩ <;> linarith
          exact .inl (by linarith)
        | rtz => exact hup
        | rdn => exact ⟨hup.1, by linarith⟩
        | rup => exact ⟨hup.1, by linarith⟩
      have := hr.up hup'
      omega
    · omega
  next => omega

/-! ## The result of a rounding -/

section Results

variable {f : FloatFmt} {m : Nat} {Z : ℝ}

theorem overflow_eq (f : FloatFmt) (hf : Standard f) (rm : Round) (n : Bool) : f.overflow rm n =
    (if n then 2 ^ (f.ebits + f.prec - 1) else 0) +
      if rm = .rne ∨ rm = .rdn ∧ n = true ∨ rm = .rup ∧ n = false then greatest f + 1 else greatest f := by
  have hinf : 0 < f.infMag := by
    have := hf.two_pow_ebits
    have := hf.prec_le_bias
    have := hf.two_le_prec
    exact Nat.mul_pos (by omega) (Nat.two_pow_pos _)
  have hg : greatest f = f.infMag - 1 := rfl
  unfold FloatFmt.overflow FloatFmt.signed
  rw [FloatFmt.signBit, hg, Nat.sub_add_cancel hinf]
  cases rm <;> cases n <;> rfl

/-- Rounding to a format, judged on the real that the number stands for (R39). -/
theorem Fine.round_eq (h : Fine f m Z) (hf : Standard f) (md : FpMode) (n : Bool) (e : Int) :
    (Overflows f md.rm n (Z * (2 : ℝ) ^ e) → f.round md (.num n m e) = (f.overflow md.rm n, fOF ||| fNX)) ∧
    (¬Overflows f md.rm n (Z * (2 : ℝ) ^ e) → f.round md (.num n m e) =
      if md.ftz = true ∧ 0 < (quantaSteps f md.rm n m e).1 ∧ (quantaSteps f md.rm n m e).1 < 2 ^ (f.prec - 1) then
        (f.signed n 0, fUF ||| fNX)
      else (f.signed n ((quantaSteps f md.rm n m e).1 + resultBinade f m e * 2 ^ (f.prec - 1)),
        flagIf (quantaSteps f md.rm n m e).2 fNX |||
          flagIf ((quantaSteps f md.rm n m e).2 && decide (freeTop f md.rm n m e < f.emin)) fUF)) := by
  rw [← h.overflows_iff hf, round_num hf md n h.ne_zero e]
  exact ⟨fun hov => if_pos hov, fun hov => if_neg hov⟩

/-- The pattern of the result is the real rounded, and it is inexact as the quanta are. -/
theorem Fine.pattern (h : Fine f m Z) (hf : Standard f) (rm : Round) (n : Bool) (e : Int)
    (hov : ¬Overflows f rm n (Z * (2 : ℝ) ^ e)) :
    let r := f.signed n ((quantaSteps f rm n m e).1 + resultBinade f m e * 2 ^ (f.prec - 1))
    RoundedTo f rm n (signum n * (Z * (2 : ℝ) ^ e)) r ∧
      ((quantaSteps f rm n m e).2 = true ↔ realOf f r ≠ signum n * (Z * (2 : ℝ) ^ e)) := by
  have hmag := h.magnitude hf rm n e (by rwa [h.overflows_iff hf])
  obtain ⟨M, δ, hr, hx, hnormal, -⟩ := h.rounds_quanta hf rm n e
  refine ⟨roundedTo_of_rounds hf hr hnormal (hmag.finite hf n) (hmag.testBit hf n) (Magnitude.parity hf n)
    (hmag.realOf_signed hf n), ?_⟩
  have hsign : signum n ≠ 0 := by rcases signum_cases n with ⟨-, h⟩ | ⟨-, h⟩ <;> norm_num [h]
  rw [hx, hmag.realOf_signed hf n, ne_eq, ne_eq, mul_right_inj' hsign, hr.exact_iff (zpow_pos two_pos _)]

end Results

end Sys2Proof.Machine
end


-- ==== Sys2Proof/Proofs/ExactSources.lean ====
section
/-! SUPPORT. O17: the exact sums and products, and the quotients and roots that stand for the exact ones (R39). -/

namespace Sys2Proof.Machine

open Sys2Proof.Claims

/-! ## A rounding to a format, clause by clause -/

theorem flags_of_rounding (inx tiny : Bool) :
    ((flagIf inx fNX ||| flagIf (inx && tiny) fUF) &&& fNX = fNX ↔ inx = true) ∧
      (flagIf inx fNX ||| flagIf (inx && tiny) fUF) &&& (fOF ||| fDZ ||| fNV) = 0 ∧
      (tiny = false → (flagIf inx fNX ||| flagIf (inx && tiny) fUF) &&& fUF = 0) ∧
      (tiny = true → ((flagIf inx fNX ||| flagIf (inx && tiny) fUF) &&& fUF = fUF ↔ inx = true)) := by
  revert inx tiny
  decide

/-- A rounding without overflow (R39), for the number `m * 2^e` or the real that it stands for. -/
theorem Fine.rounded {f : FloatFmt} {m : Nat} {Z : ℝ} (h : Fine f m Z) (hf : Standard f) (md : FpMode) (hftz : md.ftz = false)
    (n : Bool) (e : Int) {x : ℝ} (hx : x = signum n * (Z * (2 : ℝ) ^ e)) (hov : ¬Overflows f md.rm n |x|) :
    let r := f.round md (.num n m e)
    RoundedTo f md.rm n x r.1 ∧ (r.2 &&& fNX = fNX ↔ realOf f r.1 ≠ x) ∧ r.2 &&& (fOF ||| fDZ ||| fNV) = 0 ∧
      ((2 : ℝ) ^ f.emin ≤ |x| → r.2 &&& fUF = 0) ∧
      (|realOf f r.1| < (2 : ℝ) ^ f.emin → (r.2 &&& fUF = fUF ↔ realOf f r.1 ≠ x)) := by
  obtain ⟨hlow, hhigh⟩ := h.scaled_bounds e
  have habs : |x| = Z * (2 : ℝ) ^ e := by
    rw [hx, abs_signum_mul _ ((zpow_pos two_pos _).le.trans hlow)]
  rw [habs] at hov ⊢
  obtain ⟨hround, hexact⟩ := h.pattern hf md.rm n e hov
  have hmag := h.magnitude hf md.rm n e (by rwa [h.overflows_iff hf])
  intro r
  have hr : r = _ := (h.round_eq hf md n e).2 hov
  rw [if_neg (by simp [hftz])] at hr
  rw [← hx] at hround hexact
  obtain ⟨hnx, hnone, hnot, htiny⟩ :=
    flags_of_rounding (quantaSteps f md.rm n m e).2 (decide (freeTop f md.rm n m e < f.emin))
  rw [hr]
  refine ⟨hround, hnx.trans hexact, hnone, fun hge => hnot ?_, fun hlt => (htiny ?_).trans hexact⟩
  · have : f.emin < e + m.log2 + 1 := (zpow_lt_zpow_iff_right₀ one_lt_two).mp (hge.trans_lt hhigh)
    rw [decide_eq_false_iff_not, freeTop]
    split <;> omega
  · rw [hmag.realOf_signed hf, abs_signum_mul _ (by positivity)] at hlt
    exact decide_eq_true (h.freeTop_lt hf md.rm n e hlt)

/-- Flushing is judged on the magnitude bits of the result without it (R39). -/
theorem Fine.flushed {f : FloatFmt} {m : Nat} {Z : ℝ} (h : Fine f m Z) (hf : Standard f) (md : FpMode) (n : Bool) (e : Int)
    (hov : ¬Overflows f md.rm n (Z * (2 : ℝ) ^ e)) :
    let r₀ := f.round ⟨md.rm, false⟩ (.num n m e)
    f.round md (.num n m e) = if md.ftz = true ∧ 0 < r₀.1 % 2 ^ (f.ebits + f.prec - 1) ∧
      r₀.1 % 2 ^ (f.ebits + f.prec - 1) < 2 ^ (f.prec - 1) then (f.signed n 0, fUF ||| fNX) else r₀ := by
  have hmag := h.magnitude hf md.rm n e (by rwa [h.overflows_iff hf])
  intro r₀
  have hr₀ : r₀ = _ := (h.round_eq hf ⟨md.rm, false⟩ n e).2 hov
  rw [if_neg (by simp)] at hr₀
  rw [(h.round_eq hf md n e).2 hov, hr₀]
  dsimp only
  rw [hmag.signed_mod hf n]
  refine if_congr (and_congr_right fun _ => ?_) rfl rfl
  have hnormal := hmag.normal
  generalize (quantaSteps f md.rm n m e).1 = q at *
  generalize resultBinade f m e = j at *
  rcases Nat.eq_zero_or_pos j with rfl | hj
  · rw [Nat.zero_mul, Nat.add_zero]
  · have hq := hnormal.resolve_left hj.ne'
    exact iff_of_false (by omega) (by have := Nat.le_add_right q (j * 2 ^ (f.prec - 1)); omega)

/-! ## Sums and products -/

/-- A signed mantissa at a lesser scale is the same number. -/
theorem signedAt_amount (n : Bool) (m : Nat) {e e₀ : Int} (h : e₀ ≤ e) :
    (signedAt n m e e₀ : ℝ) * (2 : ℝ) ^ e₀ = amount (.num n m e) := by
  have hpow : (2 : ℝ) ^ e = 2 ^ (e - e₀).toNat * (2 : ℝ) ^ e₀ := by
    rw [← zpow_natCast, Int.toNat_of_nonneg (by omega), ← zpow_add₀ two_ne_zero, sub_add_cancel]
  rw [amount_num, signedAt, hpow]
  rcases signum_cases n with ⟨rfl, h⟩ | ⟨rfl, h⟩ <;> simp [h, mul_assoc]

/-- The mantissa is the number that the value is, and a zero has the sign given. -/
theorem ofScaled_num (z : Int) (e : Int) (zneg : Bool) : ∃ k p d, Val.ofScaled z e zneg = .num k p d ∧
    amount (.num k p d) = z * (2 : ℝ) ^ e ∧ (p = 0 → k = zneg) ∧ (z ≠ 0 → p ≠ 0) := by
  rw [Val.ofScaled]
  split
  next hz => exact ⟨zneg, 0, 0, rfl, by simp [hz, amount], fun _ => rfl, fun h => absurd hz h⟩
  next hz =>
    refine ⟨_, _, _, rfl, ?_, fun h => absurd (Int.natAbs_eq_zero.mp h) hz, fun _ => Int.natAbs_ne_zero.mpr hz⟩
    rw [amount_num, ← mul_assoc]
    congr 1
    rcases lt_or_ge z 0 with hneg | hpos
    · have : ((z.natAbs : Int) : ℝ) = -z := by rw [← Int.cast_neg]; congr 1; omega
      rw [← Int.cast_natCast, this]
      simp [signum, hneg]
    · have : ((z.natAbs : Int) : ℝ) = z := by congr 1; omega
      rw [← Int.cast_natCast, this]
      simp [signum, hpos]

/-- A sum of finite numbers is exact; the sign of a zero is that of R39. -/
theorem add_exact (rm : Round) (n n' : Bool) (m m' : Nat) (e e' : Int) :
    ∃ k p d, Val.add rm (.num n m e) (.num n' m' e') = (.num k p d, 0) ∧
      amount (.num k p d) = amount (.num n m e) + amount (.num n' m' e') ∧
      (p = 0 → k = if m = 0 ∧ m' = 0 ∧ n = n' then n else decide (rm = .rdn)) := by
  rw [Val.add]
  split
  next hz =>
    obtain ⟨rfl, rfl⟩ := hz
    refine ⟨_, _, _, rfl, by simp [amount], fun _ => ?_⟩
    simp
  next hz =>
    obtain ⟨k, p, d, heq, hval, hzero, -⟩ := ofScaled_num
      (signedAt n m e (min e e') + signedAt n' m' e' (min e e')) (min e e') (decide (rm = .rdn))
    refine ⟨k, p, d, Prod.ext heq rfl, ?_, fun hp => ?_⟩
    · rw [hval, Int.cast_add, add_mul, signedAt_amount n m (min_le_left _ _), signedAt_amount n' m' (min_le_right _ _)]
    · rw [hzero hp, if_neg fun h => hz ⟨h.1, h.2.1⟩]

theorem signum_xor (n n' : Bool) : signum (n != n') = signum n * signum n' := by
  cases n <;> cases n' <;> simp [signum]

/-- A product of finite numbers is exact. -/
theorem mul_exact (n n' : Bool) (m m' : Nat) (e e' : Int) :
    amount (.num (n != n') (m * m') (e + e')) = amount (.num n m e) * amount (.num n' m' e') := by
  rw [amount_num, amount_num, amount_num, signum_xor, zpow_add₀ two_ne_zero]
  push_cast
  ring

/-! ## Quotients and roots -/

/-- A number with a last bit for what is left stands for the real. -/
theorem standsFor_sticky {Q : Nat} {Z : ℝ} {exact : Prop} [Decidable exact] (hlow : 2 * (Q : ℝ) ≤ Z)
    (hhigh : Z < 2 * (Q + 1)) (hexact : exact ↔ Z = 2 * Q) : StandsFor (2 * Q + if exact then 0 else 1) Z := by
  split
  next h => exact .inl (by rw [hexact.mp h]; push_cast; ring)
  next h =>
    have hlt : 2 * (Q : ℝ) < Z := lt_of_le_of_ne hlow fun heq => h (hexact.mpr heq.symm)
    refine .inr ⟨by omega, ?_, ?_⟩ <;> push_cast <;> linarith

/-- The quotient computed stands for the exact one, finely. -/
theorem quotient_fine {f : FloatFmt} (hf : Standard f) {a b : Nat} (ha : a ≠ 0) (hb : b ≠ 0) :
    Fine f (quotient a b).1 (2 * ((a * 2 ^ (96 + b.log2 - a.log2) : Nat) : ℝ) / b) ∧
      2 * ((a * 2 ^ (96 + b.log2 - a.log2) : Nat) : ℝ) / b * (2 : ℝ) ^ (quotient a b).2 = a / b := by
  have hbpos : (0 : ℝ) < b := by exact_mod_cast Nat.pos_of_ne_zero hb
  have hp := hf.prec_le
  have hsize : b * 2 ^ 95 ≤ a * 2 ^ (96 + b.log2 - a.log2) := by
    have h1 : b < 2 ^ (b.log2 + 1) := Nat.lt_log2_self
    have h2 : 2 ^ a.log2 ≤ a := Nat.log2_self_le ha
    calc b * 2 ^ 95 ≤ 2 ^ (b.log2 + 1) * 2 ^ 95 := Nat.mul_le_mul_right _ h1.le
      _ = 2 ^ (b.log2 + 96) := by rw [← pow_add]
      _ ≤ 2 ^ (a.log2 + (96 + b.log2 - a.log2)) := Nat.pow_le_pow_right two_pos (by omega)
      _ = 2 ^ a.log2 * 2 ^ (96 + b.log2 - a.log2) := pow_add _ _ _
      _ ≤ a * 2 ^ (96 + b.log2 - a.log2) := Nat.mul_le_mul_right _ h2
  rw [quotient]
  dsimp only
  constructor
  · generalize a * 2 ^ (96 + b.log2 - a.log2) = N at *
    have hdiv : 2 ^ 95 ≤ N / b := (Nat.le_div_iff_mul_le (Nat.pos_of_ne_zero hb)).mpr (by rwa [Nat.mul_comm])
    have hpow : 2 ^ (f.prec + 2) ≤ 2 ^ 95 := Nat.pow_le_pow_right two_pos (by omega)
    refine ⟨by omega, standsFor_sticky ?_ ?_ ?_, .inr (by omega)⟩
    · rw [le_div_iff₀ hbpos, mul_assoc]
      have : N / b * b ≤ N := Nat.div_mul_le_self N b
      have : ((N / b : Nat) : ℝ) * b ≤ N := by exact_mod_cast this
      linarith
    · rw [div_lt_iff₀ hbpos, mul_assoc]
      have : N < (N / b + 1) * b := by rw [Nat.mul_comm]; exact Nat.lt_mul_div_succ N (Nat.pos_of_ne_zero hb)
      have : (N : ℝ) < ((N / b : Nat) + 1) * b := by exact_mod_cast this
      linarith
    · rw [div_eq_iff hbpos.ne', mul_assoc, mul_right_inj' (two_ne_zero (α := ℝ)),
        ← Nat.cast_mul, Nat.cast_inj, ← Nat.dvd_iff_mod_eq_zero]
      exact ⟨fun h => (Nat.div_mul_cancel h).symm, fun h => ⟨N / b, by rw [Nat.mul_comm]; exact h⟩⟩
  · have hcancel : (2 : ℝ) * 2 ^ (96 + b.log2 - a.log2) * 2 ^ (-(((96 + b.log2 - a.log2 : Nat) : Int) + 1)) = 1 := by
      rw [zpow_neg, zpow_add_one₀ two_ne_zero, zpow_natCast, mul_comm (2 : ℝ)]
      exact mul_inv_cancel₀ (by positivity)
    calc 2 * ((a * 2 ^ (96 + b.log2 - a.log2) : Nat) : ℝ) / b * 2 ^ (-(((96 + b.log2 - a.log2 : Nat) : Int) + 1))
        = a / b * (2 * 2 ^ (96 + b.log2 - a.log2) * 2 ^ (-(((96 + b.log2 - a.log2 : Nat) : Int) + 1))) := by
          push_cast
          ring
      _ = a / b := by rw [hcancel, mul_one]

/-- The bits found so far keep the root between them and the bits that are left. -/
theorem isqrtFrom_spec (n : Nat) : ∀ (k r : Nat), r * r ≤ n → n < (r + 2 ^ k) * (r + 2 ^ k) →
    isqrtFrom n k r * isqrtFrom n k r ≤ n ∧ n < (isqrtFrom n k r + 1) * (isqrtFrom n k r + 1)
  | 0, r, hle, hlt => ⟨hle, hlt⟩
  | k + 1, r, hle, hlt => by
    rw [isqrtFrom]
    split
    next ht =>
      refine isqrtFrom_spec n k _ ht ?_
      rwa [add_assoc, ← Nat.two_mul, ← pow_succ']
    next ht => exact isqrtFrom_spec n k r hle (not_le.mp ht)

theorem isqrt_spec (n : Nat) : isqrt n * isqrt n ≤ n ∧ n < (isqrt n + 1) * (isqrt n + 1) := by
  refine isqrtFrom_spec n _ 0 (Nat.zero_le _) ?_
  rw [Nat.zero_add, ← pow_add]
  exact Nat.lt_log2_self.trans_le (Nat.pow_le_pow_right two_pos (by omega))

/-- The root computed stands for the exact one, finely. -/
theorem rootOf_fine {f : FloatFmt} (hf : Standard f) {m : Nat} (hm : m ≠ 0) (e : Int) :
    ∃ Z : ℝ, Fine f (rootOf m e).1 Z ∧ Z * (2 : ℝ) ^ (rootOf m e).2 = Real.sqrt (m * (2 : ℝ) ^ e) := by
  have hp := hf.prec_le
  rw [rootOf]
  generalize hk : 192 + (e % 2).toNat = k
  have hbig : 2 ^ 192 ≤ m * 2 ^ k :=
    (Nat.pow_le_pow_right two_pos (by omega)).trans (Nat.le_mul_of_pos_left _ (Nat.pos_of_ne_zero hm))
  have hscale : (m : ℝ) * 2 ^ e = ((m * 2 ^ k : Nat) : ℝ) * (2 ^ ((e - k) / 2)) ^ 2 := by
    have : e = k + ((e - k) / 2 + (e - k) / 2) := by omega
    conv_lhs => rw [this]
    rw [zpow_add₀ two_ne_zero, zpow_natCast, zpow_add₀ two_ne_zero]
    push_cast
    ring
  generalize m * 2 ^ k = N at *
  obtain ⟨hlow, hhigh⟩ := isqrt_spec N
  generalize isqrt N = r at *
  have hlow' : (r : ℝ) ≤ Real.sqrt N := Real.le_sqrt_of_sq_le (by rw [sq]; exact_mod_cast hlow)
  have hhigh' : Real.sqrt N < r + 1 := (Real.sqrt_lt' (by positivity)).mpr (by rw [sq]; exact_mod_cast hhigh)
  have hr : 2 ^ 95 ≤ r := by
    by_contra hlt
    have : (r + 1) * (r + 1) ≤ 2 ^ 95 * 2 ^ 95 := Nat.mul_le_mul (by omega) (by omega)
    rw [← pow_add] at this
    have : 2 ^ (95 + 95) ≤ 2 ^ 192 := Nat.pow_le_pow_right two_pos (by omega)
    omega
  have hpow : 2 ^ (f.prec + 2) ≤ 2 ^ 95 := Nat.pow_le_pow_right two_pos (by omega)
  refine ⟨2 * Real.sqrt N, ⟨by omega, standsFor_sticky (by linarith) (by linarith) ?_, .inr (by omega)⟩, ?_⟩
  · rw [mul_right_inj' (two_ne_zero (α := ℝ)), Real.sqrt_eq_iff_mul_self_eq (by positivity) (by positivity)]
    exact ⟨fun h => by exact_mod_cast h.symm, fun h => by exact_mod_cast h.symm⟩
  · rw [hscale, Real.sqrt_mul (by positivity), Real.sqrt_sq (by positivity), zpow_sub_one₀ two_ne_zero]
    ring

end Sys2Proof.Machine
end


-- ==== Sys2Proof/Proofs/QuantisedBlocks.lean ====
section
/-! SUPPORT. O17: a value made a whole number (R46, R48), and a block quantised at its scale (R45). -/

namespace Sys2Proof.Machine

open Sys2Proof.Claims

/-! ## Whole numbers -/

/-- A number of whole steps with its sign is the real rounded. -/
theorem Rounds.roundedInt {rm : Round} {n : Bool} {X δ : ℝ} {M ρ : Nat} (h : Rounds rm n X 1 M ρ δ) :
    RoundedInt rm (signum n * X) (if n then -(ρ : Int) else ρ) := by
  have h0 := h.nonneg
  have h1 := h.lt_one
  have heq : X = M + δ := by rw [h.eq, mul_one]
  have hz : (((if n then -(ρ : Int) else ρ) : Int) : ℝ) = signum n * ρ := by cases n <;> simp [signum]
  have hX : 0 ≤ X := by rw [heq]; positivity
  have hdist : |signum n * X - signum n * ρ| = |X - ρ| := by
    rw [← mul_sub, abs_mul]
    rcases signum_cases n with ⟨-, h⟩ | ⟨-, h⟩ <;> simp [h]
  cases rm with
  | rne =>
    rw [RoundedInt, hz, hdist, heq]
    rcases h.cases with ⟨rfl, hup⟩ | ⟨rfl, hup⟩
    · have hhalf : 1 / 2 ≤ δ := by rcases hup with h | ⟨h, -⟩ <;> linarith
      have habs : |(M : ℝ) + δ - (M + 1 : Nat)| = 1 - δ := by
        rw [abs_of_nonpos (by push_cast; linarith)]
        push_cast
        ring
      rw [habs]
      refine ⟨by linarith, fun htie => ?_⟩
      have hodd : M % 2 = 1 := by
        rcases hup with h | ⟨-, h⟩
        · linarith
        · exact h
      cases n <;> simp only [if_true, if_false, Bool.false_eq_true, Int.even_iff] <;> omega
    · have hhalf : δ ≤ 1 / 2 := not_lt.mp fun hlt => hup (.inl hlt)
      have habs : |(ρ : ℝ) + δ - ρ| = δ := by rw [add_sub_cancel_left, abs_of_nonneg h0]
      rw [habs]
      refine ⟨hhalf, fun htie => ?_⟩
      have heven : ρ % 2 ≠ 1 := fun h => hup (.inr ⟨htie, h⟩)
      cases n <;> simp only [if_true, if_false, Bool.false_eq_true, Int.even_iff] <;> omega
  | rtz =>
    rw [RoundedInt, hz, hdist, heq, h.down fun h => h, abs_signum_mul _ (by positivity), abs_signum_mul _ (by positivity),
      add_sub_cancel_left, abs_of_nonneg h0]
    refine ⟨by linarith, h1, ?_⟩
    have : 0 ≤ ((M : ℝ) + δ) * M := by positivity
    rcases signum_cases n with ⟨-, h⟩ | ⟨-, h⟩ <;> rw [h] <;> linarith
  | rdn =>
    rw [RoundedInt, eq_comm, Int.floor_eq_iff, hz, heq]
    rcases signum_cases n with ⟨hn, hs⟩ | ⟨hn, hs⟩
    · rw [hs]
      rcases h.cases with ⟨rfl, hup⟩ | ⟨rfl, hup⟩
      · have := lt_of_le_of_ne h0 (Ne.symm hup.2)
        push_cast
        constructor <;> linarith
      · obtain rfl : δ = 0 := by_contra fun hne => hup ⟨hn, hne⟩
        constructor <;> linarith
    · rw [hs, h.down fun hup => by rw [hn] at hup; exact absurd hup.1 (by decide)]
      constructor <;> linarith
  | rup =>
    rw [RoundedInt, eq_comm, Int.ceil_eq_iff, hz, heq]
    rcases signum_cases n with ⟨hn, hs⟩ | ⟨hn, hs⟩
    · rw [hs, h.down fun hup => by rw [hn] at hup; exact absurd hup.1 (by decide)]
      constructor <;> linarith
    · rw [hs]
      rcases h.cases with ⟨rfl, hup⟩ | ⟨rfl, hup⟩
      · have := lt_of_le_of_ne h0 (Ne.symm hup.2)
        push_cast
        constructor <;> linarith
      · obtain rfl : δ = 0 := by_contra fun hne => hup ⟨hn, hne⟩
        constructor <;> linarith

theorem roundInt_eq (rm : Round) (n : Bool) (m : Nat) (e : Int) : roundInt rm n m e =
    (if n then -((inSteps rm n m e 0).1 : Int) else (inSteps rm n m e 0).1, (inSteps rm n m e 0).2) := by
  rw [roundInt, inSteps, sub_zero, zero_sub]
  split <;> rfl

/-- A value rounded to a whole number, and whether it was one. -/
theorem roundInt_spec (rm : Round) (n : Bool) (m : Nat) (e : Int) :
    RoundedInt rm (amount (.num n m e)) (roundInt rm n m e).1 ∧
      ((roundInt rm n m e).2 = true ↔ ((roundInt rm n m e).1 : ℝ) ≠ amount (.num n m e)) := by
  obtain ⟨M, δ, hr, hx⟩ := rounds_inSteps rm n (.inl rfl : StandsFor m m) (e := e) (E := 0) (.inl rfl)
  rw [zpow_zero] at hr
  have hexact := hr.exact_iff one_pos
  have hz : (((if n then -((inSteps rm n m e 0).1 : Int) else (inSteps rm n m e 0).1) : Int) : ℝ) =
      signum n * (inSteps rm n m e 0).1 := by cases n <;> simp [signum]
  have hsign : signum n ≠ 0 := by rcases signum_cases n with ⟨-, h⟩ | ⟨-, h⟩ <;> norm_num [h]
  rw [roundInt_eq, amount_num]
  refine ⟨hr.roundedInt, ?_⟩
  rw [hx, hz, ne_eq, ne_eq, mul_right_inj' hsign, ← hexact, mul_one]

/-- Two whole numbers that a real rounds to are the same. -/
theorem roundedInt_unique {x : ℝ} {y z : Int} (hy : RoundedInt .rne x y) (hz : RoundedInt .rne x z) : y = z := by
  obtain ⟨hy, hy'⟩ := hy
  obtain ⟨hz, hz'⟩ := hz
  rw [abs_le] at hy hz
  have h1 : y ≤ z + 1 := by exact_mod_cast (by push_cast; linarith : (y : ℝ) ≤ ((z + 1 : Int) : ℝ))
  have h2 : z ≤ y + 1 := by exact_mod_cast (by push_cast; linarith : (z : ℝ) ≤ ((y + 1 : Int) : ℝ))
  by_contra hne
  have hcases : y = z + 1 ∨ z = y + 1 := by omega
  have htie : |x - y| = 1 / 2 ∧ |x - z| = 1 / 2 := by
    rcases hcases with h | h
    · have hc : (y : ℝ) = z + 1 := by rw [h]; push_cast; rfl
      exact ⟨by rw [abs_of_nonpos] <;> linarith, by rw [abs_of_nonneg] <;> linarith⟩
    · have hc : (z : ℝ) = y + 1 := by rw [h]; push_cast; rfl
      exact ⟨by rw [abs_of_nonneg] <;> linarith, by rw [abs_of_nonpos] <;> linarith⟩
  have h3 := Int.even_iff.mp (hy' htie.1)
  have h4 := Int.even_iff.mp (hz' htie.2)
  omega

/-! ## The scale of a block (R45) -/

/-- The real that enters the search of R45. -/
noncomputable def sourceReal (x : Bool × Nat × Int) : ℝ := amount (.num x.1 x.2.1 x.2.2)

theorem amount_neg_iff (n : Bool) (m : Nat) (e : Int) : amount (.num n m e) < 0 ↔ n = true ∧ m ≠ 0 := by
  have hpow : (0 : ℝ) < 2 ^ e := zpow_pos two_pos e
  rw [amount_num]
  rcases signum_cases n with ⟨rfl, h⟩ | ⟨rfl, h⟩ <;> rw [h]
  · rw [neg_one_mul, neg_lt_zero, mul_pos_iff_of_pos_right hpow, Nat.cast_pos, Nat.pos_iff_ne_zero]
    simp
  · simp only [one_mul, Bool.false_eq_true, false_and, iff_false, not_lt]
    positivity

/-- What enters the search is the source of R45, with the mark and the flags of its replacement. -/
theorem quantSource_spec (signed : Bool) (v : Val) :
    sourceReal (quantSource signed v).1 = sourceOf signed v ∧ ((quantSource signed v).2.2 = true ↔ NotFinite v) ∧
      ∃ below : Bool, (below = true ↔ signed = false ∧ amount v < 0) ∧
        (quantSource signed v).2.1 = (flagIf (quantSource signed v).2.2 fNV ||| flagIf below fNX) := by
  cases v with
  | nan s => exact ⟨by simp [quantSource, sourceReal, sourceOf, amount], by simp [quantSource, NotFinite, Val.isNan],
      false, by simp [amount], BitVec.or_zero.symm⟩
  | inf n => exact ⟨by simp [quantSource, sourceReal, sourceOf, amount], by simp [quantSource, NotFinite],
      false, by simp [amount], BitVec.or_zero.symm⟩
  | num n m e =>
    have hfin : ¬NotFinite (.num n m e) := by simp [NotFinite, Val.isNan]
    simp only [quantSource, sourceOf, amount_neg_iff]
    split
    next hneg =>
      simp only [Bool.and_eq_true, Bool.not_eq_true', decide_eq_true_eq] at hneg
      obtain ⟨⟨hs, hn⟩, hm⟩ := hneg
      rw [if_pos ⟨hs, hn, hm⟩]
      exact ⟨by simp [sourceReal, amount], by simp [hfin], true, by simp [hs, hn, hm], rfl⟩
    next hpos =>
      simp only [Bool.and_eq_true, Bool.not_eq_true', decide_eq_true_eq] at hpos
      have hnot : ¬(signed = false ∧ n = true ∧ m ≠ 0) := fun h => hpos ⟨⟨h.1, h.2.1⟩, h.2.2⟩
      rw [if_neg hnot]
      exact ⟨rfl, by simp [hfin], false, by simp only [Bool.false_eq_true, false_iff]; exact hnot,
        BitVec.or_zero.symm⟩

theorem stepsOf_spec (x : Bool × Nat × Int) (e : Int) :
    RoundedInt .rne (sourceReal x * (2 : ℝ) ^ (-e)) (stepsOf x e).1 ∧
      ((stepsOf x e).2 = true ↔ ((stepsOf x e).1 : ℝ) * (2 : ℝ) ^ e ≠ sourceReal x) := by
  obtain ⟨n, m, d⟩ := x
  have hscale : amount (.num n m (d - e)) = sourceReal (n, m, d) * (2 : ℝ) ^ (-e) := by
    rw [sourceReal, amount_num, amount_num, sub_eq_add_neg, zpow_add₀ two_ne_zero]
    ring
  obtain ⟨hround, hexact⟩ := roundInt_spec .rne n m (d - e)
  rw [hscale] at hround hexact
  refine ⟨hround, hexact.trans (not_congr ?_)⟩
  rw [zpow_neg, ← div_eq_mul_inv, eq_div_iff (zpow_pos two_pos e).ne']
  rfl

theorem allFit_iff (lo hi e : Int) (xs : List (Bool × Nat × Int)) :
    allFit lo hi e xs = true ↔ ∀ x ∈ xs, lo ≤ (stepsOf x e).1 ∧ (stepsOf x e).1 ≤ hi := by
  simp [allFit]

theorem fitsAt_iff (signed : Bool) (lo hi e : Int) (xs : List (Val × Bool)) :
    FitsAt signed lo hi e xs ↔ allFit lo hi e (xs.map fun x => (quantSource signed x.1).1) = true := by
  rw [allFit_iff, List.forall_mem_map]
  refine forall₂_congr fun x _ => ?_
  have hround := (stepsOf_spec (quantSource signed x.1).1 e).1
  rw [(quantSource_spec signed x.1).1] at hround
  exact ⟨fun h => h _ hround, fun h z hz => by rwa [roundedInt_unique hz hround]⟩

/-- The search stops at the least scale that fits, and at 511 at the latest. -/
theorem findScale_spec (lo hi : Int) (xs : List (Bool × Nat × Int)) : ∀ (k : Nat) (e : Int), e ≤ 511 → 511 ≤ e + k →
    e ≤ findScale lo hi xs k e ∧ findScale lo hi xs k e ≤ 511 ∧
      (∀ d, e ≤ d → d < findScale lo hi xs k e → ¬allFit lo hi d xs = true) ∧
      (findScale lo hi xs k e < 511 → allFit lo hi (findScale lo hi xs k e) xs = true)
  | 0, e, h, hk => by
    rw [findScale]
    exact ⟨le_rfl, h, fun d h1 h2 => by omega, fun h => by omega⟩
  | k + 1, e, h, hk => by
    rw [findScale]
    split
    next hgo =>
      rw [Bool.and_eq_true, decide_eq_true_eq, Bool.not_eq_true'] at hgo
      obtain ⟨hle, hmax, hleast, hfit⟩ := findScale_spec lo hi xs k (e + 1) (by omega) (by push_cast at hk; omega)
      refine ⟨by omega, hmax, fun d h1 h2 => ?_, hfit⟩
      rcases eq_or_lt_of_le h1 with rfl | hlt
      · simp [hgo.2]
      · exact hleast d hlt h2
    next hstop =>
      refine ⟨le_rfl, h, fun d h1 h2 => by omega, fun h => ?_⟩
      simpa [h] using hstop

/-- The floor comes from a value of the block, where it is not the least scale. -/
theorem scaleFloor_spec (w : Nat) (xs : List (Bool × Nat × Int)) : -512 ≤ scaleFloor w xs ∧ scaleFloor w xs ≤ 511 ∧
    ∀ e, -512 ≤ e → e < scaleFloor w xs → ∃ x ∈ xs, x.2.1 ≠ 0 ∧ e < x.2.2 + x.2.1.log2 - w - 1 := by
  rw [scaleFloor]
  generalize hstart : (-512 : Int) = a
  have ha : a ≤ 511 := by omega
  clear hstart
  induction xs generalizing a with
  | nil => exact ⟨le_rfl, ha, fun e h1 h2 => absurd h1 (not_le.mpr h2)⟩
  | cons x xs ih =>
    rw [List.foldl_cons]
    split
    next h0 =>
      obtain ⟨hle, hmax, hmem⟩ := ih a ha
      exact ⟨hle, hmax, fun e h1 h2 => (hmem e h1 h2).imp fun y hy => ⟨List.mem_cons_of_mem _ hy.1, hy.2⟩⟩
    next h0 =>
      obtain ⟨hle, hmax, hmem⟩ := ih (max a (min 511 (x.2.2 + x.2.1.log2 - w - 1))) (by omega)
      refine ⟨by omega, hmax, fun e h1 h2 => ?_⟩
      rcases lt_or_ge e (max a (min 511 (x.2.2 + x.2.1.log2 - w - 1))) with hlt | hge
      · exact ⟨x, List.mem_cons_self, h0, by omega⟩
      · exact (hmem e hge h2).imp fun y hy => ⟨List.mem_cons_of_mem _ hy.1, hy.2⟩

/-- A magnitude of `w + 2` bits or more in steps of the scale does not fit `w` bits. -/
theorem steps_beyond {w : Nat} {x : Bool × Nat × Int} {e lo hi : Int} (hm : x.2.1 ≠ 0) (he : e < x.2.2 + x.2.1.log2 - w - 1)
    (hlo : -2 ^ w ≤ lo) (hhi : hi < 2 ^ w) : ¬(lo ≤ (stepsOf x e).1 ∧ (stepsOf x e).1 ≤ hi) := by
  rintro ⟨h1, h2⟩
  obtain ⟨hnear, -⟩ := (stepsOf_spec x e).1
  obtain ⟨n, m, d⟩ := x
  have hbig : (2 : ℝ) ^ w * 2 ≤ |sourceReal (n, m, d) * 2 ^ (-e)| := by
    rw [sourceReal, amount_num, mul_assoc, abs_signum_mul _ (by positivity), mul_assoc, ← zpow_add₀ two_ne_zero]
    have hlog : ((2 : ℝ) ^ m.log2) ≤ m := by exact_mod_cast Nat.log2_self_le hm
    calc (2 : ℝ) ^ w * 2 = 2 ^ ((w : Int) + 1) := by rw [zpow_add_one₀ two_ne_zero, zpow_natCast]
      _ ≤ 2 ^ ((m.log2 : Int) + (d + -e)) := zpow_le_zpow_right₀ one_le_two (by dsimp only at he; omega)
      _ = 2 ^ m.log2 * 2 ^ (d + -e) := by rw [zpow_add₀ two_ne_zero, zpow_natCast]
      _ ≤ m * 2 ^ (d + -e) := mul_le_mul_of_nonneg_right hlog (zpow_pos two_pos _).le
  have hone : (1 : ℝ) ≤ 2 ^ w := one_le_pow₀ one_le_two
  have hz : |((stepsOf (n, m, d) e).1 : ℝ)| ≤ 2 ^ w := by
    rw [abs_le]
    constructor
    · exact_mod_cast hlo.trans h1
    · exact_mod_cast h2.trans hhi.le
  have := abs_sub_abs_le_abs_sub (sourceReal (n, m, d) * 2 ^ (-e)) ((stepsOf (n, m, d) e).1 : ℝ)
  linarith

/-! ## The elements of a block (R45) -/

/-- A value in steps of the scale, saturated to the mantissas, with the flags that it raises where it is active. -/
def mantissaOf (signed : Bool) (lo hi e : Int) (v : Val) : Int × Flags :=
  let z := stepsOf (quantSource signed v).1 e
  let c := if hi < z.1 then hi else if z.1 < lo then lo else z.1
  (c, (quantSource signed v).2.1 ||| flagIf (decide (c ≠ z.1)) (fOF ||| fNX) ||| flagIf z.2 fNX)

/-- The scale of a block. -/
def blockScale (signed : Bool) (w : Nat) (xs : List (Val × Bool)) : Int :=
  let fin := xs.map fun x => (quantSource signed x.1).1
  findScale (mantRange signed w).1 (mantRange signed w).2 fin 1024 (scaleFloor w fin)

theorem quantiseBlock_eq (signed : Bool) (w : Nat) (xs : List (Val × Bool)) : quantiseBlock signed w xs =
    (⟨blockScale signed w xs, xs.any fun x => (quantSource signed x.1).2.2,
        xs.map fun x => (mantissaOf signed (mantRange signed w).1 (mantRange signed w).2 (blockScale signed w xs) x.1).1⟩,
      allFlags (xs.map fun x => if x.2 then
        (mantissaOf signed (mantRange signed w).1 (mantRange signed w).2 (blockScale signed w xs) x.1).2 else 0)) := by
  simp only [quantiseBlock, blockScale, List.map_map, List.any_map]
  refine Prod.ext rfl ?_
  dsimp only
  rw [foldl_flags, List.map_map]
  exact BitVec.zero_or

theorem flags_of_mantissa (bad below sat inx : Bool) :
    let fl := (flagIf bad fNV ||| flagIf below fNX) ||| flagIf sat (fOF ||| fNX) ||| flagIf inx fNX
    (fl &&& fNV = fNV ↔ bad = true) ∧ (fl &&& fOF = fOF ↔ sat = true) ∧
      (fl &&& fNX = fNX ↔ below = true ∨ sat = true ∨ inx = true) ∧ fl &&& (fDZ ||| fUF) = 0 := by
  revert bad below sat inx
  decide

theorem clamp_eq {lo hi : Int} (h : lo ≤ hi) (z : Int) :
    (if hi < z then hi else if z < lo then lo else z) = max lo (min hi z) := by
  split
  · omega
  · split <;> omega

/-- A mantissa is the source rounded to the scale and saturated; its flags say what was lost. -/
theorem mantissaOf_spec (signed : Bool) {lo hi : Int} (h : lo ≤ hi) (e : Int) (v : Val) :
    let step (z : Int) : Prop := RoundedInt .rne (sourceOf signed v * (2 : ℝ) ^ (-e)) z
    let p := mantissaOf signed lo hi e v
    (∃ z, step z ∧ p.1 = max lo (min hi z)) ∧ (p.2 &&& fNV = fNV ↔ NotFinite v) ∧
      (p.2 &&& fOF = fOF ↔ ∃ z, step z ∧ (z < lo ∨ hi < z)) ∧
      (p.2 &&& fNX = fNX ↔ (signed = false ∧ amount v < 0) ∨
        ∃ z, step z ∧ ((max lo (min hi z) : Int) : ℝ) * (2 : ℝ) ^ e ≠ sourceOf signed v) ∧
      p.2 &&& (fDZ ||| fUF) = 0 := by
  obtain ⟨hsource, hbad, below, hbelow, hflags⟩ := quantSource_spec signed v
  obtain ⟨hround, hinexact⟩ := stepsOf_spec (quantSource signed v).1 e
  rw [hsource] at hround hinexact
  have hpos : (0 : ℝ) < 2 ^ e := zpow_pos two_pos e
  have hunique {P : Int → Prop} : (∃ z, RoundedInt .rne (sourceOf signed v * (2 : ℝ) ^ (-e)) z ∧ P z) ↔
      P (stepsOf (quantSource signed v).1 e).1 :=
    ⟨fun ⟨z, hz, hp⟩ => roundedInt_unique hz hround ▸ hp, fun hp => ⟨_, hround, hp⟩⟩
  intro step p
  have hp : p = (_, _) := rfl
  simp only [step, hunique]
  rw [hp]
  dsimp only
  rw [clamp_eq h, hflags]
  obtain ⟨hnv, hof, hnx, hnone⟩ := flags_of_mantissa (quantSource signed v).2.2 below
    (decide (max lo (min hi (stepsOf (quantSource signed v).1 e).1) ≠ (stepsOf (quantSource signed v).1 e).1))
    (stepsOf (quantSource signed v).1 e).2
  refine ⟨rfl, hnv.trans hbad, hof.trans ?_, hnx.trans (or_congr hbelow ?_), hnone⟩
  · rw [decide_eq_true_eq]
    omega
  · rw [decide_eq_true_eq, hinexact]
    generalize (stepsOf (quantSource signed v).1 e).1 = z at *
    generalize sourceOf signed v = y at *
    by_cases hsat : max lo (min hi z) = z
    · rw [hsat]
      simp
    · refine iff_of_true (.inl hsat) fun heq => ?_
      obtain ⟨hnear, -⟩ := hround
      rw [← heq, mul_assoc, ← zpow_add₀ two_ne_zero, add_neg_cancel, zpow_zero, mul_one,
        ← Int.cast_sub, ← Int.cast_abs] at hnear
      have hone : (1 : ℝ) ≤ |max lo (min hi z) - z| := by exact_mod_cast Int.one_le_abs (sub_ne_zero.mpr hsat)
      rw [Int.cast_abs] at hnear
      push_cast at hnear hone
      linarith

/-! ## Flags of a block -/

theorem getLsbD_allFlags (l : List Flags) (i : Nat) : (allFlags l).getLsbD i = true ↔ ∃ f ∈ l, f.getLsbD i = true := by
  induction l with
  | nil => simp
  | cons f l ih => simp [ih]

/-- A flag is among those gathered from the active elements exactly when one of them raises it. -/
theorem allFlags_has {α : Type} (F : Flags) (i : Nat) (hF : ∀ f : Flags, f &&& F = F ↔ f.getLsbD i = true)
    (l : List (α × Bool)) (g : α → Flags) : allFlags (l.map fun x => if x.2 then g x.1 else 0) &&& F = F ↔
      ∃ x ∈ l, x.2 = true ∧ g x.1 &&& F = F := by
  simp only [hF, getLsbD_allFlags, List.mem_map, exists_exists_and_eq_and]
  refine exists_congr fun x => and_congr_right fun _ => ?_
  cases x.2 <;> simp

theorem allFlags_none {l : List Flags} {F : Flags} (h : ∀ f ∈ l, f &&& F = 0) : allFlags l &&& F = 0 := by
  induction l with
  | nil => exact BitVec.zero_and
  | cons f l ih =>
    rw [allFlags_cons, BitVec.and_or_distrib_right, h f List.mem_cons_self, ih fun g hg => h g (List.mem_cons_of_mem _ hg)]
    rfl

/-! ## The block -/

theorem mantRange_eq (signed : Bool) (w : Nat) : mantRange signed w =
    (if signed then -2 ^ (w - 1) else 0, if signed then 2 ^ (w - 1) - 1 else 2 ^ w - 1) := by
  cases signed <;> simp [mantRange]

theorem mantRange_bounds (signed : Bool) {w : Nat} (hw : 1 ≤ w) : (mantRange signed w).1 ≤ (mantRange signed w).2 ∧
    -2 ^ w ≤ (mantRange signed w).1 ∧ (mantRange signed w).2 < 2 ^ w := by
  obtain ⟨k, rfl⟩ : ∃ k, w = k + 1 := ⟨w - 1, by omega⟩
  have hpos : (0 : Int) < 2 ^ k := by positivity
  rw [mantRange_eq, pow_succ]
  cases signed <;> simp only [if_true, if_false, Bool.false_eq_true, Nat.add_sub_cancel] <;> omega

/-- A block is quantised at the least scale that every value fits, if one does (R45). -/
theorem blockScale_spec (signed : Bool) {w : Nat} (hw : 1 ≤ w) (xs : List (Val × Bool)) :
    blockScale signed w xs ≤ 511 ∧ -512 ≤ blockScale signed w xs ∧
      (blockScale signed w xs < 511 → FitsAt signed (mantRange signed w).1 (mantRange signed w).2 (blockScale signed w xs) xs) ∧
      ∀ e, -512 ≤ e → e < blockScale signed w xs → ¬FitsAt signed (mantRange signed w).1 (mantRange signed w).2 e xs := by
  obtain ⟨-, hlo, hhi⟩ := mantRange_bounds signed hw
  obtain ⟨hfloor, hceil, hbelow⟩ := scaleFloor_spec w (xs.map fun x => (quantSource signed x.1).1)
  obtain ⟨hle, hmax, hleast, hfit⟩ := findScale_spec (mantRange signed w).1 (mantRange signed w).2
    (xs.map fun x => (quantSource signed x.1).1) 1024 _ hceil (by omega)
  simp only [fitsAt_iff]
  refine ⟨hmax, hfloor.trans hle, hfit, fun e h1 h2 => ?_⟩
  rcases lt_or_ge e (scaleFloor w (xs.map fun x => (quantSource signed x.1).1)) with hlt | hge
  · obtain ⟨x, hx, hm, he⟩ := hbelow e h1 hlt
    exact fun hall => steps_beyond hm he hlo hhi ((allFit_iff _ _ _ _).mp hall x hx)
  · exact hleast e hge h2

end Sys2Proof.Machine
end


-- ==== Sys2Proof/Proofs/Rounding.lean ====
section
/-! PROOF. O17: what rounding to a format, to an integer and to a block answers (R37 to R39, R45, R46, R48). -/

namespace Sys2Proof.Machine

open Sys2Proof.Claims

/-- What a rounding of a finite value to a format answers (R39). -/
theorem round_finite {f : FloatFmt} (hf : Standard f) (md : FpMode) (n : Bool) {m : Nat} (hm : m ≠ 0) (e : Int) :
    let x := amount (.num n m e)
    let r := f.round md (.num n m e)
    (Overflows f md.rm n |x| → r.2 = fOF ||| fNX ∧ r.1 = (if n then 2 ^ (f.ebits + f.prec - 1) else 0) +
      if md.rm = .rne ∨ md.rm = .rdn ∧ n = true ∨ md.rm = .rup ∧ n = false then greatest f + 1 else greatest f) ∧
    (¬Overflows f md.rm n |x| →
      let r0 := f.round ⟨md.rm, false⟩ (.num n m e)
      RoundedTo f md.rm n x r0.1 ∧ (r0.2 &&& fNX = fNX ↔ realOf f r0.1 ≠ x) ∧ r0.2 &&& (fOF ||| fDZ ||| fNV) = 0 ∧
      ((2 : ℝ) ^ f.emin ≤ |x| → r0.2 &&& fUF = 0) ∧
      (|realOf f r0.1| < (2 : ℝ) ^ f.emin → (r0.2 &&& fUF = fUF ↔ realOf f r0.1 ≠ x)) ∧
      r = if md.ftz = true ∧ 0 < r0.1 % 2 ^ (f.ebits + f.prec - 1) ∧
        r0.1 % 2 ^ (f.ebits + f.prec - 1) < 2 ^ (f.prec - 1)
        then (if n then 2 ^ (f.ebits + f.prec - 1) else 0, fUF ||| fNX) else r0) := by
  have hfine := Fine.of_ne_zero f hm
  intro x r
  have habs : |x| = m * (2 : ℝ) ^ e := by
    rw [show x = _ from amount_num n m e, abs_signum_mul _ (by positivity)]
  refine ⟨fun hov => ?_, fun hov => ?_⟩
  · rw [habs] at hov
    rw [show r = _ from (hfine.round_eq hf md n e).1 hov]
    exact ⟨rfl, overflow_eq f hf md.rm n⟩
  · obtain ⟨h1, h2, h3, h4, h5⟩ := hfine.rounded hf ⟨md.rm, false⟩ rfl n e (amount_num n m e) hov
    rw [habs] at hov
    exact ⟨h1, h2, h3, h4, h5, hfine.flushed hf md n e hov⟩

/-- A quotient rounds as the exact one. -/
theorem round_div {f : FloatFmt} (hf : Standard f) {md : FpMode} (hftz : md.ftz = false) (n n' : Bool) {m m' : Nat}
    (e e' : Int) (hm : m ≠ 0) (hm' : m' ≠ 0) :
    let q := Val.div (.num n m e) (.num n' m' e')
    let x := amount (.num n m e) / amount (.num n' m' e')
    q.2 = 0 ∧ (¬Overflows f md.rm (n != n') |x| → RoundedTo f md.rm (n != n') x (f.round md q.1).1 ∧
      ((f.round md q.1).2 &&& fNX = fNX ↔ realOf f (f.round md q.1).1 ≠ x)) := by
  obtain ⟨hfine, hval⟩ := quotient_fine hf hm hm'
  intro q x
  have hq : q = (.num (n != n') (quotient m m').1 ((quotient m m').2 + e - e'), 0) := by
    simp only [q, Val.div, if_neg hm, if_neg hm']
  have hx : x = signum (n != n') * (2 * ((m * 2 ^ (96 + m'.log2 - m.log2) : Nat) : ℝ) / m' *
      (2 : ℝ) ^ ((quotient m m').2 + e - e')) := by
    have hsign : signum n / signum n' = signum n * signum n' := by
      rcases signum_cases n' with ⟨-, h⟩ | ⟨-, h⟩ <;> rw [h] <;> ring
    rw [add_sub_assoc, zpow_add₀ two_ne_zero, ← mul_assoc _ _ ((2 : ℝ) ^ (e - e')), hval, zpow_sub₀ two_ne_zero, signum_xor,
      ← hsign]
    simp only [x, amount_num]
    field_simp
  rw [hq]
  refine ⟨rfl, fun hov => ?_⟩
  obtain ⟨h1, h2, -⟩ := hfine.rounded hf md hftz _ _ hx hov
  exact ⟨h1, h2⟩

/-- A root rounds as the exact one. -/
theorem round_sqrt {f : FloatFmt} (hf : Standard f) {md : FpMode} (hftz : md.ftz = false) {m : Nat} (e : Int) (hm : m ≠ 0) :
    let q := Val.sqrt (.num false m e)
    let x := Real.sqrt (amount (.num false m e))
    q.2 = 0 ∧ (¬Overflows f md.rm false x → RoundedTo f md.rm false x (f.round md q.1).1 ∧
      ((f.round md q.1).2 &&& fNX = fNX ↔ realOf f (f.round md q.1).1 ≠ x)) := by
  obtain ⟨Z, hfine, hval⟩ := rootOf_fine hf hm e
  intro q x
  have hq : q = (.num false (rootOf m e).1 (rootOf m e).2, 0) := by
    simp only [q, Val.sqrt, if_neg hm, Bool.false_eq_true, if_false]
  have hx : x = signum false * (Z * (2 : ℝ) ^ (rootOf m e).2) := by
    rw [hval]
    simp [x, amount, signum]
  rw [hq]
  refine ⟨rfl, fun hov => ?_⟩
  have habs : |x| = x := abs_of_nonneg (Real.sqrt_nonneg _)
  rw [← habs] at hov
  obtain ⟨h1, h2, -⟩ := hfine.rounded hf md hftz _ _ hx hov
  exact ⟨h1, h2⟩

/-- A finite value made an integer is rounded and saturated (R46, R48). -/
theorem toIntSat_finite (rm : Round) {lo hi : Int} (h : lo ≤ hi) (n : Bool) (m : Nat) (e : Int) :
    let x := amount (.num n m e)
    ∃ z : Int, RoundedInt rm x z ∧
      (z < lo → toIntSat rm lo hi (.num n m e) = (lo, fNV)) ∧ (hi < z → toIntSat rm lo hi (.num n m e) = (hi, fNV)) ∧
      (lo ≤ z → z ≤ hi → (toIntSat rm lo hi (.num n m e)).1 = z ∧
        ((z : ℝ) = x → (toIntSat rm lo hi (.num n m e)).2 = 0) ∧
        ((z : ℝ) ≠ x → (toIntSat rm lo hi (.num n m e)).2 = fNX)) := by
  obtain ⟨hround, hexact⟩ := roundInt_spec rm n m e
  intro x
  have heq : toIntSat rm lo hi (.num n m e) = if (roundInt rm n m e).1 < lo then (lo, fNV)
      else if hi < (roundInt rm n m e).1 then (hi, fNV) else ((roundInt rm n m e).1, flagIf (roundInt rm n m e).2 fNX) := rfl
  rw [heq]
  refine ⟨_, hround, fun hlt => if_pos hlt, fun hlt => ?_, fun hge hle => ?_⟩
  · rw [if_neg (by omega), if_pos hlt]
  · rw [if_neg (by omega), if_neg (by omega)]
    refine ⟨rfl, fun hz => ?_, fun hz => ?_⟩
    · rw [Bool.eq_false_iff.mpr fun hinx => hexact.mp hinx hz]
      rfl
    · rw [hexact.mpr hz]
      rfl

/-- A block quantised (R45). -/
theorem quantiseBlock_spec (signed : Bool) {w : Nat} (hw : 1 ≤ w) {xs : List (Val × Bool)} (hlen : xs.length = 32) :
    let lo := (mantRange signed w).1
    let hi := (mantRange signed w).2
    let b := (quantiseBlock signed w xs).1
    let fl := (quantiseBlock signed w xs).2
    let step (x : Val × Bool) (z : Int) : Prop := RoundedInt .rne (sourceOf signed x.1 * (2 : ℝ) ^ (-b.e)) z
    b.e ≤ 511 ∧ -512 ≤ b.e ∧ (b.e < 511 → FitsAt signed lo hi b.e xs) ∧
    (∀ e, -512 ≤ e → e < b.e → ¬FitsAt signed lo hi e xs) ∧ (b.inv = true ↔ ∃ x ∈ xs, NotFinite x.1) ∧
    b.ms.length = 32 ∧
    (∀ j x, xs[j]? = some x → ∃ z, step x z ∧ b.ms.getD j 0 = max lo (min hi z)) ∧
    (fl &&& fNV = fNV ↔ ∃ x ∈ xs, x.2 = true ∧ NotFinite x.1) ∧
    (fl &&& fOF = fOF ↔ ∃ x ∈ xs, x.2 = true ∧ ∃ z, step x z ∧ (z < lo ∨ hi < z)) ∧
    (fl &&& fNX = fNX ↔ ∃ x ∈ xs, x.2 = true ∧ ((signed = false ∧ amount x.1 < 0) ∨
      ∃ z, step x z ∧ ((max lo (min hi z) : Int) : ℝ) * (2 : ℝ) ^ b.e ≠ sourceOf signed x.1)) ∧
    fl &&& (fDZ ||| fUF) = 0 := by
  obtain ⟨hmax, hmin, hfit, hleast⟩ := blockScale_spec signed hw xs
  have hspec := mantissaOf_spec signed (mantRange_bounds signed hw).1 (blockScale signed w xs)
  rw [quantiseBlock_eq]
  generalize blockScale signed w xs = e at *
  dsimp only at hspec ⊢
  refine ⟨hmax, hmin, hfit, hleast, ?_, by rw [List.length_map, hlen], fun j x hj => ?_, ?_, ?_, ?_, ?_⟩
  · rw [List.any_eq_true]
    exact exists_congr fun x => and_congr_right fun _ => (quantSource_spec signed x.1).2.1
  · rw [List.getD_eq_getElem?_getD, List.getElem?_map, hj]
    exact (hspec x.1).1
  · refine (allFlags_has fNV 4 (by decide) xs fun v => (mantissaOf signed _ _ e v).2).trans ?_
    exact exists_congr fun x => and_congr_right fun _ => and_congr_right fun _ => (hspec x.1).2.1
  · refine (allFlags_has fOF 2 (by decide) xs fun v => (mantissaOf signed _ _ e v).2).trans ?_
    exact exists_congr fun x => and_congr_right fun _ => and_congr_right fun _ => (hspec x.1).2.2.1
  · refine (allFlags_has fNX 0 (by decide) xs fun v => (mantissaOf signed _ _ e v).2).trans ?_
    exact exists_congr fun x => and_congr_right fun _ => and_congr_right fun _ => (hspec x.1).2.2.2.1
  · refine allFlags_none fun f hf => ?_
    obtain ⟨x, -, rfl⟩ := List.mem_map.mp hf
    split
    · exact (hspec x.1).2.2.2.2
    · exact BitVec.zero_and

/-- Settles O17, by the real that a number computed stands for: steps of the result's quantum round it (R39), whole
numbers are steps of 1 (R46), and mantissas are steps of the block's scale (R45). -/
theorem rounding : Obligations.Rounding := by
  unfold Obligations.Rounding
  refine ⟨fun f hf md => ⟨fun sig => rfl, fun n => rfl, fun n e => ?_,
    fun n m e hm => round_finite (standard_of_mem hf) md n hm e⟩,
    fun rm n n' m m' e e' => ⟨add_exact rm n n' m m' e e', ⟨m * m', e + e', rfl, mul_exact n n' m m' e e'⟩,
      fun f hf md hftz hm => ⟨fun hm' => round_div (standard_of_mem hf) hftz n n' e e' hm hm', fun hn => ?_⟩⟩,
    fun rm lo hi h => ⟨fun sig => rfl, fun n => rfl, fun n m e => toIntSat_finite rm h n m e⟩,
    fun signed w xs hw _ hlen => ?_⟩
  · rw [FloatFmt.round, if_pos rfl, FloatFmt.signed, add_zero]
    rfl
  · rw [hn]
    exact round_sqrt (standard_of_mem hf) hftz e hm
  · have hspec := quantiseBlock_spec signed hw hlen
    rw [mantRange_eq] at hspec
    exact hspec

end Sys2Proof.Machine
end


-- ==== Sys2Proof/Proofs/BlockUnits.lean ====
section
/-! SUPPORT. Register blocks (R42, R43): the bits of a block's image, a block read up to a valid length (R21), and the
blocks of a register read after one is written. -/

namespace Sys2Proof.Machine

open Sys2Proof.Claims

/-! ## The image of a block (R43) -/

/-- A bit added where a number has none. -/
theorem testBit_add_bit {n k : Nat} (b : Nat) (hb : b < 2) (hn : n.testBit k = false) (i : Nat) :
    (n + b * 2 ^ k).testBit i = if i = k then decide (b = 1) else n.testBit i := by
  have hset : n + b * 2 ^ k = setBits n k 1 b := by
    have : bitsAt n k 1 = 0 := Nat.eq_of_testBit_eq fun i => by
      rw [testBit_bitsAt, Nat.zero_testBit]
      by_cases hi : i < 1
      · obtain rfl : i = 0 := by omega
        simp [hn]
      · simp [hi]
    rw [setBits, this, Nat.zero_mul, Nat.sub_zero, pow_one, Nat.mod_eq_of_lt hb]
  rw [hset, testBit_setBits]
  by_cases hi : i = k
  · obtain rfl | rfl : b = 0 ∨ b = 1 := by omega
    · simp [hi]
    · simp [hi]
  · rw [if_neg (by omega), if_neg hi]

/-- The bits of one mantissa put into the planes. -/
def planeBits (w x j n : Nat) : Nat := (List.range w).foldl (fun n p => n + bitsAt x p 1 * 2 ^ (32 * (p + 1) + j)) n

theorem testBit_planeBits (w x : Nat) {j n : Nat} (hj : j < 32) (hn : ∀ p, n.testBit (32 * (p + 1) + j) = false) (i : Nat) :
    (planeBits w x j n).testBit i =
      if i % 32 = j ∧ 32 ≤ i ∧ i < 32 * (w + 1) then x.testBit (i / 32 - 1) else n.testBit i := by
  unfold planeBits
  induction w generalizing i with
  | zero => rw [if_neg (by omega)]; rfl
  | succ w ih =>
    rw [List.range_succ, List.foldl_append, List.foldl_cons, List.foldl_nil, testBit_add_bit _ (bitsAt_lt x w 1), ih]
    · by_cases hi : i = 32 * (w + 1) + j
      · have hbit : decide (bitsAt x w 1 = 1) = x.testBit w := by
          rw [Nat.testBit_eq_decide_div_mod_eq, bitsAt]
          rfl
        rw [if_pos hi, if_pos (by omega), hbit]
        congr 1
        omega
      · rw [if_neg hi]
        exact if_congr (by omega) rfl rfl
    · rw [ih, if_neg (by omega)]
      exact hn w

/-- The bits of all mantissas put into the planes, from column `s` on. -/
theorem testBit_planes (w : Nat) (ms : List Int) {s n : Nat} (hs : s + ms.length ≤ 32)
    (hn : ∀ p, ∀ j < 32, s ≤ j → n.testBit (32 * (p + 1) + j) = false) (i : Nat) :
    ((ms.zipIdx s).foldl (fun n x => planeBits w (wrap w x.1) x.2 n) n).testBit i =
      if 32 ≤ i ∧ i < 32 * (w + 1) ∧ s ≤ i % 32 ∧ i % 32 < s + ms.length then
        (wrap w (ms.getD (i % 32 - s) 0)).testBit (i / 32 - 1) else n.testBit i := by
  induction ms generalizing s n with
  | nil => rw [if_neg (by simp), List.zipIdx_nil, List.foldl_nil]
  | cons m ms ih =>
    rw [List.length_cons] at hs
    rw [List.zipIdx_cons, List.foldl_cons, ih (by omega)]
    · rw [testBit_planeBits w _ (by omega) (fun p => hn p s (by omega) le_rfl), List.length_cons]
      by_cases hi : i % 32 = s
      · rw [if_neg (by omega), hi, Nat.sub_self, List.getD_cons_zero]
        exact if_congr (by omega) rfl rfl
      · have hget : s + 1 ≤ i % 32 → (m :: ms).getD (i % 32 - s) 0 = ms.getD (i % 32 - (s + 1)) 0 := fun h => by
          rw [show i % 32 - s = i % 32 - (s + 1) + 1 by omega, List.getD_cons_succ]
        rw [if_neg (c := i % 32 = s ∧ 32 ≤ i ∧ i < 32 * (w + 1)) (by omega)]
        by_cases hin : 32 ≤ i ∧ i < 32 * (w + 1) ∧ s + 1 ≤ i % 32 ∧ i % 32 < s + 1 + ms.length
        · rw [if_pos hin, if_pos (by omega), hget hin.2.2.1]
        · rw [if_neg hin, if_neg (by omega)]
    · intro p j hj hle
      rw [testBit_planeBits w _ (by omega) (fun p => hn p s (by omega) le_rfl), if_neg (by omega)]
      exact hn p j hj (by omega)

/-- The bits of a block's image: its scale word, and plane by plane the bits of its mantissas. -/
theorem testBit_rawOfBlock (t : Tag) {b : Block} (hb : b.ms.length = 32) (i : Nat) (hi : 32 ≤ i) :
    (rawOfBlock t b).testBit i =
      (decide (i < 32 * (tagWidth t + 1)) && (wrap (tagWidth t) (b.ms.getD (i % 32) 0)).testBit (i / 32 - 1)) := by
  have hplanes (i : Nat) := testBit_planes (tagWidth t) b.ms (s := 0) (n := 0) (by omega) (fun _ _ _ _ => Nat.zero_testBit _) i
  set F := (b.ms.zipIdx 0).foldl (fun n x => planeBits (tagWidth t) (wrap (tagWidth t) x.1) x.2 n) 0 with hF
  have hlow : F % 2 ^ 32 = 0 := Nat.eq_of_testBit_eq fun k => by
    rw [Nat.testBit_mod_two_pow, hplanes]
    by_cases hk : k < 32
    · rw [if_neg (by omega)]
      simp
    · simp [hk]
  have hraw : rawOfBlock t b = 2 ^ 32 * (F / 2 ^ 32) + (wrap 10 b.e + bit b.inv * 2 ^ 10) := by
    have hdiv := Nat.div_add_mod F (2 ^ 32)
    have : rawOfBlock t b = wrap 10 b.e + bit b.inv * 2 ^ 10 + F := rfl
    omega
  have hhead : wrap 10 b.e + bit b.inv * 2 ^ 10 < 2 ^ 32 := by
    have := wrap_lt 10 b.e
    have : bit b.inv ≤ 1 := by rw [bit]; split <;> omega
    omega
  rw [hraw, Nat.testBit_two_pow_mul_add _ hhead, if_neg (by omega), Nat.testBit_div_two_pow, Nat.sub_add_cancel hi, hplanes,
    Nat.zero_testBit, hb, Nat.sub_zero]
  by_cases hw : i < 32 * (tagWidth t + 1)
  · rw [if_pos ⟨hi, hw, by omega, by omega⟩]
    simp [hw]
  · rw [if_neg (by omega)]
    simp [hw]

/-! ## Sizes -/

section Blocks

variable {t : Tag} (ht : tagBlock t = true)
include ht

theorem unitBits_block : unitBits t = 32 * (tagWidth t + 1) := by rw [unitBits, if_pos ht]

theorem unitLen_block : unitLen t = 32 := by rw [unitLen, if_pos ht]

theorem tagCap_block : tagCap t = 32 * unitsPer t ∧ unitsPer t = 512 / (tagWidth t + 1) := by
  have hcap : tagCap t = 32 * (512 / (tagWidth t + 1)) := by
    have : tagFamily t = .block := by simpa [tagBlock] using ht
    rw [tagCap, this]
  rw [unitsPer, unitLen_block ht, hcap, Nat.mul_div_cancel_left _ (by decide)]
  exact ⟨rfl, rfl⟩

theorem tagWidth_block : 1 ≤ tagWidth t ∧ tagWidth t ≤ 16 := by
  cases t <;> simp [tagBlock, tagFamily] at ht
  all_goals
    rename_i n
    have := n.isLt
    simp only [tagWidth]
    omega

theorem unitsPer_block : 0 < unitsPer t ∧ unitsPer t ≤ 256 ∧ unitsPer t * unitBits t ≤ 16384 := by
  obtain ⟨-, hper⟩ := tagCap_block ht
  obtain ⟨hw, hw'⟩ := tagWidth_block ht
  rw [hper, unitBits_block ht]
  refine ⟨Nat.div_pos (by omega) (by omega), ?_, ?_⟩
  · exact (Nat.div_le_div_left (by omega : 2 ≤ tagWidth t + 1) (by decide)).trans (by decide)
  · have := Nat.div_mul_le_self 512 (tagWidth t + 1)
    calc 512 / (tagWidth t + 1) * (32 * (tagWidth t + 1)) = 32 * (512 / (tagWidth t + 1) * (tagWidth t + 1)) := by ring
      _ ≤ 16384 := by omega

theorem rawOfBlock_lt {b : Block} (hb : b.ms.length = 32) : rawOfBlock t b < 2 ^ unitBits t := by
  rw [unitBits_block ht]
  refine Nat.lt_pow_two_of_testBit _ fun i hi => ?_
  have hw := (tagWidth_block ht).1
  rw [testBit_rawOfBlock t hb i (by omega), decide_eq_false (by omega), Bool.false_and]

theorem zeroUnit_block : zeroUnit t = 512 := by rw [zeroUnit, if_pos ht]; decide

theorem zeroUnit_lt_block : zeroUnit t < 2 ^ unitBits t := by
  have hw := (tagWidth_block ht).1
  rw [zeroUnit_block ht, unitBits_block ht]
  calc 512 < 2 ^ 64 := by decide
    _ ≤ 2 ^ (32 * (tagWidth t + 1)) := Nat.pow_le_pow_right two_pos (by omega)

/-! ## A block read up to a valid length (R21) -/

omit ht in
theorem clipBlock_full (t : Tag) (raw : Nat) {n : Nat} (hn : 32 ≤ n) : clipBlock t raw n = raw := by
  rw [clipBlock, if_pos hn]

omit ht in
theorem clipBlock_zero (t : Tag) (raw : Nat) : clipBlock t raw 0 = zeroUnit t := by
  rw [clipBlock, if_neg (by decide), if_pos rfl]

omit ht in
/-- The planes of a clipped block. -/
theorem testBit_clip (raw : Nat) {n : Nat} (hn : n < 32) (w i : Nat) :
    ((List.range w).foldl (fun r p => setBits r (32 * (p + 1)) 32 (bitsAt raw (32 * (p + 1)) n)) raw).testBit i =
      if 32 ≤ i ∧ i < 32 * (w + 1) ∧ n ≤ i % 32 then false else raw.testBit i := by
  induction w with
  | zero => rw [if_neg (by omega)]; rfl
  | succ w ih =>
    rw [List.range_succ, List.foldl_append, List.foldl_cons, List.foldl_nil, testBit_setBits, ih]
    by_cases hi : 32 * (w + 1) ≤ i ∧ i < 32 * (w + 1) + 32
    · rw [if_pos hi, testBit_bitsAt]
      by_cases hj : i - 32 * (w + 1) < n
      · rw [if_neg (by omega), decide_eq_true hj, Bool.true_and, Nat.add_sub_cancel' hi.1]
      · rw [if_pos (by omega), decide_eq_false hj, Bool.false_and]
    · rw [if_neg hi]
      exact if_congr (by omega) rfl rfl

omit ht in
theorem testBit_clipBlock (t : Tag) (raw : Nat) {n : Nat} (h0 : n ≠ 0) (hn : n < 32) (i : Nat) :
    (clipBlock t raw n).testBit i =
      if 32 ≤ i ∧ i < 32 * (tagWidth t + 1) ∧ n ≤ i % 32 then false else raw.testBit i := by
  rw [clipBlock, if_neg (by omega), if_neg h0, testBit_clip raw hn]

theorem clipBlock_lt {raw : Nat} (hraw : raw < 2 ^ unitBits t) (n : Nat) : clipBlock t raw n < 2 ^ unitBits t := by
  rcases Nat.lt_or_ge n 32 with hn | hn
  · by_cases h0 : n = 0
    · rw [h0, clipBlock_zero]
      exact zeroUnit_lt_block ht
    · refine Nat.lt_pow_two_of_testBit _ fun i hi => ?_
      rw [testBit_clipBlock t raw h0 hn]
      split
      · rfl
      · exact Nat.testBit_lt_two_pow (hraw.trans_le (Nat.pow_le_pow_right two_pos hi))
  · rwa [clipBlock_full t raw hn]

/-- A zero block reads as zero up to every length. -/
theorem clipBlock_zeroUnit (n : Nat) : clipBlock t (zeroUnit t) n = zeroUnit t := by
  rcases Nat.lt_or_ge n 32 with hn | hn
  · by_cases h0 : n = 0
    · rw [h0, clipBlock_zero]
    · refine Nat.eq_of_testBit_eq fun i => ?_
      rw [testBit_clipBlock t _ h0 hn]
      split
      next hi =>
        rw [zeroUnit_block ht]
        exact (Nat.testBit_lt_two_pow ((by decide : 512 < 2 ^ 32).trans_le (Nat.pow_le_pow_right two_pos hi.1))).symm
      next => rfl
  · rw [clipBlock_full t _ hn]

omit ht in
/-- A block whose mantissas from `n` up are zero reads as it is up to `n`. -/
theorem clipBlock_rawOfBlock (t : Tag) {b : Block} (hb : b.ms.length = 32) {n : Nat} (h0 : n ≠ 0)
    (hzero : ∀ j < 32, n ≤ j → b.ms.getD j 0 = 0) : clipBlock t (rawOfBlock t b) n = rawOfBlock t b := by
  rcases Nat.lt_or_ge n 32 with hn | hn
  · refine Nat.eq_of_testBit_eq fun i => ?_
    rw [testBit_clipBlock t _ h0 hn]
    split
    next hi =>
      obtain ⟨h32, hw, hj⟩ := hi
      rw [testBit_rawOfBlock t hb i h32, hzero _ (Nat.mod_lt _ (by decide)) hj]
      simp [wrap]
    next => rfl
  · rw [clipBlock_full t _ hn]

/-- The mantissas of a clipped block from `n` up are zero. -/
theorem mantBits_clipBlock (raw : Nat) {n j : Nat} (hj : j < 32) (hn : n ≤ j) :
    mantBits (tagWidth t) (clipBlock t raw n) j = 0 := by
  have hbit (p : Nat) (hp : p < tagWidth t) : (clipBlock t raw n).testBit (32 * (p + 1) + j) = false := by
    by_cases h0 : n = 0
    · rw [h0, clipBlock_zero, zeroUnit_block ht]
      exact Nat.testBit_lt_two_pow ((by decide : 512 < 2 ^ 32).trans_le (Nat.pow_le_pow_right two_pos (by omega)))
    · rw [testBit_clipBlock t raw h0 (by omega), if_pos (by omega)]
  unfold mantBits
  generalize clipBlock t raw n = x at *
  generalize tagWidth t = w at *
  induction w with
  | zero => rfl
  | succ w ih =>
    rw [List.range_succ, List.foldl_append, List.foldl_cons, List.foldl_nil, ih fun p hp => hbit p (by omega)]
    have : bitsAt x (32 * (w + 1) + j) 1 = 0 := by
      have := hbit w (by omega)
      rw [Nat.testBit_eq_decide_div_mod_eq, decide_eq_false_iff_not] at this
      rw [bitsAt]
      omega
    rw [this]
    simp

/-! ## Blocks of a register (R43) -/

theorem getUnit_block (bits k : Nat) : getUnit t bits k = bitsAt bits (k * unitBits t) (unitBits t) := by
  rw [getUnit, if_pos ht]

theorem putUnit_block (bits k v : Nat) : putUnit t bits k v = setBits bits (k * unitBits t) (unitBits t) v := by
  rw [putUnit, if_pos ht]

theorem getUnit_lt_block (bits k : Nat) : getUnit t bits k < 2 ^ unitBits t := by
  rw [getUnit_block ht]
  exact bitsAt_lt _ _ _

theorem getUnit_putUnit_block (bits v j k : Nat) :
    getUnit t (putUnit t bits k v) j = if j = k then v % 2 ^ unitBits t else getUnit t bits j := by
  rw [getUnit_block ht, getUnit_block ht, putUnit_block ht]
  split
  next h => rw [h, bitsAt_setBits_self]
  next h =>
    refine bitsAt_setBits_of_disjoint _ _ ?_
    rcases Nat.lt_or_gt_of_ne h with h | h
    · exact .inl (by rw [← Nat.succ_mul]; exact Nat.mul_le_mul_right _ h)
    · exact .inr (by rw [← Nat.succ_mul]; exact Nat.mul_le_mul_right _ h)

theorem putUnit_lt_block {bits k : Nat} (v : Nat) (hb : bits < 2 ^ 16384) (hk : k < unitsPer t) :
    putUnit t bits k v < 2 ^ 16384 := by
  obtain ⟨-, -, hroom⟩ := unitsPer_block ht
  rw [putUnit_block ht]
  refine setBits_lt _ hb ?_
  rw [← Nat.succ_mul]
  exact (Nat.mul_le_mul_right _ hk).trans hroom

/-- Blocks put in a row of places. -/
theorem getUnit_foldl_putUnit_block (f : Nat → Nat) (lo n bits j : Nat) :
    getUnit t ((List.range n).foldl (fun b k => putUnit t b (lo + k) (f k)) bits) j =
      if lo ≤ j ∧ j < lo + n then f (j - lo) % 2 ^ unitBits t else getUnit t bits j := by
  induction n with
  | zero => rw [if_neg (by omega)]; rfl
  | succ n ih =>
    rw [List.range_succ, List.foldl_append, List.foldl_cons, List.foldl_nil, getUnit_putUnit_block ht, ih]
    by_cases hj : j = lo + n
    · rw [if_pos hj, if_pos (by omega), hj, Nat.add_sub_cancel_left]
    · rw [if_neg hj]
      exact if_congr (by omega) rfl rfl

theorem foldl_putUnit_lt_block (f : Nat → Nat) {lo n bits : Nat} (hb : bits < 2 ^ 16384)
    (hn : ∀ k < n, lo + k < unitsPer t) :
    (List.range n).foldl (fun b k => putUnit t b (lo + k) (f k)) bits < 2 ^ 16384 := by
  induction n with
  | zero => exact hb
  | succ n ih =>
    rw [List.range_succ, List.foldl_append, List.foldl_cons, List.foldl_nil]
    exact putUnit_lt_block ht _ (ih fun k hk => hn k (by omega)) (hn n (by omega))

end Blocks

end Sys2Proof.Machine
end


-- ==== Sys2Proof/Proofs/BlockWrites.lean ====
section
/-! SUPPORT. A result group of a block type written (R21, R50, R105, R127), block by block. -/

namespace Sys2Proof.Machine

open Sys2Proof.Claims

section Blocks

variable {t : Tag} (ht : tagBlock t = true)
include ht

omit ht in
theorem VReg.unit_block (ht : tagBlock t = true) (r : VReg) (k : Nat) :
    r.unit t k = clipBlock t (getUnit t r.bits.toNat k) (r.desc.valen.toNat - 32 * k) := by
  rw [VReg.unit, if_pos ht]

theorem VReg.unit_lt_block (r : VReg) (k : Nat) : r.unit t k < 2 ^ unitBits t := by
  rw [VReg.unit_block ht]
  exact clipBlock_lt ht (getUnit_lt_block ht _ _) _

theorem Hart.unit_lt_block (h : Hart) (base dom grp k : Nat) : h.unit ⟨base, t, dom, grp⟩ k < 2 ^ unitBits t := by
  rw [Hart.unit]
  split
  · exact VReg.unit_lt_block ht _ _
  · exact zeroUnit_lt_block ht

/-! ## One member -/

/-- What block `k` of a member becomes, when it is one of those written. -/
def memberBlock (t : Tag) (present mz : Bool) (r : VReg) (units : List (Option (Nat × Bool))) (k : Nat) : Nat :=
  ((units.getD k none).map Prod.fst).getD (if present && !mz then r.unit t k else zeroUnit t)

/-- The contents of a member: the blocks written, zeros from the old valid length on, and what it held. -/
theorem writeMember_bits_block (present mz ta : Bool) (r : VReg) (d : Desc) (units : List (Option (Nat × Bool))) :
    let old := if present then r else ⟨0, { r.desc with valen := 0 }, 0⟩
    let lo := max units.length ((old.desc.valen.toNat + 31) / 32)
    (writeMember t present mz ta r d units).bits = BitVec.ofNat 16384
      ((List.range ((d.valen.toNat + 31) / 32 - lo)).foldl (fun b k => putUnit t b (lo + k) (zeroUnit t))
        ((List.range units.length).foldl (fun b k => putUnit t b (0 + k) (memberBlock t present mz r units k))
          old.bits.toNat)) := by
  intro old lo
  unfold writeMember
  dsimp only
  rw [zipIdx_eq_range units none, List.foldl_map, unitLen_block ht]
  simp only [Nat.zero_add]
  cases present <;> rfl

variable {present mz ta : Bool} {r : VReg} {d : Desc} {units : List (Option (Nat × Bool))}

/-- A block of a member after a write. -/
theorem getUnit_writeMember_block (hd : d.valen.toNat ≤ tagCap t) (hu : units.length ≤ unitsPer t) (k : Nat) :
    let old := if present then r else ⟨0, { r.desc with valen := 0 }, 0⟩
    let lo := max units.length ((old.desc.valen.toNat + 31) / 32)
    getUnit t (writeMember t present mz ta r d units).bits.toNat k =
      if lo ≤ k ∧ k < lo + ((d.valen.toNat + 31) / 32 - lo) then zeroUnit t
      else if k < units.length then memberBlock t present mz r units k % 2 ^ unitBits t
      else getUnit t old.bits.toNat k := by
  intro old lo
  obtain ⟨hcap, -⟩ := tagCap_block ht
  have hbits := writeMember_bits_block ht present mz ta r d units
  dsimp only at hbits
  rw [hbits, BitVec.toNat_ofNat, Nat.mod_eq_of_lt, getUnit_foldl_putUnit_block ht, getUnit_foldl_putUnit_block ht,
    Nat.mod_eq_of_lt (zeroUnit_lt_block ht)]
  · refine if_congr Iff.rfl rfl (if_congr (by omega) ?_ rfl)
    rw [Nat.sub_zero]
  · refine foldl_putUnit_lt_block ht _ (foldl_putUnit_lt_block ht _ (BitVec.isLt _) fun j hj => by omega) fun j hj => by omega

/-- A block written. -/
theorem unit_writeMember_block (hd : d.valen.toNat ≤ tagCap t) (hu : units.length ≤ unitsPer t) {k : Nat}
    (hk : k < units.length) : (writeMember t present mz ta r d units).unit t k =
      clipBlock t (memberBlock t present mz r units k % 2 ^ unitBits t) (d.valen.toNat - 32 * k) := by
  rw [VReg.unit_block ht, writeMember_desc, getUnit_writeMember_block ht hd hu, if_neg (by omega), if_pos hk]

/-- A block from the new valid length on reads as zero. -/
theorem unit_writeMember_beyond (present mz ta : Bool) (r : VReg) (units : List (Option (Nat × Bool))) {k : Nat}
    (hk : d.valen.toNat ≤ 32 * k) : (writeMember t present mz ta r d units).unit t k = zeroUnit t := by
  rw [VReg.unit_block ht, writeMember_desc, Nat.sub_eq_zero_of_le hk, clipBlock_zero]

/-- A block above those written, of a member whose valid length stays, reads as before. -/
theorem unit_writeMember_kept (hd : d.valen.toNat ≤ tagCap t) (hu : units.length ≤ unitsPer t) {k : Nat}
    (hk : units.length ≤ k) (hsame : d.valen = r.desc.valen) :
    (writeMember t true mz ta r d units).unit t k = r.unit t k := by
  rw [VReg.unit_block ht, VReg.unit_block ht, writeMember_desc, getUnit_writeMember_block ht hd hu, if_pos rfl, hsame,
    if_neg (by omega), if_neg (by omega)]

/-! ## The group -/

/-- What block `b` of a group becomes, when it is one of those written. -/
def Hart.writtenBlock (h : Hart) (o : Opnd) (units : List (Option (Nat × Bool))) (b : Nat) : Nat :=
  ((units.getD b none).map Prod.fst).getD (if h.present o && !h.csr.mp then h.unit o b else zeroUnit o.tag)

/-- The member that holds block `b`, and the block's place there. -/
theorem block_place {grp b : Nat} (hb : b < 2 ^ grp * unitsPer t) :
    b / unitsPer t < 2 ^ grp ∧ b % unitsPer t < unitsPer t ∧ unitsPer t * (b / unitsPer t) + b % unitsPer t = b :=
  ⟨Nat.div_lt_of_lt_mul (by rwa [Nat.mul_comm]), Nat.mod_lt _ (unitsPer_block ht).1, Nat.div_add_mod _ _⟩

theorem valen_memberDesc_block {o : Opnd} (ho : o.tag = t) (len k : Nat) :
    (memberDesc o len k).valen.toNat = min (tagCap t) (len - k * tagCap t) := by
  obtain ⟨hcap, -⟩ := tagCap_block ht
  obtain ⟨-, hper, -⟩ := unitsPer_block ht
  rw [memberDesc, BitVec.toNat_ofNat, ho]
  exact Nat.mod_eq_of_lt (by omega)

/-- A block of a written group is a block of its member. -/
theorem unit_written_block {vd : BitVec 6} {grp : Nat} (hb : vd.toNat + 2 ^ grp ≤ 64) (h : Hart) (dom n : Nat)
    (units : List (Option (Nat × Bool))) {b : Nat} (hlt : b < 2 ^ grp * unitsPer t) :
    (h.writeGroup vd t dom grp n units).unit ⟨vd.toNat, t, dom, grp⟩ b =
      (h.written ⟨vd.toNat, t, dom, grp⟩ n units (b / unitsPer t)).unit t (b % unitsPer t) := by
  obtain ⟨hk, -, -⟩ := block_place ht hlt
  rw [Hart.unit, if_pos (by exact hk), vreg_writeGroup hb, if_pos ⟨Nat.le_add_right _ _, Nat.add_lt_add_left hk _⟩,
    Nat.add_sub_cancel_left]

/-- A length read in a member is the length read in its group. -/
theorem clipBlock_member (raw len : Nat) {b : Nat} :
    clipBlock t raw (min (tagCap t) (len - b / unitsPer t * tagCap t) - 32 * (b % unitsPer t)) =
      clipBlock t raw (len - 32 * b) := by
  obtain ⟨hcap, -⟩ := tagCap_block ht
  have hdiv := Nat.div_add_mod b (unitsPer t)
  have hlt := Nat.mod_lt b (unitsPer_block ht).1
  have hmul : b / unitsPer t * tagCap t = 32 * (unitsPer t * (b / unitsPer t)) := by rw [hcap]; ring
  rw [hmul]
  generalize unitsPer t * (b / unitsPer t) = base at *
  rcases Nat.lt_or_ge (len - 32 * b) 32 with h | h
  · congr 1
    omega
  · rw [clipBlock_full _ _ h, clipBlock_full _ _ (by omega)]

variable {vd : BitVec 6} {grp dom n : Nat}

/-- The part of the blocks that a member takes. -/
theorem units_member (hn : units.length = (n + 31) / 32) {b : Nat} :
    let part := (units.drop (b / unitsPer t * unitsPer t)).take (unitsPer t)
    part.length ≤ unitsPer t ∧ (part.length ≤ b % unitsPer t ↔ (n + 31) / 32 ≤ b) ∧
      part.getD (b % unitsPer t) none = units.getD b none := by
  have hlt := Nat.mod_lt b (unitsPer_block ht).1
  have hdiv := Nat.div_add_mod b (unitsPer t)
  rw [Nat.mul_comm] at hdiv
  intro part
  have hlen : part.length = min (unitsPer t) ((n + 31) / 32 - b / unitsPer t * unitsPer t) := by
    rw [List.length_take, List.length_drop, hn]
  refine ⟨by omega, by omega, ?_⟩
  rw [List.getD_eq_getElem?_getD, List.getElem?_take_of_lt hlt, List.getElem?_drop, hdiv, ← List.getD_eq_getElem?_getD]

/-- A block of a written group, below the written length. -/
theorem unit_writeGroup_block (hb : vd.toNat + 2 ^ grp ≤ 64) (h : Hart) (hn : units.length = (n + 31) / 32) {b : Nat}
    (hroom : b < 2 ^ grp * unitsPer t) (hlt : b < (n + 31) / 32) : let o : Opnd := ⟨vd.toNat, t, dom, grp⟩
    (h.writeGroup vd t dom grp n units).unit o b =
      clipBlock t (h.writtenBlock o units b % 2 ^ unitBits t) (h.newLen o n - 32 * b) := by
  intro o
  obtain ⟨hk, hj, -⟩ := block_place ht hroom
  obtain ⟨hpart, hin, hget⟩ := units_member ht hn (b := b)
  have hvalen := valen_memberDesc_block ht (o := o) rfl (h.newLen o n) (b / unitsPer t)
  have hold : h.unit o b = (h.vreg (vd.toNat + b / unitsPer t)).unit t (b % unitsPer t) := by
    rw [Hart.unit, if_pos (by exact hk)]
  rw [unit_written_block ht hb h dom n units hroom, Hart.written,
    unit_writeMember_block ht (by rw [hvalen]; exact min_le_left _ _) hpart (by omega), hvalen, clipBlock_member ht,
    memberBlock, hget, Hart.writtenBlock, hold]

/-- A block from the new valid length on reads as zero. -/
theorem unit_writeGroup_beyond (hb : vd.toNat + 2 ^ grp ≤ 64) (h : Hart) {b : Nat} (hroom : b < 2 ^ grp * unitsPer t) :
    let o : Opnd := ⟨vd.toNat, t, dom, grp⟩
    h.newLen o n ≤ 32 * b → (h.writeGroup vd t dom grp n units).unit o b = zeroUnit t := by
  intro o hlen
  have hvalen := valen_memberDesc_block ht (o := o) rfl (h.newLen o n) (b / unitsPer t)
  obtain ⟨hcap, -⟩ := tagCap_block ht
  obtain ⟨-, -, hdiv⟩ := block_place ht hroom
  have hmul : b / unitsPer t * tagCap t = 32 * (unitsPer t * (b / unitsPer t)) := by rw [hcap]; ring
  rw [unit_written_block ht hb h dom n units hroom, Hart.written, unit_writeMember_beyond ht]
  rw [hvalen, hmul]
  omega

/-- A block above those written, in a packed group whose valid length stays. -/
theorem unit_writeGroup_kept (hb : vd.toNat + 2 ^ grp ≤ 64) (h : Hart) (hn : units.length = (n + 31) / 32) {b : Nat}
    (hroom : b < 2 ^ grp * unitsPer t) (hge : (n + 31) / 32 ≤ b) : let o : Opnd := ⟨vd.toNat, t, dom, grp⟩
    h.present o = true → Packed h o → h.newLen o n = h.validLen o →
      (h.writeGroup vd t dom grp n units).unit o b = h.unit o b := by
  intro o hpres hpacked hlen
  obtain ⟨hk, hj, -⟩ := block_place ht hroom
  obtain ⟨hpart, hin, -⟩ := units_member ht hn (b := b)
  have hvalen := valen_memberDesc_block ht (o := o) rfl (h.newLen o n) (b / unitsPer t)
  have hold := hpacked _ hk
  rw [unit_written_block ht hb h dom n units hroom, Hart.written, show h.present _ = true from hpres,
    unit_writeMember_kept ht (by rw [hvalen]; exact min_le_left _ _) hpart (hin.mpr hge), Hart.unit, if_pos (by exact hk)]
  refine BitVec.eq_of_toNat_eq ?_
  rw [hvalen, hold, hlen]

end Blocks

end Sys2Proof.Machine
end


-- ==== Sys2Proof/Proofs/BlockResults.lean ====
section
/-! SUPPORT. The blocks of an elementwise result (R45, R127): quantised with what they keep, and the policies for the
others (R105). -/

namespace Sys2Proof.Machine

open Sys2Proof.Claims

/-! ## What a block keeps -/

theorem quantiseBlock_length (signed : Bool) (w : Nat) (xs : List (Val × Bool)) :
    (quantiseBlock signed w xs).1.ms.length = xs.length := by
  rw [quantiseBlock_eq, List.length_map]

/-- A value that counts as zero gets the mantissa 0. -/
theorem quantiseBlock_zero (signed : Bool) {w : Nat} (hw : 1 ≤ w) {xs : List (Val × Bool)} (hlen : xs.length = 32)
    {j : Nat} {v : Val} {a : Bool} (hj : xs[j]? = some (v, a)) (hv : amount v = 0) :
    (quantiseBlock signed w xs).1.ms.getD j 0 = 0 := by
  obtain ⟨-, -, -, -, -, -, hmant, -⟩ := quantiseBlock_spec signed hw hlen
  obtain ⟨z, hstep, hz⟩ := hmant j _ hj
  have hsource : sourceOf signed v = 0 := by rw [sourceOf, hv, ite_self]
  have hzero : RoundedInt .rne 0 0 := ⟨by norm_num, fun _ => Even.zero⟩
  dsimp only at hstep
  rw [hsource, zero_mul] at hstep
  have hrange : (mantRange signed w).1 ≤ 0 ∧ 0 ≤ (mantRange signed w).2 := by
    have h1 : (0 : Int) < 2 ^ (w - 1) := by positivity
    have h2 : (0 : Int) < 2 ^ w := by positivity
    rw [mantRange_eq]
    cases signed <;> simp only [if_true, if_false, Bool.false_eq_true] <;> omega
  rw [hz, roundedInt_unique hstep hzero]
  omega

/-- An element of a block with the mantissa 0 is no number but zero. -/
theorem amount_vals_zero {b : Block} {j : Nat} (hj : b.ms.getD j 0 = 0) : amount (b.vals.getD j (.num false 0 0)) = 0 := by
  rw [List.getD_eq_getElem?_getD] at hj ⊢
  rw [Block.vals, List.getElem?_map]
  cases hm : b.ms[j]? with
  | none => simp [amount]
  | some m =>
    rw [hm, Option.getD_some] at hj
    cases hi : b.inv <;> simp [amount, hj]

/-- Beyond the valid length of a packed group a block holds no number but zero. -/
theorem amount_blockElem_beyond {h : Hart} {o : Opnd} (ht : tagBlock o.tag = true) (hp : Packed h o) {b j : Nat} (hj : j < 32)
    (hroom : b < 2 ^ o.grp * unitsPer o.tag) (hlen : h.validLen o ≤ 32 * b + j) : amount (blockElem h o (32 * b + j)) = 0 := by
  obtain ⟨hk, -, -⟩ := block_place ht hroom
  have hunit : h.unit o b = clipBlock o.tag (getUnit o.tag (h.vreg (o.base + b / unitsPer o.tag)).bits.toNat (b % unitsPer o.tag))
      (h.validLen o - 32 * b) := by
    rw [Hart.unit, if_pos (by exact hk), VReg.unit_block ht, hp _ hk, clipBlock_member ht]
  rw [blockElem, show (32 * b + j) / 32 = b by omega, show (32 * b + j) % 32 = j by omega]
  refine amount_vals_zero ?_
  rw [blockOf, List.getD_eq_getElem?_getD, List.getElem?_map, List.getElem?_range hj, Option.map_some, Option.getD_some, hunit,
    mantBits_clipBlock ht _ hj (by omega), mantOf]
  cases tagSigned o.tag <;> simp [signedOf]

/-! ## The blocks of a result -/

/-- Whether a block has an active element. -/
def blockActs (act : Nat → Bool) (n b : Nat) : Bool := (List.range 32).any fun j => 32 * b + j < n && act (32 * b + j)

theorem blockActs_iff (act : Nat → Bool) (n b : Nat) :
    blockActs act n b = true ↔ ∃ j < 32, 32 * b + j < n ∧ act (32 * b + j) = true := by
  simp [blockActs]

/-- The results of active elements. -/
def resultsOf (n : Nat) (act : Nat → Bool) (val : Nat → Val) : List (Option Elem) :=
  (List.range n).map fun k => if act k then some (.exact (val k)) else none

/-- The results of one block. -/
theorem segment_getElem (n : Nat) (act : Nat → Bool) (val : Nat → Val) (b : Nat) {j : Nat} (hj : j < 32) :
    (((resultsOf n act val).drop (32 * b)).take 32)[j]?.join =
      if 32 * b + j < n && act (32 * b + j) then some (.exact (val (32 * b + j))) else none := by
  rw [List.getElem?_take_of_lt hj, List.getElem?_drop, resultsOf, List.getElem?_map]
  by_cases hn : 32 * b + j < n
  · rw [List.getElem?_range hn, decide_eq_true hn, Bool.true_and, Option.map_some, Option.join_some]
  · rw [List.getElem?_eq_none (by rw [List.length_range]; omega), decide_eq_false hn]
    rfl

theorem segment_all (n : Nat) (act : Nat → Bool) (val : Nat → Val) (b : Nat) :
    (((resultsOf n act val).drop (32 * b)).take 32).all Option.isNone = !blockActs act n b := by
  rw [Bool.eq_iff_iff, List.all_eq_true, Bool.not_eq_true', ← Bool.not_eq_true, blockActs_iff]
  constructor
  · rintro hall ⟨j, hj, hn, hact⟩
    have hget := segment_getElem n act val b hj
    rw [decide_eq_true hn, hact, Bool.and_self, if_pos rfl, Option.join_eq_some_iff] at hget
    exact absurd (hall _ (List.mem_of_getElem? hget)) (by simp)
  · intro hno r hr
    obtain ⟨j, hj⟩ := List.mem_iff_getElem?.mp hr
    have hj32 : j < 32 := by
      have := (List.getElem?_eq_some_iff.mp hj).1
      rw [List.length_take] at this
      omega
    have hget := segment_getElem n act val b hj32
    rw [hj, Option.join_some] at hget
    rw [hget, if_neg]
    · rfl
    · rw [Bool.and_eq_true, decide_eq_true_eq]
      exact fun h => hno ⟨j, hj32, h.1, h.2⟩

/-- Flags of the elements that a test keeps. -/
theorem allFlags_filter {α : Type} (l : List α) (q : α → Bool) (f : α → Flags) :
    allFlags (l.map fun x => if q x then f x else 0) = allFlags ((l.filter q).map f) := by
  induction l with
  | nil => rfl
  | cons x l ih =>
    rw [List.map_cons, allFlags_cons, ih, List.filter_cons]
    cases q x
    · exact BitVec.zero_or
    · rfl

section Group

variable {h : Hart} {o : Opnd} {there : Bool} (hthere : there = true ↔ Holds h o)
include hthere

theorem present_eq : h.present o = there := by rw [Bool.eq_iff_iff, present_iff, hthere]

/-- What an inactive element counts as. -/
theorem keptElem_eq (n b : Nat) {j : Nat} (hj : j < 32) :
    keptElem h (if h.present o then some (blockOf o.tag (h.unit o b)).vals else none) n (32 * b + j) =
      keptValue h o there n (32 * b + j) := by
  unfold keptElem keptValue
  rw [present_eq hthere, blockElem, show (32 * b + j) / 32 = b by omega,
    show (32 * b + j) % 32 = j by omega]
  cases there
  · simp
  · cases (if 32 * b + j < n then h.csr.mp else h.csr.tp) <;> simp

/-- A block with an active element is quantised from its results and what it keeps. -/
theorem quantiseBlock_values {n : Nat} {act : Nat → Bool} {val : Nat → Val} {b : Nat} {F : Nat → Val × Bool}
    (hact : ∀ j < 32, (32 * b + j < n && act (32 * b + j)) = true → F j = (val (32 * b + j), true))
    (hno : ∀ j < 32, ¬(32 * b + j < n && act (32 * b + j)) = true →
      F j = (keptElem h (if h.present o then some (blockOf o.tag (h.unit o b)).vals else none) n (32 * b + j), false)) :
    quantiseBlock (tagSigned o.tag) (tagWidth o.tag) ((List.range 32).map F) = blockResult h o there act n val b := by
  unfold blockResult
  congr 1
  refine List.map_congr_left fun j hj => ?_
  have hj : j < 32 := List.mem_range.mp hj
  dsimp only
  split
  next hc => exact hact j hj hc
  next hc => rw [hno j hj hc, keptElem_eq hthere n b hj]

/-- The blocks of a result and its flags: those with an active element are quantised. -/
theorem resultBlocks_eq (n : Nat) (act : Nat → Bool) (val : Nat → Val) : ∃ keeps : Nat → Bool,
    h.resultBlocks o n (resultsOf n act val) =
      ((List.range ((n + 31) / 32)).map fun b =>
        if blockActs act n b then some (rawOfBlock o.tag (blockResult h o there act n val b).1, keeps b) else none,
      blockFlags h o there act n val) := by
  let keeps (b : Nat) : Bool := (List.range 32).any fun j =>
    ((((resultsOf n act val).drop (32 * b)).take 32)[j]?).join.isNone && (if 32 * b + j < n then !h.csr.mp else !h.csr.tp)
  refine ⟨keeps, ?_⟩
  rw [Hart.resultBlocks]
  dsimp only
  rw [List.map_congr_left (l := List.range ((n + 31) / 32)) (g := fun b => if blockActs act n b then
    (some (rawOfBlock o.tag (blockResult h o there act n val b).1, keeps b), (blockResult h o there act n val b).2)
      else (none, 0)) fun b _ => ?_]
  · rw [foldl_flags, List.map_map, List.map_map]
    refine Prod.ext (List.map_congr_left fun b _ => ?_) (BitVec.zero_or.trans ?_)
    · rw [Function.comp_apply]
      split <;> rfl
    · dsimp only
      rw [blockFlags]
      refine (congrArg allFlags (List.map_congr_left fun b _ => ?_)).trans (allFlags_filter _ (blockActs act n) _)
      rw [Function.comp_apply]
      split <;> rfl
  · rw [segment_all]
    cases hacts : blockActs act n b with
    | false => rfl
    | true =>
      rw [if_neg (by simp), if_pos rfl, quantiseBlock_values hthere]
      · intro j hj hc
        rw [segment_getElem n act val b hj, if_pos hc]
        rfl
      · intro j hj hc
        rw [segment_getElem n act val b hj, if_neg hc]

end Group

/-! ## The group of a result -/

section Written

variable {t : Tag} (ht : tagBlock t = true) {vd : BitVec 6} {g : Nat} {h : Hart} {there : Bool}

/-- An element beyond the new valid length counts as zero in a block that straddles it. -/
theorem amount_keptValue_beyond {o : Opnd} (ho : tagBlock o.tag = true) (hthere : there = true ↔ Holds h o)
    (hts : TailSettled h o) {b j : Nat} (hj : j < 32) (hroom : b < 2 ^ o.grp * unitsPer o.tag)
    (hb : 32 * b < h.csr.vl.toNat) (hlen : h.newLen o h.csr.vl.toNat ≤ 32 * b + j) :
    amount (keptValue h o there h.csr.vl.toNat (32 * b + j)) = 0 := by
  have hge := le_newLen h o h.csr.vl.toNat
  rw [keptValue, if_neg (by omega : ¬32 * b + j < h.csr.vl.toNat)]
  split
  next hkeep =>
    rw [Bool.and_eq_true, Bool.not_eq_true'] at hkeep
    obtain ⟨hold, htp⟩ := hkeep
    have hnew := (newLen_eq h o h.csr.vl.toNat).2.1 htp (hthere.mp hold)
    rcases hts with hta | hwhole | hpacked
    · rw [htp] at hta
      cases hta
    · omega
    · exact amount_blockElem_beyond ho hpacked hj hroom (by omega)
  next => simp [amount]

/-- The units of a result of a block type: the blocks with an active element. -/
def blockUnits (n : Nat) (act : Nat → Bool) (raw : Nat → Nat) (keeps : Nat → Bool) : List (Option (Nat × Bool)) :=
  (List.range ((n + 31) / 32)).map fun b => if blockActs act n b then some (raw b, keeps b) else none

theorem blockUnits_length (n : Nat) (act : Nat → Bool) (raw : Nat → Nat) (keeps : Nat → Bool) :
    (blockUnits n act raw keeps).length = (n + 31) / 32 := by rw [blockUnits, List.length_map, List.length_range]

theorem blockUnits_getD {n b : Nat} (hb : b < (n + 31) / 32) (act : Nat → Bool) (raw : Nat → Nat) (keeps : Nat → Bool) :
    (blockUnits n act raw keeps).getD b none = if blockActs act n b then some (raw b, keeps b) else none := by
  rw [blockUnits, List.getD_eq_getElem?_getD, List.getElem?_map, List.getElem?_range hb, Option.map_some, Option.getD_some]

include ht

theorem writeResult_blocks {n : Nat} (hg : groupFor t n = some g) (act : Nat → Bool) (val : Nat → Val) (dom : Nat)
    (hthere : there = true ↔ Holds h ⟨vd.toNat, t, dom, g⟩) : ∃ keeps : Nat → Bool,
    h.writeResult vd t dom n (resultsOf n act val) =
      (h.writeGroup vd t dom g n (blockUnits n act
        (fun b => rawOfBlock t (blockResult h ⟨vd.toNat, t, dom, g⟩ there act n val b).1) keeps)).addFlags
          (blockFlags h ⟨vd.toNat, t, dom, g⟩ there act n val) := by
  obtain ⟨keeps, hblocks⟩ := resultBlocks_eq hthere n act val
  exact ⟨keeps, by rw [writeResult_eq hg, if_pos ht, hblocks]; rfl⟩

variable {dom n : Nat} {units : List (Option (Nat × Bool))}

/-- A block of the group is a unit that it has room for. -/
theorem block_room (hv : VecDest vd t n g) {b : Nat} (hb : b < (n + 31) / 32) : b < 2 ^ g * unitsPer t := by
  have hroom := VecDest.room hv
  obtain ⟨hcap, -⟩ := tagCap_block ht
  have hsize : 2 ^ g * tagCap t = 32 * (2 ^ g * unitsPer t) := by rw [hcap]; ring
  omega

/-- A block without an active element keeps its unit or becomes zero (R105). -/
theorem unit_idle_block (hv : VecDest vd t n g) (hthere : there = true ↔ Holds h ⟨vd.toNat, t, dom, g⟩)
    (hlen : units.length = (n + 31) / 32) {b : Nat} (hget : units.getD b none = none) (hfull : 32 * b + 32 ≤ n) :
    (h.writeGroup vd t dom g n units).unit ⟨vd.toNat, t, dom, g⟩ b =
      if there && !h.csr.mp then h.unit ⟨vd.toNat, t, dom, g⟩ b else zeroUnit t := by
  have hge := le_newLen h ⟨vd.toNat, t, dom, g⟩ n
  have hb : b < (n + 31) / 32 := by omega
  rw [unit_writeGroup_block ht (VecDest.bound hv).1 h hlen (block_room ht hv hb) hb, Hart.writtenBlock, hget,
    Option.map_none, Option.getD_none, present_eq hthere, clipBlock_full _ _ (by omega), Nat.mod_eq_of_lt]
  split
  · exact Hart.unit_lt_block ht _ _ _ _ _
  · exact zeroUnit_lt_block ht

/-- The blocks above a result stay or read as zero (R21). -/
theorem unit_tail_block (hv : VecDest vd t n g) (hthere : there = true ↔ Holds h ⟨vd.toNat, t, dom, g⟩)
    (hlen : units.length = (n + 31) / 32) {b : Nat} (hb : (n + 31) / 32 ≤ b) (hlt : b < 2 ^ g * (tagCap t / 32)) :
    (h.csr.tp = false → there = true → Packed h ⟨vd.toNat, t, dom, g⟩ →
      (h.writeGroup vd t dom g n units).unit ⟨vd.toNat, t, dom, g⟩ b = h.unit ⟨vd.toNat, t, dom, g⟩ b) ∧
    ((h.csr.tp = true ∨ there = false) →
      (h.writeGroup vd t dom g n units).unit ⟨vd.toNat, t, dom, g⟩ b = zeroUnit t) := by
  have hbound := (VecDest.bound hv).1
  obtain ⟨hcap, -⟩ := tagCap_block ht
  obtain ⟨hl1, hl2, hl3⟩ := newLen_eq h ⟨vd.toNat, t, dom, g⟩ n
  have hroom : b < 2 ^ g * unitsPer t := by rwa [hcap, Nat.mul_div_cancel_left _ (by decide)] at hlt
  refine ⟨fun htp hold hpacked => ?_, fun hz => ?_⟩
  · have hnew := hl2 htp (hthere.mp hold)
    rcases Nat.le_total n (h.validLen ⟨vd.toNat, t, dom, g⟩) with hle | hle
    · exact unit_writeGroup_kept ht hbound h hlen hroom hb ((present_eq hthere).trans hold) hpacked
        (hnew.trans (max_eq_left hle))
    · obtain ⟨hk, -, -⟩ := block_place ht hroom
      rw [unit_writeGroup_beyond ht hbound h hroom (by omega), Hart.unit, if_pos (by exact hk), VReg.unit_block ht,
        hpacked _ hk, clipBlock_member ht, Nat.sub_eq_zero_of_le (by omega), clipBlock_zero]
  · have hnew : h.newLen ⟨vd.toNat, t, dom, g⟩ n = n := by
      rcases hz with hz | hz
      · exact hl1 hz
      · cases htp : h.csr.tp
        · exact hl3 htp fun hh => by rw [hthere.mpr hh] at hz; cases hz
        · exact hl1 htp
    rw [unit_writeGroup_beyond ht hbound h hroom (by omega)]

/-- A block with an active element is the quantised one, its kept elements included (R45, R127). -/
theorem unit_active_block (hv : VecDest vd t h.csr.vl.toNat g) {act : Nat → Bool} {val : Nat → Val}
    (hthere : there = true ↔ Holds h ⟨vd.toNat, t, dom, g⟩) (hts : TailSettled h ⟨vd.toNat, t, dom, g⟩)
    (hlen : units.length = (h.csr.vl.toNat + 31) / 32) {b : Nat} (hb : b < (h.csr.vl.toNat + 31) / 32)
    (hget : (units.getD b none).map Prod.fst =
      some (rawOfBlock t (blockResult h ⟨vd.toNat, t, dom, g⟩ there act h.csr.vl.toNat val b).1)) :
    (h.writeGroup vd t dom g h.csr.vl.toNat units).unit ⟨vd.toNat, t, dom, g⟩ b =
      rawOfBlock t (blockResult h ⟨vd.toNat, t, dom, g⟩ there act h.csr.vl.toNat val b).1 := by
  have hge := le_newLen h ⟨vd.toNat, t, dom, g⟩ h.csr.vl.toNat
  have hroom := block_room ht hv hb
  have hms : (blockResult h ⟨vd.toNat, t, dom, g⟩ there act h.csr.vl.toNat val b).1.ms.length = 32 := by
    rw [blockResult, quantiseBlock_length, List.length_map, List.length_range]
  have hkept (j : Nat) (hj : j < 32) (hle : h.newLen ⟨vd.toNat, t, dom, g⟩ h.csr.vl.toNat - 32 * b ≤ j) :
      (blockResult h ⟨vd.toNat, t, dom, g⟩ there act h.csr.vl.toNat val b).1.ms.getD j 0 = 0 := by
    refine quantiseBlock_zero _ (tagWidth_block ht).1 (by rw [List.length_map, List.length_range]) (j := j) (a := false)
      (v := keptValue h ⟨vd.toNat, t, dom, g⟩ there h.csr.vl.toNat (32 * b + j)) ?_
      (amount_keptValue_beyond ht hthere hts hj hroom (by omega) (by omega))
    rw [List.getElem?_map, List.getElem?_range hj, Option.map_some]
    dsimp only
    rw [decide_eq_false (by omega : ¬32 * b + j < h.csr.vl.toNat), Bool.false_and, if_neg Bool.false_ne_true]
  rw [unit_writeGroup_block ht (VecDest.bound hv).1 h hlen hroom hb, Hart.writtenBlock, hget, Option.getD_some,
    Nat.mod_eq_of_lt (rawOfBlock_lt ht hms), clipBlock_rawOfBlock t hms (by omega) hkept]

omit units in
/-- The blocks of a result of `VL` elements (R45, R105, R127). -/
theorem blocksAre_writeResult (hv : VecDest vd t h.csr.vl.toNat g) (act : Nat → Bool) (val : Nat → Val)
    (hthere : there = true ↔ Holds h ⟨vd.toNat, t, dom, g⟩) (hts : TailSettled h ⟨vd.toNat, t, dom, g⟩) :
    BlocksAre h (h.writeResult vd t dom h.csr.vl.toNat (resultsOf h.csr.vl.toNat act val)) ⟨vd.toNat, t, dom, g⟩ there act
      h.csr.vl.toNat val := by
  obtain ⟨keeps, heq⟩ := writeResult_blocks ht hv.1 act val dom hthere
  have hlen := blockUnits_length h.csr.vl.toNat act
    (fun b => rawOfBlock t (blockResult h ⟨vd.toNat, t, dom, g⟩ there act h.csr.vl.toNat val b).1) keeps
  rw [heq]
  refine ⟨fun b hb => ⟨fun hact => ?_, fun hidle hfull => ?_⟩, fun b hb hlt => unit_tail_block ht hv hthere hlen hb hlt⟩
  · refine unit_active_block ht hv hthere hts hlen hb ?_
    rw [blockUnits_getD hb, if_pos ((blockActs_iff act _ b).mpr hact), Option.map_some]
  · refine unit_idle_block ht hv hthere hlen ?_ hfull
    rw [blockUnits_getD hb, if_neg]
    rw [blockActs_iff]
    rintro ⟨j, hj, -, ha⟩
    rw [hidle j hj] at ha
    cases ha

end Written

end Sys2Proof.Machine
end


-- ==== Sys2Proof/Proofs/PlainOperands.lean ====
section
/-! SUPPORT. O19: the elements and the values that meet in an elementwise computation on spatial operands of one tag (R124,
R132, R136). -/

namespace Sys2Proof.Machine

open Sys2Proof.Claims

/-! ## Elements of an operand (R21, R46) -/

/-- Element `k` of an operand as it is stored. -/
def storedElem (h : Hart) (o : Opnd) (k : Nat) : Elem :=
  if tagBlock o.tag then .exact (blockElem h o k) else .raw (h.unit o k)

/-- An element of parts of one size laid end to end. -/
theorem getElem?_parts {α : Type} {size : Nat} (F : Nat → List α) {n k : Nat}
    (hF : ∀ b < n, (F b).length = size) (hk : k < size * n) :
    ((List.range n).flatMap F)[k]? = (F (k / size))[k % size]? := by
  induction n with
  | zero => omega
  | succ n ih =>
    have hlen : ((List.range n).flatMap F).length = size * n := by
      rw [List.length_flatMap, List.map_congr_left fun b hb => hF b (by have := List.mem_range.mp hb; omega)]
      simp [Nat.mul_comm]
    rw [List.range_succ, List.flatMap_append, List.flatMap_singleton]
    rcases Nat.lt_or_ge k (size * n) with hlt | hge
    · rw [List.getElem?_append_left (by omega), ih (fun b hb => hF b (by omega)) hlt]
    · have hdiv : k / size = n := Nat.div_eq_of_lt_le (by rwa [Nat.mul_comm]) (by rwa [Nat.mul_comm])
      have hmod := Nat.div_add_mod k size
      rw [hdiv] at hmod
      rw [List.getElem?_append_right (by omega), hlen, hdiv, show k % size = k - size * n by omega]

theorem elems_getElem? (h : Hart) (o : Opnd) {n k : Nat} (hk : k < n) : (h.elems o n)[k]? = some (storedElem h o k) := by
  rw [Hart.elems, storedElem]
  split
  next ht =>
    have hlen (b : Nat) : ((blockOf o.tag (h.unit o b)).vals.map Elem.exact).length = 32 := by simp [Block.vals, blockOf]
    have hvals : (blockOf o.tag (h.unit o (k / 32))).vals.length = 32 := by simp [Block.vals, blockOf]
    rw [List.getElem?_take_of_lt hk, getElem?_parts _ (fun b _ => hlen b) (by omega), List.getElem?_map,
      blockElem, List.getD_eq_getElem?_getD, List.getElem?_eq_getElem (by rw [hvals]; exact Nat.mod_lt _ (by decide))]
    rfl
  next ht => rw [List.getElem?_map, List.getElem?_range hk, Option.map_some]

theorem elems_getD (h : Hart) (o : Opnd) {n k : Nat} (hk : k < n) : (h.elems o n).getD k (.raw 0) = storedElem h o k := by
  rw [List.getD_eq_getElem?_getD, elems_getElem? h o hk, Option.getD_some]

theorem fpMode_eq (h : Hart) : h.fpMode = fpModeOf h := by
  unfold Hart.fpMode fpModeOf modeOf flushes
  generalize h.csr.fcsr = c
  revert c
  decide

/-- The value of an element is that of its place. -/
theorem storedElem_val (h : Hart) (o : Opnd) (k : Nat) : (storedElem h o k).val o.tag (flushes h) = valueOf h o k := by
  unfold storedElem valueOf
  by_cases ht : tagFamily o.tag = .block
  · rw [if_pos ht, if_pos (by simp [tagBlock, ht])]
    rfl
  · rw [if_neg ht, if_neg (by simp [tagBlock, ht])]
    unfold Elem.val patternValue
    rfl

/-! ## The elements that meet -/

/-- Reads of spatial operands: the stored elements, without flags. -/
theorem readVecs_spatial {h : Hart} {rs : List VecRead} (hrs : ∀ r ∈ rs, r.o.dom = 0) :
    (h.readVecs rs).1 = rs.map (fun r => h.elems r.o r.n) ∧ (h.readVecs rs).2.1 = 0 := by
  have hout : (rs.map fun r => if r.recon then h.readOperand r.o r.n r.read else (h.elems r.o r.n, 0, 0)) =
      rs.map fun r => (h.elems r.o r.n, 0, 0) := by
    refine List.map_congr_left fun r hr => ?_
    rw [Hart.readOperand, if_pos (hrs r hr), ite_self]
  rw [Hart.readVecs, hout]
  dsimp only
  rw [List.map_map, foldl_flags, List.map_map]
  refine ⟨rfl, BitVec.zero_or.trans (allFlags_eq_zero fun f hf => ?_)⟩
  obtain ⟨r, -, rfl⟩ := List.mem_map.mp hf
  rfl

/-- A scalar as an element. -/
theorem scalarElem_val (h : Hart) {t : Tag} (ht : tagFamily t = .float ∨ tagFamily t = .block) (x : BitVec 5) :
    (h.scalarElem t x).val t (flushes h) =
      if tagFamily t = .block then fmtF32.decode (flushes h) ((h.readX x).toNat % 2 ^ 32)
      else patternValue h t ((h.readX x).toNat % 2 ^ tagWidth t) := by
  have hftz : h.fpMode.ftz = flushes h := by rw [fpMode_eq]; rfl
  unfold Hart.scalarElem
  rcases ht with ht | ht
  · rw [if_neg (by simp [tagBlock, ht]), if_neg (by simp [ht]), bitsAt, pow_zero, Nat.div_one]
    simp only [Elem.val, patternValue, ht]
  · rw [if_pos (by simp [tagBlock, ht]), if_pos ht, hftz, bitsAt, pow_zero, Nat.div_one]
    rfl

/-- The elements that meet at `k`, of a spatial computation in type `t`. -/
def LaneSpec.elemsAt (p : LaneSpec) (h : Hart) (t : Tag) (k : Nat) : Elem × Elem × Elem :=
  let a := storedElem h (h.opnd p.va) k
  let c := if p.readsVd then storedElem h (h.opnd p.vd) k else .raw 0
  match p.second with
  | .none => (a, .raw 0, c)
  | .vec r | .amount r => (a, storedElem h (h.opnd r) k, c)
  | .row r _ => (a, storedElem h (h.opnd r) (k % 32), c)
  | .scalar x false => (a, h.scalarElem t x, c)
  | .scalar x true => (h.scalarElem t x, a, c)
  | .scalarAmount x => (a, .raw (h.readX x).toNat, c)

section Plain

variable {p : LaneSpec} {h : Hart} {t : Tag} (hp : Plain p h t)
include hp

theorem reads_spatial : ∀ r ∈ p.reads h, r.o.dom = 0 := by
  obtain ⟨-, hva, hvb, hamount, hvd⟩ := hp
  intro r hr
  unfold LaneSpec.reads at hr
  simp only [List.mem_cons, List.mem_append] at hr
  rcases hr with (rfl | hr) | hr
  · exact hva
  · split at hr
    next q hs => rw [List.mem_singleton] at hr; subst hr; exact (hvb q false (.inl hs)).2
    next q hs => rw [List.mem_singleton] at hr; subst hr; exact hamount q hs
    next q x hs => rw [List.mem_singleton] at hr; subst hr; exact (hvb q x (.inr hs)).2
    next => cases hr
  · split at hr
    next hreads => rw [List.mem_singleton] at hr; subst hr; exact (hvd hreads).2
    next => cases hr

omit hp in
theorem lists_last (ls : List (List Elem)) (x : List Elem) : (ls ++ [x]).getLastD [] = x := by
  rw [List.getLastD_eq_getLast?, List.getLast?_append]
  rfl

/-- The third operand, where there is one, is the last that is read. -/
theorem input_third : (p.readsVd = true → (p.input h).c.1 = t) ∧ ∀ k < h.vl, (p.input h).c.2.getD k (.raw 0) =
    if p.readsVd then storedElem h (h.opnd p.vd) k else .raw 0 := by
  have hin := (readVecs_spatial (h := h) (reads_spatial hp)).1
  obtain ⟨-, -, -, -, hvd⟩ := hp
  have hc : (p.input h).c = ((h.opnd p.vd).tag, if p.readsVd then (h.readVecs (p.reads h)).1.getLastD [] else []) := by
    unfold LaneSpec.input
    cases p.second <;> dsimp only
    split <;> rfl
  rw [hc, hin]
  refine ⟨fun hreads => (hvd hreads).1, fun k hk => ?_⟩
  dsimp only
  split
  next hreads =>
    have hlast : p.reads h = (p.reads h).dropLast ++ [⟨h.opnd p.vd, h.vl, p.active h, !p.keep⟩] := by
      unfold LaneSpec.reads
      dsimp only
      rw [if_pos hreads, List.dropLast_concat]
    rw [hlast, List.map_append, List.map_singleton, lists_last, elems_getD h _ hk]
  next => rfl

/-- The first and the second operand; a row is repeated. -/
theorem input_first : (p.input h).flags = 0 ∧ (p.input h).a.1 = t ∧
    (p.second = .none ∨ p.second.exempt = true ∨ (p.input h).b.1 = t) ∧
    ∀ k < h.vl, (p.input h).a.2.getD k (.raw 0) = (p.elemsAt h t k).1 ∧
      (p.input h).b.2.getD k (.raw 0) = (p.elemsAt h t k).2.1 := by
  have hin := readVecs_spatial (h := h) (reads_spatial hp)
  obtain ⟨hta, hda, hvb, hamount, -⟩ := hp
  unfold LaneSpec.input LaneSpec.elemsAt
  generalize hout : h.readVecs (p.reads h) = out at *
  obtain ⟨ls, f, rc⟩ := out
  obtain ⟨hlists, hflags⟩ := hin
  dsimp only at hlists hflags ⊢
  unfold LaneSpec.reads at hlists
  cases hs : p.second with
  | none =>
    rw [hs] at hlists
    simp +contextual [hlists, hflags, hta, elems_getElem?]
  | vec r =>
    rw [hs] at hlists
    simp +contextual [hlists, hflags, hta, (hvb r false (.inl hs)).1, elems_getElem?]
  | amount r =>
    rw [hs] at hlists
    simp +contextual [hlists, hflags, hta, Second.exempt, elems_getElem?]
  | row r x =>
    rw [hs] at hlists
    obtain ⟨htag, hdom⟩ := hvb r x (.inr hs)
    have hrow (k : Nat) : (h.elems (h.opnd r) ((h.opnd r).firstLen 32))[k % 32]? =
        some (storedElem h (h.opnd r) (k % 32)) := elems_getElem? h _ (by
          rw [Opnd.firstLen, if_pos hdom]
          exact Nat.mod_lt _ (by decide))
    simp +contextual [hlists, hflags, hta, htag, hrow, elems_getElem?]
  | scalar x first =>
    rw [hs] at hlists
    cases first <;> simp +contextual [hlists, hflags, hta, elems_getElem?]
  | scalarAmount x =>
    rw [hs] at hlists
    simp +contextual [hlists, hflags, hta, Second.exempt, elems_getElem?]

omit hp in
theorem convertElem_same (t : Tag) (md : FpMode) (x : Elem) : convertElem t t md x = (x, 0) := if_pos rfl

/-- An element of a computation on spatial operands of its type is the function of the elements that meet. -/
theorem elem_plain (f : LaneFn) {k : Nat} (hk : k < h.vl) :
    p.elem f h t k = f k t (fpModeOf h) (p.elemsAt h t k).1 (p.elemsAt h t k).2.1 (p.elemsAt h t k).2.2 := by
  obtain ⟨-, hta, htb, hab⟩ := input_first hp
  obtain ⟨htc, hc⟩ := input_third hp
  obtain ⟨ha, hb⟩ := hab k hk
  have hthird : (p.elemsAt h t k).2.2 = if p.readsVd then storedElem h (h.opnd p.vd) k else .raw 0 := by
    unfold LaneSpec.elemsAt
    cases p.second with
    | scalar x first => cases first <;> rfl
    | _ => rfl
  have hconvert (a b c : Elem) : p.convert (p.input h) t h.fpMode (p.takes h k) a b c = ((a, b, c), 0) := by
    have h1 : convertElem (p.input h).a.1 t h.fpMode a = (a, 0) := by rw [hta, convertElem_same]
    have h2 : (if p.second = .none || p.second.exempt || !p.takes h k then (b, 0)
        else convertElem (p.input h).b.1 t h.fpMode b) = (b, (0 : Flags)) := by
      split
      next => rfl
      next hno =>
        simp only [Bool.or_eq_true, decide_eq_true_eq, not_or] at hno
        rw [(htb.resolve_left hno.1.1).resolve_left hno.1.2, convertElem_same]
    have h3 : (if p.readsVd then convertElem (p.input h).c.1 t h.fpMode c else (c, 0)) = (c, (0 : Flags)) := by
      split
      next hreads => rw [htc hreads, convertElem_same]
      next => rfl
    rw [LaneSpec.convert, h1, h2, h3]
    rfl
  rw [LaneSpec.elem, meet]
  dsimp only
  rw [Nat.zero_add, hconvert, ha, hb, hc k hk, ← hthird, fpMode_eq]
  exact Prod.ext rfl BitVec.zero_or

/-- The values of the elements that meet. -/
theorem elemsAt_val (ht : tagFamily t = .float ∨ tagFamily t = .block) (k : Nat) :
    (p.elemsAt h t k).1.val t (flushes h) = (Claims.LaneSpec.valuesAt p h t k).1 ∧
    (p.second = .none ∨ p.second.exempt = true ∨
      (p.elemsAt h t k).2.1.val t (flushes h) = (Claims.LaneSpec.valuesAt p h t k).2.1) ∧
    (p.readsVd = false ∨ (p.elemsAt h t k).2.2.val t (flushes h) = (Claims.LaneSpec.valuesAt p h t k).2.2) := by
  obtain ⟨hta, -, hvb, -, hvd⟩ := hp
  have ha (k : Nat) : (storedElem h (h.opnd p.va) k).val t (flushes h) = valueOf h (h.opnd p.va) k := by
    rw [← storedElem_val, hta]
  have hr (r : BitVec 6) (hr : (h.opnd r).tag = t) (k : Nat) :
      (storedElem h (h.opnd r) k).val t (flushes h) = valueOf h (h.opnd r) k := by rw [← storedElem_val, hr]
  have hc : p.readsVd = false ∨
      (if p.readsVd then storedElem h (h.opnd p.vd) k else .raw 0).val t (flushes h) = valueOf h (h.opnd p.vd) k := by
    cases hreads : p.readsVd
    · exact .inl rfl
    · exact .inr (hr p.vd (hvd hreads).1 k)
  have hx (x : BitVec 5) := scalarElem_val h ht x
  unfold LaneSpec.elemsAt Claims.LaneSpec.valuesAt
  cases hs : p.second with
  | none => exact ⟨ha k, .inl rfl, hc⟩
  | vec r => exact ⟨ha k, .inr (.inr (hr r (hvb r false (.inl hs)).1 k)), hc⟩
  | amount r => exact ⟨ha k, .inr (.inl rfl), hc⟩
  | row r x => exact ⟨ha k, .inr (.inr (hr r (hvb r x (.inr hs)).1 _)), hc⟩
  | scalar x first =>
    cases first
    · exact ⟨ha k, .inr (.inr (hx x)), hc⟩
    · exact ⟨hx x, .inr (.inr (ha k)), hc⟩
  | scalarAmount x => exact ⟨ha k, .inr (.inl rfl), hc⟩

end Plain

end Sys2Proof.Machine
end


-- ==== Sys2Proof/Proofs/FloatOperations.lean ====
section
/-! SUPPORT. O19: the functions that the elementwise instructions apply to floats and to elements of a block type (R128,
R130, R133, R136). -/

namespace Sys2Proof.Machine

open Sys2Proof.Claims

/-! ## One element -/

/-- The operations that round an exact result. -/
def LaneOp.rounds : LaneOp → Bool
  | .abs | .neg => false
  | _ => true

/-- A float result: exact, then rounded once (R39, R128). -/
theorem laneElem_float {op : LaneOp} (hop : op.rounds = true) {t : Tag} (ht : tagFamily t = .float) (md : FpMode)
    (a b c : Elem) : laneElem op t md a b c =
      let v := laneVal op md.rm (a.val t md.ftz) (b.val t md.ftz) (c.val t md.ftz)
      let r := (tagFmt t).round md v.1
      (.raw r.1, v.2 ||| r.2) := by
  unfold laneElem storeVal
  rw [ht]
  cases op <;> first | rfl | cases hop

/-- The exact result on elements of a block type (R47, R127). -/
def blockVal (op : LaneOp) (rm : Round) (a b c : Val) : Val × Flags :=
  if (op = .min || op = .max) && (a.isNan || b.isNan) then (.nan false, 0) else laneVal op rm a b c

theorem laneElem_block (op : LaneOp) {t : Tag} (ht : tagFamily t = .block) (md : FpMode) (a b c : Elem) :
    laneElem op t md a b c =
      let v := blockVal op md.rm (a.val t md.ftz) (b.val t md.ftz) (c.val t md.ftz)
      (.exact v.1, v.2) := by
  unfold laneElem blockVal
  rw [ht]
  dsimp only
  split <;> rfl

/-! ## Refinements (R133) -/

theorem mul_num_num (n n' : Bool) (m m' : Nat) (e e' : Int) :
    (Val.num n m e).mul (.num n' m' e') = (.num (n != n') (m * m') (e + e'), 0) := rfl

theorem mul_inf_num (n n' : Bool) (m : Nat) (e : Int) : (Val.inf n).mul (.num n' (m + 1) e) = (.inf (n != n'), 0) := rfl

theorem mul_num_inf (n n' : Bool) (m : Nat) (e : Int) : (Val.num n (m + 1) e).mul (.inf n') = (.inf (n != n'), 0) := rfl

theorem ofInt_sub_inf (z : Int) (rm : Round) (n : Bool) : (Val.ofInt z).sub rm (.inf n) = (.inf (!n), 0) := rfl

theorem ofInt_sub_num (z : Int) (rm : Round) (n : Bool) (m : Nat) (e : Int) :
    ∃ k p d, (Val.ofInt z).sub rm (.num n m e) = (.num k p d, 0) := by
  obtain ⟨k, p, d, h, -⟩ := add_exact rm (decide (z < 0)) (!n) z.natAbs m 0 e
  exact ⟨k, p, d, h⟩

theorem half_num (n : Bool) (m : Nat) (e : Int) : (Val.num n m e).half = .num n m (e - if m = 0 then 0 else 1) := by
  rw [Val.half]
  split <;> simp

/-- A refinement raises no flag of its own on numbers, and is the exact value of R133. -/
theorem laneRefine_eq (rsq : Bool) (rm : Round) (a b : Val) :
    Machine.laneRefine rsq rm a b = refinement rsq rm a b := by
  unfold Machine.laneRefine refinement
  split
  next => rfl
  next hnan =>
    simp only [Bool.or_eq_true, not_or, Bool.not_eq_true] at hnan
    obtain ⟨ha, hb⟩ := hnan
    cases b with
    | nan s => cases hb
    | inf n => rfl
    | num n m e =>
      cases m with
      | zero => rfl
      | succ m =>
        have hfixed : ¬((m + 1 == 0) = true) := by simp
        dsimp only
        rw [if_neg hfixed]
        cases a with
        | nan s => cases ha
        | inf k => cases rsq <;> simp [mul_inf_num, mul_num_inf, ofInt_sub_inf, Val.half]
        | num k q d =>
          cases rsq
          · obtain ⟨k', q', d', hsub⟩ := ofInt_sub_num 2 rm (k != n) (q * (m + 1)) (d + e)
            simp [mul_num_num, hsub]
          · obtain ⟨k', q', d', hsub⟩ := ofInt_sub_num 3 rm k (q * (m + 1) * (m + 1)) (d + e + e)
            simp [mul_num_num, hsub, half_num]

/-! ## The instructions -/

/-- The operation of an instruction that computes on values. -/
def opOf : Instr → Option LaneOp
  | .vadd _ _ _ _ | .vaddr _ _ _ _ | .vaddX _ _ _ _ | .hVadd _ _ => some .add
  | .vsub _ _ _ _ | .vsubX _ _ _ _ | .vsubXRev _ _ _ _ => some .sub
  | .vmul _ _ _ _ | .vmulr _ _ _ _ | .vmulX _ _ _ _ => some .mul
  | .vmin _ _ _ _ | .vminX _ _ _ _ => some .min
  | .vmax _ _ _ _ | .vmaxX _ _ _ _ => some .max
  | .vabs _ _ _ => some .abs
  | .vneg _ _ _ => some .neg
  | .vfma _ _ _ _ | .vfmaX _ _ _ _ => some .fma
  | .vfms _ _ _ _ => some .fms
  | .vfnma _ _ _ _ => some .fnma
  | .vdiv _ _ _ _ => some .div
  | .vsqrt _ _ _ => some .sqrt
  | .vrcps _ _ _ _ => some .rcps
  | .vrsqs _ _ _ _ => some .rsqs
  | _ => none

/-- The instruction applies its operation wherever its second operand is taken. -/
theorem exec_op {i : Instr} {len : Nat} {p : LaneSpec} {op : LaneOp} (hi : Claims.laneOf i = some (len, p))
    (hop : opOf i = some op) : p.second.exempt = false ∧ ∀ s : State, ∃ bits F,
      exec i s = finish len (p.check bits true s.cur) s (s.setCur (p.run F s.cur)) ∧
        ∀ k t md a b c, F k t md a b c = if p.takes s.cur k then laneElem op t md a b c else (a, 0) := by
  unfold opOf at hop
  split at hop <;> cases hop <;> cases hi <;> exact ⟨rfl, fun s => ⟨_, _, rfl, fun k t md a b c => rfl⟩⟩

/-- The functions agree on the operands that the instruction has. -/
def Applies (p : LaneSpec) (g f : FloatFn) : Prop := ∀ rm a b b' c c', (p.second = .none ∨ b = b') →
  (p.readsVd = false ∨ c = c') → g rm a b c = f rm a b' c'

theorem op_float {i : Instr} {len : Nat} {p : LaneSpec} {f : FloatFn} (hi : Claims.laneOf i = some (len, p))
    (hf : floatFn i = some f) : ∃ op : LaneOp, opOf i = some op ∧ op.rounds = true ∧ Applies p (laneVal op) f := by
  unfold floatFn at hf
  split at hf <;> cases hf <;> cases hi <;> refine ⟨_, rfl, rfl, fun rm a b b' c c' hb hc => ?_⟩ <;>
    rcases hb with hb | hb <;> cases hb <;> rcases hc with hc | hc <;> cases hc <;> rfl

theorem op_refine {i : Instr} {len : Nat} {p : LaneSpec} {f : FloatFn} (hi : Claims.laneOf i = some (len, p))
    (hf : refineFn i = some f) : ∃ op : LaneOp, opOf i = some op ∧ op.rounds = true ∧ Applies p (laneVal op) f := by
  unfold refineFn at hf
  split at hf <;> cases hf <;> cases hi <;> refine ⟨_, rfl, rfl, fun rm a b b' c c' hb hc => ?_⟩ <;>
    obtain rfl := hb.resolve_left nofun <;> exact laneRefine_eq _ rm a b

/-- On a block type a minimum and a maximum make a NaN of either a NaN; the other functions are those of floats. -/
theorem blockFn_of_float {i : Instr} {f : FloatFn} {op : LaneOp} (hf : floatFn i = some f) (hop : opOf i = some op) :
    blockFn i = some fun rm a b c =>
      if (op = .min || op = .max) && (a.isNan || b.isNan) then (.nan false, 0) else f rm a b c := by
  unfold floatFn at hf
  split at hf <;> cases hf <;> cases hop <;> rfl

/-- A minimum or a maximum has a second operand. -/
theorem second_of_bound {i : Instr} {len : Nat} {p : LaneSpec} {op : LaneOp} (hi : Claims.laneOf i = some (len, p))
    (hop : opOf i = some op) (hbound : op = .min ∨ op = .max) : p.second ≠ .none := by
  unfold opOf at hop
  split at hop <;> cases hop <;> rcases hbound with hb | hb <;> cases hb <;> cases hi <;> nofun

theorem op_block {i : Instr} {len : Nat} {p : LaneSpec} {f : FloatFn} (hi : Claims.laneOf i = some (len, p))
    (hf : blockFn i = some f) : ∃ op : LaneOp, opOf i = some op ∧ Applies p (blockVal op) f := by
  cases hff : floatFn i with
  | some f₀ =>
    obtain ⟨op, hop, hround, happlies⟩ := op_float hi hff
    obtain rfl := Option.some.inj ((blockFn_of_float hff hop).symm.trans hf)
    refine ⟨op, hop, fun rm a b b' c c' hb hc => ?_⟩
    have hsame : (op = .min ∨ op = .max) → b = b' := fun hbound => hb.resolve_left (second_of_bound hi hop hbound)
    by_cases hbound : op = .min ∨ op = .max
    · obtain rfl := hsame hbound
      rw [blockVal, happlies rm a b b c c' (.inr rfl) hc]
    · have hno : (decide (op = .min) || decide (op = .max)) = false := by simpa using hbound
      rw [blockVal, hno]
      exact happlies rm a b b' c c' hb hc
  | none =>
    unfold blockFn at hf
    split at hf
    · cases hf; cases hi; exact ⟨.abs, rfl, fun rm a b b' c c' hb hc => rfl⟩
    · cases hf; cases hi; exact ⟨.neg, rfl, fun rm a b b' c c' hb hc => rfl⟩
    · cases hff
    · cases hff
    · cases hff
    · cases hff
    · exact absurd (hff.symm.trans hf) nofun

end Sys2Proof.Machine
end


-- ==== Sys2Proof/Proofs/FloatLanes.lean ====
section
/-! PROOF. O19: float and block results and flags of elementwise instructions (R128, R130, R131, R133, R136, R39, R45, R47,
R127). -/

namespace Sys2Proof.Machine

open Sys2Proof.Claims

/-! ## Patterns of a float tag -/

theorem float_tag {t : Tag} (ht : tagFamily t = .float) : Standard (tagFmt t) ∧
    tagWidth t = (tagFmt t).ebits + (tagFmt t).prec ∧ 16 ≤ tagWidth t := by
  cases t <;> simp [tagFamily] at ht
  · exact ⟨standard_of_mem (by simp [tagFmt]), rfl, le_rfl⟩
  · exact ⟨standard_of_mem (by simp [tagFmt]), rfl, le_rfl⟩
  · exact ⟨standard_of_mem (by simp [tagFmt]), rfl, by decide⟩

/-- A result of rounding is a pattern of the format. -/
theorem round_lt {f : FloatFmt} (hf : Standard f) (md : FpMode) (v : Val) : (f.round md v).1 < 2 ^ (f.ebits + f.prec) := by
  have hpos := Nat.two_pow_pos (f.prec - 1)
  have hinf : f.infMag < f.signBit := by
    have := hf.two_pow_ebits
    rw [FloatFmt.infMag, hf.signBit_eq]
    exact Nat.mul_lt_mul_of_pos_right (by omega) hpos
  have hsigned (n : Bool) {mag : Nat} (h : mag < f.signBit) := signed_lt_of_lt hf n h
  cases v with
  | nan s =>
    have hq : f.qnan < f.signBit := by
      have := hf.two_pow_ebits
      have := hf.even_half
      obtain ⟨k, hk⟩ : ∃ k, 2 ^ f.ebits = k + 1 := ⟨2 ^ f.ebits - 1, by omega⟩
      rw [FloatFmt.qnan, hf.signBit_eq, hk, Nat.add_sub_cancel, Nat.succ_mul]
      omega
    have := hsigned false hq
    rwa [FloatFmt.signed, if_neg Bool.false_ne_true, Nat.zero_add] at this
  | inf n => exact hsigned n hinf
  | num n m e =>
    by_cases hm : m = 0
    · rw [FloatFmt.round, if_pos hm]
      exact hsigned n (by omega)
    · have hfine := Fine.of_ne_zero f hm
      by_cases hov : Overflows f md.rm n (m * (2 : ℝ) ^ e)
      · rw [(hfine.round_eq hf md n e).1 hov]
        unfold FloatFmt.overflow
        have hmag (c : Bool) : (if c then f.infMag else f.infMag - 1) < f.signBit := by split <;> omega
        exact hsigned n (hmag _)
      · rw [(hfine.round_eq hf md n e).2 hov]
        split
        · exact hsigned n (by omega)
        · exact (hfine.magnitude hf md.rm n e (by rwa [hfine.overflows_iff hf])).signed_lt hf n

/-! ## Computations on spatial operands -/

section Plain

variable {p : LaneSpec} {h : Hart} {t : Tag} {g : Nat}

theorem resultDom_plain (hp : Plain p h t) : LaneSpec.resultDom p h = 0 := by
  rw [LaneSpec.resultDom, hp.2.1, ite_self]

theorem takes_plain (hp : Plain p h t) (k : Nat) : p.takes h k = true := by
  unfold LaneSpec.takes
  split
  · rw [hp.2.1, approxRow, pow_zero, Nat.mod_one]
    rfl
  · rfl

theorem writeGroup_csr (h : Hart) (vd : BitVec 6) (t : Tag) (dom grp n : Nat) (units : List (Option (Nat × Bool))) :
    (h.writeGroup vd t dom grp n units).csr = h.csr :=
  (congrArg Hart.csr (writeGroup_frame h vd t dom grp n units h.v) :)

theorem addFlags_fcsr (h : Hart) (f : Flags) : (h.addFlags f).csr.fcsr = h.csr.fcsr ||| f.setWidth 8 := rfl

theorem addRcnt_fcsr (h : Hart) (n : Nat) : (h.addRcnt n).csr.fcsr = h.csr.fcsr := rfl

theorem addRcnt_addFlags_v (h : Hart) (f : Flags) (n : Nat) : ((h.addFlags f).addRcnt n).v = h.v := rfl

/-- A computation on spatial operands, by its elements. -/
theorem run_plain (hr : LaneReady p h t g) (hp : Plain p h t) (F : LaneFn) (x : Nat → Elem) (fl : Nat → Flags)
    (hx : ∀ k < h.vl, p.elem F h t k = (x k, fl k)) : ∃ c, p.run F h = ((h.writeResult p.vd t 0 h.csr.vl.toNat
      ((List.range h.csr.vl.toNat).map fun k => if maskBit h p.mask.toNat k then some (x k) else none)).addFlags
        (allFlags ((actives h p.mask).map fl))).addRcnt c := by
  obtain ⟨-, -, -, htype, -⟩ := hr
  have hres : ((List.range h.vl).map fun k => if maskBit h p.mask.toNat k then some (p.elem F h t k).1 else none) =
      (List.range h.vl).map fun k => if maskBit h p.mask.toNat k then some (x k) else none :=
    List.map_congr_left fun k hk => by rw [hx k (List.mem_range.mp hk)]
  have hfl : allFlags ((actives h p.mask).map fun k => (p.elem F h t k).2) = allFlags ((actives h p.mask).map fl) :=
    congrArg allFlags (List.map_congr_left fun k hk => by rw [hx k (List.mem_range.mp (List.mem_of_mem_filter hk))])
  have hzero (f : Flags) : (0 : Flags) ||| f = f := BitVec.zero_or
  have hlen : h.vl = h.csr.vl.toNat := rfl
  rw [hlen] at hres
  refine ⟨(p.input h).rcnt, ?_⟩
  rw [LaneSpec.run_eq htype, results_eq htype, resultDom_plain hp, (input_first hp).1, hlen, hres, hfl, hzero]

/-- The elements and the flags of a computation on a fixed-width type. -/
theorem run_fixed (ht : Fixed t) (hw : 8 ≤ tagWidth t) (hr : LaneReady p h t g) (hp : Plain p h t) {F : LaneFn}
    {n : Nat → Nat} {fl : Nat → Flags} (hx : ∀ k < h.vl, p.elem F h t k = (.raw (n k), fl k) ∧ n k < 2 ^ tagWidth t) :
    ElementsAre h (p.run F h) ⟨p.vd.toNat, t, 0, g⟩ (Active h p.mask) h.csr.vl.toNat n ∧
      (p.run F h).csr.fcsr = h.csr.fcsr ||| (allFlags ((actives h p.mask).map fl)).setWidth 8 := by
  obtain ⟨c, hrun⟩ := run_plain hr hp F (fun k => .raw (n k)) fl fun k hk => (hx k hk).1
  obtain ⟨-, -, -, -, -, -, -, -, hdest, -⟩ := hr
  have hroom := VecDest.room hdest
  obtain ⟨-, hg⟩ := VecDest.bound hdest
  have hmax : h.csr.vl.toNat ≤ 16384 := by
    have hcap : tagCap t ≤ 2048 := by
      rw [ht.cap]
      exact (Nat.div_le_div_left hw (by decide)).trans (by decide)
    have hpow : 2 ^ g ≤ 8 := Nat.pow_le_pow_right two_pos (by omega : g ≤ 3)
    calc h.csr.vl.toNat ≤ 2 ^ g * tagCap t := hroom
      _ ≤ 8 * 2048 := Nat.mul_le_mul hpow hcap
  rw [hrun]
  refine ⟨elementsAre_congr ?_ (addRcnt_addFlags_v _ _ _), ?_⟩
  · exact elementsAre_writeResult ht hdest 0 (fun k hk => active_iff h p.mask (by omega)) fun k hk _ => ⟨rfl, (hx k hk).2⟩
  · rw [addRcnt_fcsr, addFlags_fcsr, writeResult_fixed ht hdest.1, writeGroup_csr]

/-- The blocks and the flags of a computation on a block type. -/
theorem run_blocks (ht : tagBlock t = true) (hr : LaneReady p h t g) (hp : Plain p h t) {F : LaneFn} {val : Nat → Val}
    {fl : Nat → Flags} (hx : ∀ k < h.vl, p.elem F h t k = (.exact (val k), fl k)) {there : Bool}
    (hthere : there = true ↔ Holds h ⟨p.vd.toNat, t, 0, g⟩) (hts : TailSettled h ⟨p.vd.toNat, t, 0, g⟩) :
    BlocksAre h (p.run F h) ⟨p.vd.toNat, t, 0, g⟩ there (maskBit h p.mask.toNat) h.csr.vl.toNat val ∧
      (p.run F h).csr.fcsr = h.csr.fcsr ||| (allFlags ((actives h p.mask).map fl) |||
        blockFlags h ⟨p.vd.toNat, t, 0, g⟩ there (maskBit h p.mask.toNat) h.csr.vl.toNat val).setWidth 8 := by
  obtain ⟨c, hrun⟩ := run_plain hr hp F (fun k => .exact (val k)) fl hx
  obtain ⟨-, -, -, -, -, -, -, -, hdest, -⟩ := hr
  obtain ⟨keeps, hwrite⟩ := writeResult_blocks ht hdest.1 (maskBit h p.mask.toNat) val 0 hthere
  have hblocks := blocksAre_writeResult (dom := 0) ht hdest (maskBit h p.mask.toNat) val hthere hts
  have hunit (o : Opnd) (k : Nat) : (p.run F h).unit o k =
      (h.writeResult p.vd t 0 h.csr.vl.toNat (resultsOf h.csr.vl.toNat (maskBit h p.mask.toNat) val)).unit o k := by
    rw [hrun, unit_addRcnt, unit_addFlags, resultsOf]
  refine ⟨by simpa only [BlocksAre, hunit] using hblocks, ?_⟩
  have hfcsr : (p.run F h).csr.fcsr = (h.writeResult p.vd t 0 h.csr.vl.toNat
      (resultsOf h.csr.vl.toNat (maskBit h p.mask.toNat) val)).csr.fcsr |||
        (allFlags ((actives h p.mask).map fl)).setWidth 8 := by
    rw [hrun, addRcnt_fcsr, addFlags_fcsr, resultsOf]
  rw [hfcsr, hwrite, addFlags_fcsr, writeGroup_csr, BitVec.or_assoc, ← BitVec.setWidth_or, BitVec.or_comm (blockFlags ..)]

end Plain

/-! ## The instructions -/

section Instructions

variable {i : Instr} {len : Nat} {p : LaneSpec} {t : Tag} {g : Nat} {s : State}

/-- What an instruction of one operation runs on spatial operands. -/
theorem op_step {op : LaneOp} (hi : Claims.laneOf i = some (len, p)) (hop : opOf i = some op) (hr : LaneReady p s.cur t g)
    (hp : Plain p s.cur t) (hh : Healthy s.cur) : ∃ F : LaneFn,
    VectorStep i len ⟨p.vd.toNat, t, 0, g⟩ s.cur.csr.vl.toNat s (p.run F s.cur) ∧ ∀ k < s.cur.vl, p.elem F s.cur t k =
      laneElem op t (fpModeOf s.cur) (p.elemsAt s.cur t k).1 (p.elemsAt s.cur t k).2.1 (p.elemsAt s.cur t k).2.2 := by
  obtain ⟨-, hexec⟩ := exec_op hi hop
  obtain ⟨bits, F, hrun, hF⟩ := hexec s
  refine ⟨F, ?_, fun k hk => ?_⟩
  · have hstep := lane_steps hrun hr hh
    rwa [resultDom_plain hp] at hstep
  · rw [elem_plain hp F hk, hF, if_pos (takes_plain hp k)]

/-- The values that meet, as a function of the instruction takes them. -/
theorem applies_values {op : LaneOp} {G f : FloatFn} (hi : Claims.laneOf i = some (len, p)) (hop : opOf i = some op)
    (hG : Applies p G f) (hp : Plain p s.cur t) (ht : tagFamily t = .float ∨ tagFamily t = .block) (k : Nat) :
    G (modeOf s.cur) ((p.elemsAt s.cur t k).1.val t (flushes s.cur)) ((p.elemsAt s.cur t k).2.1.val t (flushes s.cur))
      ((p.elemsAt s.cur t k).2.2.val t (flushes s.cur)) =
    f (modeOf s.cur) (Claims.LaneSpec.valuesAt p s.cur t k).1 (Claims.LaneSpec.valuesAt p s.cur t k).2.1
      (Claims.LaneSpec.valuesAt p s.cur t k).2.2 := by
  obtain ⟨hexempt, -⟩ := exec_op hi hop
  obtain ⟨ha, hb, hc⟩ := elemsAt_val hp ht k
  rw [← ha]
  refine hG _ _ _ _ _ _ (hb.imp_right fun h => h.resolve_left ?_) hc
  rw [hexempt]
  exact Bool.false_ne_true

theorem float_lanes {f : FloatFn} (hi : Claims.laneOf i = some (len, p)) (hf : floatFn i = some f ∨ refineFn i = some f)
    (ht : tagFamily t = .float) (hr : LaneReady p s.cur t g) (hp : Plain p s.cur t) (hh : Healthy s.cur) :
    let exact (k : Nat) : Val × Flags := f (modeOf s.cur) (Claims.LaneSpec.valuesAt p s.cur t k).1
      (Claims.LaneSpec.valuesAt p s.cur t k).2.1 (Claims.LaneSpec.valuesAt p s.cur t k).2.2
    let rounded (k : Nat) : Nat × Flags := (tagFmt t).round (fpModeOf s.cur) (exact k).1
    ∃ h', VectorStep i len ⟨p.vd.toNat, t, 0, g⟩ s.cur.csr.vl.toNat s h' ∧
      ElementsAre s.cur h' ⟨p.vd.toNat, t, 0, g⟩ (Active s.cur p.mask) s.cur.csr.vl.toNat (fun k => (rounded k).1) ∧
      h'.csr.fcsr = s.cur.csr.fcsr |||
        (allFlags ((actives s.cur p.mask).map fun k => (exact k).2 ||| (rounded k).2)).setWidth 8 := by
  obtain ⟨hstd, hwidth, hw⟩ := float_tag ht
  have hops : ∃ op : LaneOp, opOf i = some op ∧ op.rounds = true ∧ Applies p (laneVal op) f :=
    hf.elim (op_float hi) (op_refine hi)
  obtain ⟨op, hop, hround, hG⟩ := hops
  obtain ⟨F, hstep, helem⟩ := op_step hi hop hr hp hh
  intro exact rounded
  obtain ⟨helems, hflags⟩ := run_fixed (fixed_of_family (.inr (.inl ht))) (by omega) hr hp (F := F)
    (n := fun k => (rounded k).1) (fl := fun k => (exact k).2 ||| (rounded k).2) fun k hk => ⟨by
      rw [helem k hk, laneElem_float hround ht]
      dsimp only [fpModeOf]
      rw [applies_values hi hop hG hp (.inl ht) k]
      rfl, hwidth ▸ round_lt hstd _ _⟩
  exact ⟨_, hstep, helems, hflags⟩

/-- The sign bit of a pattern turned. -/
theorem flipSign_eq {w n : Nat} (hw : 1 ≤ w) (hn : n < 2 ^ w) :
    n % 2 ^ (w - 1) + (1 - bitsAt n (w - 1) 1) * 2 ^ (w - 1) = n ^^^ 2 ^ (w - 1) := by
  have hbit : bitsAt n (w - 1) 1 = (n.testBit (w - 1)).toNat := by
    rw [Nat.testBit_eq_decide_div_mod_eq, bitsAt, pow_one]
    have := Nat.mod_two_eq_zero_or_one (n / 2 ^ (w - 1))
    rcases this with h | h <;> rw [h] <;> rfl
  rw [hbit, Nat.add_comm, Nat.mul_comm]
  refine Nat.eq_of_testBit_eq fun i => ?_
  rw [Nat.testBit_two_pow_mul_add _ (Nat.mod_lt _ (Nat.two_pow_pos _)), Nat.testBit_xor, Nat.testBit_two_pow,
    Nat.testBit_mod_two_pow]
  rcases Nat.lt_trichotomy i (w - 1) with h | h | h
  · simp [h, h.ne']
  · rw [h]
    cases n.testBit (w - 1) <;> simp
  · have hhigh : n.testBit i = false :=
      Nat.testBit_lt_two_pow (hn.trans_le (Nat.pow_le_pow_right two_pos (by omega)))
    have hone : (1 - (n.testBit (w - 1)).toNat).testBit (i - (w - 1)) = false :=
      Nat.testBit_lt_two_pow (lt_of_le_of_lt (Nat.sub_le _ _) (Nat.one_lt_two_pow (by omega)))
    rw [if_neg (by omega), hone, hhigh, decide_eq_false (by omega)]
    rfl

/-- The sign operations change the sign bit of a float only. -/
theorem op_sign {f : Nat → Nat → Nat} (hi : Claims.laneOf i = some (len, p)) (hf : signFn i = some f)
    (ht : tagFamily t = .float) : ∃ op : LaneOp, opOf i = some op ∧ p.second = .none ∧ ∀ n < 2 ^ tagWidth t,
      f (tagWidth t) n < 2 ^ tagWidth t ∧ ∀ md b c, laneElem op t md (.raw n) b c = (.raw (f (tagWidth t) n), 0) := by
  obtain ⟨-, -, hw⟩ := float_tag ht
  unfold signFn at hf
  split at hf <;> cases hf <;> cases hi
  · refine ⟨.abs, rfl, rfl, fun n hn => ⟨(Nat.mod_le _ _).trans_lt hn, fun md b c => ?_⟩⟩
    unfold laneElem
    rw [ht]
    rfl
  · refine ⟨.neg, rfl, rfl, fun n hn => ⟨?_, fun md b c => ?_⟩⟩
    · exact Nat.xor_lt_two_pow hn (Nat.pow_lt_pow_right (by decide) (by omega))
    · unfold laneElem
      rw [ht]
      dsimp only [Elem.bits]
      rw [flipSign_eq (by omega) hn]

theorem sign_lanes {f : Nat → Nat → Nat} (hi : Claims.laneOf i = some (len, p)) (hf : signFn i = some f)
    (ht : tagFamily t = .float) (hr : LaneReady p s.cur t g) (hp : Plain p s.cur t) (hh : Healthy s.cur) :
    ∃ h', VectorStep i len ⟨p.vd.toNat, t, 0, g⟩ s.cur.csr.vl.toNat s h' ∧ h'.csr.fcsr = s.cur.csr.fcsr ∧
      ElementsAre s.cur h' ⟨p.vd.toNat, t, 0, g⟩ (Active s.cur p.mask) s.cur.csr.vl.toNat
        fun k => f (tagWidth t) (Claims.LaneSpec.at p s.cur t k).1 := by
  obtain ⟨-, -, hw⟩ := float_tag ht
  have hfixed : Fixed t := fixed_of_family (.inr (.inl ht))
  obtain ⟨op, hop, hsecond, hsign⟩ := op_sign hi hf ht
  obtain ⟨F, hstep, helem⟩ := op_step hi hop hr hp hh
  have hat (k : Nat) : (p.elemsAt s.cur t k).1 = .raw (Claims.LaneSpec.at p s.cur t k).1 := by
    unfold LaneSpec.elemsAt Claims.LaneSpec.at
    rw [hsecond]
    exact if_neg (by rw [hp.1, hfixed.1]; exact Bool.false_ne_true)
  have hunit (k : Nat) : (Claims.LaneSpec.at p s.cur t k).1 < 2 ^ tagWidth t := by
    unfold Claims.LaneSpec.at
    have hopnd : s.cur.opnd p.va = ⟨(s.cur.opnd p.va).base, t, (s.cur.opnd p.va).dom, (s.cur.opnd p.va).grp⟩ := by
      rw [← hp.1]
    rw [hsecond, hopnd]
    exact unit_lt hfixed _ _ _ _ _
  obtain ⟨helems, hflags⟩ := run_fixed hfixed (by omega) hr hp (F := F)
    (n := fun k => f (tagWidth t) (Claims.LaneSpec.at p s.cur t k).1) (fl := fun _ => 0) fun k hk => by
      obtain ⟨hlt, hres⟩ := hsign _ (hunit k)
      exact ⟨by rw [helem k hk, hat, hres], hlt⟩
  refine ⟨_, hstep, ?_, helems⟩
  rw [hflags, allFlags_eq_zero fun f hf => by obtain ⟨k, -, rfl⟩ := List.mem_map.mp hf; rfl]
  exact BitVec.or_zero

theorem block_lanes {f : FloatFn} {there : Bool} (hi : Claims.laneOf i = some (len, p)) (hf : blockFn i = some f)
    (ht : tagFamily t = .block) (hr : LaneReady p s.cur t g) (hp : Plain p s.cur t) (hh : Healthy s.cur)
    (hthere : there = true ↔ Holds s.cur ⟨p.vd.toNat, t, 0, g⟩) (hts : TailSettled s.cur ⟨p.vd.toNat, t, 0, g⟩) :
    let exact (k : Nat) : Val × Flags := f (modeOf s.cur) (Claims.LaneSpec.valuesAt p s.cur t k).1
      (Claims.LaneSpec.valuesAt p s.cur t k).2.1 (Claims.LaneSpec.valuesAt p s.cur t k).2.2
    let act := maskBit s.cur p.mask.toNat
    ∃ h', VectorStep i len ⟨p.vd.toNat, t, 0, g⟩ s.cur.csr.vl.toNat s h' ∧
      BlocksAre s.cur h' ⟨p.vd.toNat, t, 0, g⟩ there act s.cur.csr.vl.toNat (fun k => (exact k).1) ∧
      h'.csr.fcsr = s.cur.csr.fcsr ||| (allFlags ((actives s.cur p.mask).map fun k => (exact k).2) |||
        blockFlags s.cur ⟨p.vd.toNat, t, 0, g⟩ there act s.cur.csr.vl.toNat fun k => (exact k).1).setWidth 8 := by
  obtain ⟨op, hop, hG⟩ := op_block hi hf
  obtain ⟨F, hstep, helem⟩ := op_step hi hop hr hp hh
  intro exact act
  obtain ⟨hblocks, hflags⟩ := run_blocks (by simp [tagBlock, ht]) hr hp (F := F) (val := fun k => (exact k).1)
    (fl := fun k => (exact k).2) (fun k hk => by
      rw [helem k hk, laneElem_block op ht]
      dsimp only [fpModeOf]
      rw [applies_values hi hop hG hp (.inr ht) k]) hthere hts
  exact ⟨_, hstep, hblocks, hflags⟩

end Instructions

/-- Settles O19: every instruction applies one operation to the values that meet; a float is rounded once, a block
quantised once, and the active elements alone raise flags. -/
theorem floatLanes : Obligations.FloatLanes := by
  unfold Obligations.FloatLanes
  intro i len p t g s hi hr hp hh
  exact ⟨fun f hf ht => float_lanes hi hf ht hr hp hh, fun f hf ht => sign_lanes hi hf ht hr hp hh,
    fun f there hf ht hts hthere => block_lanes hi hf ht hr hp hh hthere hts⟩

end Sys2Proof.Machine
end


-- ==== Sys2Proof/Proofs/HaarColumns.lean ====
section
/-! SUPPORT. O28: the columns of a Haar operand worked one by one (R53, R54, R152, R157). -/

namespace Sys2Proof.Machine

open Sys2Proof.Claims

/-! ## Columns of patterns -/

theorem storeVal_float {t : Tag} (ht : tagFamily t = .float) (md : FpMode) (v : Val) :
    (storeVal t md v).1 = .raw ((tagFmt t).round md v).1 := by
  unfold storeVal
  rw [ht]

theorem storeVal_patterns {t : Tag} (ht : tagFamily t = .float) (md : FpMode) (v : Val) :
    ∃ n < 2 ^ tagWidth t, (storeVal t md v).1 = .raw n := by
  obtain ⟨hstd, hwidth, -⟩ := float_tag ht
  exact ⟨_, hwidth ▸ round_lt hstd md v, storeVal_float ht md v⟩

theorem haarPair_patterns_float {t : Tag} (ht : tagFamily t = .float) (md : FpMode) (x y : Elem) :
    Patterns t [(haarPair t md x y).1.1, (haarPair t md x y).1.2] := by
  simp only [patterns_cons, haarPair, ht]
  exact ⟨storeVal_patterns ht md _, storeVal_patterns ht md _, nofun⟩

theorem haarUnpair_patterns_float {t : Tag} (ht : tagFamily t = .float) (md : FpMode) (a d : Elem) :
    Patterns t [(haarUnpair t md a d).1.1, (haarUnpair t md a d).1.2] := by
  simp only [patterns_cons, haarUnpair, ht]
  exact ⟨storeVal_patterns ht md _, storeVal_patterns ht md _, nofun⟩

theorem haarUnpair_patterns_int {t : Tag} (ht : tagFamily t = .int) (md : FpMode) (a d : Elem) :
    Patterns t [(haarUnpair t md a d).1.1, (haarUnpair t md a d).1.2] := by
  simp only [patterns_cons, haarUnpair, ht]
  exact ⟨⟨_, wrap_lt _ _, rfl⟩, ⟨_, wrap_lt _ _, rfl⟩, nofun⟩

section Fixed

variable {t : Tag} (ht : tagFamily t = .int ∨ tagFamily t = .float) (md : FpMode)
include ht

theorem haarPair_patterns_fixed (x y : Elem) (h : Patterns t [x, y]) :
    Patterns t [(haarPair t md x y).1.1, (haarPair t md x y).1.2] :=
  ht.elim (fun hi => haarPair_patterns hi md x y h) fun hf => haarPair_patterns_float hf md x y

theorem haarForward_patterns {l : Nat} {c : List Elem} (h : c.length = 2 ^ l) (hc : Patterns t c) :
    Patterns t (haarForward t md l c).1 := by
  induction l generalizing c with
  | zero => exact hc
  | succ l ih =>
    have heven : c.length = 2 * 2 ^ l := by rw [h, Nat.pow_succ']
    obtain ⟨hlen, -⟩ := haarLevel_length t md heven
    obtain ⟨has, hds⟩ := haarLevel_patterns (haarPair_patterns_fixed ht md) heven hc
    rw [haarForward_succ]
    exact patterns_append.mpr ⟨ih hlen has, hds⟩

theorem haarUnlevel_patterns {n : Nat} {as ds : List Elem} (ha : as.length = n) (hd : ds.length = n) :
    Patterns t (haarUnlevel t md as ds).1 := by
  induction n generalizing as ds with
  | zero =>
    rw [List.length_eq_zero_iff.mp ha]
    exact nofun
  | succ n ih =>
    obtain ⟨a, as, rfl⟩ := List.exists_cons_of_length_eq_add_one ha
    obtain ⟨d, ds, rfl⟩ := List.exists_cons_of_length_eq_add_one hd
    have hpair : Patterns t [(haarUnpair t md a d).1.1, (haarUnpair t md a d).1.2] :=
      ht.elim (fun hi => haarUnpair_patterns_int hi md a d) fun hf => haarUnpair_patterns_float hf md a d
    simp only [patterns_cons] at hpair
    rw [haarUnlevel_cons]
    exact patterns_cons.mpr ⟨hpair.1, patterns_cons.mpr ⟨hpair.2.1, ih (by simpa using ha) (by simpa using hd)⟩⟩

theorem haarInverse_patterns {l : Nat} {c : List Elem} (h : c.length = 2 ^ l) (hc : Patterns t c) :
    Patterns t (haarInverse t md l c).1 := by
  cases l with
  | zero => exact hc
  | succ l =>
    have hlen : c.length = 2 ^ l + 2 ^ l := by rw [h]; ring
    rw [haarInverse_succ]
    exact haarUnlevel_patterns ht md (n := 2 ^ l) (haarInverse_length t md (by simp [hlen])) (by simp [hlen])

end Fixed

/-! ## The integer transforms set no flag (R54) -/

theorem haarLevel_flags {t : Tag} (ht : tagFamily t = .int) (md : FpMode) : ∀ c : List Elem, (haarLevel t md c).2 = 0
  | [] => rfl
  | [_] => rfl
  | x :: y :: c => by
    have hpair : (haarPair t md x y).2 = 0 := by simp only [haarPair, ht]
    have hstep : (haarLevel t md (x :: y :: c)).2 = (haarPair t md x y).2 ||| (haarLevel t md c).2 := rfl
    rw [hstep, hpair, haarLevel_flags ht md c]
    rfl

theorem haarForward_flags {t : Tag} (ht : tagFamily t = .int) (md : FpMode) (l : Nat) (c : List Elem) :
    (haarForward t md l c).2 = 0 := by
  induction l generalizing c with
  | zero => rfl
  | succ l ih =>
    have hstep : (haarForward t md (l + 1) c).2 = (haarLevel t md c).2 ||| (haarForward t md l (haarLevel t md c).1.1).2 := rfl
    rw [hstep, haarLevel_flags ht, ih]
    rfl

theorem haarUnlevel_flags {t : Tag} (ht : tagFamily t = .int) (md : FpMode) :
    ∀ as ds : List Elem, (haarUnlevel t md as ds).2 = 0
  | [], _ => rfl
  | _ :: _, [] => rfl
  | a :: as, d :: ds => by
    have hpair : (haarUnpair t md a d).2 = 0 := by simp only [haarUnpair, ht]
    have hstep : (haarUnlevel t md (a :: as) (d :: ds)).2 = (haarUnpair t md a d).2 ||| (haarUnlevel t md as ds).2 := rfl
    rw [hstep, hpair, haarUnlevel_flags ht md as ds]
    rfl

theorem haarInverse_flags {t : Tag} (ht : tagFamily t = .int) (md : FpMode) (l : Nat) (c : List Elem) :
    (haarInverse t md l c).2 = 0 := by
  induction l generalizing c with
  | zero => rfl
  | succ l ih =>
    have hstep : (haarInverse t md (l + 1) c).2 = (haarInverse t md l (c.take (2 ^ l))).2 |||
        (haarUnlevel t md (haarInverse t md l (c.take (2 ^ l))).1 (c.drop (2 ^ l))).2 := rfl
    rw [hstep, ih, haarUnlevel_flags ht]
    rfl

/-! ## Thresholds (R157) -/

/-- Whether a coefficient is cleared. -/
def cleared (t : Tag) (thr : Nat → Val) (l k : Nat) (x : Elem) : Bool := k ≠ 0 && (haarMag t x).lt (thr (rowLevel l k))

/-- One coefficient, and whether it counts. -/
def thresholded (t : Tag) (thr : Nat → Val) (l k : Nat) (x : Elem) : Elem × Nat :=
  if cleared t thr l k x then (zeroElem t, bit !elemZero t x) else (x, 0)

theorem haarThreshold_eq (t : Tag) (thr : Nat → Val) (l : Nat) (xs : List Elem) : haarThreshold t thr l xs =
    (xs.zipIdx.map fun p => (thresholded t thr l p.2 p.1).1, (xs.zipIdx.map fun p => (thresholded t thr l p.2 p.1).2).sum) := by
  rw [haarThreshold]
  dsimp only
  rw [List.map_map, List.map_map]
  rfl

theorem haarThreshold_length (t : Tag) (thr : Nat → Val) (l : Nat) (xs : List Elem) :
    (haarThreshold t thr l xs).1.length = xs.length := by simp [haarThreshold_eq]

theorem haarThreshold_getElem? (t : Tag) (thr : Nat → Val) (l : Nat) (xs : List Elem) (k : Nat) :
    (haarThreshold t thr l xs).1[k]? = xs[k]?.map fun x => if cleared t thr l k x then zeroElem t else x := by
  simp only [haarThreshold_eq, List.getElem?_map, List.getElem?_zipIdx, Option.map_map, Nat.zero_add]
  congr 1
  funext x
  rw [Function.comp_apply, thresholded]
  cases cleared t thr l k x <;> rfl

/-- The coefficients that are cleared and were not zero are counted. -/
theorem haarThreshold_count (t : Tag) (thr : Nat → Val) (l : Nat) (xs : List Elem) : (haarThreshold t thr l xs).2 =
    ((List.range xs.length).map fun k =>
      bit (cleared t thr l k (xs.getD k (.raw 0)) && !elemZero t (xs.getD k (.raw 0)))).sum := by
  rw [haarThreshold_eq, zipIdx_eq_range xs (.raw 0)]
  dsimp only
  rw [List.map_map]
  congr 1
  refine List.map_congr_left fun k _ => ?_
  rw [Function.comp_apply, thresholded]
  cases cleared t thr l k (xs.getD k (.raw 0)) <;> rfl

end Sys2Proof.Machine
end


-- ==== Sys2Proof/Proofs/HaarBlocks.lean ====
section
/-! SUPPORT. O28: the Haar blocks of an operand worked (R152, R155), element by element and row by row. -/

namespace Sys2Proof.Machine

open Sys2Proof.Claims

/-! ## One Haar block -/

/-- Column `ch` of the elements of a Haar block. -/
def segColumn (t : Tag) (l : Nat) (seg : List Elem) (ch : Nat) : List Elem :=
  (List.range (2 ^ l)).map fun k => seg.getD (32 * k + ch) (zeroElem t)

/-- A column worked where it is active, with its flags and its count. -/
def workedColumn (op : ColumnOp) (t : Tag) (md : FpMode) (l : Nat) (act : Bool) (seg : List Elem) (ch : Nat) :
    List Elem × Flags × Nat :=
  if act then op.run t md l (segColumn t l seg ch) else (segColumn t l seg ch, 0, 0)

section Fixed

variable {t : Tag} (ht : tagBlock t = false) (op : ColumnOp) (md : FpMode) (l : Nat) (act : Nat → Bool) (seg : List Elem)
include ht

theorem workHaarBlock_fixed : workHaarBlock op t md l act seg =
    ⟨((List.range (2 ^ l)).map fun k => (List.range 32).map fun ch =>
        (workedColumn op t md l (act ch) seg ch).1.getD k (zeroElem t)).flatten, [],
      allFlags ((List.range 32).map fun ch => (workedColumn op t md l (act ch) seg ch).2.1),
      ((List.range 32).map fun ch => (workedColumn op t md l (act ch) seg ch).2.2).sum⟩ := by
  unfold workHaarBlock workedColumn segColumn
  simp only [ht, Bool.false_and, Bool.false_or, Bool.not_false, Bool.true_and, Bool.false_eq_true, if_false, List.map_map]
  rw [foldl_flags, List.map_map]
  congr 1
  exact BitVec.zero_or

theorem workHaarBlock_elems_length : (workHaarBlock op t md l act seg).elems.length = 32 * 2 ^ l := by
  rw [workHaarBlock_fixed ht]
  simp [List.length_flatten, Function.comp_def, Nat.mul_comm]

/-- An element of a worked Haar block lies in the column of its place. -/
theorem workHaarBlock_elems {j : Nat} (hj : j < 32 * 2 ^ l) : (workHaarBlock op t md l act seg).elems[j]? =
    some ((workedColumn op t md l (act (j % 32)) seg (j % 32)).1.getD (j / 32) (zeroElem t)) := by
  rw [workHaarBlock_fixed ht]
  dsimp only
  rw [← List.flatMap_def, getElem?_parts _ (fun b _ => by rw [List.length_map, List.length_range]) hj, List.getElem?_map,
    List.getElem?_range (Nat.mod_lt _ (by decide)), Option.map_some]

end Fixed

section Blocks

variable {t : Tag} (ht : tagBlock t = true) (op : ColumnOp) (md : FpMode) (l : Nat) (act : Bool) (seg : List Elem)
include ht

/-- The rows of a worked Haar block of a block type. -/
def workedRow (op : ColumnOp) (t : Tag) (md : FpMode) (l : Nat) (seg : List Elem) (k : Nat) : List (Val × Bool) :=
  (List.range 32).map fun ch => (((op.run t md l (segColumn t l seg ch)).1.getD k (zeroElem t)).val t md.ftz, true)

/-- A block type is worked as a whole; its rows are quantised. -/
theorem workHaarBlock_units : (workHaarBlock op t md l (fun _ => act) seg).units = if act then
    (List.range (2 ^ l)).map fun k => rawOfBlock t (quantiseBlock (tagSigned t) (tagWidth t) (workedRow op t md l seg k)).1
      else List.replicate (2 ^ l) (zeroUnit t) := by
  have hany : (List.range 32).any (fun _ => act) = act := by cases act <;> rfl
  unfold workHaarBlock
  cases act with
  | false => simp [ht, hany]
  | true =>
    simp only [ht, hany, Bool.true_and, Bool.true_or, if_true, List.map_map]
    refine List.map_congr_left fun k _ => ?_
    simp only [Function.comp_apply, workedRow, segColumn, List.map_map]
    rfl

theorem workHaarBlock_units_length : (workHaarBlock op t md l (fun _ => act) seg).units.length = 2 ^ l := by
  rw [workHaarBlock_units ht]
  cases act <;> simp

omit ht in
theorem run_flags_threshold {op : ColumnOp} (hf : op.forward = false) (hi : op.inverse = false) (t : Tag) (md : FpMode)
    (l : Nat) (c : List Elem) : (op.run t md l c).2.1 = 0 := by
  unfold ColumnOp.run
  rw [hf, hi]
  cases op.thr <;> rfl

omit ht in
/-- Only the transforms raise flags. -/
theorem workHaarBlock_flags {op : ColumnOp} (hf : op.forward = false) (hi : op.inverse = false) (t : Tag) (md : FpMode)
    (l : Nat) (act : Nat → Bool) (seg : List Elem) : (workHaarBlock op t md l act seg).flags = 0 := by
  have hcols (q : Nat → Bool) : ((List.range 32).map fun ch =>
      if q ch then op.run t md l (segColumn t l seg ch) else (segColumn t l seg ch, 0, 0)).foldl
        (fun f c => f ||| c.2.1) (0 : Flags) = 0 := by
    rw [foldl_flags, List.map_map, allFlags_eq_zero]
    · rfl
    · intro f hmem
      obtain ⟨ch, -, rfl⟩ := List.mem_map.mp hmem
      rw [Function.comp_apply]
      split
      · exact run_flags_threshold hf hi t md l _
      · rfl
  have hor {a b : Flags} (ha : a = 0) (hb : b = 0) : a ||| b = 0 := by rw [ha, hb]; rfl
  unfold segColumn at hcols
  unfold workHaarBlock
  dsimp only
  rw [hf, hi]
  split
  · dsimp only
    exact hor (hcols _) (if_neg Bool.false_ne_true)
  · dsimp only
    exact hcols _

end Blocks

/-! ## All Haar blocks -/

/-- The elements of Haar block `b`. -/
def segmentOf (l : Nat) (xs : List Elem) (b : Nat) : List Elem := (xs.drop (32 * 2 ^ l * b)).take (32 * 2 ^ l)

/-- The Haar blocks are worked one by one. -/
theorem workHaar_eq (op : ColumnOp) (t : Tag) (md : FpMode) (l : Nat) (act : Nat → Nat → Bool) (n h : Nat) (xs : List Elem) :
    let w (b : Nat) : Worked := workHaarBlock op t md l (act (h + b)) (segmentOf l xs b)
    workHaar op t md l act n h xs = ⟨(List.range n).flatMap fun b => (w b).elems, (List.range n).flatMap fun b => (w b).units,
      allFlags ((List.range n).map fun b => (w b).flags), ((List.range n).map fun b => (w b).zeros).sum⟩ := by
  induction n generalizing h xs with
  | zero => rfl
  | succ n ih =>
    intro w
    have hseg (b : Nat) : segmentOf l (xs.drop (32 * 2 ^ l)) b = segmentOf l xs (b + 1) := by
      rw [segmentOf, segmentOf, List.drop_drop]
      congr 2
      ring
    have hw (b : Nat) : workHaarBlock op t md l (act (h + 1 + b)) (segmentOf l (xs.drop (32 * 2 ^ l)) b) = w (b + 1) := by
      rw [hseg, show h + 1 + b = h + (b + 1) by ring]
    have hfirst : workHaarBlock op t md l (act h) (xs.take (32 * 2 ^ l)) = w 0 := by
      simp [w, segmentOf]
    rw [workHaar, ih (h + 1), hfirst]
    simp only [hw, List.range_succ_eq_map, List.flatMap_cons, List.flatMap_map, List.map_cons, List.map_map, allFlags_cons,
      List.sum_cons, Nat.succ_eq_add_one, Function.comp_def]

end Sys2Proof.Machine
end


-- ==== Sys2Proof/Proofs/HaarOperands.lean ====
section
/-! SUPPORT. O28: the columns of a Haar operand (R152), read from its elements and worked. -/

namespace Sys2Proof.Machine

open Sys2Proof.Claims

/-! ## Active columns -/

theorem columnActive_eq (h : Hart) (sel : BitVec 2) (t : Tag) (l b ch : Nat) :
    h.columnActive sel t l b ch = maskBit h sel.toNat (32 * 2 ^ l * b + if tagBlock t then 0 else ch) :=
  mask_getLsbD h sel.toNat _

theorem columnMask_length (h : Hart) (sel : BitVec 2) (t : Tag) (l : Nat) : (h.columnMask sel t l).length = h.vl := by
  rw [Hart.columnMask, List.length_map, List.length_range]

theorem columnMask_getElem? (h : Hart) (sel : BitVec 2) (t : Tag) (l : Nat) {j : Nat} (hj : j < h.vl) :
    (h.columnMask sel t l)[j]? =
      some (maskBit h sel.toNat (32 * 2 ^ l * (j / (32 * 2 ^ l)) + if tagBlock t then 0 else j % 32)) := by
  rw [Hart.columnMask, List.getElem?_map, List.getElem?_range hj, Option.map_some, columnActive_eq]

/-! ## Columns as they are stored -/

/-- A stretch of the elements of an operand. -/
theorem elems_slice (h : Hart) (o : Opnd) {vl a n : Nat} (hn : a + n ≤ vl) :
    ((h.elems o vl).drop a).take n = (List.range n).map fun j => storedElem h o (a + j) := by
  refine List.ext_getElem? fun j => ?_
  rcases Nat.lt_or_ge j n with hj | hj
  · rw [List.getElem?_take_of_lt hj, List.getElem?_drop, elems_getElem? h o (by omega), List.getElem?_map,
      List.getElem?_range hj, Option.map_some]
  · rw [List.getElem?_eq_none (by rw [List.length_take]; omega), List.getElem?_eq_none (by simpa using hj)]

/-- Column `ch` of Haar block `b` as it is stored. -/
def storedColumn (h : Hart) (o : Opnd) (l b ch : Nat) : List Elem :=
  (List.range (2 ^ l)).map fun k => storedElem h o (32 * (2 ^ l * b + k) + ch)

theorem storedColumn_length (h : Hart) (o : Opnd) (l b ch : Nat) : (storedColumn h o l b ch).length = 2 ^ l := by
  rw [storedColumn, List.length_map, List.length_range]

theorem storedColumn_getD (h : Hart) (o : Opnd) (l b ch : Nat) {k : Nat} (hk : k < 2 ^ l) (x : Elem) :
    (storedColumn h o l b ch).getD k x = storedElem h o (32 * (2 ^ l * b + k) + ch) := by
  rw [storedColumn, List.getD_eq_getElem?_getD, List.getElem?_map, List.getElem?_range hk]
  rfl

theorem storedElem_fixed {o : Opnd} (ht : tagBlock o.tag = false) (h : Hart) (j : Nat) :
    storedElem h o j = .raw (h.unit o j) := by
  rw [storedElem, ht, if_neg Bool.false_ne_true]

theorem storedElem_block {o : Opnd} (ht : tagBlock o.tag = true) (h : Hart) (j : Nat) :
    storedElem h o j = .exact (blockElem h o j) := by
  rw [storedElem, ht, if_pos rfl]

theorem storedColumn_fixed {o : Opnd} (ht : tagBlock o.tag = false) (h : Hart) (l b ch : Nat) :
    storedColumn h o l b ch = columnOf h o (2 ^ l) b ch :=
  List.map_congr_left fun _ _ => storedElem_fixed ht h _

theorem storedColumn_block {o : Opnd} (ht : tagBlock o.tag = true) (h : Hart) (l b ch : Nat) :
    storedColumn h o l b ch = columnExact h o (2 ^ l) b ch :=
  List.map_congr_left fun _ _ => storedElem_block ht h _

theorem storedColumn_patterns {o : Opnd} (ht : Fixed o.tag) (h : Hart) (l b ch : Nat) :
    Patterns o.tag (storedColumn h o l b ch) := by
  intro x hx
  obtain ⟨k, -, rfl⟩ := List.mem_map.mp hx
  exact ⟨_, unit_lt ht h _ _ _ _, storedElem_fixed ht.1 h _⟩

/-- The columns that are worked are those stored. -/
theorem segColumn_segmentOf (h : Hart) (o : Opnd) (t : Tag) {vl l b ch : Nat} (hb : b < vl / (32 * 2 ^ l)) (hch : ch < 32) :
    segColumn t l (segmentOf l (h.elems o vl) b) ch = storedColumn h o l b ch := by
  have hroom : 32 * 2 ^ l * b + 32 * 2 ^ l ≤ vl := by
    rw [← Nat.mul_succ]
    exact (Nat.mul_le_mul_left _ hb).trans (Nat.mul_div_le vl _)
  rw [segColumn, storedColumn, segmentOf, elems_slice h o hroom]
  refine List.map_congr_left fun k hk => ?_
  have hk : k < 2 ^ l := List.mem_range.mp hk
  rw [List.getD_eq_getElem?_getD, List.getElem?_map, List.getElem?_range (by omega), Option.map_some, Option.getD_some]
  congr 1
  ring

/-! ## Places of a Haar block -/

section Places

variable (l : Nat) {j : Nat}

theorem row_place : j % (32 * 2 ^ l) / 32 = rowOf l j := Nat.mod_mul_right_div_self j 32 (2 ^ l)

theorem channel_place : j % (32 * 2 ^ l) % 32 = j % 32 := Nat.mod_mul_right_mod j 32 (2 ^ l)

theorem row_lt : rowOf l j < 2 ^ l := Nat.mod_lt _ (Nat.two_pow_pos l)

/-- An element is in the place of its Haar block, row and channel. -/
theorem place_eq : 32 * (2 ^ l * haarBlockOf l j + rowOf l j) + j % 32 = j := by
  rw [haarBlockOf, rowOf, ← Nat.div_div_eq_div_mul, Nat.div_add_mod, Nat.div_add_mod]

theorem block_lt {n : Nat} (hn : n % (32 * 2 ^ l) = 0) (hj : j < n) : haarBlockOf l j < n / (32 * 2 ^ l) := by
  refine Nat.div_lt_of_lt_mul ?_
  rwa [Nat.mul_div_cancel' (Nat.dvd_of_mod_eq_zero hn)]

theorem place_of {b k ch : Nat} (hk : k < 2 ^ l) (hch : ch < 32) :
    haarBlockOf l (32 * (2 ^ l * b + k) + ch) = b ∧ rowOf l (32 * (2 ^ l * b + k) + ch) = k ∧
      (32 * (2 ^ l * b + k) + ch) % 32 = ch := by
  have hdiv : (32 * (2 ^ l * b + k) + ch) / 32 = 2 ^ l * b + k := by omega
  refine ⟨?_, ?_, by omega⟩
  · rw [haarBlockOf, ← Nat.div_div_eq_div_mul, hdiv, Nat.mul_add_div (Nat.two_pow_pos l), Nat.div_eq_of_lt hk, Nat.add_zero]
  · rw [rowOf, hdiv, Nat.mul_add_mod, Nat.mod_eq_of_lt hk]

theorem place_lt {n b k ch : Nat} (hb : b < n / (32 * 2 ^ l)) (hk : k < 2 ^ l) (hch : ch < 32) :
    32 * (2 ^ l * b + k) + ch < n := by
  have hroom : 32 * 2 ^ l * (b + 1) ≤ n := (Nat.mul_le_mul_left _ hb).trans (Nat.mul_div_le n _)
  have hsize : 32 * 2 ^ l * (b + 1) = 32 * (2 ^ l * b) + 32 * 2 ^ l := by ring
  omega

end Places

/-! ## The operand worked -/

/-- Column `ch` of Haar block `b` worked where it is active. -/
def resultColumn (op : ColumnOp) (h : Hart) (o : Opnd) (sel : BitVec 2) (l b ch : Nat) : List Elem × Flags × Nat :=
  if maskBit h sel.toNat (32 * 2 ^ l * b + ch) then op.run o.tag (fpModeOf h) l (storedColumn h o l b ch)
  else (storedColumn h o l b ch, 0, 0)

section Fixed

variable {o : Opnd} (ht : tagBlock o.tag = false) (op : ColumnOp) (h : Hart) (l : Nat) (sel : BitVec 2)
include ht

theorem workedColumn_eq {b ch : Nat} (hb : b < h.vl / (32 * 2 ^ l)) (hch : ch < 32) :
    workedColumn op o.tag h.fpMode l (h.columnActive sel o.tag l (0 + b) ch) (segmentOf l (h.elems o h.vl) b) ch =
      resultColumn op h o sel l b ch := by
  rw [workedColumn, resultColumn, segColumn_segmentOf h o o.tag hb hch, columnActive_eq, ht, if_neg Bool.false_ne_true,
    Nat.zero_add, fpMode_eq]

/-- Each element comes from the column of its place. -/
theorem workColumns_elems (hvl : h.vl % (32 * 2 ^ l) = 0) {j : Nat} (hj : j < h.vl) :
    (h.workColumns op o l sel).elems[j]? =
      some ((resultColumn op h o sel l (haarBlockOf l j) (j % 32)).1.getD (rowOf l j) (zeroElem o.tag)) := by
  have hsize : 0 < 32 * 2 ^ l := Nat.mul_pos (by decide) (Nat.two_pow_pos l)
  have hblock : j / (32 * 2 ^ l) < h.vl / (32 * 2 ^ l) := block_lt l hvl hj
  rw [Hart.workColumns, workHaar_eq]
  dsimp only
  rw [getElem?_parts _ (fun b _ => workHaarBlock_elems_length ht op h.fpMode l _ _)
    (by rwa [Nat.mul_div_cancel' (Nat.dvd_of_mod_eq_zero hvl)]), workHaarBlock_elems ht _ _ _ _ _ (Nat.mod_lt j hsize),
    row_place, channel_place, workedColumn_eq ht op h l sel hblock (Nat.mod_lt j (by decide))]
  rfl

theorem workColumns_flags : (h.workColumns op o l sel).flags = allFlags ((List.range (h.vl / (32 * 2 ^ l))).map fun b =>
    allFlags ((List.range 32).map fun ch => (resultColumn op h o sel l b ch).2.1)) := by
  rw [Hart.workColumns, workHaar_eq]
  refine congrArg allFlags (List.map_congr_left fun b hb => ?_)
  dsimp only
  rw [workHaarBlock_fixed ht]
  refine congrArg allFlags (List.map_congr_left fun ch hch => ?_)
  rw [workedColumn_eq ht op h l sel (List.mem_range.mp hb) (List.mem_range.mp hch)]

theorem workColumns_zeros : (h.workColumns op o l sel).zeros = ((List.range (h.vl / (32 * 2 ^ l))).map fun b =>
    ((List.range 32).map fun ch => (resultColumn op h o sel l b ch).2.2).sum).sum := by
  rw [Hart.workColumns, workHaar_eq]
  refine congrArg List.sum (List.map_congr_left fun b hb => ?_)
  dsimp only
  rw [workHaarBlock_fixed ht]
  refine congrArg List.sum (List.map_congr_left fun ch hch => ?_)
  rw [workedColumn_eq ht op h l sel (List.mem_range.mp hb) (List.mem_range.mp hch)]

end Fixed

/-- The flags of a work that only clears coefficients. -/
theorem workColumns_flags_zero {op : ColumnOp} (hf : op.forward = false) (hi : op.inverse = false) (h : Hart) (o : Opnd)
    (l : Nat) (sel : BitVec 2) : (h.workColumns op o l sel).flags = 0 := by
  rw [Hart.workColumns, workHaar_eq]
  refine allFlags_eq_zero fun f hmem => ?_
  obtain ⟨b, -, rfl⟩ := List.mem_map.mp hmem
  exact workHaarBlock_flags hf hi _ _ _ _ _

section Blocks

variable {o : Opnd} (ht : tagBlock o.tag = true) (op : ColumnOp) (h : Hart) (l : Nat) (sel : BitVec 2)
include ht

/-- Row `k` of Haar block `b` worked. -/
def resultRow (op : ColumnOp) (h : Hart) (o : Opnd) (l b k : Nat) : List (Val × Bool) :=
  (List.range 32).map fun ch =>
    (((op.run o.tag (fpModeOf h) l (storedColumn h o l b ch)).1.getD k (zeroElem o.tag)).val o.tag (flushes h), true)

omit ht in
theorem workedRow_eq {b : Nat} (hb : b < h.vl / (32 * 2 ^ l)) (k : Nat) :
    workedRow op o.tag h.fpMode l (segmentOf l (h.elems o h.vl) b) k = resultRow op h o l b k := by
  refine List.map_congr_left fun ch hch => ?_
  rw [segColumn_segmentOf h o o.tag hb (List.mem_range.mp hch), fpMode_eq]
  rfl

theorem columnActive_block (b : Nat) :
    h.columnActive sel o.tag l b = fun _ => maskBit h sel.toNat (32 * 2 ^ l * b) := by
  funext ch
  rw [columnActive_eq, ht, if_pos rfl, Nat.add_zero]

theorem workColumns_units_length : (h.workColumns op o l sel).units.length = 2 ^ l * (h.vl / (32 * 2 ^ l)) := by
  rw [Hart.workColumns, workHaar_eq]
  dsimp only
  rw [List.length_flatMap, List.map_congr_left (g := fun _ => 2 ^ l) fun b _ => by
    rw [columnActive_block ht, workHaarBlock_units_length ht]]
  simp [Nat.mul_comm]

/-- The units of the active Haar blocks are their quantised rows. -/
theorem workColumns_units {b k : Nat} (hb : b < h.vl / (32 * 2 ^ l)) (hk : k < 2 ^ l)
    (hact : maskBit h sel.toNat (32 * 2 ^ l * b) = true) : (h.workColumns op o l sel).units[2 ^ l * b + k]? =
      some (rawOfBlock o.tag (quantiseBlock (tagSigned o.tag) (tagWidth o.tag) (resultRow op h o l b k)).1) := by
  have hplace : 2 ^ l * b + k < 2 ^ l * (h.vl / (32 * 2 ^ l)) :=
    calc 2 ^ l * b + k < 2 ^ l * (b + 1) := by rw [Nat.mul_succ]; omega
      _ ≤ _ := Nat.mul_le_mul_left _ hb
  have hdiv : (2 ^ l * b + k) / 2 ^ l = b := by
    rw [Nat.mul_add_div (Nat.two_pow_pos l), Nat.div_eq_of_lt hk, Nat.add_zero]
  have hmod : (2 ^ l * b + k) % 2 ^ l = k := by rw [Nat.mul_add_mod, Nat.mod_eq_of_lt hk]
  rw [Hart.workColumns, workHaar_eq]
  dsimp only
  rw [getElem?_parts _ (fun b _ => by rw [columnActive_block ht, workHaarBlock_units_length ht]) hplace, hdiv, hmod,
    columnActive_block ht, workHaarBlock_units ht, Nat.zero_add, hact, if_pos rfl, List.getElem?_map, List.getElem?_range hk,
    Option.map_some, workedRow_eq op h l hb]

end Blocks

end Sys2Proof.Machine
end


-- ==== Sys2Proof/Proofs/HaarSteps.lean ====
section
/-! SUPPORT. O28: what `vhaar`, `vihaar` and `vthr` write (R105, R124, R127, R159-R161). -/

namespace Sys2Proof.Machine

open Sys2Proof.Claims

/-! ## The checks -/

/-- What a Haar instruction with a vector result does to a column. -/
def haarOp (h : Hart) : Instr → ColumnOp
  | .vhaar _ _ _ _ => ⟨true, false, none⟩
  | .vihaar _ _ _ => ⟨false, true, none⟩
  | _ => ⟨false, false, some h.threshold⟩

/-- A Haar instruction works its operand, when the domain is the one that it takes. -/
theorem exec_haar {i : Instr} {vd va : BitVec 6} {m : BitVec 2} {ok : Prop} {l dom : Nat} {s : State}
    (hi : haarOf s.cur i = some (vd, va, m, ok, l, dom)) (hok : ok) : ∃ bits counts,
      exec i s = haarExec bits ⟨vd, va, m, l, haarOp s.cur i, dom, counts⟩ none s := by
  have hpass {c : Bool} (t : Trap) (hc : c = false) : failIf c t = none := by rw [failIf, hc, if_neg Bool.false_ne_true]
  unfold haarOf at hi
  split at hi <;> cases hi
  case h_1 lev =>
    refine ⟨(Instr.vhaar vd va lev m).bits.toNat, false, ?_⟩
    rw [← hpass (c := (s.cur.opnd va).dom != 0) (trapDOM s.cur 3 lev.toNat 0 0 (s.cur.opnd va).dom) (by simpa using hok)]
    rfl
  case h_2 =>
    refine ⟨(Instr.vihaar vd va m).bits.toNat, true, ?_⟩
    rw [← hpass (c := (s.cur.opnd va).dom == 0) (trapDOM s.cur 4 0 0 0 0) (by simpa using hok)]
    rfl
  case h_3 =>
    refine ⟨(Instr.vthr vd va m).bits.toNat, false, ?_⟩
    rw [← hpass (c := (s.cur.opnd va).dom == 0) (trapDOM s.cur 4 0 0 0 0) (by simpa using hok)]
    rfl

theorem tagFault_none {t : Tag} (ht : tagFamily t ∈ ifq) (bits : Nat) :
    failIf (!famIFQ.contains (tagFamily t)) (trapTAG bits) = none := by
  have htags : famIFQ.contains (tagFamily t) = true := List.contains_iff_mem.mpr ht
  rw [failIf, htags, if_neg (by decide)]

section Run

variable {p : HaarSpec} {h : Hart} {g : Nat}

theorem haarCheck_none (hh : Healthy h) (hva : VecOperand h p.va h.csr.vl.toNat) (htag : tagFamily (h.opnd p.va).tag ∈ ifq)
    (hvd : VecDest p.vd (h.opnd p.va).tag h.csr.vl.toNat g) (hvl : h.csr.vl.toNat % (32 * 2 ^ p.lev) = 0) (bits : Nat) :
    p.check bits none h = none := by
  rw [HaarSpec.check, firstTrap_eq_none]
  simp only [List.mem_cons, List.not_mem_nil, or_false, forall_eq_or_imp, forall_eq]
  refine ⟨opndCheck_of_vecOperand hva bits, ?_, destCheck_of_vecDest hvd bits, trivial, ?_, ?_⟩
  · exact tagFault_none htag bits
  · rw [failIf, Hart.vl, hvl, if_neg (by decide)]
  · rw [selPoison_of_healthy hh, readPoison_of_healthy hh]
    rfl

theorem haarRun_eq (hvd : VecDest p.vd (h.opnd p.va).tag h.csr.vl.toNat g) : ∃ n, p.run h =
    (((h.writeGroup p.vd (h.opnd p.va).tag p.dom g h.csr.vl.toNat ((h.workColumns p.op (h.opnd p.va) p.lev p.mask).result
      (h.opnd p.va).tag (h.columnMask p.mask (h.opnd p.va).tag p.lev))).addFlags
        (h.workColumns p.op (h.opnd p.va) p.lev p.mask).flags).addZcnt
          (h.workColumns p.op (h.opnd p.va) p.lev p.mask).zeros).addRcnt n := by
  refine ⟨if p.counts then elementGroups (h.opnd p.va).tag h.vl else 0, ?_⟩
  rw [HaarSpec.run, Hart.vl, hvd.1, Option.getD_some]

theorem haarRun_fcsr (hvd : VecDest p.vd (h.opnd p.va).tag h.csr.vl.toNat g) : (p.run h).csr.fcsr =
    h.csr.fcsr ||| (h.workColumns p.op (h.opnd p.va) p.lev p.mask).flags.setWidth 8 := by
  obtain ⟨n, hrun⟩ := haarRun_eq hvd
  rw [hrun, addRcnt_fcsr]
  show (Hart.addFlags _ _).csr.fcsr = _
  rw [addFlags_fcsr, writeGroup_csr]

theorem haarRun_zcnt (hvd : VecDest p.vd (h.opnd p.va).tag h.csr.vl.toNat g) : (p.run h).csr.zcnt =
    h.csr.zcnt + BitVec.ofNat 64 (h.workColumns p.op (h.opnd p.va) p.lev p.mask).zeros := by
  obtain ⟨n, hrun⟩ := haarRun_eq hvd
  rw [hrun]
  show (Hart.writeGroup ..).csr.zcnt + _ = _
  rw [writeGroup_csr]

theorem counted_v (u : Hart) (f : Flags) (z n : Nat) : (((u.addFlags f).addZcnt z).addRcnt n).v = u.v := rfl

/-- A Haar instruction completes, and writes its group, flags and counters. -/
theorem haar_steps {i : Instr} {bits : Nat} {s : State} (hexec : exec i s = haarExec bits p none s) (hh : Healthy s.cur)
    (hva : VecOperand s.cur p.va s.cur.csr.vl.toNat) (htag : tagFamily (s.cur.opnd p.va).tag ∈ ifq)
    (hvd : VecDest p.vd (s.cur.opnd p.va).tag s.cur.csr.vl.toNat g) (hvl : s.cur.csr.vl.toNat % (32 * 2 ^ p.lev) = 0) :
    VectorStep i 4 ⟨p.vd.toNat, (s.cur.opnd p.va).tag, p.dom, g⟩ s.cur.csr.vl.toNat s (p.run s.cur) := by
  rw [haarExec, haarCheck_none hh hva htag hvd hvl, finish_none] at hexec
  obtain ⟨n, hrun⟩ := haarRun_eq hvd
  refine vectorStep_of hexec ?_ ?_
  · rw [hrun]
    exact groupWritten_addRcnt (groupWritten_addZcnt (groupWritten_addFlags
      (groupWritten_writeGroup (VecDest.bound hvd).1 _ _ _ _ _) _) _) _
  · rw [hrun]
    exact vectorFrame_addRcnt (vectorFrame_addZcnt (vectorFrame_addFlags (vectorFrame_written ..) _) _) _

end Run

/-! ## Elements of the result -/

/-- Element `j` of a worked operand that is not of a block type. -/
def haarElem (op : ColumnOp) (h : Hart) (o : Opnd) (sel : BitVec 2) (l j : Nat) : Elem :=
  (resultColumn op h o sel l (haarBlockOf l j) (j % 32)).1.getD (rowOf l j) (zeroElem o.tag)

/-- Where its column is active, it is the work on that column. -/
theorem haarElem_active {op : ColumnOp} {h : Hart} {o : Opnd} {sel : BitVec 2} {l j : Nat} (hj : columnActs h sel l j = true) :
    haarElem op h o sel l j = (op.run o.tag (fpModeOf h) l (storedColumn h o l (haarBlockOf l j) (j % 32))).1.getD (rowOf l j)
      (zeroElem o.tag) := by
  unfold columnActs at hj
  rw [haarElem, resultColumn, if_pos hj]

theorem workColumns_result {h : Hart} {o : Opnd} (ht : tagBlock o.tag = false) (op : ColumnOp) (l : Nat) (sel : BitVec 2)
    (hvl : h.vl % (32 * 2 ^ l) = 0) : (h.workColumns op o l sel).result o.tag (h.columnMask sel o.tag l) =
      unitsOf h.vl (columnActs h sel l) (haarElem op h o sel l) := by
  rw [Worked.result, ht, if_neg Bool.false_ne_true, unitsOf, List.map_map]
  refine List.ext_getElem? fun j => ?_
  rcases Nat.lt_or_ge j h.vl with hj | hj
  · have hmask := columnMask_getElem? h sel o.tag l hj
    rw [ht, if_neg Bool.false_ne_true] at hmask
    have hzip : ((h.workColumns op o l sel).elems.zip (h.columnMask sel o.tag l))[j]? =
        some (haarElem op h o sel l j, columnActs h sel l j) :=
      List.getElem?_zip_eq_some.mpr ⟨workColumns_elems ht op h l sel hvl hj, hmask⟩
    rw [List.getElem?_map, hzip, List.getElem?_map, List.getElem?_range hj, Option.map_some, Option.map_some,
      Function.comp_apply]
    dsimp only
    split <;> rfl
  · rw [List.getElem?_eq_none, List.getElem?_eq_none]
    · simpa using hj
    · rw [List.length_map, List.length_zip, columnMask_length]
      omega

theorem elementsAre_haarRun {p : HaarSpec} {h : Hart} {g : Nat} (ht : Fixed (h.opnd p.va).tag)
    (hvd : VecDest p.vd (h.opnd p.va).tag h.csr.vl.toNat g) (hvl : h.csr.vl.toNat % (32 * 2 ^ p.lev) = 0) {f : Nat → Nat}
    (hf : ∀ j < h.csr.vl.toNat, columnActs h p.mask p.lev j = true →
      haarElem p.op h (h.opnd p.va) p.mask p.lev j = .raw (f j) ∧ f j < 2 ^ tagWidth (h.opnd p.va).tag) :
    ElementsAre h (p.run h) ⟨p.vd.toNat, (h.opnd p.va).tag, p.dom, g⟩ (fun j => columnActs h p.mask p.lev j = true)
      h.csr.vl.toNat f := by
  obtain ⟨n, hrun⟩ := haarRun_eq hvd
  rw [hrun, workColumns_result ht.1 p.op p.lev p.mask hvl]
  refine elementsAre_congr ?_ (counted_v _ _ _ n)
  refine elementsAre_writeGroup ht hvd h p.dom (unitsOf_length ..) _ f (fun j hj ha => ?_) fun j hj ha => ?_
  · obtain ⟨hraw, hlt⟩ := hf j hj ha
    rw [unitsOf_getD hj, if_pos ha, hraw]
    exact ⟨rfl, hlt⟩
  · rw [unitsOf_getD hj, if_neg ha]

/-- An active column of the result is the work on the stored one. -/
theorem columnOf_haarRun {p : HaarSpec} {h : Hart} {g : Nat} (ht : Fixed (h.opnd p.va).tag)
    (hvd : VecDest p.vd (h.opnd p.va).tag h.csr.vl.toNat g) (hvl : h.csr.vl.toNat % (32 * 2 ^ p.lev) = 0)
    (hop : ∀ c : List Elem, c.length = 2 ^ p.lev → Patterns (h.opnd p.va).tag c →
      (p.op.run (h.opnd p.va).tag (fpModeOf h) p.lev c).1.length = 2 ^ p.lev ∧
        Patterns (h.opnd p.va).tag (p.op.run (h.opnd p.va).tag (fpModeOf h) p.lev c).1) {b ch : Nat}
    (hb : b < h.csr.vl.toNat / (32 * 2 ^ p.lev)) (hch : ch < 32)
    (hact : maskBit h p.mask.toNat (32 * 2 ^ p.lev * b + ch) = true) :
    columnOf (p.run h) ⟨p.vd.toNat, (h.opnd p.va).tag, p.dom, g⟩ (2 ^ p.lev) b ch =
      (p.op.run (h.opnd p.va).tag (fpModeOf h) p.lev (columnOf h (h.opnd p.va) (2 ^ p.lev) b ch)).1 := by
  have hwork (b ch : Nat) := hop _ (storedColumn_length h (h.opnd p.va) p.lev b ch) (storedColumn_patterns ht h p.lev b ch)
  have hraw (b ch : Nat) {k : Nat} (hk : k < 2 ^ p.lev) : ∃ n < 2 ^ tagWidth (h.opnd p.va).tag,
      (p.op.run (h.opnd p.va).tag (fpModeOf h) p.lev (storedColumn h (h.opnd p.va) p.lev b ch)).1[k]? = some (.raw n) := by
    obtain ⟨hlen, hpat⟩ := hwork b ch
    have hget := List.getElem?_eq_getElem (hk.trans_eq hlen.symm)
    obtain ⟨n, hn, hx⟩ := hpat _ (List.mem_of_getElem? hget)
    exact ⟨n, hn, hget.trans (congrArg some hx)⟩
  have helems := elementsAre_haarRun ht hvd hvl
    (f := fun j => (haarElem p.op h (h.opnd p.va) p.mask p.lev j).bits) fun j hj ha => by
      obtain ⟨n, hn, hget⟩ := hraw (haarBlockOf p.lev j) (j % 32) (row_lt p.lev)
      rw [haarElem_active ha, List.getD_eq_getElem?_getD, hget]
      exact ⟨rfl, hn⟩
  have hunit (j : Nat) (hj : j < h.csr.vl.toNat) (ha : columnActs h p.mask p.lev j = true) :
      (p.run h).unit ⟨p.vd.toNat, (h.opnd p.va).tag, p.dom, g⟩ j = (haarElem p.op h (h.opnd p.va) p.mask p.lev j).bits :=
    (helems.1 j hj).1 ha
  rw [← storedColumn_fixed ht.1]
  refine List.ext_getElem? fun k => ?_
  rcases Nat.lt_or_ge k (2 ^ p.lev) with hk | hk
  · obtain ⟨hblock, hrow, hchan⟩ := place_of p.lev (b := b) hk hch
    have ha : columnActs h p.mask p.lev (32 * (2 ^ p.lev * b + k) + ch) = true := by rw [columnActs, hblock, hchan, hact]
    obtain ⟨n, -, hget⟩ := hraw b ch hk
    rw [columnOf, List.getElem?_map, List.getElem?_range hk, Option.map_some,
      hunit _ (place_lt p.lev hb hk hch) ha, haarElem_active ha, hblock, hrow, hchan, List.getD_eq_getElem?_getD, hget]
    rfl
  · rw [List.getElem?_eq_none (by simpa [columnOf] using hk), List.getElem?_eq_none ((hwork b ch).1.trans_le hk)]

/-! ## Rows of a block type -/

/-- The rows of an active Haar block are quantised (R45, R54). -/
theorem unit_haarRun_block {p : HaarSpec} {h : Hart} {g : Nat} (ht : tagBlock (h.opnd p.va).tag = true)
    (hvd : VecDest p.vd (h.opnd p.va).tag h.csr.vl.toNat g) (hvl : h.csr.vl.toNat % (32 * 2 ^ p.lev) = 0) {b k : Nat}
    (hb : b < h.csr.vl.toNat / (32 * 2 ^ p.lev)) (hk : k < 2 ^ p.lev)
    (hact : maskBit h p.mask.toNat (32 * 2 ^ p.lev * b) = true) :
    (p.run h).unit ⟨p.vd.toNat, (h.opnd p.va).tag, p.dom, g⟩ (2 ^ p.lev * b + k) = rawOfBlock (h.opnd p.va).tag
      (quantiseBlock (tagSigned (h.opnd p.va).tag) (tagWidth (h.opnd p.va).tag) (resultRow p.op h (h.opnd p.va) p.lev b k)).1 := by
  obtain ⟨n, hrun⟩ := haarRun_eq hvd
  have hplace := place_lt p.lev hb hk (ch := 31) (by decide)
  have hlen : ((h.workColumns p.op (h.opnd p.va) p.lev p.mask).result (h.opnd p.va).tag
      (h.columnMask p.mask (h.opnd p.va).tag p.lev)).length = (h.csr.vl.toNat + 31) / 32 := by
    have hsize : 32 * 2 ^ p.lev * (h.csr.vl.toNat / (32 * 2 ^ p.lev)) = h.csr.vl.toNat :=
      Nat.mul_div_cancel' (Nat.dvd_of_mod_eq_zero hvl)
    rw [Worked.result, if_pos ht, List.length_map, List.length_zipIdx, workColumns_units_length ht, Hart.vl]
    rw [Nat.mul_assoc] at hsize
    omega
  have hget : (((h.workColumns p.op (h.opnd p.va) p.lev p.mask).result (h.opnd p.va).tag
      (h.columnMask p.mask (h.opnd p.va).tag p.lev)).getD (2 ^ p.lev * b + k) none).map Prod.fst = some
        (rawOfBlock (h.opnd p.va).tag (quantiseBlock (tagSigned (h.opnd p.va).tag) (tagWidth (h.opnd p.va).tag)
          (resultRow p.op h (h.opnd p.va) p.lev b k)).1) := by
    have hmask : (h.columnMask p.mask (h.opnd p.va).tag p.lev).getD (32 * (2 ^ p.lev * b + k)) false = true := by
      have hblock : (32 * (2 ^ p.lev * b + k)) / (32 * 2 ^ p.lev) = b := (place_of p.lev (ch := 0) hk (by decide)).1
      rw [List.getD_eq_getElem?_getD, columnMask_getElem? h p.mask _ p.lev (by rw [Hart.vl]; omega), ht, if_pos rfl, hblock,
        Nat.add_zero, hact]
      rfl
    rw [Worked.result, if_pos ht, List.getD_eq_getElem?_getD, List.getElem?_map, List.getElem?_zipIdx,
      workColumns_units ht p.op h p.lev p.mask hb hk hact]
    simp only [Option.map_some, Nat.zero_add, hmask, if_true, Option.getD_some]
  have hms : (quantiseBlock (tagSigned (h.opnd p.va).tag) (tagWidth (h.opnd p.va).tag)
      (resultRow p.op h (h.opnd p.va) p.lev b k)).1.ms.length = 32 := by
    rw [quantiseBlock_length, resultRow, List.length_map, List.length_range]
  have hge := le_newLen h ⟨p.vd.toNat, (h.opnd p.va).tag, p.dom, g⟩ h.csr.vl.toNat
  have hunits : 2 ^ p.lev * b + k < (h.csr.vl.toNat + 31) / 32 := by omega
  rw [hrun, unit_addRcnt, unit_addZcnt, unit_addFlags,
    unit_writeGroup_block ht (VecDest.bound hvd).1 h hlen (block_room ht hvd hunits) hunits, Hart.writtenBlock, hget,
    Option.getD_some, Nat.mod_eq_of_lt (rawOfBlock_lt ht hms), clipBlock_full _ _ (by omega)]

end Sys2Proof.Machine
end


-- ==== Sys2Proof/Proofs/HaarThresholds.lean ====
section
/-! SUPPORT. O28: `Threshold` of R157 on the elements of an operand, what it counts, and the elements that read as zero
(R162). -/

namespace Sys2Proof.Machine

open Sys2Proof.Claims

/-! ## Coefficients -/

theorem threshold_eq (h : Hart) (lev : Nat) : h.threshold lev = thresholdOf h lev := by
  unfold Hart.threshold thresholdOf magnitude
  rfl

theorem haarMag_raw {t : Tag} (ht : tagFamily t = .int ∨ tagFamily t = .float) (n : Nat) :
    haarMag t (.raw n) = patternMag t n := by
  unfold haarMag patternMag
  rcases ht with ht | ht
  · rw [ht, if_pos rfl]
    rfl
  · rw [ht, if_neg (by decide)]
    unfold Elem.val
    rw [ht]
    rfl

theorem haarMag_exact {t : Tag} (ht : tagFamily t = .block) (v : Val) : haarMag t (.exact v) = magnitude v := by
  unfold haarMag
  rw [ht]
  rfl

/-- A coefficient is cleared where the statements say so. -/
theorem cleared_eq (h : Hart) (t : Tag) (l k : Nat) (x : Elem) :
    cleared t h.threshold l k x = clears h l k (haarMag t x) := by
  rw [cleared, clears, threshold_eq, Val.lt, rowLevel]
  by_cases hk : k = 0 <;> simp [hk]

theorem intOf_eq_zero {t : Tag} {n : Nat} (hn : n < 2 ^ tagWidth t) : intOf t n = 0 ↔ n = 0 := by
  have hpos := Nat.two_pow_pos (tagWidth t - 1)
  unfold intOf signedOf
  rw [Nat.mod_eq_of_lt hn]
  split
  · split <;> omega
  · omega

/-- A float pattern stands for zero when its bits below the sign are zero. -/
theorem decode_zero {f : FloatFmt} (hf : Standard f) (n : Nat) :
    (match f.decode false n with | .num _ m _ => m == 0 | _ => false) = (n % 2 ^ (f.ebits + f.prec - 1) == 0) := by
  have hprec := hf.two_le_prec
  have hsplit : n % 2 ^ (f.ebits + f.prec - 1) =
      n % 2 ^ (f.prec - 1) + 2 ^ (f.prec - 1) * bitsAt n (f.prec - 1) f.ebits := by
    rw [show f.ebits + f.prec - 1 = f.prec - 1 + f.ebits by omega, pow_add, Nat.mod_mul, bitsAt]
  have hpos := Nat.two_pow_pos (f.prec - 1)
  have hmax := Nat.pow_le_pow_right two_pos hf.two_le_ebits
  have hne {ex : Nat} (hex : ex ≠ 0) : (n % 2 ^ (f.prec - 1) + 2 ^ (f.prec - 1) * ex == 0) = false := by
    have := Nat.mul_pos hpos (Nat.pos_of_ne_zero hex)
    exact beq_eq_false_iff_ne.mpr (by omega)
  rw [FloatFmt.decode, hsplit]
  by_cases hex : bitsAt n (f.prec - 1) f.ebits = 2 ^ f.ebits - 1
  · rw [if_pos hex, hne (by omega)]
    by_cases hfrac : n % 2 ^ (f.prec - 1) = 0
    · rw [if_pos hfrac]
    · rw [if_neg hfrac]
  · rw [if_neg hex]
    by_cases h0 : bitsAt n (f.prec - 1) f.ebits = 0
    · rw [if_pos h0, h0, if_neg Bool.false_ne_true, Nat.mul_zero, Nat.add_zero]
    · rw [if_neg h0, hne h0]
      exact beq_eq_false_iff_ne.mpr (by omega)

/-- A stored element reads as zero where the statements say so. -/
theorem elemZero_raw {t : Tag} (ht : tagFamily t = .int ∨ tagFamily t = .float) {n : Nat} (hn : n < 2 ^ tagWidth t) :
    elemZero t (.raw n) = readsZero t n := by
  unfold elemZero readsZero Elem.val
  rcases ht with ht | ht
  · rw [ht, if_neg (by decide)]
    have hzero := intOf_eq_zero hn
    rw [Bool.eq_iff_iff]
    simp only [Val.ofInt, beq_iff_eq, Int.natAbs_eq_zero]
    exact hzero
  · obtain ⟨hstd, hwidth, -⟩ := float_tag ht
    rw [ht, if_pos rfl, hwidth]
    exact decode_zero hstd n

/-! ## Sums over the places of an operand -/

theorem length_filter_eq_sum {α : Type} (q : α → Bool) (l : List α) :
    (l.filter q).length = (l.map fun x => bit (q x)).sum := by
  induction l with
  | nil => rfl
  | cons x l ih =>
    rw [List.filter_cons, List.map_cons, List.sum_cons, ← ih]
    cases q x
    · exact (Nat.zero_add _).symm
    · exact Nat.add_comm ..

/-- A sum part by part. -/
theorem sum_parts (F : Nat → Nat) (m n : Nat) : ((List.range (m * n)).map F).sum =
    ((List.range n).map fun b => ((List.range m).map fun j => F (m * b + j)).sum).sum := by
  induction n with
  | zero => rfl
  | succ n ih =>
    rw [Nat.mul_succ, List.range_add, List.map_append, List.sum_append, ih, List.range_succ, List.map_append, List.sum_append,
      List.map_map, List.map_singleton, List.sum_singleton]
    rfl

/-- Two sums in either order. -/
theorem sum_swap {α β : Type} (F : α → β → Nat) (as : List α) (bs : List β) :
    (as.map fun a => (bs.map fun b => F a b).sum).sum = (bs.map fun b => (as.map fun a => F a b).sum).sum := by
  induction as with
  | nil => simp
  | cons a as ih => simp only [List.map_cons, List.sum_cons, ih, List.sum_map_add]

/-- A sum over the elements of an operand, Haar block by Haar block and column by column. -/
theorem sum_columns (F : Nat → Nat) (l : Nat) {n : Nat} (hn : n % (32 * 2 ^ l) = 0) : ((List.range n).map F).sum =
    ((List.range (n / (32 * 2 ^ l))).map fun b => ((List.range 32).map fun ch =>
      ((List.range (2 ^ l)).map fun k => F (32 * (2 ^ l * b + k) + ch)).sum).sum).sum := by
  conv_lhs => rw [← Nat.mul_div_cancel' (Nat.dvd_of_mod_eq_zero hn), sum_parts]
  refine congrArg List.sum (List.map_congr_left fun b _ => ?_)
  rw [sum_parts (fun j => F (32 * 2 ^ l * b + j)), sum_swap]
  refine congrArg List.sum (List.map_congr_left fun ch _ => congrArg List.sum (List.map_congr_left fun k _ => ?_))
  congr 1
  ring

/-! ## Thresholds on an operand -/

section Fixed

variable {h : Hart} {o : Opnd} (ht : tagFamily o.tag = .int ∨ tagFamily o.tag = .float) (l : Nat) (sel : BitVec 2)
include ht

/-- Whether `Threshold` clears element `j` of an operand. -/
def goneAt (h : Hart) (o : Opnd) (l j : Nat) : Bool := clears h l (rowOf l j) (patternMag o.tag (h.unit o j))

theorem fixed_of_number : Fixed o.tag := fixed_of_family (ht.imp_right .inl)

theorem cleared_storedElem (k j : Nat) : cleared o.tag h.threshold l k (storedElem h o j) =
    clears h l k (patternMag o.tag (h.unit o j)) := by
  rw [cleared_eq, storedElem_fixed (fixed_of_number ht).1, haarMag_raw ht]

/-- Element `j` of an operand after `Threshold`. -/
theorem haarElem_threshold {j : Nat} (hj : columnActs h sel l j = true) :
    haarElem ⟨false, false, some h.threshold⟩ h o sel l j = .raw (if goneAt h o l j then 0 else h.unit o j) := by
  have hrow := row_lt l (j := j)
  have hrun : ((ColumnOp.mk false false (some h.threshold)).run o.tag (fpModeOf h) l
      (storedColumn h o l (haarBlockOf l j) (j % 32))).1 =
      (haarThreshold o.tag h.threshold l (storedColumn h o l (haarBlockOf l j) (j % 32))).1 := rfl
  have hget : (storedColumn h o l (haarBlockOf l j) (j % 32))[rowOf l j]? = some (storedElem h o j) := by
    rw [storedColumn, List.getElem?_map, List.getElem?_range hrow, Option.map_some, place_eq]
  have hzero : zeroElem o.tag = .raw 0 := by rw [zeroElem, (fixed_of_number ht).1, if_neg Bool.false_ne_true]
  rw [haarElem_active hj, hrun, List.getD_eq_getElem?_getD, haarThreshold_getElem?, hget, Option.map_some, Option.getD_some,
    cleared_storedElem ht, hzero, storedElem_fixed (fixed_of_number ht).1, goneAt]
  split <;> rfl

/-- `Threshold` counts the elements of active columns that it clears and that did not read as zero. -/
theorem zeros_threshold (hvl : h.vl % (32 * 2 ^ l) = 0) :
    (h.workColumns ⟨false, false, some h.threshold⟩ o l sel).zeros = ((List.range h.vl).filter fun j =>
      columnActs h sel l j && goneAt h o l j && !readsZero o.tag (h.unit o j)).length := by
  rw [workColumns_zeros (fixed_of_number ht).1, length_filter_eq_sum, sum_columns _ l hvl]
  refine congrArg List.sum (List.map_congr_left fun b _ => congrArg List.sum (List.map_congr_left fun ch hch => ?_))
  have hch := List.mem_range.mp hch
  have hplace {k : Nat} (hk : k ∈ List.range (2 ^ l)) := place_of l (b := b) (List.mem_range.mp hk) hch
  have hacts {k : Nat} (hk : k ∈ List.range (2 ^ l)) :
      columnActs h sel l (32 * (2 ^ l * b + k) + ch) = maskBit h sel.toNat (32 * 2 ^ l * b + ch) := by
    obtain ⟨hblock, -, hchan⟩ := hplace hk
    rw [columnActs, hblock, hchan]
  unfold resultColumn
  cases hact : maskBit h sel.toNat (32 * 2 ^ l * b + ch) with
  | false =>
    rw [List.map_congr_left (g := fun _ => 0) fun k hk => by rw [hacts hk, hact]; rfl]
    simp
  | true =>
    have hcount : ((ColumnOp.mk false false (some h.threshold)).run o.tag (fpModeOf h) l (storedColumn h o l b ch)).2.2 =
        (haarThreshold o.tag h.threshold l (storedColumn h o l b ch)).2 := rfl
    rw [if_pos rfl, hcount, haarThreshold_count, storedColumn_length]
    refine congrArg List.sum (List.map_congr_left fun k hk => congrArg bit ?_)
    obtain ⟨-, hrow, -⟩ := hplace hk
    rw [storedColumn_getD h o l b ch (List.mem_range.mp hk), cleared_storedElem ht, storedElem_fixed (fixed_of_number ht).1,
      elemZero_raw ht (unit_lt (fixed_of_number ht) h _ _ _ _), hacts hk, hact, Bool.true_and, goneAt, hrow]

end Fixed

/-- A row of a block type after `Threshold`. -/
theorem resultRow_threshold {h : Hart} {o : Opnd} (ht : tagFamily o.tag = .block) (l b : Nat) {k : Nat} (hk : k < 2 ^ l) :
    resultRow ⟨false, false, some h.threshold⟩ h o l b k = ((List.range 32).map fun ch =>
      let v := blockElem h o (32 * (2 ^ l * b + k) + ch)
      if clears h l k (magnitude v) then .num false 0 0 else v).map fun v => (v, true) := by
  have hblock : tagBlock o.tag = true := by simp [tagBlock, ht]
  rw [resultRow, List.map_map]
  refine List.map_congr_left fun ch _ => Prod.ext ?_ rfl
  have hrun : ((ColumnOp.mk false false (some h.threshold)).run o.tag (fpModeOf h) l (storedColumn h o l b ch)).1 =
      (haarThreshold o.tag h.threshold l (storedColumn h o l b ch)).1 := rfl
  have hget : (storedColumn h o l b ch)[k]? = some (.exact (blockElem h o (32 * (2 ^ l * b + k) + ch))) := by
    rw [storedColumn, List.getElem?_map, List.getElem?_range hk, Option.map_some, storedElem_block hblock]
  have hzero : zeroElem o.tag = .exact (.num false 0 0) := by rw [zeroElem, hblock, if_pos rfl]
  dsimp only [Function.comp_apply]
  rw [hrun, List.getD_eq_getElem?_getD, haarThreshold_getElem?, hget, Option.map_some, Option.getD_some, cleared_eq,
    haarMag_exact ht, hzero]
  split <;> rfl

end Sys2Proof.Machine
end


-- ==== Sys2Proof/Proofs/HaarReports.lean ====
section
/-! SUPPORT. O28: a mask result (R125) and the reports of `vsig` and `vdom` (R162, R163). -/

namespace Sys2Proof.Machine

open Sys2Proof.Claims

/-! ## Mask results (R125) -/

/-- Bits added one by one. -/
theorem testBit_addedBits (f : Nat → Bool) (n i : Nat) :
    ((List.range n).foldl (fun a k => a + bit (f k) * 2 ^ k) 0).testBit i = (decide (i < n) && f i) := by
  induction n generalizing i with
  | zero => simp
  | succ n ih =>
    have hbit : bit (f n) < 2 ∧ decide (bit (f n) = 1) = f n := by cases f n <;> decide
    rw [List.range_succ, List.foldl_append, List.foldl_cons, List.foldl_nil, testBit_add_bit _ hbit.1 (by rw [ih]; simp), ih,
      hbit.2]
    rcases Nat.lt_trichotomy i n with hi | rfl | hi
    · simp [hi, hi.ne, hi.trans (Nat.lt_succ_self n)]
    · simp
    · simp [hi.ne', hi.not_gt, Nat.not_lt.mpr (Nat.succ_le_of_lt hi)]

/-- A bit of a mask result: a result, or what is kept. -/
def maskedBit (h : Hart) (md : BitVec 3) (res : List (Option Bool)) (i : Nat) : Bool :=
  (res.getD i none).getD (!h.csr.mp && (h.m.getD md.toNat .reset).bits.getLsbD i)

theorem bitAt_toNat {w : Nat} (b : BitVec w) (i : Nat) : bitAt b.toNat i = b.getLsbD i := by
  rw [bitAt, BitVec.getLsbD, Nat.testBit_eq_decide_div_mod_eq]
  exact Bool.beq_eq_decide_eq _ _

/-- The bits of a mask that is written. -/
theorem writeMaskBits_getLsbD (h : Hart) {md : BitVec 3} (hmd : md ≠ 0) (res : List (Option Bool)) {i : Nat} (hi : i < 16384) :
    ((h.writeMaskBits md res).m.getD md.toNat .reset).bits.getLsbD i =
      if i < res.length then maskedBit h md res i else !h.csr.tp && (h.m.getD md.toNat .reset).bits.getLsbD i := by
  have hne : md.toNat ≠ 0 := fun h => hmd (BitVec.eq_of_toNat_eq h)
  have hlow : (res.zipIdx.foldl (fun a (x : Option Bool × Nat) =>
      a + bit (x.1.getD (!h.csr.mp && bitAt (h.m.getD md.toNat .reset).bits.toNat x.2)) * 2 ^ x.2) 0) =
      (List.range res.length).foldl (fun a k => a + bit (maskedBit h md res k) * 2 ^ k) 0 := by
    rw [zipIdx_eq_range res none, List.foldl_map]
    simp only [maskedBit, bitAt_toNat]
  have hlt : (List.range res.length).foldl (fun a k => a + bit (maskedBit h md res k) * 2 ^ k) 0 < 2 ^ res.length :=
    Nat.lt_pow_two_of_testBit _ fun k hk => by rw [testBit_addedBits, decide_eq_false (by omega), Bool.false_and]
  rw [Hart.writeMaskBits, Hart.setMask, if_neg hne]
  dsimp only
  rw [getD_setIfInBounds _ _ _ md.isLt, if_pos rfl, BitVec.getLsbD_ofNat, decide_eq_true hi, Bool.true_and, hlow]
  cases h.csr.tp with
  | true =>
    rw [if_pos rfl, Nat.add_zero, testBit_addedBits]
    by_cases hin : i < res.length <;> simp [hin]
  | false =>
    rw [if_neg Bool.false_ne_true, Nat.add_comm, Nat.mul_comm, Nat.testBit_two_pow_mul_add _ hlt, testBit_addedBits,
      Nat.testBit_div_two_pow]
    by_cases hin : i < res.length
    · simp [hin]
    · rw [if_neg hin, if_neg hin, Nat.sub_add_cancel (by omega)]
      rfl

/-- A mask result, bit by bit. -/
theorem maskIs_writeMaskBits {h : Hart} {md : BitVec 3} (hmd : md ≠ 0) {res : List (Option Bool)}
    (hlen : res.length = h.csr.vl.toNat) {act : Nat → Prop} {f : Nat → Bool}
    (hact : ∀ i < h.csr.vl.toNat, i < 16384 → act i → res.getD i none = some (f i))
    (hno : ∀ i < h.csr.vl.toNat, i < 16384 → ¬act i → res.getD i none = none) :
    MaskIs h (h.writeMaskBits md res) md act f := by
  intro i hi new
  have hbit : new = _ := writeMaskBits_getLsbD h hmd res hi
  rw [hlen] at hbit
  refine ⟨fun hin ha => ?_, fun hin ha => ?_, fun hout => ?_⟩
  · rw [hbit, if_pos hin, maskedBit, hact i hin hi ha, Option.getD_some]
  · rw [hbit, if_pos hin, maskedBit, hno i hin hi ha, Option.getD_none]
  · rw [hbit, if_neg (by omega)]

/-- A mask result writes its mask only. -/
theorem maskFrame_writeMaskBits (h : Hart) (md : BitVec 3) (res : List (Option Bool)) :
    MaskFrame md h (h.writeMaskBits md res) ∧ (h.writeMaskBits md res).csr = h.csr ∧
      (h.writeMaskBits md res).pc = h.pc ∧ (h.writeMaskBits md res).core = h.core := by
  rw [Hart.writeMaskBits, Hart.setMask]
  split
  next => exact ⟨⟨rfl, fun _ _ => rfl, BitVec.or_self, rfl⟩, rfl, rfl, rfl⟩
  next => exact ⟨⟨rfl, fun k hk => by rw [getD_setIfInBounds _ _ _ md.isLt, if_neg hk], BitVec.or_self, rfl⟩, rfl, rfl, rfl⟩

theorem maskFault_none {h : Hart} (hh : Healthy h) (k : Nat) : h.maskFault k = none := by
  obtain ⟨-, -, -, hxfers, -⟩ := hh
  rw [Hart.maskFault, Hart.copyFault, List.find?_eq_none.mpr fun x hx => by simp [hxfers x hx], Option.bind_none]

/-! ## `vsig` (R162) -/

section Reports

variable {s : State} {va : BitVec 6} (hh : Healthy s.cur) (hva : VecOperand s.cur va s.cur.csr.vl.toNat)
  (htag : tagFamily (s.cur.opnd va).tag ∈ ifq)
include hh hva htag

/-- What `vsig` reports of each element. -/
def significant (h : Hart) (o : Opnd) (m : BitVec 2) : List (Option Bool) :=
  ((h.elems o h.vl).zip (h.active m h.vl)).map fun (x, a) => if a then some (!elemZero o.tag x) else none

omit hh hva htag in
theorem significant_length (h : Hart) (o : Opnd) (m : BitVec 2) : (significant h o m).length = h.vl := by
  rw [significant, List.length_map, List.length_zip, active_length, elems_length, Nat.min_self]

omit hh hva htag in
theorem significant_getD (h : Hart) (o : Opnd) (m : BitVec 2) {k : Nat} (hk : k < h.vl) :
    (significant h o m).getD k none = if maskBit h m.toNat k then some (!elemZero o.tag (storedElem h o k)) else none := by
  have hact : (h.active m h.vl)[k]? = some (maskBit h m.toNat k) := by
    have hget := active_getD h m hk
    have hlen : k < (h.active m h.vl).length := by rwa [active_length]
    rw [List.getD_eq_getElem?_getD, List.getElem?_eq_getElem hlen, Option.getD_some] at hget
    rw [List.getElem?_eq_getElem hlen, hget]
  have hzip : ((h.elems o h.vl).zip (h.active m h.vl))[k]? = some (storedElem h o k, maskBit h m.toNat k) :=
    List.getElem?_zip_eq_some.mpr ⟨elems_getElem? h o hk, hact⟩
  rw [significant, List.getD_eq_getElem?_getD, List.getElem?_map, hzip]
  rfl

/-- `vsig` writes its mask. -/
theorem exec_vsig {md : BitVec 3} (hmd : md ≠ 0) (m : BitVec 2) : exec (.vsig md va m) s =
    .next (retire 4 (s.setCur (s.cur.writeMaskBits md (significant s.cur (s.cur.opnd va) m)))) := by
  have hnz : failIf (md == 0) (trapILL (Instr.vsig md va m).bits.toNat) = none := by
    rw [failIf, beq_eq_false_iff_ne.mpr hmd, if_neg Bool.false_ne_true]
  have hchecks : firstTrap [failIf (md == 0) (trapILL (Instr.vsig md va m).bits.toNat),
      s.cur.opndCheck (Instr.vsig md va m).bits.toNat va s.cur.vl,
      failIf (!famIFQ.contains (tagFamily (s.cur.opnd va).tag)) (trapTAG (Instr.vsig md va m).bits.toNat),
      poisonTrap (s.cur.selPoison m s.cur.vl ++ s.cur.readPoison (s.cur.opnd va) (s.cur.active m s.cur.vl)),
      s.cur.maskFault md.toNat] = none := by
    have hopnd : s.cur.opndCheck (Instr.vsig md va m).bits.toNat va s.cur.vl = none := opndCheck_of_vecOperand hva _
    rw [hnz, hopnd, tagFault_none htag, selPoison_of_healthy hh, readPoison_of_healthy hh,
      maskFault_none hh]
    rfl
  have hexec : exec (.vsig md va m) s = execVsig md va m s := rfl
  rw [hexec, execVsig]
  dsimp only
  rw [hchecks]
  rfl

theorem vsig_reports {md : BitVec 3} (hmd : md ≠ 0) (m : BitVec 2) :
    ∃ u h', exec (.vsig md va m) s = .next u ∧ Retires 4 h' s u ∧ MaskFrame md s.cur h' ∧ h'.csr = s.cur.csr ∧
      (tagFamily (s.cur.opnd va).tag ≠ .block → MaskIs s.cur h' md (Active s.cur m) fun k =>
        !readsZero (s.cur.opnd va).tag (s.cur.unit (s.cur.opnd va) k)) := by
  obtain ⟨hframe, hcsr, hpc, hcore⟩ := maskFrame_writeMaskBits s.cur md (significant s.cur (s.cur.opnd va) m)
  refine ⟨_, _, exec_vsig hh hva htag hmd m, retires_retire 4 _ rfl hpc hcore, hframe, hcsr, fun hfam => ?_⟩
  have ht : tagFamily (s.cur.opnd va).tag = .int ∨ tagFamily (s.cur.opnd va).tag = .float := by
    simpa [ifq, hfam] using htag
  have hfixed := fixed_of_number ht
  refine maskIs_writeMaskBits hmd (significant_length ..) (fun k hk hmax ha => ?_) fun k hk hmax ha => ?_
  · rw [significant_getD _ _ _ hk, if_pos ((active_iff s.cur m hmax).mp ha), storedElem_fixed hfixed.1,
      elemZero_raw ht (unit_lt hfixed s.cur _ _ _ _)]
  · rw [significant_getD _ _ _ hk, if_neg fun hbit => ha ((active_iff s.cur m hmax).mpr hbit)]

/-! ## `vdom` (R163) -/

omit hh hva htag in
/-- The rows of zeros, counted. -/
theorem zeroRows_eq (t : Tag) (n : Nat) (xs : List Elem) : zeroRows t n xs =
    ((List.range n).filter fun r => ((xs.drop (32 * r)).take 32).all (elemZero t)).length := by
  rw [length_filter_eq_sum]
  induction n generalizing xs with
  | zero => rfl
  | succ n ih =>
    rw [zeroRows, ih, List.range_succ_eq_map, List.map_cons, List.sum_cons, List.map_map]
    refine congrArg₂ _ (by rw [Nat.mul_zero, List.drop_zero]) (congrArg List.sum (List.map_congr_left fun r _ => ?_))
    rw [Function.comp_apply, List.drop_drop, show 32 + 32 * r = 32 * r.succ by omega]

/-- `vdom` writes its report. -/
theorem exec_vdom (hvl : s.cur.csr.vl.toNat % 32 = 0) (xd : BitVec 5) : exec (.vdom xd va) s = .next (retire 4 (s.writeX xd
    (BitVec.ofNat 64 (zeroRows (s.cur.opnd va).tag (s.cur.csr.vl.toNat / 32) (s.cur.elems (s.cur.opnd va) s.cur.csr.vl.toNat) *
      2 ^ 32 + (s.cur.opnd va).dom)))) := by
  have hlen : failIf (s.cur.vl % 32 != 0) (trapILL (Instr.vdom xd va).bits.toNat) = none := by
    rw [failIf, Hart.vl, hvl, if_neg (by decide)]
  have hchecks : firstTrap [s.cur.opndCheck (Instr.vdom xd va).bits.toNat va s.cur.vl,
      failIf (!famIFQ.contains (tagFamily (s.cur.opnd va).tag)) (trapTAG (Instr.vdom xd va).bits.toNat),
      failIf (s.cur.vl % 32 != 0) (trapILL (Instr.vdom xd va).bits.toNat),
      poisonTrap (s.cur.readPoison (s.cur.opnd va) (List.replicate s.cur.vl true))] = none := by
    have hopnd : s.cur.opndCheck (Instr.vdom xd va).bits.toNat va s.cur.vl = none := opndCheck_of_vecOperand hva _
    rw [hlen, hopnd, tagFault_none htag, readPoison_of_healthy hh]
    rfl
  have hexec : exec (.vdom xd va) s = execVdom xd va s := rfl
  rw [hexec, execVdom, hchecks]
  rfl

theorem vdom_reports (hvl : s.cur.csr.vl.toNat % 32 = 0) (xd : BitVec 5) : ∃ u n, exec (.vdom xd va) s = .next u ∧
    ScalarStep 4 xd (BitVec.ofNat 64 (n * 2 ^ 32 + (s.cur.opnd va).dom)) s u ∧
    (tagFamily (s.cur.opnd va).tag ≠ .block → n = ((List.range (s.cur.csr.vl.toNat / 32)).filter fun r =>
      (List.range 32).all fun ch =>
        readsZero (s.cur.opnd va).tag (s.cur.unit (s.cur.opnd va) (32 * r + ch))).length) := by
  refine ⟨_, _, exec_vdom hh hva htag hvl xd, scalarStep_retire_writeX 4 xd _ s, fun hfam => ?_⟩
  have ht : tagFamily (s.cur.opnd va).tag = .int ∨ tagFamily (s.cur.opnd va).tag = .float := by
    simpa [ifq, hfam] using htag
  have hfixed := fixed_of_number ht
  rw [zeroRows_eq]
  refine congrArg List.length (List.filter_congr fun r hr => ?_)
  have hr := List.mem_range.mp hr
  rw [elems_slice s.cur (s.cur.opnd va) (by omega : 32 * r + 32 ≤ s.cur.csr.vl.toNat), List.all_map]
  congr 1
  funext ch
  rw [Function.comp_apply, storedElem_fixed hfixed.1, elemZero_raw ht (unit_lt hfixed s.cur _ _ _ _)]

end Reports

end Sys2Proof.Machine
end


-- ==== Sys2Proof/Proofs/HaarInstructions.lean ====
section
/-! PROOF. O28: Haar transforms, thresholds and reports (R45, R54, R152, R157, R159-R163). -/

namespace Sys2Proof.Machine

open Sys2Proof.Claims

/-! ## The transforms -/

section Work

variable {h : Hart} {t : Tag} {l : Nat} {i : Instr} {work : List Elem → List Elem} (hi : columnWork h t l i = some work)
include hi

/-- A transform works each column as the statement says. -/
theorem haarOp_run (c : List Elem) : ((haarOp h i).run t (fpModeOf h) l c).1 = work c := by
  unfold columnWork at hi
  split at hi <;> cases hi <;> rfl

theorem work_length {c : List Elem} (hc : c.length = 2 ^ l) : (work c).length = 2 ^ l := by
  unfold columnWork at hi
  split at hi <;> cases hi
  · exact haarForward_length t _ hc
  · exact haarInverse_length t _ hc

theorem work_patterns (ht : tagFamily t = .int ∨ tagFamily t = .float) {c : List Elem} (hc : c.length = 2 ^ l)
    (hp : Patterns t c) : Patterns t (work c) := by
  unfold columnWork at hi
  split at hi <;> cases hi
  · exact haarForward_patterns ht _ hc hp
  · exact haarInverse_patterns ht _ hc hp

/-- An integer transform raises no flag (R54). -/
theorem haarOp_flags (ht : tagFamily t = .int) (c : List Elem) : ((haarOp h i).run t (fpModeOf h) l c).2.1 = 0 := by
  unfold columnWork at hi
  split at hi <;> cases hi
  · exact haarForward_flags ht _ l c
  · exact haarInverse_flags ht _ l c

theorem workColumns_flags_int {o : Opnd} (ho : o.tag = t) (ht : tagFamily t = .int) (sel : BitVec 2) :
    (h.workColumns (haarOp h i) o l sel).flags = 0 := by
  subst ho
  rw [workColumns_flags (fixed_of_family (.inl ht)).1]
  refine allFlags_eq_zero fun f hf => ?_
  obtain ⟨b, -, rfl⟩ := List.mem_map.mp hf
  refine allFlags_eq_zero fun f hf => ?_
  obtain ⟨ch, -, rfl⟩ := List.mem_map.mp hf
  rw [resultColumn]
  split
  · exact haarOp_flags hi ht _
  · rfl

/-- A row of a transform of a block type. -/
theorem resultRow_work {o : Opnd} (ho : o.tag = t) (ht : tagBlock t = true) (b : Nat) {k : Nat} (hk : k < 2 ^ l) :
    resultRow (haarOp h i) h o l b k = ((List.range 32).map fun ch =>
      ((work (columnExact h o (2 ^ l) b ch)).getD k (.raw 0)).val o.tag (flushes h)).map fun v => (v, true) := by
  subst ho
  rw [resultRow, List.map_map]
  refine List.map_congr_left fun ch _ => ?_
  have hlen : k < (work (columnExact h o (2 ^ l) b ch)).length := by
    rw [← storedColumn_block ht, work_length hi (storedColumn_length ..)]
    exact hk
  rw [haarOp_run hi, storedColumn_block ht, List.getD_eq_getElem?_getD, List.getElem?_eq_getElem hlen, Function.comp_apply,
    List.getD_eq_getElem?_getD, List.getElem?_eq_getElem hlen]
  rfl

end Work

section Steps

variable {p : HaarSpec} {h : Hart} {g : Nat} (htag : tagFamily (h.opnd p.va).tag ∈ ifq)
  (hvd : VecDest p.vd (h.opnd p.va).tag h.csr.vl.toNat g) (hvl : h.csr.vl.toNat % (32 * 2 ^ p.lev) = 0)
include htag hvd hvl

/-- What a transform writes. -/
theorem haarRun_work {i : Instr} (hop : p.op = haarOp h i) {work : List Elem → List Elem}
    (hi : columnWork h (h.opnd p.va).tag p.lev i = some work) :
    (tagFamily (h.opnd p.va).tag = .int → (p.run h).csr.fcsr = h.csr.fcsr) ∧
    (tagFamily (h.opnd p.va).tag ≠ .block → ∀ b ch, b < h.csr.vl.toNat / (32 * 2 ^ p.lev) → ch < 32 →
      maskBit h p.mask.toNat (32 * 2 ^ p.lev * b + ch) = true →
      columnOf (p.run h) ⟨p.vd.toNat, (h.opnd p.va).tag, p.dom, g⟩ (2 ^ p.lev) b ch =
        work (columnOf h (h.opnd p.va) (2 ^ p.lev) b ch)) ∧
    (tagFamily (h.opnd p.va).tag = .block →
      HaarRows h (p.run h) ⟨p.vd.toNat, (h.opnd p.va).tag, p.dom, g⟩ p.mask p.lev fun b k => (List.range 32).map fun ch =>
        ((work (columnExact h (h.opnd p.va) (2 ^ p.lev) b ch)).getD k (.raw 0)).val (h.opnd p.va).tag (flushes h)) := by
  refine ⟨fun hint => ?_, fun hfam b ch hb hch hact => ?_, fun hfam b k hb hk hact => ?_⟩
  · rw [haarRun_fcsr hvd, hop, workColumns_flags_int hi rfl hint]
    exact BitVec.or_zero
  · have ht : tagFamily (h.opnd p.va).tag = .int ∨ tagFamily (h.opnd p.va).tag = .float := by simpa [ifq, hfam] using htag
    rw [columnOf_haarRun (fixed_of_number ht) hvd hvl (fun c hc hp => ?_) hb hch hact, hop, haarOp_run hi]
    rw [hop, haarOp_run hi]
    exact ⟨work_length hi hc, work_patterns hi ht hc hp⟩
  · have ht : tagBlock (h.opnd p.va).tag = true := by simp [tagBlock, hfam]
    rw [unit_haarRun_block ht hvd hvl hb hk hact, hop, resultRow_work hi rfl ht b hk]

/-- What `vthr` writes. -/
theorem haarRun_threshold (hop : p.op = ⟨false, false, some h.threshold⟩) :
    (p.run h).csr.fcsr = h.csr.fcsr ∧
    (tagFamily (h.opnd p.va).tag ≠ .block →
      ElementsAre h (p.run h) ⟨p.vd.toNat, (h.opnd p.va).tag, p.dom, g⟩ (fun j => columnActs h p.mask p.lev j = true)
        h.csr.vl.toNat (fun j => if goneAt h (h.opnd p.va) p.lev j then 0 else h.unit (h.opnd p.va) j) ∧
      (p.run h).csr.zcnt = h.csr.zcnt + BitVec.ofNat 64 (((List.range h.csr.vl.toNat).filter fun j =>
        columnActs h p.mask p.lev j && goneAt h (h.opnd p.va) p.lev j &&
          !readsZero (h.opnd p.va).tag (h.unit (h.opnd p.va) j)).length)) ∧
    (tagFamily (h.opnd p.va).tag = .block →
      HaarRows h (p.run h) ⟨p.vd.toNat, (h.opnd p.va).tag, p.dom, g⟩ p.mask p.lev fun b k => (List.range 32).map fun ch =>
        let v := blockElem h (h.opnd p.va) (32 * (2 ^ p.lev * b + k) + ch)
        if clears h p.lev k (magnitude v) then .num false 0 0 else v) := by
  refine ⟨?_, fun hfam => ?_, fun hfam b k hb hk hact => ?_⟩
  · rw [haarRun_fcsr hvd, hop, workColumns_flags_zero rfl rfl]
    exact BitVec.or_zero
  · have ht : tagFamily (h.opnd p.va).tag = .int ∨ tagFamily (h.opnd p.va).tag = .float := by simpa [ifq, hfam] using htag
    have hfixed := fixed_of_number ht
    refine ⟨elementsAre_haarRun hfixed hvd hvl fun j _ ha => ?_, ?_⟩
    · rw [hop, haarElem_threshold ht p.lev p.mask ha]
      refine ⟨rfl, ?_⟩
      split
      · exact Nat.two_pow_pos _
      · exact unit_lt hfixed h _ _ _ _
    · rw [haarRun_zcnt hvd, hop, zeros_threshold ht p.lev p.mask hvl]
      rfl
  · have ht : tagBlock (h.opnd p.va).tag = true := by simp [tagBlock, hfam]
    rw [unit_haarRun_block ht hvd hvl hb hk hact, hop, resultRow_threshold hfam p.lev b hk]

end Steps

/-- Settles O28: each column is worked as the rules say and written with its domain; `vsig` and `vdom` report the stored
elements that read as zero. -/
theorem haarInstructions : Obligations.HaarInstructions := by
  unfold Obligations.HaarInstructions
  refine ⟨fun i vd va m ok l dom g s hi hh hok => ?_, fun va s hh => ?_⟩
  · intro a vl hva htag hvd hvl o
    obtain ⟨bits, counts, hexec⟩ := exec_haar hi hok
    refine ⟨HaarSpec.run ⟨vd, va, m, l, haarOp s.cur i, dom, counts⟩ s.cur, haar_steps hexec hh hva htag hvd hvl,
      fun work hwork => ?_, fun hthr => ?_⟩
    · exact haarRun_work (p := ⟨vd, va, m, l, haarOp s.cur i, dom, counts⟩) htag hvd hvl rfl hwork
    · subst hthr
      exact haarRun_threshold (p := ⟨vd, va, m, l, haarOp s.cur (.vthr vd va m), dom, counts⟩) htag hvd hvl rfl
  · intro a vl hva htag
    exact ⟨fun md m hmd => vsig_reports hh hva htag hmd m, fun xd hvl => vdom_reports hh hva htag hvl xd⟩

end Sys2Proof.Machine
end

section
/-! SUPPORT. The decoder reads back what the encoder writes (R56, R58-R67). -/

namespace Sys2Proof
open Laws

/-- What the encoder writes decodes to what was encoded, instruction by instruction; a step of another agent has no
words. -/
theorem roundTrip (i : Instr) : RoundTrip.Statement i := by
  cases i
  case add => apply RoundTrip.add
  case sub => apply RoundTrip.sub
  case and => apply RoundTrip.and
  case or => apply RoundTrip.or
  case xor => apply RoundTrip.xor
  case andn => apply RoundTrip.andn
  case sll => apply RoundTrip.sll
  case srl => apply RoundTrip.srl
  case sra => apply RoundTrip.sra
  case slt => apply RoundTrip.slt
  case sltu => apply RoundTrip.sltu
  case min => apply RoundTrip.min
  case max => apply RoundTrip.max
  case minu => apply RoundTrip.minu
  case maxu => apply RoundTrip.maxu
  case mul => apply RoundTrip.mul
  case mulh => apply RoundTrip.mulh
  case mulhu => apply RoundTrip.mulhu
  case div => apply RoundTrip.div
  case divu => apply RoundTrip.divu
  case rem => apply RoundTrip.rem
  case remu => apply RoundTrip.remu
  case clz => apply RoundTrip.clz
  case ctz => apply RoundTrip.ctz
  case popc => apply RoundTrip.popc
  case addi => apply RoundTrip.addi
  case andi => apply RoundTrip.andi
  case ori => apply RoundTrip.ori
  case xori => apply RoundTrip.xori
  case slti => apply RoundTrip.slti
  case sltiu => apply RoundTrip.sltiu
  case slli => apply RoundTrip.slli
  case srli => apply RoundTrip.srli
  case srai => apply RoundTrip.srai
  case lui => apply RoundTrip.lui
  case ldpc => apply RoundTrip.ldpc
  case ldB => apply RoundTrip.ldB
  case ldBu => apply RoundTrip.ldBu
  case ldH => apply RoundTrip.ldH
  case ldHu => apply RoundTrip.ldHu
  case ldW => apply RoundTrip.ldW
  case ldWu => apply RoundTrip.ldWu
  case ldD => apply RoundTrip.ldD
  case stB => apply RoundTrip.stB
  case stH => apply RoundTrip.stH
  case stW => apply RoundTrip.stW
  case stD => apply RoundTrip.stD
  case beq => apply RoundTrip.beq
  case bne => apply RoundTrip.bne
  case blt => apply RoundTrip.blt
  case bge => apply RoundTrip.bge
  case bltu => apply RoundTrip.bltu
  case bgeu => apply RoundTrip.bgeu
  case jal => apply RoundTrip.jal
  case jalr => apply RoundTrip.jalr
  case loopSet => apply RoundTrip.loopSet
  case loopNext => apply RoundTrip.loopNext
  case farmSet => apply RoundTrip.farmSet
  case csrr => apply RoundTrip.csrr
  case csrw => apply RoundTrip.csrw
  case csrs => apply RoundTrip.csrs
  case csrc => apply RoundTrip.csrc
  case svc => apply RoundTrip.svc
  case brk => apply RoundTrip.brk
  case exit => apply RoundTrip.exit
  case cachectlSynci => apply RoundTrip.cachectlSynci
  case cachectlWb => apply RoundTrip.cachectlWb
  case cachectlWbinv => apply RoundTrip.cachectlWbinv
  case cachectlPf1 => apply RoundTrip.cachectlPf1
  case cachectlPf2 => apply RoundTrip.cachectlPf2
  case cachectlZero => apply RoundTrip.cachectlZero
  case eret => apply RoundTrip.eret
  case tlbinv => apply RoundTrip.tlbinv
  case ctxResumeRetry => apply RoundTrip.ctxResumeRetry
  case ctxResumeSkip => apply RoundTrip.ctxResumeSkip
  case ctxSave => apply RoundTrip.ctxSave
  case fence => apply RoundTrip.fence
  case amoAdd => apply RoundTrip.amoAdd
  case amoAnd => apply RoundTrip.amoAnd
  case amoOr => apply RoundTrip.amoOr
  case amoXor => apply RoundTrip.amoXor
  case amoMin => apply RoundTrip.amoMin
  case amoMax => apply RoundTrip.amoMax
  case amoMinu => apply RoundTrip.amoMinu
  case amoMaxu => apply RoundTrip.amoMaxu
  case amoSwap => apply RoundTrip.amoSwap
  case amoCas => apply RoundTrip.amoCas
  case barInit => apply RoundTrip.barInit
  case barArv => apply RoundTrip.barArv
  case barWait => apply RoundTrip.barWait
  case barArvwait => apply RoundTrip.barArvwait
  case tkwait => apply RoundTrip.tkwait
  case tktrig => apply RoundTrip.tktrig
  case taskSpawn => apply RoundTrip.taskSpawn
  case vcfg => apply RoundTrip.vcfg
  case vlreq => apply RoundTrip.vlreq
  case vtagr => apply RoundTrip.vtagr
  case vdim => apply RoundTrip.vdim
  case shpLd => apply RoundTrip.shpLd
  case vld => apply RoundTrip.vld
  case vst => apply RoundTrip.vst
  case vldc => apply RoundTrip.vldc
  case vspill => apply RoundTrip.vspill
  case vfill => apply RoundTrip.vfill
  case vldx => apply RoundTrip.vldx
  case vstx => apply RoundTrip.vstx
  case vamoadd => apply RoundTrip.vamoadd
  case vadd => apply RoundTrip.vadd
  case vsub => apply RoundTrip.vsub
  case vmul => apply RoundTrip.vmul
  case vmin => apply RoundTrip.vmin
  case vmax => apply RoundTrip.vmax
  case vabs => apply RoundTrip.vabs
  case vneg => apply RoundTrip.vneg
  case vfma => apply RoundTrip.vfma
  case vfms => apply RoundTrip.vfms
  case vfnma => apply RoundTrip.vfnma
  case vdiv => apply RoundTrip.vdiv
  case vsqrt => apply RoundTrip.vsqrt
  case vand => apply RoundTrip.vand
  case vor => apply RoundTrip.vor
  case vxor => apply RoundTrip.vxor
  case vnot => apply RoundTrip.vnot
  case vsll => apply RoundTrip.vsll
  case vsrl => apply RoundTrip.vsrl
  case vsra => apply RoundTrip.vsra
  case vmulh => apply RoundTrip.vmulh
  case vmulr => apply RoundTrip.vmulr
  case vaddr => apply RoundTrip.vaddr
  case vrcps => apply RoundTrip.vrcps
  case vrsqs => apply RoundTrip.vrsqs
  case vcmpEq => apply RoundTrip.vcmpEq
  case vcmpLt => apply RoundTrip.vcmpLt
  case vcmpLe => apply RoundTrip.vcmpLe
  case vcvt => apply RoundTrip.vcvt
  case vwiden => apply RoundTrip.vwiden
  case vnarrow => apply RoundTrip.vnarrow
  case vaddX => apply RoundTrip.vaddX
  case vsubX => apply RoundTrip.vsubX
  case vsubXRev => apply RoundTrip.vsubXRev
  case vmulX => apply RoundTrip.vmulX
  case vfmaX => apply RoundTrip.vfmaX
  case vminX => apply RoundTrip.vminX
  case vmaxX => apply RoundTrip.vmaxX
  case vbcast => apply RoundTrip.vbcast
  case vsllX => apply RoundTrip.vsllX
  case vsrlX => apply RoundTrip.vsrlX
  case vsraX => apply RoundTrip.vsraX
  case vcmpEqx => apply RoundTrip.vcmpEqx
  case vcmpLtx => apply RoundTrip.vcmpLtx
  case vcmpLtxRev => apply RoundTrip.vcmpLtxRev
  case vcmpLex => apply RoundTrip.vcmpLex
  case vcmpLexRev => apply RoundTrip.vcmpLexRev
  case vmvXv => apply RoundTrip.vmvXv
  case vmvVx => apply RoundTrip.vmvVx
  case vexpFast => apply RoundTrip.vexpFast
  case vlogFast => apply RoundTrip.vlogFast
  case vrcpFast => apply RoundTrip.vrcpFast
  case vrsqrtFast => apply RoundTrip.vrsqrtFast
  case vtanhFast => apply RoundTrip.vtanhFast
  case vsigmFast => apply RoundTrip.vsigmFast
  case vgeluFast => apply RoundTrip.vgeluFast
  case vsiluFast => apply RoundTrip.vsiluFast
  case vexpAcc => apply RoundTrip.vexpAcc
  case vlogAcc => apply RoundTrip.vlogAcc
  case vrcpAcc => apply RoundTrip.vrcpAcc
  case vrsqrtAcc => apply RoundTrip.vrsqrtAcc
  case vtanhAcc => apply RoundTrip.vtanhAcc
  case vsigmAcc => apply RoundTrip.vsigmAcc
  case vgeluAcc => apply RoundTrip.vgeluAcc
  case vsiluAcc => apply RoundTrip.vsiluAcc
  case vredsumOrd => apply RoundTrip.vredsumOrd
  case vredsumTree => apply RoundTrip.vredsumTree
  case vredmax => apply RoundTrip.vredmax
  case vredmin => apply RoundTrip.vredmin
  case vredsumw => apply RoundTrip.vredsumw
  case vredand => apply RoundTrip.vredand
  case vredor => apply RoundTrip.vredor
  case vredxor => apply RoundTrip.vredxor
  case vpopc => apply RoundTrip.vpopc
  case vfirst => apply RoundTrip.vfirst
  case mand => apply RoundTrip.mand
  case mor => apply RoundTrip.mor
  case mxor => apply RoundTrip.mxor
  case mnot => apply RoundTrip.mnot
  case mandn => apply RoundTrip.mandn
  case mset => apply RoundTrip.mset
  case vslideup => apply RoundTrip.vslideup
  case vslidedn => apply RoundTrip.vslidedn
  case vrot => apply RoundTrip.vrot
  case vperm => apply RoundTrip.vperm
  case vcompress => apply RoundTrip.vcompress
  case vexpand => apply RoundTrip.vexpand
  case vzip => apply RoundTrip.vzip
  case vunzip => apply RoundTrip.vunzip
  case vtrans => apply RoundTrip.vtrans
  case vmerge => apply RoundTrip.vmerge
  case vmv => apply RoundTrip.vmv
  case vtidx => apply RoundTrip.vtidx
  case vid => apply RoundTrip.vid
  case vquant => apply RoundTrip.vquant
  case vdeq => apply RoundTrip.vdeq
  case vhaar => apply RoundTrip.vhaar
  case vihaar => apply RoundTrip.vihaar
  case vthr => apply RoundTrip.vthr
  case vsig => apply RoundTrip.vsig
  case vdom => apply RoundTrip.vdom
  case vstw => apply RoundTrip.vstw
  case tclr => apply RoundTrip.tclr
  case bpacc => apply RoundTrip.bpacc
  case bpsub => apply RoundTrip.bpsub
  case mrd => apply RoundTrip.mrd
  case mcol => apply RoundTrip.mcol
  case mwr => apply RoundTrip.mwr
  case mld => apply RoundTrip.mld
  case mst => apply RoundTrip.mst
  case mwait => apply RoundTrip.mwait
  case hbind => apply RoundTrip.hbind
  case hbundle => apply RoundTrip.hbundle
  case hmaj => apply RoundTrip.hmaj
  case hperm => apply RoundTrip.hperm
  case hsim => apply RoundTrip.hsim
  case hrand => apply RoundTrip.hrand
  case hclean => apply RoundTrip.hclean
  case hfact => apply RoundTrip.hfact
  case cpy => apply RoundTrip.cpy
  case cpyz => apply RoundTrip.cpyz
  case cmask => apply RoundTrip.cmask
  case collRed => apply RoundTrip.collRed
  case collGat => apply RoundTrip.collGat
  case collSct => apply RoundTrip.collSct
  case collBc => apply RoundTrip.collBc
  case collA2a => apply RoundTrip.collA2a
  case gset => apply RoundTrip.gset
  case li => apply RoundTrip.li
  case liHi => apply RoundTrip.liHi
  case hAddi => apply RoundTrip.hAddi
  case hLi => apply RoundTrip.hLi
  case hMv => apply RoundTrip.hMv
  case hAdd => apply RoundTrip.hAdd
  case hSub => apply RoundTrip.hSub
  case hLdD => apply RoundTrip.hLdD
  case hStD => apply RoundTrip.hStD
  case hLdW => apply RoundTrip.hLdW
  case hStW => apply RoundTrip.hStW
  case hBeqz => apply RoundTrip.hBeqz
  case hBnez => apply RoundTrip.hBnez
  case hJ => apply RoundTrip.hJ
  case hLoopnext => apply RoundTrip.hLoopnext
  case hVadd => apply RoundTrip.hVadd
  case hNop => apply RoundTrip.hNop
  case hBrk => apply RoundTrip.hBrk
  all_goals exact RoundTrip.of_none rfl

/-- Settles O55: the fields of each instruction come back, and its length is the one that parcel 0 announces. -/
theorem encodeDecode : Obligations.EncodeDecode := by
  unfold Obligations.EncodeDecode
  intro i c rest hc hwf
  obtain ⟨hbits, hlen, h2, hlt⟩ := roundTrip i c hc hwf
  exact decode_bytes c rest h2 hlen hlt i hbits
end Sys2Proof
end

section
/-! SUPPORT. Words that decode are what the encoder writes: each layout's fields, read and put back (R61-R67). -/

namespace Sys2Proof

/-- What the decoder reads from the `len` bytes of `n` is encoded as just those bytes. -/
def Reads (len n : Nat) (r : Raw) : Prop := ∀ i, r = .ok i → encode? i = some ⟨len, n⟩

theorem reads_error (len n : Nat) (e : DecodeError) : Reads len n (.error e) := fun _ h => nomatch h

theorem reads_ok {len n : Nat} {i : Instr} {b : Nat} (h : encode? i = some ⟨len, b⟩) (hb : b = n) :
    Reads len n (.ok i) := fun _ hi => by cases hi; rw [h, hb]

theorem reads_fixed {len n : Nat} {ok : Bool} {r : Raw} (h : ok = true → Reads len n r) : Reads len n (fixed ok r) := by
  cases ok with
  | false => exact reads_error _ _ _
  | true => exact h rfl

theorem Tag.code_of_ofCode? {c : Nat} {t : Tag} (hc : c < 64) (h : Tag.ofCode? c = some t) : t.code = c := by
  have hall : ∀ c : Fin 64, ∀ t ∈ Tag.ofCode? c, t.code = c := by decide
  exact hall ⟨c, hc⟩ t h

theorem Scope.code_of_ofCode? {c : Nat} {t : Scope} (hc : c < 8) (h : Scope.ofCode? c = some t) : t.code = c := by
  have hall : ∀ c : Fin 8, ∀ t ∈ Scope.ofCode? c, t.code = c := by decide
  exact hall ⟨c, hc⟩ t h

@[simp] theorem Ord.code_ofCode_mod (c : Nat) : (Ord.ofCode (c % 4)).code % 4 = c % 4 := by
  have hall : ∀ c : Fin 4, (Ord.ofCode c).code % 4 = c := by decide
  exact hall ⟨c % 4, Nat.mod_lt _ (by decide)⟩

theorem reads_withTag {len n c : Nat} {k : Tag → Raw} (h : ∀ t : Tag, t.code = c % 2 ^ 6 → Reads len n (k t)) :
    Reads len n (withTag (c % 2 ^ 6) k) := by
  unfold withTag
  split
  next t ht => exact h t (Tag.code_of_ofCode? (Nat.mod_lt _ (by decide)) ht)
  next => exact reads_error _ _ _

theorem reads_withScope {len n c : Nat} {k : Scope → Raw} (h : ∀ t : Scope, t.code = c % 2 ^ 3 → Reads len n (k t)) :
    Reads len n (withScope (c % 2 ^ 3) k) := by
  unfold withScope
  split
  next t ht => exact h t (Scope.code_of_ofCode? (Nat.mod_lt _ (by decide)) ht)
  next => exact reads_error _ _ _

theorem reads_ite {len n : Nat} {c : Prop} [Decidable c] {a b : Raw} (ha : c → Reads len n a) (hb : ¬c → Reads len n b) :
    Reads len n (if c then a else b) := by
  split
  next h => exact ha h
  next h => exact hb h

theorem decMajor00_reads (rd ra rb fn : Nat) : Reads 4 (pack [2, 6, 5, 5, 5, 9] [1, 0x00, rd, ra, rb, fn])
    (decMajor00 (pack [2, 6, 5, 5, 5, 9] [1, 0x00, rd, ra, rb, fn])) := by
  simp only [decMajor00, unpack_pack_cons, unpack_nil]
  split
  case h_1 | h_2 | h_3 | h_4 | h_5 | h_6 | h_7 | h_8 | h_9 | h_10 | h_11 | h_12 | h_13 | h_14 | h_15 | h_16 | h_17 |
      h_18 | h_19 | h_20 | h_21 | h_22 =>
    exact reads_ok rfl (by simp_all [pack])
  case h_23 | h_24 | h_25 => exact reads_fixed fun hz => reads_ok rfl (by simp_all [pack])
  case h_26 => exact reads_error _ _ _

theorem decMajor01_reads (rd ra imm : Nat) : Reads 4 (pack [2, 6, 5, 5, 14] [1, 0x01, rd, ra, imm])
    (decMajor01 (pack [2, 6, 5, 5, 14] [1, 0x01, rd, ra, imm])) := by
  simp only [decMajor01, unpack_pack_cons, unpack_nil]
  exact reads_ok rfl (by simp_all [pack])

theorem decMajor02_reads (rd ra imm : Nat) : Reads 4 (pack [2, 6, 5, 5, 14] [1, 0x02, rd, ra, imm])
    (decMajor02 (pack [2, 6, 5, 5, 14] [1, 0x02, rd, ra, imm])) := by
  simp only [decMajor02, unpack_pack_cons, unpack_nil]
  exact reads_ok rfl (by simp_all [pack])

theorem decMajor03_reads (rd ra imm : Nat) : Reads 4 (pack [2, 6, 5, 5, 14] [1, 0x03, rd, ra, imm])
    (decMajor03 (pack [2, 6, 5, 5, 14] [1, 0x03, rd, ra, imm])) := by
  simp only [decMajor03, unpack_pack_cons, unpack_nil]
  exact reads_ok rfl (by simp_all [pack])

theorem decMajor04_reads (rd ra imm : Nat) : Reads 4 (pack [2, 6, 5, 5, 14] [1, 0x04, rd, ra, imm])
    (decMajor04 (pack [2, 6, 5, 5, 14] [1, 0x04, rd, ra, imm])) := by
  simp only [decMajor04, unpack_pack_cons, unpack_nil]
  exact reads_ok rfl (by simp_all [pack])

theorem decMajor05_reads (rd ra imm : Nat) : Reads 4 (pack [2, 6, 5, 5, 14] [1, 0x05, rd, ra, imm])
    (decMajor05 (pack [2, 6, 5, 5, 14] [1, 0x05, rd, ra, imm])) := by
  simp only [decMajor05, unpack_pack_cons, unpack_nil]
  exact reads_ok rfl (by simp_all [pack])

theorem decMajor06_reads (rd ra imm : Nat) : Reads 4 (pack [2, 6, 5, 5, 14] [1, 0x06, rd, ra, imm])
    (decMajor06 (pack [2, 6, 5, 5, 14] [1, 0x06, rd, ra, imm])) := by
  simp only [decMajor06, unpack_pack_cons, unpack_nil]
  exact reads_ok rfl (by simp_all [pack])

theorem decMajor07_reads (rd ra sh fn z : Nat) : Reads 4 (pack [2, 6, 5, 5, 6, 2, 6] [1, 0x07, rd, ra, sh, fn, z])
    (decMajor07 (pack [2, 6, 5, 5, 6, 2, 6] [1, 0x07, rd, ra, sh, fn, z])) := by
  simp only [decMajor07, unpack_pack_cons, unpack_nil]
  split
  case h_1 | h_2 | h_3 => exact reads_fixed fun hz => reads_ok rfl (by simp_all [pack])
  case h_4 => exact reads_error _ _ _

theorem decMajor08_reads (rd imm : Nat) : Reads 4 (pack [2, 6, 5, 19] [1, 0x08, rd, imm])
    (decMajor08 (pack [2, 6, 5, 19] [1, 0x08, rd, imm])) := by
  simp only [decMajor08, unpack_pack_cons, unpack_nil]
  exact reads_ok rfl (by simp_all [pack])

theorem decMajor09_reads (rd imm : Nat) : Reads 4 (pack [2, 6, 5, 19] [1, 0x09, rd, imm])
    (decMajor09 (pack [2, 6, 5, 19] [1, 0x09, rd, imm])) := by
  simp only [decMajor09, unpack_pack_cons, unpack_nil]
  exact reads_ok rfl (by simp_all [pack])

theorem decMajor0A_reads (rd rb fn un ord scope evict imm : Nat) :
    Reads 4 (pack [2, 6, 5, 5, 2, 1, 2, 3, 3, 3] [1, 0x0A, rd, rb, fn, un, ord, scope, evict, imm])
      (decMajor0A (pack [2, 6, 5, 5, 2, 1, 2, 3, 3, 3] [1, 0x0A, rd, rb, fn, un, ord, scope, evict, imm])) := by
  simp only [decMajor0A, unpack_pack_cons, unpack_nil]
  split
  case h_1 | h_2 | h_3 =>
    exact reads_ite (fun hu => reads_withScope fun sc hsc => reads_ok rfl (by simp_all [pack])) <| fun _ =>
      reads_ite (fun hu => reads_withScope fun sc hsc => reads_ok rfl (by simp_all [pack])) <| fun _ =>
      reads_error _ _ _
  case h_4 =>
    exact reads_ite (fun hu => reads_withScope fun sc hsc => reads_ok rfl (by simp_all [pack])) <| fun _ =>
      reads_error _ _ _
  case h_5 => exact reads_error _ _ _

theorem decMajor0B_reads (rd rb fn un ord scope evict imm : Nat) :
    Reads 4 (pack [2, 6, 5, 5, 2, 1, 2, 3, 3, 3] [1, 0x0B, rd, rb, fn, un, ord, scope, evict, imm])
      (decMajor0B (pack [2, 6, 5, 5, 2, 1, 2, 3, 3, 3] [1, 0x0B, rd, rb, fn, un, ord, scope, evict, imm])) := by
  simp only [decMajor0B, unpack_pack_cons, unpack_nil]
  split
  case h_1 | h_2 | h_3 | h_4 =>
    exact reads_fixed fun hz => reads_withScope fun sc hsc => reads_ok rfl (by simp_all [pack])
  case h_5 => exact reads_error _ _ _

theorem decMajor0C_reads (ra rb fn off : Nat) : Reads 4 (pack [2, 6, 5, 5, 3, 11] [1, 0x0C, ra, rb, fn, off])
    (decMajor0C (pack [2, 6, 5, 5, 3, 11] [1, 0x0C, ra, rb, fn, off])) := by
  simp only [decMajor0C, unpack_pack_cons, unpack_nil]
  split
  case h_1 | h_2 | h_3 | h_4 | h_5 | h_6 => exact reads_ok rfl (by simp_all [pack])
  case h_7 => exact reads_error _ _ _

theorem decMajor0D_reads (rd imm : Nat) : Reads 4 (pack [2, 6, 5, 19] [1, 0x0D, rd, imm])
    (decMajor0D (pack [2, 6, 5, 19] [1, 0x0D, rd, imm])) := by
  simp only [decMajor0D, unpack_pack_cons, unpack_nil]
  exact reads_ok rfl (by simp_all [pack])

theorem decMajor0E_reads (rd ra imm : Nat) : Reads 4 (pack [2, 6, 5, 5, 14] [1, 0x0E, rd, ra, imm])
    (decMajor0E (pack [2, 6, 5, 5, 14] [1, 0x0E, rd, ra, imm])) := by
  simp only [decMajor0E, unpack_pack_cons, unpack_nil]
  exact reads_ok rfl (by simp_all [pack])

theorem decMajor0F_reads (fn z ra rest : Nat) : Reads 4 (pack [2, 6, 2, 3, 5, 14] [1, 0x0F, fn, z, ra, rest])
    (decMajor0F (pack [2, 6, 2, 3, 5, 14] [1, 0x0F, fn, z, ra, rest])) := by
  simp only [decMajor0F, unpack_pack_cons, unpack_nil]
  simp only [unpack]
  split
  case h_1 | h_3 => exact reads_fixed fun hz => reads_withTag fun t ht => reads_ok rfl (by simp_all [pack]; omega)
  case h_2 => exact reads_fixed fun hz => reads_ok rfl (by simp_all [pack])
  case h_4 => exact reads_error _ _ _

theorem decMajor10_reads (rd ra fn imm : Nat) : Reads 4 (pack [2, 6, 5, 5, 4, 10] [1, 0x10, rd, ra, fn, imm])
    (decMajor10 (pack [2, 6, 5, 5, 4, 10] [1, 0x10, rd, ra, fn, imm])) := by
  simp only [decMajor10, unpack_pack_cons, unpack_nil]
  simp only [unpack]
  split
  case h_1 | h_5 | h_6 | h_7 | h_9 | h_12 => exact reads_fixed fun hz => reads_ok rfl (by simp_all [pack])
  case h_2 | h_3 | h_4 => exact reads_ok rfl (by simp_all [pack])
  case h_8 =>
    exact reads_ite (fun hu => reads_fixed fun hz => reads_ok rfl (by simp_all [pack])) <| fun _ =>
      reads_ite (fun hu => reads_fixed fun hz => reads_ok rfl (by simp_all [pack])) <| fun _ =>
      reads_ite (fun hu => reads_fixed fun hz => reads_ok rfl (by simp_all [pack])) <| fun _ =>
      reads_ite (fun hu => reads_fixed fun hz => reads_ok rfl (by simp_all [pack])) <| fun _ =>
      reads_ite (fun hu => reads_fixed fun hz => reads_ok rfl (by simp_all [pack])) <| fun _ =>
      reads_ite (fun hu => reads_fixed fun hz => reads_ok rfl (by simp_all [pack])) <| fun _ =>
      reads_error _ _ _
  case h_10 => exact reads_fixed fun hz => reads_ok rfl (by simp_all [pack]; omega)
  case h_11 =>
    exact reads_ite (fun hu => reads_fixed fun hz => reads_ok rfl (by simp_all [pack])) <| fun _ =>
      reads_ite (fun hu => reads_fixed fun hz => reads_ok rfl (by simp_all [pack])) <| fun _ =>
      reads_error _ _ _
  case h_13 => exact reads_error _ _ _

theorem decMajor11_reads (pred succ scope z : Nat) : Reads 4 (pack [2, 6, 8, 8, 3, 5] [1, 0x11, pred, succ, scope, z])
    (decMajor11 (pack [2, 6, 8, 8, 3, 5] [1, 0x11, pred, succ, scope, z])) := by
  simp only [decMajor11, unpack_pack_cons, unpack_nil]
  exact reads_fixed fun hz => reads_withScope fun sc hsc => reads_ok rfl (by simp_all [pack])

theorem decMajor12_reads (rd rb ra fn ord scope : Nat) :
    Reads 4 (pack [2, 6, 5, 5, 5, 4, 2, 3] [1, 0x12, rd, rb, ra, fn, ord, scope])
      (decMajor12 (pack [2, 6, 5, 5, 5, 4, 2, 3] [1, 0x12, rd, rb, ra, fn, ord, scope])) := by
  simp only [decMajor12, unpack_pack_cons, unpack_nil]
  split
  case h_1 | h_2 | h_3 | h_4 | h_5 | h_6 | h_7 | h_8 | h_9 | h_10 =>
    exact reads_withScope fun sc hsc => reads_ok rfl (by simp_all [pack])
  case h_11 => exact reads_error _ _ _

theorem decMajor13_reads (rd rb ra fn scope z : Nat) :
    Reads 4 (pack [2, 6, 5, 5, 5, 2, 3, 4] [1, 0x13, rd, rb, ra, fn, scope, z])
      (decMajor13 (pack [2, 6, 5, 5, 5, 2, 3, 4] [1, 0x13, rd, rb, ra, fn, scope, z])) := by
  simp only [decMajor13, unpack_pack_cons, unpack_nil]
  split
  case h_1 | h_2 | h_3 | h_4 =>
    exact reads_fixed fun hz => reads_withScope fun sc hsc => reads_ok rfl (by simp_all [pack])
  case h_5 => exact reads_error _ _ _

theorem decMajor14_reads (rd ra rb fn : Nat) : Reads 4 (pack [2, 6, 5, 5, 5, 9] [1, 0x14, rd, ra, rb, fn])
    (decMajor14 (pack [2, 6, 5, 5, 5, 9] [1, 0x14, rd, ra, rb, fn])) := by
  simp only [decMajor14, unpack_pack_cons, unpack_nil]
  split
  case h_1 | h_2 | h_3 => exact reads_fixed fun hz => reads_ok rfl (by simp_all [pack])
  case h_4 => exact reads_error _ _ _

theorem decMajor18_reads (body fn : Nat) : Reads 4 (pack [2, 6, 21, 3] [1, 0x18, body, fn])
    (decMajor18 (pack [2, 6, 21, 3] [1, 0x18, body, fn])) := by
  simp only [decMajor18, unpack_pack_cons, unpack_nil]
  simp only [unpack]
  split
  case h_1 | h_2 => exact reads_fixed fun hz => reads_withTag fun t ht => reads_ok rfl (by simp_all [pack]; omega)
  case h_3 | h_4 | h_5 => exact reads_fixed fun hz => reads_ok rfl (by simp_all [pack]; omega)
  case h_6 => exact reads_error _ _ _

theorem decMajor19_reads (vd xb mode mask ord scope evict : Nat) :
    Reads 4 (pack [2, 6, 6, 5, 3, 2, 2, 3, 3] [1, 0x19, vd, xb, mode, mask, ord, scope, evict])
      (decMajor19 (pack [2, 6, 6, 5, 3, 2, 2, 3, 3] [1, 0x19, vd, xb, mode, mask, ord, scope, evict])) := by
  simp only [decMajor19, unpack_pack_cons, unpack_nil]
  exact reads_withScope fun sc hsc => reads_ok rfl (by simp_all [pack])

theorem decMajor1A_reads (vd xb mode mask ord scope evict : Nat) :
    Reads 4 (pack [2, 6, 6, 5, 3, 2, 2, 3, 3] [1, 0x1A, vd, xb, mode, mask, ord, scope, evict])
      (decMajor1A (pack [2, 6, 6, 5, 3, 2, 2, 3, 3] [1, 0x1A, vd, xb, mode, mask, ord, scope, evict])) := by
  simp only [decMajor1A, unpack_pack_cons, unpack_nil]
  exact reads_withScope fun sc hsc => reads_ok rfl (by simp_all [pack])

theorem decMajor1B_reads (vd xb mode mask ord scope evict : Nat) :
    Reads 4 (pack [2, 6, 6, 5, 3, 2, 2, 3, 3] [1, 0x1B, vd, xb, mode, mask, ord, scope, evict])
      (decMajor1B (pack [2, 6, 6, 5, 3, 2, 2, 3, 3] [1, 0x1B, vd, xb, mode, mask, ord, scope, evict])) := by
  simp only [decMajor1B, unpack_pack_cons, unpack_nil]
  exact reads_withScope fun sc hsc => reads_ok rfl (by simp_all [pack])

theorem decMajor1C_reads (vd xb fn imm : Nat) : Reads 4 (pack [2, 6, 6, 5, 1, 12] [1, 0x1C, vd, xb, fn, imm])
    (decMajor1C (pack [2, 6, 6, 5, 1, 12] [1, 0x1C, vd, xb, fn, imm])) := by
  simp only [decMajor1C, unpack_pack_cons, unpack_nil]
  split
  case h_1 | h_2 => exact reads_ok rfl (by simp_all [pack])
  case h_3 => exact reads_error _ _ _

theorem decMajor20_reads (vd va vb mask fn : Nat) :
    Reads 4 (pack [2, 6, 6, 6, 6, 2, 4] [1, 0x20, vd, va, vb, mask, fn])
      (decMajor20 (pack [2, 6, 6, 6, 6, 2, 4] [1, 0x20, vd, va, vb, mask, fn])) := by
  simp only [decMajor20, unpack_pack_cons, unpack_nil]
  split
  case h_1 | h_2 | h_3 | h_4 | h_5 | h_8 | h_9 | h_10 | h_11 | h_13 | h_14 | h_15 =>
    exact reads_ok rfl (by simp_all [pack])
  case h_6 | h_7 | h_12 | h_16 => exact reads_fixed fun hz => reads_ok rfl (by simp_all [pack])
  case h_17 => exact reads_error _ _ _

theorem decMajor21_reads (vd va vb mask fn : Nat) :
    Reads 4 (pack [2, 6, 6, 6, 6, 2, 4] [1, 0x21, vd, va, vb, mask, fn])
      (decMajor21 (pack [2, 6, 6, 6, 6, 2, 4] [1, 0x21, vd, va, vb, mask, fn])) := by
  simp only [decMajor21, unpack_pack_cons, unpack_nil]
  simp only [unpack]
  split
  case h_1 | h_2 | h_3 | h_4 | h_5 | h_6 | h_7 | h_8 => exact reads_ok rfl (by simp_all [pack])
  case h_9 | h_10 | h_11 => exact reads_fixed fun hz => reads_ok rfl (by simp_all [pack]; omega)
  case h_12 | h_13 | h_14 => exact reads_withTag fun t ht => reads_ok rfl (by simp_all [pack])
  case h_15 => exact reads_error _ _ _

theorem decMajor22_reads (vd va xb var mask fn : Nat) :
    Reads 4 (pack [2, 6, 6, 6, 5, 1, 2, 4] [1, 0x22, vd, va, xb, var, mask, fn])
      (decMajor22 (pack [2, 6, 6, 6, 5, 1, 2, 4] [1, 0x22, vd, va, xb, var, mask, fn])) := by
  simp only [decMajor22, unpack_pack_cons, unpack_nil]
  simp only [unpack]
  split
  case h_1 | h_3 | h_4 | h_5 | h_6 | h_8 | h_9 | h_10 =>
    exact reads_ite (fun hu => reads_ok rfl (by simp_all [pack])) <| fun _ =>
      reads_error _ _ _
  case h_2 =>
    exact reads_ite (fun hu => reads_ok rfl (by simp_all [pack])) <| fun _ =>
      reads_ite (fun hu => reads_ok rfl (by simp_all [pack])) <| fun _ =>
      reads_error _ _ _
  case h_7 =>
    exact reads_ite (fun hu => reads_fixed fun hz => reads_ok rfl (by simp_all [pack])) <| fun _ =>
      reads_error _ _ _
  case h_11 | h_14 | h_15 =>
    exact reads_ite (fun hu => reads_fixed fun hz => reads_ok rfl (by simp_all [pack]; omega)) <| fun _ =>
      reads_error _ _ _
  case h_12 | h_13 =>
    exact reads_ite (fun hu => reads_fixed fun hz => reads_ok rfl (by simp_all [pack]; omega)) <| fun _ =>
      reads_ite (fun hu => reads_fixed fun hz => reads_ok rfl (by simp_all [pack]; omega)) <| fun _ =>
      reads_error _ _ _
  case h_16 => exact reads_error _ _ _

theorem decMajor23_reads (vd va vb mask fn : Nat) :
    Reads 4 (pack [2, 6, 6, 6, 6, 2, 4] [1, 0x23, vd, va, vb, mask, fn])
      (decMajor23 (pack [2, 6, 6, 6, 6, 2, 4] [1, 0x23, vd, va, vb, mask, fn])) := by
  simp only [decMajor23, unpack_pack_cons, unpack_nil]
  split
  case h_1 | h_2 | h_3 | h_4 | h_5 | h_6 | h_7 | h_8 | h_9 | h_10 | h_11 | h_12 | h_13 | h_14 | h_15 | h_16 =>
    exact reads_fixed fun hz => reads_ok rfl (by simp_all [pack])
  case h_17 => exact reads_error _ _ _

theorem decMajor24_reads (vd va vb mask fn : Nat) :
    Reads 4 (pack [2, 6, 6, 6, 6, 2, 4] [1, 0x24, vd, va, vb, mask, fn])
      (decMajor24 (pack [2, 6, 6, 6, 6, 2, 4] [1, 0x24, vd, va, vb, mask, fn])) := by
  simp only [decMajor24, unpack_pack_cons, unpack_nil]
  simp only [unpack]
  split
  case h_1 | h_2 | h_3 | h_4 | h_5 | h_6 | h_7 | h_8 => exact reads_ok rfl (by simp_all [pack])
  case h_9 | h_10 | h_11 | h_12 | h_13 | h_14 | h_15 | h_16 =>
    exact reads_fixed fun hz => reads_ok rfl (by simp_all [pack]; omega)
  case h_17 => exact reads_error _ _ _

theorem decMajor25_reads (vd va vb mask fn : Nat) :
    Reads 4 (pack [2, 6, 6, 6, 6, 2, 4] [1, 0x25, vd, va, vb, mask, fn])
      (decMajor25 (pack [2, 6, 6, 6, 6, 2, 4] [1, 0x25, vd, va, vb, mask, fn])) := by
  simp only [decMajor25, unpack_pack_cons, unpack_nil]
  simp only [unpack]
  split
  case h_1 | h_2 | h_3 | h_12 => exact reads_fixed fun hz => reads_ok rfl (by simp_all [pack]; omega)
  case h_4 | h_7 | h_8 | h_10 => exact reads_ok rfl (by simp_all [pack])
  case h_5 | h_6 | h_9 | h_11 | h_13 => exact reads_fixed fun hz => reads_ok rfl (by simp_all [pack])
  case h_14 | h_15 => exact reads_withTag fun t ht => reads_ok rfl (by simp_all [pack])
  case h_16 => exact reads_error _ _ _

theorem decMajor26_reads (vd va vb mask fn : Nat) :
    Reads 4 (pack [2, 6, 6, 6, 6, 2, 4] [1, 0x26, vd, va, vb, mask, fn])
      (decMajor26 (pack [2, 6, 6, 6, 6, 2, 4] [1, 0x26, vd, va, vb, mask, fn])) := by
  simp only [decMajor26, unpack_pack_cons, unpack_nil]
  simp only [unpack]
  split
  case h_1 | h_4 | h_5 => exact reads_fixed fun hz => reads_ok rfl (by simp_all [pack]; omega)
  case h_2 | h_3 => exact reads_fixed fun hz => reads_ok rfl (by simp_all [pack])
  case h_6 => exact reads_error _ _ _

theorem decMajor27_reads (vd va vb mask fn : Nat) :
    Reads 4 (pack [2, 6, 6, 6, 6, 2, 4] [1, 0x27, vd, va, vb, mask, fn])
      (decMajor27 (pack [2, 6, 6, 6, 6, 2, 4] [1, 0x27, vd, va, vb, mask, fn])) := by
  simp only [decMajor27, unpack_pack_cons, unpack_nil]
  simp only [unpack]
  split
  case h_1 | h_3 => exact reads_ok rfl (by simp_all [pack])
  case h_2 => exact reads_fixed fun hz => reads_ok rfl (by simp_all [pack])
  case h_4 | h_5 | h_6 => exact reads_fixed fun hz => reads_ok rfl (by simp_all [pack]; omega)
  case h_7 => exact reads_error _ _ _

theorem decClass00_reads (fn tile va vb am bm slot set wait exp z : Nat) :
    Reads 8 (pack [3, 5, 4, 3, 6, 6, 2, 2, 4, 1, 16, 10, 2] [3, 0x00, fn, tile, va, vb, am, bm, slot, set, wait, exp, z])
      (decClass00 (pack [3, 5, 4, 3, 6, 6, 2, 2, 4, 1, 16, 10, 2] [3, 0x00, fn, tile, va, vb, am, bm, slot, set, wait, exp, z])) := by
  simp only [decClass00, unpack_pack_cons, unpack_nil]
  simp only [unpack]
  split
  case h_1 | h_2 | h_3 | h_9 => exact reads_fixed fun hz => reads_ok rfl (by simp_all [pack])
  case h_4 | h_5 | h_6 | h_7 | h_8 => exact reads_fixed fun hz => reads_ok rfl (by simp_all [pack]; omega)
  case h_10 => exact reads_error _ _ _

theorem decClass01_reads (fn vd vi xb mask ord scope evict scale z : Nat) :
    Reads 8 (pack [3, 5, 2, 6, 6, 5, 2, 2, 3, 3, 2, 25] [3, 0x01, fn, vd, vi, xb, mask, ord, scope, evict, scale, z])
      (decClass01 (pack [3, 5, 2, 6, 6, 5, 2, 2, 3, 3, 2, 25] [3, 0x01, fn, vd, vi, xb, mask, ord, scope, evict, scale, z])) := by
  simp only [decClass01, unpack_pack_cons, unpack_nil]
  split
  case h_1 | h_2 | h_3 => exact reads_fixed fun hz => reads_withScope fun sc hsc => reads_ok rfl (by simp_all [pack])
  case h_4 => exact reads_error _ _ _

theorem decClass02_reads (vs xb mask lev ord scope evict thr z : Nat) :
    Reads 8 (pack [3, 5, 6, 5, 2, 3, 2, 3, 3, 1, 31] [3, 0x02, vs, xb, mask, lev, ord, scope, evict, thr, z])
      (decClass02 (pack [3, 5, 6, 5, 2, 3, 2, 3, 3, 1, 31] [3, 0x02, vs, xb, mask, lev, ord, scope, evict, thr, z])) := by
  simp only [decClass02, unpack_pack_cons, unpack_nil]
  exact reads_fixed fun hz => reads_withScope fun sc hsc => reads_ok rfl (by simp_all [pack])

theorem decClass03_reads (fn xd xs xn cm chunk chan ord scope evict bar xbar z : Nat) :
    Reads 8 (pack [3, 5, 2, 5, 5, 5, 2, 3, 2, 2, 3, 3, 1, 5, 18] [3, 0x03, fn, xd, xs, xn, cm, chunk, chan, ord, scope, evict, bar, xbar, z])
      (decClass03 (pack [3, 5, 2, 5, 5, 5, 2, 3, 2, 2, 3, 3, 1, 5, 18] [3, 0x03, fn, xd, xs, xn, cm, chunk, chan, ord, scope, evict, bar, xbar, z])) := by
  simp only [decClass03, unpack_pack_cons, unpack_nil]
  split
  case h_1 | h_2 => exact reads_fixed fun hz => reads_withScope fun sc hsc => reads_ok rfl (by simp_all [pack])
  case h_3 => exact reads_fixed fun hz => reads_ok rfl (by simp_all [pack])
  case h_4 => exact reads_error _ _ _

theorem decClass04_reads (fn gk vd va op xroot mask z : Nat) :
    Reads 8 (pack [3, 5, 3, 3, 6, 6, 4, 5, 2, 27] [3, 0x04, fn, gk, vd, va, op, xroot, mask, z])
      (decClass04 (pack [3, 5, 3, 3, 6, 6, 4, 5, 2, 27] [3, 0x04, fn, gk, vd, va, op, xroot, mask, z])) := by
  simp only [decClass04, unpack_pack_cons, unpack_nil]
  simp only [unpack]
  split
  case h_1 | h_2 | h_3 | h_4 | h_5 => exact reads_fixed fun hz => reads_ok rfl (by simp_all [pack])
  case h_6 => exact reads_fixed fun hz => reads_ok rfl (by simp_all [pack]; omega)
  case h_7 => exact reads_error _ _ _

theorem decClass05_reads (rd fn imm : Nat) : Reads 8 (pack [3, 5, 5, 1, 50] [3, 0x05, rd, fn, imm])
    (decClass05 (pack [3, 5, 5, 1, 50] [3, 0x05, rd, fn, imm])) := by
  simp only [decClass05, unpack_pack_cons, unpack_nil]
  split
  case h_1 | h_2 => exact reads_ok rfl (by simp_all [pack])
  case h_3 => exact reads_error _ _ _

theorem decClass06_reads (fn z xd va xb xn z2 : Nat) :
    Reads 8 (pack [3, 5, 1, 1, 5, 6, 5, 5, 33] [3, 0x06, fn, z, xd, va, xb, xn, z2])
      (decClass06 (pack [3, 5, 1, 1, 5, 6, 5, 5, 33] [3, 0x06, fn, z, xd, va, xb, xn, z2])) := by
  simp only [decClass06, unpack_pack_cons, unpack_nil]
  split
  case h_1 | h_2 => exact reads_fixed fun hz => reads_ok rfl (by simp_all [pack])
  case h_3 => exact reads_error _ _ _

theorem decHalf_reads (mj rest : Nat) : Reads 2 (pack [1, 4, 11] [0, mj, rest])
    (decHalf (pack [1, 4, 11] [0, mj, rest])) := by
  simp only [decHalf, unpack_pack_cons, unpack_nil]
  simp only [unpack]
  split
  case h_1 | h_2 | h_6 | h_7 | h_8 | h_9 | h_10 | h_11 => exact reads_ok rfl (by simp_all [pack]; omega)
  case h_12 | h_13 => exact reads_ok rfl (by simp_all [pack])
  case h_15 => exact reads_fixed fun hz => reads_ok rfl (by simp_all [pack])
  case h_3 | h_4 | h_5 | h_14 | h_16 => exact reads_fixed fun hz => reads_ok rfl (by simp_all [pack]; omega)
  case h_17 => exact reads_error _ _ _

end Sys2Proof
end

section
/-! SUPPORT. Bytes that decode begin with the encoding of a well-formed instruction (R56, R58-R67). -/

namespace Sys2Proof
theorem pack_unpack (ws : List Nat) (n : Nat) : pack ws (unpack ws n) = n % 2 ^ ws.sum := by
  induction ws generalizing n with
  | nil => simp [pack, Nat.mod_one]
  | cons w ws ih =>
    simp only [unpack, pack, ih, List.sum_cons, Nat.pow_add, Nat.mod_mod]
    exact Nat.mod_mul.symm

/-- The fields of a word under its length and its major. -/
theorem reads_word {ws : List Nat} {n m : Nat} {f : Nat → Raw} (hn : n < 256 ^ 4) (h4 : n % 4 = 1)
    (hm : bitsAt n 2 6 = m) (hs : ws.sum = 24)
    (h : Reads 4 (pack (2 :: 6 :: ws) (1 :: m :: unpack ws (n / 2 ^ 2 / 2 ^ 6)))
      (f (pack (2 :: 6 :: ws) (1 :: m :: unpack ws (n / 2 ^ 2 / 2 ^ 6))))) : Reads 4 n (f n) := by
  have hp : pack (2 :: 6 :: ws) (1 :: m :: unpack ws (n / 2 ^ 2 / 2 ^ 6)) = n := by
    simp only [pack, pack_unpack, hs]
    simp only [bitsAt] at hm
    omega
  rwa [hp] at h

theorem reads_double {ws : List Nat} {n m : Nat} {f : Nat → Raw} (hn : n < 256 ^ 8) (h8 : n % 8 = 3)
    (hm : bitsAt n 3 5 = m) (hs : ws.sum = 56)
    (h : Reads 8 (pack (3 :: 5 :: ws) (3 :: m :: unpack ws (n / 2 ^ 3 / 2 ^ 5)))
      (f (pack (3 :: 5 :: ws) (3 :: m :: unpack ws (n / 2 ^ 3 / 2 ^ 5))))) : Reads 8 n (f n) := by
  have hp : pack (3 :: 5 :: ws) (3 :: m :: unpack ws (n / 2 ^ 3 / 2 ^ 5)) = n := by
    simp only [pack, pack_unpack, hs]
    simp only [bitsAt] at hm
    omega
  rwa [hp] at h

theorem rawBits_two_reads {n : Nat} (hn : n < 256 ^ 2) (h2 : n % 2 = 0) : Reads 2 n (rawBits 2 n) := by
  have hp : pack [1, 4, 11] [0, n / 2, n / 2 / 2 ^ 4] = n := by
    simp only [pack]
    omega
  have h := decHalf_reads (n / 2) (n / 2 / 2 ^ 4)
  rwa [hp] at h

theorem rawBits_four_reads {n : Nat} (hn : n < 256 ^ 4) (h4 : n % 4 = 1) : Reads 4 n (rawBits 4 n) := by
  simp only [rawBits, decWord]
  split
  case h_1 hm => exact reads_word hn h4 hm rfl (decMajor00_reads _ _ _ _)
  case h_2 hm => exact reads_word hn h4 hm rfl (decMajor01_reads _ _ _)
  case h_3 hm => exact reads_word hn h4 hm rfl (decMajor02_reads _ _ _)
  case h_4 hm => exact reads_word hn h4 hm rfl (decMajor03_reads _ _ _)
  case h_5 hm => exact reads_word hn h4 hm rfl (decMajor04_reads _ _ _)
  case h_6 hm => exact reads_word hn h4 hm rfl (decMajor05_reads _ _ _)
  case h_7 hm => exact reads_word hn h4 hm rfl (decMajor06_reads _ _ _)
  case h_8 hm => exact reads_word hn h4 hm rfl (decMajor07_reads _ _ _ _ _)
  case h_9 hm => exact reads_word hn h4 hm rfl (decMajor08_reads _ _)
  case h_10 hm => exact reads_word hn h4 hm rfl (decMajor09_reads _ _)
  case h_11 hm => exact reads_word hn h4 hm rfl (decMajor0A_reads _ _ _ _ _ _ _ _)
  case h_12 hm => exact reads_word hn h4 hm rfl (decMajor0B_reads _ _ _ _ _ _ _ _)
  case h_13 hm => exact reads_word hn h4 hm rfl (decMajor0C_reads _ _ _ _)
  case h_14 hm => exact reads_word hn h4 hm rfl (decMajor0D_reads _ _)
  case h_15 hm => exact reads_word hn h4 hm rfl (decMajor0E_reads _ _ _)
  case h_16 hm => exact reads_word hn h4 hm rfl (decMajor0F_reads _ _ _ _)
  case h_17 hm => exact reads_word hn h4 hm rfl (decMajor10_reads _ _ _ _)
  case h_18 hm => exact reads_word hn h4 hm rfl (decMajor11_reads _ _ _ _)
  case h_19 hm => exact reads_word hn h4 hm rfl (decMajor12_reads _ _ _ _ _ _)
  case h_20 hm => exact reads_word hn h4 hm rfl (decMajor13_reads _ _ _ _ _ _)
  case h_21 hm => exact reads_word hn h4 hm rfl (decMajor14_reads _ _ _ _)
  case h_22 hm => exact reads_word hn h4 hm rfl (decMajor18_reads _ _)
  case h_23 hm => exact reads_word hn h4 hm rfl (decMajor19_reads _ _ _ _ _ _ _)
  case h_24 hm => exact reads_word hn h4 hm rfl (decMajor1A_reads _ _ _ _ _ _ _)
  case h_25 hm => exact reads_word hn h4 hm rfl (decMajor1B_reads _ _ _ _ _ _ _)
  case h_26 hm => exact reads_word hn h4 hm rfl (decMajor1C_reads _ _ _ _)
  case h_27 hm => exact reads_word hn h4 hm rfl (decMajor20_reads _ _ _ _ _)
  case h_28 hm => exact reads_word hn h4 hm rfl (decMajor21_reads _ _ _ _ _)
  case h_29 hm => exact reads_word hn h4 hm rfl (decMajor22_reads _ _ _ _ _ _)
  case h_30 hm => exact reads_word hn h4 hm rfl (decMajor23_reads _ _ _ _ _)
  case h_31 hm => exact reads_word hn h4 hm rfl (decMajor24_reads _ _ _ _ _)
  case h_32 hm => exact reads_word hn h4 hm rfl (decMajor25_reads _ _ _ _ _)
  case h_33 hm => exact reads_word hn h4 hm rfl (decMajor26_reads _ _ _ _ _)
  case h_34 hm => exact reads_word hn h4 hm rfl (decMajor27_reads _ _ _ _ _)
  case h_35 => exact reads_error _ _ _

theorem rawBits_eight_reads {n : Nat} (hn : n < 256 ^ 8) (h8 : n % 8 = 3) : Reads 8 n (rawBits 8 n) := by
  simp only [rawBits, decDouble]
  split
  case h_1 hm => exact reads_double hn h8 hm rfl (decClass00_reads _ _ _ _ _ _ _ _ _ _ _)
  case h_2 hm => exact reads_double hn h8 hm rfl (decClass01_reads _ _ _ _ _ _ _ _ _ _)
  case h_3 hm => exact reads_double hn h8 hm rfl (decClass02_reads _ _ _ _ _ _ _ _ _)
  case h_4 hm => exact reads_double hn h8 hm rfl (decClass03_reads _ _ _ _ _ _ _ _ _ _ _ _ _)
  case h_5 hm => exact reads_double hn h8 hm rfl (decClass04_reads _ _ _ _ _ _ _ _)
  case h_6 hm => exact reads_double hn h8 hm rfl (decClass05_reads _ _ _)
  case h_7 hm => exact reads_double hn h8 hm rfl (decClass06_reads _ _ _ _ _ _ _)
  case h_8 => exact reads_error _ _ _

theorem lengthOf_cases (n : Nat) : lengthOf n = 0 ∨ (lengthOf n = 2 ∧ n % 2 = 0) ∨ (lengthOf n = 4 ∧ n % 4 = 1) ∨
    (lengthOf n = 8 ∧ n % 8 = 3) := by
  simp only [lengthOf, beq_iff_eq]
  split_ifs with h2 h4 h8
  · exact .inr (.inl ⟨rfl, h2⟩)
  · exact .inr (.inr (.inl ⟨rfl, h4⟩))
  · exact .inr (.inr (.inr ⟨rfl, h8⟩))
  · exact .inl rfl

theorem rawBits_reads {n : Nat} (hn : n < 256 ^ lengthOf n) : Reads (lengthOf n) n (rawBits (lengthOf n) n) := by
  obtain h | ⟨h, hm⟩ | ⟨h, hm⟩ | ⟨h, hm⟩ := lengthOf_cases n <;> rw [h] at hn ⊢
  · exact reads_error _ _ _
  · exact rawBits_two_reads hn hm
  · exact rawBits_four_reads hn hm
  · exact rawBits_eight_reads hn hm

theorem legal_eq_ok {r : Raw} {i : Instr} (h : legal r = .ok i) : r = .ok i ∧ i.illFormed = none := by
  unfold legal at h
  split at h
  next j =>
    split at h
    next hj => cases h; exact ⟨rfl, hj⟩
    next => cases h
  next => cases h

theorem leNat_lt (bs : List Byte) : leNat bs < 256 ^ bs.length := by
  induction bs with
  | nil => simp [leNat]
  | cons b bs ih =>
    simp only [leNat, List.length_cons, Nat.pow_succ]
    have := b.isLt
    omega

theorem leBytes_leNat {k : Nat} {bs : List Byte} (h : bs.length = k) : leBytes k (leNat bs) = bs := by
  subst h
  induction bs with
  | nil => rfl
  | cons b bs ih =>
    have hb := b.isLt
    have hd : (b.toNat + 256 * leNat bs) / 256 = leNat bs := by omega
    have hm : BitVec.ofNat 8 (b.toNat + 256 * leNat bs) = b := by
      apply BitVec.eq_of_toNat_eq
      rw [BitVec.toNat_ofNat]
      omega
    simp only [List.length_cons, leBytes, leNat, hd, hm, ih]

/-- Parcel 0 alone announces the length, whatever bytes follow it. -/
theorem lengthOf_leNat_take {b0 b1 : Byte} {tail : List Byte} {k : Nat} (hk : 2 ≤ k)
    (hl : k ≤ (b0 :: b1 :: tail).length) :
    lengthOf (leNat ((b0 :: b1 :: tail).take k)) = lengthOf (leNat [b0, b1]) := by
  have ht : ((b0 :: b1 :: tail).take k).length = k := List.length_take_of_le hl
  have hp : leNat [b0, b1] = leNat ((b0 :: b1 :: tail).take k) % 256 ^ 2 := by
    rw [← leNat_leBytes, ← leBytes_take 2 k _ hk]
    rw [leBytes_leNat ht, List.take_take, Nat.min_eq_left hk]
    rfl
  rw [hp, lengthOf_mod _ _ (by decide)]

/-- What decoded bytes consist of: the bits of the instruction, under the length that they announce, and the rest. -/
theorem decode_eq_ok {bs rest : List Byte} {i : Instr} (h : decode bs = .ok (i, rest)) : ∃ n,
    n < 256 ^ lengthOf n ∧ decodeBits (lengthOf n) n = .ok i ∧ bs = leBytes (lengthOf n) n ++ rest := by
  unfold decode at h
  split at h
  case h_2 => cases h
  next b0 b1 tail =>
    simp only [beq_iff_eq] at h
    split_ifs at h with h0 hshort
    split at h
    case h_2 => cases h
    next j hj =>
      cases h
      have h2 : 2 ≤ lengthOf (leNat [b0, b1]) := by have := lengthOf_cases (leNat [b0, b1]); omega
      have hl := List.length_take_of_le (Nat.le_of_not_lt hshort)
      refine ⟨leNat ((b0 :: b1 :: tail).take (lengthOf (leNat [b0, b1]))), ?_⟩
      rw [lengthOf_leNat_take h2 (Nat.le_of_not_lt hshort)]
      refine ⟨?_, hj, ?_⟩
      · exact (leNat_lt _).trans_eq (by rw [hl])
      · calc b0 :: b1 :: tail
            = (b0 :: b1 :: tail).take (lengthOf (leNat [b0, b1])) ++ (b0 :: b1 :: tail).drop (lengthOf (leNat [b0, b1])) :=
              (List.take_append_drop ..).symm
          _ = _ := by rw [leBytes_leNat hl]

/-- Settles O60: each layout's fields, read and put back, are the number that was read. -/
theorem decodeEncode : Obligations.DecodeEncode := by
  unfold Obligations.DecodeEncode
  intro bs rest i h
  obtain ⟨n, hn, hi, rfl⟩ := decode_eq_ok h
  obtain ⟨hraw, hwf⟩ := legal_eq_ok hi
  exact ⟨hwf, ⟨lengthOf n, n⟩, rawBits_reads hn i hraw, rfl⟩
end Sys2Proof
end

section
/-! SUPPORT. Which agent moves, and what a step runs (R57, R58, R228, R273, R325). -/

namespace Sys2Proof.Machine
open Sys2Proof.Claims

/-- Settles O54: the kernel decodes each word. -/
theorem decodeWords : Obligations.DecodeWords := by
  unfold Obligations.DecodeWords
  decide +kernel

/-! ## The order of the module's own steps -/

/-- One turn of the search for the first place. -/
def earlier (a : Option (Nat × Instr)) (x : Nat × Instr) : Option (Nat × Instr) :=
  match a with
  | none => some x
  | some y => if x.1 < y.1 then some x else a

theorem foldl_earlier {is : List (Nat × Instr)} {a x : Nat × Instr} (h : is.foldl earlier (some a) = some x) :
    x ∈ a :: is ∧ ∀ y ∈ a :: is, x.1 ≤ y.1 := by
  induction is generalizing a with
  | nil => cases h; simp
  | cons b is ih =>
    simp only [List.foldl_cons, earlier] at h
    split_ifs at h with hlt <;> obtain ⟨hmem, hle⟩ := ih h <;> simp only [List.mem_cons, forall_eq_or_imp] at * <;>
      obtain ⟨ha, hle⟩ := hle
    · exact ⟨.inr hmem, by omega, ha, hle⟩
    · exact ⟨by tauto, ha, by omega, hle⟩

theorem foldl_earlier_ne_none (is : List (Nat × Instr)) (a : Nat × Instr) : is.foldl earlier (some a) ≠ none := by
  induction is generalizing a with
  | nil => simp
  | cons b is ih =>
    simp only [List.foldl_cons, earlier]
    split_ifs <;> exact ih _

theorem firstPlace_cons (a : Nat × Instr) (is : List (Nat × Instr)) :
    firstPlace (a :: is) = is.foldl earlier (some a) := rfl

theorem firstPlace_eq_some {is : List (Nat × Instr)} {x : Nat × Instr} (h : firstPlace is = some x) :
    x ∈ is ∧ ∀ y ∈ is, x.1 ≤ y.1 := by
  cases is with
  | nil => cases h
  | cons a is => exact foldl_earlier h

theorem firstPlace_eq_none {is : List (Nat × Instr)} (h : firstPlace is = none) : is = [] := by
  cases is with
  | nil => rfl
  | cons a is => exact absurd h (foldl_earlier_ne_none is a)

theorem ownEvent_eq_none {s : State} (h : s.ownEvent = none) : ∀ y ∈ s.due, s.changes y.2 = false := by
  simp only [State.ownEvent, Option.or_eq_none_iff] at h
  have he := firstPlace_eq_none h.2
  simpa using he

theorem ownEvent_eq_some {s : State} {x : Nat × Instr} (h : s.ownEvent = some x) :
    x ∈ s.due ∧ (s.sweep < x.1 ∨ ∀ y ∈ s.due, s.changes y.2 = true → y.1 ≤ s.sweep) ∧
      ∀ y ∈ s.due, s.changes y.2 = true → s.sweep < y.1 ∨ x.1 ≤ s.sweep → x.1 ≤ y.1 := by
  simp only [State.ownEvent, Option.or_eq_some_iff] at h
  obtain h | ⟨hnone, h⟩ := h <;> obtain ⟨hmem, hle⟩ := firstPlace_eq_some h <;>
    simp only [List.mem_filter, decide_eq_true_eq, and_imp] at hmem hle
  · obtain ⟨⟨hdue, -⟩, hlt⟩ := hmem
    exact ⟨hdue, .inl hlt, fun y hy hc hor => hor.elim (hle y hy hc) (by omega)⟩
  · have hlow := firstPlace_eq_none hnone
    simp only [List.filter_eq_nil_iff, List.mem_filter, decide_eq_true_eq, and_imp, Nat.not_lt] at hlow
    exact ⟨hmem.1, .inr hlow, fun y hy hc _ => hle y hy hc⟩

/-! ## Whose turn it is -/

theorem step_of_issues {s : State} (hrun : s.cur.status = .running) (hag : s.agenda = []) (hdev : s.devTurn = false) :
    step s = s.runCur := by
  simp [step, hag, hdev, Hart.issues, hrun]

theorem step_of_ownEvent {s : State} {x : Nat × Instr} (hag : s.agenda = [])
    (hturn : s.devTurn = true ∨ s.cur.status ≠ .running) (h : s.ownEvent = some x) :
    step s = exec x.2 { s.rotate with devTurn := false, sweep := x.1 } := by
  have hc : (!s.devTurn && s.cur.issues) = false := by
    obtain hd | hd := hturn <;> simp [Hart.issues, hd]
  simp [step, hag, hc, State.runOwn, h]

theorem runCur_of_no_request {s : State} (hrun : s.cur.status = .running) (hreq : s.cur.request = none) :
    s.runCur = State.runFetched { s with devTurn := true } := by
  simp [State.runCur, Hart.settle, Hart.issues, hreq, hrun]

theorem runCur_of_request {s : State} {r : Reason} (hrun : s.cur.status = .running) (hout : s.cur.outstanding = false)
    (hreq : s.cur.request = some r) :
    s.runCur = .next { s with cur := { s.cur with status := .stopping r, request := none }, devTurn := true } := by
  simp [State.runCur, Hart.settle, Hart.stopFor, Hart.issues, hreq, hrun, hout]

/-- Settles O56: whose turn it is, what it runs, and which of the module's own steps comes next. -/
theorem stepRuns : Obligations.StepRuns := by
  unfold Obligations.StepRuns
  refine ⟨fun s s1 len n hrun hreq hag hdev hf => ?_, fun s s1 hrun hreq hag hdev hf => ?_,
    fun s r hrun hout hreq hag hdev => ?_, fun s x hag hturn h => ⟨step_of_ownEvent hag hturn h, ownEvent_eq_some h⟩,
    fun s h => ownEvent_eq_none h, fun i ts s hag he => ?_⟩
  · rw [step_of_issues hrun hag hdev, runCur_of_no_request hrun hreq]
    exact ⟨fun i hi => by simp [State.runFetched, hf, hi], fun e he => by simp [State.runFetched, hf, he]⟩
  · rw [step_of_issues hrun hag hdev, runCur_of_no_request hrun hreq]
    simp [State.runFetched, hf]
  · rw [step_of_issues hrun hag hdev, runCur_of_request hrun hout hreq]
    refine ⟨_, rfl, rfl, rfl, ?_⟩
    rw [← hdev]
  · simp [step, hag, isEvent, he]
end Sys2Proof.Machine
end

section
/-! SUPPORT. Immediate forms, branches and jumps (R82-R84, R89, R90, R66, R67). -/

namespace Sys2Proof.Machine
open Sys2Proof.Claims

/-! ## Words from exact integers -/

theorem word_toInt (x : Word) : word x.toInt = x := BitVec.ofInt_toInt

theorem word_add (x y : Int) : word (x + y) = word x + word y := BitVec.ofInt_add x y

theorem word_mul (x y : Int) : word (x * y) = word x * word y := BitVec.ofInt_mul x y

theorem word_sub (x y : Int) : word (x - y) = word x - word y := by
  rw [Int.sub_eq_add_neg, word_add, BitVec.sub_eq_add_neg]
  exact congrArg (word x + ·) BitVec.ofInt_neg

theorem word_natCast (n : Nat) : word n = BitVec.ofNat 64 n := BitVec.ofInt_natCast 64 n

theorem word_toInt_signExtend {w : Nat} (i : BitVec w) : word i.toInt = i.signExtend 64 := rfl

theorem toInt_signExtend_word {w : Nat} (i : BitVec w) (h : w ≤ 64) : (i.signExtend 64).toInt = i.toInt :=
  BitVec.toInt_signExtend_of_le h

theorem target_eq_place {w : Nat} (s : State) (off : BitVec w) : s.target off = place s off.toInt := by
  rw [place, word_add, word_mul, word_toInt]
  rfl

theorem ofBool_decide (c : Prop) [Decidable c] : Machine.ofBool (decide c) = if c then 1 else 0 := by
  by_cases h : c <;> simp [Machine.ofBool, h]

theorem toNat_setWidth_word (k : BitVec 6) : (k.setWidth 64).toNat % 64 = k.toNat := by
  have := k.isLt
  rw [BitVec.toNat_setWidth]
  omega

theorem shiftLeft_word (a : Word) (k : BitVec 6) :
    shiftLeft a (k.setWidth 64) = word (a.toNat * 2 ^ k.toNat : Nat) := by
  rw [shiftLeft, toNat_setWidth_word, word_natCast, ← BitVec.toNat_inj, BitVec.toNat_shiftLeft,
    Nat.shiftLeft_eq, BitVec.toNat_ofNat]

theorem shiftRight_word (a : Word) (k : BitVec 6) :
    shiftRight a (k.setWidth 64) = word (a.toNat / 2 ^ k.toNat : Nat) := by
  rw [shiftRight, toNat_setWidth_word, word_natCast, ← BitVec.toNat_inj, BitVec.toNat_ushiftRight,
    Nat.shiftRight_eq_div_pow, BitVec.toNat_ofNat, Nat.mod_eq_of_lt (Nat.lt_of_le_of_lt (Nat.div_le_self ..) a.isLt)]

theorem shiftArith_word (a : Word) (k : BitVec 6) : shiftArith a (k.setWidth 64) = word (a.toInt / 2 ^ k.toNat) := by
  rw [shiftArith, toNat_setWidth_word, BitVec.sshiftRight, Int.shiftRight_eq_div_pow]
  rfl

theorem upper_word (i : BitVec 19) : (i ++ 0#14).signExtend 64 = word (i.toInt * 2 ^ 14) := by
  have hi := i.isLt
  have hn : (i ++ 0#14).toNat = i.toNat * 2 ^ 14 := by
    rw [BitVec.toNat_append, BitVec.toNat_ofNat, Nat.zero_mod, Nat.or_zero, Nat.shiftLeft_eq]
  have hint : (i ++ 0#14).toInt = i.toInt * 2 ^ 14 := by
    rw [BitVec.toInt_eq_toNat_cond, BitVec.toInt_eq_toNat_cond, hn]
    split_ifs <;> omega
  rw [← word_toInt_signExtend, hint]

theorem long_word (i : BitVec 50) (x : Word) :
    (i ++ x.setWidth 14 : Word) = word (i.toNat * 2 ^ 14 + x.toNat % 2 ^ 14 : Nat) := by
  rw [word_natCast, ← BitVec.toNat_inj, BitVec.toNat_append, BitVec.toNat_setWidth, BitVec.toNat_ofNat,
    ← Nat.shiftLeft_add_eq_or_of_lt (Nat.mod_lt _ (by decide)), Nat.shiftLeft_eq]
  have := i.isLt
  omega

/-! ## The immediate forms (R82-R84, R66, R67) -/

theorem computes_of_finish {i : Instr} {len : Nat} {d : BitVec 5} {rs : List (BitVec 5)} {v : Word} {s : State}
    (hexec : exec i s = finish len (s.cur.scalarPoison rs) s (s.writeX d v)) (hc : Clean s.cur rs) :
    Computes i len d v s := by
  rw [(s.cur.scalarPoison_eq_none rs).mpr hc, finish_none] at hexec
  exact ⟨_, hexec, scalarStep_retire_writeX len d v s⟩

@[simp] theorem State.writeX_zero (s : State) (v : Word) : s.writeX 0#5 v = s := by
  rw [State.writeX, Hart.writeX_zero]
  rfl

theorem exec_of_immRow {i : Instr} {len : Nat} {d : BitVec 5} {rs : List (BitVec 5)} {v : Word} {s : State}
    (h : immRow s i = some (len, d, rs, v)) :
    exec i s = finish len (s.cur.scalarPoison rs) s (s.writeX d v) := by
  cases i
  case addi d a i => cases h; rw [word_add, word_toInt]; rfl
  case slti d a i => cases h; rw [← toInt_signExtend_word i (by decide), ← ofBool_decide]; rfl
  case sltiu d a i => cases h; rw [← ofBool_decide]; rfl
  case slli d a k => cases h; rw [← shiftLeft_word]; rfl
  case srli d a k => cases h; rw [← shiftRight_word]; rfl
  case srai d a k => cases h; rw [← shiftArith_word]; rfl
  case lui d i => cases h; rw [← upper_word]; rfl
  case ldpc d i => cases h; rw [word_add, word_mul, word_toInt]; rfl
  case liHi d i => cases h; rw [← long_word]; rfl
  case hAddi d i => cases h; rw [word_add, word_toInt]; rfl
  case hAdd d a => cases h; rw [word_add, word_toInt, word_toInt]; rfl
  case hSub d a => cases h; rw [word_sub, word_toInt, word_toInt]; rfl
  case hNop => cases h; exact congrArg (finish 2 none s) (s.writeX_zero 0).symm
  case andi | ori | xori | li | hLi | hMv => cases h; rfl
  all_goals cases h

/-- Settles O3: each form writes its value to `rd` by the one shape of a scalar instruction. -/
theorem immediates : Obligations.Immediates := by
  unfold Obligations.Immediates
  exact fun i len d rs v s h hc => computes_of_finish (exec_of_immRow h) hc

/-! ## Branches (R89) -/

theorem targetCheck_eq_none {s : State} {a : Word} (h : SameBuffer s a) : s.targetCheck a = none := by
  rw [State.targetCheck, failIf_eq_none]
  simpa [SameBuffer] using h

theorem targetCheck_eq_some {s : State} {a : Word} (h : ¬SameBuffer s a) :
    s.targetCheck a = some { cause := cRIGHT, erec1 := a.toNat } := by
  rw [State.targetCheck, failIf, if_pos]
  simpa [SameBuffer] using h

theorem transfers_retireTo (a : Word) (s : State) : Transfers a s.cur s (retireTo a s) :=
  ⟨rfl, fun c => retireTo_core a s c, rfl⟩

/-- What a conditional branch does, from its condition. -/
theorem branchIf_steps {i : Instr} {w len : Nat} {b : Bool} {rs : List (BitVec 5)} {off : BitVec w} {s : State}
    (hexec : exec i s = branchIf len b rs off s) (hc : Clean s.cur rs) {c : Prop} (hb : b = true ↔ c) :
    (¬c → ∃ t, exec i s = .next t ∧ Retires len s.cur s t) ∧
    (c → SameBuffer s (place s off.toInt) →
      ∃ t, exec i s = .next t ∧ Transfers (place s off.toInt) s.cur s t) ∧
    (c → ¬SameBuffer s (place s off.toInt) →
      Traps i len { cause := cRIGHT, erec1 := (place s off.toInt).toNat } s) := by
  rw [branchIf, (s.cur.scalarPoison_eq_none rs).mpr hc, target_eq_place] at hexec
  refine ⟨fun hn => ?_, fun hp hsame => ?_, fun hp hother => ?_⟩
  · rw [if_neg (mt hb.mp hn)] at hexec
    exact ⟨_, hexec, retires_retire len s.cur rfl rfl rfl⟩
  · rw [if_pos (hb.mpr hp), targetCheck_eq_none hsame] at hexec
    exact ⟨_, hexec, transfers_retireTo _ s⟩
  · rw [if_pos (hb.mpr hp), targetCheck_eq_some hother] at hexec
    exact traps_takeTrap hexec

/-- Settles O4: each branch is the shared operation on its own condition. -/
theorem branches : Obligations.Branches := by
  unfold Obligations.Branches
  intro i len rs c o s h hc
  unfold branchRow at h
  split at h
  case h_9 => cases h
  all_goals
    simp only [Option.some.injEq, Prod.mk.injEq] at h
    obtain ⟨rfl, rfl, rfl, rfl⟩ := h
  case h_1 => exact branchIf_steps rfl hc beq_iff_eq
  case h_2 => exact branchIf_steps rfl hc bne_iff_ne
  case h_3 => exact branchIf_steps rfl hc BitVec.slt_iff_toInt_lt
  case h_4 => exact branchIf_steps rfl hc (by simp [BitVec.slt])
  case h_5 => exact branchIf_steps rfl hc BitVec.ult_iff_toNat_lt
  case h_6 => exact branchIf_steps rfl hc (by simp [BitVec.ult])
  case h_7 => exact branchIf_steps rfl hc beq_iff_eq
  case h_8 => exact branchIf_steps rfl hc bne_iff_ne

/-! ## Jumps (R90) -/

theorem firstTrap_singleton (c : Option Trap) : firstTrap [c] = c := by cases c <;> rfl

theorem exec_of_jumpRow {i : Instr} {len : Nat} {d : BitVec 5} {rs : List (BitVec 5)} {a : Word} {s : State}
    (h : jumpRow s i = some (len, d, rs, a)) (hc : Clean s.cur rs) :
    exec i s = jumpTo len (failIf (!rs.isEmpty && a.getLsbD 0) { cause := cALIGN, erec1 := a.toNat }) d a s := by
  unfold jumpRow at h
  split at h
  case h_4 => cases h
  all_goals
    simp only [Option.some.injEq, Prod.mk.injEq] at h
    obtain ⟨rfl, rfl, rfl, rfl⟩ := h
  case h_1 d o => rw [← target_eq_place]; rfl
  case h_2 d a i =>
    have hexec : exec (.jalr d a i) s = execJalr d a i s := rfl
    rw [hexec, execJalr, (s.cur.scalarPoison_eq_none [a]).mpr hc, word_add, word_toInt,
      firstTrap_none, firstTrap_singleton]
    rfl
  case h_3 o => rw [← target_eq_place]; rfl

/-- Settles O5: a jump checks `ALIGN`, then `RIGHT`, and writes its link only where both pass. -/
theorem jumps : Obligations.Jumps := by
  unfold Obligations.Jumps
  intro i len d rs a s h hc
  have hexec := exec_of_jumpRow h hc
  rw [jumpTo] at hexec
  have heven (he : a.getLsbD 0 = false ∨ rs = []) : (!rs.isEmpty && a.getLsbD 0) = false := by
    obtain he | rfl := he
    · rw [he, Bool.and_false]
    · rfl
  refine ⟨fun hsame he => ?_, fun hodd hrs => ?_, fun hother he => ?_⟩
  · rw [heven he, targetCheck_eq_none hsame] at hexec
    refine ⟨_, hexec, writesX_writeX d _ rfl rfl, rfl, ?_, fun c => ?_, rfl⟩
    · have hframe := s.cur.writeX_frame d (s.cur.pc + BitVec.ofNat 64 len)
      exact congrArg (fun h : Hart => { h with pc := s.cur.pc, answers := s.cur.answers }) hframe
    · rw [retireTo_core, State.writeX_cur, Hart.writeX_core]
      rfl
  · rw [hodd, List.isEmpty_eq_false_iff.mpr hrs] at hexec
    exact traps_takeTrap hexec
  · rw [heven he, targetCheck_eq_some hother] at hexec
    exact traps_takeTrap hexec
end Sys2Proof.Machine
end

section
/-! SUPPORT. What an access that performs may change, and where it leaves bytes: one relation, kept by
flushes and by the ordering before an access (R236, R239, R273). -/

namespace Sys2Proof.Machine
open Sys2Proof.Claims

/-! ## The relation -/

/-- The hart without the bytes that it may still fetch after a store to code (R57). -/
def Hart.noFetch (h : Hart) : Hart := { h with ifetch := [] }

/-- The state `t` with what an access that performs may change outside its context's core put back as in `s`. -/
def State.performBefore (t s : State) : State :=
  { t with
    cur := s.cur, rest := s.rest, cores := s.cores, home := s.home, ptes := s.ptes, banks := s.banks, raa := s.raa
    buses := s.buses, fresh := s.fresh, frames := s.frames, mem := s.mem, poison := s.poison }

/-- What checking, counting and performing an access of the running context may change: besides what `Accessed` names,
the core's own L1, bytes at their home and in the banks, and bytes that a hart may still fetch. -/
structure Performed (s t : State) : Prop where
  rest : t.performBefore s = s
  hart : (t.cur.asBefore s.cur).noFetch = s.cur.noFetch
  harts : t.rest.map Hart.noFetch = s.rest.map Hart.noFetch
  entries : ∀ p f, PteKept (s.pte p f) (t.pte p f)
  banks : s.cur.pins = false ∨ twf .reset s.banks = true → ∀ b, BankKept s.cur (s.bank b) (t.bank b)
  wf : twf .reset s.banks = true → twf .reset t.banks = true
  buses : ∀ n, t.bus n = s.bus n ∨ t.bus n = { s.bus n with quiesced := false }
  others : ∀ c, c ≠ own s → t.core c = s.core c
  self : { t.core (own s) with
    gtlb := (s.core (own s)).gtlb, bufs := (s.core (own s)).bufs, l1 := (s.core (own s)).l1 } = s.core (own s)
  tags : ∀ p f, (t.frame p f).tags = (s.frame p f).tags
  poison : ∀ g ∈ t.poison, g ∈ s.poison

/-- A hart that agrees but for its fetched bytes has the status, the phase, the key and the core that it had. -/
theorem Hart.noFetch_keeps {h g : Hart} (hg : (h.asBefore g).noFetch = g.noFetch) :
    h.key = g.key ∧ h.pins = g.pins ∧ h.core = g.core ∧ h.pc = g.pc ∧ h.x = g.x ∧ h.xPoison = g.xPoison := by
  have hpins : (h.asBefore g).noFetch.pins = h.pins := rfl
  exact ⟨(congrArg Hart.key hg :), hpins ▸ (congrArg Hart.pins hg :), (congrArg Hart.core hg :), (congrArg Hart.pc hg :),
    (congrArg Hart.x hg :), (congrArg Hart.xPoison hg :)⟩

theorem Accessed.performed {s t : State} (h : Accessed s t) : Performed s t where
  rest := (congrArg (fun x : State => x.performBefore s) h.rest :)
  hart := congrArg Hart.noFetch h.hart
  harts := (congrArg (fun x : State => x.rest.map Hart.noFetch) h.rest :)
  entries := h.entries
  banks := h.banks
  wf := h.wf
  buses := h.buses
  others := h.others
  self := (congrArg (fun k : CoreState => { k with l1 := (s.core (own s)).l1 }) h.self :)
  tags p f := (congrArg (fun x : State => (x.frame p f).tags) h.rest :)
  poison _ hg := h.poison_eq ▸ hg

namespace Performed

variable {s t u : State}

theorem refl (s : State) : Performed s s := (Accessed.refl s).performed

theorem own_eq (h : Performed s t) : own t = own s := by
  obtain ⟨-, -, hcore, -⟩ := Hart.noFetch_keeps h.hart
  exact congrArg BitVec.toNat hcore

theorem trans (h : Performed s t) (g : Performed t u) : Performed s u where
  rest := (congrArg (fun x : State => x.performBefore s) g.rest).trans h.rest
  hart := (congrArg (fun x : Hart => (x.asBefore s.cur).noFetch) g.hart).trans h.hart
  harts := g.harts.trans h.harts
  entries p f := (h.entries p f).trans (g.entries p f)
  banks hp b := by
    obtain ⟨hkey, hpins, -⟩ := Hart.noFetch_keeps h.hart
    obtain ⟨h1, h2, h3⟩ := g.banks (hp.imp (fun hp => hpins.trans hp) h.wf) b
    exact (h.banks hp b).trans ⟨h1, fun k hk => h2 k (hkey.symm ▸ hk), fun hp => h3 (hpins.trans hp)⟩
  wf hw := g.wf (h.wf hw)
  buses n := by
    rcases g.buses n with hg | hg <;> rcases h.buses n with hh | hh <;> simp [hg, hh]
  others c hc := (g.others c (h.own_eq.symm ▸ hc)).trans (h.others c hc)
  self := by
    have hg := g.self
    rw [h.own_eq] at hg
    exact (congrArg (fun k : CoreState => { k with
      gtlb := (s.core (own s)).gtlb, bufs := (s.core (own s)).bufs, l1 := (s.core (own s)).l1 }) hg).trans h.self
  tags p f := (g.tags p f).trans (h.tags p f)
  poison x hx := h.poison x (g.poison x hx)

/-- The running context's own core with other dirty bytes, and other bytes at their home. -/
theorem setL1 (s : State) {c : Nat} (hc : c = own s) (l1 home : List Host.Cell) :
    Performed s { s.setCore c { s.core c with l1 := l1 } with home := home } :=
  { Performed.refl s with
    others := fun d hd => tget_tset_ne _ _ _ (hc ▸ hd)
    self := by
      subst hc
      exact congrArg (fun k : CoreState => { k with
        gtlb := (s.core (own s)).gtlb, bufs := (s.core (own s)).bufs, l1 := (s.core (own s)).l1 })
        (State.core_setCore_self s (own s) { s.core (own s) with l1 := l1 }) }

theorem flushCore (s : State) : Performed s (s.flushCore (own s)) := setL1 s rfl _ _

theorem flushSectors (s : State) (pa n : Nat) : Performed s (s.flushSectors (own s) pa n) := by
  unfold State.flushSectors
  split
  · exact refl s
  · exact setL1 s rfl _ _

/-- The frame of an access that has performed and retires, the banks' bytes and marks put back. -/
theorem touches (h : Performed s u) (hrest : { t with cur := u.cur, cores := u.cores } = u)
    (hcores : ∀ c, t.core c = if c = own s then { u.core c with instret := (u.core c).instret + 1 } else u.core c) :
    Touches s (sameStore s t) where
  rest := (congrArg (fun x : State => x.performBefore s) hrest).trans h.rest
  entries p f := by
    have hpte : (sameStore s t).pte p f = u.pte p f := (congrArg (fun x : State => x.pte p f) hrest :)
    rw [hpte]
    exact h.entries p f
  banks hp b := by
    have hbank : (sameStore s t).bank b = u.bank b := (congrArg (fun x : State => x.bank b) hrest :)
    rw [hbank]
    exact h.banks hp b
  buses n := by
    have hbus : (sameStore s t).bus n = u.bus n := (congrArg (fun x : State => x.bus n) hrest :)
    rw [hbus]
    exact h.buses n
  harts := (congrArg (fun x : State => x.rest.map Hart.noFetch) hrest).trans h.harts
  others c hc := (hcores c).trans (by rw [if_neg hc, h.others c hc])
  self := by
    have hself := hcores (own s)
    rw [if_pos rfl] at hself
    exact (congrArg (fun k : CoreState => { k with
      gtlb := (s.core (own s)).gtlb, bufs := (s.core (own s)).bufs, l1 := (s.core (own s)).l1
      instret := (s.core (own s)).instret }) hself).trans
      (congrArg (fun k : CoreState => { k with instret := (s.core (own s)).instret }) h.self :)

/-- An access that has performed and retires: its frame, its PC and its count. -/
theorem retire (h : Performed s u) (len : Nat) {g : Hart} (hg : { g with x := u.cur.x, xPoison := u.cur.xPoison } = u.cur) :
    StoreStep len s (Machine.retire len (u.setCur g)) := by
  have hcore : g.core = u.cur.core := (congrArg Hart.core hg :)
  have hpc : g.pc = u.cur.pc := (congrArg Hart.pc hg :)
  obtain ⟨-, -, hcores, hspc, -⟩ := Hart.noFetch_keeps h.hart
  have howner : (u.setCur g).cur.core.toNat = own s := (congrArg BitVec.toNat hcore).trans h.own_eq
  have hcount (c : Nat) : (Machine.retire len (u.setCur g)).core c =
      if c = own s then { u.core c with instret := (u.core c).instret + 1 } else u.core c :=
    (retireTo_core _ _ c).trans (by rw [howner]; rfl)
  have htouches := h.touches (t := Machine.retire len (u.setCur g)) rfl hcount
  refine ⟨⟨htouches, h.tags, h.poison⟩, htouches, ?_, ?_, ?_⟩
  · have hback := (congrArg (fun k : Hart => { (k.asBefore s.cur).noFetch with
      x := s.cur.x, xPoison := s.cur.xPoison, pc := s.cur.pc, answers := s.cur.answers, ifetch := s.cur.ifetch }) hg).trans
      (congrArg (fun k : Hart => { k with
        x := s.cur.x, xPoison := s.cur.xPoison, pc := s.cur.pc, answers := s.cur.answers, ifetch := s.cur.ifetch })
        h.hart)
    exact hback
  · rw [← hspc, ← hpc]
    rfl
  · refine (congrArg CoreState.instret (hcount (own s))).trans ?_
    rw [if_pos rfl]
    exact congrArg (· + 1) (congrArg CoreState.instret h.self :)

end Performed

/-! ## Dirty bytes written home (R273) -/

theorem overlayGet_filter (o : List Host.Cell) (p : Nat → Bool) (a : Nat) :
    overlayGet (o.filter fun x => p x.1) a = if p a then overlayGet o a else none := by
  induction o with
  | nil => simp [overlayGet]
  | cons c o ih =>
    obtain ⟨j, v⟩ := c
    by_cases hj : p j <;> by_cases hja : j = a
    · subst hja
      simp [overlayGet, hj]
    · simp [overlayGet, hj, hja, ih]
    · subst hja
      simp [hj, ih]
    · simp [overlayGet, hj, hja, ih]

/-- Where the bytes of a line lie, apart from L1 and home: what the banks hold depends on neither. -/
theorem bankByte_congr {s t : State} (hmem : t.mem = s.mem) (hcodes : ∀ p f, (t.frame p f).codes = (s.frame p f).codes)
    (a : Nat) : t.bankByte a = s.bankByte a := by
  have hcode (pa : Nat) : t.codeOf pa = s.codeOf pa := by rw [State.codeOf, State.codeOf, hcodes]
  have hgranule (g : Nat) : t.granule g = s.granule g := by rw [State.granule, State.granule, hcode, hmem]
  rw [State.bankByte, State.bankByte, hcode, hgranule, hmem]

theorem homeByte_congr {s t : State} (hmem : t.mem = s.mem) (hhome : t.home = s.home)
    (hcodes : ∀ p f, (t.frame p f).codes = (s.frame p f).codes) (a : Nat) : t.homeByte a = s.homeByte a := by
  rw [State.homeByte, State.homeByte, bankByte_congr hmem hcodes, hhome]

theorem Accessed.homeByte {s t : State} (h : Accessed s t) (a : Nat) : t.homeByte a = s.homeByte a :=
  homeByte_congr (congrArg State.mem h.rest :) (congrArg State.home h.rest :)
    (fun p f => (congrArg (fun x : State => (x.frame p f).codes) h.rest :)) a

theorem State.homeByte_flushL1 (s : State) (c lo hi a : Nat) :
    (s.flushL1 c lo hi).homeByte a = if lo ≤ a ∧ a < hi then s.coreByte c a else s.homeByte a := by
  have h : (s.flushL1 c lo hi).homeByte a = (overlayGet (((s.core c).l1.filter fun x =>
      decide (lo ≤ x.1) && decide (x.1 < hi)).foldr (fun x o => overlaySet o x.1 x.2) s.home) a).getD (s.bankByte a) :=
    rfl
  rw [h, overlayGet_foldr_set, overlayGet_filter _ fun x => decide (lo ≤ x) && decide (x < hi)]
  by_cases hin : lo ≤ a ∧ a < hi
  · rw [if_pos (by simpa using hin), if_pos hin, State.coreByte, State.homeByte]
    cases overlayGet (s.core c).l1 a <;> rfl
  · rw [if_neg (by simpa using hin), if_neg hin]
    rfl

theorem State.coreByte_flushL1 (s : State) (c lo hi a : Nat) : (s.flushL1 c lo hi).coreByte c a = s.coreByte c a := by
  have hl1 : ((s.flushL1 c lo hi).core c).l1 = overlayDrop (s.core c).l1 lo hi :=
    congrArg CoreState.l1 (State.core_setCore_self s c { s.core c with l1 := overlayDrop (s.core c).l1 lo hi })
  rw [State.coreByte, hl1, overlayGet_drop, State.homeByte_flushL1]
  split
  · rfl
  · rfl

theorem State.coreByte_flushCore (s : State) (c a : Nat) : (s.flushCore c).coreByte c a = s.coreByte c a := by
  rw [State.coreByte, State.core_flushCore, if_pos rfl, State.homeByte_flushCore]
  rfl

theorem State.coreByte_flushSectors (s : State) (c pa n a : Nat) :
    (s.flushSectors c pa n).coreByte c a = s.coreByte c a := by
  unfold State.flushSectors
  split
  · rfl
  · exact s.coreByte_flushL1 c _ _ a

open Classical in
theorem State.homeByte_flushSectors (s : State) (c : Nat) {pa n : Nat} (hn : 0 < n) (a : Nat) :
    (s.flushSectors c pa n).homeByte a = if InSectors pa n a then s.coreByte c a else s.homeByte a := by
  rw [State.flushSectors, if_neg (Nat.ne_of_gt hn), State.homeByte_flushL1]
  have hin : (pa / 64 * 64 ≤ a ∧ a < (pa + n - 1) / 64 * 64 + 64) ↔ InSectors pa n a := by
    rw [InSectors]
    omega
  simp only [hin]

theorem coreByte_retire (len : Nat) (u : State) (c a : Nat) : (retire len u).coreByte c a = u.coreByte c a := by
  have hl1 : ((retire len u).core c).l1 = (u.core c).l1 := by
    rw [show (retire len u).core c = _ from retireTo_core _ u c]
    split <;> rfl
  exact coreByte_congr (s := u) (t := retire len u) rfl rfl rfl hl1 a

/-! ## What the ordering of an access does before it (R236, R239, R273) -/

theorem scopeWide_eq (sc : Scope) : scopeWide sc = !(sc == .hart || sc == .core) := by cases sc <;> rfl

theorem releases_eq (o : Ord) : releases o = (o == .rel || o == .ar) := by cases o <;> rfl

theorem acquires_eq (o : Ord) : acquires o = (o == .acq || o == .ar) := by cases o <;> rfl

/-- The ordering of an access to one piece of package memory: all dirty bytes of the core go home, then those of the
piece's sectors. -/
theorem orderBefore_pkg (s : State) (o : Ord) (sc : Scope) (p : Piece1) {pa : Nat} (hp : p.loc = .pkg pa) :
    s.orderBefore o sc [p] =
      let s1 := if releasesAt o sc then s.flushCore (own s) else s
      if acquiresAt o sc then s1.flushSectors (own s) pa p.n else s1 := by
  have hwide : wideFor sc [p] = !(sc == .hart || sc == .core) := by
    rw [wideFor, scopeWide_eq, List.any_cons, hp]
    exact Bool.or_false _
  have hflush (s1 : State) (howner : own s1 = own s) : s1.flushPieces [p] = s1.flushSectors (own s) pa p.n := by
    rw [State.flushPieces, List.foldl_cons, hp, ← howner]
    rfl
  have howner : own (if releasesAt o sc then s.flushCore (own s) else s) = own s := by split <;> rfl
  dsimp only
  rw [← hflush _ howner]
  unfold State.orderBefore
  rw [hwide, releases_eq, acquires_eq]
  rfl

section Ordering

variable (s : State) (o : Ord) (sc : Scope) (p : Piece1) {pa : Nat}

theorem Performed.orderBefore (hp : p.loc = .pkg pa) : Performed s (s.orderBefore o sc [p]) := by
  rw [orderBefore_pkg s o sc p hp]
  have hrel : Performed s (if releasesAt o sc then s.flushCore (own s) else s) := by
    split
    · exact .flushCore s
    · exact .refl s
  dsimp only
  split
  · have hacq := Performed.flushSectors (if releasesAt o sc then s.flushCore (own s) else s) pa p.n
    rw [hrel.own_eq] at hacq
    exact hrel.trans hacq
  · exact hrel

/-- Ordering changes dirty bytes and homes only. -/
theorem orderBefore_frame (hp : p.loc = .pkg pa) :
    { s.orderBefore o sc [p] with cores := s.cores, home := s.home } = s := by
  rw [orderBefore_pkg s o sc p hp]
  dsimp only [State.flushSectors]
  split_ifs <;> rfl

theorem coreByte_orderBefore (hp : p.loc = .pkg pa) (a : Nat) :
    (s.orderBefore o sc [p]).coreByte (own s) a = s.coreByte (own s) a := by
  rw [orderBefore_pkg s o sc p hp]
  dsimp only
  split_ifs
  · rw [State.coreByte_flushSectors, State.coreByte_flushCore]
  · rw [State.coreByte_flushSectors]
  · rw [State.coreByte_flushCore]
  · rfl

theorem homeBefore_orderBefore (hp : p.loc = .pkg pa) (hn : 0 < p.n) (a : Nat) :
    HomeBefore s o sc pa p.n a ((s.orderBefore o sc [p]).homeByte a) := by
  rw [orderBefore_pkg s o sc p hp]
  dsimp only
  by_cases hrel : releasesAt o sc = true <;> by_cases hacq : acquiresAt o sc = true <;>
    by_cases hin : InSectors pa p.n a <;>
    simp [HomeBefore, hrel, hacq, hin, State.homeByte_flushSectors _ _ hn, State.homeByte_flushCore,
      State.coreByte_flushCore]

end Ordering

theorem homeBefore_congr {s t : State} (hown : own t = own s) (hcore : ∀ a, t.coreByte (own s) a = s.coreByte (own s) a)
    (hhome : ∀ a, t.homeByte a = s.homeByte a) (o : Ord) (sc : Scope) (pa n a : Nat) (b : Byte) :
    HomeBefore t o sc pa n a b ↔ HomeBefore s o sc pa n a b := by
  rw [HomeBefore, HomeBefore, hown, hcore, hhome]

end Sys2Proof.Machine
end

section
/-! SUPPORT. Scalar loads (R85-R87). -/

namespace Sys2Proof.Machine
open Sys2Proof.Claims

/-! ## Loads of one piece of package memory (R85-R87) -/

/-- The bytes of one piece of package memory, as a number. -/
theorem leNat_bytesAt_pkg (s : State) {p : Piece1} {pa : Nat} (hp : p.loc = .pkg pa) :
    leNat (bytesAt s [p]) = valueAt s pa p.n := by
  rw [bytesAt, List.flatMap_singleton, hp]
  exact leNat_map_range _ _

theorem ofInt_signedOf {w : Nat} (hw : 0 < w) (v : Nat) :
    BitVec.ofInt 64 (signedOf w v) = (BitVec.ofNat w v).signExtend 64 := by
  have hint : (BitVec.ofNat w v).toInt = signedOf w v := by
    have hhalf : 2 ^ w = 2 * 2 ^ (w - 1) := by rw [← Nat.pow_succ', Nat.succ_eq_add_one, Nat.sub_add_cancel hw]
    rw [BitVec.toInt_eq_toNat_cond, BitVec.toNat_ofNat, signedOf]
    split_ifs with h1 h2
    · rfl
    · omega
    · omega
    · rfl
  rw [BitVec.signExtend, hint]

theorem loadRow_n_pos {i : Instr} {r : LoadRow} (h : loadRow i = some r) : 0 < r.n := by
  unfold loadRow at h
  split at h
  case h_10 => cases h
  all_goals
    simp only [Option.some.injEq] at h
    subst h
    exact Nat.succ_pos _

/-- Every scalar load is the shared operation on its row. -/
theorem exec_of_loadRow {i : Instr} {r : LoadRow} (h : loadRow i = some r) (s : State) :
    exec i s = loadExec r.len r.n r.uns r.rd r.rb r.ord r.scope r.off s := by
  unfold loadRow at h
  split at h
  case h_10 => cases h
  all_goals
    simp only [Option.some.injEq] at h
    subst h
  case h_8 | h_9 => exact congrArg (loadExec _ _ _ _ _ _ _ · s) (Nat.mul_comm _ _)
  case h_1 | h_2 => exact congrArg (loadExec _ _ _ _ _ _ _ · s) (Nat.mul_one _)
  all_goals exact congrArg (loadExec _ _ _ _ _ _ _ · s) (Nat.mul_comm _ _)

theorem Accessed.store_eq {s t : State} (h : Accessed s t) :
    t.frames = s.frames ∧ t.mem = s.mem ∧ t.poison = s.poison :=
  ⟨(congrArg State.frames h.rest :), (congrArg State.mem h.rest :), h.poison_eq⟩

theorem sameStore_of_eq {s t : State} (hframes : t.frames = s.frames) (hmem : t.mem = s.mem)
    (hpoison : t.poison = s.poison) : sameStore s t = t := by
  rw [sameStore, ← hframes, ← hmem, ← hpoison]

/-- What a load of one sound piece of package memory gives: its bytes, as the core reads them; the access has performed,
and every byte lies at home where the ordering leaves it. -/
theorem loadOne_pkg_performs {s s1 : State} {spec : AccSpec} {u : UnitAcc} {sp : Space} {p : Piece1} {pa : Nat}
    (o : Ord) (sc : Scope) (hreach : s.reachOne spec u = .ok (sp, [p]) s1) (hp : p.loc = .pkg pa) (hn : 0 < p.n)
    (hsound : Unpoisoned s pa p.n) :
    ∃ t, s.loadOne spec o sc u = .ok (bytesAt s [p]) t ∧ Performed s t ∧
      sameStore s t = t ∧ (∀ a, t.coreByte (own s) a = s.coreByte (own s) a) ∧ ∀ a, HomeBefore s o sc pa p.n a (t.homeByte a) := by
  have hpkg : ∀ q ∈ [p], ∃ pa, q.loc = .pkg pa := by
    intro q hq
    rw [List.mem_singleton.mp hq]
    exact ⟨pa, hp⟩
  have hacc := Accessed.reachOne hreach hpkg
  let s2 := s1.orderBefore o sc [p]
  have hord : Performed s1 s2 := .orderBefore s1 o sc p hp
  have hframe : { s2 with cores := s1.cores, home := s1.home } = s1 := orderBefore_frame s1 o sc p hp
  have hbyte (a : Nat) : s2.coreByte (own s) a = s.coreByte (own s) a := by
    rw [← hacc.coreByte, ← hacc.own_eq]
    exact coreByte_orderBefore s1 o sc p hp a
  have hread : Readable s2 [p] := by
    intro q hq
    rw [List.mem_singleton.mp hq]
    refine ⟨pa, hp, fun a h1 h2 hmem => hsound a h1 h2 ?_⟩
    rw [← hacc.poison_eq]
    exact hord.poison _ hmem
  have hbytes : bytesAt s2 [p] = bytesAt s [p] := by
    simp only [bytesAt, hord.own_eq, hacc.own_eq, hbyte]
  have hcount := Accessed.count s2 spec.idx [p] []
  refine ⟨s2.count spec.idx [p] [], ?_, (hacc.performed.trans hord).trans hcount.performed, ?_, fun a => ?_, fun a => ?_⟩
  · rw [State.loadOne, hreach]
    dsimp only [MemRes.bind]
    rw [readPieces_pkg hread, hbytes]
  · obtain ⟨f1, m1, p1⟩ := hacc.store_eq
    obtain ⟨f3, m3, p3⟩ := hcount.store_eq
    have f2 : s2.frames = s1.frames := (congrArg State.frames hframe :)
    have m2 : s2.mem = s1.mem := (congrArg State.mem hframe :)
    have p2 : s2.poison = s1.poison := (congrArg State.poison hframe :)
    exact sameStore_of_eq (f3.trans (f2.trans f1)) (m3.trans (m2.trans m1)) (p3.trans (p2.trans p1))
  · rw [hcount.coreByte, hbyte]
  · rw [hcount.homeByte, ← homeBefore_congr hacc.own_eq (fun a => by rw [hacc.coreByte]) hacc.homeByte]
    exact homeBefore_orderBefore s1 o sc p hp hn a

/-- Settles O10: the one piece is reached, ordered, read and counted; then `rd` takes its bytes. -/
theorem loads : Obligations.Loads := by
  unfold Obligations.Loads
  intro i r pa sp s hrow hreaches hclean hsound
  obtain ⟨lc, s1, hreach⟩ := hreaches
  obtain ⟨u, hload, hperf, hstore, hbyte, hhome⟩ :=
    loadOne_pkg_performs r.ord r.scope hreach rfl (loadRow_n_pos hrow) hsound
  let v : Word := extended r.n r.uns (valueAt s pa r.n)
  have hend : exec i s = .next (retire r.len (u.writeX r.rd v)) := by
    rw [exec_of_loadRow hrow, loadExec, (s.cur.scalarPoison_eq_none [r.rb]).mpr hclean]
    dsimp only [memFinish]
    rw [hload, MemRes.finish, MemRes.settle, leNat_bytesAt_pkg s rfl,
      ofInt_signedOf (Nat.mul_pos (by decide) (loadRow_n_pos hrow))]
    rfl
  obtain ⟨-, -, -, -, hx, hxp⟩ := Hart.noFetch_keeps hperf.hart
  have hstep := hperf.retire r.len (g := u.cur.writeX r.rd v) (u.cur.writeX_frame r.rd v)
  have hsame : sameStore s (retire r.len (u.writeX r.rd v)) = retire r.len (u.writeX r.rd v) :=
    congrArg (fun x : State => retire r.len (x.writeX r.rd v)) hstore
  obtain ⟨-, haccess⟩ := hstep
  refine ⟨_, hend, hsame ▸ haccess, ?_, fun a => ?_, fun a => ?_⟩
  · exact writesX_writeX r.rd v hx hxp
  · exact (coreByte_retire r.len _ (own s) a).trans (hbyte a)
  · exact hhome a

end Sys2Proof.Machine
end

section
/-! SUPPORT. The beats of a granule give it back under the code that its controller chooses (R280, R281). -/

namespace Sys2Proof.Machine

/-! ## Words of a granule -/

theorem foldr_eq_leNat (bs : List Byte) : bs.foldr (fun b a => b.toNat + 256 * a) 0 = leNat bs := by
  induction bs with
  | nil => rfl
  | cons b bs ih => rw [List.foldr_cons, ih]; rfl

@[simp] theorem wordsOf_length (n k : Nat) (bs : List Byte) : (wordsOf n k bs).length = k := by
  induction k generalizing bs with
  | zero => rfl
  | succ k ih => simp [wordsOf, ih]

theorem wordsOf_succ (n k : Nat) (bs : List Byte) :
    wordsOf n (k + 1) bs = leNat (bs.take n) :: wordsOf n k (bs.drop n) := by
  rw [wordsOf, foldr_eq_leNat]

theorem lt_of_mem_wordsOf {n k : Nat} {bs : List Byte} {x : Nat} (hx : x ∈ wordsOf n k bs) : x < 256 ^ n := by
  induction k generalizing bs with
  | zero => exact absurd hx List.not_mem_nil
  | succ k ih =>
    rw [wordsOf_succ, List.mem_cons] at hx
    rcases hx with rfl | hx
    · exact Nat.lt_of_lt_of_le (leNat_lt _) (Nat.pow_le_pow_right (by decide) (List.length_take_le _ _))
    · exact ih hx

theorem leBytes_eq_map (n v : Nat) : leBytes n v = (List.range n).map fun j => BitVec.ofNat 8 (v / 256 ^ j) := by
  induction n generalizing v with
  | zero => rfl
  | succ n ih =>
    rw [leBytes, ih, List.range_succ_eq_map, List.map_cons, List.map_map]
    simp [Function.comp_def, Nat.div_div_eq_div_mul, Nat.pow_succ']

theorem bytesOf_eq_leBytes (n v : Nat) : bytesOf n v = leBytes n v := by
  rw [leBytes_eq_map, bytesOf]
  refine List.map_congr_left fun j _ => ?_
  rw [bitsAt, Nat.pow_mul, ← BitVec.toNat_inj, BitVec.toNat_ofNat, BitVec.toNat_ofNat, Nat.mod_mod]

/-- The words of a granule, written out again, are the granule. -/
theorem flatMap_leBytes_wordsOf {n k : Nat} {bs : List Byte} (h : bs.length = n * k) :
    (wordsOf n k bs).flatMap (leBytes n) = bs := by
  induction k generalizing bs with
  | zero => rw [List.eq_nil_of_length_eq_zero h]; rfl
  | succ k ih =>
    rw [Nat.mul_succ] at h
    rw [wordsOf_succ, List.flatMap_cons, leBytes_leNat (by rw [List.length_take]; omega),
      ih (by rw [List.length_drop]; omega), List.take_append_drop]

/-- Numbers written out in `n` bytes each read back, whatever follows. -/
theorem wordsOf_flatMap_leBytes (n : Nat) (vs : List Nat) (tail : List Byte) :
    wordsOf n vs.length (vs.flatMap (leBytes n) ++ tail) = vs.map (· % 256 ^ n) := by
  induction vs with
  | nil => rfl
  | cons v vs ih =>
    rw [List.length_cons, wordsOf_succ, List.flatMap_cons, List.append_assoc,
      List.take_left' (leBytes_length n v), List.drop_left' (leBytes_length n v), ih, leNat_leBytes]
    rfl

/-! ## Deltas (R280) -/

/-- Two numbers congruent modulo `m` that lie in one interval of `m` numbers are equal. -/
theorem eq_of_modEq_of_interval {a b lo m : Int} (h : a ≡ b [ZMOD m]) (ha : lo ≤ a ∧ a < lo + m) (hb : lo ≤ b ∧ b < lo + m) :
    a = b := by
  have hzero : b - a = 0 := Int.eq_zero_of_abs_lt_dvd h.dvd (abs_lt.mpr ⟨by omega, by omega⟩)
  omega

theorem signedOf_interval {k : Nat} (hk : 0 < k) (n : Nat) :
    -(2 ^ (k - 1) : Int) ≤ signedOf k n ∧ signedOf k n < -(2 ^ (k - 1) : Int) + (2 ^ k : Nat) := by
  have hhalf : 2 ^ k = 2 * 2 ^ (k - 1) := by rw [← Nat.pow_succ', Nat.succ_eq_add_one, Nat.sub_add_cancel hk]
  have hlt := Nat.mod_lt n (Nat.two_pow_pos k)
  have hcast : (2 ^ (k - 1) : Int) = ((2 ^ (k - 1) : Nat) : Int) := by push_cast; rfl
  rw [hcast, signedOf]
  split_ifs <;> omega

/-- A number that fits `k` bits keeps its value when it is cut to `k` bits. -/
theorem signedOf_cut {w k d : Nat} (hk : 0 < k) (hkw : k ≤ w) (hlo : -(2 ^ (k - 1) : Int) ≤ signedOf w d)
    (hhi : signedOf w d < 2 ^ (k - 1)) : signedOf k (d % 2 ^ k) = signedOf w d := by
  have hhalf : (2 ^ k : Int) = 2 * 2 ^ (k - 1) := by rw [← Int.pow_succ', Nat.sub_add_cancel hk]
  have hcut : signedOf k (d % 2 ^ k) ≡ (d : Int) [ZMOD 2 ^ k] := by
    refine (signedOf_modEq k _).trans ?_
    have hmod : ((d % 2 ^ k : Nat) : Int) = (d : Int) % 2 ^ k := by push_cast; rfl
    rw [hmod]
    exact Int.mod_modEq _ _
  have hwide : signedOf w d ≡ (d : Int) [ZMOD 2 ^ k] := (signedOf_modEq w d).of_dvd (pow_dvd_pow 2 hkw)
  obtain ⟨h1, h2⟩ := signedOf_interval hk (d % 2 ^ k)
  push_cast at h2
  exact eq_of_modEq_of_interval (hcut.trans hwide.symm) ⟨h1, h2⟩ ⟨hlo, by omega⟩

/-- A word is its base and the delta, cut to `k` bits when it fits. -/
theorem wrap_base_add_delta {w k base x : Nat} (hk : 0 < k) (hkw : k ≤ w) (hx : x < 2 ^ w)
    (hlo : -(2 ^ (k - 1) : Int) ≤ signedOf w (wrap w ((x : Int) - base)))
    (hhi : signedOf w (wrap w ((x : Int) - base)) < 2 ^ (k - 1)) :
    wrap w (base + signedOf k (wrap w ((x : Int) - base) % 2 ^ k)) = x := by
  rw [signedOf_cut hk hkw hlo hhi]
  have hmod : (base : Int) + signedOf w (wrap w ((x : Int) - base)) ≡ x [ZMOD 2 ^ w] := by
    have hdelta := ((signedOf_modEq w _).trans (wrap_modEq w ((x : Int) - base))).add_left base
    rwa [add_sub_cancel] at hdelta
  rw [wrap_congr hmod, wrap_natCast, Nat.mod_eq_of_lt hx]

/-- The word 0 of a granule and its deltas give the granule back, whatever follows them, when the deltas fit. -/
theorem expand_deltas {w d k : Nat} {bs : List Byte} (hd : 0 < d) (hdw : d ≤ w) (hk : 0 < k) (hlen : bs.length = w * k)
    (hfit : deltasFit (8 * w) (8 * d) (wordsOf w k bs) = true) (tail : List Byte) :
    let ws := wordsOf w k bs
    let beats := bytesOf w (ws.headD 0) ++ (deltas (8 * w) ws).flatMap (bytesOf d) ++ tail
    ((wordsOf d k (beats.drop w)).flatMap fun x =>
      bytesOf w (wrap (8 * w) (((wordsOf w 1 beats).headD 0 : Nat) + signedOf (8 * d) x))) = bs := by
  intro ws beats
  have hpow (n : Nat) : (256 : Nat) ^ n = 2 ^ (8 * n) := by rw [Nat.pow_mul]
  have hws : ws.length = k := wordsOf_length w k bs
  have hbase : (wordsOf w 1 beats).headD 0 = ws.headD 0 := by
    have hlt : ws.headD 0 < 256 ^ w := by
      have hne : ws ≠ [] := List.ne_nil_of_length_pos (hws ▸ hk)
      rw [List.headD_eq_head?_getD, List.head?_eq_some_head hne]
      exact lt_of_mem_wordsOf (List.head_mem hne)
    have htake : beats.take w = leBytes w (ws.headD 0) := by
      rw [show beats = leBytes w (ws.headD 0) ++ _ from by simp only [beats, bytesOf_eq_leBytes, List.append_assoc]; rfl]
      exact List.take_left' (leBytes_length _ _)
    rw [wordsOf_succ, htake, leNat_leBytes, Nat.mod_eq_of_lt hlt]
    rfl
  have hdeltas : wordsOf d k (beats.drop w) = (deltas (8 * w) ws).map (· % 256 ^ d) := by
    have hdrop : beats.drop w = (deltas (8 * w) ws).flatMap (leBytes d) ++ tail := by
      simp only [beats, bytesOf_eq_leBytes, List.append_assoc, funext (bytesOf_eq_leBytes d)]
      exact List.drop_left' (leBytes_length _ _)
    have hcount : (deltas (8 * w) ws).length = k := by rw [deltas, List.length_map, hws]
    rw [hdrop, ← wordsOf_flatMap_leBytes, hcount]
  have hback (x : Nat) (hx : x ∈ ws) :
      wrap (8 * w) ((ws.headD 0 : Nat) + signedOf (8 * d) (wrap (8 * w) ((x : Int) - (ws.headD 0 : Nat)) % 256 ^ d)) = x := by
    have hone := List.all_eq_true.mp hfit _ (List.mem_map_of_mem hx)
    rw [Bool.and_eq_true, decide_eq_true_eq, decide_eq_true_eq] at hone
    rw [hpow]
    exact wrap_base_add_delta (by omega) (by omega) (hpow w ▸ lt_of_mem_wordsOf hx) hone.1 hone.2
  calc _ = ws.flatMap (leBytes w) := by
        rw [hdeltas, hbase, deltas, List.map_map, List.flatMap_map]
        refine List.flatMap_congr fun x hx => ?_
        rw [bytesOf_eq_leBytes]
        exact congrArg (leBytes w) (hback x hx)
    _ = bs := flatMap_leBytes_wordsOf hlen

/-! ## Beats of a code (R280, R281) -/

theorem padTo_of_length {n : Nat} {bs : List Byte} (h : bs.length = n) : padTo n bs = bs := by
  rw [padTo, h, Nat.sub_self, List.replicate_zero, List.append_nil]

theorem padTo_length {n : Nat} {bs : List Byte} (h : bs.length ≤ n) : (padTo n bs).length = n := by
  rw [padTo, List.length_append, List.length_replicate]
  omega

theorem eq_replicate_of_all {α : Type} [BEq α] [LawfulBEq α] {l : List α} {a : α} (h : l.all (· == a) = true) :
    l = List.replicate l.length a :=
  List.eq_replicate_iff.mpr ⟨rfl, fun b hb => eq_of_beq (List.all_eq_true.mp h b hb)⟩

section Granules

variable {g : List Byte} (hg : g.length = 128)

include hg

theorem expandBeats_raw : expandBeats 0 (beatsOf 0 g) = g := by
  rw [beatsOf, if_pos rfl, padTo_of_length hg, expandBeats, if_pos rfl, List.take_of_length_le hg.le, padTo_of_length hg]

theorem expandBeats_zero (h : g.all (· == 0) = true) : expandBeats 1 (beatsOf 1 g) = g := by
  have hz := eq_replicate_of_all h
  rw [hg] at hz
  rw [hz]
  rfl

theorem expandBeats_repeat (h : (wordsOf 4 32 g).all (· == (wordsOf 4 32 g).headD 0) = true) :
    expandBeats 2 (beatsOf 2 g) = g := by
  have hwords := eq_replicate_of_all h
  have hhead : (wordsOf 4 32 g).headD 0 = leNat (g.take 4) := by rw [wordsOf_succ]; rfl
  have hfirst : leBytes 4 (leNat (g.take 4)) = g.take 4 := leBytes_leNat (by rw [List.length_take, hg]; rfl)
  have htake : (g.take 4).length = 4 := by rw [List.length_take, hg]; rfl
  have hbeats : expandBeats 2 (beatsOf 2 g) = (List.replicate 32 (g.take 4)).flatten := by
    show (List.replicate 32 (padTo 4 ((padTo 32 (g.take 4)).take 4))).flatten = _
    rw [show (padTo 32 (g.take 4)).take 4 = g.take 4 from List.take_left' htake, padTo_of_length htake]
  rw [hbeats]
  calc (List.replicate 32 (g.take 4)).flatten = (wordsOf 4 32 g).flatMap (leBytes 4) := by
        rw [hwords, wordsOf_length, hhead, List.flatMap_replicate, hfirst]
    _ = g := flatMap_leBytes_wordsOf hg

/-- What the delta codes have in common: sizes that divide a granule, and beats that hold word 0 and the deltas. -/
theorem expandBeats_delta {c w d : Nat} (hc : 2 < c) (hsizes : codeSizes c = (w, d)) (hd : 0 < d) (hdw : d ≤ w)
    (hk : 0 < 128 / w) (hw : w * (128 / w) = 128)
    (hfit : deltasFit (8 * w) (8 * d) (wordsOf w (128 / w) g) = true) : expandBeats c (beatsOf c g) = g := by
  have h0 : c ≠ 0 := by omega
  have h1 : c ≠ 1 := by omega
  have h2 : c ≠ 2 := by omega
  have hexpand := expand_deltas hd hdw hk (hg.trans hw.symm) hfit (List.replicate (32 * codeBeats c -
    (bytesOf w ((wordsOf w (128 / w) g).headD 0) ++ (deltas (8 * w) (wordsOf w (128 / w) g)).flatMap (bytesOf d)).length) 0)
  rw [expandBeats, if_neg h0, if_neg h1, if_neg h2, beatsOf, if_neg h0, if_neg h1, if_neg h2, hsizes]
  exact hexpand

/-- The beats of a granule under the code that a controller gives it are the granule (R281). -/
theorem expandBeats_granuleCode : expandBeats (granuleCode g) (beatsOf (granuleCode g) g) = g := by
  unfold granuleCode
  dsimp only
  split_ifs with hzero hsame h5 h3 h6 h4 h7
  · exact expandBeats_zero hg hzero
  · exact expandBeats_repeat hg hsame
  · exact expandBeats_delta hg (w := 8) (d := 1) (by decide) rfl (by decide) (by decide) (by decide) rfl h5
  · exact expandBeats_delta hg (w := 4) (d := 1) (by decide) rfl (by decide) (by decide) (by decide) rfl h3
  · exact expandBeats_delta hg (w := 8) (d := 2) (by decide) rfl (by decide) (by decide) (by decide) rfl h6
  · exact expandBeats_delta hg (w := 4) (d := 2) (by decide) rfl (by decide) (by decide) (by decide) rfl h4
  · exact expandBeats_delta hg (w := 8) (d := 4) (by decide) rfl (by decide) (by decide) (by decide) rfl h7
  · exact expandBeats_raw hg

end Granules

theorem granuleCode_le (g : List Byte) : granuleCode g ≤ 7 := by
  unfold granuleCode
  dsimp only
  split_ifs <;> decide

theorem codeBeats_le (c : Nat) : codeBeats c ≤ 4 := by
  unfold codeBeats
  split <;> decide

theorem flatMap_bytesOf_length (d : Nat) (vs : List Nat) : (vs.flatMap (bytesOf d)).length = d * vs.length := by
  have hone : ∀ v, (bytesOf d v).length = d := fun v => by rw [bytesOf, List.length_map, List.length_range]
  simp [List.length_flatMap, hone, Nat.mul_comm]

/-- A code's beats have the length that it says. -/
theorem beatsOf_length {g : List Byte} (hg : g.length = 128) {c : Nat} (hc : c ≤ 7) :
    (beatsOf c g).length = 32 * codeBeats c := by
  have hdelta {w d : Nat} (hroom : w + d * (128 / w) ≤ 32 * codeBeats c) :
      (padTo (32 * codeBeats c) (bytesOf w ((wordsOf w (128 / w) g).headD 0) ++
        (deltas (8 * w) (wordsOf w (128 / w) g)).flatMap (bytesOf d))).length = 32 * codeBeats c := by
    refine padTo_length ?_
    rw [List.length_append, flatMap_bytesOf_length, deltas, List.length_map, wordsOf_length, bytesOf, List.length_map,
      List.length_range]
    exact hroom
  interval_cases c
  · exact padTo_length hg.le
  · rfl
  · exact padTo_length (by rw [List.length_take]; omega)
  · exact hdelta (w := 4) (d := 1) (by decide)
  · exact hdelta (w := 4) (d := 2) (by decide)
  · exact hdelta (w := 8) (d := 1) (by decide)
  · exact hdelta (w := 8) (d := 2) (by decide)
  · exact hdelta (w := 8) (d := 4) (by decide)

end Sys2Proof.Machine
end

section
/-! SUPPORT. A granule replaced in the banks: its code, its bytes, and what the others keep (R278, R279, R281). -/

namespace Sys2Proof.Machine
open Sys2Proof.Claims

/-! ## Codes of granules (R279) -/

theorem frameKey_of_address (pa : Nat) : frameKey (paTable pa) (paFrame pa) = pa / 2 ^ 16 := by
  rw [frameKey, paTable, paFrame]
  omega

theorem frame_setFrame (s : State) (t f : Nat) (v : FrameMeta) (t' f' : Nat) :
    (s.setFrame t f v).frame t' f' = if frameKey t' f' = frameKey t f then v else s.frame t' f' := tget_tset _ _ _ _ _

theorem tags_setCode (s : State) (g v t f : Nat) : ((s.setCode g v).frame t f).tags = (s.frame t f).tags := by
  rw [State.setCode, frame_setFrame]
  split
  next h => rw [State.frame, State.frame, h]
  next => rfl

/-- A set code reads back at every address of its granule; other granules keep theirs. -/
theorem codeOf_setCode (s : State) (g v pa : Nat) :
    (s.setCode g v).codeOf pa = if pa / 128 = g then v % 2 ^ 4 else s.codeOf pa := by
  rw [State.codeOf, State.codeOf, State.setCode, frame_setFrame, frameKey_of_address, frameKey_of_address]
  have hlt (m : FrameMeta) (i : Nat) (hi : i < 512) : setBits m.codes.toNat (4 * i) 4 v < 2 ^ 2048 :=
    setBits_lt (w := 2048) v m.codes.isLt (by omega)
  by_cases hsame : pa / 2 ^ 16 = 128 * g / 2 ^ 16
  · have hm : s.frame (paTable (128 * g)) (paFrame (128 * g)) = s.frame (paTable pa) (paFrame pa) := by
      rw [State.frame, State.frame, frameKey_of_address, frameKey_of_address, hsame]
    rw [if_pos hsame, hm, BitVec.toNat_ofNat, Nat.mod_eq_of_lt (hlt _ _ (by omega))]
    split
    next hg =>
      rw [show pa % 2 ^ 16 / 128 = 128 * g % 2 ^ 16 / 128 by omega]
      exact bitsAt_setBits_self _ _ _ _
    next hg => exact bitsAt_setBits_of_disjoint _ _ (by omega)
  · rw [if_neg hsame, if_neg (by omega)]

/-! ## A granule replaced in the banks (R278, R281) -/

theorem Memory.read_congr {m m' : List Host.Cell} {a n : Nat} (h : ∀ j < n, Memory.get m' (a + j) = Memory.get m (a + j)) :
    Memory.read m' a n = Memory.read m a n := by
  rw [Memory.read_eq_map, Memory.read_eq_map]
  exact List.map_congr_left fun j hj => h j (List.mem_range.mp hj)

section Replaced

variable {s t : State} {g c : Nat} {bs : List Byte} (hlen : bs.length = 128) (hc : c ≤ 7)
  (hmem : t.mem = Memory.write s.mem (128 * g) (beatsOf c bs))
  (hcode : ∀ pa, t.codeOf pa = if pa / 128 = g then c else s.codeOf pa)

include hlen hc hmem hcode

omit hcode in
theorem get_mem_outside {a : Nat} (ha : a / 128 ≠ g) : Memory.get t.mem a = Memory.get s.mem a := by
  have hbeats := beatsOf_length hlen hc
  have hmost := codeBeats_le c
  rw [hmem, Memory.get_write, if_neg (by omega)]

theorem granule_outside {k : Nat} (hk : k ≠ g) : t.granule k = s.granule k := by
  have hcode' : t.codeOf (128 * k) = s.codeOf (128 * k) := by rw [hcode, if_neg (by omega)]
  have hmost := codeBeats_le (s.codeOf (128 * k))
  rw [State.granule, State.granule, hcode']
  exact congrArg _ (Memory.read_congr fun j hj => get_mem_outside hlen hc hmem (by omega))

theorem granule_replaced (hback : expandBeats c (beatsOf c bs) = bs) : t.granule g = bs := by
  rw [State.granule, hcode, if_pos (by omega), hmem, ← beatsOf_length hlen hc]
  exact (congrArg _ (Memory.read_write _ _ _)).trans hback

/-- A granule whose beats are in place reads as its bytes; the others read as before. -/
theorem bankByte_replaced (hback : expandBeats c (beatsOf c bs) = bs) (a : Nat) :
    t.bankByte a = if a / 128 = g then bs.getD (a % 128) 0 else s.bankByte a := by
  rw [State.bankByte, hcode]
  by_cases ha : a / 128 = g
  · rw [if_pos ha, if_pos ha, ha, granule_replaced hlen hc hmem hcode hback]
    split
    next hraw =>
      have hbeats : beatsOf c bs = bs := by rw [hraw, beatsOf, if_pos rfl, padTo_of_length hlen]
      rw [hmem, hbeats, Memory.get_write, if_pos (by omega), show a - 128 * g = a % 128 by omega]
    next => rfl
  · rw [if_neg ha, if_neg ha, granule_outside hlen hc hmem hcode ha, get_mem_outside hlen hc hmem ha,
      State.bankByte]

end Replaced

/-- A granule holds what the banks stand for at its addresses. -/
theorem granule_getD (s : State) (a : Nat) : (s.granule (a / 128)).getD (a % 128) 0 = s.bankByte a := by
  rw [State.bankByte]
  split
  next hraw =>
    have hsame : s.codeOf (128 * (a / 128)) = s.codeOf a := by
      rw [State.codeOf, State.codeOf, paTable, paTable, paFrame, paFrame]
      rw [show 128 * (a / 128) / 2 ^ 37 = a / 2 ^ 37 by omega, show 128 * (a / 128) / 2 ^ 16 = a / 2 ^ 16 by omega,
        show 128 * (a / 128) % 2 ^ 16 / 128 = a % 2 ^ 16 / 128 by omega]
    have hread := Memory.read_length s.mem (128 * (a / 128)) 128
    have hraw' : s.granule (a / 128) = Memory.read s.mem (128 * (a / 128)) 128 := by
      rw [State.granule, hsame, hraw]
      show padTo 128 ((Memory.read s.mem _ 128).take 128) = _
      rw [List.take_of_length_le hread.le, padTo_of_length hread]
    rw [hraw', Memory.getD_read _ _ _ _ (Nat.mod_lt _ (by decide)), Nat.div_add_mod]
  next => rfl

theorem merged_length (s : State) (g : Nat) : (s.merged g).length = 128 := by
  rw [State.merged, List.length_map, List.length_range]

/-- A merged granule holds every byte as it is at its home. -/
theorem merged_getD (s : State) (a : Nat) : (s.merged (a / 128)).getD (a % 128) 0 = s.homeByte a := by
  have hlt : a % 128 < 128 := Nat.mod_lt _ (by decide)
  rw [State.merged, List.getD_eq_getElem?_getD, List.getElem?_map, List.getElem?_range hlt, Option.map_some,
    Option.getD_some, granule_getD, Nat.div_add_mod, State.homeByte]

theorem codeFor_le (s : State) (g : Nat) (bs : List Byte) : s.codeFor g bs ≤ 7 := by
  unfold State.codeFor
  split
  · exact granuleCode_le bs
  · decide

theorem expandBeats_codeFor (s : State) (g : Nat) {bs : List Byte} (h : bs.length = 128) :
    expandBeats (s.codeFor g bs) (beatsOf (s.codeFor g bs) bs) = bs := by
  unfold State.codeFor
  split
  · exact expandBeats_granuleCode h
  · exact expandBeats_raw h

end Sys2Proof.Machine
end

section
/-! SUPPORT. Bytes written in L1 or at home, and merged into the banks (R272-R274, R281-R283). -/

namespace Sys2Proof.Machine
open Sys2Proof.Claims

/-! ## Bytes merged into the banks (R281-R283) -/

/-- What a controller does with the bytes of a granule at its home leaves frames' tag copies and adds no poison. -/
theorem Performed.mergeGranule (s : State) (g : Nat) : Performed s (s.mergeGranule g) := by
  have hact := (Accessed.activate s [paBank (128 * g)]).performed
  unfold State.mergeGranule
  dsimp only
  split
  · exact .refl s
  · refine hact.trans ?_
    generalize s.activate [paBank (128 * g)] = u
    split
    · exact { Performed.refl u with }
    · exact { Performed.refl u with
        tags := tags_setCode u g _
        poison := fun x hx => (List.mem_filter.mp hx).1 }

/-- Bytes of a granule without poison merged into the banks: none of them changes, and nothing is marked. -/
theorem mergeGranule_sound {s : State} {g : Nat} (hg : g ∉ s.poison) :
    (s.mergeGranule g).poison = s.poison ∧ (s.mergeGranule g).cores = s.cores ∧
      ∀ a, (s.mergeGranule g).homeByte a = s.homeByte a := by
  have hframe := s.activate_frame [paBank (128 * g)] s.banks s.raa s.buses
  have hpoison : (s.activate [paBank (128 * g)]).poison = s.poison := (congrArg State.poison hframe :)
  have hcores : (s.activate [paBank (128 * g)]).cores = s.cores := (congrArg State.cores hframe :)
  have hhome := (Accessed.activate s [paBank (128 * g)]).homeByte
  unfold State.mergeGranule
  dsimp only
  split
  · exact ⟨rfl, rfl, fun _ => rfl⟩
  · rw [← hpoison] at hg
    rw [← hpoison, ← hcores]
    simp only [← hhome]
    generalize s.activate [paBank (128 * g)] = u at *
    rw [if_neg (by simp [hg])]
    refine ⟨List.filter_eq_self.mpr fun x hx => by simpa using fun h : x = g => hg (h ▸ hx), rfl, fun a => ?_⟩
    have hcode (pa : Nat) : (u.setCode g (u.codeFor g (u.merged g))).codeOf pa =
        if pa / 128 = g then u.codeFor g (u.merged g) else u.codeOf pa := by
      rw [codeOf_setCode, Nat.mod_eq_of_lt (Nat.lt_of_le_of_lt (codeFor_le _ _ _) (by decide))]
    have hbank := bankByte_replaced (s := u) (merged_length u g) (codeFor_le u g (u.merged g))
      (t := { u.setCode g (u.codeFor g (u.merged g)) with
        home := overlayDrop u.home (128 * g) (128 * g + 128)
        mem := Memory.write u.mem (128 * g) (beatsOf (u.codeFor g (u.merged g)) (u.merged g))
        poison := u.poison.filter (· ≠ g) })
      rfl hcode (expandBeats_codeFor u g (merged_length u g)) a
    rw [State.homeByte, hbank]
    show (overlayGet (overlayDrop u.home (128 * g) (128 * g + 128)) a).getD _ = _
    rw [overlayGet_drop]
    by_cases ha : a / 128 = g
    · rw [if_pos (by omega), if_pos ha, ← ha, merged_getD]
      rfl
    · rw [if_neg (by omega), if_neg ha]
      rfl

theorem Performed.foldl {α : Type} (f : State → α → State) (hf : ∀ s a, Performed s (f s a)) (l : List α) (s : State) :
    Performed s (l.foldl f s) := by
  induction l generalizing s with
  | nil => exact .refl s
  | cons a l ih => exact (hf s a).trans (ih _)

theorem Performed.sendThrough (s : State) (as : List Nat) : Performed s (s.sendThrough as) :=
  .foldl _ Performed.mergeGranule _ s

/-- Bytes of granules without poison sent on to the banks: none changes. -/
theorem sendThrough_sound {s : State} {as : List Nat} (has : ∀ a ∈ as, a / 128 ∉ s.poison) :
    (s.sendThrough as).poison = s.poison ∧ (s.sendThrough as).cores = s.cores ∧
      ∀ a, (s.sendThrough as).homeByte a = s.homeByte a := by
  have hfold (gs : List Nat) (u : State) (hgs : ∀ g ∈ gs, g ∉ u.poison) :
      (gs.foldl State.mergeGranule u).poison = u.poison ∧ (gs.foldl State.mergeGranule u).cores = u.cores ∧
        ∀ a, (gs.foldl State.mergeGranule u).homeByte a = u.homeByte a := by
    induction gs generalizing u with
    | nil => exact ⟨rfl, rfl, fun _ => rfl⟩
    | cons g gs ih =>
      obtain ⟨hp, hc, hh⟩ := mergeGranule_sound (hgs g List.mem_cons_self)
      obtain ⟨hp', hc', hh'⟩ := ih (u.mergeGranule g) fun k hk => hp ▸ hgs k (List.mem_cons_of_mem _ hk)
      exact ⟨hp'.trans hp, hc'.trans hc, fun a => (hh' a).trans (hh a)⟩
  refine hfold _ s fun g hg => ?_
  obtain ⟨a, ha, rfl⟩ := List.mem_map.mp (List.mem_eraseDups.mp (List.mem_of_mem_filter hg))
  exact has a ha

/-! ## Bytes written (R272, R273) -/

/-- Bytes written change the core's own L1 and homes only. -/
theorem Performed.writeBytes (s : State) (atHome : Bool) (pa : Nat) (bs : List Byte) :
    Performed s (s.writeBytes atHome (own s) pa bs) := by
  induction bs generalizing s pa with
  | nil => exact .refl s
  | cons b bs ih =>
    rw [State.writeBytes]
    cases atHome
    · exact (setL1 s rfl _ s.home).trans (ih (s.writeL1 (own s) pa b) _)
    · exact (setL1 s rfl _ _).trans (ih (s.writeHome (own s) pa b) _)

theorem coreByte_writeL1 (s : State) (c pa a : Nat) (b : Byte) :
    (s.writeL1 c pa b).coreByte c a = if a = pa then b else s.coreByte c a := by
  have hl1 : ((s.writeL1 c pa b).core c).l1 = overlaySet (s.core c).l1 pa b :=
    congrArg CoreState.l1 (State.core_setCore_self s c { s.core c with l1 := overlaySet (s.core c).l1 pa b })
  rw [State.coreByte, hl1, overlayGet_set]
  split <;> rfl

theorem coreByte_writeHome (s : State) (c pa a : Nat) (b : Byte) :
    (s.writeHome c pa b).coreByte c a = if a = pa then b else s.coreByte c a := by
  have hl1 : ((s.writeHome c pa b).core c).l1 = overlayDrop (s.core c).l1 pa (pa + 1) :=
    congrArg CoreState.l1 (State.core_setCore_self s c { s.core c with l1 := overlayDrop (s.core c).l1 pa (pa + 1) })
  rw [State.coreByte, hl1, overlayGet_drop, State.homeByte_writeHome]
  by_cases ha : a = pa
  · rw [if_pos (by omega), if_pos ha, if_pos ha]
    rfl
  · rw [if_neg (by omega), if_neg ha, if_neg ha]
    rfl

/-- Bytes written read back, in L1 or at home; every other byte reads as before. -/
theorem coreByte_writeBytes (s : State) (atHome : Bool) (c pa a : Nat) (bs : List Byte) :
    (s.writeBytes atHome c pa bs).coreByte c a =
      if pa ≤ a ∧ a < pa + bs.length then bs.getD (a - pa) 0 else s.coreByte c a := by
  induction bs generalizing s pa with
  | nil => rw [if_neg (by simp)]; rfl
  | cons b bs ih =>
    have hfirst : (if atHome then s.writeHome c pa b else s.writeL1 c pa b).coreByte c a =
        if a = pa then b else s.coreByte c a := by
      cases atHome
      · exact coreByte_writeL1 s c pa a b
      · exact coreByte_writeHome s c pa a b
    rw [State.writeBytes, ih, hfirst, List.length_cons]
    by_cases h1 : a = pa
    · subst h1
      rw [if_neg (by omega), if_pos rfl, if_pos (by omega), Nat.sub_self]
      rfl
    · by_cases h2 : pa + 1 ≤ a ∧ a < pa + 1 + bs.length
      · rw [if_pos h2, if_pos (by omega), show a - pa = (a - (pa + 1)) + 1 by omega, List.getD_cons_succ]
      · rw [if_neg h2, if_neg h1, if_neg (by omega)]

/-- Bytes written to L1 leave every byte at its home. -/
theorem homeByte_writeBytes_l1 (s : State) (c pa a : Nat) (bs : List Byte) :
    (s.writeBytes false c pa bs).homeByte a = s.homeByte a := by
  induction bs generalizing s pa with
  | nil => rfl
  | cons b bs ih => rw [State.writeBytes]; exact ih _ _

theorem homeByte_writeBytes (s : State) (atHome : Bool) (c pa a : Nat) (bs : List Byte) :
    (s.writeBytes atHome c pa bs).homeByte a =
      if atHome = true ∧ pa ≤ a ∧ a < pa + bs.length then bs.getD (a - pa) 0 else s.homeByte a := by
  cases atHome
  · rw [homeByte_writeBytes_l1, if_neg (by simp)]
  · rw [State.homeByte_writeBytes]
    simp

end Sys2Proof.Machine
end

section
/-! SUPPORT. What a store of one piece of package memory does to bytes (R57, R85, R273, R274). -/

namespace Sys2Proof.Machine
open Sys2Proof.Claims

/-! ## Notes of a store: bytes still to be fetched (R57), frames of compressed buffers (R278) -/

/-- A store to code changes, of some harts, the bytes that they may still fetch. -/
theorem noteCode_eq (s : State) (cls : Nat) (ps : List Piece1) :
    ∃ f : Hart → Hart, s.noteCode cls ps = s.mapHarts f ∧ ∀ h, (f h).noFetch = h.noFetch := by
  unfold State.noteCode
  split
  · refine ⟨id, ?_, fun h => rfl⟩
    rw [State.mapHarts, List.map_id]
    rfl
  · refine ⟨_, rfl, fun h => ?_⟩
    split <;> rfl

theorem Performed.mapHarts (s : State) {f : Hart → Hart} (hf : ∀ h, (f h).noFetch = h.noFetch) :
    Performed s (s.mapHarts f) :=
  { Performed.refl s with
    hart := (congrArg (fun h : Hart => (h.asBefore s.cur).noFetch) (hf s.cur) :)
    harts := by
      show (s.rest.map f).map Hart.noFetch = _
      rw [List.map_map]
      exact List.map_congr_left fun h _ => hf h }

/-- Which harts are placed on a core does not depend on what they fetch. -/
theorem Performed.noL1_eq {s t : State} (h : Performed s t) : t.noL1 = s.noL1 := by
  have hshares (c : BitVec 8) (l : List Hart) : (l.filter fun h => h.placed && h.core == c).map Hart.spadUnits =
      ((l.map Hart.noFetch).filter fun h => h.placed && h.core == c).map Hart.spadUnits := by
    rw [List.filter_map, List.map_map]
    rfl
  have hcur : (t.cur.asBefore s.cur).noFetch = s.cur.noFetch := h.hart
  have hcore : t.cur.core = s.cur.core := (congrArg Hart.core hcur :)
  have hplaced : t.cur.placed = s.cur.placed := (congrArg Hart.placed hcur :)
  have hunits : t.cur.spadUnits = s.cur.spadUnits := (congrArg Hart.spadUnits hcur :)
  have hlist : (t.harts.filter fun h => h.placed && h.core == t.cur.core).map Hart.spadUnits =
      (s.harts.filter fun h => h.placed && h.core == s.cur.core).map Hart.spadUnits := by
    rw [State.harts, State.harts, List.filter_cons, List.filter_cons, hcore, hplaced]
    split
    · rw [List.map_cons, List.map_cons, hunits, hshares, h.harts, ← hshares]
    · rw [hshares, h.harts, ← hshares]
  rw [State.noL1, State.noL1, hlist]

theorem NotedLc.performed {s t : State} (h : NotedLc s t) : Performed s t where
  rest := (congrArg (fun x : State => x.performBefore s) h.rest :)
  hart := (congrArg (fun x : State => (x.cur.asBefore s.cur).noFetch) h.rest :)
  harts := (congrArg (fun x : State => x.rest.map Hart.noFetch) h.rest :)
  entries p f := by
    rw [show t.pte p f = s.pte p f from (congrArg (fun x : State => x.pte p f) h.rest :)]
    exact .refl _
  banks _ b := by
    rw [show t.bank b = s.bank b from (congrArg (fun x : State => x.bank b) h.rest :)]
    exact .refl _ _
  wf hw := by
    rw [show t.banks = s.banks from (congrArg State.banks h.rest :)]
    exact hw
  buses n := .inl (congrArg (fun x : State => x.bus n) h.rest :)
  others c _ := (congrArg (fun x : State => x.core c) h.rest :)
  self := by
    rw [show t.core (own s) = s.core (own s) from (congrArg (fun x : State => x.core (own s)) h.rest :)]
  tags := h.tags
  poison _ hg := by
    rw [← show t.poison = s.poison from (congrArg State.poison h.rest :)]
    exact hg

theorem NotedLc.coreByte {s t : State} (h : NotedLc s t) (c a : Nat) : t.coreByte c a = s.coreByte c a :=
  coreByte_congr_codes (s := s) (t := t) (congrArg State.mem h.rest :) (congrArg State.home h.rest :) h.codes
    (congrArg (fun x : State => (x.core c).l1) h.rest :) a

theorem NotedLc.homeByte {s t : State} (h : NotedLc s t) (a : Nat) : t.homeByte a = s.homeByte a :=
  homeByte_congr (s := s) (t := t) (congrArg State.mem h.rest :) (congrArg State.home h.rest :) h.codes a

/-! ## One piece of package memory stored (R85, R273, R274) -/

/-- The granules of a piece that has no poison are not poisoned. -/
theorem not_mem_poison_of_piece {s : State} {pa n : Nat} (h : Unpoisoned s pa n) (hn : 0 < n) {a : Nat}
    (ha : a ∈ (List.range ((pa + n - 1) / 128 + 1 - pa / 128)).map fun j => 128 * (pa / 128 + j)) :
    a / 128 ∉ s.poison := by
  obtain ⟨j, hj, rfl⟩ := List.mem_map.mp ha
  rw [List.mem_range] at hj
  have hin := h (max pa (128 * (pa / 128 + j))) (Nat.le_max_left _ _) (by omega)
  rwa [show max pa (128 * (pa / 128 + j)) / 128 = 128 * (pa / 128 + j) / 128 by omega] at hin

section Stored

variable (s : State) (atHome : Bool) (evict : BitVec 3) {p : Piece1} {pa : Nat} (hp : p.loc = .pkg pa) {bs : List Byte}
  (hbs : bs.length = p.n)

include hp hbs

theorem storePieces_eq : s.storePieces atHome evict [p] bs =
    let w := (s.noteLc p).writeBytes (atHome || s.noL1) (own s) pa bs
    if evictsThrough evict then
      w.sendThrough ((List.range ((pa + p.n - 1) / 128 + 1 - pa / 128)).map fun j => 128 * (pa / 128 + j))
    else w := by
  have hpiece : s.writePieces atHome [p] bs = (s.noteLc p).writeBytes (atHome || s.noL1) (own s) pa bs := by
    rw [State.writePieces, State.writePieces, State.writePiece, hp, List.take_of_length_le hbs.le]
    rfl
  rw [State.storePieces, hpiece, List.flatMap_singleton, hp]

theorem Performed.storePieces : Performed s (s.storePieces atHome evict [p] bs) := by
  have hnote := (notedLc_noteLc s p).performed
  have hwrite := Performed.writeBytes (s.noteLc p) (atHome || s.noL1) pa bs
  rw [hnote.own_eq] at hwrite
  rw [storePieces_eq s atHome evict hp hbs]
  dsimp only
  split
  · exact (hnote.trans hwrite).trans (.sendThrough _ _)
  · exact hnote.trans hwrite

/-- A store that is not sent through changes neither the banks' bytes nor their poison. -/
theorem storePieces_banks (h6 : evict.toNat < 6) : BanksSame s (s.storePieces atHome evict [p] bs) := by
  have hnote := notedLc_noteLc s p
  have hwrite := (s.noteLc p).writeBytes_frame (atHome || s.noL1) (own s) pa bs [] []
  rw [storePieces_eq s atHome evict hp hbs]
  dsimp only
  rw [if_neg (by rw [evictsThrough, decide_eq_true_eq]; omega)]
  exact ⟨(congrArg State.mem hwrite :).trans (congrArg State.mem hnote.rest :),
    (congrArg State.poison hwrite :).trans (congrArg State.poison hnote.rest :)⟩

/-- The bytes after a store of one piece that is not sent through, or has no poison: the piece's own are written, in L1
or at home; every other byte stays where it is. -/
theorem storePieces_bytes (hn : 0 < p.n) (hsound : evict.toNat < 6 ∨ Unpoisoned s pa p.n) :
    let t := s.storePieces atHome evict [p] bs
    t.poison = s.poison ∧
      (∀ a, t.coreByte (own s) a = if pa ≤ a ∧ a < pa + p.n then bs.getD (a - pa) 0 else s.coreByte (own s) a) ∧
      ∀ a, t.homeByte a =
        if (atHome || s.noL1) = true ∧ pa ≤ a ∧ a < pa + p.n then t.coreByte (own s) a else s.homeByte a := by
  intro t
  have hnote := notedLc_noteLc s p
  let w := (s.noteLc p).writeBytes (atHome || s.noL1) (own s) pa bs
  have hwrite : { w with cores := [], home := [] } = { s.noteLc p with cores := [], home := [] } :=
    (s.noteLc p).writeBytes_frame (atHome || s.noL1) (own s) pa bs [] []
  have hpoison : w.poison = s.poison := (congrArg State.poison hwrite :).trans (congrArg State.poison hnote.rest :)
  have hcore (a : Nat) : w.coreByte (own s) a =
      if pa ≤ a ∧ a < pa + p.n then bs.getD (a - pa) 0 else s.coreByte (own s) a := by
    rw [← hbs, ← hnote.coreByte]
    exact coreByte_writeBytes _ _ _ _ _ _
  have hhome (a : Nat) : w.homeByte a =
      if (atHome || s.noL1) = true ∧ pa ≤ a ∧ a < pa + p.n then w.coreByte (own s) a else s.homeByte a := by
    rw [homeByte_writeBytes, hcore, hnote.homeByte, hbs]
    refine if_ctx_congr Iff.rfl (fun h => ?_) fun _ => rfl
    rw [if_pos h.2]
  have hthrough : t.poison = w.poison ∧ t.cores = w.cores ∧ ∀ a, t.homeByte a = w.homeByte a := by
    have ht : t = _ := storePieces_eq s atHome evict hp hbs
    dsimp only at ht
    rw [ht]
    split
    next hev =>
      refine sendThrough_sound fun a ha => hpoison ▸ not_mem_poison_of_piece (hsound.resolve_left ?_) hn ha
      rw [evictsThrough, decide_eq_true_eq] at hev
      omega
    next => exact ⟨rfl, rfl, fun _ => rfl⟩
  obtain ⟨htp, htc, hth⟩ := hthrough
  have htcore (a : Nat) : t.coreByte (own s) a = w.coreByte (own s) a := by
    rw [State.coreByte, State.coreByte, hth, State.core, State.core, htc]
  exact ⟨htp.trans hpoison, fun a => (htcore a).trans (hcore a), fun a => by rw [hth, htcore, hhome]⟩

end Stored

end Sys2Proof.Machine
end

section
/-! SUPPORT. Scalar stores (R85-R88). -/

namespace Sys2Proof.Machine
open Sys2Proof.Claims

/-! ## Scalar stores (R85-R88) -/

theorem storesHome_pkg (evict : BitVec 3) (o : Ord) (sc : Scope) {p : Piece1} {pa : Nat} (hp : p.loc = .pkg pa) (s : State) :
    (storesHome evict o sc [p] || s.noL1) = goesHome s o sc evict := by
  have hwide : wideFor sc [p] = !(sc == .hart || sc == .core) := by
    rw [wideFor, scopeWide_eq, List.any_cons, hp]
    exact Bool.or_false _
  rw [storesHome, hwide, acquires_eq, State.noL1]
  rfl

theorem leBytes_getD {n j : Nat} (hj : j < n) (v : Nat) : (leBytes n v).getD j 0 = BitVec.ofNat 8 (v / 256 ^ j) := by
  rw [leBytes_eq_map, List.getD_eq_getElem?_getD, List.getElem?_map, List.getElem?_range hj]
  rfl

/-- The bytes that a write of `bs` to `n` bytes from `pa` leaves to the running context's core, and at their home, after
the ordering of its access. -/
def StoredBytes (s : State) (o : Ord) (sc : Scope) (evict : BitVec 3) (pa n : Nat) (bs : List Byte) (t : State) : Prop :=
  t.poison = s.poison ∧
    (∀ a, t.coreByte (own s) a = if pa ≤ a ∧ a < pa + n then bs.getD (a - pa) 0 else s.coreByte (own s) a) ∧
    ∀ a, if goesHome s o sc evict = true ∧ pa ≤ a ∧ a < pa + n then t.homeByte a = t.coreByte (own s) a
      else HomeBefore s o sc pa n a (t.homeByte a)

theorem StoredBytes.of_accessed {s t u : State} {o : Ord} {sc : Scope} {evict : BitVec 3} {pa n : Nat} {bs : List Byte}
    (h : StoredBytes s o sc evict pa n bs t) (hacc : Accessed t u) : StoredBytes s o sc evict pa n bs u := by
  obtain ⟨hp, hcore, hhome⟩ := h
  refine ⟨hacc.poison_eq.trans hp, fun a => (hacc.coreByte _ a).trans (hcore a), fun a => ?_⟩
  rw [hacc.coreByte, hacc.homeByte]
  exact hhome a

section Store

variable {s s1 : State} {spec : AccSpec} {u : UnitAcc} {sp : Space} {p : Piece1} {pa : Nat} {bs : List Byte}
  (o : Ord) (sc : Scope) (evict : BitVec 3) (hreach : s.reachOne spec u = .ok (sp, [p]) s1) (hp : p.loc = .pkg pa)
  (hn : 0 < p.n) (hbs : bs.length = p.n)

include hreach hp hn hbs

/-- A store of one piece of package memory: it has performed; the banks change only when it is sent through; and where it
is not, or meets no poison, its bytes stand as they should. -/
theorem storeOne_pkg_performs :
    ∃ t, s.storeOne spec o sc evict u bs = .ok () t ∧ Performed s t ∧ (evict.toNat < 6 → BanksSame s t) ∧
      ((evict.toNat < 6 ∨ Unpoisoned s pa p.n) → StoredBytes s o sc evict pa p.n bs t) := by
  have hpkg : ∀ q ∈ [p], ∃ pa, q.loc = .pkg pa := by
    intro q hq
    rw [List.mem_singleton.mp hq]
    exact ⟨pa, hp⟩
  have hacc := Accessed.reachOne hreach hpkg
  let s2 := s1.orderBefore o sc [p]
  have hord : Performed s1 s2 := .orderBefore s1 o sc p hp
  have hframe : { s2 with cores := s1.cores, home := s1.home } = s1 := orderBefore_frame s1 o sc p hp
  obtain ⟨f, hnote, hf⟩ := noteCode_eq s2 sp.cls [p]
  have hnoted := Performed.mapHarts s2 hf
  let s3 := (s2.mapHarts f).storePieces (storesHome evict o sc [p]) evict [p] bs
  have hstore : Performed (s2.mapHarts f) s3 := .storePieces _ _ _ hp hbs
  have hcount := Accessed.count s3 spec.idx [p] [p]
  have hbefore := (hacc.performed.trans hord).trans hnoted
  have hmem : (s2.mapHarts f).mem = s.mem := (congrArg State.mem hframe :).trans hacc.store_eq.2.1
  have hpoison : (s2.mapHarts f).poison = s.poison := (congrArg State.poison hframe :).trans hacc.poison_eq
  refine ⟨s3.count spec.idx [p] [p], ?_, (hbefore.trans hstore).trans hcount.performed, fun h6 => ?_, fun hsound => ?_⟩
  · rw [State.storeOne, hreach]
    dsimp only [MemRes.bind]
    rw [admitDevices_pkg hpkg, deviceReqs_pkg hpkg]
    exact congrArg (fun x : State => MemRes.ok ()
      ((x.storePieces (storesHome evict o sc [p]) evict [p] bs).count spec.idx [p] [p])) hnote
  · obtain ⟨hm, hq⟩ := storePieces_banks (s2.mapHarts f) (storesHome evict o sc [p]) evict hp hbs h6
    obtain ⟨-, hcm, hcp⟩ := hcount.store_eq
    exact ⟨hcm.trans (hm.trans hmem), hcp.trans (hq.trans hpoison)⟩
  · refine StoredBytes.of_accessed ?_ hcount
    have hown : own (s2.mapHarts f) = own s := hbefore.own_eq
    have hsound' : evict.toNat < 6 ∨ Unpoisoned (s2.mapHarts f) pa p.n := by
      rwa [Unpoisoned, hpoison]
    obtain ⟨htp, htc, hth⟩ :=
      storePieces_bytes (s2.mapHarts f) (storesHome evict o sc [p]) evict hp hbs hn hsound'
    have hcore (a : Nat) : (s2.mapHarts f).coreByte (own s) a = s.coreByte (own s) a := by
      rw [← hacc.coreByte, ← hacc.own_eq]
      exact coreByte_orderBefore s1 o sc p hp a
    have hhome (a : Nat) : HomeBefore s o sc pa p.n a ((s2.mapHarts f).homeByte a) := by
      rw [← homeBefore_congr hacc.own_eq (fun a => by rw [hacc.coreByte]) hacc.homeByte]
      exact homeBefore_orderBefore s1 o sc p hp hn a
    have hgoes : (storesHome evict o sc [p] || (s2.mapHarts f).noL1) = goesHome s o sc evict := by
      rw [hbefore.noL1_eq, storesHome_pkg evict o sc hp]
    rw [hown] at htc hth
    rw [hgoes] at hth
    refine ⟨htp.trans hpoison, fun a => (htc a).trans (by rw [hcore]), fun a => ?_⟩
    have ha := hth a
    split
    next hin => rwa [if_pos hin] at ha
    next hout =>
      rw [if_neg hout] at ha
      exact ha.symm ▸ hhome a

end Store

theorem storeRow_n_pos {i : Instr} {r : StoreRow} (h : storeRow i = some r) : 0 < r.n := by
  unfold storeRow at h
  split at h
  case h_7 => cases h
  all_goals
    simp only [Option.some.injEq] at h
    subst h
    exact Nat.succ_pos _

/-- Every scalar store is the shared operation on its row. -/
theorem exec_of_storeRow {i : Instr} {r : StoreRow} (h : storeRow i = some r) (s : State) :
    exec i s = storeExec r.len r.n r.rs r.rb r.ord r.scope r.evict r.off s := by
  unfold storeRow at h
  split at h
  case h_7 => cases h
  all_goals
    simp only [Option.some.injEq] at h
    subst h
  case h_1 => exact congrArg (storeExec _ _ _ _ _ _ _ · s) (Nat.mul_one _)
  all_goals exact congrArg (storeExec _ _ _ _ _ _ _ · s) (Nat.mul_comm _ _)

/-- Settles O11: the one piece is reached, ordered, written and counted; a granule merged into the banks keeps its bytes,
since its beats give it back. -/
theorem stores : Obligations.Stores := by
  unfold Obligations.Stores
  intro i r pa sp s hrow hreaches hclean
  obtain ⟨lc, s1, hreach⟩ := hreaches
  obtain ⟨u, hstore, hperf, hbanks, hbytes⟩ := storeOne_pkg_performs (bs := leBytes r.n (s.readX r.rs).toNat) r.ord
    r.scope r.evict hreach rfl (storeRow_n_pos hrow) (leBytes_length _ _)
  have hend : exec i s = .next (retire r.len u) := by
    rw [exec_of_storeRow hrow, storeExec, (s.cur.scalarPoison_eq_none [r.rs, r.rb]).mpr hclean]
    dsimp only [memFinish]
    rw [hstore]
    rfl
  obtain ⟨-, -, -, -, hx, hxp⟩ := Hart.noFetch_keeps hperf.hart
  have hcore (a : Nat) := coreByte_retire r.len u (own s) a
  have hhome (a : Nat) : (retire r.len u).homeByte a = u.homeByte a := homeByte_congr rfl rfl (fun _ _ => rfl) a
  refine ⟨_, hend, hperf.retire r.len (g := u.cur) rfl, ⟨hx, hxp⟩, hbanks, fun hsound => ?_⟩
  obtain ⟨hpoison, hput, hwhere⟩ := hbytes hsound
  refine ⟨hpoison, fun a => ?_, fun a => ?_⟩
  · rw [hcore, hput]
    refine if_ctx_congr Iff.rfl (fun hin => ?_) fun _ => rfl
    exact leBytes_getD (by omega) _
  · rw [hcore, hhome]
    exact hwhere a

end Sys2Proof.Machine
end

section
/-! SUPPORT. The state with an instruction placed, and what stays of it while it is fetched (R57). -/

namespace Sys2Proof.Machine
open Sys2Proof.Claims

/-! ## The placed state (R57; DESIGN CHOICE, log entry 9) -/

/-- The state with an instruction placed, without the bytes of the instruction. Nothing unfolds it but the kernel, in the
facts about its fields. -/
@[irreducible] def placedBase : State := { State.reset.withFetchWord 0 0 with devTurn := true }

/-- The bytes of the placed buffer table entry. -/
def placedEntryBytes : List Byte := (List.range 4).flatMap fun j => leBytes 8 (placedEntry j)

/-- The memory after an instruction of `nbits` bits `w` has been placed. -/
def placedMem (nbits w : Nat) : List Host.Cell :=
  Memory.write (Memory.write [] 160 placedEntryBytes) 65536 (leBytes 8 (w % 2 ^ nbits))

theorem State.place_bytes (s : State) (pa : Nat) {bs bs' : List Byte} (h : bs.length = bs'.length) :
    s.place pa bs = { s.place pa bs' with mem := Memory.write s.mem pa bs } := by
  unfold State.place
  rw [h, ← s.setFrame_mem (paTable pa) (paFrame pa) .reset]

theorem State.mem_place (s : State) (pa : Nat) (bs : List Byte) : (s.place pa bs).mem = Memory.write s.mem pa bs := by
  rw [State.place]
  exact congrArg (Memory.write · pa bs) (s.setFrame_mem _ _ _)

theorem State.place_place {s : State} {m : List Host.Cell} (hm : s.mem = m) (p q : Nat) (e : List Byte)
    {b b' : List Byte} (h : b.length = b'.length) :
    (s.place p e).place q b = { (s.place p e).place q b' with mem := Memory.write (Memory.write m p e) q b } := by
  rw [State.place_bytes _ q h, State.mem_place, hm]

/-- Placing an instruction: its bits matter to its own bytes only. -/
theorem State.withFetchWord_bytes (s : State) (nbits w : Nat) :
    s.withFetchWord nbits w = { s.withFetchWord 0 0 with
      mem := Memory.write (Memory.write s.mem (physAddr 0 0 (32 * placedIdx)) placedEntryBytes) (physAddr 0 1 0)
        (leBytes 8 (w % 2 ^ nbits)) } := by
  unfold State.withFetchWord
  dsimp only
  exact State.place_place rfl _ _ _ ((leBytes_length 8 _).trans (leBytes_length 8 _).symm)

theorem placed_eq (nbits w : Nat) :
    { State.reset.withFetchWord nbits w with devTurn := true } = { placedBase with mem := placedMem nbits w } := by
  rw [State.withFetchWord_bytes, placedBase]
  rfl

/-- The placed entry, as a core reads it. -/
def codeEntry : BufEntry :=
  ⟨0, 0x0000_0400_0000_0000, 5, BitVec.ofNat 64 (placedEntry 0), BitVec.ofNat 64 (placedEntry 1), 1⟩

/-- The placed buffer. -/
def codeBuf : BufInfo := ⟨65536, 0, 4, 0, false, 10, 0, 0, 1⟩

/-- The page of the placed buffer. -/
def codeKey : PageKey := ⟨0, 0, 5, 0, 0⟩

theorem codeEntry_info : codeEntry.info = some codeBuf := by decide +kernel

/-- The placed state with the memory `m`. -/
def placedState (m : List Host.Cell) : State := { placedBase with mem := m }

theorem placedBase_cores : placedBase.cores = [] := by decide +kernel
theorem placedBase_home : placedBase.home = [] := by decide +kernel
theorem placedBase_frames : placedBase.frames = [] := by decide +kernel
theorem placedBase_poison : placedBase.poison = [] := by decide +kernel
theorem placedBase_migrations : placedBase.migrations = [] := by decide +kernel
theorem placedBase_ptes : placedBase.ptes = [(1, ⟨0x501, 0, 0⟩)] := by decide +kernel

theorem placedBase_admits : ∀ t ∈ [16, 0], placedBase.admits t 0 0 0 = true := by decide +kernel

theorem placedBase_part : (placedBase.part 0).btcount = 1024 ∧ (placedBase.part 0).table = [(0, 0, 0)] ∧
    (placedBase.part 0).rwtcount = 0 ∧ (placedBase.part 0).chmap = 1 := by decide +kernel

theorem placedBase_cur : placedBase.cur.part = 0 ∧ placedBase.cur.core = 0 ∧ placedBase.cur.ifetch = [] ∧
    placedBase.cur.utlb = [] ∧ placedBase.cur.pc = BitVec.ofNat 64 (5 * 2 ^ 40) ∧
    placedBase.cur.csr.btbase = 0x0000_0400_0000_0000 := by decide +kernel

/-! ## What stays as placed while the instruction is fetched -/

/-- The page table entry of the placed page, without and with `A` (R285). -/
def codePages : List Pte := [⟨0x501, 0, 0⟩, ⟨0x505, 0, 0⟩]

/-- The states in which parcels of the placed instruction are fetched: as placed, with the entry, the page and its cached
translations what they are. -/
structure Fetching (m : List Host.Cell) (s : State) : Prop where
  accessed : Accessed (placedState m) s
  hart : { s.cur with utlb := [] } = placedBase.cur
  bufs : ∀ e ∈ (s.core 0).bufs, e = codeEntry
  copies : ∀ e : TlbEntry, e ∈ s.cur.utlb ∨ e ∈ (s.core 0).gtlb → e.has codeKey = true → e.t = 0 ∧ e.f = 1
  page : ∃ e ∈ codePages, s.ptes = [(1, e)]

theorem fetching_placed (m : List Host.Cell) : Fetching m (placedState m) where
  accessed := .refl _
  hart := by
    obtain ⟨-, -, -, hutlb, -⟩ := placedBase_cur
    show { placedBase.cur with utlb := [] } = placedBase.cur
    rw [← hutlb]
  bufs e he := by
    rw [State.core, show (placedState m).cores = [] from placedBase_cores] at he
    exact absurd he List.not_mem_nil
  copies e he := by
    obtain ⟨-, -, -, hutlb, -⟩ := placedBase_cur
    rw [State.core, show (placedState m).cores = [] from placedBase_cores,
      show (placedState m).cur.utlb = [] from hutlb] at he
    exact absurd he (by rintro (h | h) <;> exact List.not_mem_nil h)
  page := ⟨_, List.mem_cons_self, placedBase_ptes⟩

theorem codeOf_of_no_frames {s : State} (h : s.frames = []) (pa : Nat) : s.codeOf pa = 0 := by
  have hcodes : FrameMeta.reset.codes = 0#2048 := rfl
  rw [State.codeOf, State.frame, h, tget, hcodes, BitVec.toNat_zero, bitsAt, Nat.zero_div, Nat.zero_mod]

namespace Fetching

variable {m : List Host.Cell} {s : State} (h : Fetching m s)

include h

theorem part_eq (k : Nat) : s.part k = placedBase.part k := (congrArg (fun x : State => x.part k) h.accessed.rest :)

theorem cur_core : s.cur.core = 0 := (congrArg Hart.core h.hart :).trans placedBase_cur.2.1

theorem cur_part : s.cur.part = 0 := (congrArg Hart.part h.hart :).trans placedBase_cur.1

theorem coreByte (a : Nat) : s.coreByte 0 a = Memory.get m a := by
  rw [h.accessed.coreByte 0 a, State.coreByte, State.core, show (placedState m).cores = [] from placedBase_cores,
    State.homeByte, show (placedState m).home = [] from placedBase_home, State.bankByte,
    if_pos (codeOf_of_no_frames (s := placedState m) placedBase_frames a)]
  rfl

end Fetching

end Sys2Proof.Machine
end

section
/-! SUPPORT. The buffer table entry of a placed instruction, as the memory port reads it (R253, R254, R370). -/

namespace Sys2Proof.Machine
open Sys2Proof.Claims

/-! ## The placed entry, read through the initial table (R253, R370) -/

/-- The doublewords of the placed entry stand in the memory. -/
def EntryIn (m : List Host.Cell) : Prop :=
  ∀ j < 4, leNat ((List.range 8).map fun i => Memory.get m (160 + 8 * j + i)) = placedEntry j

namespace Fetching

variable {m : List Host.Cell} {s : State} (h : Fetching m s)

include h

theorem btbase : s.cur.csr.btbase = 0x0000_0400_0000_0000 :=
  (congrArg (fun x : Hart => x.csr.btbase) h.hart :).trans placedBase_cur.2.2.2.2.2

theorem tableDw (hm : EntryIn m) {j : Nat} (hj : j < 4) :
    s.tableDw 0 0 ((0x0000_0400_0000_0000 : Word).toNat + 32 * 5 + 8 * j) = placedEntry j := by
  obtain ⟨-, htable, -⟩ := placedBase_part
  have haddr : (0x0000_0400_0000_0000 : Word).toNat + 32 * 5 + 8 * j = 4 * 2 ^ 40 + (160 + 8 * j) := by
    show 4398046511104 + 32 * 5 + 8 * j = _
    omega
  have hidx : (4 * 2 ^ 40 + (160 + 8 * j)) / 2 ^ 40 = 4 := by omega
  have hloc : s.portLoc 0 0 (4 * 2 ^ 40 + (160 + 8 * j)) = some (160 + 8 * j) := by
    rw [State.portLoc, hidx]
    dsimp only
    rw [if_pos rfl, Partition.tableLoc, h.part_eq, htable, show (4 * 2 ^ 40 + (160 + 8 * j)) % 2 ^ 40 / 2 ^ 16 = 0 by omega,
      show (4 * 2 ^ 40 + (160 + 8 * j)) % 2 ^ 40 % 2 ^ 16 = 160 + 8 * j by omega]
    simp [physAddr]
  rw [haddr, State.tableDw, hidx]
  rw [if_pos (by decide), State.portDw, hloc]
  dsimp only
  rw [State.coreDw, coreBytes_eq]
  simp only [h.coreByte]
  exact hm j hj

theorem chanSet : s.chanSet 0 0 0 = 1 := by
  obtain ⟨-, -, -, hchan⟩ := placedBase_part
  rw [State.chanSet, if_pos rfl, h.part_eq]
  exact hchan

theorem classMask : (s.part 0).classMask 4 = 1 := by
  obtain ⟨-, -, -, hchan⟩ := placedBase_part
  rw [Partition.classMask, h.part_eq, hchan]
  decide +kernel

theorem portLen : s.portLen 0 0 4 = 65536 := by
  obtain ⟨-, htable, -⟩ := placedBase_part
  have hlen : s.portLen 0 0 4 = (s.part 0).table.length * 2 ^ 16 := rfl
  rw [hlen, h.part_eq, htable]
  rfl

theorem entryOf {d : Nat → Nat} (hd : ∀ j < 4, d j = placedEntry j) :
    s.entryOf 0 0 0x0000_0400_0000_0000 5 d = codeEntry := by
  have h0 : d 0 = placedEntry 0 := hd 0 (by decide)
  have h1 : d 1 = placedEntry 1 := hd 1 (by decide)
  have h2 : d 2 = 0 := hd 2 (by decide)
  have h3 : d 3 = 0 := hd 3 (by decide)
  have hset : bitsAt (placedEntry 1) 0 6 = 0 := by decide
  have hclass : entryClass (placedEntry 0) = 4 := by decide
  have hmask : (1 : BitVec 448) &&& 1 = 1 := BitVec.and_self
  rw [State.entryOf, mkEntry, h0, h1, h2, h3, hset, hclass, h.chanSet, h.classMask, hmask]
  rfl

theorem entryNow (hm : EntryIn m) : s.entryNow 0 0 0x0000_0400_0000_0000 5 = codeEntry := by
  obtain ⟨hcount, -⟩ := placedBase_part
  have hidx : (0x0000_0400_0000_0000 : Word).toNat / 2 ^ 40 = 4 := by decide
  have hfits : (0x0000_0400_0000_0000 : Word).toNat % 2 ^ 40 + 32 * 5 + 32 ≤ 65536 := by decide
  rw [State.entryNow, hidx, h.portLen, h.part_eq, hcount, if_pos (by rw [decide_eq_true hfits]; rfl)]
  exact h.entryOf fun j hj => h.tableDw hm hj

end Fetching

end Sys2Proof.Machine
end

section
/-! SUPPORT. The buffer, the page and the cached copies of a placed instruction during its fetch (R253, R255, R288). -/

namespace Sys2Proof.Machine
open Sys2Proof.Claims

theorem pte_of_single {s : State} {e : Pte} (hp : s.ptes = [(1, e)]) : s.pte 0 1 = e := by
  rw [State.pte, hp]
  exact if_pos rfl

namespace Fetching

variable {m : List Host.Cell} {s : State} (h : Fetching m s)

include h

/-! ## What the operations of a fetch leave -/

/-- An access that leaves the context, its core's entries and translations, and the page. -/
theorem of_same {t : State} (hacc : Accessed s t) (hcur : t.cur = s.cur) (hcores : t.cores = s.cores)
    (hptes : t.ptes = s.ptes) : Fetching m t where
  accessed := h.accessed.trans hacc
  hart := by rw [hcur]; exact h.hart
  bufs := by rw [State.core, hcores]; exact h.bufs
  copies := by rw [State.core, hcores, hcur]; exact h.copies
  page := by rw [hptes]; exact h.page

theorem activate (bs : List Nat) : Fetching m (s.activate bs) := by
  have hframe := s.activate_frame bs [] [] []
  exact h.of_same (.activate s bs) (State.activate_cur s bs) (congrArg State.cores hframe :)
    (congrArg State.ptes hframe :)

theorem own_eq : own s = 0 := congrArg BitVec.toNat h.cur_core

/-- The core's cached entries and translations replaced. -/
theorem setCore {bufs : List BufEntry} {gtlb : List TlbEntry} (hbufs : ∀ e ∈ bufs, e = codeEntry)
    (hgtlb : ∀ e ∈ gtlb, e.has codeKey = true → e.t = 0 ∧ e.f = 1) :
    Fetching m (s.setCore 0 { s.core 0 with gtlb := gtlb, bufs := bufs }) where
  accessed := h.accessed.trans (.setOwn h.own_eq.symm gtlb bufs)
  hart := h.hart
  bufs := by rw [State.core_setCore_self]; exact hbufs
  copies := by
    rw [State.core_setCore_self]
    exact fun e he => he.elim (fun hu => h.copies e (.inl hu)) (hgtlb e)
  page := h.page

theorem cacheEntry : Fetching m (s.cacheEntry codeEntry) := by
  have hact := h.activate (s.portBanks 0 codeEntry.part (codeEntry.base.toNat + 32 * codeEntry.idx) 32)
  unfold State.cacheEntry
  rw [show s.cur.core.toNat = 0 from h.own_eq]
  refine hact.setCore (fun e he => ?_) fun e he => hact.copies e (.inr he)
  rcases List.mem_cons.mp he with rfl | hin
  · rfl
  · exact hact.bufs e hin

/-! ## The buffer (R253, R255) -/

theorem bufEntry (hm : EntryIn m) : ∃ t, s.bufEntry 5 = (codeEntry, t) ∧ Fetching m t := by
  unfold State.bufEntry
  dsimp only
  rw [show s.cur.core.toNat = 0 from h.own_eq, h.cur_part, h.btbase, h.entryNow hm]
  split
  · exact ⟨_, rfl, h.cacheEntry⟩
  next old hold =>
    rw [if_pos (h.bufs old (List.mem_of_find?_eq_some hold))]
    exact ⟨_, rfl, h⟩

theorem space (hm : EntryIn m) : ∃ t, s.space 5 = (.mem codeBuf, t) ∧ Fetching m t := by
  obtain ⟨t, hentry, ht⟩ := h.bufEntry hm
  have hlocal (c k : Nat) : t.remoteOf c 0 k = none := by
    obtain ⟨-, -, hcount, -⟩ := placedBase_part
    rw [State.remoteOf]
    dsimp only
    rw [ht.part_eq, hcount]
    rfl
  refine ⟨t, ?_, ht⟩
  rw [State.space, if_neg (by decide), if_neg (by decide), if_neg (by decide), if_neg (by decide), if_neg (by decide),
    if_neg (by decide), hentry]
  dsimp only
  rw [codeEntry_info]
  dsimp only
  rw [h.cur_part, hlocal]

/-! ## The page (R288) -/

theorem walk : s.walk codeKey = some 1 := by
  obtain ⟨e, he, hp⟩ := h.page
  have hall : ∀ e ∈ codePages, (([(1, e)].find? fun p => p.1 / 2 ^ 21 == chanTable codeKey.ch && p.2.has codeKey).map fun p =>
      p.1 % 2 ^ 21) = some 1 := by decide +kernel
  rw [State.walk, hp]
  exact hall e he

theorem pte_has : (s.pte 0 1).has codeKey = true := by
  obtain ⟨e, he, hp⟩ := h.page
  have hall : ∀ e ∈ codePages, e.has codeKey = true := by decide +kernel
  rw [pte_of_single hp]
  exact hall e he

/-- A fetch may set `A` of the page. -/
theorem touchPte (a : Bool) : Fetching m (s.setPte 0 1 ((s.pte 0 1).touch a false)) where
  accessed := h.accessed.trans (.touchPte s 0 1 a false)
  hart := h.hart
  bufs := h.bufs
  copies := h.copies
  page := by
    obtain ⟨e, he, hp⟩ := h.page
    have hall : ∀ e ∈ codePages, ∀ a, e.touch a false ∈ codePages ∧
        tset .reset [(1, e)] 1 (e.touch a false) = [(1, e.touch a false)] := by decide +kernel
    obtain ⟨hmem, hset⟩ := hall e he a
    refine ⟨_, hmem, ?_⟩
    rw [pte_of_single hp, State.setPte, hp]
    exact hset

theorem fillTlb {e : TlbEntry} (ht : e.t = 0) (hf : e.f = 1) (k : PageKey) : Fetching m (s.fillTlb false e k) := by
  have hnew (l : List TlbEntry) (hl : ∀ e ∈ l, e.has codeKey = true → e.t = 0 ∧ e.f = 1) :
      ∀ x ∈ e :: l, x.has codeKey = true → x.t = 0 ∧ x.f = 1 := fun x hx hhas => by
    rcases List.mem_cons.mp hx with rfl | hin
    · exact ⟨ht, hf⟩
    · exact hl x hin hhas
  have hgather : ∀ x ∈ gatherPut e (s.core 0).gtlb k, x.has codeKey = true → x.t = 0 ∧ x.f = 1 := fun x hx => by
    refine hnew (s.core 0).gtlb (fun x hx => h.copies x (.inr hx)) x ?_
    rw [gatherPut] at hx
    rcases List.mem_append.mp hx with hx | hx
    · rcases List.mem_cons.mp (List.mem_of_mem_take hx) with rfl | hin
      · exact List.mem_cons_self
      · exact List.mem_cons_of_mem _ (List.mem_filter.mp hin).1
    · exact List.mem_cons_of_mem _ (List.mem_filter.mp hx).1
  have hmicro : ∀ x ∈ tlbPut 8 e s.cur.utlb k, x.has codeKey = true → x.t = 0 ∧ x.f = 1 := fun x hx => by
    refine hnew s.cur.utlb (fun x hx => h.copies x (.inl hx)) x ?_
    rcases List.mem_cons.mp (List.mem_of_mem_take hx) with rfl | hin
    · exact List.mem_cons_self
    · exact List.mem_cons_of_mem _ (List.mem_filter.mp hin).1
  have hcore := h.setCore (bufs := (s.core 0).bufs) (fun e he => h.bufs e he) hgather
  unfold State.fillTlb
  rw [show s.cur.core.toNat = 0 from h.own_eq]
  exact
    { accessed := hcore.accessed.trans (.setCur rfl)
      hart := h.hart
      bufs := hcore.bufs
      copies := fun x hx => hx.elim (hmicro x) fun hg => hcore.copies x (.inr hg)
      page := h.page }

theorem translate : ∃ t, s.translate false codeKey false = (some 1, t) ∧ Fetching m t := by
  rw [translate_eq, h.walk]
  cases hhit : s.tlbHit false codeKey with
  | none =>
    refine ⟨_, rfl, ?_⟩
    exact (h.touchPte true).fillTlb rfl rfl codeKey
  | some e =>
    have hin : (e ∈ s.cur.utlb ∨ e ∈ (s.core 0).gtlb) ∧ e.has codeKey = true := by
      rw [State.tlbHit, show s.cur.core.toNat = 0 from h.own_eq] at hhit
      rcases Option.or_eq_some_iff.mp hhit with hu | ⟨-, hg⟩
      · exact ⟨.inl (List.mem_of_find?_eq_some hu), (List.find?_some hu :)⟩
      · exact ⟨.inr (List.mem_of_find?_eq_some hg), (List.find?_some hg :)⟩
    obtain ⟨ht, hf⟩ := h.copies e hin.1 hin.2
    have hchoice : s.tlbChoice codeKey (some e) = (true, s) := by
      rw [State.tlbChoice, h.walk, hf]
      rfl
    rw [hchoice]
    dsimp only
    rw [if_pos rfl, State.translateBy, ht, hf, if_pos h.pte_has]
    refine ⟨_, rfl, Fetching.fillTlb ?_ rfl rfl codeKey⟩
    show Fetching m (if e.a && (e.d || !false) then s else s.setPte 0 1 ((s.pte 0 1).touch (!e.a) (false && !e.d)))
    split
    · exact h
    · exact h.touchPte _

end Fetching

end Sys2Proof.Machine
end

section
/-! SUPPORT. The parcels of a placed instruction, and the step that runs it (R56, R57). -/

namespace Sys2Proof.Machine
open Sys2Proof.Claims

/-! ## Parcels of the placed instruction (R56, R57) -/

/-- The parcel of a memory at byte `2 k` of the placed page. -/
def parcelAt (m : List Host.Cell) (k : Nat) : Nat :=
  leNat [Memory.get m (65536 + 2 * k), Memory.get m (65536 + 2 * k + 1)]

/-- The places of the first parcels of the placed buffer. -/
theorem codeBuf_places : ∀ k < 4, lineCuts (2 * k) 2 = [(2 * k, 2)] ∧ codeBuf.locate (2 * k) = (0, 2 * k) := by
  decide +kernel

namespace Fetching

variable {m : List Host.Cell} {s : State} (h : Fetching m s)

include h

theorem pc_eq : s.cur.pc = BitVec.ofNat 64 (5 * 2 ^ 40) :=
  (congrArg Hart.pc h.hart :).trans placedBase_cur.2.2.2.2.1

theorem ifetch_eq : s.cur.ifetch = [] := (congrArg Hart.ifetch h.hart :).trans placedBase_cur.2.2.1

theorem poison_eq : s.poison = [] := h.accessed.poison_eq.trans placedBase_poison

theorem locatePieces {k : Nat} (hk : k < 4) : ∃ t, Fetching m t ∧
    s.locatePieces [] false 5 (.mem codeBuf) false [] [(2 * k, 2)] =
      (.ok ([⟨2 * k, 2, .pkg (65536 + 2 * k), false, []⟩], [(codeKey, 1)]), t) := by
  obtain ⟨t, htrans, ht⟩ := h.translate
  have hmig : t.migrated 0 1 (2 * k % 2 ^ 16 / 256) = 1 := by
    have hnone : t.migrations = [] := (congrArg State.migrations ht.accessed.rest :).trans placedBase_migrations
    rw [State.migrated, hnone]
    rfl
  have hkey : (⟨s.cur.part, codeBuf.owner, 5, 0, 2 * k / 2 ^ 16⟩ : PageKey) = codeKey := by
    rw [h.cur_part, show 2 * k / 2 ^ 16 = 0 by omega]
    rfl
  have hframe : s.pageFrame [] false codeKey false = (some 1, [(codeKey, 1)], t) := by
    rw [State.pageFrame]
    dsimp only [Pages.frame?, List.find?, Option.map]
    rw [htrans]
    rfl
  have hplace : s.locatePiece [] false 5 (.mem codeBuf) false (2 * k) =
      (some (.pkg (65536 + 2 * k)), [(codeKey, 1)], t) := by
    rw [State.locatePiece]
    dsimp only
    rw [(codeBuf_places k hk).2]
    dsimp only
    rw [hkey, hframe]
    dsimp only [Option.map]
    rw [show chanTable 0 = 0 from rfl, hmig, physAddr, show 0 * 2 ^ 37 + 1 * 2 ^ 16 + 2 * k % 2 ^ 16 = 65536 + 2 * k by omega]
  refine ⟨t, ht, ?_⟩
  rw [State.locatePieces, hplace]
  rfl

omit h in
theorem check {k : Nat} (hk : k < 4) :
    (⟨5, (2 * k : Nat), 2, 2, .exec, false, true⟩ : Access1).check s (.mem codeBuf) = none := by
  have hallows : (Space.mem codeBuf).allows s .exec = true := rfl
  have hlen : (Space.mem codeBuf).len s = 65536 := rfl
  unfold Access1.check
  dsimp only
  rw [hlen, hallows, if_neg (by simp), if_neg (by simp), if_neg (by omega), if_neg (by omega), if_neg (by omega),
    if_neg (by simp), if_neg (by simp)]

theorem admitsPiece {p : Piece1} {k : Nat} (hk : k < 4) (hp : p.loc = .pkg (65536 + 2 * k)) :
    s.admitsPiece 0 0 p = true := by
  have htable : paTable (65536 + 2 * k) = 0 := by
    rw [paTable]
    omega
  have hadmits (t : Nat) (ht : t ∈ [16, 0]) : s.admits t 0 0 0 = true := by
    have haccess : s.access = placedBase.access := (congrArg State.access h.accessed.rest :)
    rw [State.admits, haccess]
    exact placedBase_admits t ht
  rw [State.admitsPiece, hp, Loc.targets, htable, h.cur_part]
  exact List.all_eq_true.mpr hadmits

/-- A parcel of the placed instruction is reached at its bytes. -/
theorem reachOne (hm : EntryIn m) {k : Nat} (hk : k < 4) : ∃ t, Fetching m t ∧
    s.reachOne ⟨addrIdx s.cur.pc, .exec, false, true, false⟩ (scalarUnit s.cur.pc (2 * k) 2) =
      .ok (.mem codeBuf, [⟨2 * k, 2, .pkg (65536 + 2 * k), false, []⟩]) t := by
  obtain ⟨u, hspace, hu⟩ := h.space hm
  obtain ⟨t, ht, hpieces⟩ := hu.locatePieces hk
  have hidx : addrIdx s.cur.pc = 5 := by rw [h.pc_eq]; decide
  have hunit : scalarUnit s.cur.pc (2 * k) 2 = ⟨0, [], (2 * k : Nat), 2, 2⟩ := by
    have hoff : (BitVec.ofNat 64 (5 * 2 ^ 40)).toNat % 2 ^ 40 = 0 := by decide
    rw [scalarUnit, h.pc_eq, hoff, Nat.zero_add]
  have hreach : u.reach [] false ⟨5, (2 * k : Nat), 2, 2, .exec, false, true⟩ (.mem codeBuf) [] =
      (.ok ([⟨2 * k, 2, .pkg (65536 + 2 * k), false, []⟩], [(codeKey, 1)]), t) := by
    rw [State.reach, check hk]
    dsimp only
    rw [Int.toNat_natCast, (codeBuf_places k hk).1]
    exact (congrArg (fun r : Except Nat (List Piece1 × Pages) × State => match r with
      | (.error o, s1) => ((.error (cPAGE, (o : Int)) : Except (Nat × Int) (List Piece1 × Pages)), s1)
      | (.ok r, s1) => (.ok r, s1)) hpieces :)
  have hguard : t.guardPieces 0 0 [⟨2 * k, 2, .pkg (65536 + 2 * k), false, []⟩] =
      ([⟨2 * k, 2, .pkg (65536 + 2 * k), false, []⟩], t) := by
    rw [State.guardPieces, if_pos]
    rw [List.all_cons, ht.admitsPiece hk rfl]
    rfl
  have hunitBy : u.reachUnitBy 0 [] ⟨5, .exec, false, true, false⟩ (.mem codeBuf) ⟨0, [], (2 * k : Nat), 2, 2⟩ =
      .ok ([⟨2 * k, 2, .pkg (65536 + 2 * k), false, []⟩], [(codeKey, 1)]) t := by
    rw [State.reachUnitBy, hreach]
    dsimp only
    rw [show Kind.exec.request = 0 from rfl, hguard]
  have hcol : s.column = 0 := by
    rw [State.column, h.cur_core]
    rfl
  refine ⟨t, ht, ?_⟩
  rw [State.reachOne, State.reachOneBy, hidx, hunit, hspace, hcol]
  dsimp only
  rw [hunitBy]
  rfl

/-- A parcel of the placed instruction is read as it stands in memory. -/
theorem fetchParcel (hm : EntryIn m) {k : Nat} (hk : k < 4) :
    ∃ t, Fetching m t ∧ s.fetchParcel k = .ok (parcelAt m k) t := by
  obtain ⟨t, ht, hreach⟩ := h.reachOne hm hk
  have hbyte (a : Nat) : t.fetchByte a = (Memory.get m a, t) := by
    rw [State.fetchByte, ht.ifetch_eq, show t.cur.core.toNat = 0 from ht.own_eq, ht.coreByte]
    rfl
  have hpoison : t.poisonedByte 0 (65536 + 2 * k) 2 = none := by
    rw [State.poisonedByte, ht.poison_eq]
    rfl
  refine ⟨_, ht.activate [paBank (65536 + 2 * k)], ?_⟩
  rw [State.fetchParcel, hreach]
  dsimp only [MemRes.bind]
  rw [State.fetchPlace]
  dsimp only
  rw [show t.cur.core.toNat = 0 from ht.own_eq, hpoison]
  dsimp only
  rw [hbyte]
  dsimp only
  rw [hbyte]
  rfl

/-- Parcels read one after the other, as one number. -/
theorem fetchParcels (hm : EntryIn m) {x : Nat} (hx : ∀ k < 4, parcelAt m k = x / 2 ^ (16 * k) % 2 ^ 16) (j n : Nat)
    (hn : j + n ≤ 4) : ∃ t, Fetching m t ∧ s.fetchParcels j n = .ok (x / 2 ^ (16 * j) % 2 ^ (16 * n)) t := by
  induction n generalizing s j with
  | zero => exact ⟨s, h, by rw [State.fetchParcels, Nat.mul_zero, Nat.pow_zero, Nat.mod_one]⟩
  | succ n ih =>
    obtain ⟨t, ht, hfirst⟩ := h.fetchParcel hm (k := j) (by omega)
    obtain ⟨u, hu, hrest⟩ := ih ht (j + 1) (by omega)
    refine ⟨u, hu, ?_⟩
    have hsum : x / 2 ^ (16 * j) % 2 ^ 16 + 2 ^ 16 * (x / 2 ^ (16 * (j + 1)) % 2 ^ (16 * n)) =
        x / 2 ^ (16 * j) % 2 ^ (16 * (n + 1)) := by
      rw [Nat.mul_succ, Nat.mul_succ, Nat.add_comm (16 * n), Nat.pow_add, Nat.pow_add, Nat.mod_mul, Nat.div_div_eq_div_mul]
    rw [State.fetchParcels, hfirst]
    dsimp only [MemRes.bind]
    rw [hrest, hx j (by omega)]
    exact congrArg (MemRes.ok · u) hsum

end Fetching

/-! ## The placed memory -/

theorem entryIn_placedMem (nbits w : Nat) : EntryIn (placedMem nbits w) := by
  intro j hj
  have hbyte (i : Nat) (hi : i < 8) : Memory.get (placedMem nbits w) (160 + 8 * j + i) =
      placedEntryBytes.getD (8 * j + i) 0 := by
    rw [placedMem, Memory.get_write, if_neg (by omega), Memory.get_write, if_pos ⟨by omega, by
      rw [show placedEntryBytes.length = 32 from rfl]; omega⟩, show 160 + 8 * j + i - 160 = 8 * j + i by omega]
  have hentry : ∀ j < 4, leNat ((List.range 8).map fun i => placedEntryBytes.getD (8 * j + i) 0) = placedEntry j := by
    decide +kernel
  rw [← hentry j hj]
  exact congrArg leNat (List.map_congr_left fun i hi => hbyte i (List.mem_range.mp hi))

theorem parcelAt_placedMem (nbits w : Nat) {k : Nat} (hk : k < 4) :
    parcelAt (placedMem nbits w) k = w % 2 ^ nbits / 2 ^ (16 * k) % 2 ^ 16 := by
  have hbyte (i : Nat) (hi : i < 8) : Memory.get (placedMem nbits w) (65536 + i) =
      BitVec.ofNat 8 (w % 2 ^ nbits / 256 ^ i) := by
    rw [placedMem, Memory.get_write, leBytes_length, if_pos (by omega), show 65536 + i - 65536 = i by omega,
      leBytes_getD hi]
  have hpow (i : Nat) : (256 : Nat) ^ (2 * i) = 2 ^ (16 * i) := by rw [Nat.pow_mul, Nat.pow_mul]
  rw [parcelAt, hbyte (2 * k) (by omega), Nat.add_assoc, hbyte (2 * k + 1) (by omega), Nat.pow_succ, hpow,
    ← Nat.div_div_eq_div_mul]
  generalize w % 2 ^ nbits / 2 ^ (16 * k) = y
  show (BitVec.ofNat 8 y).toNat + 256 * ((BitVec.ofNat 8 (y / 256)).toNat + 256 * 0) = _
  rw [BitVec.toNat_ofNat, BitVec.toNat_ofNat]
  omega

/-! ## The step that runs it (R57) -/

/-- The placed instruction is fetched whole. -/
theorem fetch_placed {n : Nat} (nbits w : Nat) (hlen : lengthOf (w % 2 ^ nbits) = n) (hn : 2 ≤ n)
    (hfits : w % 2 ^ nbits < 256 ^ n) :
    ∃ t, Fetching (placedMem nbits w) t ∧ State.fetch (placedState (placedMem nbits w)) = .got n (w % 2 ^ nbits) t := by
  have hm := entryIn_placedMem nbits w
  have hparcel := fun k hk => parcelAt_placedMem nbits w (k := k) hk
  generalize hx : w % 2 ^ nbits = x at *
  obtain ⟨s1, h1, hfirst⟩ := (fetching_placed (placedMem nbits w)).fetchParcel hm (k := 0) (by decide)
  rw [hparcel 0 (by decide), Nat.mul_zero, Nat.pow_zero, Nat.div_one] at hfirst
  have hhalves : n = 2 ∨ n = 4 ∨ n = 8 := by
    have := lengthOf_cases x
    omega
  obtain ⟨t, ht, hrest⟩ := h1.fetchParcels hm hparcel 1 (n / 2 - 1) (by omega)
  have hwhole : x % 2 ^ 16 + 2 ^ 16 * (x / 2 ^ (16 * 1) % 2 ^ (16 * (n / 2 - 1))) = x := by
    have hpow : 2 ^ 16 * 2 ^ (16 * (n / 2 - 1)) = 256 ^ n := by
      rcases hhalves with rfl | rfl | rfl <;> rfl
    rw [Nat.mul_one, ← Nat.mod_mul, hpow, Nat.mod_eq_of_lt hfits]
  refine ⟨t, ht, ?_⟩
  rw [State.fetch, hfirst]
  dsimp only
  rw [lengthOf_mod _ _ (by decide), hlen, if_neg (by omega), hrest]
  exact congrArg (Fetched.got n · t) hwhole

theorem placed_turn : (State.reset.withFetchWord 0 0).cur.status = .running ∧
    (State.reset.withFetchWord 0 0).cur.request = none ∧ (State.reset.withFetchWord 0 0).agenda = [] ∧
    (State.reset.withFetchWord 0 0).devTurn = false := by decide +kernel

theorem Fetching.asPlaced {nbits w : Nat} {t : State} (h : Fetching (placedMem nbits w) t) : AsPlaced w nbits t := by
  have hplaced := placed_eq nbits w
  have hcur : (State.reset.withFetchWord nbits w).cur = { t.cur with utlb := [] } :=
    (congrArg State.cur hplaced :).trans h.hart.symm
  have hkeep : t.asBefore (placedState (placedMem nbits w)) = { State.reset.withFetchWord nbits w with devTurn := true } :=
    h.accessed.rest.trans hplaced.symm
  obtain ⟨hrun, -, hagenda, -⟩ := placed_turn
  unfold AsPlaced
  dsimp only
  rw [hcur]
  refine ⟨rfl, rfl, rfl, rfl, rfl, rfl, ?_, (congrArg State.mem hkeep :), (congrArg State.home hkeep :),
    (congrArg State.host hkeep :), (congrArg State.parts hkeep :), (congrArg State.rest hkeep :), ?_⟩
  · have hstatus : t.cur.status = (State.reset.withFetchWord nbits w).cur.status := (congrArg Hart.status hcur :).symm
    rw [hstatus, State.withFetchWord_bytes]
    exact hrun
  · have hempty : t.agenda = (State.reset.withFetchWord nbits w).agenda := (congrArg State.agenda hkeep :)
    rw [hempty, State.withFetchWord_bytes]
    exact hagenda

/-- Settles O57: the fetch keeps what `Fetching` says, reads the parcels of the encoding, and the decoder gives the
instruction back. -/
theorem placedRuns : Obligations.PlacedRuns := by
  unfold Obligations.PlacedRuns
  intro i c hc hwf
  obtain ⟨hdec, hlen, h2, hfits⟩ := roundTrip i c hc hwf
  have hbits : c.bits % 2 ^ (8 * c.len) = c.bits := by
    rw [Nat.pow_mul]
    exact Nat.mod_eq_of_lt hfits
  obtain ⟨t, ht, hfetch⟩ := fetch_placed (8 * c.len) c.bits (hbits.symm ▸ hlen) h2 (hbits.symm ▸ hfits)
  rw [hbits] at hfetch
  refine ⟨t, ht.asPlaced, ?_⟩
  obtain ⟨hrun, hreq, hagenda, hturn⟩ := placed_turn
  rw [step_of_issues, runCur_of_no_request, placed_eq]
  · rw [State.runFetched, show State.fetch { placedBase with mem := placedMem (8 * c.len) c.bits } = _ from hfetch]
    dsimp only
    rw [hdec]
  all_goals rw [State.withFetchWord_bytes]
  · exact hrun
  · exact hreq
  · exact hrun
  · exact hagenda
  · exact hturn

end Sys2Proof.Machine
end
